-- ==== Sys2Proof/Word.lean ====
section
/-! DEFINITION. The word types of the NL8400 and their plainest arithmetic. -/

namespace Sys2Proof

/-- A management word: 32 bits, little-endian in packets (R7). -/
abbrev Word := BitVec 32

/-- One byte. -/
abbrev Byte := BitVec 8

/-- A sparse table of plain data: key and value pairs, keys strictly rising.
An unlisted key stands for the value the reader of the table names. -/
abbrev KMap (α : Type) := List (Nat × α)

end Sys2Proof
end

