-- ==== Sys2Proof/Syntax.lean ====
section
/-! DEFINITION. The commands of the block: one constructor per row of spec/opcode_table.json, with what the
command carries. -/

namespace Sys2Proof

/-! ### What commands carry

Values on a link or a bus are given as the spec lays them out; a received checksum is the value on the line,
so that a corrupted field is a field whose checksum does not match. Bytes are numbers below 256. -/

/-- Capability set of R73. -/
structure Cap where
  role : Nat
  stepping : Nat
  verMin : Nat
  verMax : Nat
  monument : Nat
  feed : Nat
  ack : Bool
  feReq : Bool
  feRefused : Bool
  ansReq : Bool
  crc : Nat
deriving DecidableEq, Repr

/-- Delay-measurement set of R80. -/
structure Dm where
  response : Bool
  seq : Nat
  turn : Nat
  crc : Nat
deriving DecidableEq, Repr

/-- Delay-announce set of R82. -/
structure Da where
  acc : Nat
  far : Nat
  accValid : Bool
  farValid : Bool
  crc : Nat
deriving DecidableEq, Repr

/-- Frame header of R96. -/
structure Header where
  seq : Nat
  tick : Nat
  sender : Nat
  fmt : Nat
  flags : Nat
  epoch : Nat
  slots : Nat
  msize : Nat
  hcrc : Nat
deriving DecidableEq, Repr

/-- Arm entry of R99. -/
structure ArmEntry where
  n : Nat := 0
  aflags : Nat := 0
  t : Nat := 0
  frac : Nat := 0
  trim : Nat := 0
  hold : Nat := 0
  apply : Nat := 0
  epoch : Nat := 0
  acrc : Nat := 0
deriving DecidableEq, Repr

/-- Safety PDU of R100; `rsv3` and `rsv10` are byte 3 and bytes 10 to 11 as received. -/
structure Pdu where
  chan : Nat := 0
  cmd : Nat := 0
  arms : Nat := 0
  rsv3 : Nat := 0
  cnt : Nat := 0
  src : Nat := 0
  rsv10 : Nat := 0
  scrc : Nat := 0
deriving DecidableEq, Repr

/-- Management slot of R104; `area` holds the record bytes in use, the rest of the record area is 0x00 fill. -/
structure MgmtSlot where
  kind : Nat := 0
  used : Nat := 0
  area : List Nat := []
  mcrc : Nat := 0
deriving DecidableEq, Repr

/-- Telemetry slot of R110. -/
structure TeleSlot where
  vs : Nat := 0
  temp : Nat := 0
  fsum : Nat := 0
  epoch : Nat := 0
  wr : Nat := 0
  crc : Nat := 0
deriving DecidableEq, Repr

/-- A Traverse frame (R94). -/
structure Frame where
  hdr : Header
  arms : List ArmEntry
  pduX : Pdu
  pduY : Pdu
  mgmt : MgmtSlot
  slots : List TeleSlot
  wcount : Nat
  rcrc : Nat
deriving DecidableEq, Repr

/-! ### Messages of the Twin and Baseline links -/

/-- HEARTBEAT of R408. -/
structure Heartbeat where
  tick : Nat
  seq : Nat
  epoch : Nat
  state : Nat
  mode : Nat
  m : Bool
  pref : Bool
  fault : Bool
  idcrc : Nat
  cfgcrc : Nat
deriving DecidableEq, Repr

/-- SHARE of R408. -/
structure Share where
  conv : Nat
  pass : Nat
  tick : Nat
  res : List Nat
deriving DecidableEq, Repr

/-- DIGEST of R408. -/
structure Digest where
  seq : Nat
  tick : Nat
  crc : Nat
deriving DecidableEq, Repr

/-- The summary of one arm (R136, R408). -/
structure Summary where
  missing : Bool := false
  used : Bool := false
  k : Nat := 0
  h : Nat := 0
  crc : Nat := 0
deriving DecidableEq, Repr

/-- CONTROL of R408. -/
structure Control where
  kind : Nat
  tick : Nat
deriving DecidableEq, Repr

/-- An order-generator channel beside its registers (R233 to R236): y, r, J and J_pend in binary64, the values of SET,
RATE and RR that are in force in binary32, which of the three registers has been written since the last step, and the y that
was written to the output table at the last cut-off (R237). -/
structure OgSt where
  y : Nat := 0
  r : Nat := 0
  j : Nat := 0
  jPend : Nat := 0
  seg : Nat := 0
  pend : Bool := false
  set : Nat := 0
  rate : Nat := 0
  rr : Nat := 0
  newSet : Bool := false
  newRate : Bool := false
  newRr : Bool := false
  out : Nat := 0
deriving DecidableEq, Repr

/-- A test-signal generator beside its registers (R238): the START tick taken at ARM, the shift register, and the value of the last
cut-off. -/
structure InjSt where
  start : Nat := 0
  lfsr : Nat := 0
  value : Nat := 0
deriving DecidableEq, Repr

/-- A repetitive channel beside its registers (R241 to R243): position, cut-offs for which the tracked period has
differed, the tracked period that is due, the last output, and a PER that waits for a later cut-off. -/
structure RcSt where
  j : Nat := 0
  perRun : Nat := 0
  perDue : Option Nat := none
  u : Nat := 0
deriving DecidableEq, Repr

/-- A candidate of a minimum-select group: integrator in binary64, input of the last step in binary32, and whether it
starts at its next step (R245). -/
structure MsCand where
  i : Nat := 0
  e : Nat := 0
  starts : Bool := false
deriving DecidableEq, Repr

/-- A minimum-select group beside its registers: candidates by number, last output in binary64, last status word, and
whether it has ever had a winner (R244, R245). -/
structure MsSt where
  cand : KMap MsCand := []
  u : Nat := 0
  status : Nat := 0
  won : Bool := false
deriving DecidableEq, Repr

/-- The plausibility check of an arm beside its registers (R246): model state in binary64, current latched at the last
cut-off, n of the last two ticks in units of 1/65536, the members with a usable copy in the last tick, and
whether the check was on at the last cut-off. -/
structure PlSt where
  vhat : Nat := 0
  cur : Nat := 0
  n1 : Nat := 0
  n2 : Nat := 0
  members : List Nat := []
  resid : Nat := 0
  resync : Bool := false
  live : Bool := false
deriving DecidableEq, Repr

/-- A tracker beside its registers (R247, R248), in binary64: θ, ω, I, the last amplitude, and the runs of steps with
|q| below and not below the threshold. -/
structure AngSt where
  theta : Nat := 0
  omega : Nat := 0
  i : Nat := 0
  amp : Nat := 0
  inRun : Nat := 0
  outRun : Nat := 0
deriving DecidableEq, Repr

/-- The units of 09_control_functions.md beside their registers. `bad` lists pool entries with an uncorrectable
error. -/
structure CfSt where
  og : KMap OgSt := []
  inj : KMap InjSt := []
  rc : KMap RcSt := []
  ms : KMap MsSt := []
  pl : KMap PlSt := []
  ang : KMap AngSt := []
  bad : List Nat := []
deriving DecidableEq, Repr

/-- The Levelling state of an arm that STATE carries (R252): last issued entry, repeat count, rest-band counter. -/
structure ArmShare where
  last : ArmEntry
  repeats : Nat
  zeroRun : Nat
deriving DecidableEq, Repr

/-- STATE of R252: the tick of its cut-off, dirty 64-byte lines with addresses, the Levelling state of each arm, the
map entries marked ABSENT (64p + s), the order-generator states, and in JOIN the
states of all units with the registers that hold them; `last` says that the sweep is complete and no dirty line
remains (R264). -/
structure StateMsg where
  tick : Nat
  lines : List (Nat × List Nat)
  arms : List ArmShare
  absent : List Nat
  og : List OgSt
  units : Option (CfSt × List Nat)
  last : Bool
deriving DecidableEq, Repr

/-- TICKALIGN of R364. -/
structure TickAlign where
  tick : Nat
  period : Nat
  sec : Nat
  ofs : Nat
  depth : Nat
  aligned : Bool
  txofs : Nat
deriving DecidableEq, Repr

/-! ### Management -/

/-- Where a request came from, and where its reply goes (R333, R336, R370). -/
inductive Origin where
  /-- PCI Express queue q, with RSP_MAX and RSP_ADDR of the submission entry. -/
  | pcie (q rspMax rspAddr : Nat)
  /-- A UDP source, its address and port as one number. -/
  | udp (src : Nat)
  /-- A request that another Datum of the cluster forwarded: entry position and origin key. -/
  | fwd (entry key : Nat)
  /-- A relayed message on port q of a Stake: the Datum to answer and the MSGID. -/
  | relay (q dest msgId : Nat)
deriving DecidableEq, Repr

/-- A request as the meaning of its opcode takes it: origin and TAG. -/
structure Req where
  origin : Origin
  tag : Nat
deriving DecidableEq, Repr

/-- A request packet (R332). -/
structure Packet where
  opcode : Nat
  tag : Nat
  len : Nat
  flags : Nat
  txid : Nat
  params : List Nat
  pcrc : Nat
deriving DecidableEq, Repr

/-- A reply (R332). -/
structure Reply where
  tag : Nat
  status : Nat
  rflags : Nat
  data : List Nat
  rcrc : Nat
deriving DecidableEq, Repr

/-- What a MGMT message carries (R364). -/
inductive MgmtBody where
  | request (p : Packet)
  | reply (r : Reply)
deriving DecidableEq, Repr

/-- A MGMT message (R364, R370). -/
structure MgmtMsg where
  entry : Nat
  dest : Nat
  key : Nat
  body : MgmtBody
deriving DecidableEq, Repr

/-- How a relay addresses Stakes (R106, R335). -/
structure Target where
  ports : Nat
  mode : Nat
  addr : Nat
  monument : Nat
deriving DecidableEq, Repr

/-- What the flash holds of adoption (R354): monument IDs by 64p + slot in a Datum; FEED, slot, arm and index in a
Stake. -/
structure AdoptStore where
  table : List (Nat × Nat)
  mine : Option (Nat × Nat × Nat × Nat)
deriving DecidableEq, Repr

/-- What the supply monitor reports of VAUXS: how many levels from L1 on it has been below for FILT, and its value in
millivolts (R383). -/
structure VauxReport where
  below : Nat
  mv : Nat
deriving DecidableEq, Repr

/-! ### The commands -/

/-- A command of the block (R338 and the events of spec/95_what_each_step_holds.md). -/
inductive Instr where
  /-- PORN_ASSERT (R372). Assertion of the PORn pin resets everything except the retention domain. -/
  | pornAssert
  /-- RESET_RELEASE (R1). At the release of reset the device samples ROLE and the other straps and takes its role. -/
  | resetRelease (straps : Nat) (monument : Nat) (inputs : Nat)
  /-- SUPPLY_RESET (R379). VCORE below 0.70 V or VIO33 below 2.80 V holds the device in internal reset until 1 ms after both recover. -/
  | supplyReset
  /-- CLOCK_FAULT (R16). A clock that stops or deviates by more than 5 % for 10 us raises its clock fault source. -/
  | clockFault (clk : Nat)
  /-- RAIL_FAULT (R377). A rail outside its band for 10 us raises its supply fault source. -/
  | railFault (i : Nat)
  /-- TJ_MEASURE (R392). The 1 ms junction temperature measurement updates SH_MEAS.TJ and the levels of sources 14 and 15. -/
  | tjMeasure (tj : Nat)
  /-- GTIME_MOVE (R15). After a change of timing port, a Stake moves GTIME at the next tick boundary it recovers and records the change. -/
  | gtimeMove
  /-- TICK_START (R31). A Datum's tick starts at t(k), and the tick-start work of that tick is done. -/
  | tickStart (missX : Bool) (missY : Bool)
  /-- SAMPLE_INSTANT (R37). At the sample instant the ADC grid takes the epoch sample in a Datum or a Stake. -/
  | sampleInstant
  /-- FRAME_BUILD_CUTOFF (R24). At the cut-off the arm blocks of the next frame are fixed and the cut-off work of the tick is done. -/
  | frameBuildCutoff
  /-- DATUM_FRAME_RECEIVE (R124). A Datum receives a whole frame on a port and checks its closure. -/
  | datumFrameReceive (p : Nat) (f : Frame) (at' : Nat) (idles : Nat)
  /-- STAKE_FRAME_DECODE (R117). A Stake decodes a frame's header and own-arm entry and decides whether to act on it. -/
  | stakeFrameDecode (q : Nat) (f : Frame) (at' : Nat) (idles : Nat)
  /-- DA_SET_RECEIVE (R82). A DA set is received; a Stake updates its chain delay and forwards or turns it, and a Datum reports the delays. -/
  | daSetReceive (p : Nat) (d : Da)
  /-- STAKE_TICK_START (R405). A Stake's recovered or predicted tick start places the instants of the tick. -/
  | stakeTickStart
  /-- PERMIT_LOSS (R282). Three ticks without a permit frame make the Stake channel self-block. -/
  | permitLoss
  /-- LEASE_EXPIRY (R258). lease_t reaching 0 counts LS_EXPIRE and raises source 167. -/
  | leaseExpiry
  /-- TICK_LOCK_LOSS (R39). Four consecutive rejected commas clear TICK_LOCK and raise source 16. -/
  | tickLockLoss
  /-- HOLDOVER_EXPIRY (R40). After 8 holdover ticks TICK_LOCK clears and source 16 is raised. -/
  | holdoverExpiry
  /-- PERIOD_FRAME_TIMEOUT (R40). No valid period frame in time after TICKMARK makes the Stake lose lock or keep its previous period. -/
  | periodFrameTimeout
  /-- TICKMARK_RECEIVE (R39). A Stake receives a TICKMARK pair, so that the next comma may re-phase its tick; a Datum ignores it. -/
  | tickmarkReceive (q : Nat) (frame : Nat) (at' : Nat)
  /-- APPLY_INSTANT (R143). At the apply instant a Stake sets its cell state from the entry it acted on, or holds. -/
  | applyInstant
  /-- TRIM_END (R144). At the end of the trim interval the trim Stake returns to Bypassed. -/
  | trimEnd
  /-- BLOCK_PAIR_RECEIVE (R115). A Stake receives a BLOCK pair, forwards it, forces its gates off and blocks. -/
  | blockPairReceive (q : Nat) (frame : Nat) (at' : Nat)
  /-- BLOCK_PAIR_DATUM (R286). A Datum that receives a BLOCK pair counts it and raises source 183 without changing state. -/
  | blockPairDatum (p : Nat) (frame : Nat)
  /-- ISOLATED_URGENT (R62). An unpaired urgent symbol is discarded and counts URG_ISO. -/
  | isolatedUrgent (p : Nat)
  /-- CODE_VIOLATION (R65). A symbol with a code violation is forwarded as ERR and counted. -/
  | codeViolation (l : Nat) (sym : Nat) (inFrame : Bool)
  /-- COMMA_REALIGN (R76). A comma at a new word alignment is counted and takes an ACTIVE port out of ACTIVE. -/
  | commaRealign (l : Nat) (inFrame : Bool)
  /-- RXC_DETECT (R71). RXC within 300 ppm for 10 us moves the port from DETECT to BITLOCK. -/
  | rxcDetect (l : Nat)
  /-- BIT_LOCK (R70). Eight error-free training sequences move the port to SYMLOCK. -/
  | bitLock (l : Nat) (phase : Nat)
  /-- SYMBOL_LOCK (R70). Eight commas at one alignment move the port to CAPX. -/
  | symbolLock (l : Nat) (align : Nat)
  /-- CAP_SET_RECEIVE (R73). A valid CAP set is taken; it advances CAPX, is checked for feeder and partner, and may be answered. -/
  | capSetReceive (l : Nat) (c : Cap)
  /-- FAR_END_ECHO_END (R89). The echo ends when FE_REQ has been absent for 10 us and the port goes to DETECT. -/
  | farEndEchoEnd (p : Nat)
  /-- CAP_SET_PERIODIC (R76). An ACTIVE port sends a CAP set once every 1024 ticks. -/
  | capSetPeriodic (l : Nat)
  /-- DM_SET_RECEIVE (R80). A DM request is answered, or a DM response completes one delay exchange. -/
  | dmSetReceive (l : Nat) (d : Dm) (sent : Nat) (got : Nat)
  /-- BRINGUP_TIMEOUT (R70). A bring-up state that times out sends the port to WAIT or HALT. -/
  | bringupTimeout (l : Nat)
  /-- RXC_LOSS (R70). Loss of RXC for 32 ns sends a training port to WAIT or an ACTIVE port out of ACTIVE. -/
  | rxcLoss (l : Nat) (inFrame : Bool)
  /-- BLIND_RELOCK (R77). A BLIND port regains lock on the first comma and asks its partner for a CAP set. -/
  | blindRelock (p : Nat)
  /-- BLIND_TIMEOUT (R77). A BLIND port that does not relock or get a CAP set in time goes to WAIT. -/
  | blindTimeout (p : Nat)
  /-- WAIT_EXPIRY (R70). After 10 ms, or 100 ms past the retry limit, a WAIT port returns to DETECT. -/
  | waitExpiry (l : Nat)
  /-- BRINGUP_RETRY_LIMIT (R78). RETRY consecutive failed attempts raise the port's link fault once. -/
  | bringupRetryLimit (p : Nat)
  /-- PORT_RESTART (R70). Writing TRV_CTRL.RESTART sends the port to DETECT and clears CACHE_VALID. -/
  | portRestart (p : Nat)
  /-- INJECT_SINGLE (R91). Writing TRV_INJ.SINGLE inverts bit 0 of the next transmitted symbol. -/
  | injectSingle (p : Nat)
  /-- INJECT_BURST (R91). Writing TRV_INJ.BURST inverts LEN consecutive line bits. -/
  | injectBurst (p : Nat) (len : Nat)
  /-- PRBS_CLEAR (R91). Writing TRV_INJ.PRBS_CLR clears both PRBS counters. -/
  | prbsClear (p : Nat)
  /-- PRBS_CHECKER_LOCK (R90). The PRBS checker locks after 1024 error-free bits. -/
  | prbsCheckerLock (p : Nat) (bits : Nat) (errs : Nat)
  /-- PRBS_LOCK_LOSS (R90). 256 errors within 4096 bits make the checker lose lock and reseed. -/
  | prbsLockLoss (p : Nat) (bits : Nat) (errs : Nat)
  /-- TURN_CHANGE (R123). A port starts or stops turning frames at the next frame gap. -/
  | turnChange
  /-- CLOSURE_PERSIST_FAULT (R125). PERSIST consecutive closure failures raise the port's frame fault once. -/
  | closurePersistFault (p : Nat)
  /-- RELAY_REPLY_TIMEOUT (R109). A relay reply not complete within RTO ticks completes with TIMEOUT. -/
  | relayReplyTimeout (id : Nat)
  /-- ORDER_POST (R139). A write or release to LVL_ARMn_ORDER posts the arm order for the tick and may restart the select. -/
  | orderPost (a : Nat) (n : Nat) (dir : Bool) (frac : Nat)
  /-- LEVELLING_SELECT_DONE (R141). The radix select of an arm completes with its threshold and trim Stake. -/
  | levellingSelectDone (a : Nat)
  /-- ABSENT_MARK (R137). After REPMAX repeats the still-missing members are marked ABSENT. -/
  | absentMark
  /-- DEVIATION_PERSIST (R146). DEV_PERSIST consecutive deviations raise source 66 once. -/
  | deviationPersist
  /-- UNRANKED_LIMIT (R143). UNRK_LIM consecutive unranked reports raise source 69 once. -/
  | unrankedLimit
  /-- REST_BAND_ENTRY (R132). After DLY ticks of zero order output the rest band comes into force. -/
  | restBandEntry
  /-- GCMD_REFRESH (R153). After 1024 ns without a symbol the channel repeats its commanded state. -/
  | gcmdRefresh (n : Nat)
  /-- SETS_SEND (R160). A changed strength code is sent as SETS when the link has room. -/
  | setsSend (n : Nat) (reg : Nat)
  /-- GFB_STATUS_WORD (R157). A gate feedback status word is received and checked. -/
  | gfbStatusWord (n : Nat) (chips : Nat)
  /-- WORD_LOCK_CHANGE (R157). Four valid words gain word lock; two invalid words lose it. -/
  | wordLockChange (n : Nat)
  /-- EDGE_HOLD (R158). An EDGE hold is timestamped and may complete a marker pair. -/
  | edgeHold (n : Nat) (ns : Nat) (len : Nat)
  /-- STRENGTH_LIMIT_FAULT (R161). 16 wanted steps beyond the limit raise source 113. -/
  | strengthLimitFault (n : Nat)
  /-- MARKER_WINDOW_EXPIRY (R158). A change command without a marker pair in 2 us counts NOMARK. -/
  | markerWindowExpiry (n : Nat)
  /-- DESAT_TRIP (R166). A DESAT hold lasting the filter on a channel that is on trips it with SOFTOFF. -/
  | desatTrip (n : Nat)
  /-- DESAT_GLITCH (R166). A DESAT hold that ends before the filter counts GLITCH. -/
  | desatGlitch (n : Nat) (len : Nat)
  /-- LOSS_HOLD (R170). A LOSS hold is a feedback fault of the channel. -/
  | lossHold (n : Nat) (len : Nat)
  /-- FEEDBACK_FAULT (R170). SUPG or GVG at 0 for 1 us makes a feedback fault handled as a trip. -/
  | feedbackFault (n : Nat)
  /-- TRIP_WAIT_EXPIRY (R169). After WAIT a TRIP channel returns to READY if its feedback is good. -/
  | tripWaitExpiry (n : Nat)
  /-- CLEAN_EXPIRY (R169). CLEAN seconds in READY without a fault reset TRIES_USED. -/
  | cleanExpiry (n : Nat)
  /-- NOTREADY_TIMEOUT (R170). A channel not READY 10 ms after reset raises its feedback fault. -/
  | notreadyTimeout (n : Nat)
  /-- UNLATCH (R169). Writing GS_CHn_CTRL.UNLATCH moves a LATCHED channel to NOTREADY. -/
  | unlatch (n : Nat)
  /-- CELL_VOLTAGE_RESULT (R199). A cell-voltage result is converted to VCODE and compared with the OV levels. -/
  | cellVoltageResult (raw : Nat) (rawB : Nat)
  /-- OV2_BLOCK (R176). CNT consecutive results at or above OV2 block the Stake. -/
  | ov2Block
  /-- OV2_CLR (R176). Writing GS_CTRL.OV2_CLR clears the OV2 block if the voltage is below OV1_OFF. -/
  | ov2Clr
  /-- OV3_TRIGGER (R178). VCAPHW above the OV3 level for FILT+1 SAFE cycles triggers the bypass. -/
  | ov3Trigger
  /-- BYPASS_FIRE_DRIVE (R179). At DLY both firing outputs are driven high. -/
  | bypassFireDrive
  /-- BYPASS_READBACK_FAIL (R179). An output not at its driven level 1 us after DLY writes an event record. -/
  | bypassReadbackFail (path : Nat)
  /-- BYPASS_FIRE_RELEASE (R179). At DLY plus PW both firing outputs are released. -/
  | bypassFireRelease
  /-- BYPASS_CMD_ARM (R181). Writing 0xB1A5 to GS_BYP_CMD arms command firing. -/
  | bypassCmdArm (at' : Nat)
  /-- BYPASS_CMD_FIRE (R181). Writing 0x0F1E within 1 ms of arming fires the bypass. -/
  | bypassCmdFire (at' : Nat)
  /-- BYPASS_MARK_CLEAR (R181). Writing 0x0C1E clears the retained fired mark and returns the Stake to service. -/
  | bypassMarkClear
  /-- BYPASS_ARM_TIMEOUT (R181). 1 ms after arming without the fire code the command disarms. -/
  | bypassArmTimeout
  /-- SELF_TEST_START (R183). A write to GS_TEST starts a power-stage self-test or refuses it. -/
  | selfTestStart (sel : Nat) (ch : Nat)
  /-- SELF_TEST_END (R183). A self-test ends with PASS or FAIL at its result or limit. -/
  | selfTestEnd (pass : Bool)
  /-- MANUAL_MODE_WRITE (R184). A write to GS_CHn_CTRL.MAN sets manual mode or completes LOCKED. -/
  | manualModeWrite (n : Nat) (man : Bool) (manOn : Bool)
  /-- MANUAL_PULSE (R184). A write of WIDTH to GS_CHn_PULSE makes one manual on-pulse. -/
  | manualPulse (n : Nat) (width : Nat)
  /-- ADC_GRID_TRIGGER (R189). A grid instant starts a pass of a converter, or it is dropped. -/
  | adcGridTrigger (n : Nat) (at' : Nat)
  /-- ADC_SW_START (R189). Writing AD_SEQn_CTRL.SW_START triggers a pass. -/
  | adcSwStart (n : Nat)
  /-- TEV_FIRE (R54). A time-event unit fires, pulses TOUT and starts ADC sequences. -/
  | tevFire (n : Nat)
  /-- ADC_PASS_END (R190). At the end of a pass the results are written, PASSNO increases and DONE is set. -/
  | adcPassEnd (n : Nat) (raw : List Nat) (rawB : List Nat)
  /-- PAIR_MISMATCH (R196). CNT consecutive disagreements set MISMATCH; CNT agreements clear it. -/
  | pairMismatch (m : Nat)
  /-- ADC_INJECT (R192). Writing AD_INJn.START requests an injected conversion, run, preempting or dropped. -/
  | adcInject (n : Nat) (inp : Nat) (diff : Bool) (preempt : Bool)
  /-- ADC_INJECT_RESULT (R192). An injected conversion completes and sets VALID. -/
  | adcInjectResult (n : Nat) (raw : Nat)
  /-- ADC_CAL_START (R194). Writing AD_CTRL.CAL_START starts or queues self-calibration. -/
  | adcCalStart (mask : Nat)
  /-- ADC_CAL_DONE (R194). A self-calibration completes and passes or fails. -/
  | adcCalDone (n : Nat) (gain : Nat) (ofs : Nat)
  /-- ROT_CAL_START (R197). Writing AD_CTRL.ROT_START starts rotating calibration of a pair. -/
  | rotCalStart (mask : Nat)
  /-- ROT_CAL_ABORT (R198). No 16 agreeing passes within 10 ms of rejoin aborts rotating calibration. -/
  | rotCalAbort (m : Nat)
  /-- AUX_PULSE_START (R201). An auxiliary PWM pulse starts when its law allows. -/
  | auxPulseStart
  /-- AUX_PULSE_END (R201). An auxiliary PWM pulse ends at TON, TONMAX or AUXDEM low. -/
  | auxPulseEnd
  /-- AUXFLT_CUT (R202). A filtered AUXFLT rise cuts the current pulse. -/
  | auxfltCut (at' : Nat)
  /-- AUX_CUT_LIMIT (R202). FLTLIM consecutive cut periods raise source 136 once. -/
  | auxCutLimit
  /-- AUXDEM_CHANGE (R203). The filtered AUXDEM level changes. -/
  | auxdemChange (high : Bool)
  /-- FLTIN_CHANGE (R291). A filtered FLTIN level changes and its level source asserts or ends. -/
  | fltinChange (n : Nat) (high : Bool)
  /-- AUXSYNC_EDGE (R204). A received AUXSYNC edge is accepted or counted SYNC_ERR. -/
  | auxsyncEdge (at' : Nat)
  /-- SYNC_INSTANT (R204). At a sync instant AUXSYNC_OUT pulses and a mode 0 pulse may start. -/
  | syncInstant
  /-- SYNC_LOSS (R204). No accepted edge for 2 PER clears SYNC_LOCK and raises source 137. -/
  | syncLoss
  /-- TASK_DISPATCH (R219). The dispatcher starts a queued instance on a free allowed lane. -/
  | taskDispatch
  /-- TASK_END (R215). An instance ends normally at its end instruction. -/
  | taskEnd (n : Nat)
  /-- OUTPUT_WINDOW_WRITE (R215). A lane write to the output window is staged, or aborts the instance at the 65th. -/
  | outputWindowWrite (n : Nat) (addr : Nat) (v : Nat)
  /-- SIGNAL_INSTRUCTION (R218). A lane sets a flag of a slot by the signal instruction. -/
  | signalInstruction (n : Nat) (i : Nat) (flag : Nat)
  /-- CANCEL_INSTRUCTION (R222). A lane cancels a slot's work by the cancel instruction. -/
  | cancelInstruction (n : Nat) (i : Nat) (ready : Bool)
  /-- LANE_FAULT (R214). A lane fault aborts the instance and raises source 79. -/
  | laneFault (n : Nat) (cause : Nat)
  /-- NAN_RESULT (R209). A NaN result sets NAN, counts NAN_CNT and raises source 74 once per instance. -/
  | nanResult (n : Nat)
  /-- DATA_ECC_ERROR (R213). An ECC error in loop data memory is corrected or aborts the access. -/
  | dataEccError (kind : Nat) (ofs : Nat) (n : Nat)
  /-- PROGRAM_ECC_ERROR (R211). An ECC error in a fetched instruction is corrected or aborts the instance. -/
  | programEccError (n : Nat) (corrected : Bool)
  /-- SET_FLAG (R216). A write to SCH_SETFLAG sets a flag of a slot. -/
  | setFlag (i : Nat) (flag : Nat)
  /-- SLOT_CANCEL (R222). A write to SCH_CANCEL cancels a slot's work according to its state. -/
  | slotCancel (i : Nat) (ready : Bool)
  /-- HELD_INSTANCE_ENQUEUE (R221). A held instance enters its queue when an entry frees. -/
  | heldInstanceEnqueue
  /-- OVERRUN_LIMIT (R225). LIM consecutive overrun ticks raise source 71 once. -/
  | overrunLimit
  /-- SWAP_REQUEST (R226). Writing 1 to LE_BANK.SWAP_REQ schedules a bank swap at LE_SWAP_TICK. -/
  | swapRequest
  /-- SWAP_WITHDRAW (R226). Writing 0 to SWAP_REQ withdraws the swap and raises source 76. -/
  | swapWithdraw
  /-- BANK_SWAP (R226). At the swap tick running instances abort and the banks exchange. -/
  | bankSwap
  /-- OG_LOAD (R236). Writing OG_CHn_LOAD sets y and clears r of a disabled channel. -/
  | ogLoad (n : Nat) (v : Nat)
  /-- INJ_ARM (R238). Writing INJ_GENg_CTRL.ARM arms a generator for its START tick. -/
  | injArm (g : Nat)
  /-- INJ_STOP (R239). Writing INJ_GENg_CTRL.STOP stops a generator. -/
  | injStop (g : Nat)
  /-- INJ_RUN_START (R238). An armed generator starts its run at the START tick. -/
  | injRunStart
  /-- INJ_RUN_END (R238). A run ends after DUR ticks and sets DONE. -/
  | injRunEnd
  /-- RC_PERIOD_CHANGE (R242). A tracked period that has differed for 64 cut-offs takes effect. -/
  | rcPeriodChange
  /-- PLAUSIBILITY_FAIL (R246). CNT reaching TIME sets FAIL and raises the plausibility source. -/
  | plausibilityFail
  /-- TRACKER_LOCK_CHANGE (R248). LOCKT consecutive steps change a tracker's LOCK. -/
  | trackerLockChange
  /-- HEARTBEAT_RECEIVE (R253). A HEARTBEAT from the twin is taken and restores HB_OK. -/
  | heartbeatReceive (m : Heartbeat) (at' : Nat) (ok : Bool)
  /-- SHARE_RECEIVE (R254). Shared results are written into loop data memory and flag the tasks. -/
  | shareReceive (m : Share) (ok : Bool)
  /-- SHARE_TIMEOUT (R254). No SHARE by S plus TW_SHTO makes the Datum copy its own results. -/
  | shareTimeout (n : Nat)
  /-- DIGEST_RECEIVE (R255). The twin's DIGEST is compared with the Datum's own. -/
  | digestReceive (m : Digest) (ok : Bool)
  /-- SUMMARY_RECEIVE (R136). The twin's Levelling summaries are taken for the decision. -/
  | summaryReceive (tick : Nat) (arms : List Summary) (ok : Bool)
  /-- CONTROL_RECEIVE (R263). A CONTROL message for a join or handover is taken and answered. -/
  | controlReceive (m : Control) (ok : Bool)
  /-- STATE_RECEIVE (R257). A STATE message is compared in TRACK or written in JOIN. -/
  | stateReceive (m : StateMsg) (ok : Bool)
  /-- SWEEP_RECEIVE (R264). A SWEEP block is written into the joining Datum's memory. -/
  | sweepReceive (addr : Nat) (bytes : List Nat) (ok : Bool)
  /-- SWEEP_SEND (R264). The holder sends SWEEP blocks to a joining Datum while time remains before the cut-off. -/
  | sweepSend
  /-- HEARTBEAT_LOSS (R253). HBLOSS consecutive misses clear HB_OK and raise source 161. -/
  | heartbeatLoss
  /-- MATCH_WINDOW_EXPIRY (R256). No agreeing DIGEST in MWIN ticks clears M. -/
  | matchWindowExpiry
  /-- MATCH_ACQUIRE (R256). MREQ consecutive agreeing ticks set M. -/
  | matchAcquire
  /-- TWIN_SILENCE (R262). A follower without heartbeat and without twin frames for HBLOSS ticks claims the next epoch. -/
  | twinSilence
  /-- CLAIM_TIMEOUT (R262). CLAIMTO ticks in CLAIM without a change raise source 163. -/
  | claimTimeout
  /-- HANDOVER_WRITE (R263). Writing LS_CTRL.HANDOVER requests a handover from the holder. -/
  | handoverWrite
  /-- REVERT_HOLD_EXPIRY (R263). The preferred Datum requests a handover after REVHOLD of matched following. -/
  | revertHoldExpiry
  /-- HANDOVER_RELEASE (R263). At tick h the holder releases the lease and enters FOLLOW. -/
  | handoverRelease
  /-- HANDOVER_CLAIM (R263). At tick h+1 the taking Datum enters CLAIM. -/
  | handoverClaim
  /-- JOIN_WRITE (R264). Writing TW_CTRL.JOIN requests a join. -/
  | joinWrite
  /-- JOIN_COMPLETE (R264). After the sweep and last STATE are written the joining Datum enters TRACK and FOLLOW. -/
  | joinComplete
  /-- JOIN_TIMEOUT (R264). A join not complete in 10 s is abandoned with source 166. -/
  | joinTimeout
  /-- SBLK_CHANGE (R272). A filtered SBLK level change may make both channels block. -/
  | sblkChange (x : Bool) (y : Bool) (a : Bool) (b : Bool) (at' : Nat)
  /-- SRST_CHANGE (R276). A filtered SRST level change is measured as part of a reset press. -/
  | srstChange (x : Bool) (y : Bool) (a : Bool) (b : Bool) (at' : Nat)
  /-- RESET_COMPLETE (R278). A valid reset completes and each channel permits or refuses. -/
  | resetComplete
  /-- DISCREPANCY_TIMEOUT (R273). A pair in discrepancy for DISC ms raises source 179. -/
  | discrepancyTimeout (srst : Bool) (y : Bool)
  /-- PROOF_OPEN (R275). Both SBLK inputs inactive for 10 ms after a joint request prove the pair open. -/
  | proofOpen (y : Bool)
  /-- RESET_STUCK (R277). A reset input pressed for more than 5 s is stuck. -/
  | resetStuck (y : Bool)
  /-- XLINK_HEARTBEAT (R270). The safety channels exchange state and heartbeat. -/
  | xlinkHeartbeat
  /-- XLINK_TIMEOUT (R270). No heartbeat for 4 us asserts source 177. -/
  | xlinkTimeout
  /-- CHANNEL_DISAGREE (R270). States that differ for more than 2 us assert source 176. -/
  | channelDisagree
  /-- SAFE_LOCK (R279). Setting SYS_LOCK.SAFE makes each channel take and compare its copy. -/
  | safeLock (agree : Bool)
  /-- SAFE_CONFIG_CRC (R279). A failed 1 ms CRC check of a channel copy raises source 176. -/
  | safeConfigCrc
  /-- GCMD_GATE (R284). Channel Y holds GCMD static when the cell is not Off 2 us after Y blocked. -/
  | gcmdGate
  /-- FAULT_FORCE (R298). A write to FC_FORCE forces sources to assert, or completes LOCKED for class 4. -/
  | faultForce (r : Nat) (v : Nat)
  /-- WATCHDOG_FEED (R301). A write to WD_FEED feeds the watchdog or counts WD_BADFEED. -/
  | watchdogFeed (key : Nat)
  /-- WATCHDOG_EXPIRY (R301). No feed within TMO raises source 0, stops ALIVE and may reset the processor. -/
  | watchdogExpiry
  /-- RECORD_WRITE (R304). A staged record is written to the ring slot. -/
  | recordWrite
  /-- FREEZE (R309). A write to FB_CTRL.FREEZE stops or resumes ring writes. -/
  | freeze (freeze : Bool)
  /-- FREEZE_EXPIRY (R309). A freeze lasting FRZ_MAX ends and queues a 0x07 record. -/
  | freezeExpiry
  /-- RING_CLEAR (R311). Writing CLEAR with 0b01 invalidates the ring. -/
  | ringClear
  /-- TAIL_CLEAR (R311). Writing CLEAR with 0b10 invalidates the tail. -/
  | tailClear
  /-- DR_ROW (R314). The recorder takes a row at its row instant and advances its state. -/
  | drRow (dropped : Bool) (late : List Nat)
  /-- DR_ARM (R329). Writing DR_CTRL.ARM checks the settings and arms the recorder. -/
  | drArm
  /-- DR_STOP (R320). Writing DR_CTRL.STOP stops the recorder. -/
  | drStop
  /-- DR_SWTRIG (R319). Writing DR_CTRL.SWTRIG makes a software trigger event. -/
  | drSwtrig
  /-- DR_RELEASE (R327). Writing DR_RELEASE frees the segment of a complete record. -/
  | drRelease (rnum : Nat)
  /-- STREAM_CHUNK (R326). A record chunk is streamed when the transport takes data. -/
  | streamChunk (ecc : Nat)
  /-- UDP_REQUEST (R336). A UDP datagram carrying a request is taken, forwarded or answered from the cache. -/
  | udpRequest (port : Nat) (src : Nat) (k : Packet)
  /-- SQ_TAIL_DOORBELL (R336). A submission tail doorbell write makes the device fetch new commands. -/
  | sqTailDoorbell (q : Nat) (tail : Nat) (entries : List (Nat × Nat × Packet))
  /-- CQ_HEAD_DOORBELL (R337). A completion head doorbell write frees completion entries. -/
  | cqHeadDoorbell (q : Nat) (head : Nat)
  /-- STREAM_READ_INDEX (R337). A write to STR_RD frees stream ring entries. -/
  | streamReadIndex (i : Nat)
  /-- BAR_QUEUE_CONFIG (R337). A write to a queue or stream attachment register in BAR0. -/
  | barQueueConfig (ofs : Nat) (v : Nat)
  /-- NOP (R338). Command that does nothing and replies. -/
  | nop (r : Req)
  /-- READ (R334). Command that returns consecutive register words, clearing RC fields. -/
  | read (r : Req) (addr : Nat) (count : Nat)
  /-- WRITE (R334). Command that writes consecutive words of registers that have no row of their own. -/
  | write (r : Req) (txid : Option Nat) (addr : Nat) (words : List Nat)
  /-- MODIFY (R334). Command that read-modify-writes one word. -/
  | modify (r : Req) (txid : Option Nat) (addr : Nat) (mask : Nat) (value : Nat)
  /-- READ_WIDE (R345). Command that captures and returns a wide-read item. -/
  | readWide (r : Req) (item : Nat)
  /-- MB_REQ_WRITE (R345). A write to MB_REQ captures a wide-read item into the mailbox. -/
  | mbReqWrite (item : Nat)
  /-- PLAT_READ (R338). Command that returns bytes of the Plat table. -/
  | platRead (r : Req) (ofs : Nat) (len : Nat)
  /-- RESET_WARM (R372). Command that makes a warm reset after replying. -/
  | resetWarm (r : Req) (key : Nat)
  /-- STROBE (R342). Command that strobes the named groups. -/
  | strobe (r : Req) (groups : Nat)
  /-- STROBE_FIRE (R342). A write to STB_FIRE strobes the named groups. -/
  | strobeFire (groups : Nat)
  /-- NETCFG (R336). Command that reads or sets the network settings. -/
  | netcfg (r : Req) (sel : Nat) (data : List Nat)
  /-- TXN_BEGIN (R346). Command that opens a transaction and returns its TXID. -/
  | txnBegin (r : Req) (scope : Nat) (t : Target)
  /-- TXN_PREPARE (R349). Command that checks a local transaction or prepares a Stake-scope one. -/
  | txnPrepare (r : Req) (txid : Nat)
  /-- TXN_COMMIT (R348). Command that commits a transaction at once or for tick k. -/
  | txnCommit (r : Req) (txid : Nat) (imm : Bool) (tick : Nat)
  /-- TXN_ROLLBACK (R349). Command that rolls back a transaction. -/
  | txnRollback (r : Req) (txid : Nat)
  /-- TXN_STATUS (R346). Command that reports the state of a transaction. -/
  | txnStatus (r : Req) (txid : Nat)
  /-- TXN_SPREP (R349). Relayed command by which a Stake accepts and holds a transaction's writes. -/
  | txnSprep (r : Req) (txid : Nat) (total : Nat) (first : Bool) (writes : List (Nat × Nat))
  /-- TXN_SCOMMIT (R349). Relayed command by which a Stake schedules its held writes for tick k. -/
  | txnScommit (r : Req) (txid : Nat) (tick : Nat)
  /-- TXN_SABORT (R349). Relayed command by which a Stake discards its held writes. -/
  | txnSabort (r : Req) (txid : Nat)
  /-- TXN_IDLE_EXPIRY (R346). A transaction idle for TXN_IDLE seconds is rolled back. -/
  | txnIdleExpiry (txid : Nat)
  /-- TXN_TICK_APPLY (R348). At tick k a local transaction's writes apply and its groups strobe. -/
  | txnTickApply
  /-- TXN_STAKE_APPLY (R349). At tick k a Stake applies its committed writes or discards them. -/
  | txnStakeApply
  /-- TXN_PREPARE_TIMEOUT (R349). A prepared Stake without commit or abort within PTO discards the writes. -/
  | txnPrepareTimeout
  /-- TXN_COMMIT_COMPLETE (R349). At tick k the Datum completes a Stake-scope commit with its entries. -/
  | txnCommitComplete
  /-- RELAY (R335). Command that relays a request packet to Stakes and gathers their replies. -/
  | relay (r : Req) (t : Target) (k : Packet)
  /-- CHAIN_SCAN (R354). Command that lists the Stakes of a chain by hop. -/
  | chainScan (r : Req) (p : Nat)
  /-- RELAY_FLUSH (R338). Command that flushes the relay queues of the named ports. -/
  | relayFlush (r : Req) (ports : Nat)
  /-- LOOP_SWAP (R226). Command that requests a bank swap at a tick. -/
  | loopSwap (r : Req) (tick : Nat)
  /-- ARM_STATUS (R338). Command that returns the Levelling status of an arm. -/
  | armStatus (r : Req) (a : Nat)
  /-- FB_READ (R308). Command that returns complete Field Book records. -/
  | fbRead (r : Req) (space : Nat) (count : Nat) (first : Nat)
  /-- FB_FREEZE (R309). Command that freezes or unfreezes the Field Book ring. -/
  | fbFreeze (r : Req) (on : Nat)
  /-- DR_LIST (R338). Command that lists the recorder segments. -/
  | drList (r : Req)
  /-- DR_READ (R327). Command that returns bytes of a record. -/
  | drRead (r : Req) (rnum : Nat) (ofs : Nat) (len : Nat) (ecc : Nat)
  /-- ADC_CAL (R194). Command that starts plain or rotating calibrations. -/
  | adcCal (r : Req) (cal : Nat) (rot : Nat)
  /-- GATE_TEST (R183). Command that runs a power-stage self-test and returns its status. -/
  | gateTest (r : Req) (sel : Nat) (ch : Nat)
  /-- BYPASS_FIRE (R181). Command that fires the bypass after a matching confirmation. -/
  | bypassFire (r : Req) (code : Nat)
  /-- LEASE_STATUS (R338). Command that returns the lease and twin status. -/
  | leaseStatus (r : Req)
  /-- HANDOVER (R263). Command that requests a lease handover. -/
  | handover (r : Req)
  /-- JOIN (R264). Command that requests a join to the twin. -/
  | join (r : Req)
  /-- SAFE_STATUS (R338). Command that returns the safe-block status without clearing it. -/
  | safeStatus (r : Req)
  /-- IDENT (R353). Command that returns the identity and public key. -/
  | ident (r : Req)
  /-- ATTEST (R353). Command that signs a nonce with the device key. -/
  | attest (r : Req) (nonce : List Nat)
  /-- ADOPT (R355). Command that adopts a Stake at a port, slot, arm and index. -/
  | adopt (r : Req) (confirm : Bool) (p : Nat) (slot : Nat) (a : Nat) (idx : Nat) (monument : Nat)
  /-- ADOPTION_SCAN (R354). When a port reaches ACTIVE, Thoka scans it and confirms the Stakes in its table. -/
  | adoptionScan (p : Nat)
  /-- IMG_OPEN (R356). Command that opens an image target for loading. -/
  | imgOpen (r : Req) (target : Nat) (len : Nat)
  /-- IMG_DATA (R356). Command that writes image bytes. -/
  | imgData (r : Req) (ofs : Nat) (bytes : List Nat)
  /-- IMG_CHECK (R357). Command that verifies an image and its compatibility. -/
  | imgCheck (r : Req)
  /-- IMG_ACTIVATE (R358). Command that activates new firmware in trial by a firmware reset. -/
  | imgActivate (r : Req) (target : Nat)
  /-- IMG_STATUS (R338). Command that returns the image versions and trial state. -/
  | imgStatus (r : Req)
  /-- FIRMWARE_CONFIRM (R358). New firmware confirms its slot after its self-checks. -/
  | firmwareConfirm
  /-- TRIAL_TIMEOUT (R358). Without confirmation in 10 s the boot ROM restarts the old slot. -/
  | trialTimeout (crashed : Bool)
  /-- BOOT_IMAGE_CHECK (R373). The boot ROM reads the header and checks the active image, falling back or entering recovery. -/
  | bootImageCheck (hdr : List Nat) (slot0 : List Nat) (slot1 : List Nat)
  /-- CONFIG_LOAD (R404). Thoka loads the configuration store, strobes every group and sets the locks. -/
  | configLoad (writes : List (Nat × Nat)) (locks : Nat) (store : AdoptStore)
  /-- CONFIG_PARITY_SCRUB (R343). A parity mismatch found by the scrubber is recorded and raises source 192. -/
  | configParityScrub (addr : Nat) (shadow : Bool)
  /-- LOCK_SET (R344). Writing 1 to a SYS_LOCK bit sets that lock. -/
  | lockSet (mask : Nat)
  /-- TIME_STEP (R47). Writing TB_CTRL.STEP loads station time or completes BUSY. -/
  | timeStep
  /-- FTRIM_WRITE (R46). A write to TB_FTRIM sets the GTIME trim within the slew limit. -/
  | ftrimWrite (v : Nat)
  /-- DISCIPLINE_HOLDOVER (R48). No valid correction for 2 s sets HOLDOVER and raises source 19. -/
  | disciplineHoldover
  /-- PTP_TX_STAMP (R53). A transmitted PTP event message is stamped, one-step or into the FIFO. -/
  | ptpTxStamp (n : Nat) (seqId : Nat) (msgType : Nat) (corr : Nat) (frac : Nat)
  /-- PTP_RX_STAMP (R53). A received PTP packet gets its receive stamp. -/
  | ptpRxStamp (n : Nat) (frac : Nat)
  /-- TICKALIGN_RECEIVE (R365). A follower takes its parent's tick start from TICKALIGN. -/
  | tickalignReceive (d : Nat) (m : TickAlign) (at' : Nat) (ok : Bool)
  /-- ALIGNMENT_LOSS (R366). No accepted TICKALIGN in 8 ticks clears ALIGNED and raises source 24. -/
  | alignmentLoss
  /-- FOLLOWER_REPHASE (R366). Four alignment errors or a new parent make the follower re-phase with TICKMARK. -/
  | followerRephase
  /-- VARS_RECEIVE (R369). A VARS message of the current tick is written to loop data memory and flagged. -/
  | varsReceive (d : Nat) (tick : Nat) (words : List (Nat × Nat)) (ok : Bool)
  /-- MGMT_FORWARD (R370). A MGMT message is routed on, executed, or its reply returned. -/
  | mgmtForward (d : Nat) (m : MgmtMsg) (ok : Bool)
  /-- FORWARD_TIMEOUT (R370). No forwarded reply within 100 ms gives TIMEOUT. -/
  | forwardTimeout (key : Nat) (tag : Nat)
  /-- SHED_STAGE_RISE (R383). VAUXS below a level for FILT raises the shedding stage. -/
  | shedStageRise (v : VauxReport)
  /-- SHED_STAGE_FALL (R383). VAUXS above the level plus HYST for HOLD lowers the stage by one. -/
  | shedStageFall (mv : Nat)
  /-- SHED_RESET_ENTRY (R386). After the S4 steps and any firing end, the device enters internal reset. -/
  | shedResetEntry
  /-- SHED_RESET_RELEASE (R386). The S4 internal reset ends when VAUXS and the supplies have recovered. -/
  | shedResetRelease (straps : Nat) (inputs : Nat)
  /-- HALT_RXC_ABSENT (R70). A port in HALT whose RXC has been absent for at least 1 ms returns to DETECT. -/
  | haltRxcAbsent (l : Nat)
  /-- RESET_STUCK_CLEAR (R277). RST_STUCK clears when both reset inputs have been released for 50 ms. -/
  | resetStuckClear (y : Bool)
  /-- ALIVE_EDGE (R300). ALIVE toggles every 0.5 ms while no cause holds, stops at the next edge that would take it low, and resumes with a rising edge after the causes end. -/
  | aliveEdge
  /-- EFFECTIVE_INSTANT (R150). A scheduled ON, OFF or SOFTOFF on GCMD reaches its effective instant, such as an ON at t + DT after a state change, and the channel's commanded state changes. -/
  | effectiveInstant (n : Nat)
  /-- TEV_PULSE_END (R54). The TOUT pulse of a time-event unit ends WID cycles after its firing. -/
  | tevPulseEnd (n : Nat)
  /-- RAIL_RETURN (R377). A rail that was out of its band returns to it, and its SH_STAT.RAIL bit clears. -/
  | railReturn (i : Nat)
  /-- RETENTION_DETECTOR (R381). VRET falling below 1.7 V makes the detector mark the retention contents lost. -/
  | retentionDetector
  /-- AUXFLT_FALL (R203). The filtered AUXFLT level falls, AUX_STAT.FLT clears, and periods are no longer cut from their start. -/
  | auxfltFall
  /-- REPLY_CACHE_EXPIRY (R336). A cached UDP reply older than 1 s is dropped, so that a repeated TAG is executed again. -/
  | replyCacheExpiry (r : Req)
deriving DecidableEq, Repr

end Sys2Proof
end

