-- ==== Sys2Proof/WellFormed.lean ====
section
/-! DEFINITION. Which commands are well-formed: every operand in the range that the spec gives its field. Cycle counts,
arrival times, counts of bits and firmware handles have no bound. A meaning does not rely on it: a number of a part that
the device does not have changes nothing. -/

namespace Sys2Proof

/-- Bytes are numbers below 256. -/
def bytesFit (l : List Nat) : Bool := l.all (· < 2 ^ 8)

/-- Words are numbers below 2^32 (R7). -/
def wordsFit (l : List Nat) : Bool := l.all (· < 2 ^ 32)

/-- Converter codes have 16 bits (R188). -/
def codesFit (l : List Nat) : Bool := l.all (· < 2 ^ 16)

/-- Addresses or numbers with words. -/
def writesFit (l : List (Nat × Nat)) : Bool := l.all fun e => e.1 < 2 ^ 32 && e.2 < 2 ^ 32

/-- The fields of a CAP set (R73). -/
def Cap.fits (c : Cap) : Bool :=
  (c.role < 2 ^ 8) && (c.stepping < 2 ^ 8) && (c.verMin < 2 ^ 8) && (c.verMax < 2 ^ 8) && (c.monument < 2 ^ 128) &&
    (c.feed < 2 ^ 16) && c.crc < 2 ^ 16

/-- The fields of a DM set (R80). -/
def Dm.fits (d : Dm) : Bool := (d.seq < 2 ^ 8) && (d.turn < 2 ^ 32) && d.crc < 2 ^ 8

/-- The fields of a DA set (R82). -/
def Da.fits (d : Da) : Bool := (d.acc < 2 ^ 32) && (d.far < 2 ^ 32) && d.crc < 2 ^ 8

/-- The fields of a header (R96). -/
def Header.fits (h : Header) : Bool :=
  (h.seq < 2 ^ 32) && (h.tick < 2 ^ 32) && (h.sender < 2 ^ 16) && (h.fmt < 2 ^ 8) && (h.flags < 2 ^ 8) && (h.epoch < 2 ^ 32) &&
    (h.slots < 2 ^ 8) && (h.msize < 2 ^ 8) && h.hcrc < 2 ^ 32

/-- The fields of an arm entry (R99). -/
def ArmEntry.fits (e : ArmEntry) : Bool :=
  (e.n < 2 ^ 16) && (e.aflags < 2 ^ 16) && (e.t < 2 ^ 32) && (e.frac < 2 ^ 16) && (e.trim < 2 ^ 16) && (e.hold < 2 ^ 16) &&
    (e.apply < 2 ^ 16) && (e.epoch < 2 ^ 32) && e.acrc < 2 ^ 32

/-- The fields of a safety PDU (R100). -/
def Pdu.fits (p : Pdu) : Bool :=
  (p.chan < 2 ^ 8) && (p.cmd < 2 ^ 8) && (p.arms < 2 ^ 8) && (p.rsv3 < 2 ^ 8) && (p.cnt < 2 ^ 32) && (p.src < 2 ^ 16) &&
    (p.rsv10 < 2 ^ 16) && p.scrc < 2 ^ 32

/-- The fields of a management slot (R104). -/
def MgmtSlot.fits (g : MgmtSlot) : Bool := (g.kind < 2 ^ 8) && (g.used < 2 ^ 16) && bytesFit g.area && g.mcrc < 2 ^ 32

/-- The fields of a telemetry slot (R110). -/
def TeleSlot.fits (t : TeleSlot) : Bool :=
  (t.vs < 2 ^ 32) && (t.temp < 2 ^ 16) && (t.fsum < 2 ^ 16) && (t.epoch < 2 ^ 32) && (t.wr < 2 ^ 8) && t.crc < 2 ^ 16

/-- A frame has six arm entries and the number of slots that its header gives (R94 to R96). -/
def Frame.fits (f : Frame) : Bool :=
  f.hdr.fits && (f.arms.length = 6) && f.arms.all ArmEntry.fits && f.pduX.fits && f.pduY.fits && f.mgmt.fits &&
    (f.mgmt.area.length + 8 ≤ max 8 (16 * f.hdr.msize)) && (f.slots.length = f.hdr.slots) && f.slots.all TeleSlot.fits &&
    (f.wcount < 2 ^ 16) && f.rcrc < 2 ^ 32

/-- The fields of a HEARTBEAT (R408). -/
def Heartbeat.fits (m : Heartbeat) : Bool :=
  (m.tick < 2 ^ 64) && (m.seq < 2 ^ 32) && (m.epoch < 2 ^ 32) && (m.state < 4) && (m.mode < 4) && (m.idcrc < 2 ^ 32) &&
    m.cfgcrc < 2 ^ 32

/-- The fields of a SHARE (R408). -/
def Share.fits (m : Share) : Bool := (m.conv < 4) && (m.pass < 2 ^ 8) && (m.tick < 2 ^ 32) && codesFit m.res

/-- The fields of a DIGEST (R408). -/
def Digest.fits (m : Digest) : Bool := (m.seq < 2 ^ 32) && (m.tick < 2 ^ 32) && m.crc < 2 ^ 32

/-- A SUMMARY has six arms (R408). -/
def summariesFit (l : List Summary) : Bool :=
  (l.length = 6) && l.all fun x => (x.k < 2 ^ 16) && (x.h < 2 ^ 16) && x.crc < 2 ^ 32

/-- The fields of a CONTROL (R408). -/
def Control.fits (m : Control) : Bool := (m.kind < 2 ^ 8) && m.tick < 2 ^ 32

/-- The fields of a STATE (R252): six arms, sixteen order-generator channels, whole lines. -/
def StateMsg.fits (m : StateMsg) : Bool :=
  (m.tick < 2 ^ 64) && (m.lines.all fun e => (e.1 < 2 ^ 32) && (e.2.length = 64) && bytesFit e.2) && (m.arms.length = 6) &&
    (m.arms.all fun x => x.last.fits) && (m.absent.all (· < 1024)) && m.og.length = 16

/-- The fields of a TICKALIGN (R364). -/
def TickAlign.fits (m : TickAlign) : Bool :=
  (m.tick < 2 ^ 64) && (m.period < 2 ^ 16) && (m.sec < 2 ^ 64) && (m.ofs < 2 ^ 32) && (m.depth < 2 ^ 8) && m.txofs < 2 ^ 32

/-- A request's TAG has 16 bits (R332). -/
def Req.fits (r : Req) : Bool := r.tag < 2 ^ 16

/-- The fields of a request packet (R332): LEN is a multiple of 4 and counts the parameters. -/
def Packet.fits (k : Packet) : Bool :=
  (k.opcode < 2 ^ 16) && (k.tag < 2 ^ 16) && (k.len < 2 ^ 16) && (k.flags < 2 ^ 16) && (k.txid < 2 ^ 16) &&
    bytesFit k.params && k.pcrc < 2 ^ 32

/-- The fields of a reply (R332). -/
def Reply.fits (r : Reply) : Bool :=
  (r.tag < 2 ^ 16) && (r.status < 2 ^ 8) && (r.rflags < 2 ^ 8) && bytesFit r.data && r.rcrc < 2 ^ 16

/-- The fields of a MGMT message (R364): the origin key has 20 bytes. -/
def MgmtMsg.fits (m : MgmtMsg) : Bool :=
  (m.entry < 2 ^ 8) && (m.dest < 2 ^ 8) && (m.key < 2 ^ 160) &&
    match m.body with
    | .request k => k.fits
    | .reply r => r.fits

/-- The fields of a relay target (R335). -/
def Target.fits (t : Target) : Bool := (t.ports < 2 ^ 16) && (t.mode < 2 ^ 8) && (t.addr < 2 ^ 16) && t.monument < 2 ^ 128

/-- Entries of a submission queue: RSP_MAX and packet (R337). -/
def entriesFit (l : List (Nat × Nat × Packet)) : Bool := l.all fun e => (e.1 < 2 ^ 32) && (e.2.1 < 2 ^ 64) && e.2.2.fits

/-- What the flash holds of adoption (R354). -/
def AdoptStore.fits (a : AdoptStore) : Bool :=
  (a.table.all fun e => (e.1 < 1024) && e.2 < 2 ^ 128) &&
    a.mine.all fun x => (x.1 < 2 ^ 16) && (x.2.1 < 64) && (x.2.2.1 < 6) && x.2.2.2 < 1024

/-- A report of VAUXS: at most the four levels, and 16 bits (R383). -/
def VauxReport.fits (v : VauxReport) : Bool := (v.below ≤ 4) && v.mv < 2 ^ 16

/-- A command is well-formed. -/
def Instr.wellFormed : Instr → Bool
  | .pornAssert => true
  | .resetRelease straps monument inputs => (straps < 2 ^ 16) && (monument < 2 ^ 128) && (inputs < 16)
  | .supplyReset => true
  | .clockFault clk => 1 ≤ clk && clk ≤ 4
  | .railFault i => i < 8
  | .tjMeasure tj => tj < 2 ^ 16
  | .gtimeMove => true
  | .tickStart _ _ => true
  | .sampleInstant => true
  | .frameBuildCutoff => true
  | .datumFrameReceive p f _ _ => (p < 16) && f.fits
  | .stakeFrameDecode q f _ _ => (q < 2) && f.fits
  | .daSetReceive p d => (p < 16) && d.fits
  | .stakeTickStart => true
  | .permitLoss => true
  | .leaseExpiry => true
  | .tickLockLoss => true
  | .holdoverExpiry => true
  | .periodFrameTimeout => true
  | .tickmarkReceive q _ _ => q < 2
  | .applyInstant => true
  | .trimEnd => true
  | .blockPairReceive q _ _ => q < 2
  | .blockPairDatum p _ => p < 16
  | .isolatedUrgent p => p < 16
  | .codeViolation l sym _ => (l < 21) && (sym < 2 ^ 10)
  | .commaRealign l _ => l < 21
  | .rxcDetect l => l < 21
  | .bitLock l _ => l < 21
  | .symbolLock l align => (l < 21) && (align < 10)
  | .capSetReceive l c => (l < 21) && c.fits
  | .farEndEchoEnd p => p < 16
  | .capSetPeriodic l => l < 21
  | .dmSetReceive l d _ _ => (l < 21) && d.fits
  | .bringupTimeout l => l < 21
  | .rxcLoss l _ => l < 21
  | .blindRelock p => p < 16
  | .blindTimeout p => p < 16
  | .waitExpiry l => l < 21
  | .bringupRetryLimit p => p < 16
  | .portRestart p => p < 16
  | .injectSingle p => p < 16
  | .injectBurst p len => (p < 16) && (len < 2 ^ 8)
  | .prbsClear p => p < 16
  | .prbsCheckerLock p _ _ => p < 16
  | .prbsLockLoss p _ _ => p < 16
  | .turnChange => true
  | .closurePersistFault p => p < 16
  | .relayReplyTimeout _ => true
  | .orderPost a n _ frac => (a < 6) && (n < 2 ^ 16) && (frac < 2 ^ 16)
  | .levellingSelectDone a => a < 6
  | .absentMark => true
  | .deviationPersist => true
  | .unrankedLimit => true
  | .restBandEntry => true
  | .gcmdRefresh n => n < 4
  | .setsSend n reg => (n < 4) && (reg < 3)
  | .gfbStatusWord n chips => (n < 4) && (chips < 2 ^ 32)
  | .wordLockChange n => n < 4
  | .edgeHold n _ _ => n < 4
  | .strengthLimitFault n => n < 4
  | .markerWindowExpiry n => n < 4
  | .desatTrip n => n < 4
  | .desatGlitch n _ => n < 4
  | .lossHold n _ => n < 4
  | .feedbackFault n => n < 4
  | .tripWaitExpiry n => n < 4
  | .cleanExpiry n => n < 4
  | .notreadyTimeout n => n < 4
  | .unlatch n => n < 4
  | .cellVoltageResult raw rawB => (raw < 2 ^ 16) && (rawB < 2 ^ 16)
  | .ov2Block => true
  | .ov2Clr => true
  | .ov3Trigger => true
  | .bypassFireDrive => true
  | .bypassReadbackFail path => path < 2
  | .bypassFireRelease => true
  | .bypassCmdArm _ => true
  | .bypassCmdFire _ => true
  | .bypassMarkClear => true
  | .bypassArmTimeout => true
  | .selfTestStart sel ch => (sel < 4) && (ch < 4)
  | .selfTestEnd _ => true
  | .manualModeWrite n _ _ => n < 4
  | .manualPulse n width => (n < 4) && (width < 2 ^ 16)
  | .adcGridTrigger n _ => n < 4
  | .adcSwStart n => n < 4
  | .tevFire n => n < 4
  | .adcPassEnd n raw rawB => (n < 4) && codesFit raw && codesFit rawB
  | .pairMismatch m => m < 2
  | .adcInject n inp _ _ => (n < 4) && (inp < 16)
  | .adcInjectResult n raw => (n < 4) && (raw < 2 ^ 16)
  | .adcCalStart mask => mask < 16
  | .adcCalDone n gain ofs => (n < 4) && (gain < 2 ^ 18) && (ofs < 2 ^ 16)
  | .rotCalStart mask => mask < 4
  | .rotCalAbort m => m < 2
  | .auxPulseStart => true
  | .auxPulseEnd => true
  | .auxfltCut _ => true
  | .auxCutLimit => true
  | .auxdemChange _ => true
  | .fltinChange n _ => n < 8
  | .auxsyncEdge _ => true
  | .syncInstant => true
  | .syncLoss => true
  | .taskDispatch => true
  | .taskEnd n => n < 16
  | .outputWindowWrite n addr v => (n < 16) && (addr < 2 ^ 32) && (v < 2 ^ 32)
  | .signalInstruction n i flag => (n < 16) && (i < 128) && (flag < 32)
  | .cancelInstruction n i _ => (n < 16) && (i < 128)
  | .laneFault n cause => (n < 16) && (1 ≤ cause && cause ≤ 4)
  | .nanResult n => n < 16
  | .dataEccError kind ofs n => (kind < 5) && (ofs < 2097152) && (n < 17)
  | .programEccError n _ => n < 16
  | .setFlag i flag => (i < 128) && (flag < 32)
  | .slotCancel i _ => i < 128
  | .heldInstanceEnqueue => true
  | .overrunLimit => true
  | .swapRequest => true
  | .swapWithdraw => true
  | .bankSwap => true
  | .ogLoad n v => (n < 16) && (v < 2 ^ 32)
  | .injArm g => g < 4
  | .injStop g => g < 4
  | .injRunStart => true
  | .injRunEnd => true
  | .rcPeriodChange => true
  | .plausibilityFail => true
  | .trackerLockChange => true
  | .heartbeatReceive m _ _ => m.fits
  | .shareReceive m _ => m.fits
  | .shareTimeout n => n < 4
  | .digestReceive m _ => m.fits
  | .summaryReceive tick arms _ => (tick < 2 ^ 32) && (summariesFit arms)
  | .controlReceive m _ => m.fits
  | .stateReceive m _ => m.fits
  | .sweepReceive addr bytes _ => (addr < 2 ^ 32) && bytesFit bytes
  | .sweepSend => true
  | .heartbeatLoss => true
  | .matchWindowExpiry => true
  | .matchAcquire => true
  | .twinSilence => true
  | .claimTimeout => true
  | .handoverWrite => true
  | .revertHoldExpiry => true
  | .handoverRelease => true
  | .handoverClaim => true
  | .joinWrite => true
  | .joinComplete => true
  | .joinTimeout => true
  | .sblkChange _ _ _ _ _ => true
  | .srstChange _ _ _ _ _ => true
  | .resetComplete => true
  | .discrepancyTimeout _ _ => true
  | .proofOpen _ => true
  | .resetStuck _ => true
  | .xlinkHeartbeat => true
  | .xlinkTimeout => true
  | .channelDisagree => true
  | .safeLock _ => true
  | .safeConfigCrc => true
  | .gcmdGate => true
  | .faultForce r v => (r < 8) && (v < 2 ^ 32)
  | .watchdogFeed key => key < 2 ^ 16
  | .watchdogExpiry => true
  | .recordWrite => true
  | .freeze _ => true
  | .freezeExpiry => true
  | .ringClear => true
  | .tailClear => true
  | .drRow _ late => late.all (· < 64)
  | .drArm => true
  | .drStop => true
  | .drSwtrig => true
  | .drRelease rnum => rnum < 2 ^ 32
  | .streamChunk ecc => ecc < 2 ^ 32
  | .udpRequest port src k => (port < 65536) && (src < 2 ^ 144) && k.fits
  | .sqTailDoorbell q tail entries => (q < 4) && (tail < 2 ^ 16) && entriesFit entries
  | .cqHeadDoorbell q head => (q < 4) && (head < 2 ^ 16)
  | .streamReadIndex i => i < 2 ^ 32
  | .barQueueConfig ofs v => (ofs < 1048576) && (v < 2 ^ 32)
  | .nop r => r.fits
  | .read r addr count => r.fits && (addr < 2 ^ 32) && (count < 2 ^ 16)
  | .write r txid addr words => r.fits && (txid.all (· < 2 ^ 16)) && (addr < 2 ^ 32) && wordsFit words
  | .modify r txid addr mask value => r.fits && (txid.all (· < 2 ^ 16)) && (addr < 2 ^ 32) && (mask < 2 ^ 32) && (value < 2 ^ 32)
  | .readWide r item => r.fits && (item < 2 ^ 32)
  | .mbReqWrite item => item < 2 ^ 16
  | .platRead r ofs len => r.fits && (ofs < 2 ^ 32) && (len < 2 ^ 32)
  | .resetWarm r key => r.fits && (key < 2 ^ 32)
  | .strobe r groups => r.fits && (groups < 2 ^ 32)
  | .strobeFire groups => groups < 2 ^ 8
  | .netcfg r sel data => r.fits && (sel < 2 ^ 32) && bytesFit data
  | .txnBegin r scope t => r.fits && (scope < 2 ^ 32) && t.fits
  | .txnPrepare r txid => r.fits && (txid < 2 ^ 16)
  | .txnCommit r txid _ tick => r.fits && (txid < 2 ^ 16) && (tick < 2 ^ 64)
  | .txnRollback r txid => r.fits && (txid < 2 ^ 16)
  | .txnStatus r txid => r.fits && (txid < 2 ^ 16)
  | .txnSprep r txid total _ writes => r.fits && (txid < 2 ^ 16) && (total < 2 ^ 16) && writesFit writes
  | .txnScommit r txid tick => r.fits && (txid < 2 ^ 16) && (tick < 2 ^ 64)
  | .txnSabort r txid => r.fits && (txid < 2 ^ 16)
  | .txnIdleExpiry txid => txid < 2 ^ 16
  | .txnTickApply => true
  | .txnStakeApply => true
  | .txnPrepareTimeout => true
  | .txnCommitComplete => true
  | .relay r t k => r.fits && t.fits && k.fits
  | .chainScan r p => r.fits && (p < 2 ^ 32)
  | .relayFlush r ports => r.fits && (ports < 2 ^ 16)
  | .loopSwap r tick => r.fits && (tick < 2 ^ 32)
  | .armStatus r a => r.fits && (a < 2 ^ 32)
  | .fbRead r space count first => r.fits && (space < 2 ^ 32) && (count < 2 ^ 32) && (first < 2 ^ 32)
  | .fbFreeze r on => r.fits && (on < 2 ^ 32)
  | .drList r => r.fits
  | .drRead r rnum ofs len ecc => r.fits && (rnum < 2 ^ 32) && (ofs < 2 ^ 32) && (len < 2 ^ 32) && (ecc < 3)
  | .adcCal r cal rot => r.fits && (cal < 2 ^ 32) && (rot < 2 ^ 32)
  | .gateTest r sel ch => r.fits && (sel < 2 ^ 32) && (ch < 2 ^ 32)
  | .bypassFire r code => r.fits && (code < 2 ^ 32)
  | .leaseStatus r => r.fits
  | .handover r => r.fits
  | .join r => r.fits
  | .safeStatus r => r.fits
  | .ident r => r.fits
  | .attest r nonce => r.fits && (nonce.length = 16 && bytesFit nonce)
  | .adopt r _ p slot a idx monument => r.fits && (p < 2 ^ 32) && (slot < 2 ^ 32) && (a < 2 ^ 32) && (idx < 2 ^ 32) && (monument < 2 ^ 128)
  | .adoptionScan p => p < 16
  | .imgOpen r target len => r.fits && (target < 2 ^ 32) && (len < 2 ^ 32)
  | .imgData r ofs bytes => r.fits && (ofs < 2 ^ 32) && bytesFit bytes
  | .imgCheck r => r.fits
  | .imgActivate r target => r.fits && (target < 2 ^ 32)
  | .imgStatus r => r.fits
  | .firmwareConfirm => true
  | .trialTimeout _ => true
  | .bootImageCheck hdr slot0 slot1 => bytesFit hdr && bytesFit slot0 && bytesFit slot1
  | .configLoad writes locks store => writesFit writes && (locks < 2 ^ 32) && store.fits
  | .configParityScrub addr _ => addr < 2 ^ 32
  | .lockSet mask => mask < 2 ^ 32
  | .timeStep => true
  | .ftrimWrite v => v < 2 ^ 32
  | .disciplineHoldover => true
  | .ptpTxStamp n seqId msgType corr frac => (n < 4) && (seqId < 2 ^ 16) && (msgType < 16) && (corr < 2 ^ 64) && (frac < 2 ^ 16)
  | .ptpRxStamp n frac => (n < 4) && (frac < 2 ^ 16)
  | .tickalignReceive d m _ _ => (d < 4) && m.fits
  | .alignmentLoss => true
  | .followerRephase => true
  | .varsReceive d tick words _ => (d < 4) && (tick < 2 ^ 32) && writesFit words
  | .mgmtForward d m _ => (d < 4) && m.fits
  | .forwardTimeout _ tag => tag < 2 ^ 16
  | .shedStageRise v => v.fits
  | .shedStageFall mv => mv < 2 ^ 16
  | .shedResetEntry => true
  | .shedResetRelease straps inputs => (straps < 2 ^ 16) && (inputs < 16)
  | .haltRxcAbsent l => l < 21
  | .resetStuckClear _ => true
  | .aliveEdge => true
  | .effectiveInstant n => n < 4
  | .tevPulseEnd n => n < 4
  | .railReturn i => i < 8
  | .retentionDetector => true
  | .auxfltFall => true
  | .replyCacheExpiry r => r.fits

end Sys2Proof
end

