-- ==== Sys2Proof/Config.lean ====
section
/-! DEFINITION. What an implementation fixes and the spec leaves open, as constants without a value. -/

namespace Sys2Proof

/-- A value that the spec leaves open, by the number of its use (log entry 8). Nothing is known of it. -/
opaque Config.freeValue : Nat → Nat

/-- Byte `i` of the public key of the device with a monument ID (R353): the spec gives no key. -/
opaque Config.pubKey : Nat → Nat → Nat

/-- Byte `i` of the signature that the device with a monument ID makes of a message (R353): ECDSA P-256 with a key that
never leaves the device. -/
opaque Config.sign : Nat → List Nat → Nat → Nat

/-- Messages that a relay queue of a port takes beyond the first (R23): the spec states no depth. -/
opaque Config.relayExtra : Nat

/-- Installed DDR4 memory of a Datum in MiB (R351). -/
opaque Config.ddrMiB : Nat

/-- A word of a Plat entry whose content the spec does not give: entry and word (R351). -/
opaque Config.platWord : Nat → Nat → Nat

end Sys2Proof
end

