-- ==== Sys2Proof/Machine/State.lean ====
section
/-! DEFINITION. The state of an NL8400 as plain data, its reasons to stop, and the state after reset. -/

namespace Sys2Proof.Machine

/-! ### Time, roles and phases -/

/-- Station time (R45): seconds, nanoseconds below 10^9, fraction in 2^-16 ns. -/
structure Time where
  sec : Nat := 0
  ns : Nat := 0
  frac : Nat := 0
deriving DecidableEq, Repr

/-- The role of R1; `reserved` is a reserved ROLE value (R2). -/
inductive Role where
  | stake | datum | reserved
deriving DecidableEq, Repr

/-- What holds the device: PORn (R372), a reserved ROLE value (R2), a supply reset (R379), the reset of
shedding stage S4 (R386), or nothing. -/
inductive Phase where
  | porn | roleHold | supply | shed | run
deriving DecidableEq, Repr

/-! ### Timebase (02_tick_and_time.md) -/

/-- A time announcement (R49): the tick and station time of its start, and where the Stake has that tick start, in parts of
1/16 ns, once it knows. -/
structure Announce where
  sec : Nat
  ns : Nat
  frac : Nat
  tick : Nat
  start : Option Int := none
deriving DecidableEq, Repr

/-- What had been made of a tick when a Stake left it for another: whether its sample and apply instants were, and the
time-event units whose instant was (R405). -/
structure TickMade where
  tick : Nat
  sampled : Bool
  applied : Bool
  tev : List Nat
deriving DecidableEq, Repr

/-- Time base state beside its registers: R31 to R34 for a Datum, R38 to R41, R49 and R405 for a Stake. `placed` says that
the next tick start of a Datum is placed, `newAnchor` is an anchor that waits for the next tick start, `mark` says that
TICKMARK precedes the frames of this tick. `sofDue` stands from a tick start until its frames leave: whether a BLOCK pair
waits for their SOF (R63). `phase` counts the steps of 0.25 ns from cycle `tickStart` to the tick start of a Stake, `tmark`
holds the arrival of the last TICKMARK pair of each port.
Comma arrivals and spacings of a Stake are in 1/16 ns; `base` and `recd` are recovered tick starts in 1/720720 of that,
so that every mean of R83 is exact; other instants are in GTIME cycles. `moveDue` is the cycle of a change of the timing port
that GTIME has not followed yet (R15), `past` what was made of the ticks that a Stake has left, newest first. `sub` and
`nextSub` are what the start of this and of the next tick of a follower lies after its cycle, in 1/16 ns (R366), and `held`
says that a BLOCK pair waits for the TICKMARK before the next SOF (R63). -/
structure TbSt where
  tick : Nat := 0
  tickStart : Nat := 0
  tickTime : Time := {}
  started : Bool := false
  nextTick : Nat := 0
  nextStart : Nat := 0
  endTick : Bool := false
  anchorSec : Nat := 0
  anchorOfs : Nat := 0
  anchorK : Nat := 0
  period : Nat := 5000
  placed : Bool := false
  change : Bool := false
  newAnchor : Option (Nat × Nat × Nat) := none
  newGrid : Bool := false
  markDue : Bool := false
  mark : Bool := false
  sofDue : Option Bool := none
  phase : Nat := 0
  sampled : Bool := false
  applied : Bool := false
  cutDone : Bool := false
  tmarkTime : Option Time := none
  base : Nat := 0
  recd : Nat := 0
  period16 : Nat := 0
  havePeriod : Bool := false
  tmark : KMap Nat := []
  periodWait : Option (Nat × Nat) := none
  lockOnMark : Bool := false
  lastComma : Option (Nat × Nat) := none
  commaInTick : Bool := false
  rejRun : Nat := 0
  holdRun : Nat := 0
  announce : Option Announce := none
  timeRuns : Bool := false
  lockedAt : Nat := 0
  trimApplied : Int := 0
  timing1 : Bool := false
  moveDue : Option Nat := none
  past : List TickMade := []
  sub : Nat := 0
  nextSub : Nat := 0
  held : Bool := false
deriving DecidableEq, Repr

/-- A time-event unit (R54): pulse running; fired, and missed, since it was armed; the cycle of its last firing and that in
which its pulse ends; whether the instant of this tick has been made, or is not made (R405); and how often it has fired
(R314). -/
structure TevSt where
  fires : Nat := 0
  pulse : Bool := false
  fired : Bool := false
  missed : Bool := false
  firedAt : Nat := 0
  endAt : Nat := 0
  made : Bool := false
deriving DecidableEq, Repr

/-- One entry of a transmit stamp FIFO (R53). -/
structure PtpStamp where
  seqId : Nat
  msgType : Nat
  time : Time
deriving DecidableEq, Repr

/-! ### Power stage (06_stake_power_stage.md) -/

/-- Symbols of the gate command link (R152). -/
inductive Sym where
  | off | on | softoff
  | sets (reg code : Nat)
  | test (sel : Nat)
deriving DecidableEq, Repr

/-- Cell states of R148, with their code in GS_STAT.CELL. -/
inductive Cell where
  | off | bypassed | inserted
deriving DecidableEq, Repr

/-- Gate channel state beside its registers (R149 to R170). `due` lists the scheduled symbols with their
effective instants in GTIME cycles, earliest first; `busy` is the end of the last symbol that was started, `line` lists the
symbols started beside the scheduled ones with begin and end, and `sets` the SETS among them with end and register. -/
structure GateCh where
  due : List (Nat × Sym) := []
  soft : Bool := false
  setsDue : List Nat := [0, 1, 2]
  setsSent : List Nat := []
  refreshes : Nat := 0
  goodRun : Nat := 0
  badRun : Nat := 0
  wseq : Option Nat := none
  chgOn : Option Bool := none
  chgAt : Nat := 0
  edges : List Nat := []
  wanted : Nat := 0
  onSince : Nat := 0
  offSince : Nat := 0
  tOn : Nat := 0
  busy : Nat := 0
  line : List (Nat × Nat × Sym) := []
  sets : List (Nat × Nat) := []
  toldNotReady : Bool := false
deriving DecidableEq, Repr

/-- Phases of the bypass firing sequence (R179). -/
inductive BypPhase where
  | idle | triggered | driven | released
deriving DecidableEq, Repr

/-- How far a self-test of SEL 1 to 3 is (R183): its forced condition is awaited, the condition has been seen and TEST with SEL 0
sent, or the monitor has returned. -/
inductive TestPhase where
  | forced | seen | returned
deriving DecidableEq, Repr

/-- Power-stage state beside its registers. `mark` is the fired mark of the retention domain (R180), `bypCause` the cause code of
the firing (R179); `trimNext` is the apply instant after that of the trim and `trimTick` the tick in which the Stake last
trimmed (R130, R144), and `trimming` says that a trim is in force that no apply instant has followed (R143); `testAt` is the instant from which the phase of a self-test counts (R183). -/
structure GsSt where
  needEntry : Bool := true
  trimEnd : Option Nat := none
  trimNext : Nat := 0
  trimTick : Option Nat := none
  trimming : Bool := false
  offAtApply : Bool := false
  refreshDue : Bool := false
  refreshRun : Bool := false
  refreshEntry : Nat := 0
  ov2Run : Nat := 0
  vcode : Nat := 0
  byp : BypPhase := .idle
  bypAt : Nat := 0
  bypCause : Nat := 0
  armed : Bool := false
  armAt : Nat := 0
  bypf : Bool := false
  pornSinceFire : Bool := false
  mark : Bool := false
  testSel : Nat := 0
  testCh : Nat := 0
  testPhase : TestPhase := .forced
  testAt : Nat := 0
  refusedLeg : List Nat := []
deriving DecidableEq, Repr

/-! ### Safe block (11_safe_block.md) -/

/-- The safety configuration of R279 as one channel copies it. -/
structure SfCfg where
  filt : Nat
  arms : Nat
  disc : Nat
  cwin : Nat
deriving DecidableEq, Repr

/-- One safety channel: its state and its copy of the configuration (R269, R279). In a Datum also its filtered inputs, true
being a request or a press; its proof-open: since when the SBLK pair shows a joint request, whether one of 1 ms has
ended, since when the pair is inactive, and the result (R275); since when each pair differs, and whether it is in
discrepancy (R273); the press being measured: its instants, whether it can still be valid, whether a block request came since it
began, and since when all is released (R276, R278); and whether a reset input is stuck (R277). In a Stake the tick of the last
permit frame by port since the last block event, that event's cycle, whether this tick has had a permit frame, PLCNT, and whether
its reaching 3 has been acted on (R281 to R283). Times are in GTIME cycles. -/
structure Chan where
  permit : Bool := false
  copy : Option SfCfg := none
  sblkA : Bool := false
  sblkB : Bool := false
  srstA : Bool := false
  srstB : Bool := false
  jointAt : Option Nat := none
  jointDone : Bool := false
  openAt : Option Nat := none
  proof : Bool := false
  discSblkAt : Option Nat := none
  discSrstAt : Option Nat := none
  discSblk : Bool := false
  discSrst : Bool := false
  pressA : Option Nat := none
  pressB : Option Nat := none
  relA : Option Nat := none
  relB : Option Nat := none
  pressOk : Bool := false
  reqSince : Bool := false
  relAllAt : Option Nat := none
  stuck : Bool := false
  permTick : KMap Nat := []
  blockAt : Option Nat := none
  permNow : Bool := false
  plCnt : Nat := 0
  plDone : Bool := false
deriving DecidableEq, Repr

/-- One received safety PDU's identity, for freshness (R280). -/
structure PduSeen where
  src : Nat
  cnt : Nat
deriving DecidableEq, Repr

/-- Safe-block state beside its registers: the channels; CNT of each channel's PDU, and whether its PDU for the frame of this
tick was not delivered (R274); the cross-link (R270); and of a Stake the last BLOCK pair, the PDUs last accepted, and what FHOLD
waits for (R280 to R285). -/
structure SfSt where
  x : Chan := {}
  y : Chan := {}
  cntX : Nat := 0
  cntY : Nat := 0
  missX : Bool := false
  missY : Bool := false
  beatLost : Bool := false
  diff : Bool := false
  crcFail : Bool := false
  urgAt : Option Nat := none
  seen : KMap PduSeen := []
  fholdSeen : Bool := false
deriving DecidableEq, Repr

/-! ### Fault collector and Field Book (12_faults_and_field_book.md) -/

/-- A Field Book record (R302). `data` is its 12 DATA bytes as one number, byte 16 lowest. -/
structure FbRec where
  time : Nat
  seq : Nat := 0
  src : Nat
  cls : Nat := 0
  forced : Bool := false
  timeInv : Bool := false
  tail : Bool := false
  kind : Nat := 0
  data : Nat := 0
  rep : Nat := 0
  valid : Bool := false
deriving DecidableEq, Repr

/-- A staged record with the tail sequence number its copy took, once copied. -/
structure FbEnt where
  rcd : FbRec
  tailSeq : Option Nat := none
deriving DecidableEq, Repr

/-- Staging queue, ring and tail (R304, R306, R310), and the copy that the newest ring record has in the tail. `cycle` holds
the records of the present GTIME cycle in the order in which they enter the queue at its end (R22, R307). `merged` and
`dropped` are the counts that FB_MERGED and FB_LOST show (R305, R306). -/
structure FbSt where
  cycle : List FbRec := []
  queue : List FbEnt := []
  ring : KMap FbRec := []
  tail : KMap FbRec := []
  newestTail : Option Nat := none
  lost : Nat := 0
  lostTime : Nat := 0
  tailKept : Bool := true
  merged : Nat := 0
  dropped : Nat := 0
deriving DecidableEq, Repr

/-- Fault collector state beside its registers: hardware levels of level sources, the sources of class 4 that assert
until PORn (R291), the class with which each source that asserts by level or force bit began to (R293), and the FLTIN inputs
whose filtered level is high (R203). `made` is the class with which a source asserted, the highest since its status bit was
read (R293), and `firstAt` the cycle in which FC_FIRST was taken (R296). -/
structure FcSt where
  made : KMap Nat := []
  firstAt : Option Nat := none
  level : List Nat := []
  stuck : List Nat := []
  began : KMap Nat := []
  inputs : List Nat := []
  feedArmed : Bool := false
  alive : Bool := false
deriving DecidableEq, Repr

/-! ### Links (03_traverse_link.md) -/

/-- What a port keeps of its partner for BLIND: with the sampling phase and the word alignment of its receiver (R77). -/
structure LinkCache where
  monument : Nat
  dly : Nat
  phase : Nat
  align : Nat
  ver : Nat
deriving DecidableEq, Repr

/-- What a link transmits until further notice (R70, R88 to R90): its lines static; IDLE; training sequences; CAP sets, each
followed by four IDLE; DM sets and IDLE; frames, ordered sets and IDLE; the bits of x^n + x^t + 1; CAP sets with FE_REQ;
the words that it receives. -/
inductive TxKind where
  | static
  | idle
  | training
  | caps
  | measuring
  | service
  | prbs (n t : Nat)
  | request
  | echo
deriving DecidableEq, Repr

/-- Link-layer state of one link beside its registers. Links 0 to 15 are the Traverse ports, 16 the Twin link
(R251), 17 + d the Baseline link d (R363). Delays and receive times are in 1/16 ns; `dmVals` holds twice each
measured delay, `ackOut` says that the port sends ACK, `cvs` the numbers of the symbols last received with a code violation.
`capSent` is the CAP set last sent, without ANS_REQ; `phase` and `align` are the sampling phase and the word alignment found.
Of the stream sent: the symbols by which urgent pairs have delayed it, the cycle of the last SOF and the symbols that frames,
ordered sets and TICKMARK pairs have taken since, whether a TICKMARK pair has left whose SOF has not, and the BLOCK pairs that
wait for that SOF; of the stream received, the pairs that have waited and belong to the frame of that SOF (R63, R64). `injected` counts inverted bits that a near-end loopback returns (R88, R91). -/
structure LinkSt where
  lastCap : Option Cap := none
  capRun : Nat := 0
  partner : Nat := 0
  attempts : Nat := 0
  raised : Bool := false
  cache : Option LinkCache := none
  dmVals : List Int := []
  dmSeq : Nat := 0
  dmAsym : Int := 0
  spread : Bool := false
  daVals : List Nat := []
  feedIn : Nat := 0
  feRefused : Bool := false
  blindLock : Bool := false
  ackOut : Bool := false
  echo : Bool := false
  cvs : List Nat := []
  urgents : Nat := 0
  urgHead : Nat := 0
  idleDebt : Nat := 0
  capSent : Option Cap := none
  phase : Nat := 0
  align : Nat := 0
  tx : TxKind := .static
  sofAt : Nat := 0
  taken : Nat := 0
  markOut : Bool := false
  heldPairs : Nat := 0
  urgHeld : Nat := 0
  injected : Nat := 0
  prbsBits : Nat := 0
  prbsErrs : Nat := 0
deriving DecidableEq, Repr

/-! ### Frames on a port (04_traverse_frames.md) -/

/-- A relay message waiting on a port (R105): its bytes still to send, with the relay it belongs to. -/
structure RelayMsg where
  mode : Nat
  addr : Nat
  bytes : List Nat
  req : Nat
  started : Bool := false
  msgId : Nat := 0
  nextSeg : Nat := 0
deriving DecidableEq, Repr

/-- A message being reassembled by a Stake port (R107) or a reply by a Datum port (R109). -/
structure Reasm where
  src : Nat
  msgId : Nat
  nextSeg : Nat
  bytes : List Nat
  sender : Nat
  seq : Nat
deriving DecidableEq, Repr

/-- A reply that a Stake port is sending in up records (R108). -/
structure UpReply where
  dest : Nat
  msgId : Nat
  nextSeg : Nat
  bytes : List Nat
deriving DecidableEq, Repr

/-- A telemetry snapshot of R21: the slots of one epoch with the closure causes. -/
structure Snapshot where
  epoch : Nat
  causes : Nat
  slots : List TeleSlot
deriving DecidableEq, Repr

/-- Frame state of one Traverse port beside its registers. Of a Datum: relay messages and the fill of the management
slot (R105), what it sent (R126) and received this tick (R124), the snapshots of R21, the replies it reassembles (R109),
the Stakes whose bypass request stands (R177). Of a Stake: the message it reassembles (R107), the whole messages
that wait for their reply, the replies it is sending (R108), and the sender of the last frame (R260). `turning` says that the port turns. -/
structure PortSt where
  relayQ : List RelayMsg := []
  msgNext : Nat := 0
  downRun : Nat := 0
  timeSec : Nat := 0
  sentSeq : Nat := 0
  sentArms : List Nat := []
  gotFrame : Bool := false
  failRun : Nat := 0
  closeRaised : Bool := false
  slots : List (Option TeleSlot) := []
  snaps : List Snapshot := []
  snapDrops : Nat := 0
  snapOvf : Bool := false
  upReasm : List Reasm := []
  bypReq : List Nat := []
  reasm : Option Reasm := none
  messages : List Reasm := []
  upReply : List UpReply := []
  lastSender : Option Nat := none
  turning : Bool := false
deriving DecidableEq, Repr

/-- A Stake's record of the frame it acted on and the entry it will apply (R117), its reports of the last four ticks,
newest first (R142), the tick of the last latch and whether an entry of that tick had been acted on before (R143),
the pairs of SENDER and SEQ that lease processing (R258) and the management slot (R106) have handled, newest first, and
the ports with an acknowledgement due (R260), and decodes that were done with that of the other port in their cycle
(R119). Of a Datum: SEQ (R97), and whether it has stopped building frames. -/
structure FrmSt where
  seq : Nat := 0
  actedValid : Bool := false
  actedSeq : Nat := 0
  actedAcrc : Nat := 0
  entry : Option (Nat × ArmEntry) := none
  latchTick : Option Nat := none
  actedAtLatch : Bool := false
  reports : List (Nat × TeleSlot) := []
  held : Bool := false
  unrankRun : Nat := 0
  unrankRaised : Bool := false
  leaseSeen : List (Nat × Nat) := []
  mgmtSeen : List (Nat × Nat) := []
  ackDue : List Nat := []
  ackWaited : List Nat := []
  leaseDue : Bool := false
  decoded : List (Nat × Nat) := []
  buildStopped : Bool := false
  nextArms : List ArmEntry := []
deriving DecidableEq, Repr

/-! ### Levelling (05_levelling.md) -/

/-- What the select of an arm found under which order (R135, R138). -/
structure Selection where
  n : Nat
  dir : Bool
  k : Nat
  h : Nat
  t : Nat
  trimV : Bool
  trim : Nat
  frac : Nat
  short : Bool
  surplus : Bool
  hold : Nat
  rest : Bool
deriving DecidableEq, Repr

/-- Levelling state of one arm of a Datum beside its registers: last issued entry (none before the first), consecutive
repeats (R137), ticks of zero order output (R132), the HOLD of this tick (R140), the select of this tick, own and twin
summary of this tick (R136), and the realised-count check (R146) with the tick of the decision that it is for. `map` holds the
map entries of the arm as port, slot and index from the start of the select of this tick (R147), and `gone` says that members
were marked ABSENT in this tick. -/
structure ArmSt where
  last : Option ArmEntry := none
  repeats : Nat := 0
  zeroRun : Nat := 0
  restOn : Bool := false
  holdNow : Nat := 0
  sel : Option Selection := none
  own : Option Summary := none
  twin : Option Summary := none
  map : Option (List ((Nat × Nat) × Nat)) := none
  gone : Bool := false
  expectOn : Bool := false
  expectAt : Nat := 0
  expect : Nat := 0
  devRun : Nat := 0
  devRaised : Bool := false
deriving DecidableEq, Repr

/-! ### Loop engine (08_loop_engine_scheduler.md) -/

/-- A compute lane beside its registers (R208, R210): program counter, working registers, accumulators, staged
outputs, and whether the instance has had a NaN result. -/
structure LaneSt where
  pc : Nat := 0
  w : List Nat := List.replicate 64 0
  acc : List Nat := List.replicate 8 0
  staged : List (Nat × Nat) := []
  nan : Bool := false
deriving DecidableEq, Repr

/-- Scheduler state beside its registers: the queues (R219), slots that are PENDING (R216), lanes, dirty lines of the
state region (R227), words of data memory with an uncorrectable error (R213), whether the next frame is STALE (R224),
outputs whose release was not complete at the cut-off (R229), and whether source 71 has been raised in this run (R225). -/
structure SchSt where
  queue : KMap (List Nat) := []
  pending : List Nat := []
  lane : KMap LaneSt := []
  dirty : List Nat := []
  stale : Bool := false
  lateOut : List (Nat × Nat) := []
  ovrRaised : Bool := false
deriving DecidableEq, Repr

/-! ### Twin and lease (10_twin_redundancy.md) -/

/-- The newest acknowledgement of a member (R260, R261). -/
structure Ack where
  epoch : Nat
  holder : Nat
  live : Bool
  tick : Nat
deriving DecidableEq, Repr

/-- A message on the Twin or a Baseline link that is not sent yet: its type, its length with framing, and how much
of it is sent (R252). -/
structure TwTx where
  kind : Nat
  len : Nat
  sent : Nat
deriving DecidableEq, Repr

/-- The messages that wait on a link, and the cycle up to which it has served them (R252). -/
structure LinkLine where
  waiting : List TwTx := []
  upTo : Nat := 0
deriving DecidableEq, Repr

/-- Twin and lease state of a Datum beside its registers. Heartbeat: whether it has arrived by S in this tick, the run
of misses and whether its loss has been reported, the last one (R253). Sharing: converters whose SHARE has come in this
tick, those whose SHARE is late, own results withheld, by converter (R254). Comparison: own and twin digest and STATE,
what this tick's comparisons gave, the run of agreeing ticks, the ticks without an agreeing digest, and whether a cause
of R256 occurred (R255 to R257). Lease: acknowledgements by 64p + slot, ticks in the state, ticks since EN became 1
without a heartbeat, the tick of the last advance from HOLD, ticks without a twin frame (R261, R262). Handover: the
request that waits for an answer, the agreed tick and whether this Datum takes, the epoch
from which it goes, and whether its claim is one by handover
(R263). Join: the Twin link has just reached ACTIVE, how far the holder has swept, whether the joiner has the whole
sweep, the tick of completion, and dispatch held until STATE is written, and the tick of the last STATE written with its
`last` (R264). The start of the last tick of board A's benchmark in 1/16 ns with its number and, where the one before is known,
the length of that one in cycles (R44). Link: messages that wait or are being sent, and the cycle up to which the link has served them (R252). -/
structure TwSt where
  hbGot : Bool := false
  hbRun : Nat := 0
  hbTold : Bool := false
  hb : Option Heartbeat := none
  served : List Nat := []
  late : List Nat := []
  withheld : KMap (List Nat) := []
  digOwn : Option Digest := none
  digTwin : Option Digest := none
  stOwn : Option StateMsg := none
  stTwin : Option StateMsg := none
  digAgree : Option Bool := none
  stAgree : Option Bool := none
  run : Nat := 0
  silent : Nat := 0
  cause : Bool := false
  acks : KMap Ack := []
  stateRun : Nat := 0
  claimTold : Bool := false
  enRun : Option Nat := none
  sweepTick : Option Nat := none
  noFrames : Nat := 0
  hoReq : Option Nat := none
  ho : Option (Nat × Bool) := none
  hoEpoch : Nat := 0
  hoTake : Bool := false
  linkNew : Bool := false
  wasUp : Bool := false
  sweepAt : Option Nat := none
  sweepTo : Nat := 0
  sweepNow : Nat := 0
  stateSent : Bool := false
  joinTick : Option Nat := none
  wait : Bool := false
  stGot : Option (Nat × Bool) := none
  hbStart : Option (Nat × Nat × Nat) := none
  line : List TwTx := []
  lineAt : Nat := 0
deriving DecidableEq, Repr


/-! ### Disturbance recorder (13_disturbance_recorder.md) -/

/-- A row: TIME and the value of each enabled channel (R324). -/
structure DrLine where
  time : Nat
  vals : List Nat
deriving DecidableEq, Repr

/-- The content of a segment: pre-trigger rows, then from the trigger row on, oldest first, with what the header tells of
them (R324). `pres` is the number of pre-trigger rows that a full record has; `streamed` says that the record has been
streamed (R326). -/
structure DrRec where
  rnum : Nat := 0
  pre : List DrLine := []
  post : List DrLine := []
  ttime : Nat := 0
  tick : Nat := 0
  cause : Nat := 0
  tsrc : Nat := 0
  gap : Bool := false
  viol : Option (Nat × Int) := none
  trunc : Bool := false
  shed : Bool := false
  nch : Nat := 0
  rper : Nat := 0
  chmask : Nat := 0
  pres : Nat := 0
  streamed : Bool := false
deriving DecidableEq, Repr

/-- Recorder state beside its registers: fault trigger events (source and TIME) and software ones (TIME) that wait for
a row, the condition bits and the trigger condition of the last row, channel values, rows left of POST or REARM,
contents of the segments, whether the recorder arms again after S1, and how far the stream has come. `last` says
that a row has been evaluated since arming, and `base` is the number of the row instant at which the last row was taken or the
recorder armed (R314). The cut-offs of a Datum or recovered tick starts of a Stake so far, and the cycle of the last (R314); the
latest usable copy of each slot, by 64p + slot (R315); the rows that have entered the row buffer since ARM (R325); and a hardware
trigger event, its cause and TIME, of a row that was dropped (R331). -/
structure DrSt where
  ticks : Nat := 0
  tickAt : Nat := 0
  tele : KMap TeleSlot := []
  rows : Nat := 0
  lost : Option (Nat × Nat) := none
  base : Nat := 0
  faults : List (Nat × Nat) := []
  soft : List Nat := []
  bits : List Nat := []
  cond : Bool := false
  last : Bool := false
  val : KMap Nat := []
  left : Nat := 0
  segs : KMap DrRec := []
  shedArm : Bool := false
  ofs : Nat := 0
deriving DecidableEq, Repr

/-! ### Measurement and auxiliary supply (07_measurement_and_aux_supply.md) -/

/-- A conversion of the cell-voltage entry whose result is not complete yet (R199): the cycle in which its pass started, its
hold instant in half nanoseconds, its DIFF, whether its pass is that of a mirrored pair, and the tick of the pass at j = 0
if it is that one. -/
structure CellConv where
  startAt : Nat
  hold : Nat
  diff : Nat
  mir : Bool
  j0 : Option Nat
deriving DecidableEq, Repr

/-- A converter beside its registers: when its pass started, whether the pass is the one at j = 0 and in a mirrored pair, its
entries (input, DIFF, ACQ, CMP) and their hold instants in half nanoseconds after the start (R188, R192), the DIFF of the
entries of the pass whose results stand, the cell voltages that are being converted, the injected conversion that runs
(input, DIFF) and its start, a calibration that waits for the pass, whether it has left its pair for rotating
calibration, and the last grid instant; how many passes have ended, and the hold instant of entry 0 of the last of them, in
half nanoseconds (R314). -/
structure Conv where
  passes : Nat := 0
  holdAt : Nat := 0
  startAt : Nat := 0
  j0 : Bool := false
  mir : Bool := false
  table : List (Nat × Nat × Nat × Nat) := []
  holds : List Nat := []
  diffs : List Nat := []
  cells : List CellConv := []
  inj : Option (Nat × Nat) := none
  injAt : Nat := 0
  gridAt : Option Nat := none
  calWait : Bool := false
  left : Bool := false
deriving DecidableEq, Repr

/-- Runs of R196 and, in order, the limits they reached on which PAIR_MISMATCH has not acted yet, true for CNT
disagreements; the agreeing passes of R197 and whether step 1 still waits for a pass boundary. -/
structure AdPair where
  disRun : Nat := 0
  agreeRun : Nat := 0
  limits : List Bool := []
  rotRun : Nat := 0
  rotWait : Bool := false
deriving DecidableEq, Repr

/-- Converters and pairs; the latest cell-voltage result with its epoch, and the one of the j = 0 pass with its tick
(R199); the last sample instant and the cycle S + P up to which its grid runs (R189). -/
structure AdSt where
  conv : KMap Conv := []
  pair : KMap AdPair := []
  vcode : Nat := 0
  vEpoch : Nat := 0
  j0 : Option (Nat × Nat) := none
  grid : Option (Nat × Nat) := none
deriving DecidableEq, Repr

/-- The auxiliary PWM beside its registers: cycles of the pulse start, of the start of the off-time, of the last change of
AUXDEM and of the last accepted edge, or of the start of the controller where none has come; the run of cut periods; the sync
instants to come and the last one; and whether edges have failed to come, so that the own timer runs (R201 to R204). -/
structure AuxSt where
  startAt : Nat := 0
  offAt : Nat := 0
  demAt : Nat := 0
  period : Bool := false
  cutNow : Bool := false
  cutRun : Nat := 0
  raised : Bool := false
  lastEdge : Nat := 0
  syncs : List Nat := []
  lastSync : Nat := 0
  lost : Bool := false
deriving DecidableEq, Repr



/-! ### Management (14_management.md) -/

/-- An answer of a Stake (R335); slot 0xFF for a Stake without a valid slot. -/
structure Entry where
  port : Nat
  slot : Nat
  status : Nat
  data : List Nat
deriving DecidableEq, Repr

/-- A Stake from which a reply is expected: on one of the ports, and in the slot named, if one is named (R335). -/
structure Want where
  ports : List Nat
  slot : Option Nat
deriving DecidableEq, Repr

/-- A relayed message: port, MSGID, tick of the frame that carried LAST, and whether no reply is waited for any more. -/
structure Sent where
  port : Nat
  msgId : Option Nat := none
  lastTick : Option Nat := none
  closed : Bool := false
deriving DecidableEq, Repr

/-- A Stake that a scan found: hop, slot, monument ID (R354). -/
structure Hop where
  hop : Nat
  slot : Nat
  monument : Nat
deriving DecidableEq, Repr

/-- What a relay serves. -/
inductive RelayKind where
  /-- RELAY (R335). -/
  | relay
  /-- A scan of a port that has reached a hop (R354). -/
  | scan (port hop : Nat)
  /-- Part of a prepare, with the part that follows (R349). -/
  | sprep (txid next : Nat)
  /-- Commit and abort (R349). -/
  | scommit (txid : Nat)
  | sabort (txid : Nat)
  /-- ADOPT: port, slot, arm, index and monument ID (R355). -/
  | adopt (port slot arm idx monument : Nat)
  /-- A confirmation after a scan (R354). -/
  | confirm (port slot : Nat)
deriving DecidableEq, Repr

/-- A relay in progress (R335). -/
structure RelayReq where
  id : Nat
  req : Option Req
  kind : RelayKind
  wants : List Want
  sent : List Sent
  got : List Entry := []
deriving DecidableEq, Repr

/-- A transaction (R346): its writes hold the last value for each address. `got` and `req` serve a Stake-scope commit;
`loopDone` says that the loop data writes of a local one have been made (R348). -/
structure Txn where
  id : Nat
  scope : Nat
  target : Target
  writes : KMap Nat := []
  state : Nat := 0
  tick : Nat := 0
  refused : Nat := 0
  got : List Entry := []
  req : Option Req := none
  loopDone : Bool := false
deriving DecidableEq, Repr

/-- The transaction that a Stake holds (R349): its TXID, all its writes expected, those held, whether it is prepared,
its commit tick, and the tick of the prepare. -/
structure Held where
  txid : Nat
  total : Nat
  writes : KMap Nat := []
  ready : Bool := false
  tick : Option Nat := none
  since : Nat := 0
deriving DecidableEq, Repr

/-- A reply in the cache (R336). -/
structure Cached where
  req : Req
  status : Nat
  rflags : Nat
  data : List Nat
deriving DecidableEq, Repr

/-- A PCI Express queue pair (R336, R337). -/
structure QueueSt where
  base : KMap Nat := []
  en : Bool := false
  depth : Nat := 0
  vec : Nat := 0
  sqHead : Nat := 0
  sqTail : Nat := 0
  cqTail : Nat := 0
  cqHead : Nat := 0
  phase : Bool := true
  waiting : List Cached := []
deriving DecidableEq, Repr

/-- The stream ring (R337): attachment registers, write and read index, chunks since the vector. -/
structure RingSt where
  base : KMap Nat := []
  cfg : Nat := 0
  vec : Nat := 0
  wr : Nat := 0
  rd : Nat := 0
  run : Nat := 0
deriving DecidableEq, Repr

/-- An image (R356): its bytes from the manifest on, as far as they have been written, the length given at IMG_OPEN, and
whether IMG_CHECK has passed it since. -/
structure Image where
  bytes : List Nat := []
  len : Nat := 0
  checked : Bool := false
deriving DecidableEq, Repr

/-- Firmware (R337, R358, R373): state 0 boot, 1 running, 2 trial, 3 swapping; slot 0 or 1; images 0 and 1 are the
firmware slots, 2 and 3 those of loop bank 0 and 1. `started` says that the boot ROM has started an image that has yet to
load the configuration, which is due (`load`) after PORn (R344, R404). -/
structure FwSt where
  state : Nat := 0
  active : Nat := 0
  recovery : Bool := false
  started : Bool := false
  load : Bool := true
  image : KMap Image := []
  opened : Option Nat := none
deriving DecidableEq, Repr

/-- State of management beside its registers. `late` holds, for each configuration field that a register write has set at or
after the last tick start, the cycle of the write and the shadow value before it (R20). `full` are the requests that came when 32
were pending (R336). -/
structure MgSt where
  late : KMap (Nat × Nat) := []
  reqs : List Req := []
  cache : List Cached := []
  queues : KMap QueueSt := []
  ring : RingSt := {}
  relays : List RelayReq := []
  relayNext : Nat := 0
  txns : List Txn := []
  closed : List Txn := []
  txnNext : Nat := 1
  held : Option Held := none
  table : KMap Nat := []
  mine : Option (Nat × Nat × Nat × Nat) := none
  scans : KMap (List Hop) := []
  fw : FwSt := {}
  net : KMap (List Nat) := []
  parity : List (Nat × Bool) := []
  fwd : List (Nat × Nat) := []
  full : List Req := []
  test : Option Req := none
deriving DecidableEq, Repr

/-! ### Cluster (15_cluster_and_board.md) -/

/-- What a neighbour's last TICKALIGN said (R365): the message, and the tick start formed from it, in 1/16 ns; and the own
ticks since. -/
structure Neighbour where
  msg : TickAlign
  start : Nat
  age : Nat := 0
deriving DecidableEq, Repr

/-- Alignment of a follower beside CL_STAT (R366): neighbours by link, the parent of the last accepted TICKALIGN, the own DEPTH,
run of differences, ticks without an accepted TICKALIGN, whether it re-phases at its next tick start, where in 1/16 ns and with
which number, whether one was accepted in this tick, whether its own period or anchor registers differ from those of the benchmark, and the period and anchor it has taken
from the benchmark (R43); and the messages on each Baseline link (R364). -/
structure ClSt where
  lines : KMap LinkLine := []
  nb : KMap Neighbour := []
  parent : Option Nat := none
  depth : Nat := 0
  errRun : Nat := 0
  quiet : Nat := 0
  rephase : Option (Nat × Nat) := none
  got : Bool := false
  differs : Bool := false
  grid : Option (Nat × Nat × Nat) := none
deriving DecidableEq, Repr

/-! ### What leaves the device -/

/-- One thing the device has put on a pin, a link, a bus or the host's memory. -/
inductive Out where
  /-- A gate symbol on GCMDn with the cycle in which its last line bit ends, the effective instant of ON, OFF and SOFTOFF (R150, R152). -/
  | gcmd (n : Nat) (sym : Sym) (eff : Nat)
  /-- The charge pump of channel n from now on: off, or its period, high time and phase in cycles (R172). -/
  | pump (n : Nat) (wave : Option (Nat × Nat × Nat))
  /-- A frame on Traverse port p (R94). -/
  | frame (p : Nat) (f : Frame)
  /-- A BLOCK pair on Traverse port p (R114). -/
  | blockPair (p : Nat)
  /-- A TICKMARK pair on Traverse port p (R34). -/
  | tickmark (p : Nat)
  /-- What a link transmits from now on beside the sets, frames and pairs named (R70). -/
  | tx (l : Nat) (kind : TxKind)
  /-- A CAP set on a link (R73, R76). -/
  | cap (l : Nat) (c : Cap)
  /-- A DM set on a link (R80). -/
  | dm (l : Nat) (d : Dm)
  /-- A DA set on port p, or IDLE in its place when its CRC failed (R82). -/
  | da (p : Nat) (d : Option Da)
  /-- ERR in place of a symbol, and ERR with EOF to end a frame (R65). -/
  | err (p : Nat) (endsFrame : Bool)
  /-- Bits of the transmitted stream inverted (R91). -/
  | inject (p : Nat) (bits : Nat)
  /-- An MSI-X vector raised to the host (R299, R336). -/
  | msix (vec : Nat)
  /-- A level put on an output pin, by its name in 16_power_pins_electrical.md. -/
  | pin (name : String) (n : Nat) (level : Bool)
  /-- An output pin goes to high impedance (R86, R394, R395). -/
  | release (name : String) (n : Nat)

  /-- A high pulse of len cycles on an output pin (R204). -/
  | pulse (name : String) (len : Nat)
  /-- A register write has completed with a status (R340). -/
  | done (status : Nat)

  /-- A whole message of the management slot has arrived on port q, for the device's firmware to execute (R107). -/
  | message (q : Nat) (bytes : List Nat)

  /-- A VARS message on Baseline link d: tick, and send registers with their values (R368). -/
  | vars (d tick : Nat) (words : List (Nat × Nat))
  /-- A TICKALIGN message on Baseline link d (R364). -/
  | tickAlign (d : Nat) (m : TickAlign)
  /-- Messages on the Twin link (R252). -/
  | heartbeat (m : Heartbeat)
  | share (m : Share)
  | digest (m : Digest)
  | summary (tick : Nat) (arms : List Summary)
  | control (m : Control)
  | stateMsg (m : StateMsg)
  | sweep (addr : Nat) (bytes : List Nat)

  /-- The receive stamp that is attached to a packet of Ethernet port n (R53). -/
  | ptpRx (n : Nat) (t : Time)
  /-- What is written into a one-step message of Ethernet port n as it leaves: originTimestamp, correctionField, and whether
  its UDP checksum is set to 0 (R51, R53). -/
  | ptpOneStep (n seqId sec ns corr : Nat) (udpZero : Bool)

  /-- A reply datagram to a UDP source (R336). -/
  | udp (src : Nat) (r : Reply)
  /-- Bytes of a reply, and of the completion entry of queue q, written into host memory at their addresses (R336). -/
  | completion (q : Nat) (rspAddr : Nat) (reply : List Nat) (entryAddr : Nat) (entry : List Nat)
  /-- A MGMT message on Baseline link d (R364, R370). -/
  | mgmt (d : Nat) (m : MgmtMsg)
  /-- The bytes of a record chunk to transport t (R326). -/
  | chunk (t : Nat) (bytes : List Nat)

deriving DecidableEq, Repr

/-! ### The device -/

/-- The state of the device. `pending` is the queue of waiting commands, first in, first out.
`live` holds every register field that is not double-buffered, `shd` the shadow and `act` the active copy of
every configuration field (R342); a field that a table does not list has its reset value.
`fresh` counts the free values already used (the model's own field). -/
structure State where
  pending : List Instr
  phase : Phase
  role : Role
  clpos : Nat
  board : Nat
  twpref : Nat
  monument : Nat
  now : Nat
  time : Time
  live : KMap Nat
  shd : KMap Nat
  act : KMap Nat
  mem : List Host.Cell
  mbad : List Nat
  out : List Out
  fresh : Nat
  tb : TbSt
  tev : KMap TevSt
  ptp : KMap (List PtpStamp)
  links : KMap LinkSt
  ports : KMap PortSt
  frm : FrmSt
  arms : KMap ArmSt
  sch : SchSt
  cf : CfSt
  tw : TwSt
  gs : GsSt
  gate : KMap GateCh
  sf : SfSt
  fc : FcSt
  fb : FbSt
  dr : DrSt
  ad : AdSt
  aux : AuxSt
  mg : MgSt
  cl : ClSt
deriving DecidableEq, Repr

/-- A reason to stop with a fault. No command of this block stops it: a fault source of the spec (R290) is an
event on the state. The one reason is raised by nobody; it is safe. -/
inductive Fault where
  /-- Raised by nobody. -/
  | none
deriving DecidableEq, Repr

/-- A reason to refuse a command. -/
inductive Refusal where
  /-- The command has no meaning in the model yet. Raised by `exec` alone; safe. -/
  | notModelled (mnemonic : String)
deriving DecidableEq, Repr

/-- The device right after reset: PORn holds it (R372), every register at its reset value, no command waiting. -/
def State.reset : State :=
  { pending := [], phase := .porn, role := .stake, clpos := 0, board := 0, twpref := 0, monument := 0, now := 0,
    time := {}, live := [], shd := [], act := [], mem := [], mbad := [], out := [], fresh := 0, tb := {}, tev := [], ptp := [],
    links := [], ports := [], frm := {}, arms := [], sch := {}, cf := {}, tw := {}, gs := {}, gate := [], sf := {}, fc := {}, fb := {}, dr := {}, ad := {}, aux := {}, mg := {}, cl := {} }


end Sys2Proof.Machine
end

