-- ==== Sys2Proof/Machine/Operands.lean ====
section
/-! DEFINITION. The forms of the operands: serial arithmetic (R13), checksums (R102, R156, R403), the byte layout of
frames and ordered sets, signed fields and small arithmetic on them. -/

namespace Sys2Proof

/-- R13 for values of width `w`: `b` is newer than `a`. -/
def isNewer (w b a : Nat) : Bool :=
  let d := (b % 2 ^ w + 2 ^ w - a % 2 ^ w) % 2 ^ w
  (1 ≤ d) && (d < 2 ^ (w - 1))

/-- The value of a `w`-bit field read as two's complement. -/
def toSigned (w v : Nat) : Int :=
  if v % 2 ^ w < 2 ^ (w - 1) then (v % 2 ^ w : Nat) else ((v % 2 ^ w : Nat) : Int) - (2 ^ w : Nat)

/-- The `w`-bit two's complement code of an integer. -/
def ofSigned (w : Nat) (i : Int) : Nat := (i % ((2 ^ w : Nat) : Int)).toNat

/-- Bit `b` of a value. -/
def bitOf (v b : Nat) : Bool := v / 2 ^ b % 2 = 1

/-- Bits `hi` to `lo` of a value. -/
def bitsOf (v hi lo : Nat) : Nat := v / 2 ^ lo % 2 ^ (hi + 1 - lo)

/-- `n` bytes of a value, least significant first (R7). -/
def le : Nat → Nat → List Nat
  | 0, _ => []
  | n + 1, v => v % 256 :: le n (v / 256)

/-- The value of bytes given least significant first (R7). -/
def ofLe : List Nat → Nat
  | [] => 0
  | b :: t => b % 256 + 256 * ofLe t

/-- The bytes `a` to `a + n - 1` of a list, 0 beyond its end. -/
def slice (bs : List Nat) (a n : Nat) : List Nat := ((bs.drop a).take n) ++ List.replicate (n - (bs.length - a)) 0

/-- A number put into a rising list. -/
def insertNat (k : Nat) : List Nat → List Nat
  | [] => [k]
  | a :: t => if k ≤ a then k :: a :: t else a :: insertNat k t

/-- A list of numbers in rising order. -/
def sortNat : List Nat → List Nat
  | [] => []
  | a :: t => insertNat a (sortNat t)

/-- Bitwise exclusive or of two numbers. -/
def bxor (a b : Nat) : Nat := Nat.xor a b

/-- Bitwise and. -/
def band (a b : Nat) : Nat := Nat.land a b

/-- Bitwise or. -/
def bor (a b : Nat) : Nat := Nat.lor a b

/-- One bit step of the CRC-16 of R403. -/
def crc16Bit (c : Nat) : Nat := if 32768 ≤ c then bxor (c * 2) 0x1021 % 65536 else c * 2 % 65536

/-- One bit step of the CRC-8 of R403. -/
def crc8Bit (c : Nat) : Nat := if 128 ≤ c then bxor (c * 2) 0x07 % 256 else c * 2 % 256

/-- One bit step of the reflected CRC-32 of R102. -/
def crc32Bit (c : Nat) : Nat := if c % 2 = 1 then bxor (c / 2) 0xEDB88320 else c / 2

/-- A step made `n` times. -/
def iter {α : Type} (f : α → α) : Nat → α → α
  | 0, x => x
  | n + 1, x => iter f n (f x)

/-- The CRC-16 of R403. -/
def crc16 (bs : List Nat) : Nat := bs.foldl (fun c b => iter crc16Bit 8 (bxor c (b * 256))) 0xFFFF

/-- The CRC-8 of R403. -/
def crc8 (bs : List Nat) : Nat := bs.foldl (fun c b => iter crc8Bit 8 (bxor c b)) 0

/-- The CRC-32 of R102 with the initial value it is given. -/
def crc32From (ini : Nat) (bs : List Nat) : Nat :=
  bxor (bs.foldl (fun c b => iter crc32Bit 8 (bxor c b)) ini) 0xFFFFFFFF

/-- The CRC-32 of R102. -/
def crc32 (bs : List Nat) : Nat := crc32From 0xFFFFFFFF bs

/-- The CRC-4 of R156 over bits 11 to 0 of a status word. -/
def crc4 (w : Nat) : Nat :=
  (List.range 12).foldl (fun c i => if c % 2 ≠ w / 2 ^ i % 2 then bxor (c / 2) 0xC else c / 2) 0xF

/-! ### Ordered sets and frames as bytes -/

/-- Bytes 0 to 23 of a CAP set (R73). -/
def Cap.bytes (c : Cap) : List Nat :=
  [c.role, c.stepping, c.verMin, c.verMax] ++ le 16 c.monument ++ le 2 c.feed ++
  [c.ack.toNat + 2 * c.feReq.toNat + 4 * c.feRefused.toNat + 8 * c.ansReq.toNat, 0]

/-- The CAP set with its CRC (R73). -/
def Cap.sealed (c : Cap) : Cap := { c with crc := crc16 c.bytes }

/-- A CAP set is valid when its CRC passes (R73). -/
def Cap.ok (c : Cap) : Bool := c.crc = crc16 c.bytes

/-- Bytes 0 to 5 of a DM set (R80). -/
def Dm.bytes (d : Dm) : List Nat := [d.response.toNat, d.seq] ++ le 4 d.turn

/-- The DM set with its CRC (R80). -/
def Dm.sealed (d : Dm) : Dm := { d with crc := crc8 d.bytes }

/-- A DM set is valid when its CRC passes (R80). -/
def Dm.ok (d : Dm) : Bool := d.crc = crc8 d.bytes

/-- Bytes 0 to 8 of a DA set (R82). -/
def Da.bytes (d : Da) : List Nat := le 4 d.acc ++ le 4 d.far ++ [d.accValid.toNat + 2 * d.farValid.toNat]

/-- The DA set with its CRC (R82). -/
def Da.sealed (d : Da) : Da := { d with crc := crc8 d.bytes }

/-- A DA set passes its CRC (R82). -/
def Da.ok (d : Da) : Bool := d.crc = crc8 d.bytes

/-- Header bytes 0 to 27 (R96). -/
def Header.bytes (h : Header) : List Nat :=
  le 4 h.seq ++ le 4 h.tick ++ le 2 h.sender ++ [h.fmt, h.flags] ++ le 4 h.epoch ++ [h.slots, h.msize] ++
  List.replicate 10 0

/-- The header with its CRC (R96, R102). -/
def Header.sealed (h : Header) : Header := { h with hcrc := crc32 h.bytes }

/-- HCRC passes (R102). -/
def Header.ok (h : Header) : Bool := h.hcrc = crc32 h.bytes

/-- Entry bytes 0 to 27 (R99). -/
def ArmEntry.bytes (e : ArmEntry) : List Nat :=
  le 2 e.n ++ le 2 e.aflags ++ le 4 e.t ++ le 2 e.frac ++ le 2 e.trim ++ le 2 e.hold ++ le 2 e.apply ++
  le 4 e.epoch ++ List.replicate 8 0

/-- The entry with its CRC (R99, R102). -/
def ArmEntry.sealed (e : ArmEntry) : ArmEntry := { e with acrc := crc32 e.bytes }

/-- ACRC passes (R102). -/
def ArmEntry.ok (e : ArmEntry) : Bool := e.acrc = crc32 e.bytes

/-- PDU bytes 0 to 11 (R100). -/
def Pdu.bytes (p : Pdu) : List Nat :=
  [p.chan, p.cmd, p.arms, p.rsv3] ++ le 4 p.cnt ++ le 2 p.src ++ le 2 p.rsv10

/-- The initial value of SCRC: PDU Y starts from its own (R102). -/
def scrcInit (y : Bool) : Nat := if y then 0x5A5A5A5A else 0xFFFFFFFF

/-- The PDU with the SCRC of its position (R102). -/
def Pdu.sealed (y : Bool) (p : Pdu) : Pdu := { p with scrc := crc32From (scrcInit y) p.bytes }

/-- SCRC passes for the position (R102). -/
def Pdu.ok (y : Bool) (p : Pdu) : Bool := p.scrc = crc32From (scrcInit y) p.bytes

/-- Management-slot bytes 0 to M - 5 (R104). -/
def MgmtSlot.bytes (m : Nat) (g : MgmtSlot) : List Nat := [g.kind, 0] ++ le 2 g.used ++ slice g.area 0 (m - 8)

/-- The slot with its CRC (R104). -/
def MgmtSlot.sealed (m : Nat) (g : MgmtSlot) : MgmtSlot := { g with mcrc := crc32 (g.bytes m) }

/-- MCRC passes (R102). -/
def MgmtSlot.ok (m : Nat) (g : MgmtSlot) : Bool := g.mcrc = crc32 (g.bytes m)

/-- Slot bytes 0 to 13 (R110). -/
def TeleSlot.bytes (t : TeleSlot) : List Nat :=
  le 4 t.vs ++ le 2 t.temp ++ le 2 t.fsum ++ le 4 t.epoch ++ [t.wr, 0]

/-- The telemetry slot with its CRC-16 (R110). -/
def TeleSlot.sealed (t : TeleSlot) : TeleSlot := { t with crc := crc16 t.bytes }

/-- The telemetry slot passes its CRC-16 (R110). -/
def TeleSlot.ok (t : TeleSlot) : Bool := t.crc = crc16 t.bytes

/-- All 16 bytes of a telemetry slot. -/
def TeleSlot.all (t : TeleSlot) : List Nat := t.bytes ++ le 2 t.crc

/-- The region CRC covers all telemetry slots and trailer bytes 0 to 11 (R102, R112). -/
def regionCrc (slots : List TeleSlot) (wcount : Nat) : Nat :=
  crc32 (slots.flatMap TeleSlot.all ++ le 2 wcount ++ List.replicate 10 0)

/-- The region CRC of a frame passes. -/
def Frame.regionOk (f : Frame) : Bool := f.rcrc = regionCrc f.slots f.wcount

/-- Management-slot size of a frame, from its header (R95). -/
def Frame.m (f : Frame) : Nat := 16 * f.hdr.msize

/-- Entry `a` of the arm block. -/
def Frame.arm (f : Frame) (a : Nat) : ArmEntry := f.arms.getD a {}

end Sys2Proof

namespace Sys2Proof.Machine

/-! ### Time arithmetic -/

/-- Station time moved on by a number of nanoseconds (R45). -/
def Time.addNs (t : Time) (n : Nat) : Time :=
  { t with sec := (t.sec + (t.ns + n) / 1000000000) % 2 ^ 64, ns := (t.ns + n) % 1000000000 }

/-- Whole nanoseconds since second 0. -/
def Time.total (t : Time) : Nat := t.sec * 1000000000 + t.ns

/-- Station time from whole nanoseconds. -/
def Time.ofTotal (n : Nat) : Time := { sec := n / 1000000000 % 2 ^ 64, ns := n % 1000000000, frac := 0 }

/-- Station time moved on by units of 2^-16 ns (R45). -/
def Time.addFrac (t : Time) (n : Nat) : Time :=
  { (t.addNs ((t.frac + n) / 65536)) with frac := (t.frac + n) % 65536 }

/-- Station time moved back by units of 2^-16 ns, not below 0. -/
def Time.subFrac (t : Time) (n : Nat) : Time :=
  let v := t.total * 65536 + t.frac - n
  { Time.ofTotal (v / 65536) with frac := v % 65536 }

/-- The TIME field of a record (R302). -/
def Time.word (t : Time) : Nat := t.sec % 2 ^ 34 * 2 ^ 30 + t.ns

/-- The smallest integer j for which `e` plus j periods of `p` is no earlier than `x` (R31 to R33). -/
def gridUp (e p x : Int) : Int := -((e - x) / p)

end Sys2Proof.Machine
end

