-- ==== Sys2Proof/Machine/Maps.lean ====
section
/-! DEFINITION. Reading and writing the sparse tables of the state. -/

namespace Sys2Proof.Machine

/-- The entry of key `k`, if the table lists one. -/
def kget {α : Type} : KMap α → Nat → Option α
  | [], _ => none
  | (a, v) :: t, k => if a = k then some v else kget t k

/-- The table with `v` at key `k`, keys kept rising. -/
def kset {α : Type} : KMap α → Nat → α → KMap α
  | [], k, v => [(k, v)]
  | (a, w) :: t, k, v =>
    if k < a then (k, v) :: (a, w) :: t
    else if k = a then (k, v) :: t
    else (a, w) :: kset t k v

/-- The table without key `k`. -/
def kdel {α : Type} : KMap α → Nat → KMap α
  | [], _ => []
  | (a, w) :: t, k => if a = k then kdel t k else (a, w) :: kdel t k

/-- Every key lies above `b` and the keys rise. -/
def kwfFrom {α : Type} : Nat → KMap α → Bool
  | _, [] => true
  | b, (a, _) :: t => (b ≤ a) && kwfFrom (a + 1) t

/-- The canonical form of a table: keys strictly rising. -/
def kwf {α : Type} (m : KMap α) : Bool := kwfFrom 0 m

end Sys2Proof.Machine
end

