-- ==== Sys2Proof/Machine/Fields.lean ====
section
/-! DEFINITION. The register map of stepping B0: every field of every register table of spec/, as a constant.
A field is known by the management address of its word at the default base (R352) and its lowest bit.
A field that the spec calls configuration has a shadow and an active copy (R342). -/

namespace Sys2Proof.Machine

/-- A register field: word address, lowest bit, width, and its value after PORn. -/
structure Fld where
  addr : Nat
  lo : Nat
  width : Nat
  reset : Nat
deriving DecidableEq, Repr

/-- The key of a field in the register tables of the state. -/
def Fld.key (f : Fld) : Nat := f.addr * 32 + f.lo

/-- The default severity class of a fault source, from the fault tables of the chapters; a source that no table
names has class 0 (log entry 5). -/
def defaultClass (s : Nat) : Nat :=
  if s = 0 then 2
  else if s ≤ 4 then 3
  else if s ≤ 11 then (if s ≤ 6 then 3 else 2)
  else if s = 12 then 3
  else if s ≤ 14 then 1
  else if s = 15 then 3
  else if s = 16 then 2
  else if s ≤ 23 then 1
  else if s = 24 then 2
  else if s ≤ 26 then 1
  else if s = 27 then 2
  else if s = 28 then 0
  else if s = 29 then 1
  else if s = 30 then 2
  else if s = 31 then 1
  else if s ≤ 47 then 2
  else if s ≤ 63 then 1
  else if s ≤ 70 then 1
  else if s = 71 then 3
  else if s = 72 then 2
  else if s = 73 then 0
  else if s ≤ 77 then 1
  else if s = 78 then 2
  else if s ≤ 80 then 1
  else if s < 96 then 0
  else if s ≤ 107 then 2
  else if s = 108 then 1
  else if s = 109 then 0
  else if s = 110 then 2
  else if s = 111 then 4
  else if s = 112 then 1
  else if s = 113 then 0
  else if s ≤ 115 then 1
  else if s < 128 then 0
  else if s ≤ 129 then 1
  else if s ≤ 133 then 2
  else if s = 134 then 1
  else if s = 135 then 0
  else if s = 136 then 1
  else if s = 137 then 0
  else if s = 138 then 1
  else if s < 160 then 0
  else if s ≤ 161 then 1
  else if s ≤ 163 then 2
  else if s ≤ 168 then 1
  else if s < 176 then 0
  else if s ≤ 177 then 3
  else if s = 178 then 0
  else if s ≤ 180 then 1
  else if s = 181 then 0
  else if s = 182 then 1
  else if s = 183 then 0
  else if s = 184 then 1
  else if s < 192 then 0
  else if s = 192 then 3
  else if s ≤ 198 then 1
  else if s < 224 then 0
  else if s ≤ 231 then 1
  else 0


/-! ### Block 0x01 -/

def SYS_LOCK_TIME : Fld := ⟨0x10040, 0, 1, 0⟩
def SYS_LOCK_TRV : Fld := ⟨0x10040, 1, 1, 0⟩
def SYS_LOCK_TRVTEST : Fld := ⟨0x10040, 2, 1, 0⟩
def SYS_LOCK_GATE : Fld := ⟨0x10040, 3, 1, 0⟩
def SYS_LOCK_OV : Fld := ⟨0x10040, 4, 1, 0⟩
def SYS_LOCK_LOOP : Fld := ⟨0x10040, 5, 1, 0⟩
def SYS_LOCK_INJ : Fld := ⟨0x10040, 6, 1, 0⟩
def SYS_LOCK_LEASE : Fld := ⟨0x10040, 7, 1, 0⟩
def SYS_LOCK_SAFE : Fld := ⟨0x10040, 8, 1, 0⟩
def SYS_LOCK_FAULT : Fld := ⟨0x10040, 9, 1, 0⟩
def SYS_LOCK_FB : Fld := ⟨0x10040, 10, 1, 0⟩
def SYS_PAR_ADDR_ADDR : Fld := ⟨0x10044, 0, 24, 0⟩
def SYS_PAR_ADDR_SHADOW : Fld := ⟨0x10044, 24, 1, 0⟩
def SYS_STRAP_ROLE : Fld := ⟨0x10010, 0, 2, 0⟩
def SYS_STRAP_CLPOS : Fld := ⟨0x10010, 2, 4, 0⟩
def SYS_STRAP_BOARD : Fld := ⟨0x10010, 6, 1, 0⟩
def SYS_STRAP_TWPREF : Fld := ⟨0x10010, 7, 1, 0⟩
def SYS_RSTCAUSE_KIND : Fld := ⟨0x10014, 0, 2, 0⟩
/-! ### Block 0x02 -/

def FC_CTRL_VEC : Fld := ⟨0x20000, 0, 6, 0⟩
def FC_STAT_PENDING : Fld := ⟨0x20004, 0, 1, 0⟩
def FC_STAT_DEGRADE : Fld := ⟨0x20004, 1, 1, 0⟩
def FC_STAT_BLOCK_ACT : Fld := ⟨0x20004, 2, 1, 0⟩
def FC_STAT_TERMINAL : Fld := ⟨0x20004, 3, 1, 0⟩
def FC_STAT_ALIVE_RUN : Fld := ⟨0x20004, 4, 1, 0⟩
def FC_STAT_WD_EXP : Fld := ⟨0x20004, 5, 1, 0⟩
def FC_FIRST_SRC : Fld := ⟨0x20008, 0, 8, 0⟩
def FC_FIRST_VALID : Fld := ⟨0x20008, 8, 1, 0⟩
def WD_CFG_EN : Fld := ⟨0x20010, 0, 1, 0⟩
def WD_CFG_RST_EN : Fld := ⟨0x20010, 1, 1, 1⟩
def WD_CFG_TMO : Fld := ⟨0x20010, 16, 10, 100⟩
def WD_FEED_KEY : Fld := ⟨0x20014, 0, 16, 0⟩
def FC_STATUS_SRC (i : Nat) : Fld := ⟨0x20100 + 0x4 * i, 0, 32, 0⟩
def FC_ACTIVE_SRC (i : Nat) : Fld := ⟨0x20120 + 0x4 * i, 0, 32, 0⟩
def FC_EN_SRC (i : Nat) : Fld := ⟨0x20140 + 0x4 * i, 0, 32, 4294967295⟩
def FC_FORCE_SRC (i : Nat) : Fld := ⟨0x20160 + 0x4 * i, 0, 32, 0⟩
def FC_SRC_CLASS (i : Nat) : Fld := ⟨0x20400 + 0x4 * i, 0, 3, defaultClass i⟩
def FC_SRC_TAIL (i : Nat) : Fld := ⟨0x20400 + 0x4 * i, 3, 1, 0⟩
def FC_SRC_FIXED (i : Nat) : Fld := ⟨0x20400 + 0x4 * i, 4, 1, if i = 111 ∨ i = 176 ∨ i = 177 then 1 else 0⟩
def WD_BADFEED : Fld := ⟨0x20040, 0, 31, 0⟩
def WD_BADFEED_OVF : Fld := ⟨0x20040, 31, 1, 0⟩
/-! ### Block 0x03 -/

def FB_CTRL_FREEZE : Fld := ⟨0x30000, 0, 1, 0⟩
def FB_CTRL_CLEAR : Fld := ⟨0x30000, 1, 2, 0⟩
def FB_CFG_MERGE_WIN : Fld := ⟨0x30004, 0, 16, 0⟩
def FB_CFG_FRZ_MAX : Fld := ⟨0x30004, 16, 10, 100⟩
def FB_STAT_FROZEN : Fld := ⟨0x30008, 0, 1, 0⟩
def FB_STAT_QFILL : Fld := ⟨0x30008, 1, 6, 0⟩
def FB_STAT_LOST_PEND : Fld := ⟨0x30008, 7, 1, 0⟩
def FB_STAT_TAIL_VALID : Fld := ⟨0x30008, 8, 1, 0⟩
def FB_STAT_FRZ_EXP : Fld := ⟨0x30008, 9, 1, 0⟩
def FB_HEAD_SEQ : Fld := ⟨0x3000C, 0, 32, 0⟩
def FB_TAILHEAD_SEQ : Fld := ⟨0x30010, 0, 32, 0⟩
def FB_CURSOR_CURSOR : Fld := ⟨0x30014, 0, 31, 0⟩
def FB_CURSOR_SPACE : Fld := ⟨0x30014, 31, 1, 0⟩
def FB_WIN_REC (i j : Nat) : Fld := ⟨0x30800 + 0x20 * i + 0x4 * j, 0, 32, 0⟩
def FB_LOST : Fld := ⟨0x30040, 0, 31, 0⟩
def FB_LOST_OVF : Fld := ⟨0x30040, 31, 1, 0⟩
def FB_MERGED : Fld := ⟨0x30044, 0, 31, 0⟩
def FB_MERGED_OVF : Fld := ⟨0x30044, 31, 1, 0⟩
/-! ### Block 0x04 -/

def TB_CTRL_TICK_EN : Fld := ⟨0x40000, 0, 1, 0⟩
def TB_CTRL_SRC : Fld := ⟨0x40000, 1, 3, 0⟩
def TB_CTRL_STEP : Fld := ⟨0x40000, 4, 1, 0⟩
def TB_STAT_TICK_RUN : Fld := ⟨0x40004, 0, 1, 0⟩
def TB_STAT_TICK_LOCK : Fld := ⟨0x40004, 1, 1, 0⟩
def TB_STAT_HOLDOVER : Fld := ⟨0x40004, 2, 1, 0⟩
def TB_STAT_SLEW_CLAMP : Fld := ⟨0x40004, 3, 1, 0⟩
def TB_STAT_TIME_VALID : Fld := ⟨0x40004, 4, 1, 0⟩
def TB_STAT_TWIN_ALIGNED : Fld := ⟨0x40004, 5, 1, 0⟩
def TB_STAT_STROBE_REF : Fld := ⟨0x40004, 6, 1, 0⟩
def TB_PERIOD_PERIOD : Fld := ⟨0x40008, 0, 16, 5000⟩
def TB_SAMPLE_S : Fld := ⟨0x4000C, 0, 16, 250⟩
def TB_CUTOFF_LEAD : Fld := ⟨0x40010, 0, 16, 250⟩
def TB_EPOCH_SEC_LO_SEC : Fld := ⟨0x40014, 0, 32, 0⟩
def TB_EPOCH_SEC_HI_SEC : Fld := ⟨0x40018, 0, 32, 0⟩
def TB_EPOCH_OFS_OFS : Fld := ⟨0x4001C, 0, 29, 0⟩
def TB_TICK_BASE_LO_K0 : Fld := ⟨0x40020, 0, 32, 0⟩
def TB_TICK_BASE_HI_K0 : Fld := ⟨0x40024, 0, 32, 0⟩
def TB_FTRIM_TRIM : Fld := ⟨0x40028, 0, 32, 0⟩
def TB_SLEWLIM_LIM : Fld := ⟨0x4002C, 0, 16, 100⟩
def TB_SET_SEC_LO_VAL : Fld := ⟨0x40030, 0, 32, 0⟩
def TB_SET_SEC_HI_VAL : Fld := ⟨0x40034, 0, 32, 0⟩
def TB_SET_NS_VAL : Fld := ⟨0x40038, 0, 32, 0⟩
def TB_APPLY_A (i : Nat) : Fld := ⟨0x40040 + 0x4 * i, 0, 16, 1000⟩
def TB_TPHASE_ERR : Fld := ⟨0x40060, 0, 31, 0⟩
def TB_TPHASE_ERR_OVF : Fld := ⟨0x40060, 31, 1, 0⟩
def TB_HOLDOVER : Fld := ⟨0x40064, 0, 31, 0⟩
def TB_HOLDOVER_OVF : Fld := ⟨0x40064, 31, 1, 0⟩
def TEV_CTRL_EN (i : Nat) : Fld := ⟨0x40100 + 0x20 * i, 0, 1, 0⟩
def TEV_CTRL_MODE (i : Nat) : Fld := ⟨0x40100 + 0x20 * i, 1, 1, 0⟩
def TEV_CTRL_OUT_EN (i : Nat) : Fld := ⟨0x40100 + 0x20 * i, 2, 1, 0⟩
def TEV_CTRL_POL (i : Nat) : Fld := ⟨0x40100 + 0x20 * i, 3, 1, 0⟩
def TEV_CTRL_ADCSTART (i : Nat) : Fld := ⟨0x40100 + 0x20 * i, 4, 4, 0⟩
def TEV_SEC_LO_VAL (i : Nat) : Fld := ⟨0x40104 + 0x20 * i, 0, 32, 0⟩
def TEV_SEC_HI_VAL (i : Nat) : Fld := ⟨0x40108 + 0x20 * i, 0, 32, 0⟩
def TEV_NS_VAL (i : Nat) : Fld := ⟨0x4010C + 0x20 * i, 0, 32, 0⟩
def TEV_PER_VAL (i : Nat) : Fld := ⟨0x40110 + 0x20 * i, 0, 32, 0⟩
def TEV_WID_VAL (i : Nat) : Fld := ⟨0x40114 + 0x20 * i, 0, 32, 0⟩
def TEV_STAT_FIRED (i : Nat) : Fld := ⟨0x40118 + 0x20 * i, 0, 1, 0⟩
def TEV_STAT_MISSED (i : Nat) : Fld := ⟨0x40118 + 0x20 * i, 1, 1, 0⟩
def PTP_CTRL_EN (i : Nat) : Fld := ⟨0x40200 + 0x40 * i, 0, 1, 0⟩
def PTP_CTRL_ONESTEP (i : Nat) : Fld := ⟨0x40200 + 0x40 * i, 1, 1, 0⟩
def PTP_CTRL_TRANSPORT (i : Nat) : Fld := ⟨0x40200 + 0x40 * i, 2, 2, 0⟩
def PTP_LAT_EGRESS (i : Nat) : Fld := ⟨0x40204 + 0x40 * i, 0, 16, 0⟩
def PTP_LAT_INGRESS (i : Nat) : Fld := ⟨0x40204 + 0x40 * i, 16, 16, 0⟩
def PTP_DROP (i : Nat) : Fld := ⟨0x40208 + 0x40 * i, 0, 31, 0⟩
def PTP_DROP_OVF (i : Nat) : Fld := ⟨0x40208 + 0x40 * i, 31, 1, 0⟩
/-! ### Block 0x05 -/

def TRV_CTRL_EN (i : Nat) : Fld := ⟨0x50000 + 0x1000 * i, 0, 1, 0⟩
def TRV_CTRL_BLIND_EN (i : Nat) : Fld := ⟨0x50000 + 0x1000 * i, 1, 1, 0⟩
def TRV_CTRL_FE_ALLOW (i : Nat) : Fld := ⟨0x50000 + 0x1000 * i, 2, 1, 0⟩
def TRV_CTRL_LBYP_REL (i : Nat) : Fld := ⟨0x50000 + 0x1000 * i, 3, 1, 0⟩
def TRV_CTRL_RESTART (i : Nat) : Fld := ⟨0x50000 + 0x1000 * i, 4, 1, 0⟩
def TRV_STAT_STATE (i : Nat) : Fld := ⟨0x50004 + 0x1000 * i, 0, 4, 0⟩
def TRV_STAT_LBYP_ON (i : Nat) : Fld := ⟨0x50004 + 0x1000 * i, 4, 1, 0⟩
def TRV_STAT_CACHE_VALID (i : Nat) : Fld := ⟨0x50004 + 0x1000 * i, 5, 1, 0⟩
def TRV_STAT_DLY_VALID (i : Nat) : Fld := ⟨0x50004 + 0x1000 * i, 6, 1, 0⟩
def TRV_STAT_FAR_VALID (i : Nat) : Fld := ⟨0x50004 + 0x1000 * i, 7, 1, 0⟩
def TRV_STAT_APPLY_MARGIN (i : Nat) : Fld := ⟨0x50004 + 0x1000 * i, 8, 1, 0⟩
def TRV_STAT_VER (i : Nat) : Fld := ⟨0x50004 + 0x1000 * i, 16, 8, 0⟩
def TRV_LCAUSE_BU_TIMEOUT (i : Nat) : Fld := ⟨0x50008 + 0x1000 * i, 0, 1, 0⟩
def TRV_LCAUSE_INCOMPAT (i : Nat) : Fld := ⟨0x50008 + 0x1000 * i, 1, 1, 0⟩
def TRV_LCAUSE_FEEDER_MISMATCH (i : Nat) : Fld := ⟨0x50008 + 0x1000 * i, 2, 1, 0⟩
def TRV_LCAUSE_PARTNER_CHANGED (i : Nat) : Fld := ⟨0x50008 + 0x1000 * i, 3, 1, 0⟩
def TRV_LCAUSE_LOCK_LOST (i : Nat) : Fld := ⟨0x50008 + 0x1000 * i, 4, 1, 0⟩
def TRV_LCAUSE_DLY_SPREAD (i : Nat) : Fld := ⟨0x50008 + 0x1000 * i, 5, 1, 0⟩
def TRV_LCAUSE_FE_REFUSED (i : Nat) : Fld := ⟨0x50008 + 0x1000 * i, 6, 1, 0⟩
def TRV_LCAUSE_TEST (i : Nat) : Fld := ⟨0x50008 + 0x1000 * i, 7, 1, 0⟩
def TRV_LCAUSE_RXC_LOST (i : Nat) : Fld := ⟨0x50008 + 0x1000 * i, 8, 1, 0⟩
def TRV_BUCFG_RETRY (i : Nat) : Fld := ⟨0x5000C + 0x1000 * i, 0, 8, 8⟩
def TRV_PARTNER_ROLE (i : Nat) : Fld := ⟨0x50010 + 0x1000 * i, 0, 8, 0⟩
def TRV_PARTNER_STEPPING (i : Nat) : Fld := ⟨0x50010 + 0x1000 * i, 8, 8, 0⟩
def TRV_PARTNER_VER_MIN (i : Nat) : Fld := ⟨0x50010 + 0x1000 * i, 16, 8, 0⟩
def TRV_PARTNER_VER_MAX (i : Nat) : Fld := ⟨0x50010 + 0x1000 * i, 24, 8, 0⟩
def TRV_LINKDLY_DLY (i : Nat) : Fld := ⟨0x50014 + 0x1000 * i, 0, 32, 0⟩
def TRV_CHAINDLY_DLY (i : Nat) : Fld := ⟨0x5001C + 0x1000 * i, 0, 32, 0⟩
def TRV_FARDLY_DLY (i : Nat) : Fld := ⟨0x50020 + 0x1000 * i, 0, 32, 0⟩
def TRV_ASYM_ASYM (i : Nat) : Fld := ⟨0x50018 + 0x1000 * i, 0, 16, 0⟩
def TRV_HOPLAT_LAT (i : Nat) : Fld := ⟨0x50024 + 0x1000 * i, 0, 16, 0⟩
def TRV_TEST_LOOP (i : Nat) : Fld := ⟨0x50040 + 0x1000 * i, 0, 3, 0⟩
def TRV_TEST_GEN (i : Nat) : Fld := ⟨0x50040 + 0x1000 * i, 3, 2, 0⟩
def TRV_TEST_CHK (i : Nat) : Fld := ⟨0x50040 + 0x1000 * i, 5, 2, 0⟩
def TRV_TEST_SQUELCH (i : Nat) : Fld := ⟨0x50040 + 0x1000 * i, 7, 1, 0⟩
def TRV_INJ_SINGLE (i : Nat) : Fld := ⟨0x50044 + 0x1000 * i, 0, 1, 0⟩
def TRV_INJ_BURST (i : Nat) : Fld := ⟨0x50044 + 0x1000 * i, 1, 1, 0⟩
def TRV_INJ_PRBS_CLR (i : Nat) : Fld := ⟨0x50044 + 0x1000 * i, 2, 1, 0⟩
def TRV_INJ_LEN (i : Nat) : Fld := ⟨0x50044 + 0x1000 * i, 8, 8, 0⟩
def TRV_PRBS_STAT_CHK_LOCK (i : Nat) : Fld := ⟨0x50048 + 0x1000 * i, 0, 1, 0⟩
def TRV_PRBS_STAT_ERR (i : Nat) : Fld := ⟨0x50048 + 0x1000 * i, 1, 1, 0⟩
def TRV_PRBS_STAT_LOCK_LOST (i : Nat) : Fld := ⟨0x50048 + 0x1000 * i, 2, 1, 0⟩
def TRV_PRBS_STAT_CNT_OVF (i : Nat) : Fld := ⟨0x50048 + 0x1000 * i, 3, 1, 0⟩
def TRV_FCFG_SLOTS (i : Nat) : Fld := ⟨0x50100 + 0x1000 * i, 0, 7, 64⟩
def TRV_FCFG_MSIZE (i : Nat) : Fld := ⟨0x50100 + 0x1000 * i, 8, 8, 8⟩
def TRV_FCFG_FMT (i : Nat) : Fld := ⟨0x50100 + 0x1000 * i, 16, 4, 2⟩
def TRV_FCFG_TURN (i : Nat) : Fld := ⟨0x50100 + 0x1000 * i, 20, 2, 0⟩
def TRV_FCFG_DTURN (i : Nat) : Fld := ⟨0x50100 + 0x1000 * i, 22, 1, 0⟩
def TRV_MCFG_FREE_INT (i : Nat) : Fld := ⟨0x50104 + 0x1000 * i, 0, 8, 4⟩
def TRV_MCFG_RTO (i : Nat) : Fld := ⟨0x50104 + 0x1000 * i, 16, 16, 1000⟩
def TRV_SLOT_SLOT (i : Nat) : Fld := ⟨0x50108 + 0x1000 * i, 0, 6, 0⟩
def TRV_SLOT_VALID (i : Nat) : Fld := ⟨0x50108 + 0x1000 * i, 15, 1, 0⟩
def TRV_CLOSE_EXPECT (i : Nat) : Fld := ⟨0x5010C + 0x1000 * i, 0, 7, 0⟩
def TRV_CLOSE_TOPO (i : Nat) : Fld := ⟨0x5010C + 0x1000 * i, 8, 1, 0⟩
def TRV_CLOSE_PERSIST (i : Nat) : Fld := ⟨0x5010C + 0x1000 * i, 12, 4, 3⟩
def TRV_CLOSE_TOL (i : Nat) : Fld := ⟨0x5010C + 0x1000 * i, 16, 16, 128⟩
def TRV_CSTAT_PASS (i : Nat) : Fld := ⟨0x50110 + 0x1000 * i, 0, 1, 0⟩
def TRV_CSTAT_TURNED (i : Nat) : Fld := ⟨0x50110 + 0x1000 * i, 1, 1, 0⟩
def TRV_CSTAT_MISMATCH (i : Nat) : Fld := ⟨0x50110 + 0x1000 * i, 2, 6, 0⟩
def TRV_CSTAT_WCOUNT (i : Nat) : Fld := ⟨0x50110 + 0x1000 * i, 8, 7, 0⟩
def TRV_CSTAT_VSLOTS (i : Nat) : Fld := ⟨0x50110 + 0x1000 * i, 16, 7, 0⟩
def TRV_FCAUSE_APPLY_MARGIN (i : Nat) : Fld := ⟨0x50114 + 0x1000 * i, 0, 1, 0⟩
def TRV_FCAUSE_NO_FRAME (i : Nat) : Fld := ⟨0x50114 + 0x1000 * i, 1, 1, 0⟩
def TRV_FCAUSE_HDR_CRC (i : Nat) : Fld := ⟨0x50114 + 0x1000 * i, 2, 1, 0⟩
def TRV_FCAUSE_ARM_CRC (i : Nat) : Fld := ⟨0x50114 + 0x1000 * i, 3, 1, 0⟩
def TRV_FCAUSE_SAFE_CRC (i : Nat) : Fld := ⟨0x50114 + 0x1000 * i, 4, 1, 0⟩
def TRV_FCAUSE_MGMT_CRC (i : Nat) : Fld := ⟨0x50114 + 0x1000 * i, 5, 1, 0⟩
def TRV_FCAUSE_TELE_CRC (i : Nat) : Fld := ⟨0x50114 + 0x1000 * i, 6, 1, 0⟩
def TRV_FCAUSE (i : Nat) : Fld := ⟨0x50114 + 0x1000 * i, 7, 1, 0⟩
def TRV_FCAUSE_SENDER (i : Nat) : Fld := ⟨0x50114 + 0x1000 * i, 8, 1, 0⟩
def TRV_FCAUSE_SEQ (i : Nat) : Fld := ⟨0x50114 + 0x1000 * i, 9, 1, 0⟩
def TRV_FCAUSE_TRANSIT (i : Nat) : Fld := ⟨0x50114 + 0x1000 * i, 10, 1, 0⟩
def TRV_FCAUSE_TURNED (i : Nat) : Fld := ⟨0x50114 + 0x1000 * i, 11, 1, 0⟩
def TRV_FCAUSE_DUP_DIFF (i : Nat) : Fld := ⟨0x50114 + 0x1000 * i, 12, 1, 0⟩
def TRV_FCAUSE_FMT (i : Nat) : Fld := ⟨0x50114 + 0x1000 * i, 13, 1, 0⟩
def TRV_TRANSIT_DLY (i : Nat) : Fld := ⟨0x50118 + 0x1000 * i, 0, 32, 0⟩
def CV_CNT (i : Nat) : Fld := ⟨0x50080 + 0x1000 * i, 0, 31, 0⟩
def CV_CNT_OVF (i : Nat) : Fld := ⟨0x50080 + 0x1000 * i, 31, 1, 0⟩
def REALIGN_CNT (i : Nat) : Fld := ⟨0x50084 + 0x1000 * i, 0, 31, 0⟩
def REALIGN_CNT_OVF (i : Nat) : Fld := ⟨0x50084 + 0x1000 * i, 31, 1, 0⟩
def LOCKLOSS_CNT (i : Nat) : Fld := ⟨0x50088 + 0x1000 * i, 0, 31, 0⟩
def LOCKLOSS_CNT_OVF (i : Nat) : Fld := ⟨0x50088 + 0x1000 * i, 31, 1, 0⟩
def BUFAIL_CNT (i : Nat) : Fld := ⟨0x5008C + 0x1000 * i, 0, 31, 0⟩
def BUFAIL_CNT_OVF (i : Nat) : Fld := ⟨0x5008C + 0x1000 * i, 31, 1, 0⟩
def BLIND_CNT (i : Nat) : Fld := ⟨0x50090 + 0x1000 * i, 0, 31, 0⟩
def BLIND_CNT_OVF (i : Nat) : Fld := ⟨0x50090 + 0x1000 * i, 31, 1, 0⟩
def BLOCK_FWD_CNT (i : Nat) : Fld := ⟨0x50094 + 0x1000 * i, 0, 31, 0⟩
def BLOCK_FWD_CNT_OVF (i : Nat) : Fld := ⟨0x50094 + 0x1000 * i, 31, 1, 0⟩
def TMARK_FWD_CNT (i : Nat) : Fld := ⟨0x50098 + 0x1000 * i, 0, 31, 0⟩
def TMARK_FWD_CNT_OVF (i : Nat) : Fld := ⟨0x50098 + 0x1000 * i, 31, 1, 0⟩
def URG_ISO (i : Nat) : Fld := ⟨0x5009C + 0x1000 * i, 0, 31, 0⟩
def URG_ISO_OVF (i : Nat) : Fld := ⟨0x5009C + 0x1000 * i, 31, 1, 0⟩
def URG_DROP (i : Nat) : Fld := ⟨0x500A0 + 0x1000 * i, 0, 31, 0⟩
def URG_DROP_OVF (i : Nat) : Fld := ⟨0x500A0 + 0x1000 * i, 31, 1, 0⟩
def IDLE_SHORT (i : Nat) : Fld := ⟨0x500A4 + 0x1000 * i, 0, 31, 0⟩
def IDLE_SHORT_OVF (i : Nat) : Fld := ⟨0x500A4 + 0x1000 * i, 31, 1, 0⟩
def DA_ERR (i : Nat) : Fld := ⟨0x500A8 + 0x1000 * i, 0, 31, 0⟩
def DA_ERR_OVF (i : Nat) : Fld := ⟨0x500A8 + 0x1000 * i, 31, 1, 0⟩
def DA_STEP (i : Nat) : Fld := ⟨0x500AC + 0x1000 * i, 0, 31, 0⟩
def DA_STEP_OVF (i : Nat) : Fld := ⟨0x500AC + 0x1000 * i, 31, 1, 0⟩
def FRM_RX (i : Nat) : Fld := ⟨0x50140 + 0x1000 * i, 0, 31, 0⟩
def FRM_RX_OVF (i : Nat) : Fld := ⟨0x50140 + 0x1000 * i, 31, 1, 0⟩
def HDR_CRC (i : Nat) : Fld := ⟨0x50144 + 0x1000 * i, 0, 31, 0⟩
def HDR_CRC_OVF (i : Nat) : Fld := ⟨0x50144 + 0x1000 * i, 31, 1, 0⟩
def ARM_CRC (i : Nat) : Fld := ⟨0x50148 + 0x1000 * i, 0, 31, 0⟩
def ARM_CRC_OVF (i : Nat) : Fld := ⟨0x50148 + 0x1000 * i, 31, 1, 0⟩
def SAFE_CRC (i : Nat) : Fld := ⟨0x5014C + 0x1000 * i, 0, 31, 0⟩
def SAFE_CRC_OVF (i : Nat) : Fld := ⟨0x5014C + 0x1000 * i, 31, 1, 0⟩
def MGMT_CRC (i : Nat) : Fld := ⟨0x50150 + 0x1000 * i, 0, 31, 0⟩
def MGMT_CRC_OVF (i : Nat) : Fld := ⟨0x50150 + 0x1000 * i, 31, 1, 0⟩
def TELE_CRC (i : Nat) : Fld := ⟨0x50154 + 0x1000 * i, 0, 31, 0⟩
def TELE_CRC_OVF (i : Nat) : Fld := ⟨0x50154 + 0x1000 * i, 31, 1, 0⟩
def SLOT_CRC (i : Nat) : Fld := ⟨0x50158 + 0x1000 * i, 0, 31, 0⟩
def SLOT_CRC_OVF (i : Nat) : Fld := ⟨0x50158 + 0x1000 * i, 31, 1, 0⟩
def DUP_OK (i : Nat) : Fld := ⟨0x5015C + 0x1000 * i, 0, 31, 0⟩
def DUP_OK_OVF (i : Nat) : Fld := ⟨0x5015C + 0x1000 * i, 31, 1, 0⟩
def DUP_DIFF (i : Nat) : Fld := ⟨0x50160 + 0x1000 * i, 0, 31, 0⟩
def DUP_DIFF_OVF (i : Nat) : Fld := ⟨0x50160 + 0x1000 * i, 31, 1, 0⟩
def OLD_SEQ (i : Nat) : Fld := ⟨0x50164 + 0x1000 * i, 0, 31, 0⟩
def OLD_SEQ_OVF (i : Nat) : Fld := ⟨0x50164 + 0x1000 * i, 31, 1, 0⟩
def LOST (i : Nat) : Fld := ⟨0x50168 + 0x1000 * i, 0, 31, 0⟩
def LOST_OVF (i : Nat) : Fld := ⟨0x50168 + 0x1000 * i, 31, 1, 0⟩
def LATE (i : Nat) : Fld := ⟨0x5016C + 0x1000 * i, 0, 31, 0⟩
def LATE_OVF (i : Nat) : Fld := ⟨0x5016C + 0x1000 * i, 31, 1, 0⟩
def LEASE_REJ (i : Nat) : Fld := ⟨0x50170 + 0x1000 * i, 0, 31, 0⟩
def LEASE_REJ_OVF (i : Nat) : Fld := ⟨0x50170 + 0x1000 * i, 31, 1, 0⟩
def FMT_ERR (i : Nat) : Fld := ⟨0x50174 + 0x1000 * i, 0, 31, 0⟩
def FMT_ERR_OVF (i : Nat) : Fld := ⟨0x50174 + 0x1000 * i, 31, 1, 0⟩
def NO_DEC (i : Nat) : Fld := ⟨0x50178 + 0x1000 * i, 0, 31, 0⟩
def NO_DEC_OVF (i : Nat) : Fld := ⟨0x50178 + 0x1000 * i, 31, 1, 0⟩
def CLOSE_FAIL (i : Nat) : Fld := ⟨0x5017C + 0x1000 * i, 0, 31, 0⟩
def CLOSE_FAIL_OVF (i : Nat) : Fld := ⟨0x5017C + 0x1000 * i, 31, 1, 0⟩
def NO_FRAME (i : Nat) : Fld := ⟨0x50180 + 0x1000 * i, 0, 31, 0⟩
def NO_FRAME_OVF (i : Nat) : Fld := ⟨0x50180 + 0x1000 * i, 31, 1, 0⟩
def REL_ERR (i : Nat) : Fld := ⟨0x50184 + 0x1000 * i, 0, 31, 0⟩
def REL_ERR_OVF (i : Nat) : Fld := ⟨0x50184 + 0x1000 * i, 31, 1, 0⟩
def BLOCK_RX (i : Nat) : Fld := ⟨0x50188 + 0x1000 * i, 0, 31, 0⟩
def BLOCK_RX_OVF (i : Nat) : Fld := ⟨0x50188 + 0x1000 * i, 31, 1, 0⟩
/-! ### Block 0x06 -/

def LVL_CTRL_ARM_EN : Fld := ⟨0x60000, 0, 6, 0⟩
def LVL_CTRL_TWIN_AGREE : Fld := ⟨0x60000, 8, 1, 1⟩
def LVL_CTRL_REPMAX : Fld := ⟨0x60000, 9, 2, 2⟩
def LVL_CTRL_DEV_PERSIST : Fld := ⟨0x60000, 12, 4, 3⟩
def LVL_ARM_CFG_HOLD (i : Nat) : Fld := ⟨0x60100 + 0x20 * i, 0, 16, 0⟩
def LVL_ARM_CFG_REST (i : Nat) : Fld := ⟨0x60100 + 0x20 * i, 16, 16, 0⟩
def LVL_ARM_RESTCFG_SRC (i : Nat) : Fld := ⟨0x60104 + 0x20 * i, 0, 4, 0⟩
def LVL_ARM_RESTCFG_REST_EN (i : Nat) : Fld := ⟨0x60104 + 0x20 * i, 4, 1, 0⟩
def LVL_ARM_RESTCFG_DLY (i : Nat) : Fld := ⟨0x60104 + 0x20 * i, 8, 24, 100000⟩
def LVL_ARM_ORDER_N (i : Nat) : Fld := ⟨0x60108 + 0x20 * i, 0, 11, 0⟩
def LVL_ARM_ORDER_DIR (i : Nat) : Fld := ⟨0x60108 + 0x20 * i, 11, 1, 0⟩
def LVL_ARM_ORDER_FRAC (i : Nat) : Fld := ⟨0x60108 + 0x20 * i, 16, 16, 0⟩
def LVL_ARM_STAT_K (i : Nat) : Fld := ⟨0x6010C + 0x20 * i, 0, 11, 0⟩
def LVL_ARM_STAT_H (i : Nat) : Fld := ⟨0x6010C + 0x20 * i, 11, 11, 0⟩
def LVL_ARM_STAT_REPEAT (i : Nat) : Fld := ⟨0x6010C + 0x20 * i, 24, 1, 0⟩
def LVL_ARM_STAT_SHORT (i : Nat) : Fld := ⟨0x6010C + 0x20 * i, 25, 1, 0⟩
def LVL_ARM_STAT_SURPLUS (i : Nat) : Fld := ⟨0x6010C + 0x20 * i, 26, 1, 0⟩
def LVL_ARM_STAT_REST_ON (i : Nat) : Fld := ⟨0x6010C + 0x20 * i, 27, 1, 0⟩
def LVL_ARM_STAT_POSTED (i : Nat) : Fld := ⟨0x6010C + 0x20 * i, 28, 1, 0⟩
def LVL_ARM_T_T (i : Nat) : Fld := ⟨0x60110 + 0x20 * i, 0, 32, 0⟩
def LVL_ARM_SEL_NSEL (i : Nat) : Fld := ⟨0x60114 + 0x20 * i, 0, 11, 0⟩
def LVL_ARM_SEL_TRIM (i : Nat) : Fld := ⟨0x60114 + 0x20 * i, 16, 10, 0⟩
def LVL_ARM_SEL_TRIM_V (i : Nat) : Fld := ⟨0x60114 + 0x20 * i, 26, 1, 0⟩
def LVL_ARM_DEV_EXPECT (i : Nat) : Fld := ⟨0x60118 + 0x20 * i, 0, 11, 0⟩
def LVL_ARM_DEV_REAL (i : Nat) : Fld := ⟨0x60118 + 0x20 * i, 16, 11, 0⟩
def LVL_MAP_IDX (i j : Nat) : Fld := ⟨0x61000 + 0x100 * i + 0x4 * j, 0, 10, 0⟩
def LVL_MAP_ARM (i j : Nat) : Fld := ⟨0x61000 + 0x100 * i + 0x4 * j, 10, 3, 0⟩
def LVL_MAP_VALID (i j : Nat) : Fld := ⟨0x61000 + 0x100 * i + 0x4 * j, 15, 1, 0⟩
def LVL_MAP_ABSENT (i j : Nat) : Fld := ⟨0x61000 + 0x100 * i + 0x4 * j, 16, 1, 0⟩
def LVL_SIDX_IDX : Fld := ⟨0x60200, 0, 10, 0⟩
def LVL_SIDX_ARM : Fld := ⟨0x60200, 10, 3, 0⟩
def LVL_SIDX_ADOPTED : Fld := ⟨0x60200, 15, 1, 0⟩
def LVL_SSTAT_AVAIL : Fld := ⟨0x60204, 0, 1, 0⟩
def LVL_SSTAT_INS : Fld := ⟨0x60204, 1, 1, 0⟩
def LVL_SSTAT_TRIMMING : Fld := ⟨0x60204, 2, 1, 0⟩
def LVL_SSTAT_UNRANKED : Fld := ⟨0x60204, 3, 1, 0⟩
def LVL_SSTAT_LATCHHOLD : Fld := ⟨0x60204, 4, 1, 0⟩
def LVL_SSTAT_REFRESH : Fld := ⟨0x60204, 5, 1, 0⟩
def LVL_SCFG_UNRK_LIM : Fld := ⟨0x60208, 0, 8, 8⟩
def LVL_REPEAT : Fld := ⟨0x60080, 0, 31, 0⟩
def LVL_REPEAT_OVF : Fld := ⟨0x60080, 31, 1, 0⟩
def LVL_MISSING : Fld := ⟨0x60084, 0, 31, 0⟩
def LVL_MISSING_OVF : Fld := ⟨0x60084, 31, 1, 0⟩
def LVL_SHORT : Fld := ⟨0x60088, 0, 31, 0⟩
def LVL_SHORT_OVF : Fld := ⟨0x60088, 31, 1, 0⟩
def LVL_DEV : Fld := ⟨0x6008C, 0, 31, 0⟩
def LVL_DEV_OVF : Fld := ⟨0x6008C, 31, 1, 0⟩
def LVL_LATEORD : Fld := ⟨0x60090, 0, 31, 0⟩
def LVL_LATEORD_OVF : Fld := ⟨0x60090, 31, 1, 0⟩
def LVL_TWIN_DIFF : Fld := ⟨0x60094, 0, 31, 0⟩
def LVL_TWIN_DIFF_OVF : Fld := ⟨0x60094, 31, 1, 0⟩
def LVL_TWIN_LATE : Fld := ⟨0x60098, 0, 31, 0⟩
def LVL_TWIN_LATE_OVF : Fld := ⟨0x60098, 31, 1, 0⟩
def LVL_EPOCH_ERR : Fld := ⟨0x6009C, 0, 31, 0⟩
def LVL_EPOCH_ERR_OVF : Fld := ⟨0x6009C, 31, 1, 0⟩
def LVL_HOLD_CNT : Fld := ⟨0x60240, 0, 31, 0⟩
def LVL_HOLD_CNT_OVF : Fld := ⟨0x60240, 31, 1, 0⟩
def LVL_LATCHHOLD : Fld := ⟨0x60244, 0, 31, 0⟩
def LVL_LATCHHOLD_OVF : Fld := ⟨0x60244, 31, 1, 0⟩
def LVL_TRIMMED : Fld := ⟨0x60248, 0, 31, 0⟩
def LVL_TRIMMED_OVF : Fld := ⟨0x60248, 31, 1, 0⟩
def LVL_TRIMLOST : Fld := ⟨0x6024C, 0, 31, 0⟩
def LVL_TRIMLOST_OVF : Fld := ⟨0x6024C, 31, 1, 0⟩
/-! ### Block 0x07 -/

def SCH_CTRL_EN : Fld := ⟨0x70000, 0, 1, 0⟩
def SCH_STAT_INFLIGHT : Fld := ⟨0x70004, 0, 8, 0⟩
def SCH_STAT_BUSY_LANES : Fld := ⟨0x70004, 8, 5, 0⟩
def SCH_STAT_STALE_LAST : Fld := ⟨0x70004, 13, 1, 0⟩
def SCH_STAT_STROBE_REF : Fld := ⟨0x70004, 14, 1, 0⟩
def SCH_QDEPTH_DEPTH (i : Nat) : Fld := ⟨0x70010 + 0x4 * i, 0, 8, 128⟩
def SCH_QDEPTH_FILL (i : Nat) : Fld := ⟨0x70010 + 0x4 * i, 8, 8, 0⟩
def SCH_SETFLAG_FLAG : Fld := ⟨0x70040, 0, 5, 0⟩
def SCH_SETFLAG_SLOT : Fld := ⟨0x70040, 8, 7, 0⟩
def SCH_CANCEL_SLOT : Fld := ⟨0x70044, 0, 7, 0⟩
def SCH_ROUTE_SRC (i : Nat) : Fld := ⟨0x70200 + 0x4 * i, 0, 6, 0⟩
def SCH_ROUTE_SLOT (i : Nat) : Fld := ⟨0x70200 + 0x4 * i, 8, 7, 0⟩
def SCH_ROUTE_FLAG (i : Nat) : Fld := ⟨0x70200 + 0x4 * i, 16, 5, 0⟩
def SCH_ROUTE_EN (i : Nat) : Fld := ⟨0x70200 + 0x4 * i, 31, 1, 0⟩
def SCH_SLOT_CFG_EN (i : Nat) : Fld := ⟨0x71000 + 0x20 * i, 0, 1, 0⟩
def SCH_SLOT_CFG_PRIO (i : Nat) : Fld := ⟨0x71000 + 0x20 * i, 1, 3, 0⟩
def SCH_SLOT_CFG_DL_EN (i : Nat) : Fld := ⟨0x71000 + 0x20 * i, 4, 1, 0⟩
def SCH_SLOT_CFG_TCLR (i : Nat) : Fld := ⟨0x71000 + 0x20 * i, 5, 1, 0⟩
def SCH_SLOT_CFG_LANEMASK (i : Nat) : Fld := ⟨0x71000 + 0x20 * i, 16, 16, 65535⟩
def SCH_SLOT_MASK_MASK (i : Nat) : Fld := ⟨0x71004 + 0x20 * i, 0, 32, 0⟩
def SCH_SLOT_FLAGS_FLAGS (i : Nat) : Fld := ⟨0x71008 + 0x20 * i, 0, 32, 0⟩
def SCH_SLOT_ENTRY_ENTRY0 (i : Nat) : Fld := ⟨0x7100C + 0x20 * i, 0, 15, 0⟩
def SCH_SLOT_ENTRY_ENTRY1 (i : Nat) : Fld := ⟨0x7100C + 0x20 * i, 16, 15, 0⟩
def SCH_SLOT_DBASE_DBASE (i : Nat) : Fld := ⟨0x71010 + 0x20 * i, 0, 21, 0⟩
def SCH_SLOT_DONE_SLOT0 (i : Nat) : Fld := ⟨0x71014 + 0x20 * i, 0, 7, 0⟩
def SCH_SLOT_DONE_FLAG0 (i : Nat) : Fld := ⟨0x71014 + 0x20 * i, 7, 5, 0⟩
def SCH_SLOT_DONE_EN0 (i : Nat) : Fld := ⟨0x71014 + 0x20 * i, 12, 1, 0⟩
def SCH_SLOT_DONE_SLOT1 (i : Nat) : Fld := ⟨0x71014 + 0x20 * i, 16, 7, 0⟩
def SCH_SLOT_DONE_FLAG1 (i : Nat) : Fld := ⟨0x71014 + 0x20 * i, 23, 5, 0⟩
def SCH_SLOT_DONE_EN1 (i : Nat) : Fld := ⟨0x71014 + 0x20 * i, 28, 1, 0⟩
def SCH_SLOT_STAT_STATE (i : Nat) : Fld := ⟨0x71018 + 0x20 * i, 0, 3, 0⟩
def SCH_SLOT_STAT_DONE_TICK (i : Nat) : Fld := ⟨0x71018 + 0x20 * i, 3, 1, 0⟩
def SCH_SLOT_STAT_OVR_LAST (i : Nat) : Fld := ⟨0x71018 + 0x20 * i, 4, 1, 0⟩
def SCH_SLOT_STAT_LANE (i : Nat) : Fld := ⟨0x71018 + 0x20 * i, 5, 4, 0⟩
def SCH_SLOT_OVR (i : Nat) : Fld := ⟨0x7101C + 0x20 * i, 0, 31, 0⟩
def SCH_SLOT_OVR_OVF (i : Nat) : Fld := ⟨0x7101C + 0x20 * i, 31, 1, 0⟩
def READY_CNT : Fld := ⟨0x70080, 0, 31, 0⟩
def READY_CNT_OVF : Fld := ⟨0x70080, 31, 1, 0⟩
def DISP_CNT : Fld := ⟨0x70084, 0, 31, 0⟩
def DISP_CNT_OVF : Fld := ⟨0x70084, 31, 1, 0⟩
def CANCEL_CNT : Fld := ⟨0x70088, 0, 31, 0⟩
def CANCEL_CNT_OVF : Fld := ⟨0x70088, 31, 1, 0⟩
def READY_CANCEL : Fld := ⟨0x7008C, 0, 31, 0⟩
def READY_CANCEL_OVF : Fld := ⟨0x7008C, 31, 1, 0⟩
def HOLD_CNT : Fld := ⟨0x70090, 0, 31, 0⟩
def HOLD_CNT_OVF : Fld := ⟨0x70090, 31, 1, 0⟩
def CANCEL_MISS : Fld := ⟨0x70094, 0, 31, 0⟩
def CANCEL_MISS_OVF : Fld := ⟨0x70094, 31, 1, 0⟩
/-! ### Block 0x08 -/

def LE_STAT_OVR_RUN : Fld := ⟨0x80004, 0, 8, 0⟩
def LE_BANK_ACTIVE : Fld := ⟨0x80008, 0, 1, 0⟩
def LE_BANK_IDLE_OK : Fld := ⟨0x80008, 1, 1, 0⟩
def LE_BANK_SWAP_REQ : Fld := ⟨0x80008, 2, 1, 0⟩
def LE_BANK_SWAP_PEND : Fld := ⟨0x80008, 3, 1, 0⟩
def LE_SWAP_TICK_TICK : Fld := ⟨0x8000C, 0, 32, 0⟩
def LE_OVR_CFG_LIM : Fld := ⟨0x80010, 0, 8, 3⟩
def LE_ECC_ADDR_ADDR : Fld := ⟨0x80014, 0, 21, 0⟩
def LE_DIRTY_BASE_VAL : Fld := ⟨0x80018, 0, 21, 0⟩
def LE_DIRTY_LEN_VAL : Fld := ⟨0x8001C, 0, 21, 0⟩
def LE_LANE_STAT_BUSY (i : Nat) : Fld := ⟨0x80100 + 0x4 * i, 0, 1, 0⟩
def LE_LANE_STAT_SLOT (i : Nat) : Fld := ⟨0x80100 + 0x4 * i, 1, 7, 0⟩
def LE_LANE_STAT_NAN (i : Nat) : Fld := ⟨0x80100 + 0x4 * i, 8, 1, 0⟩
def LE_LANE_STAT_FCAUSE (i : Nat) : Fld := ⟨0x80100 + 0x4 * i, 9, 3, 0⟩
def OVR_TICKS : Fld := ⟨0x80080, 0, 31, 0⟩
def OVR_TICKS_OVF : Fld := ⟨0x80080, 31, 1, 0⟩
def ECC_COR : Fld := ⟨0x80084, 0, 31, 0⟩
def ECC_COR_OVF : Fld := ⟨0x80084, 31, 1, 0⟩
def ECC_UNC : Fld := ⟨0x80088, 0, 31, 0⟩
def ECC_UNC_OVF : Fld := ⟨0x80088, 31, 1, 0⟩
def PM_COR : Fld := ⟨0x8008C, 0, 31, 0⟩
def PM_COR_OVF : Fld := ⟨0x8008C, 31, 1, 0⟩
def NAN_CNT : Fld := ⟨0x80090, 0, 31, 0⟩
def NAN_CNT_OVF : Fld := ⟨0x80090, 31, 1, 0⟩
def OUTBUF_OVF : Fld := ⟨0x80094, 0, 31, 0⟩
def OUTBUF_OVF_OVF : Fld := ⟨0x80094, 31, 1, 0⟩
def SWAP_ABORT : Fld := ⟨0x80098, 0, 31, 0⟩
def SWAP_ABORT_OVF : Fld := ⟨0x80098, 31, 1, 0⟩
def LANE_FAULT : Fld := ⟨0x8009C, 0, 31, 0⟩
def LANE_FAULT_OVF : Fld := ⟨0x8009C, 31, 1, 0⟩
/-! ### Block 0x09 -/

def CF_CTRL_OG_EN : Fld := ⟨0x90000, 0, 1, 0⟩
def CF_CTRL_INJ_EN : Fld := ⟨0x90000, 1, 1, 0⟩
def CF_CTRL_RC_EN : Fld := ⟨0x90000, 2, 1, 0⟩
def CF_CTRL_MS_EN : Fld := ⟨0x90000, 3, 1, 0⟩
def CF_CTRL_PL_EN : Fld := ⟨0x90000, 4, 1, 0⟩
def CF_CTRL_ANG_EN : Fld := ⟨0x90000, 5, 1, 0⟩
def CF_STAT_STROBE_REF : Fld := ⟨0x90004, 0, 1, 0⟩
def CF_STAT_RESAMP_BUSY : Fld := ⟨0x90004, 1, 1, 0⟩
def CF_FSRC_PLAUS : Fld := ⟨0x90008, 0, 8, 0⟩
def CF_FSRC_TRACK : Fld := ⟨0x90008, 8, 8, 0⟩
def CF_FSRC_CFG : Fld := ⟨0x90008, 16, 8, 0⟩
def CF_FSRC_RCMEM : Fld := ⟨0x90008, 24, 8, 0⟩
def CF_IN_ADDR : Fld := ⟨0x9000C, 0, 21, 0⟩
def CF_OUT_ADDR : Fld := ⟨0x90010, 0, 21, 0⟩
def OG_CH_CFG_EN (i : Nat) : Fld := ⟨0x90100 + 0x20 * i, 0, 1, 0⟩
def OG_CH_STAT_SEG (i : Nat) : Fld := ⟨0x90118 + 0x20 * i, 0, 2, 0⟩
def OG_CH_STAT_PEND (i : Nat) : Fld := ⟨0x90118 + 0x20 * i, 2, 1, 0⟩
def OG_CH_STAT_BADVAL (i : Nat) : Fld := ⟨0x90118 + 0x20 * i, 3, 1, 0⟩
def INJ_GEN_CFG_TYPE (i : Nat) : Fld := ⟨0x90400 + 0x100 * i, 0, 2, 0⟩
def INJ_GEN_CFG_ORDER (i : Nat) : Fld := ⟨0x90400 + 0x100 * i, 2, 3, 0⟩
def INJ_GEN_CFG_HOLDN (i : Nat) : Fld := ⟨0x90400 + 0x100 * i, 8, 8, 1⟩
def INJ_GEN_CTRL_ARM (i : Nat) : Fld := ⟨0x9041C + 0x100 * i, 0, 1, 0⟩
def INJ_GEN_CTRL_STOP (i : Nat) : Fld := ⟨0x9041C + 0x100 * i, 1, 1, 0⟩
def INJ_GEN_STAT_ARMED (i : Nat) : Fld := ⟨0x90420 + 0x100 * i, 0, 1, 0⟩
def INJ_GEN_STAT_RUN (i : Nat) : Fld := ⟨0x90420 + 0x100 * i, 1, 1, 0⟩
def INJ_GEN_STAT_DONE (i : Nat) : Fld := ⟨0x90420 + 0x100 * i, 2, 1, 0⟩
def INJ_GEN_STAT_ABORT (i : Nat) : Fld := ⟨0x90420 + 0x100 * i, 3, 1, 0⟩
def INJ_GEN_STAT_CLAMP (i : Nat) : Fld := ⟨0x90420 + 0x100 * i, 4, 1, 0⟩
def INJ_GEN_HK_HK (i j : Nat) : Fld := ⟨0x90440 + 0x100 * i + 0x8 * j, 0, 16, 0⟩
def INJ_GEN_HK_PHASE (i j : Nat) : Fld := ⟨0x90440 + 0x100 * i + 0x8 * j, 16, 16, 0⟩
def INJ_PT_GEN (i : Nat) : Fld := ⟨0x90800 + 0x4 * i, 0, 2, 0⟩
def INJ_PT_EN (i : Nat) : Fld := ⟨0x90800 + 0x4 * i, 2, 1, 0⟩
def INJ_PT_GAIN (i : Nat) : Fld := ⟨0x90800 + 0x4 * i, 16, 16, 16384⟩
def ANG_CFG_EN (i : Nat) : Fld := ⟨0x90900 + 0x40 * i, 0, 1, 0⟩
def ANG_CFG_ADV (i : Nat) : Fld := ⟨0x90900 + 0x40 * i, 8, 8, 0⟩
def ANG_CFG_LOCKT (i : Nat) : Fld := ⟨0x90900 + 0x40 * i, 16, 16, 100⟩
def ANG_STAT_LOCK (i : Nat) : Fld := ⟨0x90924 + 0x40 * i, 0, 1, 0⟩
def ANG_STAT_HOLD (i : Nat) : Fld := ⟨0x90924 + 0x40 * i, 1, 1, 0⟩
def ANG_STAT_FCLAMP (i : Nat) : Fld := ⟨0x90924 + 0x40 * i, 2, 1, 0⟩
def ANG_STAT_LOCKLOST (i : Nat) : Fld := ⟨0x90924 + 0x40 * i, 3, 1, 0⟩
def PL_ARM_CFG_EN (i : Nat) : Fld := ⟨0x90A00 + 0x20 * i, 0, 1, 0⟩
def PL_ARM_CFG_TIME (i : Nat) : Fld := ⟨0x90A00 + 0x20 * i, 8, 24, 100⟩
def PL_ARM_STAT_FAIL (i : Nat) : Fld := ⟨0x90A10 + 0x20 * i, 0, 1, 0⟩
def PL_ARM_STAT_FAILED (i : Nat) : Fld := ⟨0x90A10 + 0x20 * i, 1, 1, 0⟩
def PL_ARM_STAT_RESYNC (i : Nat) : Fld := ⟨0x90A10 + 0x20 * i, 2, 1, 0⟩
def PL_ARM_STAT_CNT (i : Nat) : Fld := ⟨0x90A10 + 0x20 * i, 8, 24, 0⟩
def MS_GRP_CFG_CEN (i : Nat) : Fld := ⟨0x91000 + 0x100 * i, 0, 8, 0⟩
def MS_GRP_CFG_EN (i : Nat) : Fld := ⟨0x91000 + 0x100 * i, 8, 1, 0⟩
def MS_GRP_STAT_WIN (i : Nat) : Fld := ⟨0x9100C + 0x100 * i, 0, 3, 0⟩
def MS_GRP_STAT_VALID (i : Nat) : Fld := ⟨0x9100C + 0x100 * i, 3, 1, 0⟩
def MS_GRP_STAT_LOWCLAMP (i : Nat) : Fld := ⟨0x9100C + 0x100 * i, 4, 1, 0⟩
def MS_GRP_STAT_HIGHCLAMP (i : Nat) : Fld := ⟨0x9100C + 0x100 * i, 5, 1, 0⟩
def MS_GRP_STAT_HELD (i : Nat) : Fld := ⟨0x9100C + 0x100 * i, 6, 1, 0⟩
def MS_GRP_STAT_NAN (i : Nat) : Fld := ⟨0x9100C + 0x100 * i, 7, 1, 0⟩
def RC_CH_CFG_EN (i : Nat) : Fld := ⟨0x92000 + 0x20 * i, 0, 1, 0⟩
def RC_CH_CFG_PERSRC (i : Nat) : Fld := ⟨0x92000 + 0x20 * i, 1, 2, 0⟩
def RC_CH_CFG_LEAD (i : Nat) : Fld := ⟨0x92000 + 0x20 * i, 8, 8, 0⟩
def RC_CH_MEM_BASE (i : Nat) : Fld := ⟨0x92004 + 0x20 * i, 0, 18, 0⟩
def RC_CH_MEM_LEN (i : Nat) : Fld := ⟨0x92004 + 0x20 * i, 18, 13, 4096⟩
def RC_CH_PER_PER (i : Nat) : Fld := ⟨0x92008 + 0x20 * i, 0, 13, 2000⟩
def RC_CH_PER_PER_ACT (i : Nat) : Fld := ⟨0x92008 + 0x20 * i, 16, 13, 0⟩
def INJ_GEN_DUR_VAL (i : Nat) : Fld := ⟨0x90414 + 0x100 * i, 0, 32, 0⟩
def INJ_GEN_START_VAL (i : Nat) : Fld := ⟨0x90418 + 0x100 * i, 0, 32, 0⟩
def INJ_GEN_NP_VAL (i : Nat) : Fld := ⟨0x90424 + 0x100 * i, 0, 32, 0⟩
def OG_BADVAL : Fld := ⟨0x90080, 0, 31, 0⟩
def OG_BADVAL_OVF : Fld := ⟨0x90080, 31, 1, 0⟩
def INJ_ABORT : Fld := ⟨0x90084, 0, 31, 0⟩
def INJ_ABORT_OVF : Fld := ⟨0x90084, 31, 1, 0⟩
def RC_DEFER : Fld := ⟨0x90088, 0, 31, 0⟩
def RC_DEFER_OVF : Fld := ⟨0x90088, 31, 1, 0⟩
def RC_RESAMP : Fld := ⟨0x9008C, 0, 31, 0⟩
def RC_RESAMP_OVF : Fld := ⟨0x9008C, 31, 1, 0⟩
def RC_NOLEARN : Fld := ⟨0x90090, 0, 31, 0⟩
def RC_NOLEARN_OVF : Fld := ⟨0x90090, 31, 1, 0⟩
def MS_CHG : Fld := ⟨0x90094, 0, 31, 0⟩
def MS_CHG_OVF : Fld := ⟨0x90094, 31, 1, 0⟩
def PL_RESYNC : Fld := ⟨0x90098, 0, 31, 0⟩
def PL_RESYNC_OVF : Fld := ⟨0x90098, 31, 1, 0⟩
def ANG_HOLD : Fld := ⟨0x9009C, 0, 31, 0⟩
def ANG_HOLD_OVF : Fld := ⟨0x9009C, 31, 1, 0⟩
def OG_CH_SET_VAL (i : Nat) : Fld := ⟨0x90104 + 0x20 * i, 0, 32, 0⟩
def OG_CH_RATE_VAL (i : Nat) : Fld := ⟨0x90108 + 0x20 * i, 0, 32, 0⟩
def OG_CH_RR_VAL (i : Nat) : Fld := ⟨0x9010C + 0x20 * i, 0, 32, 0⟩
def OG_CH_OUT_VAL (i : Nat) : Fld := ⟨0x90110 + 0x20 * i, 0, 32, 0⟩
def OG_CH_ROUT_VAL (i : Nat) : Fld := ⟨0x90114 + 0x20 * i, 0, 32, 0⟩
def OG_CH_LOAD_VAL (i : Nat) : Fld := ⟨0x9011C + 0x20 * i, 0, 32, 0⟩
def INJ_GEN_AMP_VAL (i : Nat) : Fld := ⟨0x90404 + 0x100 * i, 0, 32, 0⟩
def INJ_GEN_AMAX_VAL (i : Nat) : Fld := ⟨0x90408 + 0x100 * i, 0, 32, 0⟩
def INJ_GEN_F0_VAL (i : Nat) : Fld := ⟨0x9040C + 0x100 * i, 0, 32, 0⟩
def INJ_GEN_F1_VAL (i : Nat) : Fld := ⟨0x90410 + 0x100 * i, 0, 32, 0⟩
def INJ_GEN_AH_VAL (i j : Nat) : Fld := ⟨0x90444 + 0x100 * i + 0x8 * j, 0, 32, 0⟩
def ANG_FNOM_VAL (i : Nat) : Fld := ⟨0x90904 + 0x40 * i, 0, 32, 1112014848⟩
def ANG_FMIN_VAL (i : Nat) : Fld := ⟨0x90908 + 0x40 * i, 0, 32, 1110704128⟩
def ANG_FMAX_VAL (i : Nat) : Fld := ⟨0x9090C + 0x40 * i, 0, 32, 1113325568⟩
def ANG_KP_VAL (i : Nat) : Fld := ⟨0x90910 + 0x40 * i, 0, 32, 0⟩
def ANG_KI_VAL (i : Nat) : Fld := ⟨0x90914 + 0x40 * i, 0, 32, 0⟩
def ANG_OFS_VAL (i : Nat) : Fld := ⟨0x90918 + 0x40 * i, 0, 32, 0⟩
def ANG_VMIN_VAL (i : Nat) : Fld := ⟨0x9091C + 0x40 * i, 0, 32, 0⟩
def ANG_LOCKTHR_VAL (i : Nat) : Fld := ⟨0x90920 + 0x40 * i, 0, 32, 0⟩
def PL_ARM_CINV_VAL (i : Nat) : Fld := ⟨0x90A04 + 0x20 * i, 0, 32, 0⟩
def PL_ARM_BETA_VAL (i : Nat) : Fld := ⟨0x90A08 + 0x20 * i, 0, 32, 0⟩
def PL_ARM_THR_VAL (i : Nat) : Fld := ⟨0x90A0C + 0x20 * i, 0, 32, 0⟩
def PL_ARM_RESID_VAL (i : Nat) : Fld := ⟨0x90A14 + 0x20 * i, 0, 32, 0⟩
def PL_ARM_VHAT_VAL (i : Nat) : Fld := ⟨0x90A18 + 0x20 * i, 0, 32, 0⟩
def MS_GRP_UMIN_VAL (i : Nat) : Fld := ⟨0x91004 + 0x100 * i, 0, 32, 0⟩
def MS_GRP_UMAX_VAL (i : Nat) : Fld := ⟨0x91008 + 0x100 * i, 0, 32, 0⟩
def MS_GRP_OUT_VAL (i : Nat) : Fld := ⟨0x91010 + 0x100 * i, 0, 32, 0⟩
def MS_GRP_C_KP_VAL (i j : Nat) : Fld := ⟨0x91020 + 0x100 * i + 0x10 * j, 0, 32, 0⟩
def MS_GRP_C_KI_VAL (i j : Nat) : Fld := ⟨0x91024 + 0x100 * i + 0x10 * j, 0, 32, 0⟩
def MS_GRP_C_KT_VAL (i j : Nat) : Fld := ⟨0x91028 + 0x100 * i + 0x10 * j, 0, 32, 0⟩
def MS_GRP_C_INT_VAL (i j : Nat) : Fld := ⟨0x9102C + 0x100 * i + 0x10 * j, 0, 32, 0⟩
def RC_CH_GAIN_VAL (i : Nat) : Fld := ⟨0x9200C + 0x20 * i, 0, 32, 0⟩
def RC_CH_ALPHA_VAL (i : Nat) : Fld := ⟨0x92010 + 0x20 * i, 0, 32, 1065353216⟩
def RC_CH_Q0_VAL (i : Nat) : Fld := ⟨0x92014 + 0x20 * i, 0, 32, 1065353216⟩
def RC_CH_Q1_VAL (i : Nat) : Fld := ⟨0x92018 + 0x20 * i, 0, 32, 0⟩
def RC_CH_LIM_VAL (i : Nat) : Fld := ⟨0x9201C + 0x20 * i, 0, 32, 0⟩
/-! ### Block 0x0A -/

def DR_CTRL_ARM : Fld := ⟨0xA0000, 0, 1, 0⟩
def DR_CTRL_STOP : Fld := ⟨0xA0000, 1, 1, 0⟩
def DR_CTRL_SWTRIG : Fld := ⟨0xA0000, 2, 1, 0⟩
def DR_STAT_STATE : Fld := ⟨0xA0004, 0, 3, 0⟩
def DR_STAT_SEG : Fld := ⟨0xA0004, 3, 6, 0⟩
def DR_STAT_NDONE : Fld := ⟨0xA0004, 9, 7, 0⟩
def DR_STAT_MASKVIOL : Fld := ⟨0xA0004, 16, 1, 0⟩
def DR_STAT_ARM_ERR : Fld := ⟨0xA0004, 17, 3, 0⟩
def DR_STAT_SHED : Fld := ⟨0xA0004, 20, 1, 0⟩
def DR_CFG_CLK : Fld := ⟨0xA0008, 0, 2, 0⟩
def DR_CFG_CLKSRC : Fld := ⟨0xA0008, 2, 2, 0⟩
def DR_CFG_NSEG : Fld := ⟨0xA0008, 4, 7, 1⟩
def DR_CFG_FULL : Fld := ⟨0xA0008, 11, 1, 0⟩
def DR_CFG_MSTOP : Fld := ⟨0xA0008, 12, 1, 0⟩
def DR_CFG_DIV : Fld := ⟨0xA0008, 16, 16, 1⟩
def DR_PRE_ROWS : Fld := ⟨0xA000C, 0, 32, 0⟩
def DR_POST_ROWS : Fld := ⟨0xA0010, 0, 32, 0⟩
def DR_REARM_ROWS : Fld := ⟨0xA0014, 0, 32, 0⟩
def DR_TRIG_MODE : Fld := ⟨0xA0018, 0, 2, 3⟩
def DR_TRIG_POL : Fld := ⟨0xA0018, 2, 1, 1⟩
def DR_TRIG_FC_EN : Fld := ⟨0xA0018, 3, 1, 0⟩
def DR_TRIG_FC_MIN : Fld := ⟨0xA0018, 4, 3, 3⟩
def DR_TRIG_TCH : Fld := ⟨0xA0018, 8, 6, 0⟩
def DR_PAT_LO_VAL : Fld := ⟨0xA0020, 0, 32, 0⟩
def DR_PAT_HI_VAL : Fld := ⟨0xA0024, 0, 32, 0⟩
def DR_CARE_LO_VAL : Fld := ⟨0xA0028, 0, 32, 0⟩
def DR_CARE_HI_VAL : Fld := ⟨0xA002C, 0, 32, 0⟩
def DR_MEM_BASE_VAL : Fld := ⟨0xA0030, 0, 32, 0⟩
def DR_MEM_SIZE_VAL : Fld := ⟨0xA0034, 0, 32, 0⟩
def DR_STREAM_EN : Fld := ⟨0xA0038, 0, 1, 0⟩
def DR_STREAM_PORT : Fld := ⟨0xA0038, 1, 2, 0⟩
def DR_STREAM_CHUNK : Fld := ⟨0xA0038, 3, 2, 0⟩
def DR_STREAM_AUTO_REL : Fld := ⟨0xA0038, 5, 1, 1⟩
def DR_RELEASE_RNUM : Fld := ⟨0xA003C, 0, 32, 0⟩
def DR_RNUM_RNUM : Fld := ⟨0xA0040, 0, 32, 0⟩
def DR_SEG_STAT_STATE (i : Nat) : Fld := ⟨0xA0100 + 0x4 * i, 0, 2, 0⟩
def DR_SEG_STAT_RNUM (i : Nat) : Fld := ⟨0xA0100 + 0x4 * i, 2, 30, 0⟩
def DR_CH_SRC_TYPE (i : Nat) : Fld := ⟨0xA0400 + 0x20 * i, 0, 3, 0⟩
def DR_CH_SRC_FMT (i : Nat) : Fld := ⟨0xA0400 + 0x20 * i, 3, 2, 0⟩
def DR_CH_SRC_SEL (i : Nat) : Fld := ⟨0xA0400 + 0x20 * i, 16, 16, 0⟩
def DR_CH_TRG_CMODE (i : Nat) : Fld := ⟨0xA0404 + 0x20 * i, 0, 1, 0⟩
def DR_CH_TRG_BIT (i : Nat) : Fld := ⟨0xA0404 + 0x20 * i, 1, 5, 0⟩
def DR_CH_LEVEL_VAL (i : Nat) : Fld := ⟨0xA0408 + 0x20 * i, 0, 32, 0⟩
def DR_CH_HYST_VAL (i : Nat) : Fld := ⟨0xA040C + 0x20 * i, 0, 32, 0⟩
def DR_CH_UPPER_VAL (i : Nat) : Fld := ⟨0xA0410 + 0x20 * i, 0, 32, 0⟩
def DR_CH_LOWER_VAL (i : Nat) : Fld := ⟨0xA0414 + 0x20 * i, 0, 32, 0⟩
def DR_CH_MCFG_EN (i : Nat) : Fld := ⟨0xA0418 + 0x20 * i, 0, 1, 0⟩
def DR_CH_MCFG_POST (i : Nat) : Fld := ⟨0xA0418 + 0x20 * i, 1, 1, 0⟩
def TRG_IGN : Fld := ⟨0xA0080, 0, 31, 0⟩
def TRG_IGN_OVF : Fld := ⟨0xA0080, 31, 1, 0⟩
def TRG_NOSEG : Fld := ⟨0xA0084, 0, 31, 0⟩
def TRG_NOSEG_OVF : Fld := ⟨0xA0084, 31, 1, 0⟩
def ROW_DROP : Fld := ⟨0xA0088, 0, 31, 0⟩
def ROW_DROP_OVF : Fld := ⟨0xA0088, 31, 1, 0⟩
def REC_OVW : Fld := ⟨0xA008C, 0, 31, 0⟩
def REC_OVW_OVF : Fld := ⟨0xA008C, 31, 1, 0⟩
def LD_LATE : Fld := ⟨0xA0090, 0, 31, 0⟩
def LD_LATE_OVF : Fld := ⟨0xA0090, 31, 1, 0⟩
def MASK_VIOL : Fld := ⟨0xA0094, 0, 31, 0⟩
def MASK_VIOL_OVF : Fld := ⟨0xA0094, 31, 1, 0⟩
def MEM_COR : Fld := ⟨0xA0098, 0, 31, 0⟩
def MEM_COR_OVF : Fld := ⟨0xA0098, 31, 1, 0⟩
def MEM_UNC : Fld := ⟨0xA009C, 0, 31, 0⟩
def MEM_UNC_OVF : Fld := ⟨0xA009C, 31, 1, 0⟩
/-! ### Block 0x0B -/

def GS_CFG_TOPO : Fld := ⟨0xB0000, 0, 1, 0⟩
def GS_CFG_FBPOL : Fld := ⟨0xB0000, 1, 1, 0⟩
def GS_CFG_SUPPLY : Fld := ⟨0xB0000, 2, 1, 0⟩
def GS_CTRL_MAINT_BLK : Fld := ⟨0xB0004, 0, 1, 0⟩
def GS_CTRL_OV2_CLR : Fld := ⟨0xB0004, 1, 1, 0⟩
def GS_STAT_CELL : Fld := ⟨0xB0008, 0, 2, 0⟩
def GS_STAT_PBLK : Fld := ⟨0xB0008, 2, 1, 1⟩
def GS_STAT_OV1_ON : Fld := ⟨0xB0008, 3, 1, 0⟩
def GS_STAT_OV2_BLK : Fld := ⟨0xB0008, 4, 1, 0⟩
def GS_STAT_FIRED : Fld := ⟨0xB0008, 5, 1, 0⟩
def GS_STAT_REFRESH : Fld := ⟨0xB0008, 6, 1, 0⟩
def GS_STAT_STROBE_REF : Fld := ⟨0xB0008, 7, 1, 0⟩
def GS_STAT_TEST_BUSY : Fld := ⟨0xB0008, 8, 1, 0⟩
def GS_TIMING_DT : Fld := ⟨0xB0010, 0, 16, 1000⟩
def GS_TIMING_MINP : Fld := ⟨0xB0010, 16, 16, 1000⟩
def GS_FLOOR_DT_FLOOR : Fld := ⟨0xB0014, 0, 16, 100⟩
def GS_FLOOR_MINP_FLOOR : Fld := ⟨0xB0014, 16, 16, 100⟩
def GS_PROT0_FILT : Fld := ⟨0xB0018, 0, 14, 8⟩
def GS_PROT0_TRIES : Fld := ⟨0xB0018, 16, 4, 3⟩
def GS_PROT0_CLEAN : Fld := ⟨0xB0018, 24, 8, 60⟩
def GS_PROT1_WAIT : Fld := ⟨0xB001C, 0, 14, 1000⟩
def GS_PUMP_DIV : Fld := ⟨0xB0020, 0, 9, 250⟩
def GS_PUMP_EN : Fld := ⟨0xB0020, 9, 1, 1⟩
def GS_PUMP_PHASE_EN : Fld := ⟨0xB0020, 10, 1, 0⟩
def GS_BOOT_TMAX : Fld := ⟨0xB0024, 0, 16, 1000⟩
def GS_BOOT_TRCH : Fld := ⟨0xB0024, 16, 16, 250⟩
def GS_OV1_ON_LEVEL : Fld := ⟨0xB0028, 0, 22, 4194301⟩
def GS_OV1_OFF_LEVEL : Fld := ⟨0xB002C, 0, 22, 4194300⟩
def GS_OV2_LEVEL : Fld := ⟨0xB0030, 0, 22, 4194302⟩
def GS_OV2_CNT : Fld := ⟨0xB0030, 24, 8, 4⟩
def GS_OV3_LEVEL : Fld := ⟨0xB0034, 0, 12, 4095⟩
def GS_OV3_FILT : Fld := ⟨0xB0034, 16, 8, 4⟩
def GS_BYP_DLY : Fld := ⟨0xB0038, 0, 16, 1000⟩
def GS_BYP_PW : Fld := ⟨0xB0038, 16, 10, 100⟩
def GS_BYP_CMD_CODE : Fld := ⟨0xB003C, 0, 16, 0⟩
def GS_TEST_SEL : Fld := ⟨0xB0040, 0, 3, 0⟩
def GS_TEST_CH : Fld := ⟨0xB0040, 4, 2, 0⟩
def GS_TEST_STAT_BUSY : Fld := ⟨0xB0044, 0, 1, 0⟩
def GS_TEST_STAT_PASS : Fld := ⟨0xB0044, 1, 1, 0⟩
def GS_TEST_STAT_FAIL : Fld := ⟨0xB0044, 2, 1, 0⟩
def GS_TEST_STAT_REFUSED : Fld := ⟨0xB0044, 3, 1, 0⟩
def GS_TEST_STAT_LAST_SEL : Fld := ⟨0xB0044, 4, 3, 0⟩
def GS_CH_CTRL_ADAPT (i : Nat) : Fld := ⟨0xB0100 + 0x40 * i, 0, 1, 1⟩
def GS_CH_CTRL_UNLATCH (i : Nat) : Fld := ⟨0xB0100 + 0x40 * i, 1, 1, 0⟩
def GS_CH_CTRL_MAN (i : Nat) : Fld := ⟨0xB0100 + 0x40 * i, 2, 1, 0⟩
def GS_CH_CTRL_MAN_ON (i : Nat) : Fld := ⟨0xB0100 + 0x40 * i, 3, 1, 0⟩
def GS_CH_STAT_PSTATE (i : Nat) : Fld := ⟨0xB0104 + 0x40 * i, 0, 2, 0⟩
def GS_CH_STAT_ON (i : Nat) : Fld := ⟨0xB0104 + 0x40 * i, 2, 1, 0⟩
def GS_CH_STAT_LOCK (i : Nat) : Fld := ⟨0xB0104 + 0x40 * i, 3, 1, 0⟩
def GS_CH_STAT_DSAT (i : Nat) : Fld := ⟨0xB0104 + 0x40 * i, 4, 1, 0⟩
def GS_CH_STAT_GVG (i : Nat) : Fld := ⟨0xB0104 + 0x40 * i, 5, 1, 0⟩
def GS_CH_STAT_SUPG (i : Nat) : Fld := ⟨0xB0104 + 0x40 * i, 6, 1, 0⟩
def GS_CH_STAT_VCE (i : Nat) : Fld := ⟨0xB0104 + 0x40 * i, 7, 1, 0⟩
def GS_CH_STAT_TRIES_USED (i : Nat) : Fld := ⟨0xB0104 + 0x40 * i, 8, 4, 0⟩
def GS_CH_STAT_CODE_ON (i : Nat) : Fld := ⟨0xB0104 + 0x40 * i, 16, 6, 0⟩
def GS_CH_STAT_CODE_OFF (i : Nat) : Fld := ⟨0xB0104 + 0x40 * i, 24, 6, 0⟩
def GS_CH_STR_ON_INIT (i : Nat) : Fld := ⟨0xB0108 + 0x40 * i, 0, 6, 32⟩
def GS_CH_STR_OFF_INIT (i : Nat) : Fld := ⟨0xB0108 + 0x40 * i, 8, 6, 32⟩
def GS_CH_STR_SOFT (i : Nat) : Fld := ⟨0xB0108 + 0x40 * i, 16, 6, 8⟩
def GS_CH_STRLIM_MIN (i : Nat) : Fld := ⟨0xB010C + 0x40 * i, 0, 6, 16⟩
def GS_CH_STRLIM_MAX (i : Nat) : Fld := ⟨0xB010C + 0x40 * i, 8, 6, 48⟩
def GS_CH_TGT_TON (i : Nat) : Fld := ⟨0xB0110 + 0x40 * i, 0, 16, 200⟩
def GS_CH_TGT_TOFF (i : Nat) : Fld := ⟨0xB0110 + 0x40 * i, 16, 16, 300⟩
def GS_CH_TOL_TOL (i : Nat) : Fld := ⟨0xB0114 + 0x40 * i, 0, 8, 20⟩
def GS_CH_MEAS_TON_M (i : Nat) : Fld := ⟨0xB0118 + 0x40 * i, 0, 16, 65535⟩
def GS_CH_MEAS_TOFF_M (i : Nat) : Fld := ⟨0xB0118 + 0x40 * i, 16, 16, 65535⟩
def GS_CH_PULSE_WIDTH (i : Nat) : Fld := ⟨0xB011C + 0x40 * i, 0, 16, 0⟩
def GS_CH_SUPP_ON (i : Nat) : Fld := ⟨0xB0120 + 0x40 * i, 0, 31, 0⟩
def GS_CH_SUPP_ON_OVF (i : Nat) : Fld := ⟨0xB0120 + 0x40 * i, 31, 1, 0⟩
def GS_CH_SUPP_GAP (i : Nat) : Fld := ⟨0xB0124 + 0x40 * i, 0, 31, 0⟩
def GS_CH_SUPP_GAP_OVF (i : Nat) : Fld := ⟨0xB0124 + 0x40 * i, 31, 1, 0⟩
def GS_CH_TRIP_CNT (i : Nat) : Fld := ⟨0xB0128 + 0x40 * i, 0, 31, 0⟩
def GS_CH_TRIP_CNT_OVF (i : Nat) : Fld := ⟨0xB0128 + 0x40 * i, 31, 1, 0⟩
def GS_CH_GLITCH (i : Nat) : Fld := ⟨0xB012C + 0x40 * i, 0, 31, 0⟩
def GS_CH_GLITCH_OVF (i : Nat) : Fld := ⟨0xB012C + 0x40 * i, 31, 1, 0⟩
def GS_CH_NOMARK (i : Nat) : Fld := ⟨0xB0130 + 0x40 * i, 0, 31, 0⟩
def GS_CH_NOMARK_OVF (i : Nat) : Fld := ⟨0xB0130 + 0x40 * i, 31, 1, 0⟩
def GS_CH_ILK_CNT (i : Nat) : Fld := ⟨0xB0134 + 0x40 * i, 0, 31, 0⟩
def GS_CH_ILK_CNT_OVF (i : Nat) : Fld := ⟨0xB0134 + 0x40 * i, 31, 1, 0⟩
def GS_CH_LINK_ERR (i : Nat) : Fld := ⟨0xB0138 + 0x40 * i, 0, 31, 0⟩
def GS_CH_LINK_ERR_OVF (i : Nat) : Fld := ⟨0xB0138 + 0x40 * i, 31, 1, 0⟩
/-! ### Block 0x0C -/

def AD_CTRL_CAL_START : Fld := ⟨0xC0000, 0, 4, 0⟩
def AD_CTRL_ROT_START : Fld := ⟨0xC0000, 4, 2, 0⟩
def AD_STAT_CAL_BUSY : Fld := ⟨0xC0004, 0, 4, 15⟩
def AD_STAT_CAL_VALID : Fld := ⟨0xC0004, 4, 4, 0⟩
def AD_STAT_ROT_BUSY : Fld := ⟨0xC0004, 8, 2, 0⟩
def AD_STAT_STROBE_REF : Fld := ⟨0xC0004, 10, 1, 0⟩
def AD_PAIR_CFG_MIRROR (i : Nat) : Fld := ⟨0xC0010 + 0x8 * i, 0, 1, 1⟩
def AD_PAIR_CFG_CARRIER (i : Nat) : Fld := ⟨0xC0010 + 0x8 * i, 1, 1, 0⟩
def AD_PAIR_CFG_CNT (i : Nat) : Fld := ⟨0xC0010 + 0x8 * i, 8, 8, 4⟩
def AD_PAIR_CFG_THR (i : Nat) : Fld := ⟨0xC0010 + 0x8 * i, 16, 16, 256⟩
def AD_PAIR_STAT_MISMATCH (i : Nat) : Fld := ⟨0xC0014 + 0x8 * i, 0, 1, 0⟩
def AD_PAIR_STAT_ROT (i : Nat) : Fld := ⟨0xC0014 + 0x8 * i, 1, 3, 0⟩
def AD_PAIR_STAT_ROT_ABORT (i : Nat) : Fld := ⟨0xC0014 + 0x8 * i, 4, 1, 0⟩
def AD_PAIR_STAT_DIFF (i : Nat) : Fld := ⟨0xC0014 + 0x8 * i, 16, 16, 0⟩
def AD_VSCALE_MUL : Fld := ⟨0xC0020, 0, 32, 4000000⟩
def AD_VOFS_OFS : Fld := ⟨0xC0024, 0, 32, 0⟩
def AD_TSCALE_MUL : Fld := ⟨0xC0028, 0, 16, 0⟩
def AD_TSCALE_OFS : Fld := ⟨0xC0028, 16, 16, 0⟩
def AD_STAKE_CELL_E : Fld := ⟨0xC002C, 0, 5, 0⟩
def AD_STAKE_TEMP_E : Fld := ⟨0xC002C, 8, 5, 0⟩
def AD_STAKE_TEMP_PAIR : Fld := ⟨0xC002C, 13, 1, 1⟩
def AD_SEQ_CFG_LEN (i : Nat) : Fld := ⟨0xC0100 + 0x200 * i, 0, 6, 1⟩
def AD_SEQ_CFG_GRID_EN (i : Nat) : Fld := ⟨0xC0100 + 0x200 * i, 8, 1, 0⟩
def AD_SEQ_CFG_PER (i : Nat) : Fld := ⟨0xC0100 + 0x200 * i, 16, 16, 500⟩
def AD_SEQ_CTRL_SW_START (i : Nat) : Fld := ⟨0xC0104 + 0x200 * i, 0, 1, 0⟩
def AD_SEQ_STAT_BUSY (i : Nat) : Fld := ⟨0xC0108 + 0x200 * i, 0, 1, 0⟩
def AD_SEQ_STAT_DONE (i : Nat) : Fld := ⟨0xC0108 + 0x200 * i, 1, 1, 0⟩
def AD_SEQ_STAT_PASSNO (i : Nat) : Fld := ⟨0xC0108 + 0x200 * i, 8, 8, 0⟩
def AD_CAL_GAIN_GAIN (i : Nat) : Fld := ⟨0xC010C + 0x200 * i, 0, 18, 131072⟩
def AD_CAL_OFS_OFS (i : Nat) : Fld := ⟨0xC0110 + 0x200 * i, 0, 16, 0⟩
def AD_INJ_IN (i : Nat) : Fld := ⟨0xC0114 + 0x200 * i, 0, 4, 0⟩
def AD_INJ_DIFF (i : Nat) : Fld := ⟨0xC0114 + 0x200 * i, 4, 1, 0⟩
def AD_INJ_PREEMPT (i : Nat) : Fld := ⟨0xC0114 + 0x200 * i, 5, 1, 0⟩
def AD_INJ_START (i : Nat) : Fld := ⟨0xC0114 + 0x200 * i, 6, 1, 0⟩
def AD_INJ_RES_CODE (i : Nat) : Fld := ⟨0xC0118 + 0x200 * i, 0, 16, 0⟩
def AD_INJ_RES_VALID (i : Nat) : Fld := ⟨0xC0118 + 0x200 * i, 16, 1, 0⟩
def AD_SEQ_DEST_ADDR (i : Nat) : Fld := ⟨0xC011C + 0x200 * i, 0, 16, 0⟩
def AD_SEQ_DEST_FLAG (i : Nat) : Fld := ⟨0xC011C + 0x200 * i, 16, 5, 0⟩
def AD_SEQ_DEST_SLOT (i : Nat) : Fld := ⟨0xC011C + 0x200 * i, 21, 7, 0⟩
def AD_SEQ_DEST_EN (i : Nat) : Fld := ⟨0xC011C + 0x200 * i, 28, 1, 0⟩
def AD_SEQ_E_IN (i j : Nat) : Fld := ⟨0xC0180 + 0x200 * i + 0x4 * j, 0, 4, 0⟩
def AD_SEQ_E_DIFF (i j : Nat) : Fld := ⟨0xC0180 + 0x200 * i + 0x4 * j, 4, 1, 0⟩
def AD_SEQ_E_ACQ (i j : Nat) : Fld := ⟨0xC0180 + 0x200 * i + 0x4 * j, 5, 3, 0⟩
def AD_SEQ_E_CMP (i j : Nat) : Fld := ⟨0xC0180 + 0x200 * i + 0x4 * j, 8, 1, 0⟩
def AD_RES_CODE (i j : Nat) : Fld := ⟨0xC0200 + 0x200 * i + 0x4 * j, 0, 16, 0⟩
def AD_RES_PASSNO (i j : Nat) : Fld := ⟨0xC0200 + 0x200 * i + 0x4 * j, 16, 8, 0⟩
def AD_SEQ_OVR (i : Nat) : Fld := ⟨0xC0120 + 0x200 * i, 0, 31, 0⟩
def AD_SEQ_OVR_OVF (i : Nat) : Fld := ⟨0xC0120 + 0x200 * i, 31, 1, 0⟩
def AD_INJ_DROP (i : Nat) : Fld := ⟨0xC0124 + 0x200 * i, 0, 31, 0⟩
def AD_INJ_DROP_OVF (i : Nat) : Fld := ⟨0xC0124 + 0x200 * i, 31, 1, 0⟩
def AD_PREEMPT_CNT (i : Nat) : Fld := ⟨0xC0128 + 0x200 * i, 0, 31, 0⟩
def AD_PREEMPT_CNT_OVF (i : Nat) : Fld := ⟨0xC0128 + 0x200 * i, 31, 1, 0⟩
def AD_CAL_DROP (i : Nat) : Fld := ⟨0xC012C + 0x200 * i, 0, 31, 0⟩
def AD_CAL_DROP_OVF (i : Nat) : Fld := ⟨0xC012C + 0x200 * i, 31, 1, 0⟩
/-! ### Block 0x0D -/

def AUX_CTRL_EN : Fld := ⟨0xD0000, 0, 1, 1⟩
def AUX_CTRL_MODE : Fld := ⟨0xD0000, 1, 1, 0⟩
def AUX_CTRL_SYNC_EN : Fld := ⟨0xD0000, 2, 1, 0⟩
def AUX_CTRL_SYNC_SRC : Fld := ⟨0xD0000, 3, 1, 0⟩
def AUX_TON_TON : Fld := ⟨0xD0004, 0, 16, 250⟩
def AUX_TON_TONMAX : Fld := ⟨0xD0004, 16, 16, 2500⟩
def AUX_TOFF_TOFF : Fld := ⟨0xD0008, 0, 16, 250⟩
def AUX_SYNC_DLY : Fld := ⟨0xD000C, 0, 16, 0⟩
def AUX_SYNC_PER : Fld := ⟨0xD000C, 16, 16, 2000⟩
def AUX_FILT_FLT : Fld := ⟨0xD0010, 0, 8, 4⟩
def AUX_FILT_DEM : Fld := ⟨0xD0010, 8, 8, 2⟩
def AUX_FILT_FLTLIM : Fld := ⟨0xD0010, 16, 8, 16⟩
def AUX_STAT_RUN : Fld := ⟨0xD0014, 0, 1, 0⟩
def AUX_STAT_ON : Fld := ⟨0xD0014, 1, 1, 0⟩
def AUX_STAT_SYNC_LOCK : Fld := ⟨0xD0014, 2, 1, 0⟩
def AUX_STAT_FLT : Fld := ⟨0xD0014, 3, 1, 0⟩
def AUX_STAT_DEM : Fld := ⟨0xD0014, 4, 1, 0⟩
def AUX_STAT_CUT : Fld := ⟨0xD0014, 5, 1, 0⟩
def FLTIN_FILT_FILT (i : Nat) : Fld := ⟨0xD0020 + 0x4 * i, 0, 8, 4⟩
def FLTIN_FILT_POL (i : Nat) : Fld := ⟨0xD0020 + 0x4 * i, 8, 1, 0⟩
def SH_LVL_LEVEL (i : Nat) : Fld := ⟨0xD0080 + 0x4 * i, 0, 12, match i with | 0 => 1350 | 1 => 1250 | 2 => 1150 | _ => 1050⟩
def SH_CFG_HYST : Fld := ⟨0xD0090, 0, 8, 50⟩
def SH_CFG_FILT : Fld := ⟨0xD0090, 8, 8, 10⟩
def SH_CFG_HOLD : Fld := ⟨0xD0090, 16, 16, 50⟩
def SH_STAT_STAGE : Fld := ⟨0xD0094, 0, 3, 0⟩
def SH_STAT_HOLDING : Fld := ⟨0xD0094, 3, 1, 0⟩
def SH_STAT_S4_LAST : Fld := ⟨0xD0094, 4, 1, 0⟩
def SH_STAT_RAIL : Fld := ⟨0xD0094, 8, 8, 0⟩
def SH_MEAS_VAUXS : Fld := ⟨0xD0098, 0, 12, 0⟩
def SH_MEAS_TJ : Fld := ⟨0xD0098, 16, 16, 0⟩
def SH_TEMP_WARN : Fld := ⟨0xD009C, 0, 8, 115⟩
def AUX_CUT : Fld := ⟨0xD0040, 0, 31, 0⟩
def AUX_CUT_OVF : Fld := ⟨0xD0040, 31, 1, 0⟩
def SYNC_ERR : Fld := ⟨0xD0044, 0, 31, 0⟩
def SYNC_ERR_OVF : Fld := ⟨0xD0044, 31, 1, 0⟩
def SYNC_LOSS : Fld := ⟨0xD0048, 0, 31, 0⟩
def SYNC_LOSS_OVF : Fld := ⟨0xD0048, 31, 1, 0⟩
def SYNC_SKIP : Fld := ⟨0xD004C, 0, 31, 0⟩
def SYNC_SKIP_OVF : Fld := ⟨0xD004C, 31, 1, 0⟩
def SH_TRANS : Fld := ⟨0xD00C0, 0, 31, 0⟩
def SH_TRANS_OVF : Fld := ⟨0xD00C0, 31, 1, 0⟩
def SH_S4 : Fld := ⟨0xD00C4, 0, 31, 0⟩
def SH_S4_OVF : Fld := ⟨0xD00C4, 31, 1, 0⟩
/-! ### Block 0x0E -/

def SF_CFG_FILT : Fld := ⟨0xE0000, 0, 11, 80⟩
def SF_CFG_ARMS : Fld := ⟨0xE0000, 16, 6, 63⟩
def SF_DISC_DISC : Fld := ⟨0xE0004, 0, 10, 50⟩
def SF_STAT_STATE : Fld := ⟨0xE0008, 0, 1, 0⟩
def SF_STAT_X_PERMIT : Fld := ⟨0xE0008, 1, 1, 0⟩
def SF_STAT_Y_PERMIT : Fld := ⟨0xE0008, 2, 1, 0⟩
def SF_STAT_PROOF : Fld := ⟨0xE0008, 3, 1, 0⟩
def SF_STAT_SBLK_A_REQ : Fld := ⟨0xE0008, 4, 1, 0⟩
def SF_STAT_SBLK_B_REQ : Fld := ⟨0xE0008, 5, 1, 0⟩
def SF_STAT_SRST_A_ACT : Fld := ⟨0xE0008, 6, 1, 0⟩
def SF_STAT_SRST_B_ACT : Fld := ⟨0xE0008, 7, 1, 0⟩
def SF_STAT_RST_STUCK : Fld := ⟨0xE0008, 8, 1, 0⟩
def SF_STAT_DISC_FLT : Fld := ⟨0xE0008, 9, 1, 0⟩
def SF_STAT_CFG_LOCKED : Fld := ⟨0xE0008, 10, 1, 0⟩
def SF_STAT_CFG_MATCH : Fld := ⟨0xE0008, 11, 1, 0⟩
def SF_STAT_XLINK_OK : Fld := ⟨0xE0008, 12, 1, 0⟩
def SF_CAUSE_PORN : Fld := ⟨0xE000C, 0, 1, 1⟩
def SF_CAUSE_INPUT : Fld := ⟨0xE000C, 1, 1, 0⟩
def SF_CAUSE_FAULT : Fld := ⟨0xE000C, 2, 1, 0⟩
def SF_CAUSE_DISAGREE : Fld := ⟨0xE000C, 3, 1, 0⟩
def SF_CAUSE_XLINK : Fld := ⟨0xE000C, 4, 1, 0⟩
def SF_CAUSE_DISC : Fld := ⟨0xE000C, 5, 1, 0⟩
def SF_CAUSE_RXBLOCK : Fld := ⟨0xE000C, 6, 1, 0⟩
def SF_RSTINFO_RESULT : Fld := ⟨0xE0010, 0, 3, 0⟩
def SF_RSTINFO_PRESS : Fld := ⟨0xE0010, 16, 13, 0⟩
def SF_PDUCNT_X_CNT : Fld := ⟨0xE0014, 0, 32, 0⟩
def SF_PDUCNT_Y_CNT : Fld := ⟨0xE0018, 0, 32, 0⟩
def SF_SCFG_CWIN : Fld := ⟨0xE0200, 0, 4, 2⟩
def SF_SSTAT_STATE : Fld := ⟨0xE0204, 0, 1, 0⟩
def SF_SSTAT_X_PERMIT : Fld := ⟨0xE0204, 1, 1, 0⟩
def SF_SSTAT_Y_PERMIT : Fld := ⟨0xE0204, 2, 1, 0⟩
def SF_SSTAT_LIVE0 : Fld := ⟨0xE0204, 3, 1, 0⟩
def SF_SSTAT_LIVE1 : Fld := ⟨0xE0204, 4, 1, 0⟩
def SF_SSTAT_PERM0 : Fld := ⟨0xE0204, 5, 1, 0⟩
def SF_SSTAT_PERM1 : Fld := ⟨0xE0204, 6, 1, 0⟩
def SF_SSTAT_GCMD_GATED : Fld := ⟨0xE0204, 7, 1, 0⟩
def SF_SSTAT_FHOLD : Fld := ⟨0xE0204, 8, 1, 0⟩
def SF_SSTAT_PLCNT : Fld := ⟨0xE0204, 9, 2, 0⟩
def SF_SCAUSE_PORN : Fld := ⟨0xE0208, 0, 1, 1⟩
def SF_SCAUSE_URGENT : Fld := ⟨0xE0208, 1, 1, 0⟩
def SF_SCAUSE_PDU : Fld := ⟨0xE0208, 2, 1, 0⟩
def SF_SCAUSE_PLOSS : Fld := ⟨0xE0208, 3, 1, 0⟩
def SF_SCAUSE_LOCK : Fld := ⟨0xE0208, 4, 1, 0⟩
def SF_SCAUSE_UNADOPTED : Fld := ⟨0xE0208, 5, 1, 0⟩
def SF_SCAUSE_FAULT : Fld := ⟨0xE0208, 6, 1, 0⟩
def SF_SCAUSE_DISAGREE : Fld := ⟨0xE0208, 7, 1, 0⟩
def SF_BLOCKS : Fld := ⟨0xE0040, 0, 31, 0⟩
def SF_BLOCKS_OVF : Fld := ⟨0xE0040, 31, 1, 0⟩
def SF_RESETS : Fld := ⟨0xE0044, 0, 31, 0⟩
def SF_RESETS_OVF : Fld := ⟨0xE0044, 31, 1, 0⟩
def SF_RST_REF : Fld := ⟨0xE0048, 0, 31, 0⟩
def SF_RST_REF_OVF : Fld := ⟨0xE0048, 31, 1, 0⟩
def SF_DISC_CNT : Fld := ⟨0xE004C, 0, 31, 0⟩
def SF_DISC_CNT_OVF : Fld := ⟨0xE004C, 31, 1, 0⟩
def SF_PDU_MISS : Fld := ⟨0xE0050, 0, 31, 0⟩
def SF_PDU_MISS_OVF : Fld := ⟨0xE0050, 31, 1, 0⟩
def SF_PDU_ERR : Fld := ⟨0xE0240, 0, 31, 0⟩
def SF_PDU_ERR_OVF : Fld := ⟨0xE0240, 31, 1, 0⟩
def SF_CNT_ERR : Fld := ⟨0xE0244, 0, 31, 0⟩
def SF_CNT_ERR_OVF : Fld := ⟨0xE0244, 31, 1, 0⟩
def SF_PDU_BLK : Fld := ⟨0xE0248, 0, 31, 0⟩
def SF_PDU_BLK_OVF : Fld := ⟨0xE0248, 31, 1, 0⟩
def SF_SELFBLK : Fld := ⟨0xE024C, 0, 31, 0⟩
def SF_SELFBLK_OVF : Fld := ⟨0xE024C, 31, 1, 0⟩
def SF_DEBLOCK : Fld := ⟨0xE0250, 0, 31, 0⟩
def SF_DEBLOCK_OVF : Fld := ⟨0xE0250, 31, 1, 0⟩
/-! ### Block 0x0F -/

def TW_CTRL_EN : Fld := ⟨0xF0000, 0, 1, 0⟩
def TW_CTRL_SHARE_EN : Fld := ⟨0xF0000, 1, 1, 1⟩
def TW_CTRL_JOIN : Fld := ⟨0xF0000, 2, 1, 0⟩
def TW_STAT_LSTATE : Fld := ⟨0xF0004, 0, 4, 0⟩
def TW_STAT_HB_OK : Fld := ⟨0xF0004, 4, 1, 0⟩
def TW_STAT_MATCH : Fld := ⟨0xF0004, 5, 1, 0⟩
def TW_STAT_MODE : Fld := ⟨0xF0004, 6, 2, 0⟩
def TW_STAT_TWIN_ALIVE : Fld := ⟨0xF0004, 8, 1, 0⟩
def TW_STAT_TWIN_FAULT : Fld := ⟨0xF0004, 9, 1, 0⟩
def TW_STAT_ID_DIFF : Fld := ⟨0xF0004, 10, 1, 0⟩
def TW_STAT_PREF_CONFLICT : Fld := ⟨0xF0004, 11, 1, 0⟩
def TW_STAT_STROBE_REF : Fld := ⟨0xF0004, 12, 1, 0⟩
def TW_CFG_HBLOSS : Fld := ⟨0xF0008, 0, 4, 2⟩
def TW_CFG_MREQ : Fld := ⟨0xF0008, 8, 8, 16⟩
def TW_CFG_MWIN : Fld := ⟨0xF0008, 16, 8, 24⟩
def TW_SHTO_SHTO : Fld := ⟨0xF000C, 0, 16, 500⟩
def TW_LINKDLY_DLY : Fld := ⟨0xF0010, 0, 32, 0⟩
def LS_CTRL_EN : Fld := ⟨0xF0100, 0, 1, 0⟩
def LS_CTRL_REV_EN : Fld := ⟨0xF0100, 1, 1, 1⟩
def LS_CTRL_HANDOVER : Fld := ⟨0xF0100, 2, 1, 0⟩
def LS_STAT_STATE : Fld := ⟨0xF0104, 0, 2, 0⟩
def LS_STAT_PREF : Fld := ⟨0xF0104, 2, 1, 0⟩
def LS_STAT_QUORUM : Fld := ⟨0xF0104, 3, 1, 0⟩
def LS_STAT_TWIN_STATE : Fld := ⟨0xF0104, 4, 2, 0⟩
def LS_STAT_HO_PEND : Fld := ⟨0xF0104, 6, 1, 0⟩
def LS_STAT_CHAINS : Fld := ⟨0xF0104, 8, 5, 0⟩
def LS_STAT_NCH : Fld := ⟨0xF0104, 16, 5, 0⟩
def LS_EPOCH_EPOCH : Fld := ⟨0xF0108, 0, 32, 0⟩
def LS_CFG_LT : Fld := ⟨0xF010C, 0, 8, 16⟩
def LS_CFG_ACKINT : Fld := ⟨0xF010C, 8, 8, 16⟩
def LS_CFG_CLAIMTO : Fld := ⟨0xF010C, 16, 8, 64⟩
def LS_REVHOLD_HOLD : Fld := ⟨0xF0110, 0, 24, 10000⟩
def LS_QAGE_QAGE : Fld := ⟨0xF0114, 0, 16, 48⟩
def LS_PORT_CFG_QN (i : Nat) : Fld := ⟨0xF0140 + 0x4 * i, 0, 7, 0⟩
def LS_PORT_STAT_ACK_OWN (i : Nat) : Fld := ⟨0xF0180 + 0x4 * i, 0, 7, 0⟩
def LS_PORT_STAT_ACK_TWIN (i : Nat) : Fld := ⟨0xF0180 + 0x4 * i, 8, 7, 0⟩
def LS_PORT_STAT_COUNTS (i : Nat) : Fld := ⟨0xF0180 + 0x4 * i, 15, 1, 0⟩
def LS_SREC_VALID : Fld := ⟨0xF0200, 0, 1, 0⟩
def LS_SREC_BOARD : Fld := ⟨0xF0200, 1, 1, 0⟩
def LS_SREC_RELEASED : Fld := ⟨0xF0200, 2, 1, 0⟩
def LS_SREC_LEASE_T : Fld := ⟨0xF0200, 8, 8, 0⟩
def LS_SREC_HOLDER : Fld := ⟨0xF0200, 16, 16, 0⟩
def LS_SEPOCH_EPOCH : Fld := ⟨0xF0204, 0, 32, 0⟩
def LS_SCFG_LT : Fld := ⟨0xF0208, 0, 8, 16⟩
def LS_SCFG_ACKINT : Fld := ⟨0xF0208, 8, 8, 16⟩
def HB_MISS : Fld := ⟨0xF0080, 0, 31, 0⟩
def HB_MISS_OVF : Fld := ⟨0xF0080, 31, 1, 0⟩
def SHARE_LATE : Fld := ⟨0xF0084, 0, 31, 0⟩
def SHARE_LATE_OVF : Fld := ⟨0xF0084, 31, 1, 0⟩
def DIG_DIFF : Fld := ⟨0xF0088, 0, 31, 0⟩
def DIG_DIFF_OVF : Fld := ⟨0xF0088, 31, 1, 0⟩
def DIG_LATE : Fld := ⟨0xF008C, 0, 31, 0⟩
def DIG_LATE_OVF : Fld := ⟨0xF008C, 31, 1, 0⟩
def STATE_DIFF : Fld := ⟨0xF0090, 0, 31, 0⟩
def STATE_DIFF_OVF : Fld := ⟨0xF0090, 31, 1, 0⟩
def TW_MSG_CRC : Fld := ⟨0xF0094, 0, 31, 0⟩
def TW_MSG_CRC_OVF : Fld := ⟨0xF0094, 31, 1, 0⟩
def MATCH_LOSS : Fld := ⟨0xF0098, 0, 31, 0⟩
def MATCH_LOSS_OVF : Fld := ⟨0xF0098, 31, 1, 0⟩
def LS_CLAIM : Fld := ⟨0xF01C0, 0, 31, 0⟩
def LS_CLAIM_OVF : Fld := ⟨0xF01C0, 31, 1, 0⟩
def LS_HANDOVER : Fld := ⟨0xF01C4, 0, 31, 0⟩
def LS_HANDOVER_OVF : Fld := ⟨0xF01C4, 31, 1, 0⟩
def LS_QLOSS : Fld := ⟨0xF01C8, 0, 31, 0⟩
def LS_QLOSS_OVF : Fld := ⟨0xF01C8, 31, 1, 0⟩
def LS_ACK_RX : Fld := ⟨0xF01CC, 0, 31, 0⟩
def LS_ACK_RX_OVF : Fld := ⟨0xF01CC, 31, 1, 0⟩
def LS_SWEEP : Fld := ⟨0xF01D0, 0, 31, 0⟩
def LS_SWEEP_OVF : Fld := ⟨0xF01D0, 31, 1, 0⟩
def LS_GRANT : Fld := ⟨0xF0240, 0, 31, 0⟩
def LS_GRANT_OVF : Fld := ⟨0xF0240, 31, 1, 0⟩
def LS_EXPIRE : Fld := ⟨0xF0244, 0, 31, 0⟩
def LS_EXPIRE_OVF : Fld := ⟨0xF0244, 31, 1, 0⟩
def LS_RELEASE : Fld := ⟨0xF0248, 0, 31, 0⟩
def LS_RELEASE_OVF : Fld := ⟨0xF0248, 31, 1, 0⟩
def LS_ACK_WAIT : Fld := ⟨0xF024C, 0, 31, 0⟩
def LS_ACK_WAIT_OVF : Fld := ⟨0xF024C, 31, 1, 0⟩
/-! ### Block 0x10 -/

def CL_CTRL_BLEN : Fld := ⟨0x100000, 0, 4, 0⟩
def CL_CTRL_FWD_EN : Fld := ⟨0x100000, 4, 1, 0⟩
def CL_STAT_BENCH : Fld := ⟨0x100004, 0, 1, 0⟩
def CL_STAT_ALIGNED : Fld := ⟨0x100004, 1, 1, 0⟩
def CL_STAT_DEEP : Fld := ⟨0x100004, 2, 1, 0⟩
def CL_STAT_DEPTH : Fld := ⟨0x100004, 3, 3, 0⟩
def CL_STAT_PARENT : Fld := ⟨0x100004, 6, 2, 0⟩
def CL_BL_STAT_VAL (i : Nat) : Fld := ⟨0x100010 + 0x4 * i, 0, 32, 0⟩
def CL_BL_LINKDLY_VAL (i : Nat) : Fld := ⟨0x100020 + 0x4 * i, 0, 32, 0⟩
def CL_VRX_ADDR (i : Nat) : Fld := ⟨0x100030 + 0x4 * i, 0, 21, 0⟩
def CL_VSEND_VAL (i j : Nat) : Fld := ⟨0x100100 + 0x80 * i + 0x4 * j, 0, 32, 0⟩
def ALIGN_ERR : Fld := ⟨0x100080, 0, 31, 0⟩
def ALIGN_ERR_OVF : Fld := ⟨0x100080, 31, 1, 0⟩
def VAR_DROP : Fld := ⟨0x100084, 0, 31, 0⟩
def VAR_DROP_OVF : Fld := ⟨0x100084, 31, 1, 0⟩
def VAR_STALE : Fld := ⟨0x100088, 0, 31, 0⟩
def VAR_STALE_OVF : Fld := ⟨0x100088, 31, 1, 0⟩
def FWD_CNT : Fld := ⟨0x10008C, 0, 31, 0⟩
def FWD_CNT_OVF : Fld := ⟨0x10008C, 31, 1, 0⟩
def FWD_TO : Fld := ⟨0x100090, 0, 31, 0⟩
def FWD_TO_OVF : Fld := ⟨0x100090, 31, 1, 0⟩
def FWD_DROP : Fld := ⟨0x100094, 0, 31, 0⟩
def FWD_DROP_OVF : Fld := ⟨0x100094, 31, 1, 0⟩
def CL_MSG_CRC : Fld := ⟨0x100098, 0, 31, 0⟩
def CL_MSG_CRC_OVF : Fld := ⟨0x100098, 31, 1, 0⟩
/-! ### Block 0x12 -/

def STB_FIRE_GRP : Fld := ⟨0x120000, 0, 8, 0⟩
def STB_SRC_GRP : Fld := ⟨0x120004, 0, 8, 0⟩
def STB_REF_GRP : Fld := ⟨0x120008, 0, 8, 0⟩
def TXN_CFG_LEAD : Fld := ⟨0x120010, 0, 8, 2⟩
def TXN_CFG_SLEAD : Fld := ⟨0x120010, 8, 16, 200⟩
def TXN_CFG_SGUARD : Fld := ⟨0x120010, 24, 8, 8⟩
def TXN_IDLE_SEC : Fld := ⟨0x120014, 0, 12, 60⟩
def TXN_SCFG_PTO : Fld := ⟨0x120018, 0, 24, 1000000⟩
def TXN_STAT_OPEN : Fld := ⟨0x12001C, 0, 4, 0⟩
def TXN_STAT_SPREP : Fld := ⟨0x12001C, 4, 1, 0⟩
def TXN_STAT_SCOMMIT : Fld := ⟨0x12001C, 5, 1, 0⟩
def TXN_STAT_STXID : Fld := ⟨0x12001C, 16, 16, 0⟩
def TXN_STICK_TICK : Fld := ⟨0x120020, 0, 32, 0⟩
def TXN_COMMITS : Fld := ⟨0x120040, 0, 31, 0⟩
def TXN_COMMITS_OVF : Fld := ⟨0x120040, 31, 1, 0⟩
def TXN_ROLLBACKS : Fld := ⟨0x120044, 0, 31, 0⟩
def TXN_ROLLBACKS_OVF : Fld := ⟨0x120044, 31, 1, 0⟩
def TXN_EXPIRED : Fld := ⟨0x120048, 0, 31, 0⟩
def TXN_EXPIRED_OVF : Fld := ⟨0x120048, 31, 1, 0⟩
def TXN_CONFLICTS : Fld := ⟨0x12004C, 0, 31, 0⟩
def TXN_CONFLICTS_OVF : Fld := ⟨0x12004C, 31, 1, 0⟩
def TXN_MISSED : Fld := ⟨0x120050, 0, 31, 0⟩
def TXN_MISSED_OVF : Fld := ⟨0x120050, 31, 1, 0⟩
def TXN_PARTIAL : Fld := ⟨0x120054, 0, 31, 0⟩
def TXN_PARTIAL_OVF : Fld := ⟨0x120054, 31, 1, 0⟩
/-! ### Block 0x13 -/

def MB_REQ_ITEM : Fld := ⟨0x130000, 0, 16, 0⟩
def MB_STAT_VALID : Fld := ⟨0x130004, 0, 1, 0⟩
def MB_STAT_ERR : Fld := ⟨0x130004, 1, 1, 0⟩
def MB_STAT_NWORDS : Fld := ⟨0x130004, 4, 4, 0⟩
def MB_STAT_ITEM : Fld := ⟨0x130004, 16, 16, 0⟩
def MB_DATA_DATA (i : Nat) : Fld := ⟨0x130010 + 0x4 * i, 0, 32, 0⟩

end Sys2Proof.Machine
end

