-- ==== Sys2Proof/Machine/RegTable.lean ====
section
/-! DEFINITION. The register tables of spec/ as data: which fields a word holds, how each may be read and
written (R8), whether it is double-buffered (R342), which lock bit holds it (R344), and which values a write
may carry (R10). -/

namespace Sys2Proof.Machine

/-- Access types of R8. `rwl l` is locked by bit `l` of SYS_LOCK. -/
inductive Acc where
  | rw | ro | rc | w1s | w1c | wo
  | rwl (lock : Nat)
deriving DecidableEq, Repr

/-- One field of a register word. `legal` lists the closed ranges of values a write may carry;
none listed means every value (R10). -/
structure FSpec where
  fld : Fld
  acc : Acc
  cfg : Bool
  legal : List (Nat × Nat)
deriving DecidableEq, Repr

/-- One row of a register table: `n1` by `n2` words from `base` with strides `s1`, `s2`. -/
structure Reg where
  base : Nat
  n1 : Nat
  s1 : Nat
  n2 : Nat
  s2 : Nat
  fields : Nat → Nat → List FSpec

/-- Registers of block 0x01 (part 0). -/
def regs01_0 : List Reg := [
  ⟨0x10040, 1, 0x1, 1, 0x1, fun _ _ => [⟨SYS_LOCK_TIME, .w1s, false, []⟩,
      ⟨SYS_LOCK_TRV, .w1s, false, []⟩,
      ⟨SYS_LOCK_TRVTEST, .w1s, false, []⟩,
      ⟨SYS_LOCK_GATE, .w1s, false, []⟩,
      ⟨SYS_LOCK_OV, .w1s, false, []⟩,
      ⟨SYS_LOCK_LOOP, .w1s, false, []⟩,
      ⟨SYS_LOCK_INJ, .w1s, false, []⟩,
      ⟨SYS_LOCK_LEASE, .w1s, false, []⟩,
      ⟨SYS_LOCK_SAFE, .w1s, false, []⟩,
      ⟨SYS_LOCK_FAULT, .w1s, false, []⟩,
      ⟨SYS_LOCK_FB, .w1s, false, []⟩]⟩,
  ⟨0x10044, 1, 0x1, 1, 0x1, fun _ _ => [⟨SYS_PAR_ADDR_ADDR, .ro, false, []⟩,
      ⟨SYS_PAR_ADDR_SHADOW, .ro, false, []⟩]⟩,
  ⟨0x10010, 1, 0x1, 1, 0x1, fun _ _ => [⟨SYS_STRAP_ROLE, .ro, false, []⟩,
      ⟨SYS_STRAP_CLPOS, .ro, false, []⟩,
      ⟨SYS_STRAP_BOARD, .ro, false, []⟩,
      ⟨SYS_STRAP_TWPREF, .ro, false, []⟩]⟩,
  ⟨0x10014, 1, 0x1, 1, 0x1, fun _ _ => [⟨SYS_RSTCAUSE_KIND, .ro, false, []⟩]⟩]

/-- Registers of block 0x01. -/
def regs01 : List Reg := regs01_0

/-- Registers of block 0x02 (part 0). -/
def regs02_0 : List Reg := [
  ⟨0x20000, 1, 0x1, 1, 0x1, fun _ _ => [⟨FC_CTRL_VEC, .rw, false, []⟩]⟩,
  ⟨0x20004, 1, 0x1, 1, 0x1, fun _ _ => [⟨FC_STAT_PENDING, .rc, false, []⟩,
      ⟨FC_STAT_DEGRADE, .rc, false, []⟩,
      ⟨FC_STAT_BLOCK_ACT, .ro, false, []⟩,
      ⟨FC_STAT_TERMINAL, .ro, false, []⟩,
      ⟨FC_STAT_ALIVE_RUN, .ro, false, []⟩,
      ⟨FC_STAT_WD_EXP, .ro, false, []⟩]⟩,
  ⟨0x20008, 1, 0x1, 1, 0x1, fun _ _ => [⟨FC_FIRST_SRC, .ro, false, []⟩,
      ⟨FC_FIRST_VALID, .ro, false, []⟩]⟩,
  ⟨0x20010, 1, 0x1, 1, 0x1, fun _ _ => [⟨WD_CFG_EN, .rwl 9, false, []⟩,
      ⟨WD_CFG_RST_EN, .rwl 9, false, []⟩,
      ⟨WD_CFG_TMO, .rwl 9, false, [(1, 1000)]⟩]⟩,
  ⟨0x20014, 1, 0x1, 1, 0x1, fun _ _ => [⟨WD_FEED_KEY, .wo, false, []⟩]⟩,
  ⟨0x20100, 8, 0x4, 1, 0x1, fun i _ => [⟨(FC_STATUS_SRC i), .rc, false, []⟩]⟩,
  ⟨0x20120, 8, 0x4, 1, 0x1, fun i _ => [⟨(FC_ACTIVE_SRC i), .ro, false, []⟩]⟩,
  ⟨0x20140, 8, 0x4, 1, 0x1, fun i _ => [⟨(FC_EN_SRC i), .rwl 9, false, []⟩]⟩,
  ⟨0x20160, 8, 0x4, 1, 0x1, fun i _ => [⟨(FC_FORCE_SRC i), .rw, false, []⟩]⟩,
  ⟨0x20400, 256, 0x4, 1, 0x1, fun i _ => [⟨(FC_SRC_CLASS i), .rwl 9, false, [(0, 4)]⟩,
      ⟨(FC_SRC_TAIL i), .rwl 9, false, []⟩,
      ⟨(FC_SRC_FIXED i), .ro, false, []⟩]⟩,
  ⟨0x20040, 1, 0x1, 1, 0x1, fun _ _ => [⟨WD_BADFEED, .rc, false, []⟩,
      ⟨WD_BADFEED_OVF, .rc, false, []⟩]⟩]

/-- Registers of block 0x02. -/
def regs02 : List Reg := regs02_0

/-- Registers of block 0x03 (part 0). -/
def regs03_0 : List Reg := [
  ⟨0x30000, 1, 0x1, 1, 0x1, fun _ _ => [⟨FB_CTRL_FREEZE, .rw, false, []⟩,
      ⟨FB_CTRL_CLEAR, .wo, false, []⟩]⟩,
  ⟨0x30004, 1, 0x1, 1, 0x1, fun _ _ => [⟨FB_CFG_MERGE_WIN, .rw, false, []⟩,
      ⟨FB_CFG_FRZ_MAX, .rw, false, [(1, 1000)]⟩]⟩,
  ⟨0x30008, 1, 0x1, 1, 0x1, fun _ _ => [⟨FB_STAT_FROZEN, .ro, false, []⟩,
      ⟨FB_STAT_QFILL, .ro, false, []⟩,
      ⟨FB_STAT_LOST_PEND, .ro, false, []⟩,
      ⟨FB_STAT_TAIL_VALID, .ro, false, []⟩,
      ⟨FB_STAT_FRZ_EXP, .rc, false, []⟩]⟩,
  ⟨0x3000C, 1, 0x1, 1, 0x1, fun _ _ => [⟨FB_HEAD_SEQ, .ro, false, []⟩]⟩,
  ⟨0x30010, 1, 0x1, 1, 0x1, fun _ _ => [⟨FB_TAILHEAD_SEQ, .ro, false, []⟩]⟩,
  ⟨0x30014, 1, 0x1, 1, 0x1, fun _ _ => [⟨FB_CURSOR_CURSOR, .rw, false, []⟩,
      ⟨FB_CURSOR_SPACE, .rw, false, []⟩]⟩,
  ⟨0x30800, 64, 0x20, 8, 0x4, fun i j => [⟨(FB_WIN_REC i j), .ro, false, []⟩]⟩,
  ⟨0x30040, 1, 0x1, 1, 0x1, fun _ _ => [⟨FB_LOST, .rc, false, []⟩,
      ⟨FB_LOST_OVF, .rc, false, []⟩]⟩,
  ⟨0x30044, 1, 0x1, 1, 0x1, fun _ _ => [⟨FB_MERGED, .rc, false, []⟩,
      ⟨FB_MERGED_OVF, .rc, false, []⟩]⟩]

/-- Registers of block 0x03. -/
def regs03 : List Reg := regs03_0

/-- Registers of block 0x04 (part 0). -/
def regs04_0 : List Reg := [
  ⟨0x40000, 1, 0x1, 1, 0x1, fun _ _ => [⟨TB_CTRL_TICK_EN, .rw, true, []⟩,
      ⟨TB_CTRL_SRC, .rw, true, [(0, 3)]⟩,
      ⟨TB_CTRL_STEP, .wo, false, []⟩]⟩,
  ⟨0x40004, 1, 0x1, 1, 0x1, fun _ _ => [⟨TB_STAT_TICK_RUN, .ro, false, []⟩,
      ⟨TB_STAT_TICK_LOCK, .ro, false, []⟩,
      ⟨TB_STAT_HOLDOVER, .ro, false, []⟩,
      ⟨TB_STAT_SLEW_CLAMP, .ro, false, []⟩,
      ⟨TB_STAT_TIME_VALID, .ro, false, []⟩,
      ⟨TB_STAT_TWIN_ALIGNED, .ro, false, []⟩,
      ⟨TB_STAT_STROBE_REF, .rc, false, []⟩]⟩,
  ⟨0x40008, 1, 0x1, 1, 0x1, fun _ _ => [⟨TB_PERIOD_PERIOD, .rw, true, [(1250, 50000)]⟩]⟩,
  ⟨0x4000C, 1, 0x1, 1, 0x1, fun _ _ => [⟨TB_SAMPLE_S, .rw, true, []⟩]⟩,
  ⟨0x40010, 1, 0x1, 1, 0x1, fun _ _ => [⟨TB_CUTOFF_LEAD, .rw, true, []⟩]⟩,
  ⟨0x40014, 1, 0x1, 1, 0x1, fun _ _ => [⟨TB_EPOCH_SEC_LO_SEC, .rw, true, []⟩]⟩,
  ⟨0x40018, 1, 0x1, 1, 0x1, fun _ _ => [⟨TB_EPOCH_SEC_HI_SEC, .rw, true, []⟩]⟩,
  ⟨0x4001C, 1, 0x1, 1, 0x1, fun _ _ => [⟨TB_EPOCH_OFS_OFS, .rw, true, [(0, 499999999)]⟩]⟩,
  ⟨0x40020, 1, 0x1, 1, 0x1, fun _ _ => [⟨TB_TICK_BASE_LO_K0, .rw, true, []⟩]⟩,
  ⟨0x40024, 1, 0x1, 1, 0x1, fun _ _ => [⟨TB_TICK_BASE_HI_K0, .rw, true, []⟩]⟩,
  ⟨0x40028, 1, 0x1, 1, 0x1, fun _ _ => [⟨TB_FTRIM_TRIM, .rw, false, [(0, 6553600), (4288413696, 4294967295)]⟩]⟩,
  ⟨0x4002C, 1, 0x1, 1, 0x1, fun _ _ => [⟨TB_SLEWLIM_LIM, .rwl 0, false, [(1, 1000)]⟩]⟩,
  ⟨0x40030, 1, 0x1, 1, 0x1, fun _ _ => [⟨TB_SET_SEC_LO_VAL, .rw, false, []⟩]⟩,
  ⟨0x40034, 1, 0x1, 1, 0x1, fun _ _ => [⟨TB_SET_SEC_HI_VAL, .rw, false, []⟩]⟩,
  ⟨0x40038, 1, 0x1, 1, 0x1, fun _ _ => [⟨TB_SET_NS_VAL, .rw, false, [(0, 999999999)]⟩]⟩,
  ⟨0x40040, 6, 0x4, 1, 0x1, fun i _ => [⟨(TB_APPLY_A i), .rw, true, []⟩]⟩,
  ⟨0x40060, 1, 0x1, 1, 0x1, fun _ _ => [⟨TB_TPHASE_ERR, .rc, false, []⟩,
      ⟨TB_TPHASE_ERR_OVF, .rc, false, []⟩]⟩,
  ⟨0x40064, 1, 0x1, 1, 0x1, fun _ _ => [⟨TB_HOLDOVER, .rc, false, []⟩,
      ⟨TB_HOLDOVER_OVF, .rc, false, []⟩]⟩,
  ⟨0x40100, 4, 0x20, 1, 0x1, fun i _ => [⟨(TEV_CTRL_EN i), .rw, true, []⟩,
      ⟨(TEV_CTRL_MODE i), .rw, true, []⟩,
      ⟨(TEV_CTRL_OUT_EN i), .rw, true, []⟩,
      ⟨(TEV_CTRL_POL i), .rw, true, []⟩,
      ⟨(TEV_CTRL_ADCSTART i), .rw, true, []⟩]⟩,
  ⟨0x40104, 4, 0x20, 1, 0x1, fun i _ => [⟨(TEV_SEC_LO_VAL i), .rw, true, []⟩]⟩]

/-- Registers of block 0x04 (part 1). -/
def regs04_1 : List Reg := [
  ⟨0x40108, 4, 0x20, 1, 0x1, fun i _ => [⟨(TEV_SEC_HI_VAL i), .rw, true, []⟩]⟩,
  ⟨0x4010C, 4, 0x20, 1, 0x1, fun i _ => [⟨(TEV_NS_VAL i), .rw, true, []⟩]⟩,
  ⟨0x40110, 4, 0x20, 1, 0x1, fun i _ => [⟨(TEV_PER_VAL i), .rw, true, []⟩]⟩,
  ⟨0x40114, 4, 0x20, 1, 0x1, fun i _ => [⟨(TEV_WID_VAL i), .rw, true, [(1, 4294967295)]⟩]⟩,
  ⟨0x40118, 4, 0x20, 1, 0x1, fun i _ => [⟨(TEV_STAT_FIRED i), .rc, false, []⟩,
      ⟨(TEV_STAT_MISSED i), .rc, false, []⟩]⟩,
  ⟨0x40200, 2, 0x40, 1, 0x1, fun i _ => [⟨(PTP_CTRL_EN i), .rw, true, []⟩,
      ⟨(PTP_CTRL_ONESTEP i), .rw, true, []⟩,
      ⟨(PTP_CTRL_TRANSPORT i), .rw, true, [(0, 2)]⟩]⟩,
  ⟨0x40204, 2, 0x40, 1, 0x1, fun i _ => [⟨(PTP_LAT_EGRESS i), .rw, true, []⟩,
      ⟨(PTP_LAT_INGRESS i), .rw, true, []⟩]⟩,
  ⟨0x40208, 2, 0x40, 1, 0x1, fun i _ => [⟨(PTP_DROP i), .rc, false, []⟩,
      ⟨(PTP_DROP_OVF i), .rc, false, []⟩]⟩]

/-- Registers of block 0x04. -/
def regs04 : List Reg := regs04_0 ++ regs04_1

/-- Registers of block 0x05 (part 0). -/
def regs05_0 : List Reg := [
  ⟨0x50000, 16, 0x1000, 1, 0x1, fun i _ => [⟨(TRV_CTRL_EN i), .rw, true, []⟩,
      ⟨(TRV_CTRL_BLIND_EN i), .rw, true, []⟩,
      ⟨(TRV_CTRL_FE_ALLOW i), .rwl 2, true, []⟩,
      ⟨(TRV_CTRL_LBYP_REL i), .rw, true, []⟩,
      ⟨(TRV_CTRL_RESTART i), .wo, false, []⟩]⟩,
  ⟨0x50004, 16, 0x1000, 1, 0x1, fun i _ => [⟨(TRV_STAT_STATE i), .ro, false, []⟩,
      ⟨(TRV_STAT_LBYP_ON i), .ro, false, []⟩,
      ⟨(TRV_STAT_CACHE_VALID i), .ro, false, []⟩,
      ⟨(TRV_STAT_DLY_VALID i), .ro, false, []⟩,
      ⟨(TRV_STAT_FAR_VALID i), .ro, false, []⟩,
      ⟨(TRV_STAT_APPLY_MARGIN i), .ro, false, []⟩,
      ⟨(TRV_STAT_VER i), .ro, false, []⟩]⟩,
  ⟨0x50008, 16, 0x1000, 1, 0x1, fun i _ => [⟨(TRV_LCAUSE_BU_TIMEOUT i), .rc, false, []⟩,
      ⟨(TRV_LCAUSE_INCOMPAT i), .rc, false, []⟩,
      ⟨(TRV_LCAUSE_FEEDER_MISMATCH i), .rc, false, []⟩,
      ⟨(TRV_LCAUSE_PARTNER_CHANGED i), .rc, false, []⟩,
      ⟨(TRV_LCAUSE_LOCK_LOST i), .rc, false, []⟩,
      ⟨(TRV_LCAUSE_DLY_SPREAD i), .rc, false, []⟩,
      ⟨(TRV_LCAUSE_FE_REFUSED i), .rc, false, []⟩,
      ⟨(TRV_LCAUSE_TEST i), .rc, false, []⟩,
      ⟨(TRV_LCAUSE_RXC_LOST i), .rc, false, []⟩]⟩,
  ⟨0x5000C, 16, 0x1000, 1, 0x1, fun i _ => [⟨(TRV_BUCFG_RETRY i), .rw, true, [(1, 255)]⟩]⟩,
  ⟨0x50010, 16, 0x1000, 1, 0x1, fun i _ => [⟨(TRV_PARTNER_ROLE i), .ro, false, []⟩,
      ⟨(TRV_PARTNER_STEPPING i), .ro, false, []⟩,
      ⟨(TRV_PARTNER_VER_MIN i), .ro, false, []⟩,
      ⟨(TRV_PARTNER_VER_MAX i), .ro, false, []⟩]⟩,
  ⟨0x50014, 16, 0x1000, 1, 0x1, fun i _ => [⟨(TRV_LINKDLY_DLY i), .ro, false, []⟩]⟩,
  ⟨0x5001C, 16, 0x1000, 1, 0x1, fun i _ => [⟨(TRV_CHAINDLY_DLY i), .ro, false, []⟩]⟩,
  ⟨0x50020, 16, 0x1000, 1, 0x1, fun i _ => [⟨(TRV_FARDLY_DLY i), .ro, false, []⟩]⟩,
  ⟨0x50018, 16, 0x1000, 1, 0x1, fun i _ => [⟨(TRV_ASYM_ASYM i), .rwl 1, false, []⟩]⟩,
  ⟨0x50024, 16, 0x1000, 1, 0x1, fun i _ => [⟨(TRV_HOPLAT_LAT i), .ro, false, []⟩]⟩,
  ⟨0x50040, 16, 0x1000, 1, 0x1, fun i _ => [⟨(TRV_TEST_LOOP i), .rwl 2, true, [(0, 3)]⟩,
      ⟨(TRV_TEST_GEN i), .rwl 2, true, []⟩,
      ⟨(TRV_TEST_CHK i), .rwl 2, true, []⟩,
      ⟨(TRV_TEST_SQUELCH i), .rwl 2, true, []⟩]⟩,
  ⟨0x50044, 16, 0x1000, 1, 0x1, fun i _ => [⟨(TRV_INJ_SINGLE i), .wo, false, []⟩,
      ⟨(TRV_INJ_BURST i), .wo, false, []⟩,
      ⟨(TRV_INJ_PRBS_CLR i), .wo, false, []⟩,
      ⟨(TRV_INJ_LEN i), .wo, false, []⟩]⟩,
  ⟨0x50048, 16, 0x1000, 1, 0x1, fun i _ => [⟨(TRV_PRBS_STAT_CHK_LOCK i), .ro, false, []⟩,
      ⟨(TRV_PRBS_STAT_ERR i), .rc, false, []⟩,
      ⟨(TRV_PRBS_STAT_LOCK_LOST i), .rc, false, []⟩,
      ⟨(TRV_PRBS_STAT_CNT_OVF i), .ro, false, []⟩]⟩,
  ⟨0x50100, 16, 0x1000, 1, 0x1, fun i _ => [⟨(TRV_FCFG_SLOTS i), .rw, true, [(1, 64)]⟩,
      ⟨(TRV_FCFG_MSIZE i), .rw, true, [(8, 128)]⟩,
      ⟨(TRV_FCFG_FMT i), .rw, true, [(1, 2)]⟩,
      ⟨(TRV_FCFG_TURN i), .rw, true, [(0, 2)]⟩,
      ⟨(TRV_FCFG_DTURN i), .rw, true, []⟩]⟩,
  ⟨0x50104, 16, 0x1000, 1, 0x1, fun i _ => [⟨(TRV_MCFG_FREE_INT i), .rw, true, [(1, 255)]⟩,
      ⟨(TRV_MCFG_RTO i), .rw, true, [(1, 65535)]⟩]⟩,
  ⟨0x50108, 16, 0x1000, 1, 0x1, fun i _ => [⟨(TRV_SLOT_SLOT i), .ro, false, []⟩,
      ⟨(TRV_SLOT_VALID i), .ro, false, []⟩]⟩,
  ⟨0x5010C, 16, 0x1000, 1, 0x1, fun i _ => [⟨(TRV_CLOSE_EXPECT i), .rw, true, []⟩,
      ⟨(TRV_CLOSE_TOPO i), .rw, true, []⟩,
      ⟨(TRV_CLOSE_PERSIST i), .rw, true, [(1, 15)]⟩,
      ⟨(TRV_CLOSE_TOL i), .rw, true, []⟩]⟩,
  ⟨0x50110, 16, 0x1000, 1, 0x1, fun i _ => [⟨(TRV_CSTAT_PASS i), .ro, false, []⟩,
      ⟨(TRV_CSTAT_TURNED i), .ro, false, []⟩,
      ⟨(TRV_CSTAT_MISMATCH i), .ro, false, []⟩,
      ⟨(TRV_CSTAT_WCOUNT i), .ro, false, []⟩,
      ⟨(TRV_CSTAT_VSLOTS i), .ro, false, []⟩]⟩,
  ⟨0x50114, 16, 0x1000, 1, 0x1, fun i _ => [⟨(TRV_FCAUSE_APPLY_MARGIN i), .rc, false, []⟩,
      ⟨(TRV_FCAUSE_NO_FRAME i), .rc, false, []⟩,
      ⟨(TRV_FCAUSE_HDR_CRC i), .rc, false, []⟩,
      ⟨(TRV_FCAUSE_ARM_CRC i), .rc, false, []⟩,
      ⟨(TRV_FCAUSE_SAFE_CRC i), .rc, false, []⟩,
      ⟨(TRV_FCAUSE_MGMT_CRC i), .rc, false, []⟩,
      ⟨(TRV_FCAUSE_TELE_CRC i), .rc, false, []⟩,
      ⟨(TRV_FCAUSE i), .rc, false, []⟩,
      ⟨(TRV_FCAUSE_SENDER i), .rc, false, []⟩,
      ⟨(TRV_FCAUSE_SEQ i), .rc, false, []⟩,
      ⟨(TRV_FCAUSE_TRANSIT i), .rc, false, []⟩,
      ⟨(TRV_FCAUSE_TURNED i), .rc, false, []⟩,
      ⟨(TRV_FCAUSE_DUP_DIFF i), .rc, false, []⟩,
      ⟨(TRV_FCAUSE_FMT i), .rc, false, []⟩]⟩,
  ⟨0x50118, 16, 0x1000, 1, 0x1, fun i _ => [⟨(TRV_TRANSIT_DLY i), .ro, false, []⟩]⟩]

/-- Registers of block 0x05 (part 1). -/
def regs05_1 : List Reg := [
  ⟨0x50080, 16, 0x1000, 1, 0x1, fun i _ => [⟨(CV_CNT i), .rc, false, []⟩,
      ⟨(CV_CNT_OVF i), .rc, false, []⟩]⟩,
  ⟨0x50084, 16, 0x1000, 1, 0x1, fun i _ => [⟨(REALIGN_CNT i), .rc, false, []⟩,
      ⟨(REALIGN_CNT_OVF i), .rc, false, []⟩]⟩,
  ⟨0x50088, 16, 0x1000, 1, 0x1, fun i _ => [⟨(LOCKLOSS_CNT i), .rc, false, []⟩,
      ⟨(LOCKLOSS_CNT_OVF i), .rc, false, []⟩]⟩,
  ⟨0x5008C, 16, 0x1000, 1, 0x1, fun i _ => [⟨(BUFAIL_CNT i), .rc, false, []⟩,
      ⟨(BUFAIL_CNT_OVF i), .rc, false, []⟩]⟩,
  ⟨0x50090, 16, 0x1000, 1, 0x1, fun i _ => [⟨(BLIND_CNT i), .rc, false, []⟩,
      ⟨(BLIND_CNT_OVF i), .rc, false, []⟩]⟩,
  ⟨0x50094, 16, 0x1000, 1, 0x1, fun i _ => [⟨(BLOCK_FWD_CNT i), .rc, false, []⟩,
      ⟨(BLOCK_FWD_CNT_OVF i), .rc, false, []⟩]⟩,
  ⟨0x50098, 16, 0x1000, 1, 0x1, fun i _ => [⟨(TMARK_FWD_CNT i), .rc, false, []⟩,
      ⟨(TMARK_FWD_CNT_OVF i), .rc, false, []⟩]⟩,
  ⟨0x5009C, 16, 0x1000, 1, 0x1, fun i _ => [⟨(URG_ISO i), .rc, false, []⟩,
      ⟨(URG_ISO_OVF i), .rc, false, []⟩]⟩,
  ⟨0x500A0, 16, 0x1000, 1, 0x1, fun i _ => [⟨(URG_DROP i), .rc, false, []⟩,
      ⟨(URG_DROP_OVF i), .rc, false, []⟩]⟩,
  ⟨0x500A4, 16, 0x1000, 1, 0x1, fun i _ => [⟨(IDLE_SHORT i), .rc, false, []⟩,
      ⟨(IDLE_SHORT_OVF i), .rc, false, []⟩]⟩,
  ⟨0x500A8, 16, 0x1000, 1, 0x1, fun i _ => [⟨(DA_ERR i), .rc, false, []⟩,
      ⟨(DA_ERR_OVF i), .rc, false, []⟩]⟩,
  ⟨0x500AC, 16, 0x1000, 1, 0x1, fun i _ => [⟨(DA_STEP i), .rc, false, []⟩,
      ⟨(DA_STEP_OVF i), .rc, false, []⟩]⟩,
  ⟨0x50140, 16, 0x1000, 1, 0x1, fun i _ => [⟨(FRM_RX i), .rc, false, []⟩,
      ⟨(FRM_RX_OVF i), .rc, false, []⟩]⟩,
  ⟨0x50144, 16, 0x1000, 1, 0x1, fun i _ => [⟨(HDR_CRC i), .rc, false, []⟩,
      ⟨(HDR_CRC_OVF i), .rc, false, []⟩]⟩,
  ⟨0x50148, 16, 0x1000, 1, 0x1, fun i _ => [⟨(ARM_CRC i), .rc, false, []⟩,
      ⟨(ARM_CRC_OVF i), .rc, false, []⟩]⟩,
  ⟨0x5014C, 16, 0x1000, 1, 0x1, fun i _ => [⟨(SAFE_CRC i), .rc, false, []⟩,
      ⟨(SAFE_CRC_OVF i), .rc, false, []⟩]⟩,
  ⟨0x50150, 16, 0x1000, 1, 0x1, fun i _ => [⟨(MGMT_CRC i), .rc, false, []⟩,
      ⟨(MGMT_CRC_OVF i), .rc, false, []⟩]⟩,
  ⟨0x50154, 16, 0x1000, 1, 0x1, fun i _ => [⟨(TELE_CRC i), .rc, false, []⟩,
      ⟨(TELE_CRC_OVF i), .rc, false, []⟩]⟩,
  ⟨0x50158, 16, 0x1000, 1, 0x1, fun i _ => [⟨(SLOT_CRC i), .rc, false, []⟩,
      ⟨(SLOT_CRC_OVF i), .rc, false, []⟩]⟩,
  ⟨0x5015C, 16, 0x1000, 1, 0x1, fun i _ => [⟨(DUP_OK i), .rc, false, []⟩,
      ⟨(DUP_OK_OVF i), .rc, false, []⟩]⟩]

/-- Registers of block 0x05 (part 2). -/
def regs05_2 : List Reg := [
  ⟨0x50160, 16, 0x1000, 1, 0x1, fun i _ => [⟨(DUP_DIFF i), .rc, false, []⟩,
      ⟨(DUP_DIFF_OVF i), .rc, false, []⟩]⟩,
  ⟨0x50164, 16, 0x1000, 1, 0x1, fun i _ => [⟨(OLD_SEQ i), .rc, false, []⟩,
      ⟨(OLD_SEQ_OVF i), .rc, false, []⟩]⟩,
  ⟨0x50168, 16, 0x1000, 1, 0x1, fun i _ => [⟨(LOST i), .rc, false, []⟩,
      ⟨(LOST_OVF i), .rc, false, []⟩]⟩,
  ⟨0x5016C, 16, 0x1000, 1, 0x1, fun i _ => [⟨(LATE i), .rc, false, []⟩,
      ⟨(LATE_OVF i), .rc, false, []⟩]⟩,
  ⟨0x50170, 16, 0x1000, 1, 0x1, fun i _ => [⟨(LEASE_REJ i), .rc, false, []⟩,
      ⟨(LEASE_REJ_OVF i), .rc, false, []⟩]⟩,
  ⟨0x50174, 16, 0x1000, 1, 0x1, fun i _ => [⟨(FMT_ERR i), .rc, false, []⟩,
      ⟨(FMT_ERR_OVF i), .rc, false, []⟩]⟩,
  ⟨0x50178, 16, 0x1000, 1, 0x1, fun i _ => [⟨(NO_DEC i), .rc, false, []⟩,
      ⟨(NO_DEC_OVF i), .rc, false, []⟩]⟩,
  ⟨0x5017C, 16, 0x1000, 1, 0x1, fun i _ => [⟨(CLOSE_FAIL i), .rc, false, []⟩,
      ⟨(CLOSE_FAIL_OVF i), .rc, false, []⟩]⟩,
  ⟨0x50180, 16, 0x1000, 1, 0x1, fun i _ => [⟨(NO_FRAME i), .rc, false, []⟩,
      ⟨(NO_FRAME_OVF i), .rc, false, []⟩]⟩,
  ⟨0x50184, 16, 0x1000, 1, 0x1, fun i _ => [⟨(REL_ERR i), .rc, false, []⟩,
      ⟨(REL_ERR_OVF i), .rc, false, []⟩]⟩,
  ⟨0x50188, 16, 0x1000, 1, 0x1, fun i _ => [⟨(BLOCK_RX i), .rc, false, []⟩,
      ⟨(BLOCK_RX_OVF i), .rc, false, []⟩]⟩]

/-- Registers of block 0x05. -/
def regs05 : List Reg := regs05_0 ++ regs05_1 ++ regs05_2

/-- Registers of block 0x06 (part 0). -/
def regs06_0 : List Reg := [
  ⟨0x60000, 1, 0x1, 1, 0x1, fun _ _ => [⟨LVL_CTRL_ARM_EN, .rw, true, []⟩,
      ⟨LVL_CTRL_TWIN_AGREE, .rw, true, []⟩,
      ⟨LVL_CTRL_REPMAX, .rw, true, [(0, 2)]⟩,
      ⟨LVL_CTRL_DEV_PERSIST, .rw, true, [(1, 15)]⟩]⟩,
  ⟨0x60100, 6, 0x20, 1, 0x1, fun i _ => [⟨(LVL_ARM_CFG_HOLD i), .rw, true, []⟩,
      ⟨(LVL_ARM_CFG_REST i), .rw, true, []⟩]⟩,
  ⟨0x60104, 6, 0x20, 1, 0x1, fun i _ => [⟨(LVL_ARM_RESTCFG_SRC i), .rw, true, []⟩,
      ⟨(LVL_ARM_RESTCFG_REST_EN i), .rw, true, []⟩,
      ⟨(LVL_ARM_RESTCFG_DLY i), .rw, true, [(1, 16777215)]⟩]⟩,
  ⟨0x60108, 6, 0x20, 1, 0x1, fun i _ => [⟨(LVL_ARM_ORDER_N i), .rw, false, []⟩,
      ⟨(LVL_ARM_ORDER_DIR i), .rw, false, []⟩,
      ⟨(LVL_ARM_ORDER_FRAC i), .rw, false, []⟩]⟩,
  ⟨0x6010C, 6, 0x20, 1, 0x1, fun i _ => [⟨(LVL_ARM_STAT_K i), .ro, false, []⟩,
      ⟨(LVL_ARM_STAT_H i), .ro, false, []⟩,
      ⟨(LVL_ARM_STAT_REPEAT i), .ro, false, []⟩,
      ⟨(LVL_ARM_STAT_SHORT i), .ro, false, []⟩,
      ⟨(LVL_ARM_STAT_SURPLUS i), .ro, false, []⟩,
      ⟨(LVL_ARM_STAT_REST_ON i), .ro, false, []⟩,
      ⟨(LVL_ARM_STAT_POSTED i), .ro, false, []⟩]⟩,
  ⟨0x60110, 6, 0x20, 1, 0x1, fun i _ => [⟨(LVL_ARM_T_T i), .ro, false, []⟩]⟩,
  ⟨0x60114, 6, 0x20, 1, 0x1, fun i _ => [⟨(LVL_ARM_SEL_NSEL i), .ro, false, []⟩,
      ⟨(LVL_ARM_SEL_TRIM i), .ro, false, []⟩,
      ⟨(LVL_ARM_SEL_TRIM_V i), .ro, false, []⟩]⟩,
  ⟨0x60118, 6, 0x20, 1, 0x1, fun i _ => [⟨(LVL_ARM_DEV_EXPECT i), .ro, false, []⟩,
      ⟨(LVL_ARM_DEV_REAL i), .ro, false, []⟩]⟩,
  ⟨0x61000, 16, 0x100, 64, 0x4, fun i j => [⟨(LVL_MAP_IDX i j), .rw, true, []⟩,
      ⟨(LVL_MAP_ARM i j), .rw, true, [(0, 5)]⟩,
      ⟨(LVL_MAP_VALID i j), .rw, true, []⟩,
      ⟨(LVL_MAP_ABSENT i j), .ro, false, []⟩]⟩,
  ⟨0x60200, 1, 0x1, 1, 0x1, fun _ _ => [⟨LVL_SIDX_IDX, .ro, false, []⟩,
      ⟨LVL_SIDX_ARM, .ro, false, []⟩,
      ⟨LVL_SIDX_ADOPTED, .ro, false, []⟩]⟩,
  ⟨0x60204, 1, 0x1, 1, 0x1, fun _ _ => [⟨LVL_SSTAT_AVAIL, .ro, false, []⟩,
      ⟨LVL_SSTAT_INS, .ro, false, []⟩,
      ⟨LVL_SSTAT_TRIMMING, .ro, false, []⟩,
      ⟨LVL_SSTAT_UNRANKED, .ro, false, []⟩,
      ⟨LVL_SSTAT_LATCHHOLD, .ro, false, []⟩,
      ⟨LVL_SSTAT_REFRESH, .ro, false, []⟩]⟩,
  ⟨0x60208, 1, 0x1, 1, 0x1, fun _ _ => [⟨LVL_SCFG_UNRK_LIM, .rw, true, [(1, 255)]⟩]⟩,
  ⟨0x60080, 1, 0x1, 1, 0x1, fun _ _ => [⟨LVL_REPEAT, .rc, false, []⟩,
      ⟨LVL_REPEAT_OVF, .rc, false, []⟩]⟩,
  ⟨0x60084, 1, 0x1, 1, 0x1, fun _ _ => [⟨LVL_MISSING, .rc, false, []⟩,
      ⟨LVL_MISSING_OVF, .rc, false, []⟩]⟩,
  ⟨0x60088, 1, 0x1, 1, 0x1, fun _ _ => [⟨LVL_SHORT, .rc, false, []⟩,
      ⟨LVL_SHORT_OVF, .rc, false, []⟩]⟩,
  ⟨0x6008C, 1, 0x1, 1, 0x1, fun _ _ => [⟨LVL_DEV, .rc, false, []⟩,
      ⟨LVL_DEV_OVF, .rc, false, []⟩]⟩,
  ⟨0x60090, 1, 0x1, 1, 0x1, fun _ _ => [⟨LVL_LATEORD, .rc, false, []⟩,
      ⟨LVL_LATEORD_OVF, .rc, false, []⟩]⟩,
  ⟨0x60094, 1, 0x1, 1, 0x1, fun _ _ => [⟨LVL_TWIN_DIFF, .rc, false, []⟩,
      ⟨LVL_TWIN_DIFF_OVF, .rc, false, []⟩]⟩,
  ⟨0x60098, 1, 0x1, 1, 0x1, fun _ _ => [⟨LVL_TWIN_LATE, .rc, false, []⟩,
      ⟨LVL_TWIN_LATE_OVF, .rc, false, []⟩]⟩,
  ⟨0x6009C, 1, 0x1, 1, 0x1, fun _ _ => [⟨LVL_EPOCH_ERR, .rc, false, []⟩,
      ⟨LVL_EPOCH_ERR_OVF, .rc, false, []⟩]⟩]

/-- Registers of block 0x06 (part 1). -/
def regs06_1 : List Reg := [
  ⟨0x60240, 1, 0x1, 1, 0x1, fun _ _ => [⟨LVL_HOLD_CNT, .rc, false, []⟩,
      ⟨LVL_HOLD_CNT_OVF, .rc, false, []⟩]⟩,
  ⟨0x60244, 1, 0x1, 1, 0x1, fun _ _ => [⟨LVL_LATCHHOLD, .rc, false, []⟩,
      ⟨LVL_LATCHHOLD_OVF, .rc, false, []⟩]⟩,
  ⟨0x60248, 1, 0x1, 1, 0x1, fun _ _ => [⟨LVL_TRIMMED, .rc, false, []⟩,
      ⟨LVL_TRIMMED_OVF, .rc, false, []⟩]⟩,
  ⟨0x6024C, 1, 0x1, 1, 0x1, fun _ _ => [⟨LVL_TRIMLOST, .rc, false, []⟩,
      ⟨LVL_TRIMLOST_OVF, .rc, false, []⟩]⟩]

/-- Registers of block 0x06. -/
def regs06 : List Reg := regs06_0 ++ regs06_1

/-- Registers of block 0x07 (part 0). -/
def regs07_0 : List Reg := [
  ⟨0x70000, 1, 0x1, 1, 0x1, fun _ _ => [⟨SCH_CTRL_EN, .rw, true, []⟩]⟩,
  ⟨0x70004, 1, 0x1, 1, 0x1, fun _ _ => [⟨SCH_STAT_INFLIGHT, .ro, false, []⟩,
      ⟨SCH_STAT_BUSY_LANES, .ro, false, []⟩,
      ⟨SCH_STAT_STALE_LAST, .ro, false, []⟩,
      ⟨SCH_STAT_STROBE_REF, .rc, false, []⟩]⟩,
  ⟨0x70010, 8, 0x4, 1, 0x1, fun i _ => [⟨(SCH_QDEPTH_DEPTH i), .rw, true, [(1, 128)]⟩,
      ⟨(SCH_QDEPTH_FILL i), .ro, false, []⟩]⟩,
  ⟨0x70040, 1, 0x1, 1, 0x1, fun _ _ => [⟨SCH_SETFLAG_FLAG, .wo, false, []⟩,
      ⟨SCH_SETFLAG_SLOT, .wo, false, []⟩]⟩,
  ⟨0x70044, 1, 0x1, 1, 0x1, fun _ _ => [⟨SCH_CANCEL_SLOT, .wo, false, []⟩]⟩,
  ⟨0x70200, 32, 0x4, 1, 0x1, fun i _ => [⟨(SCH_ROUTE_SRC i), .rw, true, [(0, 20)]⟩,
      ⟨(SCH_ROUTE_SLOT i), .rw, true, []⟩,
      ⟨(SCH_ROUTE_FLAG i), .rw, true, []⟩,
      ⟨(SCH_ROUTE_EN i), .rw, true, []⟩]⟩,
  ⟨0x71000, 128, 0x20, 1, 0x1, fun i _ => [⟨(SCH_SLOT_CFG_EN i), .rw, true, []⟩,
      ⟨(SCH_SLOT_CFG_PRIO i), .rw, true, []⟩,
      ⟨(SCH_SLOT_CFG_DL_EN i), .rw, true, []⟩,
      ⟨(SCH_SLOT_CFG_TCLR i), .rw, true, []⟩,
      ⟨(SCH_SLOT_CFG_LANEMASK i), .rw, true, []⟩]⟩,
  ⟨0x71004, 128, 0x20, 1, 0x1, fun i _ => [⟨(SCH_SLOT_MASK_MASK i), .rw, true, []⟩]⟩,
  ⟨0x71008, 128, 0x20, 1, 0x1, fun i _ => [⟨(SCH_SLOT_FLAGS_FLAGS i), .ro, false, []⟩]⟩,
  ⟨0x7100C, 128, 0x20, 1, 0x1, fun i _ => [⟨(SCH_SLOT_ENTRY_ENTRY0 i), .rw, true, []⟩,
      ⟨(SCH_SLOT_ENTRY_ENTRY1 i), .rw, true, []⟩]⟩,
  ⟨0x71010, 128, 0x20, 1, 0x1, fun i _ => [⟨(SCH_SLOT_DBASE_DBASE i), .rw, true, []⟩]⟩,
  ⟨0x71014, 128, 0x20, 1, 0x1, fun i _ => [⟨(SCH_SLOT_DONE_SLOT0 i), .rw, true, []⟩,
      ⟨(SCH_SLOT_DONE_FLAG0 i), .rw, true, []⟩,
      ⟨(SCH_SLOT_DONE_EN0 i), .rw, true, []⟩,
      ⟨(SCH_SLOT_DONE_SLOT1 i), .rw, true, []⟩,
      ⟨(SCH_SLOT_DONE_FLAG1 i), .rw, true, []⟩,
      ⟨(SCH_SLOT_DONE_EN1 i), .rw, true, []⟩]⟩,
  ⟨0x71018, 128, 0x20, 1, 0x1, fun i _ => [⟨(SCH_SLOT_STAT_STATE i), .ro, false, []⟩,
      ⟨(SCH_SLOT_STAT_DONE_TICK i), .ro, false, []⟩,
      ⟨(SCH_SLOT_STAT_OVR_LAST i), .ro, false, []⟩,
      ⟨(SCH_SLOT_STAT_LANE i), .ro, false, []⟩]⟩,
  ⟨0x7101C, 128, 0x20, 1, 0x1, fun i _ => [⟨(SCH_SLOT_OVR i), .rc, false, []⟩,
      ⟨(SCH_SLOT_OVR_OVF i), .rc, false, []⟩]⟩,
  ⟨0x70080, 1, 0x1, 1, 0x1, fun _ _ => [⟨READY_CNT, .rc, false, []⟩,
      ⟨READY_CNT_OVF, .rc, false, []⟩]⟩,
  ⟨0x70084, 1, 0x1, 1, 0x1, fun _ _ => [⟨DISP_CNT, .rc, false, []⟩,
      ⟨DISP_CNT_OVF, .rc, false, []⟩]⟩,
  ⟨0x70088, 1, 0x1, 1, 0x1, fun _ _ => [⟨CANCEL_CNT, .rc, false, []⟩,
      ⟨CANCEL_CNT_OVF, .rc, false, []⟩]⟩,
  ⟨0x7008C, 1, 0x1, 1, 0x1, fun _ _ => [⟨READY_CANCEL, .rc, false, []⟩,
      ⟨READY_CANCEL_OVF, .rc, false, []⟩]⟩,
  ⟨0x70090, 1, 0x1, 1, 0x1, fun _ _ => [⟨HOLD_CNT, .rc, false, []⟩,
      ⟨HOLD_CNT_OVF, .rc, false, []⟩]⟩,
  ⟨0x70094, 1, 0x1, 1, 0x1, fun _ _ => [⟨CANCEL_MISS, .rc, false, []⟩,
      ⟨CANCEL_MISS_OVF, .rc, false, []⟩]⟩]

/-- Registers of block 0x07. -/
def regs07 : List Reg := regs07_0

/-- Registers of block 0x08 (part 0). -/
def regs08_0 : List Reg := [
  ⟨0x80004, 1, 0x1, 1, 0x1, fun _ _ => [⟨LE_STAT_OVR_RUN, .ro, false, []⟩]⟩,
  ⟨0x80008, 1, 0x1, 1, 0x1, fun _ _ => [⟨LE_BANK_ACTIVE, .ro, false, []⟩,
      ⟨LE_BANK_IDLE_OK, .ro, false, []⟩,
      ⟨LE_BANK_SWAP_REQ, .rw, false, []⟩,
      ⟨LE_BANK_SWAP_PEND, .ro, false, []⟩]⟩,
  ⟨0x8000C, 1, 0x1, 1, 0x1, fun _ _ => [⟨LE_SWAP_TICK_TICK, .rw, false, []⟩]⟩,
  ⟨0x80010, 1, 0x1, 1, 0x1, fun _ _ => [⟨LE_OVR_CFG_LIM, .rwl 5, true, [(1, 255)]⟩]⟩,
  ⟨0x80014, 1, 0x1, 1, 0x1, fun _ _ => [⟨LE_ECC_ADDR_ADDR, .ro, false, []⟩]⟩,
  ⟨0x80018, 1, 0x1, 1, 0x1, fun _ _ => [⟨LE_DIRTY_BASE_VAL, .rw, true, []⟩]⟩,
  ⟨0x8001C, 1, 0x1, 1, 0x1, fun _ _ => [⟨LE_DIRTY_LEN_VAL, .rw, true, [(0, 524288)]⟩]⟩,
  ⟨0x80100, 16, 0x4, 1, 0x1, fun i _ => [⟨(LE_LANE_STAT_BUSY i), .ro, false, []⟩,
      ⟨(LE_LANE_STAT_SLOT i), .ro, false, []⟩,
      ⟨(LE_LANE_STAT_NAN i), .rc, false, []⟩,
      ⟨(LE_LANE_STAT_FCAUSE i), .ro, false, []⟩]⟩,
  ⟨0x80080, 1, 0x1, 1, 0x1, fun _ _ => [⟨OVR_TICKS, .rc, false, []⟩,
      ⟨OVR_TICKS_OVF, .rc, false, []⟩]⟩,
  ⟨0x80084, 1, 0x1, 1, 0x1, fun _ _ => [⟨ECC_COR, .rc, false, []⟩,
      ⟨ECC_COR_OVF, .rc, false, []⟩]⟩,
  ⟨0x80088, 1, 0x1, 1, 0x1, fun _ _ => [⟨ECC_UNC, .rc, false, []⟩,
      ⟨ECC_UNC_OVF, .rc, false, []⟩]⟩,
  ⟨0x8008C, 1, 0x1, 1, 0x1, fun _ _ => [⟨PM_COR, .rc, false, []⟩,
      ⟨PM_COR_OVF, .rc, false, []⟩]⟩,
  ⟨0x80090, 1, 0x1, 1, 0x1, fun _ _ => [⟨NAN_CNT, .rc, false, []⟩,
      ⟨NAN_CNT_OVF, .rc, false, []⟩]⟩,
  ⟨0x80094, 1, 0x1, 1, 0x1, fun _ _ => [⟨OUTBUF_OVF, .rc, false, []⟩,
      ⟨OUTBUF_OVF_OVF, .rc, false, []⟩]⟩,
  ⟨0x80098, 1, 0x1, 1, 0x1, fun _ _ => [⟨SWAP_ABORT, .rc, false, []⟩,
      ⟨SWAP_ABORT_OVF, .rc, false, []⟩]⟩,
  ⟨0x8009C, 1, 0x1, 1, 0x1, fun _ _ => [⟨LANE_FAULT, .rc, false, []⟩,
      ⟨LANE_FAULT_OVF, .rc, false, []⟩]⟩]

/-- Registers of block 0x08. -/
def regs08 : List Reg := regs08_0

/-- Registers of block 0x09 (part 0). -/
def regs09_0 : List Reg := [
  ⟨0x90000, 1, 0x1, 1, 0x1, fun _ _ => [⟨CF_CTRL_OG_EN, .rw, true, []⟩,
      ⟨CF_CTRL_INJ_EN, .rw, true, []⟩,
      ⟨CF_CTRL_RC_EN, .rw, true, []⟩,
      ⟨CF_CTRL_MS_EN, .rw, true, []⟩,
      ⟨CF_CTRL_PL_EN, .rw, true, []⟩,
      ⟨CF_CTRL_ANG_EN, .rw, true, []⟩]⟩,
  ⟨0x90004, 1, 0x1, 1, 0x1, fun _ _ => [⟨CF_STAT_STROBE_REF, .rc, false, []⟩,
      ⟨CF_STAT_RESAMP_BUSY, .ro, false, []⟩]⟩,
  ⟨0x90008, 1, 0x1, 1, 0x1, fun _ _ => [⟨CF_FSRC_PLAUS, .rw, true, [(0, 0), (232, 255)]⟩,
      ⟨CF_FSRC_TRACK, .rw, true, [(0, 0), (232, 255)]⟩,
      ⟨CF_FSRC_CFG, .rw, true, [(0, 0), (232, 255)]⟩,
      ⟨CF_FSRC_RCMEM, .rw, true, [(0, 0), (232, 255)]⟩]⟩,
  ⟨0x9000C, 1, 0x1, 1, 0x1, fun _ _ => [⟨CF_IN_ADDR, .rw, true, []⟩]⟩,
  ⟨0x90010, 1, 0x1, 1, 0x1, fun _ _ => [⟨CF_OUT_ADDR, .rw, true, []⟩]⟩,
  ⟨0x90100, 16, 0x20, 1, 0x1, fun i _ => [⟨(OG_CH_CFG_EN i), .rw, true, []⟩]⟩,
  ⟨0x90118, 16, 0x20, 1, 0x1, fun i _ => [⟨(OG_CH_STAT_SEG i), .ro, false, []⟩,
      ⟨(OG_CH_STAT_PEND i), .ro, false, []⟩,
      ⟨(OG_CH_STAT_BADVAL i), .rc, false, []⟩]⟩,
  ⟨0x90400, 4, 0x100, 1, 0x1, fun i _ => [⟨(INJ_GEN_CFG_TYPE i), .rw, true, [(0, 2)]⟩,
      ⟨(INJ_GEN_CFG_ORDER i), .rw, true, [(0, 5)]⟩,
      ⟨(INJ_GEN_CFG_HOLDN i), .rw, true, [(1, 255)]⟩]⟩,
  ⟨0x9041C, 4, 0x100, 1, 0x1, fun i _ => [⟨(INJ_GEN_CTRL_ARM i), .wo, false, []⟩,
      ⟨(INJ_GEN_CTRL_STOP i), .wo, false, []⟩]⟩,
  ⟨0x90420, 4, 0x100, 1, 0x1, fun i _ => [⟨(INJ_GEN_STAT_ARMED i), .ro, false, []⟩,
      ⟨(INJ_GEN_STAT_RUN i), .ro, false, []⟩,
      ⟨(INJ_GEN_STAT_DONE i), .rc, false, []⟩,
      ⟨(INJ_GEN_STAT_ABORT i), .rc, false, []⟩,
      ⟨(INJ_GEN_STAT_CLAMP i), .rc, false, []⟩]⟩,
  ⟨0x90440, 4, 0x100, 16, 0x8, fun i j => [⟨(INJ_GEN_HK_HK i j), .rw, true, []⟩,
      ⟨(INJ_GEN_HK_PHASE i j), .rw, true, []⟩]⟩,
  ⟨0x90800, 32, 0x4, 1, 0x1, fun i _ => [⟨(INJ_PT_GEN i), .rw, true, []⟩,
      ⟨(INJ_PT_EN i), .rw, true, []⟩,
      ⟨(INJ_PT_GAIN i), .rw, true, []⟩]⟩,
  ⟨0x90900, 2, 0x40, 1, 0x1, fun i _ => [⟨(ANG_CFG_EN i), .rw, true, []⟩,
      ⟨(ANG_CFG_ADV i), .rw, true, []⟩,
      ⟨(ANG_CFG_LOCKT i), .rw, true, [(1, 65535)]⟩]⟩,
  ⟨0x90924, 2, 0x40, 1, 0x1, fun i _ => [⟨(ANG_STAT_LOCK i), .ro, false, []⟩,
      ⟨(ANG_STAT_HOLD i), .ro, false, []⟩,
      ⟨(ANG_STAT_FCLAMP i), .ro, false, []⟩,
      ⟨(ANG_STAT_LOCKLOST i), .rc, false, []⟩]⟩,
  ⟨0x90A00, 6, 0x20, 1, 0x1, fun i _ => [⟨(PL_ARM_CFG_EN i), .rwl 5, true, []⟩,
      ⟨(PL_ARM_CFG_TIME i), .rwl 5, true, [(1, 16777215)]⟩]⟩,
  ⟨0x90A10, 6, 0x20, 1, 0x1, fun i _ => [⟨(PL_ARM_STAT_FAIL i), .ro, false, []⟩,
      ⟨(PL_ARM_STAT_FAILED i), .rc, false, []⟩,
      ⟨(PL_ARM_STAT_RESYNC i), .rc, false, []⟩,
      ⟨(PL_ARM_STAT_CNT i), .ro, false, []⟩]⟩,
  ⟨0x91000, 16, 0x100, 1, 0x1, fun i _ => [⟨(MS_GRP_CFG_CEN i), .rw, true, []⟩,
      ⟨(MS_GRP_CFG_EN i), .rw, true, []⟩]⟩,
  ⟨0x9100C, 16, 0x100, 1, 0x1, fun i _ => [⟨(MS_GRP_STAT_WIN i), .ro, false, []⟩,
      ⟨(MS_GRP_STAT_VALID i), .ro, false, []⟩,
      ⟨(MS_GRP_STAT_LOWCLAMP i), .ro, false, []⟩,
      ⟨(MS_GRP_STAT_HIGHCLAMP i), .ro, false, []⟩,
      ⟨(MS_GRP_STAT_HELD i), .ro, false, []⟩,
      ⟨(MS_GRP_STAT_NAN i), .rc, false, []⟩]⟩,
  ⟨0x92000, 64, 0x20, 1, 0x1, fun i _ => [⟨(RC_CH_CFG_EN i), .rw, true, []⟩,
      ⟨(RC_CH_CFG_PERSRC i), .rw, true, [(0, 2)]⟩,
      ⟨(RC_CH_CFG_LEAD i), .rw, true, []⟩]⟩,
  ⟨0x92004, 64, 0x20, 1, 0x1, fun i _ => [⟨(RC_CH_MEM_BASE i), .rw, true, []⟩,
      ⟨(RC_CH_MEM_LEN i), .rw, true, [(2, 4096)]⟩]⟩]

/-- Registers of block 0x09 (part 1). -/
def regs09_1 : List Reg := [
  ⟨0x92008, 64, 0x20, 1, 0x1, fun i _ => [⟨(RC_CH_PER_PER i), .rw, true, []⟩,
      ⟨(RC_CH_PER_PER_ACT i), .ro, false, []⟩]⟩,
  ⟨0x90414, 4, 0x100, 1, 0x1, fun i _ => [⟨(INJ_GEN_DUR_VAL i), .rw, true, []⟩]⟩,
  ⟨0x90418, 4, 0x100, 1, 0x1, fun i _ => [⟨(INJ_GEN_START_VAL i), .rw, false, []⟩]⟩,
  ⟨0x90424, 4, 0x100, 1, 0x1, fun i _ => [⟨(INJ_GEN_NP_VAL i), .rw, true, [(2, 65535)]⟩]⟩,
  ⟨0x90080, 1, 0x1, 1, 0x1, fun _ _ => [⟨OG_BADVAL, .rc, false, []⟩,
      ⟨OG_BADVAL_OVF, .rc, false, []⟩]⟩,
  ⟨0x90084, 1, 0x1, 1, 0x1, fun _ _ => [⟨INJ_ABORT, .rc, false, []⟩,
      ⟨INJ_ABORT_OVF, .rc, false, []⟩]⟩,
  ⟨0x90088, 1, 0x1, 1, 0x1, fun _ _ => [⟨RC_DEFER, .rc, false, []⟩,
      ⟨RC_DEFER_OVF, .rc, false, []⟩]⟩,
  ⟨0x9008C, 1, 0x1, 1, 0x1, fun _ _ => [⟨RC_RESAMP, .rc, false, []⟩,
      ⟨RC_RESAMP_OVF, .rc, false, []⟩]⟩,
  ⟨0x90090, 1, 0x1, 1, 0x1, fun _ _ => [⟨RC_NOLEARN, .rc, false, []⟩,
      ⟨RC_NOLEARN_OVF, .rc, false, []⟩]⟩,
  ⟨0x90094, 1, 0x1, 1, 0x1, fun _ _ => [⟨MS_CHG, .rc, false, []⟩,
      ⟨MS_CHG_OVF, .rc, false, []⟩]⟩,
  ⟨0x90098, 1, 0x1, 1, 0x1, fun _ _ => [⟨PL_RESYNC, .rc, false, []⟩,
      ⟨PL_RESYNC_OVF, .rc, false, []⟩]⟩,
  ⟨0x9009C, 1, 0x1, 1, 0x1, fun _ _ => [⟨ANG_HOLD, .rc, false, []⟩,
      ⟨ANG_HOLD_OVF, .rc, false, []⟩]⟩,
  ⟨0x90104, 16, 0x20, 1, 0x1, fun i _ => [⟨(OG_CH_SET_VAL i), .rw, false, []⟩]⟩,
  ⟨0x90108, 16, 0x20, 1, 0x1, fun i _ => [⟨(OG_CH_RATE_VAL i), .rw, false, []⟩]⟩,
  ⟨0x9010C, 16, 0x20, 1, 0x1, fun i _ => [⟨(OG_CH_RR_VAL i), .rw, false, []⟩]⟩,
  ⟨0x90110, 16, 0x20, 1, 0x1, fun i _ => [⟨(OG_CH_OUT_VAL i), .ro, false, []⟩]⟩,
  ⟨0x90114, 16, 0x20, 1, 0x1, fun i _ => [⟨(OG_CH_ROUT_VAL i), .ro, false, []⟩]⟩,
  ⟨0x9011C, 16, 0x20, 1, 0x1, fun i _ => [⟨(OG_CH_LOAD_VAL i), .wo, false, []⟩]⟩,
  ⟨0x90404, 4, 0x100, 1, 0x1, fun i _ => [⟨(INJ_GEN_AMP_VAL i), .rw, true, []⟩]⟩,
  ⟨0x90408, 4, 0x100, 1, 0x1, fun i _ => [⟨(INJ_GEN_AMAX_VAL i), .rwl 6, true, []⟩]⟩]

/-- Registers of block 0x09 (part 2). -/
def regs09_2 : List Reg := [
  ⟨0x9040C, 4, 0x100, 1, 0x1, fun i _ => [⟨(INJ_GEN_F0_VAL i), .rw, true, []⟩]⟩,
  ⟨0x90410, 4, 0x100, 1, 0x1, fun i _ => [⟨(INJ_GEN_F1_VAL i), .rw, true, []⟩]⟩,
  ⟨0x90444, 4, 0x100, 16, 0x8, fun i j => [⟨(INJ_GEN_AH_VAL i j), .rw, true, []⟩]⟩,
  ⟨0x90904, 2, 0x40, 1, 0x1, fun i _ => [⟨(ANG_FNOM_VAL i), .rw, true, []⟩]⟩,
  ⟨0x90908, 2, 0x40, 1, 0x1, fun i _ => [⟨(ANG_FMIN_VAL i), .rw, true, []⟩]⟩,
  ⟨0x9090C, 2, 0x40, 1, 0x1, fun i _ => [⟨(ANG_FMAX_VAL i), .rw, true, []⟩]⟩,
  ⟨0x90910, 2, 0x40, 1, 0x1, fun i _ => [⟨(ANG_KP_VAL i), .rw, true, []⟩]⟩,
  ⟨0x90914, 2, 0x40, 1, 0x1, fun i _ => [⟨(ANG_KI_VAL i), .rw, true, []⟩]⟩,
  ⟨0x90918, 2, 0x40, 1, 0x1, fun i _ => [⟨(ANG_OFS_VAL i), .rw, true, []⟩]⟩,
  ⟨0x9091C, 2, 0x40, 1, 0x1, fun i _ => [⟨(ANG_VMIN_VAL i), .rw, true, []⟩]⟩,
  ⟨0x90920, 2, 0x40, 1, 0x1, fun i _ => [⟨(ANG_LOCKTHR_VAL i), .rw, true, []⟩]⟩,
  ⟨0x90A04, 6, 0x20, 1, 0x1, fun i _ => [⟨(PL_ARM_CINV_VAL i), .rwl 5, true, []⟩]⟩,
  ⟨0x90A08, 6, 0x20, 1, 0x1, fun i _ => [⟨(PL_ARM_BETA_VAL i), .rwl 5, true, []⟩]⟩,
  ⟨0x90A0C, 6, 0x20, 1, 0x1, fun i _ => [⟨(PL_ARM_THR_VAL i), .rwl 5, true, []⟩]⟩,
  ⟨0x90A14, 6, 0x20, 1, 0x1, fun i _ => [⟨(PL_ARM_RESID_VAL i), .ro, false, []⟩]⟩,
  ⟨0x90A18, 6, 0x20, 1, 0x1, fun i _ => [⟨(PL_ARM_VHAT_VAL i), .ro, false, []⟩]⟩,
  ⟨0x91004, 16, 0x100, 1, 0x1, fun i _ => [⟨(MS_GRP_UMIN_VAL i), .rw, true, []⟩]⟩,
  ⟨0x91008, 16, 0x100, 1, 0x1, fun i _ => [⟨(MS_GRP_UMAX_VAL i), .rw, true, []⟩]⟩,
  ⟨0x91010, 16, 0x100, 1, 0x1, fun i _ => [⟨(MS_GRP_OUT_VAL i), .ro, false, []⟩]⟩,
  ⟨0x91020, 16, 0x100, 8, 0x10, fun i j => [⟨(MS_GRP_C_KP_VAL i j), .rw, true, []⟩]⟩]

/-- Registers of block 0x09 (part 3). -/
def regs09_3 : List Reg := [
  ⟨0x91024, 16, 0x100, 8, 0x10, fun i j => [⟨(MS_GRP_C_KI_VAL i j), .rw, true, []⟩]⟩,
  ⟨0x91028, 16, 0x100, 8, 0x10, fun i j => [⟨(MS_GRP_C_KT_VAL i j), .rw, true, []⟩]⟩,
  ⟨0x9102C, 16, 0x100, 8, 0x10, fun i j => [⟨(MS_GRP_C_INT_VAL i j), .ro, false, []⟩]⟩,
  ⟨0x9200C, 64, 0x20, 1, 0x1, fun i _ => [⟨(RC_CH_GAIN_VAL i), .rw, true, []⟩]⟩,
  ⟨0x92010, 64, 0x20, 1, 0x1, fun i _ => [⟨(RC_CH_ALPHA_VAL i), .rw, true, []⟩]⟩,
  ⟨0x92014, 64, 0x20, 1, 0x1, fun i _ => [⟨(RC_CH_Q0_VAL i), .rw, true, []⟩]⟩,
  ⟨0x92018, 64, 0x20, 1, 0x1, fun i _ => [⟨(RC_CH_Q1_VAL i), .rw, true, []⟩]⟩,
  ⟨0x9201C, 64, 0x20, 1, 0x1, fun i _ => [⟨(RC_CH_LIM_VAL i), .rw, true, []⟩]⟩]

/-- Registers of block 0x09. -/
def regs09 : List Reg := regs09_0 ++ regs09_1 ++ regs09_2 ++ regs09_3

/-- Registers of block 0x0A (part 0). -/
def regs0A_0 : List Reg := [
  ⟨0xA0000, 1, 0x1, 1, 0x1, fun _ _ => [⟨DR_CTRL_ARM, .wo, false, []⟩,
      ⟨DR_CTRL_STOP, .wo, false, []⟩,
      ⟨DR_CTRL_SWTRIG, .wo, false, []⟩]⟩,
  ⟨0xA0004, 1, 0x1, 1, 0x1, fun _ _ => [⟨DR_STAT_STATE, .ro, false, []⟩,
      ⟨DR_STAT_SEG, .ro, false, []⟩,
      ⟨DR_STAT_NDONE, .ro, false, []⟩,
      ⟨DR_STAT_MASKVIOL, .rc, false, []⟩,
      ⟨DR_STAT_ARM_ERR, .ro, false, []⟩,
      ⟨DR_STAT_SHED, .ro, false, []⟩]⟩,
  ⟨0xA0008, 1, 0x1, 1, 0x1, fun _ _ => [⟨DR_CFG_CLK, .rw, false, [(0, 2)]⟩,
      ⟨DR_CFG_CLKSRC, .rw, false, []⟩,
      ⟨DR_CFG_NSEG, .rw, false, [(1, 64)]⟩,
      ⟨DR_CFG_FULL, .rw, false, []⟩,
      ⟨DR_CFG_MSTOP, .rw, false, []⟩,
      ⟨DR_CFG_DIV, .rw, false, [(1, 65535)]⟩]⟩,
  ⟨0xA000C, 1, 0x1, 1, 0x1, fun _ _ => [⟨DR_PRE_ROWS, .rw, false, []⟩]⟩,
  ⟨0xA0010, 1, 0x1, 1, 0x1, fun _ _ => [⟨DR_POST_ROWS, .rw, false, []⟩]⟩,
  ⟨0xA0014, 1, 0x1, 1, 0x1, fun _ _ => [⟨DR_REARM_ROWS, .rw, false, []⟩]⟩,
  ⟨0xA0018, 1, 0x1, 1, 0x1, fun _ _ => [⟨DR_TRIG_MODE, .rw, false, []⟩,
      ⟨DR_TRIG_POL, .rw, false, []⟩,
      ⟨DR_TRIG_FC_EN, .rw, false, []⟩,
      ⟨DR_TRIG_FC_MIN, .rw, false, []⟩,
      ⟨DR_TRIG_TCH, .rw, false, []⟩]⟩,
  ⟨0xA0020, 1, 0x1, 1, 0x1, fun _ _ => [⟨DR_PAT_LO_VAL, .rw, false, []⟩]⟩,
  ⟨0xA0024, 1, 0x1, 1, 0x1, fun _ _ => [⟨DR_PAT_HI_VAL, .rw, false, []⟩]⟩,
  ⟨0xA0028, 1, 0x1, 1, 0x1, fun _ _ => [⟨DR_CARE_LO_VAL, .rw, false, []⟩]⟩,
  ⟨0xA002C, 1, 0x1, 1, 0x1, fun _ _ => [⟨DR_CARE_HI_VAL, .rw, false, []⟩]⟩,
  ⟨0xA0030, 1, 0x1, 1, 0x1, fun _ _ => [⟨DR_MEM_BASE_VAL, .rw, false, []⟩]⟩,
  ⟨0xA0034, 1, 0x1, 1, 0x1, fun _ _ => [⟨DR_MEM_SIZE_VAL, .rw, false, []⟩]⟩,
  ⟨0xA0038, 1, 0x1, 1, 0x1, fun _ _ => [⟨DR_STREAM_EN, .rw, false, []⟩,
      ⟨DR_STREAM_PORT, .rw, false, [(0, 2)]⟩,
      ⟨DR_STREAM_CHUNK, .rw, false, [(0, 2)]⟩,
      ⟨DR_STREAM_AUTO_REL, .rw, false, []⟩]⟩,
  ⟨0xA003C, 1, 0x1, 1, 0x1, fun _ _ => [⟨DR_RELEASE_RNUM, .wo, false, []⟩]⟩,
  ⟨0xA0040, 1, 0x1, 1, 0x1, fun _ _ => [⟨DR_RNUM_RNUM, .ro, false, []⟩]⟩,
  ⟨0xA0100, 64, 0x4, 1, 0x1, fun i _ => [⟨(DR_SEG_STAT_STATE i), .ro, false, []⟩,
      ⟨(DR_SEG_STAT_RNUM i), .ro, false, []⟩]⟩,
  ⟨0xA0400, 64, 0x20, 1, 0x1, fun i _ => [⟨(DR_CH_SRC_TYPE i), .rw, false, [(0, 4)]⟩,
      ⟨(DR_CH_SRC_FMT i), .rw, false, [(0, 2)]⟩,
      ⟨(DR_CH_SRC_SEL i), .rw, false, []⟩]⟩,
  ⟨0xA0404, 64, 0x20, 1, 0x1, fun i _ => [⟨(DR_CH_TRG_CMODE i), .rw, false, []⟩,
      ⟨(DR_CH_TRG_BIT i), .rw, false, []⟩]⟩,
  ⟨0xA0408, 64, 0x20, 1, 0x1, fun i _ => [⟨(DR_CH_LEVEL_VAL i), .rw, false, []⟩]⟩]

/-- Registers of block 0x0A (part 1). -/
def regs0A_1 : List Reg := [
  ⟨0xA040C, 64, 0x20, 1, 0x1, fun i _ => [⟨(DR_CH_HYST_VAL i), .rw, false, []⟩]⟩,
  ⟨0xA0410, 64, 0x20, 1, 0x1, fun i _ => [⟨(DR_CH_UPPER_VAL i), .rw, false, []⟩]⟩,
  ⟨0xA0414, 64, 0x20, 1, 0x1, fun i _ => [⟨(DR_CH_LOWER_VAL i), .rw, false, []⟩]⟩,
  ⟨0xA0418, 64, 0x20, 1, 0x1, fun i _ => [⟨(DR_CH_MCFG_EN i), .rw, false, []⟩,
      ⟨(DR_CH_MCFG_POST i), .rw, false, []⟩]⟩,
  ⟨0xA0080, 1, 0x1, 1, 0x1, fun _ _ => [⟨TRG_IGN, .rc, false, []⟩,
      ⟨TRG_IGN_OVF, .rc, false, []⟩]⟩,
  ⟨0xA0084, 1, 0x1, 1, 0x1, fun _ _ => [⟨TRG_NOSEG, .rc, false, []⟩,
      ⟨TRG_NOSEG_OVF, .rc, false, []⟩]⟩,
  ⟨0xA0088, 1, 0x1, 1, 0x1, fun _ _ => [⟨ROW_DROP, .rc, false, []⟩,
      ⟨ROW_DROP_OVF, .rc, false, []⟩]⟩,
  ⟨0xA008C, 1, 0x1, 1, 0x1, fun _ _ => [⟨REC_OVW, .rc, false, []⟩,
      ⟨REC_OVW_OVF, .rc, false, []⟩]⟩,
  ⟨0xA0090, 1, 0x1, 1, 0x1, fun _ _ => [⟨LD_LATE, .rc, false, []⟩,
      ⟨LD_LATE_OVF, .rc, false, []⟩]⟩,
  ⟨0xA0094, 1, 0x1, 1, 0x1, fun _ _ => [⟨MASK_VIOL, .rc, false, []⟩,
      ⟨MASK_VIOL_OVF, .rc, false, []⟩]⟩,
  ⟨0xA0098, 1, 0x1, 1, 0x1, fun _ _ => [⟨MEM_COR, .rc, false, []⟩,
      ⟨MEM_COR_OVF, .rc, false, []⟩]⟩,
  ⟨0xA009C, 1, 0x1, 1, 0x1, fun _ _ => [⟨MEM_UNC, .rc, false, []⟩,
      ⟨MEM_UNC_OVF, .rc, false, []⟩]⟩]

/-- Registers of block 0x0A. -/
def regs0A : List Reg := regs0A_0 ++ regs0A_1

/-- Registers of block 0x0B (part 0). -/
def regs0B_0 : List Reg := [
  ⟨0xB0000, 1, 0x1, 1, 0x1, fun _ _ => [⟨GS_CFG_TOPO, .rwl 3, true, []⟩,
      ⟨GS_CFG_FBPOL, .rwl 3, true, []⟩,
      ⟨GS_CFG_SUPPLY, .rwl 3, true, []⟩]⟩,
  ⟨0xB0004, 1, 0x1, 1, 0x1, fun _ _ => [⟨GS_CTRL_MAINT_BLK, .rw, true, []⟩,
      ⟨GS_CTRL_OV2_CLR, .wo, false, []⟩]⟩,
  ⟨0xB0008, 1, 0x1, 1, 0x1, fun _ _ => [⟨GS_STAT_CELL, .ro, false, []⟩,
      ⟨GS_STAT_PBLK, .ro, false, []⟩,
      ⟨GS_STAT_OV1_ON, .ro, false, []⟩,
      ⟨GS_STAT_OV2_BLK, .ro, false, []⟩,
      ⟨GS_STAT_FIRED, .ro, false, []⟩,
      ⟨GS_STAT_REFRESH, .ro, false, []⟩,
      ⟨GS_STAT_STROBE_REF, .rc, false, []⟩,
      ⟨GS_STAT_TEST_BUSY, .ro, false, []⟩]⟩,
  ⟨0xB0010, 1, 0x1, 1, 0x1, fun _ _ => [⟨GS_TIMING_DT, .rw, true, []⟩,
      ⟨GS_TIMING_MINP, .rw, true, []⟩]⟩,
  ⟨0xB0014, 1, 0x1, 1, 0x1, fun _ _ => [⟨GS_FLOOR_DT_FLOOR, .rwl 3, true, []⟩,
      ⟨GS_FLOOR_MINP_FLOOR, .rwl 3, true, []⟩]⟩,
  ⟨0xB0018, 1, 0x1, 1, 0x1, fun _ _ => [⟨GS_PROT0_FILT, .rw, true, [(8, 16000)]⟩,
      ⟨GS_PROT0_TRIES, .rw, true, []⟩,
      ⟨GS_PROT0_CLEAN, .rw, true, [(1, 255)]⟩]⟩,
  ⟨0xB001C, 1, 0x1, 1, 0x1, fun _ _ => [⟨GS_PROT1_WAIT, .rw, true, [(1, 10000)]⟩]⟩,
  ⟨0xB0020, 1, 0x1, 1, 0x1, fun _ _ => [⟨GS_PUMP_DIV, .rw, true, [(125, 500)]⟩,
      ⟨GS_PUMP_EN, .rw, true, []⟩,
      ⟨GS_PUMP_PHASE_EN, .rw, true, []⟩]⟩,
  ⟨0xB0024, 1, 0x1, 1, 0x1, fun _ _ => [⟨GS_BOOT_TMAX, .rw, true, []⟩,
      ⟨GS_BOOT_TRCH, .rw, true, []⟩]⟩,
  ⟨0xB0028, 1, 0x1, 1, 0x1, fun _ _ => [⟨GS_OV1_ON_LEVEL, .rwl 4, true, []⟩]⟩,
  ⟨0xB002C, 1, 0x1, 1, 0x1, fun _ _ => [⟨GS_OV1_OFF_LEVEL, .rwl 4, true, []⟩]⟩,
  ⟨0xB0030, 1, 0x1, 1, 0x1, fun _ _ => [⟨GS_OV2_LEVEL, .rwl 4, true, []⟩,
      ⟨GS_OV2_CNT, .rwl 4, true, [(1, 255)]⟩]⟩,
  ⟨0xB0034, 1, 0x1, 1, 0x1, fun _ _ => [⟨GS_OV3_LEVEL, .rwl 4, true, []⟩,
      ⟨GS_OV3_FILT, .rwl 4, true, []⟩]⟩,
  ⟨0xB0038, 1, 0x1, 1, 0x1, fun _ _ => [⟨GS_BYP_DLY, .rwl 4, true, [(250, 65535)]⟩,
      ⟨GS_BYP_PW, .rwl 4, true, [(1, 1000)]⟩]⟩,
  ⟨0xB003C, 1, 0x1, 1, 0x1, fun _ _ => [⟨GS_BYP_CMD_CODE, .wo, false, []⟩]⟩,
  ⟨0xB0040, 1, 0x1, 1, 0x1, fun _ _ => [⟨GS_TEST_SEL, .wo, false, []⟩,
      ⟨GS_TEST_CH, .wo, false, []⟩]⟩,
  ⟨0xB0044, 1, 0x1, 1, 0x1, fun _ _ => [⟨GS_TEST_STAT_BUSY, .ro, false, []⟩,
      ⟨GS_TEST_STAT_PASS, .rc, false, []⟩,
      ⟨GS_TEST_STAT_FAIL, .rc, false, []⟩,
      ⟨GS_TEST_STAT_REFUSED, .rc, false, []⟩,
      ⟨GS_TEST_STAT_LAST_SEL, .ro, false, []⟩]⟩,
  ⟨0xB0100, 4, 0x40, 1, 0x1, fun i _ => [⟨(GS_CH_CTRL_ADAPT i), .rw, true, []⟩,
      ⟨(GS_CH_CTRL_UNLATCH i), .wo, false, []⟩,
      ⟨(GS_CH_CTRL_MAN i), .rw, false, []⟩,
      ⟨(GS_CH_CTRL_MAN_ON i), .rw, false, []⟩]⟩,
  ⟨0xB0104, 4, 0x40, 1, 0x1, fun i _ => [⟨(GS_CH_STAT_PSTATE i), .ro, false, []⟩,
      ⟨(GS_CH_STAT_ON i), .ro, false, []⟩,
      ⟨(GS_CH_STAT_LOCK i), .ro, false, []⟩,
      ⟨(GS_CH_STAT_DSAT i), .ro, false, []⟩,
      ⟨(GS_CH_STAT_GVG i), .ro, false, []⟩,
      ⟨(GS_CH_STAT_SUPG i), .ro, false, []⟩,
      ⟨(GS_CH_STAT_VCE i), .ro, false, []⟩,
      ⟨(GS_CH_STAT_TRIES_USED i), .ro, false, []⟩,
      ⟨(GS_CH_STAT_CODE_ON i), .ro, false, []⟩,
      ⟨(GS_CH_STAT_CODE_OFF i), .ro, false, []⟩]⟩,
  ⟨0xB0108, 4, 0x40, 1, 0x1, fun i _ => [⟨(GS_CH_STR_ON_INIT i), .rw, true, []⟩,
      ⟨(GS_CH_STR_OFF_INIT i), .rw, true, []⟩,
      ⟨(GS_CH_STR_SOFT i), .rwl 3, true, []⟩]⟩]

/-- Registers of block 0x0B (part 1). -/
def regs0B_1 : List Reg := [
  ⟨0xB010C, 4, 0x40, 1, 0x1, fun i _ => [⟨(GS_CH_STRLIM_MIN i), .rwl 3, true, []⟩,
      ⟨(GS_CH_STRLIM_MAX i), .rwl 3, true, []⟩]⟩,
  ⟨0xB0110, 4, 0x40, 1, 0x1, fun i _ => [⟨(GS_CH_TGT_TON i), .rw, true, []⟩,
      ⟨(GS_CH_TGT_TOFF i), .rw, true, []⟩]⟩,
  ⟨0xB0114, 4, 0x40, 1, 0x1, fun i _ => [⟨(GS_CH_TOL_TOL i), .rw, true, []⟩]⟩,
  ⟨0xB0118, 4, 0x40, 1, 0x1, fun i _ => [⟨(GS_CH_MEAS_TON_M i), .ro, false, []⟩,
      ⟨(GS_CH_MEAS_TOFF_M i), .ro, false, []⟩]⟩,
  ⟨0xB011C, 4, 0x40, 1, 0x1, fun i _ => [⟨(GS_CH_PULSE_WIDTH i), .wo, false, []⟩]⟩,
  ⟨0xB0120, 4, 0x40, 1, 0x1, fun i _ => [⟨(GS_CH_SUPP_ON i), .rc, false, []⟩,
      ⟨(GS_CH_SUPP_ON_OVF i), .rc, false, []⟩]⟩,
  ⟨0xB0124, 4, 0x40, 1, 0x1, fun i _ => [⟨(GS_CH_SUPP_GAP i), .rc, false, []⟩,
      ⟨(GS_CH_SUPP_GAP_OVF i), .rc, false, []⟩]⟩,
  ⟨0xB0128, 4, 0x40, 1, 0x1, fun i _ => [⟨(GS_CH_TRIP_CNT i), .rc, false, []⟩,
      ⟨(GS_CH_TRIP_CNT_OVF i), .rc, false, []⟩]⟩,
  ⟨0xB012C, 4, 0x40, 1, 0x1, fun i _ => [⟨(GS_CH_GLITCH i), .rc, false, []⟩,
      ⟨(GS_CH_GLITCH_OVF i), .rc, false, []⟩]⟩,
  ⟨0xB0130, 4, 0x40, 1, 0x1, fun i _ => [⟨(GS_CH_NOMARK i), .rc, false, []⟩,
      ⟨(GS_CH_NOMARK_OVF i), .rc, false, []⟩]⟩,
  ⟨0xB0134, 4, 0x40, 1, 0x1, fun i _ => [⟨(GS_CH_ILK_CNT i), .rc, false, []⟩,
      ⟨(GS_CH_ILK_CNT_OVF i), .rc, false, []⟩]⟩,
  ⟨0xB0138, 4, 0x40, 1, 0x1, fun i _ => [⟨(GS_CH_LINK_ERR i), .rc, false, []⟩,
      ⟨(GS_CH_LINK_ERR_OVF i), .rc, false, []⟩]⟩]

/-- Registers of block 0x0B. -/
def regs0B : List Reg := regs0B_0 ++ regs0B_1

/-- Registers of block 0x0C (part 0). -/
def regs0C_0 : List Reg := [
  ⟨0xC0000, 1, 0x1, 1, 0x1, fun _ _ => [⟨AD_CTRL_CAL_START, .wo, false, []⟩,
      ⟨AD_CTRL_ROT_START, .wo, false, []⟩]⟩,
  ⟨0xC0004, 1, 0x1, 1, 0x1, fun _ _ => [⟨AD_STAT_CAL_BUSY, .ro, false, []⟩,
      ⟨AD_STAT_CAL_VALID, .ro, false, []⟩,
      ⟨AD_STAT_ROT_BUSY, .ro, false, []⟩,
      ⟨AD_STAT_STROBE_REF, .rc, false, []⟩]⟩,
  ⟨0xC0010, 2, 0x8, 1, 0x1, fun i _ => [⟨(AD_PAIR_CFG_MIRROR i), .rw, true, []⟩,
      ⟨(AD_PAIR_CFG_CARRIER i), .rw, true, []⟩,
      ⟨(AD_PAIR_CFG_CNT i), .rw, true, [(1, 255)]⟩,
      ⟨(AD_PAIR_CFG_THR i), .rw, true, []⟩]⟩,
  ⟨0xC0014, 2, 0x8, 1, 0x1, fun i _ => [⟨(AD_PAIR_STAT_MISMATCH i), .ro, false, []⟩,
      ⟨(AD_PAIR_STAT_ROT i), .ro, false, []⟩,
      ⟨(AD_PAIR_STAT_ROT_ABORT i), .rc, false, []⟩,
      ⟨(AD_PAIR_STAT_DIFF i), .ro, false, []⟩]⟩,
  ⟨0xC0020, 1, 0x1, 1, 0x1, fun _ _ => [⟨AD_VSCALE_MUL, .rw, true, []⟩]⟩,
  ⟨0xC0024, 1, 0x1, 1, 0x1, fun _ _ => [⟨AD_VOFS_OFS, .rw, true, []⟩]⟩,
  ⟨0xC0028, 1, 0x1, 1, 0x1, fun _ _ => [⟨AD_TSCALE_MUL, .rw, true, []⟩,
      ⟨AD_TSCALE_OFS, .rw, true, []⟩]⟩,
  ⟨0xC002C, 1, 0x1, 1, 0x1, fun _ _ => [⟨AD_STAKE_CELL_E, .rw, true, []⟩,
      ⟨AD_STAKE_TEMP_E, .rw, true, []⟩,
      ⟨AD_STAKE_TEMP_PAIR, .rw, true, []⟩]⟩,
  ⟨0xC0100, 4, 0x200, 1, 0x1, fun i _ => [⟨(AD_SEQ_CFG_LEN i), .rw, true, [(1, 32)]⟩,
      ⟨(AD_SEQ_CFG_GRID_EN i), .rw, true, []⟩,
      ⟨(AD_SEQ_CFG_PER i), .rw, true, [(50, 50000)]⟩]⟩,
  ⟨0xC0104, 4, 0x200, 1, 0x1, fun i _ => [⟨(AD_SEQ_CTRL_SW_START i), .wo, false, []⟩]⟩,
  ⟨0xC0108, 4, 0x200, 1, 0x1, fun i _ => [⟨(AD_SEQ_STAT_BUSY i), .ro, false, []⟩,
      ⟨(AD_SEQ_STAT_DONE i), .rc, false, []⟩,
      ⟨(AD_SEQ_STAT_PASSNO i), .ro, false, []⟩]⟩,
  ⟨0xC010C, 4, 0x200, 1, 0x1, fun i _ => [⟨(AD_CAL_GAIN_GAIN i), .ro, false, []⟩]⟩,
  ⟨0xC0110, 4, 0x200, 1, 0x1, fun i _ => [⟨(AD_CAL_OFS_OFS i), .ro, false, []⟩]⟩,
  ⟨0xC0114, 4, 0x200, 1, 0x1, fun i _ => [⟨(AD_INJ_IN i), .rw, false, []⟩,
      ⟨(AD_INJ_DIFF i), .rw, false, []⟩,
      ⟨(AD_INJ_PREEMPT i), .rw, true, []⟩,
      ⟨(AD_INJ_START i), .wo, false, []⟩]⟩,
  ⟨0xC0118, 4, 0x200, 1, 0x1, fun i _ => [⟨(AD_INJ_RES_CODE i), .ro, false, []⟩,
      ⟨(AD_INJ_RES_VALID i), .rc, false, []⟩]⟩,
  ⟨0xC011C, 4, 0x200, 1, 0x1, fun i _ => [⟨(AD_SEQ_DEST_ADDR i), .rw, true, []⟩,
      ⟨(AD_SEQ_DEST_FLAG i), .rw, true, []⟩,
      ⟨(AD_SEQ_DEST_SLOT i), .rw, true, []⟩,
      ⟨(AD_SEQ_DEST_EN i), .rw, true, []⟩]⟩,
  ⟨0xC0180, 4, 0x200, 32, 0x4, fun i j => [⟨(AD_SEQ_E_IN i j), .rw, true, []⟩,
      ⟨(AD_SEQ_E_DIFF i j), .rw, true, []⟩,
      ⟨(AD_SEQ_E_ACQ i j), .rw, true, []⟩,
      ⟨(AD_SEQ_E_CMP i j), .rw, true, []⟩]⟩,
  ⟨0xC0200, 4, 0x200, 32, 0x4, fun i j => [⟨(AD_RES_CODE i j), .ro, false, []⟩,
      ⟨(AD_RES_PASSNO i j), .ro, false, []⟩]⟩,
  ⟨0xC0120, 4, 0x200, 1, 0x1, fun i _ => [⟨(AD_SEQ_OVR i), .rc, false, []⟩,
      ⟨(AD_SEQ_OVR_OVF i), .rc, false, []⟩]⟩,
  ⟨0xC0124, 4, 0x200, 1, 0x1, fun i _ => [⟨(AD_INJ_DROP i), .rc, false, []⟩,
      ⟨(AD_INJ_DROP_OVF i), .rc, false, []⟩]⟩]

/-- Registers of block 0x0C (part 1). -/
def regs0C_1 : List Reg := [
  ⟨0xC0128, 4, 0x200, 1, 0x1, fun i _ => [⟨(AD_PREEMPT_CNT i), .rc, false, []⟩,
      ⟨(AD_PREEMPT_CNT_OVF i), .rc, false, []⟩]⟩,
  ⟨0xC012C, 4, 0x200, 1, 0x1, fun i _ => [⟨(AD_CAL_DROP i), .rc, false, []⟩,
      ⟨(AD_CAL_DROP_OVF i), .rc, false, []⟩]⟩]

/-- Registers of block 0x0C. -/
def regs0C : List Reg := regs0C_0 ++ regs0C_1

/-- Registers of block 0x0D (part 0). -/
def regs0D_0 : List Reg := [
  ⟨0xD0000, 1, 0x1, 1, 0x1, fun _ _ => [⟨AUX_CTRL_EN, .rw, true, []⟩,
      ⟨AUX_CTRL_MODE, .rw, true, []⟩,
      ⟨AUX_CTRL_SYNC_EN, .rw, true, []⟩,
      ⟨AUX_CTRL_SYNC_SRC, .rw, true, []⟩]⟩,
  ⟨0xD0004, 1, 0x1, 1, 0x1, fun _ _ => [⟨AUX_TON_TON, .rw, true, [(25, 25000)]⟩,
      ⟨AUX_TON_TONMAX, .rw, true, [(25, 25000)]⟩]⟩,
  ⟨0xD0008, 1, 0x1, 1, 0x1, fun _ _ => [⟨AUX_TOFF_TOFF, .rw, true, [(25, 25000)]⟩]⟩,
  ⟨0xD000C, 1, 0x1, 1, 0x1, fun _ _ => [⟨AUX_SYNC_DLY, .rw, true, []⟩,
      ⟨AUX_SYNC_PER, .rw, true, []⟩]⟩,
  ⟨0xD0010, 1, 0x1, 1, 0x1, fun _ _ => [⟨AUX_FILT_FLT, .rw, true, []⟩,
      ⟨AUX_FILT_DEM, .rw, true, []⟩,
      ⟨AUX_FILT_FLTLIM, .rw, true, [(1, 255)]⟩]⟩,
  ⟨0xD0014, 1, 0x1, 1, 0x1, fun _ _ => [⟨AUX_STAT_RUN, .ro, false, []⟩,
      ⟨AUX_STAT_ON, .ro, false, []⟩,
      ⟨AUX_STAT_SYNC_LOCK, .ro, false, []⟩,
      ⟨AUX_STAT_FLT, .ro, false, []⟩,
      ⟨AUX_STAT_DEM, .ro, false, []⟩,
      ⟨AUX_STAT_CUT, .rc, false, []⟩]⟩,
  ⟨0xD0020, 8, 0x4, 1, 0x1, fun i _ => [⟨(FLTIN_FILT_FILT i), .rw, true, []⟩,
      ⟨(FLTIN_FILT_POL i), .rw, true, []⟩]⟩,
  ⟨0xD0080, 4, 0x4, 1, 0x1, fun i _ => [⟨(SH_LVL_LEVEL i), .rwl 4, true, []⟩]⟩,
  ⟨0xD0090, 1, 0x1, 1, 0x1, fun _ _ => [⟨SH_CFG_HYST, .rw, true, []⟩,
      ⟨SH_CFG_FILT, .rw, true, [(1, 255)]⟩,
      ⟨SH_CFG_HOLD, .rw, true, [(1, 65535)]⟩]⟩,
  ⟨0xD0094, 1, 0x1, 1, 0x1, fun _ _ => [⟨SH_STAT_STAGE, .ro, false, []⟩,
      ⟨SH_STAT_HOLDING, .ro, false, []⟩,
      ⟨SH_STAT_S4_LAST, .ro, false, []⟩,
      ⟨SH_STAT_RAIL, .ro, false, []⟩]⟩,
  ⟨0xD0098, 1, 0x1, 1, 0x1, fun _ _ => [⟨SH_MEAS_VAUXS, .ro, false, []⟩,
      ⟨SH_MEAS_TJ, .ro, false, []⟩]⟩,
  ⟨0xD009C, 1, 0x1, 1, 0x1, fun _ _ => [⟨SH_TEMP_WARN, .rw, true, []⟩]⟩,
  ⟨0xD0040, 1, 0x1, 1, 0x1, fun _ _ => [⟨AUX_CUT, .rc, false, []⟩,
      ⟨AUX_CUT_OVF, .rc, false, []⟩]⟩,
  ⟨0xD0044, 1, 0x1, 1, 0x1, fun _ _ => [⟨SYNC_ERR, .rc, false, []⟩,
      ⟨SYNC_ERR_OVF, .rc, false, []⟩]⟩,
  ⟨0xD0048, 1, 0x1, 1, 0x1, fun _ _ => [⟨SYNC_LOSS, .rc, false, []⟩,
      ⟨SYNC_LOSS_OVF, .rc, false, []⟩]⟩,
  ⟨0xD004C, 1, 0x1, 1, 0x1, fun _ _ => [⟨SYNC_SKIP, .rc, false, []⟩,
      ⟨SYNC_SKIP_OVF, .rc, false, []⟩]⟩,
  ⟨0xD00C0, 1, 0x1, 1, 0x1, fun _ _ => [⟨SH_TRANS, .rc, false, []⟩,
      ⟨SH_TRANS_OVF, .rc, false, []⟩]⟩,
  ⟨0xD00C4, 1, 0x1, 1, 0x1, fun _ _ => [⟨SH_S4, .rc, false, []⟩,
      ⟨SH_S4_OVF, .rc, false, []⟩]⟩]

/-- Registers of block 0x0D. -/
def regs0D : List Reg := regs0D_0

/-- Registers of block 0x0E (part 0). -/
def regs0E_0 : List Reg := [
  ⟨0xE0000, 1, 0x1, 1, 0x1, fun _ _ => [⟨SF_CFG_FILT, .rwl 8, false, [(20, 2000)]⟩,
      ⟨SF_CFG_ARMS, .rwl 8, false, []⟩]⟩,
  ⟨0xE0004, 1, 0x1, 1, 0x1, fun _ _ => [⟨SF_DISC_DISC, .rwl 8, false, [(1, 1000)]⟩]⟩,
  ⟨0xE0008, 1, 0x1, 1, 0x1, fun _ _ => [⟨SF_STAT_STATE, .ro, false, []⟩,
      ⟨SF_STAT_X_PERMIT, .ro, false, []⟩,
      ⟨SF_STAT_Y_PERMIT, .ro, false, []⟩,
      ⟨SF_STAT_PROOF, .ro, false, []⟩,
      ⟨SF_STAT_SBLK_A_REQ, .ro, false, []⟩,
      ⟨SF_STAT_SBLK_B_REQ, .ro, false, []⟩,
      ⟨SF_STAT_SRST_A_ACT, .ro, false, []⟩,
      ⟨SF_STAT_SRST_B_ACT, .ro, false, []⟩,
      ⟨SF_STAT_RST_STUCK, .ro, false, []⟩,
      ⟨SF_STAT_DISC_FLT, .ro, false, []⟩,
      ⟨SF_STAT_CFG_LOCKED, .ro, false, []⟩,
      ⟨SF_STAT_CFG_MATCH, .ro, false, []⟩,
      ⟨SF_STAT_XLINK_OK, .ro, false, []⟩]⟩,
  ⟨0xE000C, 1, 0x1, 1, 0x1, fun _ _ => [⟨SF_CAUSE_PORN, .rc, false, []⟩,
      ⟨SF_CAUSE_INPUT, .rc, false, []⟩,
      ⟨SF_CAUSE_FAULT, .rc, false, []⟩,
      ⟨SF_CAUSE_DISAGREE, .rc, false, []⟩,
      ⟨SF_CAUSE_XLINK, .rc, false, []⟩,
      ⟨SF_CAUSE_DISC, .rc, false, []⟩,
      ⟨SF_CAUSE_RXBLOCK, .rc, false, []⟩]⟩,
  ⟨0xE0010, 1, 0x1, 1, 0x1, fun _ _ => [⟨SF_RSTINFO_RESULT, .ro, false, []⟩,
      ⟨SF_RSTINFO_PRESS, .ro, false, []⟩]⟩,
  ⟨0xE0014, 1, 0x1, 1, 0x1, fun _ _ => [⟨SF_PDUCNT_X_CNT, .ro, false, []⟩]⟩,
  ⟨0xE0018, 1, 0x1, 1, 0x1, fun _ _ => [⟨SF_PDUCNT_Y_CNT, .ro, false, []⟩]⟩,
  ⟨0xE0200, 1, 0x1, 1, 0x1, fun _ _ => [⟨SF_SCFG_CWIN, .rwl 8, false, [(1, 8)]⟩]⟩,
  ⟨0xE0204, 1, 0x1, 1, 0x1, fun _ _ => [⟨SF_SSTAT_STATE, .ro, false, []⟩,
      ⟨SF_SSTAT_X_PERMIT, .ro, false, []⟩,
      ⟨SF_SSTAT_Y_PERMIT, .ro, false, []⟩,
      ⟨SF_SSTAT_LIVE0, .ro, false, []⟩,
      ⟨SF_SSTAT_LIVE1, .ro, false, []⟩,
      ⟨SF_SSTAT_PERM0, .ro, false, []⟩,
      ⟨SF_SSTAT_PERM1, .ro, false, []⟩,
      ⟨SF_SSTAT_GCMD_GATED, .ro, false, []⟩,
      ⟨SF_SSTAT_FHOLD, .ro, false, []⟩,
      ⟨SF_SSTAT_PLCNT, .ro, false, []⟩]⟩,
  ⟨0xE0208, 1, 0x1, 1, 0x1, fun _ _ => [⟨SF_SCAUSE_PORN, .rc, false, []⟩,
      ⟨SF_SCAUSE_URGENT, .rc, false, []⟩,
      ⟨SF_SCAUSE_PDU, .rc, false, []⟩,
      ⟨SF_SCAUSE_PLOSS, .rc, false, []⟩,
      ⟨SF_SCAUSE_LOCK, .rc, false, []⟩,
      ⟨SF_SCAUSE_UNADOPTED, .rc, false, []⟩,
      ⟨SF_SCAUSE_FAULT, .rc, false, []⟩,
      ⟨SF_SCAUSE_DISAGREE, .rc, false, []⟩]⟩,
  ⟨0xE0040, 1, 0x1, 1, 0x1, fun _ _ => [⟨SF_BLOCKS, .rc, false, []⟩,
      ⟨SF_BLOCKS_OVF, .rc, false, []⟩]⟩,
  ⟨0xE0044, 1, 0x1, 1, 0x1, fun _ _ => [⟨SF_RESETS, .rc, false, []⟩,
      ⟨SF_RESETS_OVF, .rc, false, []⟩]⟩,
  ⟨0xE0048, 1, 0x1, 1, 0x1, fun _ _ => [⟨SF_RST_REF, .rc, false, []⟩,
      ⟨SF_RST_REF_OVF, .rc, false, []⟩]⟩,
  ⟨0xE004C, 1, 0x1, 1, 0x1, fun _ _ => [⟨SF_DISC_CNT, .rc, false, []⟩,
      ⟨SF_DISC_CNT_OVF, .rc, false, []⟩]⟩,
  ⟨0xE0050, 1, 0x1, 1, 0x1, fun _ _ => [⟨SF_PDU_MISS, .rc, false, []⟩,
      ⟨SF_PDU_MISS_OVF, .rc, false, []⟩]⟩,
  ⟨0xE0240, 1, 0x1, 1, 0x1, fun _ _ => [⟨SF_PDU_ERR, .rc, false, []⟩,
      ⟨SF_PDU_ERR_OVF, .rc, false, []⟩]⟩,
  ⟨0xE0244, 1, 0x1, 1, 0x1, fun _ _ => [⟨SF_CNT_ERR, .rc, false, []⟩,
      ⟨SF_CNT_ERR_OVF, .rc, false, []⟩]⟩,
  ⟨0xE0248, 1, 0x1, 1, 0x1, fun _ _ => [⟨SF_PDU_BLK, .rc, false, []⟩,
      ⟨SF_PDU_BLK_OVF, .rc, false, []⟩]⟩,
  ⟨0xE024C, 1, 0x1, 1, 0x1, fun _ _ => [⟨SF_SELFBLK, .rc, false, []⟩,
      ⟨SF_SELFBLK_OVF, .rc, false, []⟩]⟩,
  ⟨0xE0250, 1, 0x1, 1, 0x1, fun _ _ => [⟨SF_DEBLOCK, .rc, false, []⟩,
      ⟨SF_DEBLOCK_OVF, .rc, false, []⟩]⟩]

/-- Registers of block 0x0E. -/
def regs0E : List Reg := regs0E_0

/-- Registers of block 0x0F (part 0). -/
def regs0F_0 : List Reg := [
  ⟨0xF0000, 1, 0x1, 1, 0x1, fun _ _ => [⟨TW_CTRL_EN, .rw, true, []⟩,
      ⟨TW_CTRL_SHARE_EN, .rw, true, []⟩,
      ⟨TW_CTRL_JOIN, .wo, false, []⟩]⟩,
  ⟨0xF0004, 1, 0x1, 1, 0x1, fun _ _ => [⟨TW_STAT_LSTATE, .ro, false, []⟩,
      ⟨TW_STAT_HB_OK, .ro, false, []⟩,
      ⟨TW_STAT_MATCH, .ro, false, []⟩,
      ⟨TW_STAT_MODE, .ro, false, []⟩,
      ⟨TW_STAT_TWIN_ALIVE, .ro, false, []⟩,
      ⟨TW_STAT_TWIN_FAULT, .ro, false, []⟩,
      ⟨TW_STAT_ID_DIFF, .ro, false, []⟩,
      ⟨TW_STAT_PREF_CONFLICT, .ro, false, []⟩,
      ⟨TW_STAT_STROBE_REF, .rc, false, []⟩]⟩,
  ⟨0xF0008, 1, 0x1, 1, 0x1, fun _ _ => [⟨TW_CFG_HBLOSS, .rwl 7, true, [(1, 15)]⟩,
      ⟨TW_CFG_MREQ, .rwl 7, true, [(1, 255)]⟩,
      ⟨TW_CFG_MWIN, .rwl 7, true, [(1, 255)]⟩]⟩,
  ⟨0xF000C, 1, 0x1, 1, 0x1, fun _ _ => [⟨TW_SHTO_SHTO, .rw, true, []⟩]⟩,
  ⟨0xF0010, 1, 0x1, 1, 0x1, fun _ _ => [⟨TW_LINKDLY_DLY, .ro, false, []⟩]⟩,
  ⟨0xF0100, 1, 0x1, 1, 0x1, fun _ _ => [⟨LS_CTRL_EN, .rw, true, []⟩,
      ⟨LS_CTRL_REV_EN, .rwl 7, true, []⟩,
      ⟨LS_CTRL_HANDOVER, .wo, false, []⟩]⟩,
  ⟨0xF0104, 1, 0x1, 1, 0x1, fun _ _ => [⟨LS_STAT_STATE, .ro, false, []⟩,
      ⟨LS_STAT_PREF, .ro, false, []⟩,
      ⟨LS_STAT_QUORUM, .ro, false, []⟩,
      ⟨LS_STAT_TWIN_STATE, .ro, false, []⟩,
      ⟨LS_STAT_HO_PEND, .ro, false, []⟩,
      ⟨LS_STAT_CHAINS, .ro, false, []⟩,
      ⟨LS_STAT_NCH, .ro, false, []⟩]⟩,
  ⟨0xF0108, 1, 0x1, 1, 0x1, fun _ _ => [⟨LS_EPOCH_EPOCH, .ro, false, []⟩]⟩,
  ⟨0xF010C, 1, 0x1, 1, 0x1, fun _ _ => [⟨LS_CFG_LT, .rwl 7, true, [(1, 255)]⟩,
      ⟨LS_CFG_ACKINT, .rwl 7, true, [(4, 4), (8, 8), (16, 16), (32, 32), (64, 64)]⟩,
      ⟨LS_CFG_CLAIMTO, .rwl 7, true, [(1, 255)]⟩]⟩,
  ⟨0xF0110, 1, 0x1, 1, 0x1, fun _ _ => [⟨LS_REVHOLD_HOLD, .rwl 7, true, []⟩]⟩,
  ⟨0xF0114, 1, 0x1, 1, 0x1, fun _ _ => [⟨LS_QAGE_QAGE, .rwl 7, true, []⟩]⟩,
  ⟨0xF0140, 16, 0x4, 1, 0x1, fun i _ => [⟨(LS_PORT_CFG_QN i), .rwl 7, true, [(0, 64)]⟩]⟩,
  ⟨0xF0180, 16, 0x4, 1, 0x1, fun i _ => [⟨(LS_PORT_STAT_ACK_OWN i), .ro, false, []⟩,
      ⟨(LS_PORT_STAT_ACK_TWIN i), .ro, false, []⟩,
      ⟨(LS_PORT_STAT_COUNTS i), .ro, false, []⟩]⟩,
  ⟨0xF0200, 1, 0x1, 1, 0x1, fun _ _ => [⟨LS_SREC_VALID, .ro, false, []⟩,
      ⟨LS_SREC_BOARD, .ro, false, []⟩,
      ⟨LS_SREC_RELEASED, .ro, false, []⟩,
      ⟨LS_SREC_LEASE_T, .ro, false, []⟩,
      ⟨LS_SREC_HOLDER, .ro, false, []⟩]⟩,
  ⟨0xF0204, 1, 0x1, 1, 0x1, fun _ _ => [⟨LS_SEPOCH_EPOCH, .ro, false, []⟩]⟩,
  ⟨0xF0208, 1, 0x1, 1, 0x1, fun _ _ => [⟨LS_SCFG_LT, .rwl 7, true, [(1, 255)]⟩,
      ⟨LS_SCFG_ACKINT, .rwl 7, true, [(4, 4), (8, 8), (16, 16), (32, 32), (64, 64)]⟩]⟩,
  ⟨0xF0080, 1, 0x1, 1, 0x1, fun _ _ => [⟨HB_MISS, .rc, false, []⟩,
      ⟨HB_MISS_OVF, .rc, false, []⟩]⟩,
  ⟨0xF0084, 1, 0x1, 1, 0x1, fun _ _ => [⟨SHARE_LATE, .rc, false, []⟩,
      ⟨SHARE_LATE_OVF, .rc, false, []⟩]⟩,
  ⟨0xF0088, 1, 0x1, 1, 0x1, fun _ _ => [⟨DIG_DIFF, .rc, false, []⟩,
      ⟨DIG_DIFF_OVF, .rc, false, []⟩]⟩,
  ⟨0xF008C, 1, 0x1, 1, 0x1, fun _ _ => [⟨DIG_LATE, .rc, false, []⟩,
      ⟨DIG_LATE_OVF, .rc, false, []⟩]⟩]

/-- Registers of block 0x0F (part 1). -/
def regs0F_1 : List Reg := [
  ⟨0xF0090, 1, 0x1, 1, 0x1, fun _ _ => [⟨STATE_DIFF, .rc, false, []⟩,
      ⟨STATE_DIFF_OVF, .rc, false, []⟩]⟩,
  ⟨0xF0094, 1, 0x1, 1, 0x1, fun _ _ => [⟨TW_MSG_CRC, .rc, false, []⟩,
      ⟨TW_MSG_CRC_OVF, .rc, false, []⟩]⟩,
  ⟨0xF0098, 1, 0x1, 1, 0x1, fun _ _ => [⟨MATCH_LOSS, .rc, false, []⟩,
      ⟨MATCH_LOSS_OVF, .rc, false, []⟩]⟩,
  ⟨0xF01C0, 1, 0x1, 1, 0x1, fun _ _ => [⟨LS_CLAIM, .rc, false, []⟩,
      ⟨LS_CLAIM_OVF, .rc, false, []⟩]⟩,
  ⟨0xF01C4, 1, 0x1, 1, 0x1, fun _ _ => [⟨LS_HANDOVER, .rc, false, []⟩,
      ⟨LS_HANDOVER_OVF, .rc, false, []⟩]⟩,
  ⟨0xF01C8, 1, 0x1, 1, 0x1, fun _ _ => [⟨LS_QLOSS, .rc, false, []⟩,
      ⟨LS_QLOSS_OVF, .rc, false, []⟩]⟩,
  ⟨0xF01CC, 1, 0x1, 1, 0x1, fun _ _ => [⟨LS_ACK_RX, .rc, false, []⟩,
      ⟨LS_ACK_RX_OVF, .rc, false, []⟩]⟩,
  ⟨0xF01D0, 1, 0x1, 1, 0x1, fun _ _ => [⟨LS_SWEEP, .rc, false, []⟩,
      ⟨LS_SWEEP_OVF, .rc, false, []⟩]⟩,
  ⟨0xF0240, 1, 0x1, 1, 0x1, fun _ _ => [⟨LS_GRANT, .rc, false, []⟩,
      ⟨LS_GRANT_OVF, .rc, false, []⟩]⟩,
  ⟨0xF0244, 1, 0x1, 1, 0x1, fun _ _ => [⟨LS_EXPIRE, .rc, false, []⟩,
      ⟨LS_EXPIRE_OVF, .rc, false, []⟩]⟩,
  ⟨0xF0248, 1, 0x1, 1, 0x1, fun _ _ => [⟨LS_RELEASE, .rc, false, []⟩,
      ⟨LS_RELEASE_OVF, .rc, false, []⟩]⟩,
  ⟨0xF024C, 1, 0x1, 1, 0x1, fun _ _ => [⟨LS_ACK_WAIT, .rc, false, []⟩,
      ⟨LS_ACK_WAIT_OVF, .rc, false, []⟩]⟩]

/-- Registers of block 0x0F. -/
def regs0F : List Reg := regs0F_0 ++ regs0F_1

/-- Registers of block 0x10 (part 0). -/
def regs10_0 : List Reg := [
  ⟨0x100000, 1, 0x1, 1, 0x1, fun _ _ => [⟨CL_CTRL_BLEN, .rw, true, []⟩,
      ⟨CL_CTRL_FWD_EN, .rw, true, []⟩]⟩,
  ⟨0x100004, 1, 0x1, 1, 0x1, fun _ _ => [⟨CL_STAT_BENCH, .ro, false, []⟩,
      ⟨CL_STAT_ALIGNED, .ro, false, []⟩,
      ⟨CL_STAT_DEEP, .ro, false, []⟩,
      ⟨CL_STAT_DEPTH, .ro, false, []⟩,
      ⟨CL_STAT_PARENT, .ro, false, []⟩]⟩,
  ⟨0x100010, 4, 0x4, 1, 0x1, fun i _ => [⟨(CL_BL_STAT_VAL i), .ro, false, []⟩]⟩,
  ⟨0x100020, 4, 0x4, 1, 0x1, fun i _ => [⟨(CL_BL_LINKDLY_VAL i), .ro, false, []⟩]⟩,
  ⟨0x100030, 4, 0x4, 1, 0x1, fun i _ => [⟨(CL_VRX_ADDR i), .rw, true, []⟩]⟩,
  ⟨0x100100, 4, 0x80, 32, 0x4, fun i j => [⟨(CL_VSEND_VAL i j), .rw, false, []⟩]⟩,
  ⟨0x100080, 1, 0x1, 1, 0x1, fun _ _ => [⟨ALIGN_ERR, .rc, false, []⟩,
      ⟨ALIGN_ERR_OVF, .rc, false, []⟩]⟩,
  ⟨0x100084, 1, 0x1, 1, 0x1, fun _ _ => [⟨VAR_DROP, .rc, false, []⟩,
      ⟨VAR_DROP_OVF, .rc, false, []⟩]⟩,
  ⟨0x100088, 1, 0x1, 1, 0x1, fun _ _ => [⟨VAR_STALE, .rc, false, []⟩,
      ⟨VAR_STALE_OVF, .rc, false, []⟩]⟩,
  ⟨0x10008C, 1, 0x1, 1, 0x1, fun _ _ => [⟨FWD_CNT, .rc, false, []⟩,
      ⟨FWD_CNT_OVF, .rc, false, []⟩]⟩,
  ⟨0x100090, 1, 0x1, 1, 0x1, fun _ _ => [⟨FWD_TO, .rc, false, []⟩,
      ⟨FWD_TO_OVF, .rc, false, []⟩]⟩,
  ⟨0x100094, 1, 0x1, 1, 0x1, fun _ _ => [⟨FWD_DROP, .rc, false, []⟩,
      ⟨FWD_DROP_OVF, .rc, false, []⟩]⟩,
  ⟨0x100098, 1, 0x1, 1, 0x1, fun _ _ => [⟨CL_MSG_CRC, .rc, false, []⟩,
      ⟨CL_MSG_CRC_OVF, .rc, false, []⟩]⟩]

/-- Registers of block 0x10. -/
def regs10 : List Reg := regs10_0

/-- Registers of block 0x12 (part 0). -/
def regs12_0 : List Reg := [
  ⟨0x120000, 1, 0x1, 1, 0x1, fun _ _ => [⟨STB_FIRE_GRP, .wo, false, []⟩]⟩,
  ⟨0x120004, 1, 0x1, 1, 0x1, fun _ _ => [⟨STB_SRC_GRP, .rw, false, []⟩]⟩,
  ⟨0x120008, 1, 0x1, 1, 0x1, fun _ _ => [⟨STB_REF_GRP, .rc, false, []⟩]⟩,
  ⟨0x120010, 1, 0x1, 1, 0x1, fun _ _ => [⟨TXN_CFG_LEAD, .rw, false, [(2, 255)]⟩,
      ⟨TXN_CFG_SLEAD, .rw, false, []⟩,
      ⟨TXN_CFG_SGUARD, .rw, false, []⟩]⟩,
  ⟨0x120014, 1, 0x1, 1, 0x1, fun _ _ => [⟨TXN_IDLE_SEC, .rw, false, [(1, 3600)]⟩]⟩,
  ⟨0x120018, 1, 0x1, 1, 0x1, fun _ _ => [⟨TXN_SCFG_PTO, .rw, false, []⟩]⟩,
  ⟨0x12001C, 1, 0x1, 1, 0x1, fun _ _ => [⟨TXN_STAT_OPEN, .ro, false, []⟩,
      ⟨TXN_STAT_SPREP, .ro, false, []⟩,
      ⟨TXN_STAT_SCOMMIT, .ro, false, []⟩,
      ⟨TXN_STAT_STXID, .ro, false, []⟩]⟩,
  ⟨0x120020, 1, 0x1, 1, 0x1, fun _ _ => [⟨TXN_STICK_TICK, .ro, false, []⟩]⟩,
  ⟨0x120040, 1, 0x1, 1, 0x1, fun _ _ => [⟨TXN_COMMITS, .rc, false, []⟩,
      ⟨TXN_COMMITS_OVF, .rc, false, []⟩]⟩,
  ⟨0x120044, 1, 0x1, 1, 0x1, fun _ _ => [⟨TXN_ROLLBACKS, .rc, false, []⟩,
      ⟨TXN_ROLLBACKS_OVF, .rc, false, []⟩]⟩,
  ⟨0x120048, 1, 0x1, 1, 0x1, fun _ _ => [⟨TXN_EXPIRED, .rc, false, []⟩,
      ⟨TXN_EXPIRED_OVF, .rc, false, []⟩]⟩,
  ⟨0x12004C, 1, 0x1, 1, 0x1, fun _ _ => [⟨TXN_CONFLICTS, .rc, false, []⟩,
      ⟨TXN_CONFLICTS_OVF, .rc, false, []⟩]⟩,
  ⟨0x120050, 1, 0x1, 1, 0x1, fun _ _ => [⟨TXN_MISSED, .rc, false, []⟩,
      ⟨TXN_MISSED_OVF, .rc, false, []⟩]⟩,
  ⟨0x120054, 1, 0x1, 1, 0x1, fun _ _ => [⟨TXN_PARTIAL, .rc, false, []⟩,
      ⟨TXN_PARTIAL_OVF, .rc, false, []⟩]⟩]

/-- Registers of block 0x12. -/
def regs12 : List Reg := regs12_0

/-- Registers of block 0x13 (part 0). -/
def regs13_0 : List Reg := [
  ⟨0x130000, 1, 0x1, 1, 0x1, fun _ _ => [⟨MB_REQ_ITEM, .rw, false, []⟩]⟩,
  ⟨0x130004, 1, 0x1, 1, 0x1, fun _ _ => [⟨MB_STAT_VALID, .ro, false, []⟩,
      ⟨MB_STAT_ERR, .rc, false, []⟩,
      ⟨MB_STAT_NWORDS, .ro, false, []⟩,
      ⟨MB_STAT_ITEM, .ro, false, []⟩]⟩,
  ⟨0x130010, 8, 0x4, 1, 0x1, fun i _ => [⟨(MB_DATA_DATA i), .ro, false, []⟩]⟩]

/-- Registers of block 0x13. -/
def regs13 : List Reg := regs13_0

/-- The register rows of the block with number `b` (R352). -/
def blockRegs (b : Nat) : List Reg :=
  match b with
  | 1 => regs01
  | 2 => regs02
  | 3 => regs03
  | 4 => regs04
  | 5 => regs05
  | 6 => regs06
  | 7 => regs07
  | 8 => regs08
  | 9 => regs09
  | 10 => regs0A
  | 11 => regs0B
  | 12 => regs0C
  | 13 => regs0D
  | 14 => regs0E
  | 15 => regs0F
  | 16 => regs10
  | 18 => regs12
  | 19 => regs13
  | _ => []

/-- The indices of `addr` in row `r`, if the row holds that word. -/
def Reg.index (r : Reg) (addr : Nat) : Option (Nat × Nat) :=
  if addr < r.base then none else
    let d := addr - r.base
    let i := if r.n1 = 1 then 0 else d / r.s1
    let e := if r.n1 = 1 then d else d % r.s1
    let j := if r.n2 = 1 then 0 else e / r.s2
    let e' := if r.n2 = 1 then e else e % r.s2
    if i < r.n1 ∧ j < r.n2 ∧ e' = 0 then some (i, j) else none

/-- The first row that holds `addr`, with its fields. -/
def findReg : List Reg → Nat → Option (List FSpec)
  | [], _ => none
  | r :: t, addr =>
    match r.index addr with
    | some (i, j) => some (r.fields i j)
    | none => findReg t addr

/-- The fields of the word at `addr`; `none` where no register is defined. -/
def regFields (addr : Nat) : Option (List FSpec) := findReg (blockRegs (addr / 0x10000)) addr

/-- The strobe group of a block (R341). -/
def blockGroup (b : Nat) : Option Nat :=
  match b with
  | 0x04 => some 0
  | 0x10 => some 0
  | 0x05 => some 1
  | 0x06 => some 2
  | 0x0B => some 3
  | 0x0C => some 4
  | 0x0D => some 4
  | 0x07 => some 5
  | 0x08 => some 5
  | 0x09 => some 6
  | 0x0F => some 7
  | _ => none

/-- The strobe group of the register word that holds field key `k`. -/
def keyGroup (k : Nat) : Option Nat := blockGroup (k / 32 / 0x10000)

end Sys2Proof.Machine
end

