-- ==== Sys2Proof/Machine/Ops.lean ====
section
/-! DEFINITION. The named operations over the state: register fields, counters, memory bytes, the clock, outputs. -/

namespace Sys2Proof.Machine

/-! ### Register fields -/

/-- A live field (R8). -/
def State.get (s : State) (f : Fld) : Nat := (kget s.live f.key).getD f.reset

/-- The active copy of a configuration field, on which the control plane acts (R342). -/
def State.cfg (s : State) (f : Fld) : Nat := (kget s.act f.key).getD f.reset

/-- The shadow copy of a configuration field, which management writes and reads (R342). -/
def State.shadow (s : State) (f : Fld) : Nat := (kget s.shd f.key).getD f.reset

/-- A live one-bit field is set. -/
def State.on (s : State) (f : Fld) : Bool := s.get f = 1

/-- An active one-bit configuration field is set. -/
def State.cfgOn (s : State) (f : Fld) : Bool := s.cfg f = 1

/-- The state with a live field set to the low bits of a value. -/
def State.put (s : State) (f : Fld) (v : Nat) : State := { s with live := kset s.live f.key (v % 2 ^ f.width) }

/-- The state with a shadow field set. -/
def State.putShadow (s : State) (f : Fld) (v : Nat) : State := { s with shd := kset s.shd f.key (v % 2 ^ f.width) }

/-- The state with both copies of a configuration field set, as hardware or Thoka sets it. -/
def State.putCfg (s : State) (f : Fld) (v : Nat) : State :=
  { s with shd := kset s.shd f.key (v % 2 ^ f.width), act := kset s.act f.key (v % 2 ^ f.width) }

/-- A one-bit live field set to a truth value. -/
def State.putB (s : State) (f : Fld) (b : Bool) : State := s.put f b.toNat

/-- The OVF field of an event counter (R11). -/
def ovfOf (f : Fld) : Fld := ⟨f.addr, 31, 1, 0⟩

/-- An event counter of R11 counts `n` events: on reaching 0x7FFF_FFFF it is saturated, which sets OVF (log entry 6). -/
def State.countN (s : State) (f : Fld) (n : Nat) : State :=
  if s.get f + n < 0x7FFFFFFF then s.put f (s.get f + n)
  else (s.put f 0x7FFFFFFF).put (ovfOf f) 1

/-- An event counter counts one event (R11). -/
def State.count (s : State) (f : Fld) : State := s.countN f 1

/-! ### Outputs -/

/-- The device puts something out. -/
def State.emit (s : State) (o : Out) : State := { s with out := s.out ++ [o] }

/-- The device puts several things out, in order. -/
def State.emits (s : State) (os : List Out) : State := { s with out := s.out ++ os }

/-! ### Values the spec leaves open -/

/-- The next free value, at most `bound` (log entry 8). -/
def State.free (s : State) (bound : Nat) : Nat := Config.freeValue s.fresh % (bound + 1)

/-- The free value has been used. -/
def State.used (s : State) : State := { s with fresh := s.fresh + 1 }

/-- A row instant of the ticks comes in cycle `t` (R314). -/
def State.noteRow (s : State) (t : Nat) : State := { s with dr := { s.dr with ticks := s.dr.ticks + 1, tickAt := t } }

/-! ### Conditions on role and phase -/

/-- The device runs in the Datum role. -/
def State.isDatum (s : State) : Bool := s.phase = .run && s.role = .datum

/-- The device runs in the Stake role. -/
def State.isStake (s : State) : Bool := s.phase = .run && s.role = .stake

/-- The device is out of reset. -/
def State.running (s : State) : Bool := s.phase = .run

/-! ### Parts that are kept by number -/

/-- Link `l`. -/
def State.link (s : State) (l : Nat) : LinkSt := (kget s.links l).getD {}

/-- The state with link `l` changed. -/
def State.setLink (s : State) (l : Nat) (v : LinkSt) : State := { s with links := kset s.links l v }

/-- Frame state of port `p`. -/
def State.port (s : State) (p : Nat) : PortSt := (kget s.ports p).getD {}

/-- The state with the frame state of port `p` changed. -/
def State.setPort (s : State) (p : Nat) (v : PortSt) : State := { s with ports := kset s.ports p v }

/-- Levelling state of arm `a`. -/
def State.armSt (s : State) (a : Nat) : ArmSt := (kget s.arms a).getD {}

/-- The state with the Levelling state of arm `a` changed. -/
def State.setArm (s : State) (a : Nat) (v : ArmSt) : State := { s with arms := kset s.arms a v }

/-- Gate channel `n`. -/
def State.chan (s : State) (n : Nat) : GateCh := (kget s.gate n).getD {}

/-- The state with gate channel `n` changed. -/
def State.setChan (s : State) (n : Nat) (v : GateCh) : State := { s with gate := kset s.gate n v }

/-- Time-event unit `n`. -/
def State.tevSt (s : State) (n : Nat) : TevSt := (kget s.tev n).getD {}

/-- The state with time-event unit `n` changed. -/
def State.setTev (s : State) (n : Nat) (v : TevSt) : State := { s with tev := kset s.tev n v }

/-! ### Memory

One byte list in canonical form: addresses strictly rising, no byte listed that an unlisted address reads as. -/

/-- What an address that the memory does not list reads as: 0 (log entry 3). -/
def memDefault : BitVec 8 := 0

/-- The byte at an address. -/
def memGet : List Host.Cell → Nat → BitVec 8
  | [], _ => memDefault
  | (a, b) :: t, k => if a = k then b else memGet t k

/-- The memory with no byte listed at an address. -/
def memErase : List Host.Cell → Nat → List Host.Cell
  | [], _ => []
  | (a, b) :: t, k => if a = k then memErase t k else (a, b) :: memErase t k

/-- The memory with a byte listed at an address, addresses kept rising. -/
def memInsert : List Host.Cell → Nat → BitVec 8 → List Host.Cell
  | [], k, v => [(k, v)]
  | (a, b) :: t, k, v =>
    if k < a then (k, v) :: (a, b) :: t
    else if k = a then (k, v) :: t
    else (a, b) :: memInsert t k v

/-- The memory with the byte at an address set, in canonical form. -/
def memSet (m : List Host.Cell) (k : Nat) (v : BitVec 8) : List Host.Cell :=
  if v = memDefault then memErase m k else memInsert m k v

/-- Addresses from `lo` on, strictly rising, no default byte. -/
def memWfFrom : Nat → List Host.Cell → Bool
  | _, [] => true
  | lo, (a, b) :: t => decide (lo ≤ a) && decide (b ≠ memDefault) && memWfFrom (a + 1) t

/-- The canonical form of the memory. -/
def Memory.wf (m : List Host.Cell) : Bool := memWfFrom 0 m

/-- Bytes put into memory from an address on. -/
def memSetBytes (m : List Host.Cell) (a : Nat) : List Nat → List Host.Cell
  | [] => m
  | b :: t => memSetBytes (memSet m a (BitVec.ofNat 8 b)) (a + 1) t

/-- `n` bytes of memory from an address on. -/
def memBytes (m : List Host.Cell) (a : Nat) : Nat → List Nat
  | 0 => []
  | n + 1 => (memGet m a).toNat :: memBytes m (a + 1) n

/-- Base of loop program memory (R352). -/
def loopProgBase : Nat := 0x01000000

/-- Size of one loop program bank (R211, R351). -/
def bankSize : Nat := 131072

/-- Base of loop data memory (R352). -/
def loopDataBase : Nat := 0x02000000

/-- Size of loop data memory (R212). -/
def loopDataSize : Nat := 0x200000

/-- Base of the repetitive memory pool (R352). -/
def poolBase : Nat := 0x03000000

/-- Size of the repetitive memory pool in bytes (R351). -/
def poolSize : Nat := 4 * 262144

/-- An area enters a list of areas that rises by address. -/
def insertArea (a : Nat × Nat) : List (Nat × Nat) → List (Nat × Nat)
  | [] => [a]
  | b :: t => if a.1 ≤ b.1 then a :: b :: t else b :: insertArea a t

/-- The areas that a join sweeps, as address and length, by rising address: the state region, and above it the memories of
the enabled repetitive channels (R264). -/
def State.sweepAreas (s : State) : List (Nat × Nat) :=
  (loopDataBase + s.cfg LE_DIRTY_BASE_VAL, s.cfg LE_DIRTY_LEN_VAL) ::
    (((List.range 64).filter fun c => s.cfgOn (RC_CH_CFG_EN c)).map fun c =>
      (poolBase + 4 * s.cfg (RC_CH_MEM_BASE c), 4 * s.cfg (RC_CH_MEM_LEN c))).foldr insertArea []

/-- While the holder serves a join, a line of those areas that it writes is dirty (R264). -/
def State.joinMark (s : State) (a n : Nat) : State :=
  if s.tw.sweepAt.isSome && s.sweepAreas.any fun r => a < r.1 + r.2 && r.1 < a + n then
    let lines := (List.range ((a % 64 + n + 63) / 64)).map fun i => (a - loopDataBase) / 64 * 64 + 64 * i
    { s with sch := { s.sch with dirty := s.sch.dirty ++ lines.filter fun l => !s.sch.dirty.contains l } }
  else s

/-- The state with bytes stored from an address on. -/
def State.setMemBytes (s : State) (a : Nat) (bs : List Nat) : State :=
  { s with mem := memSetBytes s.mem a bs }.joinMark a bs.length

/-- The little-endian word at an address (R7). -/
def State.memWord (s : State) (a : Nat) : Nat := ofLe (memBytes s.mem a 4)

/-- The state with a little-endian word stored at an address (R7). -/
def State.setMemWord (s : State) (a : Nat) (v : Nat) : State := s.setMemBytes a (le 4 v)

/-- The devices of a chain or cluster take this name for an answer that the state goes on. -/
abbrev Result := Host.Outcome State Fault Refusal

end Sys2Proof.Machine
end

