-- ==== Sys2Proof/Machine/GateBase.lean ====
section
/-! DEFINITION. The shared operations of the Stake power stage (06_stake_power_stage.md): which switches a cell state
turns on, symbols on GCMD, the leg interlock, and forced Off. -/

namespace Sys2Proof.Machine

/-- The channels that the topology uses (R148). -/
def State.usedCh (s : State) : List Nat := if s.cfgOn GS_CFG_TOPO then [0, 1, 2, 3] else [0, 1]

/-- Channel `n` is used (R148). -/
def State.isUsed (s : State) (n : Nat) : Bool := s.usedCh.contains n

/-- Whether a cell state turns switch `n` on (R148). -/
def State.cellOn (s : State) (c : Cell) (n : Nat) : Bool :=
  match c with
  | .off => false
  | .bypassed => n = 1 || n = 3
  | .inserted =>
    if s.cfgOn GS_CFG_TOPO then
      if s.cfgOn GS_CFG_FBPOL then n = 1 || n = 2 else n = 0 || n = 3
    else n = 0

/-- The code of a cell state in GS_STAT.CELL. -/
def Cell.code : Cell → Nat
  | .off => 0
  | .bypassed => 1
  | .inserted => 2

/-- The cell state of the Stake (GS_STAT.CELL). -/
def State.cell (s : State) : Cell :=
  match s.get GS_STAT_CELL with
  | 1 => .bypassed
  | 2 => .inserted
  | _ => .off

/-- The applied dead time in cycles (R149). -/
def State.dt (s : State) : Nat := max (s.cfg GS_TIMING_DT) (s.cfg GS_FLOOR_DT_FLOOR)

/-- The applied minimum pulse in cycles (R149). -/
def State.minp (s : State) : Nat := max (s.cfg GS_TIMING_MINP) (s.cfg GS_FLOOR_MINP_FLOOR)

/-- The first grid point of GCMD at or after cycle `t` (R150): a line bit begins at the recovered tick start and every
two cycles after it; of a tick of an odd number of cycles the last line bit is three cycles long. -/
def State.gridPoint (s : State) (t : Nat) : Nat :=
  if t < s.tb.tickStart then t + (s.tb.tickStart - t) % 2
  else
    let p := if s.tb.havePeriod then s.tb.period16 / 32 else 0
    let b := s.tb.tickStart + (t - s.tb.tickStart) / p * p
    let e := (t - b + 1) / 2 * 2
    if p % 2 = 1 ∧ 0 < e ∧ p ≤ e + 1 then b + p else b + e

/-- `n` bits of a value, least significant first. -/
def bitsLe : Nat → Nat → List Bool
  | 0, _ => []
  | n + 1, v => decide (v % 2 = 1) :: bitsLe n (v / 2)

/-- Data bits of a symbol before the parity bit: the opcode OP and what follows it, each least significant bit first
(R152). -/
def symData : Sym → List Bool
  | .off => bitsLe 3 0
  | .on => bitsLe 3 1
  | .softoff => bitsLe 3 2
  | .sets reg code => bitsLe 3 3 ++ bitsLe 2 reg ++ bitsLe 6 code
  | .test sel => bitsLe 3 4 ++ bitsLe 3 sel

/-- The parity bit, which makes the number of 1 data bits even (R151). -/
def parityBit (ds : List Bool) : Bool := ds.foldl xor false

/-- The line bits of a symbol: START, then data 0 as 01 and data 1 as 11, with the parity bit last (R151, R152). -/
def symLine (y : Sym) : List Bool :=
  [false, false] ++ (symData y ++ [parityBit (symData y)]).flatMap fun d => [d, true]

/-- The levels of the line after a level, NRZI: a line bit 1 changes it (R151). -/
def nrzi (level : Bool) : List Bool → List Bool
  | [] => []
  | b :: t => xor level b :: nrzi (xor level b) t

/-- Line bits of a symbol (R152). -/
def Sym.bits (y : Sym) : Nat := (symLine y).length

/-- The end of the last line bit of a symbol that starts at the grid point `t`. -/
def State.lineEnd (s : State) (t : Nat) (y : Sym) : Nat := s.gridPoint (t + 2 * y.bits)

/-- The start of the OFF, ON or SOFTOFF that is effective at the grid point `t` (R150, R152). -/
def State.symBegin (s : State) (t : Nat) : Nat := if s.gridPoint (t - 20) = t - 20 then t - 20 else t - 21

/-- The end of the symbol that GCMDn is sending, or an earlier cycle when it sends none. -/
def State.busyTill (s : State) (n : Nat) : Nat :=
  (s.chan n).due.foldl (fun m e => if s.symBegin e.1 < s.now then max m e.1 else m) (s.chan n).busy

/-- The start of a symbol that the device sends now, after a symbol in progress (R153). -/
def State.symStart (s : State) (n : Nat) : Nat := s.gridPoint (max s.now (s.busyTill n))

/-- The end of a symbol that the device starts now, after a symbol in progress (R153). -/
def State.symEnd (s : State) (n : Nat) (y : Sym) : Nat := s.lineEnd (s.symStart n) y

/-- The symbol that GCMDn is in the middle of at the grid point `g`, with its begin. -/
def State.lineAt (s : State) (n g : Nat) : Option (Nat × Sym) :=
  let due := (s.chan n).due.map fun e => (s.symBegin e.1, e.1, e.2)
  (((s.chan n).line ++ due).find? fun e => e.1 < g && g < e.2.1).map fun e => (e.1, e.2.2)

/-- Line bits from the `k`-th on until the last one sent is 1; `k` of them have been sent. -/
def bitsToOne (bs : List Bool) (k : Nat) : Nat := ((bs.drop (k - 1)).takeWhile fun b => !b).length

/-- The start of an OFF or SOFTOFF that becomes due now: the first instant at which the last line bit sent is 1 (R153). IDLE
is line bits 1. -/
def State.offStart (s : State) (n : Nat) : Nat :=
  let g := s.gridPoint s.now
  match s.lineAt n g with
  | some (b, y) => s.gridPoint (g + 2 * bitsToOne (symLine y) ((g - b + 1) / 2))
  | none => g

/-- A list with a number added once, rising. -/
def addOnce (l : List Nat) (n : Nat) : List Nat := if l.contains n then l else l ++ [n]

/-- Due symbols kept with the earliest first. -/
def insertDue (e : Nat × Sym) : List (Nat × Sym) → List (Nat × Sym)
  | [] => [e]
  | h :: t => if e.1 < h.1 then e :: h :: t else h :: insertDue e t

/-- A symbol leaves on GCMDn, unless channel Y holds the pin static (R284). -/
def State.gcmdOut (s : State) (n : Nat) (y : Sym) (t : Nat) : State :=
  if s.on SF_SSTAT_GCMD_GATED then s else s.emit (.gcmd n y t)

/-- A symbol is scheduled on GCMDn for cycle `t`: it is effective at the first grid point from there on (R150). -/
def State.schedule (s : State) (n t : Nat) (y : Sym) : State :=
  let c := s.chan n
  let e := s.gridPoint t
  (s.setChan n { c with due := insertDue (e, y) c.due }).gcmdOut n y e

/-- An OFF or SOFTOFF is started at once: a symbol in progress is abandoned, an abandoned SETS is sent again later, and
whatever was scheduled on the channel is dropped (R153, R171, R185). -/
def State.sendNow (s : State) (n : Nat) (y : Sym) : State :=
  let c := s.chan n
  let t := s.lineEnd (s.offStart n) y
  let cut := (c.sets.filter fun e => s.offStart n < e.1).map (·.2)
  (s.setChan n { c with
    due := [(t, y)], soft := y = .softoff, busy := t, line := [], sets := [], setsDue := cut.foldl addOnce c.setsDue
    setsSent := c.setsSent.filter fun r => !cut.contains r }).gcmdOut n y t

/-- An OFF is already on its way that is effective no later than one started now (R386, R391). -/
def State.offComing (s : State) (n : Nat) : Bool :=
  match (s.chan n).due with
  | [(t, .off)] => t ≤ s.lineEnd (s.offStart n) .off
  | _ => false

/-- A channel gets OFF as part of forced Off unless it completes a SOFTOFF (R171) or an OFF is on its way. -/
def State.offChan (s : State) (all : Bool) (n : Nat) : State :=
  let c := s.chan n
  if c.soft || s.offComing n then s
  else if all || s.on (GS_CH_STAT_ON n) || !c.due.isEmpty then s.sendNow n .off else s

/-- The power-stage block of R167 holds: a used channel is not READY, an OV2 block holds, or MAINT_BLK is set. -/
def State.powerBlocked (s : State) : Bool :=
  s.usedCh.any (fun n => s.get (GS_CH_STAT_PSTATE n) ≠ 1) || s.on GS_STAT_OV2_BLK || s.cfgOn GS_CTRL_MAINT_BLK

/-- GS_STAT.PBLK follows the causes of R167. -/
def State.updPblk (s : State) : State := s.putB GS_STAT_PBLK s.powerBlocked

/-- GS_STAT.REFRESH: a bootstrap refresh is due or running (R173). -/
def State.updRefresh (s : State) : State := s.putB GS_STAT_REFRESH (s.gs.refreshDue || s.gs.refreshRun)

/-- The Stake is under safe block: a channel is not PERMITTED (R269). -/
def State.safeBlocked (s : State) : Bool := !(s.sf.x.permit && s.sf.y.permit)

/-- A cause of R171 holds, so that the Stake is forced Off. -/
def State.offCause (s : State) : Bool :=
  s.safeBlocked || s.on FC_STAT_BLOCK_ACT || s.on FC_STAT_TERMINAL || s.on GS_STAT_OV2_BLK ||
  s.on GS_STAT_FIRED || s.cfgOn GS_CTRL_MAINT_BLK || (3 ≤ s.get SH_STAT_STAGE)

/-- A trim that does not make both of its changes counts LVL_TRIMLOST (R144). -/
def State.dropTrim (s : State) : State :=
  if s.gs.trimEnd.isSome then ({ s with gs := { s.gs with trimEnd := none } }).count LVL_TRIMLOST else s

/-- The Stake enters Off at once (R171): OFF starts on every used channel that is not in SOFTOFF, the schedule and
trim are dropped, and the Stake stays Off until it acts on an entry with a usable report (R167). -/
def State.forceOff (s : State) : State :=
  let all := s.cell ≠ .off
  let s1 := s.usedCh.foldl (fun s n => s.offChan all n) s
  let s2 := (s1.dropTrim).put GS_STAT_CELL 0
  ({ s2 with gs := { s2.gs with needEntry := true, offAtApply := false, refreshDue := false, refreshRun := false } }.updRefresh).updPblk

/-- The charge pump of the high-side channel `n`, while it runs: its period, the time for which each output is high, and
the start of a period after the recovered tick start, all in cycles (R172). -/
def State.pump (s : State) (n : Nat) : Option (Nat × Nat × Nat) :=
  if s.isStake && n % 2 = 0 && s.isUsed n && !s.cfgOn GS_CFG_SUPPLY && s.cfgOn GS_PUMP_EN && s.get SH_STAT_STAGE < 4 then
    let d := s.cfg GS_PUMP_DIV
    some (d, d / 2 - 5, if s.cfgOn GS_PUMP_PHASE_EN then s.get (TRV_SLOT_SLOT 0) * d / 64 else 0)
  else none

/-- The pumps that start, stop or change against the state `o`. -/
def State.movePumps (s o : State) : State :=
  [0, 2].foldl (fun t n => if s.pump n = o.pump n then t else t.emit (.pump n (s.pump n))) s

/-- DCHG is driven or released (R175, R180). -/
def State.setDchg (s : State) (b : Bool) : State :=
  if s.on GS_STAT_OV1_ON = b then s else (s.putB GS_STAT_OV1_ON b).emit (.pin "DCHG" 0 b)

end Sys2Proof.Machine
end

