-- ==== Sys2Proof/Machine/Flags.lean ====
section
/-! DEFINITION. The fault collector and the Field Book (12_faults_and_field_book.md), and the part of the safe block
that a fault of class 3 or 4 reaches (11_safe_block.md). -/

namespace Sys2Proof.Machine

/-! ### Field Book -/

/-- Two records match for a merge (R305). -/
def FbRec.sameEvent (a b : FbRec) : Bool := a.kind = b.kind && a.src = b.src && a.data = b.data && a.kind ≠ 1

/-- Nanoseconds of a TIME field (R302). -/
def wordNs (w : Nat) : Nat := w / 2 ^ 30 * 1000000000 + w % 2 ^ 30

/-- The merge window of R305 admits a record at TIME `t` into one at TIME `t0`. -/
def inWindow (win t t0 : Nat) : Bool :=
  win = 0 || ((wordNs t - wordNs t0) + (wordNs t0 - wordNs t) ≤ win * 1000000)

/-- One more occurrence in a record, saturating (R11). -/
def FbRec.again (r : FbRec) : FbRec := { r with rep := min 0xFFFF (r.rep + 1) }

/-- The tail copy with sequence number `q`, if it still stands, merges too (R310). -/
def FbSt.mergeTail (b : FbSt) (q : Option Nat) : FbSt :=
  match q with
  | none => b
  | some q =>
    match kget b.tail (q % 128) with
    | some r => if r.seq = q then { b with tail := kset b.tail (q % 128) r.again } else b
    | none => b

/-- The newest staged record replaced. -/
def setLast (l : List FbEnt) (e : FbEnt) : List FbEnt := l.dropLast ++ [e]

/-- The newest ring record, if the ring holds one; the next one gets sequence number `head`. -/
def FbSt.newestRing (b : FbSt) (head : Nat) : Option FbRec :=
  (kget b.ring ((head + 2 ^ 32 - 1) % 2 ^ 32 % 8192)).filter (·.valid)

/-- A record enters the Field Book with merge window `win`: it merges (R305), is staged (R304), or is lost (R306). -/
def FbSt.stageNow (win head : Nat) (frozen : Bool) (b : FbSt) (r : FbRec) : FbSt :=
  match b.queue.getLast? with
  | some e =>
    if r.sameEvent e.rcd && inWindow win r.time e.rcd.time then
      { b with queue := setLast b.queue { e with rcd := e.rcd.again }, merged := b.merged + 1 }.mergeTail e.tailSeq
    else if b.queue.length < 32 then { b with queue := b.queue ++ [{ rcd := r }] }
    else { b with lost := b.lost + 1, lostTime := (if b.lost = 0 then r.time else b.lostTime), dropped := b.dropped + 1 }
  | none =>
    match b.newestRing head with
    | some n =>
      if r.sameEvent n && inWindow win r.time n.time && !frozen then
        { b with ring := kset b.ring (n.seq % 8192) n.again, merged := b.merged + 1 }.mergeTail b.newestTail
      else { b with queue := [{ rcd := r }] }
    | none => { b with queue := [{ rcd := r }] }

/-- Of two records of one cycle, `a` enters the queue first: fault records in ascending source number, before every
other kind (R22, R307). -/
def FbRec.before (a b : FbRec) : Bool := a.kind = 0 && (b.kind ≠ 0 || a.src < b.src)

/-- A record takes its place among those of its cycle. -/
def offer (r : FbRec) : List FbRec → List FbRec
  | [] => [r]
  | x :: t => if r.before x then r :: x :: t else x :: offer r t

/-- A record is offered to the Field Book in the present cycle (R22). -/
def State.stage (s : State) (r : FbRec) : State := { s with fb := { s.fb with cycle := offer r s.fb.cycle } }

/-- The records of the cycle enter the Field Book in their order (R22, R307). -/
def State.endCycle (s : State) : State :=
  let take := FbSt.stageNow (s.get FB_CFG_MERGE_WIN) (s.get FB_HEAD_SEQ) (s.on FB_STAT_FROZEN)
  { s with fb := s.fb.cycle.foldl take { s.fb with cycle := [] } }

/-! ### The clock -/

/-- Station time runs: in a Datum always (R45), in a Stake from its first lock (R49). -/
def State.timeMoves (s : State) : Bool := s.role = .datum || s.tb.timeRuns

/-- The clock moved on to cycle `t` (never back), and station time with it, 2 ns a cycle (R45, R49). -/
def State.advance (s0 : State) (t : Nat) : State :=
  if s0.now < t then
    let s := s0.endCycle
    { s with
      now := t
      time := if s.timeMoves then s.time.addNs (2 * (t - s.now)) else s.time }
  else s0

/-- Station time was not valid (R49): the TIME_INV flag of a record. -/
def State.timeInv (s : State) : Bool := s.role = .stake && !s.on TB_STAT_TIME_VALID

/-- An event record of KIND 2 (R303). -/
def State.event (s : State) (code data : Nat) : State :=
  s.stage { time := s.time.word, src := code, kind := 2, data := data, timeInv := s.timeInv }

/-! ### Sources -/

/-- Sources with a fixed class (R292). -/
def fixedSource (src : Nat) : Bool := src = 111 || src = 176 || src = 177

/-- The class in force of a source (R292, R293). -/
def State.classOf (s : State) (src : Nat) : Nat :=
  if src = 111 then 4 else if src = 176 ∨ src = 177 then 3 else s.get (FC_SRC_CLASS src)

/-- The source is enabled (R292). -/
def State.enabled (s : State) (src : Nat) : Bool :=
  fixedSource src || bitOf (s.get (FC_EN_SRC (src / 32))) (src % 32)

/-- The source asserts now: by its level, by its force bit, or by a class 4 assertion since PORn (R291, R298). -/
def State.asserting (s : State) (src : Nat) : Bool :=
  s.fc.level.contains src || bitOf (s.get (FC_FORCE_SRC (src / 32))) (src % 32) || s.fc.stuck.contains src

/-- Bit `b` of a word set. -/
def setBitOf (v b : Nat) : Nat := if bitOf v b then v else v + 2 ^ b

/-- Bit `b` of a word cleared. -/
def clrBitOf (v b : Nat) : Nat := if bitOf v b then v - 2 ^ b else v

/-! ### What class 3 and 4 reach -/

/-- The injector stops with ABORT (R239). -/
def State.abortInj (s : State) : State :=
  (List.range 4).foldl (fun s g =>
    if s.on (INJ_GEN_STAT_RUN g) || s.on (INJ_GEN_STAT_ARMED g) then
      ((((s.put (INJ_GEN_STAT_RUN g) 0).put (INJ_GEN_STAT_ARMED g) 0).put (INJ_GEN_STAT_ABORT g) 1)).count INJ_ABORT
    else s) s

/-- The safety configuration a Datum channel works with: its copy, or the reset values (R279). -/
def Chan.arms (c : Chan) : Nat := (c.copy.map SfCfg.arms).getD 0x3F

/-- Port `p` carries a Stake of an arm in the mask (R114). -/
def State.portHasArm (s : State) (p mask : Nat) : Bool :=
  (List.range 64).any fun i =>
    s.cfgOn (LVL_MAP_VALID p i) && bitOf mask (s.cfg (LVL_MAP_ARM p i))

/-- Ports in ACTIVE or BLIND, which carry frames (R70). -/
def State.portUp (s : State) (p : Nat) : Bool := s.get (TRV_STAT_STATE p) = 6 || s.get (TRV_STAT_STATE p) = 7

/-- The arms that the safe block of a Datum affects: those of each channel that is not PERMITTED (R269, R272). -/
def SfSt.blockedArms (f : SfSt) : Nat :=
  bor (if f.x.permit then 0 else f.x.arms) (if f.y.permit then 0 else f.y.arms)

/-- The ports on which a Datum sends BLOCK pairs: those with a Stake of an affected arm (R114). One in DISABLED sends nothing, and
one in TEST what TRV_TEST sets (R70). -/
def State.blockPorts (s : State) : List Nat :=
  (List.range 16).filter fun p =>
    s.get (TRV_STAT_STATE p) ≠ 0 && s.get (TRV_STAT_STATE p) ≠ 10 && s.portHasArm p s.sf.blockedArms

/-- A BLOCK pair leaves on port `p`: it is counted, and delays the stream by two symbols (R64). -/
def State.pairOut (s : State) (p : Nat) : State :=
  ((s.setLink p { s.link p with idleDebt := (s.link p).idleDebt + 2 }).count (BLOCK_FWD_CNT p)).emit (.blockPair p)

/-- The 1.6 ns symbols that a Datum port has sent since its last SOF, or since the pair that it inserted later. -/
def State.symbolsSince (s : State) (p : Nat) : Nat := (s.now - (s.link p).sofAt) * 5 / 4

/-- The IDLE symbols among them: what frames, ordered sets and TICKMARK pairs have left. -/
def State.idlesSince (s : State) (p : Nat) : Nat := s.symbolsSince p - (s.link p).taken

/-- A Datum sends a BLOCK pair of its own on port `p`. The IDLE symbols before it have absorbed earlier pairs; only those after
it can absorb this one (R64). -/
def State.ownPair (s : State) (p : Nat) : State :=
  let k := s.link p
  (s.setLink p { k with
    idleDebt := k.idleDebt - s.idlesSince p, taken := k.taken - s.symbolsSince p, sofAt := s.now }).pairOut p

/-- A TICKMARK pair is being sent: it takes the last 3.2 ns before the tick start that it precedes (R34, R63). -/
def State.markSending (s : State) : Bool :=
  s.on TB_STAT_TICK_RUN && s.tb.placed && !s.tb.endTick && (s.tb.newGrid || s.tb.markDue) && (s.tb.nextStart ≤ s.now + 1)

/-- The Datum sends a BLOCK pair on every port of an affected arm, and counts it there (R114). While a TICKMARK pair is being
sent, and at a tick start whose frames have not left, the pairs wait for the SOF (R63, R93). -/
def State.sendBlocks (s : State) : State :=
  match s.tb.sofDue with
  | some _ => { s with tb := { s.tb with sofDue := some true } }
  | none =>
    if s.markSending then { s with tb := { s.tb with held := true } }
    else s.blockPorts.foldl State.ownPair s

/-- SF_STAT or SF_SSTAT shows the state of the channels (R269). -/
def State.mirrorSafe (s : State) : State :=
  let both := s.sf.x.permit && s.sf.y.permit
  if s.role = .datum then
    ((s.putB SF_STAT_STATE both).putB SF_STAT_X_PERMIT s.sf.x.permit).putB SF_STAT_Y_PERMIT s.sf.y.permit
  else
    ((s.putB SF_SSTAT_STATE both).putB SF_SSTAT_X_PERMIT s.sf.x.permit).putB SF_SSTAT_Y_PERMIT s.sf.y.permit

/-- Safety channels of a Datum enter BLOCKED for a cause of SF_CAUSE (R272). -/
def State.blockDatum (s : State) (x y : Bool) (cause : Fld) : State :=
  let newX := x && s.sf.x.permit
  let newY := y && s.sf.y.permit
  let sf := { s.sf with
    x := { s.sf.x with permit := s.sf.x.permit && !x, reqSince := s.sf.x.reqSince || x }
    y := { s.sf.y with permit := s.sf.y.permit && !y, reqSince := s.sf.y.reqSince || y } }
  let s1 := ({ s with sf := sf }).put cause 1
  let s2 := if newX then s1.count SF_BLOCKS else s1
  let s3 := s2.mirrorSafe
  if newX || newY then s3.sendBlocks.abortInj else s3

/-- Earlier permit frames no longer count in a channel of a Stake from a block event at cycle `t` on (R283). -/
def Chan.forget (c : Chan) (t : Nat) : Chan := { c with permTick := [], blockAt := some t }

/-- A block event at a Stake in the named channels (R281): they enter BLOCKED, and X makes the cell Off (R284). -/
def State.blockStake (s : State) (x y : Bool) (causes : List Fld) : State :=
  let sf := { s.sf with
    x := { (if x then s.sf.x.forget s.now else s.sf.x) with permit := s.sf.x.permit && !x }
    y := { (if y then s.sf.y.forget s.now else s.sf.y) with permit := s.sf.y.permit && !y }
    urgAt := if causes.contains SF_SCAUSE_URGENT then some s.now else s.sf.urgAt }
  let s1 := causes.foldl (fun s c => s.put c 1) { s with sf := sf }
  s1.mirrorSafe.forceOff

/-- The causes of SF_SCAUSE that a fault of class 3 or 4 records (R281). -/
def faultCauses (src : Nat) : List Fld :=
  if src = 176 ∨ src = 177 then [SF_SCAUSE_FAULT, SF_SCAUSE_DISAGREE] else [SF_SCAUSE_FAULT]

/-- The cause of SF_CAUSE that a fault of class 3 or 4 records in a Datum (R270, R272). -/
def faultCause (src : Nat) : Fld :=
  if src = 176 then SF_CAUSE_DISAGREE else if src = 177 then SF_CAUSE_XLINK else SF_CAUSE_FAULT

/-- FC_FIRST records the first source that set BLOCK_ACT or TERMINAL, of several in one cycle the lowest (R296). -/
def State.noteFirst (s : State) (src : Nat) : State :=
  if s.on FC_FIRST_VALID && !(s.fc.firstAt = some s.now && (src < s.get FC_FIRST_SRC)) then s
  else (({ s with fc := { s.fc with firstAt := some s.now } }).put FC_FIRST_SRC src).put FC_FIRST_VALID 1

/-- The effect of an assertion of class 3 or 4 (R295, R296). -/
def State.blockClass (s : State) (src cls : Nat) : State :=
  let s1 := (s.noteFirst src).put FC_STAT_BLOCK_ACT 1
  let s2 := if cls = 4 then s1.put FC_STAT_TERMINAL 1 else s1
  if s2.role = .datum then
    let newly := s2.sf.x.permit || s2.sf.y.permit
    let s3 := s2.blockDatum true true (faultCause src)
    if newly then s3 else s3.sendBlocks.abortInj
  else
    let s3 := s2.blockStake true true (faultCauses src)
    ({ s3 with sf := { s3.sf with fholdSeen := false } }).put SF_SSTAT_FHOLD 1

/-- DATA of a record with the rest of its fields. -/
def State.faultRec (s : State) (src data : Nat) (forced : Bool) : FbRec :=
  let c := s.classOf src
  { time := s.time.word, src := src, cls := c, forced := forced, timeInv := s.timeInv, data := data
    tail := 3 ≤ c || s.on (FC_SRC_TAIL src) }

/-- What a trigger event of the recorder does in a state that takes none (R320): the truth value says that it waits for
a row. -/
def State.drEvent (s : State) : Bool × State :=
  match s.get DR_STAT_STATE with
  | 1 => (true, s)
  | 2 => (false, s.count TRG_IGN)
  | 3 => (false, s.count TRG_IGN)
  | 4 => (false, s.count TRG_NOSEG)
  | _ => (false, s)

/-- An assertion of an enabled source as a fault trigger of the recorder (R319). -/
def State.drFault (s : State) (src c : Nat) : State :=
  if s.on DR_TRIG_FC_EN && (s.get DR_TRIG_FC_MIN ≤ c) then
    let r := s.drEvent
    if r.1 then { r.2 with dr := { r.2.dr with faults := r.2.dr.faults ++ [(src, s.time.word)] } } else r.2
  else s

/-- The class of an assertion is kept, the highest of those since the status bit was read (R293, R294; DEDUCED, log
entry 120). -/
def State.keepClass (s : State) (src c : Nat) : State :=
  let was := if bitOf (s.get (FC_STATUS_SRC (src / 32))) (src % 32) then (kget s.fc.made src).getD 0 else 0
  { s with fc := { s.fc with made := kset s.fc.made src (max was c) } }

/-- An assertion of a source (R293): status bit, record, signalling and the effect of its class, if it is enabled. -/
def State.assertSrc (s : State) (src data : Nat) (forced : Bool) : State :=
  if !s.enabled src then s else
    let c := s.classOf src
    let s1 := (s.keepClass src c).put (FC_STATUS_SRC (src / 32)) (setBitOf (s.get (FC_STATUS_SRC (src / 32))) (src % 32))
    let s2 := s1.stage (s.faultRec src data forced)
    let s3 := if 1 ≤ c then s2.put FC_STAT_PENDING 1 else s2
    let s4 := if 1 ≤ c ∧ s.role = .datum then s3.emit (.msix (s.get FC_CTRL_VEC)) else s3
    let s5 := if c = 2 then s4.put FC_STAT_DEGRADE 1 else s4
    let s6 := s5.drFault src c
    let s7 := if c = 4 then { s6 with fc := { s6.fc with stuck := addOnce s6.fc.stuck src } } else s6
    if 3 ≤ c then s7.blockClass src c else s7

/-- The source has asserted in the present cycle. -/
def State.assertedNow (s : State) (src : Nat) : Bool := s.fb.cycle.any fun r => r.kind = 0 && r.src = src

/-- An event source is raised (R291): one assertion in the cycle, unless the source already asserts. -/
def State.raiseWith (s : State) (src data : Nat) : State :=
  if s.asserting src || s.assertedNow src then s else s.assertSrc src data false

/-- An event source is raised with no detail. -/
def State.raise (s : State) (src : Nat) : State := s.raiseWith src 0

/-- Several event sources raised in one cycle, in ascending order (R307). -/
def State.raiseAll (s : State) (srcs : List Nat) : State := srcs.foldl State.raise s

/-- A level or force bit makes a source assert that did not before: its class is noted (R293), and it is an assertion unless an
event of the source has made one in this cycle (R291, log entry 120). -/
def State.beginAssert (s : State) (src : Nat) (forced : Bool) : State :=
  let s1 : State := { s with fc := { s.fc with began := kset s.fc.began src (s.classOf src) } }
  if s.assertedNow src then s1 else s1.assertSrc src 0 forced

/-- A level source starts to assert (R291). -/
def State.levelOn (s : State) (src : Nat) : State :=
  if s.fc.level.contains src then s else
    let s1 : State := { s with fc := { s.fc with level := s.fc.level ++ [src] } }
    if s.asserting src then s1 else s1.beginAssert src false

/-- An assertion by level or force bit that has ended leaves the list of those that last. -/
def State.settle (s : State) (src : Nat) : State :=
  if s.asserting src then s else { s with fc := { s.fc with began := s.fc.began.filter (·.1 ≠ src) } }

/-- A level source ends (R291). -/
def State.levelOff (s : State) (src : Nat) : State :=
  ({ s with fc := { s.fc with level := s.fc.level.filter (· ≠ src) } }).settle src

/-- A source asserts that is enabled now and began to with class `k` or above (R292, R293). -/
def State.assertsAt (s : State) (k : Nat) : Bool :=
  s.fc.stuck.any s.enabled || s.fc.began.any fun e => (k ≤ e.2) && s.enabled e.1

/-- An enabled source of class 3 or 4 asserts now (R278, R285). -/
def State.class34Now (s : State) : Bool := s.assertsAt 3

/-- FC_ACTIVEr: the present level of sources 32r to 32r + 31 (R297). -/
def State.activeWord (s : State) (r : Nat) : Nat :=
  (List.range 32).foldl (fun v b => if s.asserting (32 * r + b) then v + 2 ^ b else v) 0

/-- An enabled source is active at class `k` or above: it asserts, or its status bit is set, and its assertion had that class
(R292 to R294). -/
def State.activeAt (s : State) (k : Nat) : Bool :=
  s.assertsAt k || s.fc.made.any fun e => (k ≤ e.2) && bitOf (s.get (FC_STATUS_SRC (e.1 / 32))) (e.1 % 32) && s.enabled e.1

end Sys2Proof.Machine
end

