-- ==== Sys2Proof/Machine/StakeSafe.lean ====
section
/-! DEFINITION. The safety function of a Stake: PDUs, permit frames, permit loss and deblock (R280 to R285,
11_safe_block.md). -/

namespace Sys2Proof.Machine

/-! ### Deblock -/

/-- Port `q` is a live port (R283). -/
def State.livePort (s : State) (q : Nat) : Bool := s.portUp q && !(q = 1 && s.cfg (TRV_FCFG_TURN 0) = 1)

/-- Port `q` has delivered a permit frame after the last block event and within the last CWIN ticks of channel `c`, counting
the current one (R283). -/
def State.permitOn (s : State) (c : Chan) (q : Nat) : Bool :=
  match kget c.permTick q with
  | some t => (s.tb.tick + 2 ^ 64 - t) % 2 ^ 64 < (c.copy.map SfCfg.cwin).getD SF_SCFG_CWIN.reset
  | none => false

/-- PLCNT of a channel has reached 3, which is a block event that has not been acted on (R281, R282). -/
def Chan.permitLost (c : Chan) : Bool := c.plCnt = 3 && !c.plDone

/-- A BLOCK pair that waits to be taken arrives in this cycle (R281; log entry 114). -/
def State.pairWaits (s : State) : Bool :=
  s.pending.any fun
    | .blockPairReceive q _ t => q < 2 && t ≤ s.now
    | _ => false

/-- The conditions of R283 beside FHOLD hold in channel `c`. -/
def State.mayDeblock (s : State) (c : Chan) : Bool :=
  !c.permitLost && !s.pairWaits && s.on TB_STAT_TICK_LOCK && s.on LVL_SIDX_ADOPTED && (s.livePort 0 || s.livePort 1) &&
    ([0, 1].all fun q => !s.livePort q || s.permitOn c q) && !s.sf.beatLost && !s.sf.diff

/-- FHOLD clears, and BLOCK_ACT with it (R295, R296). -/
def State.clearFhold (s : State) : State :=
  if s.on SF_SSTAT_FHOLD then ((s.put SF_SSTAT_FHOLD 0).put FC_STAT_BLOCK_ACT 0).put FC_FIRST_VALID 0 else s

/-- Both channels of a Stake are PERMITTED: FHOLD clears once its arm was blocked after the fault had ended (R285), and the
pins of GCMD are released (R284). -/
def State.deblocked (s : State) : State :=
  let s1 : State := { s with sf := { s.sf with fholdSeen := false } }
  ((s1.clearFhold.mirrorSafe).put SF_SSTAT_GCMD_GATED 0).count SF_DEBLOCK

/-- Each channel of a Stake leaves BLOCKED when the conditions of R283 hold in it. -/
def State.tryDeblock (s : State) : State :=
  if s.role = .stake && s.phase = .run && s.safeBlocked && (!s.on SF_SSTAT_FHOLD || s.sf.fholdSeen) then
    let px := s.sf.x.permit || s.mayDeblock s.sf.x
    let py := s.sf.y.permit || s.mayDeblock s.sf.y
    if px || py then
      let s1 : State := { s with sf := { s.sf with x := { s.sf.x with permit := px }, y := { s.sf.y with permit := py } } }
      if px && py then s1.deblocked else s1.mirrorSafe
    else s
  else s

/-- The Stake has seen its arm blocked while no fault of class 3 or 4 asserts (R285). -/
def State.seeArmBlocked (s : State) : State :=
  if s.on SF_SSTAT_FHOLD && !s.class34Now then { s with sf := { s.sf with fholdSeen := true } } else s

/-! ### Safety PDUs -/

/-- A PDU is valid (R280); `y` is the second position of the safety region. -/
def pduValid (y : Bool) (sender : Nat) (p : Pdu) : Bool :=
  p.ok y && (p.chan = if y then 0x59 else 0x58) && (p.cmd = 0xA5 || p.cmd = 0x5A) && (p.arms < 64) && (p.rsv3 = 0) &&
    (p.rsv10 = 0) && bitOf p.src 15 && (p.src = sender)

/-- Key of the last PDU accepted from a channel on a port. -/
def pduKey (q : Nat) (y : Bool) : Nat := 2 * q + y.toNat

/-- A valid PDU is fresh (R280). The first one accepted from a channel on a port is fresh. -/
def State.pduFresh (s : State) (q : Nat) (y : Bool) (p : Pdu) : Bool :=
  match kget s.sf.seen (pduKey q y) with
  | some v => isNewer 32 p.cnt v.cnt || v.src ≠ p.src
  | none => true

/-- The bit of the Stake's arm is set in ARMS (R280). -/
def State.pduNames (s : State) (p : Pdu) : Bool := bitOf p.arms (s.get LVL_SIDX_ARM)

/-- One PDU received on port `q` (R280, R281): the truth value says that it is valid, fresh and permits. -/
def State.takePdu (s : State) (q : Nat) (y : Bool) (sender : Nat) (p : Pdu) : Bool × State :=
  let s0 := if p.ok y then s else s.count (SAFE_CRC q)
  if !pduValid y sender p then (false, s0.count SF_PDU_ERR)
  else
    let fresh := s0.pduFresh q y p
    let s1 : State := if fresh then { s0 with sf := { s0.sf with
        seen := kset s0.sf.seen (pduKey q y) { src := p.src, cnt := p.cnt } } } else s0.count SF_CNT_ERR
    if !s1.pduNames p then (false, s1)
    else if p.cmd = 0x5A then
      (false, (((s1.count SF_PDU_BLK).blockStake true true [SF_SCAUSE_PDU]).raise 185).seeArmBlocked)
    else (fresh, s1)

/-- The tick in which an SOF arrived in cycle `sof`: the current one, or the one before when the tick has started since
(R282). -/
def State.sofTick (s : State) (sof : Nat) : Nat :=
  if sof < s.tb.tickStart then (s.tb.tick + 2 ^ 64 - 1) % 2 ^ 64 else s.tb.tick

/-- A permit frame on port `q` of tick `t`, whose SOF arrived in cycle `sof`. One of the present tick (`cur`) is noted for its
look-back, one of the tick that has ended makes up for it (R282); one before a block event does not count for deblock (R283). -/
abbrev Chan.permitFrame (c : Chan) (q t sof : Nat) (cur : Bool) : Chan :=
  { c with
    permNow := c.permNow || cur, plCnt := if cur then c.plCnt else 0, plDone := c.plDone && cur
    permTick := if c.blockAt.all (· < sof) then kset c.permTick q t else c.permTick }

/-- The look-back of R282 in a channel. -/
abbrev Chan.lookback (c : Chan) : Chan :=
  { c with permNow := false, plCnt := if c.permNow then 0 else min 3 (c.plCnt + 1), plDone := c.plDone && !c.permNow }

/-- The safety region of a frame with a valid HCRC whose SOF arrived on port `q` in cycle `sof` (R101, R280, R283).
A frame that a BLOCK pair interrupts is no permit frame; one whose SOF came before another block event does not count
for deblock. A frame counts for the tick in which its SOF arrived, which may be the one that has just ended (R282). -/
def State.safetyRegion (s : State) (q sof : Nat) (f : Frame) : State :=
  let a := s.takePdu q false f.hdr.sender f.pduX
  let b := a.2.takePdu q true f.hdr.sender f.pduY
  if a.1 && b.1 && b.2.sf.urgAt.all (· < sof) then
    let t := b.2.sofTick sof
    let see (c : Chan) : Chan := c.permitFrame q t sof (t = b.2.tb.tick)
    ({ b.2 with sf := { b.2.sf with x := see b.2.sf.x, y := see b.2.sf.y } } : State).tryDeblock
  else b.2

/-- The look-back of R282 at a recovered tick start. -/
def State.permitLookback (s : State) : State :=
  { s with sf := { s.sf with x := s.sf.x.lookback, y := s.sf.y.lookback } }

end Sys2Proof.Machine
end

