-- ==== Sys2Proof/Machine/Codes.lean ====
section
/-! DEFINITION. Status codes (R340) and the common shapes of a command's meaning. -/

namespace Sys2Proof.Machine

/-- OK (R340). -/
def stOk : Nat := 0x00
/-- BUSY (R340). -/
def stBusy : Nat := 0x01
/-- BAD_OPCODE (R340). -/
def stBadOpcode : Nat := 0x02
/-- BAD_PARAM (R340). -/
def stBadParam : Nat := 0x03
/-- LOCKED (R340). -/
def stLocked : Nat := 0x04
/-- NOT_IN_ROLE (R340). -/
def stNotInRole : Nat := 0x05
/-- TXN_CONFLICT (R340). -/
def stTxnConflict : Nat := 0x06
/-- TIMEOUT (R340). -/
def stTimeout : Nat := 0x07
/-- INCOMPATIBLE (R340). -/
def stIncompatible : Nat := 0x08
/-- NOT_HOLDER (R340). -/
def stNotHolder : Nat := 0x09
/-- PARITY (R340). -/
def stParity : Nat := 0x0A
/-- QUEUE_FULL (R340). -/
def stQueueFull : Nat := 0x0B

/-- An event that only a running Stake has: elsewhere nothing happens (R4, log entry 7). -/
def State.inStake (s : State) (f : State → State) : Result := .next (if s.isStake then f s else s)

/-- An event that only a running Datum has. -/
def State.inDatum (s : State) (f : State → State) : Result := .next (if s.isDatum then f s else s)

/-- An event of either role out of reset. -/
def State.inRun (s : State) (f : State → State) : Result := .next (if s.running then f s else s)

/-- What a register write of its own row does: a status and the state after it. -/
abbrev Write := State → Nat × State

/-- Thoka carries out writes to registers: out of reset, not paused at S2, and its firmware runs (R358, R373, R390, R404). -/
def State.takesWrites (s : State) : Bool :=
  s.running && (s.get SH_STAT_STAGE < 2) && (s.mg.fw.state = 1 || s.mg.fw.state = 2)

/-- A register write by its own row, if it starts: it completes with its status; a block that the role lacks gives NOT_IN_ROLE
(R4). One that does not start does nothing (log entry 7). -/
def State.written (s : State) (starts present : Bool) (w : Write) : Result :=
  if !starts then .next s
  else if !present then .next (s.emit (.done stNotInRole))
  else .next ((w s).2.emit (.done (w s).1))

/-- A register write that Thoka carries out (R390, R404). -/
def State.byWrite (s : State) (present : Bool) (w : Write) : Result := s.written s.takesWrites present w

end Sys2Proof.Machine
end

