-- ==== Sys2Proof/Machine/GateOps.lean ====
section
/-! DEFINITION. Shared operations of the power stage that may raise faults: the leg interlock, state changes, trips,
the bypass, and the checks of group 3. -/

namespace Sys2Proof.Machine

/-- Whether channel `n` is on at cycle `t`, from its commanded state and its due symbols. -/
def State.onAt (s : State) (n t : Nat) : Bool :=
  (s.chan n).due.foldl (fun b e => if e.1 ≤ t then e.2 = .on else b) (s.on (GS_CH_STAT_ON n))

/-- The other switch of a leg (R148). -/
def partner (n : Nat) : Nat := if n % 2 = 0 then n + 1 else n - 1

/-- The upper switch of the leg of channel `n`. -/
def upper (n : Nat) : Nat := n / 2 * 2

/-- A refused leg: OFF to both switches that are not in SOFTOFF, ILK_CNT, source 108 (R163). -/
def State.refuseLeg (s : State) (n : Nat) : State :=
  let s1 := (s.offChan true (upper n)).offChan true (upper n + 1)
  ((({ s1 with gs := { s1.gs with refusedLeg := addOnce s1.gs.refusedLeg (upper n) } })).count
    (GS_CH_ILK_CNT (upper n))).raise 108

/-- An ON is scheduled for channel `n` at cycle `t`, unless the interlock refuses the leg: the other switch would be on
at the effective instant (R150, R163). -/
def State.turnOn (s : State) (n t : Nat) : State :=
  if s.onAt (partner n) (s.gridPoint t) then s.refuseLeg n
  else ({ s with gs := { s.gs with refusedLeg := s.gs.refusedLeg.filter (· ≠ upper n) } }).schedule n t .on

/-- An OFF is scheduled for channel `n` at cycle `t`. -/
def State.turnOff (s : State) (n t : Nat) : State := if (s.chan n).soft then s else s.schedule n t .off

/-- A channel that follows the schedule: not manual, and READY (R169, R184). -/
def State.follows (s : State) (n : Nat) : Bool := !s.on (GS_CH_CTRL_MAN n) && s.get (GS_CH_STAT_PSTATE n) = 1

/-- The change of cell state at cycle `t` (R149): OFF first, then ON after the dead time. -/
def State.makeCell (s : State) (c : Cell) (t : Nat) : State :=
  let old := s.cell
  let offs := s.usedCh.filter fun n => s.cellOn old n && !s.cellOn c n && s.follows n
  let ons := s.usedCh.filter fun n => !s.cellOn old n && s.cellOn c n && s.follows n
  let s1 := offs.foldl (fun s n => s.turnOff n t) s
  let s2 := ons.foldl (fun s n => s.turnOn n (t + s.dt)) s1
  s2.put GS_STAT_CELL c.code

/-- A change from `o` to `c` over `interval` cycles would make an on-pulse shorter than MINP (R164). -/
def State.tooShort (s : State) (o c : Cell) (interval : Nat) : Bool :=
  c ≠ .off && s.usedCh.any (fun n => !s.cellOn o n && s.cellOn c n) && interval < s.dt + s.minp

/-- The counter of a suppressed change (R164). -/
def State.countSupp (s : State) (c : Cell) : State :=
  let offs := s.usedCh.filter fun n => s.cellOn s.cell n && !s.cellOn c n
  let ons := s.usedCh.filter fun n => !s.cellOn s.cell n && s.cellOn c n
  match c, offs, ons with
  | .bypassed, n :: _, _ => s.count (GS_CH_SUPP_GAP n)
  | _, _, n :: _ => s.count (GS_CH_SUPP_ON n)
  | _, _, _ => s

/-- A scheduled change of cell state at cycle `t` for the interval that follows (R149, R164); the truth value says
whether the Stake is in the wanted state afterwards. -/
def State.changeCell (s : State) (c : Cell) (t interval : Nat) : Bool × State :=
  if s.cell = c then (true, s)
  else if s.tooShort s.cell c interval then (false, s.countSupp c)
  else (true, s.makeCell c t)

/-- The protection state after a trip or feedback fault of channel `n` (R169). -/
def State.tripState (s : State) (n : Nat) : State :=
  let used := s.get (GS_CH_STAT_TRIES_USED n)
  if used < s.cfg GS_PROT0_TRIES then
    (((s.put (GS_CH_STAT_PSTATE n) 2).put (GS_CH_STAT_TRIES_USED n) (used + 1)).updPblk).raise (96 + n)
  else ((s.put (GS_CH_STAT_PSTATE n) 3).updPblk).raise (100 + n)

/-- The Stake is power-stage blocked from a trip on; its other switches go Off at the next apply instant (R167). -/
def State.blockAtApply (s : State) : State := { s with gs := { s.gs with offAtApply := true, needEntry := true } }

/-- A desaturation trip of channel `n` (R166, R167, R169). -/
def State.trip (s : State) (n : Nat) : State :=
  (((s.sendNow n .softoff).count (GS_CH_TRIP_CNT n)).tripState n).blockAtApply

/-- A feedback fault of a READY channel (R170), handled as a trip. An ON that is still to come is given up: the channel is
held off (R169). -/
def State.feedbackFault (s : State) (n : Nat) : State :=
  if s.get (GS_CH_STAT_PSTATE n) = 1 ∧ s.isUsed n then
    let s1 := if s.on (GS_CH_STAT_ON n) then s.sendNow n .softoff
      else if (s.chan n).due.any fun e => e.2 = .on then s.sendNow n .off
      else s
    (((s1.count (GS_CH_TRIP_CNT n)).tripState n).blockAtApply).raise (104 + n)
  else s

/-- A code bounded to the range from MIN to MAX (R160). -/
def State.boundCode (s : State) (n v : Nat) : Nat := max (s.cfg (GS_CH_STRLIM_MIN n)) (min (s.cfg (GS_CH_STRLIM_MAX n)) v)

/-- A SETS becomes due for a strength register (R160). -/
def State.dueSets (s : State) (n reg : Nat) : State :=
  let c := s.chan n
  s.setChan n { c with setsDue := addOnce c.setsDue reg }

/-- The strength codes set to their initial values (R160). -/
def State.initCodes (s : State) (n : Nat) : State :=
  (((s.put (GS_CH_STAT_CODE_ON n) (s.boundCode n (s.cfg (GS_CH_STR_ON_INIT n)))).put
    (GS_CH_STAT_CODE_OFF n) (s.boundCode n (s.cfg (GS_CH_STR_OFF_INIT n)))).dueSets n 0).dueSets n 1

/-- Channel `n` enters NOTREADY: initial codes, all SETS to send (R160, R169). -/
def State.enterNotReady (s : State) (n : Nat) : State :=
  let s1 := (s.put (GS_CH_STAT_PSTATE n) 0).initCodes n
  (s1.setChan n { s1.chan n with setsDue := [0, 1, 2], setsSent := [] }).updPblk

/-- A channel is to be on by MAN and MAN_ON (R184). -/
def State.wantsOn (s : State) (n : Nat) : Bool := s.on (GS_CH_CTRL_MAN n) && s.on (GS_CH_CTRL_MAN_ON n) && s.isUsed n

/-- A manual channel follows MAN_ON, under interlock, protection and forced Off (R184). -/
def State.manualApply (s : State) (n : Nat) : State :=
  let want := s.on (GS_CH_CTRL_MAN_ON n)
  let t := s.symEnd n .on
  if !s.on (GS_CH_CTRL_MAN n) || !s.isUsed n || s.onAt n t = want then s
  else if want then
    if s.offCause || s.on GS_STAT_TEST_BUSY || s.get (GS_CH_STAT_PSTATE n) ≠ 1 then s else s.turnOn n t
  else if (s.chan n).soft then s
  else s.sendNow n .off

/-- A command is written to the leg of channel `n` by MAN and MAN_ON. While the leg is refused, one that would turn both switches
on is refused too, and any other ends the refusal (R163). -/
def State.manualLeg (s : State) (n : Nat) : State :=
  let u := upper n
  if s.gs.refusedLeg.contains u then
    if s.wantsOn u && s.wantsOn (u + 1) then s.refuseLeg n
    else (({ s with gs := { s.gs with refusedLeg := s.gs.refusedLeg.filter (· ≠ u) } }).manualApply u).manualApply (u + 1)
  else s.manualApply n

/-- Manual channels follow MAN_ON again where what held them off has ended; those of a refused leg stay off (R163, R184). -/
def State.refollow (s : State) : State :=
  (s.usedCh.filter fun n => !s.gs.refusedLeg.contains (upper n)).foldl State.manualApply s

/-- A NOTREADY channel becomes READY when its conditions hold (R169). -/
def State.tryReady (s : State) (n : Nat) : State :=
  if s.get (GS_CH_STAT_PSTATE n) = 0 ∧ s.on (GS_CH_STAT_LOCK n) ∧ s.on (GS_CH_STAT_SUPG n) ∧
      ¬ s.on (GS_CH_STAT_DSAT n) ∧ [0, 1, 2].all (s.chan n).setsSent.contains then
    ((s.put (GS_CH_STAT_PSTATE n) 1).updPblk).refollow
  else s

/-- The OV1 levels drive or release DCHG (R175, R180), but not under the test that holds it released (R183). -/
def State.ov1 (s : State) (v : Nat) : State :=
  if s.on GS_STAT_FIRED || (s.on GS_STAT_TEST_BUSY && s.gs.testSel = 4) then s
  else if s.cfg GS_OV1_ON_LEVEL ≤ v then
    if s.on GS_STAT_OV1_ON then s else (s.setDchg true).raise 109
  else if v ≤ s.cfg GS_OV1_OFF_LEVEL then s.setDchg false
  else s

/-- The record of source 111 of the present cycle takes a lower cause code (R179). -/
def State.lowerCause (s : State) (cause : Nat) : State :=
  { s with
    gs := { s.gs with bypCause := cause }
    fb := { s.fb with cycle := s.fb.cycle.map fun r =>
      if r.kind = 0 ∧ r.src = 111 then { r with data := r.data - s.gs.bypCause + cause } else r } }

/-- The bypass is triggered (R179): Off, DCHG, BYPF, source 111 with its cause. Nothing starts again after a firing; a trigger
in the same cycle gives its cause if that is lower (R185). -/
def State.bypass (s : State) (cause : Nat) : State :=
  if s.gs.byp = .triggered && s.gs.bypAt = s.now && (cause < s.gs.bypCause) then s.lowerCause cause
  else if s.on GS_STAT_FIRED || s.gs.mark || s.gs.byp ≠ .idle then s else
    let s1 := (s.forceOff).setDchg true
    let s2 := { s1 with gs := { s1.gs with
      byp := .triggered, bypAt := s1.now, bypCause := cause, bypf := true, mark := true, pornSinceFire := false } }
    (s2.put GS_STAT_FIRED 1).raiseWith 111 (cause + s2.gs.vcode * 2 ^ 32)

/-- The tick period in GTIME cycles that a Stake measured last, if it has measured one since PORn (R40, R174). It is measured in
1/16 ns; the checks of R174 take whole cycles, rounded down (DESIGN CHOICE, log entry 130). -/
def State.measuredP (s : State) : Option Nat := if s.tb.period16 = 0 then none else some (s.tb.period16 / 32)

/-- The checks of R174 on the values that `g` gives the configuration fields. -/
def gsCheck (g : Fld → Nat) (p : Option Nat) : Bool :=
  let dt := max (g GS_TIMING_DT) (g GS_FLOOR_DT_FLOOR)
  let minp := max (g GS_TIMING_MINP) (g GS_FLOOR_MINP_FLOOR)
  let period := match p with
    | none => true
    | some p => (2 * (dt + minp) ≤ p) &&
        (g GS_CFG_SUPPLY ≠ 1 || ((3 * p ≤ g GS_BOOT_TMAX * 500) && (g GS_BOOT_TRCH + dt ≤ p)))
  period && (g GS_OV1_OFF_LEVEL < g GS_OV1_ON_LEVEL) && (g GS_OV1_ON_LEVEL < g GS_OV2_LEVEL) &&
    (List.range 4).all fun n =>
      (g (GS_CH_STR_SOFT n) ≤ g (GS_CH_STRLIM_MIN n)) && (g (GS_CH_STRLIM_MIN n) ≤ g (GS_CH_STRLIM_MAX n))

/-- A channel that the topology no longer uses: nothing is due on it, and its pin is held low (R148). -/
def State.unuse (s : State) (n : Nat) : State :=
  (((s.setChan n {}).put (GS_CH_STAT_ON n) 0).put (GS_CH_STAT_LOCK n) 0).emit (.pin "GCMD" n false)

/-- A strobe has changed TOPO or FBPOL: channels that fall out of use; and a cell whose switches are others by the new settings
goes Off, since they are those of no cell state now (R148, log entry 101). `o` is the state before the strobe. -/
def State.topoStrobed (s o : State) : State :=
  let s1 := (o.usedCh.filter fun n => !s.isUsed n).foldl State.unuse s
  if s.usedCh.filter (s.cellOn o.cell) ≠ o.usedCh.filter (o.cellOn o.cell) then s1.forceOff else s1

/-- What a strobe of group 3 does beside moving the values: codes, SETS, channels newly in use or out of it, the pumps, and
forced Off by MAINT_BLK (R148, R160, R171, R172). `o` is the state before the strobe. -/
def State.gsStrobed (s o : State) : State :=
  let ch (s : State) (n : Nat) : State :=
    let s1 := if o.cfg (GS_CH_STR_ON_INIT n) ≠ s.cfg (GS_CH_STR_ON_INIT n) ∨
        o.cfg (GS_CH_STR_OFF_INIT n) ≠ s.cfg (GS_CH_STR_OFF_INIT n) then s.initCodes n else s
    let b1 := s1.boundCode n (s1.get (GS_CH_STAT_CODE_ON n))
    let b2 := s1.boundCode n (s1.get (GS_CH_STAT_CODE_OFF n))
    let s2 := if b1 = s1.get (GS_CH_STAT_CODE_ON n) then s1 else (s1.put (GS_CH_STAT_CODE_ON n) b1).dueSets n 0
    let s3 := if b2 = s2.get (GS_CH_STAT_CODE_OFF n) then s2 else (s2.put (GS_CH_STAT_CODE_OFF n) b2).dueSets n 1
    if o.cfg (GS_CH_STR_SOFT n) = s3.cfg (GS_CH_STR_SOFT n) then s3 else s3.dueSets n 2
  let s0 := s.usedCh.foldl (fun s n => if o.isUsed n then ch s n else s.enterNotReady n) s
  let s1 := (s0.topoStrobed o).movePumps o
  if s1.cfgOn GS_CTRL_MAINT_BLK ∧ ¬ o.cfgOn GS_CTRL_MAINT_BLK then s1.forceOff else s1.updPblk.refollow

end Sys2Proof.Machine
end

