-- ==== Sys2Proof/Machine/TwinMsg.lean ====
section
/-! DEFINITION. The messages of the Twin and Baseline links: their payloads and framing, and the order in which they go out
(R252, R364, R408). -/

namespace Sys2Proof

/-! ### Payloads (R408) -/

/-- The HEARTBEAT, 48 bytes. -/
def Heartbeat.bytes (m : Heartbeat) : List Nat :=
  le 8 m.tick ++ le 4 m.seq ++ le 4 m.epoch ++
    [m.state % 4 + 4 * (m.mode % 4) + 16 * m.m.toNat + 32 * m.pref.toNat + 64 * m.fault.toNat] ++ [0, 0, 0] ++
    le 4 m.idcrc ++ le 4 m.cfgcrc ++ List.replicate 20 0

/-- The SHARE, 8 + 2n bytes. -/
def Share.bytes (m : Share) : List Nat :=
  [m.conv % 256, m.pass % 256] ++ le 2 m.res.length ++ le 4 m.tick ++ m.res.flatMap (le 2)

/-- The DIGEST, 12 bytes. -/
def Digest.bytes (m : Digest) : List Nat := le 4 m.seq ++ le 4 m.tick ++ le 4 m.crc

/-- The summary of one arm, 9 bytes. -/
def Summary.bytes (m : Summary) : List Nat := [m.missing.toNat + 2 * m.used.toNat] ++ le 2 m.k ++ le 2 m.h ++ le 4 m.crc

/-- The SUMMARY of six arms, 58 bytes. -/
def summaryBytes (tick : Nat) (arms : List Summary) : List Nat := le 4 tick ++ arms.flatMap Summary.bytes

/-- The CONTROL, 8 bytes: tick h for KIND 1 to 3, else 0. -/
def Control.bytes (m : Control) : List Nat :=
  [m.kind % 256, 0, 0, 0] ++ le 4 (if 1 ≤ m.kind ∧ m.kind ≤ 3 then m.tick else 0)

/-- The bytes between SOF and EOF: type, 16-bit length, payload, and the CRC-32, which covers what comes before it (R252, log
entry 109). -/
def twinMessage (kind : Nat) (payload : List Nat) : List Nat :=
  let b := [kind] ++ le 2 payload.length ++ payload
  b ++ le 4 (crc32 b)

/-- The payload of TICKALIGN, 28 bytes (R364). -/
def TickAlign.bytes (m : TickAlign) : List Nat :=
  le 8 m.tick ++ le 2 m.period ++ le 8 m.sec ++ le 4 m.ofs ++ [m.depth % 256, m.aligned.toNat] ++ le 4 m.txofs

/-- The payload of VARS: tick, MASK, and a word for each bit of it, in ascending order (R364). -/
def varsBytes (tick : Nat) (words : List (Nat × Nat)) : List Nat :=
  le 4 tick ++ le 4 ((words.map fun e => 2 ^ e.1).sum) ++ words.flatMap fun e => le 4 e.2

namespace Machine

/-- Type and payload length of a message on the Twin link. R252 and R408 give no layout of STATE and SWEEP: their lengths are
those of the contents that R252 names (log entry 109). -/
def twinKind : Out → Option (Nat × Nat)
  | .heartbeat _ => some (1, 48)
  | .share m => some (2, 8 + 2 * m.res.length)
  | .digest _ => some (3, 12)
  | .summary _ _ => some (4, 58)
  | .control _ => some (5, 8)
  | .stateMsg m => some (6, min 10240 (4 + 68 * m.lines.length + 36 * m.arms.length + 2 * m.absent.length + 48 * m.og.length))
  | .sweep _ b => some (7, 4 + b.length)
  | _ => none

/-! ### The order on the link (R252) -/

/-- The message that the link sends now: one inside a 64-byte block goes on; else the one of the highest precedence, and of
those the first that waits. -/
def twinNext (l : List TwTx) : Option Nat :=
  match l.findIdx? fun m => m.sent % 64 ≠ 0 with
  | some i => some i
  | none => (List.range 8).findSome? fun k => l.findIdx? fun m => m.kind = k

/-- The messages after the link has sent `b` more bytes, in at most `fuel` pieces that do not cross a 64-byte boundary. -/
def twinServe : Nat → Nat → List TwTx → List TwTx
  | 0, _, l => l
  | fuel + 1, b, l =>
    match twinNext l with
    | none => l
    | some i =>
      match l[i]? with
      | none => l
      | some m =>
        let n := min b (min (64 - m.sent % 64) (m.len - m.sent))
        if b = 0 then l
        else twinServe fuel (b - n) (if m.len ≤ m.sent + n then l.eraseIdx i else l.set i ({ m with sent := m.sent + n } : TwTx))

/-- The link has served its messages up to now, at 0.2 ns a byte (R251). -/
def State.twinFlow (s : State) : State :=
  let l := s.tw.line
  { s with tw := { s.tw with
    lineAt := s.now
    line := twinServe ((l.map (·.len)).sum / 64 + 2 * l.length) (10 * (s.now - s.tw.lineAt)) l } }

/-- A message on the Twin link is ready to be sent: it waits for messages of its own type or of a higher one, and pre-empts
others at a 64-byte boundary (R252). SOF, type, length, CRC and EOF frame its payload. -/
def State.twinSend (s : State) (o : Out) : State :=
  match twinKind o with
  | some (k, n) =>
    let s1 := s.twinFlow
    ({ s1 with tw := { s1.tw with line := s1.tw.line ++ [{ kind := k, len := n + 9, sent := 0 }] } } : State).emit o
  | none => s

/-! ### Baseline links (R364) -/

/-- A message of type 0x10 + `kind` is ready on Baseline link `d`, at 0.4 ns a byte (R362): it waits and pre-empts as on the Twin
link. SOF and EOF enclose it. -/
def State.baseSend (s : State) (d kind : Nat) (payload : List Nat) (o : Out) : State :=
  let n := (twinMessage (0x10 + kind) payload).length
  let k := (kget s.cl.lines d).getD {}
  let l := twinServe ((k.waiting.map (·.len)).sum / 64 + 2 * k.waiting.length) (5 * (s.now - k.upTo)) k.waiting
  ({ s with cl := { s.cl with
    lines := kset s.cl.lines d { waiting := l ++ [{ kind := kind, len := n + 2, sent := 0 }], upTo := s.now } } } : State).emit o

end Machine

end Sys2Proof
end

