-- ==== Sys2Proof/Machine/Packets.lean ====
section
/-! DEFINITION. Request packets, replies and MGMT messages as bytes (R332, R364). -/

namespace Sys2Proof

/-- Bytes 0 to 11 of a request (R332). -/
def Packet.head (k : Packet) : List Nat :=
  le 2 k.opcode ++ le 2 k.tag ++ le 2 k.len ++ le 2 k.flags ++ le 2 k.txid ++ [0, 0]

/-- The whole packet. -/
def Packet.bytes (k : Packet) : List Nat := k.head ++ le 4 k.pcrc ++ k.params

/-- The packet with the PCRC of its content (R332). -/
def Packet.sealed (k : Packet) : Packet := { k with pcrc := crc32 (k.head ++ k.params) }

/-- The first check of R339: PCRC passes, and LEN agrees with the packet. -/
def Packet.ok (k : Packet) : Bool :=
  k.pcrc = crc32 (k.head ++ k.params) && k.len = k.params.length && k.len % 4 = 0 && (k.len ≤ 16368)

/-- The request packet that bytes hold. -/
def Packet.ofBytes (b : List Nat) : Packet :=
  { opcode := ofLe (slice b 0 2), tag := ofLe (slice b 2 2), len := ofLe (slice b 4 2), flags := ofLe (slice b 6 2)
    txid := ofLe (slice b 8 2), params := b.drop 16, pcrc := ofLe (slice b 12 4) }

/-- A request packet with an opcode, a TAG and parameters. -/
def Packet.make (opcode tag : Nat) (params : List Nat) : Packet :=
  Packet.sealed { opcode := opcode, tag := tag, len := params.length, flags := 0, txid := 0, params := params, pcrc := 0 }

/-- The opcode of an adoption or confirmation as a Datum relays it to a Stake (R354, R355), which R338 does not list (DESIGN CHOICE,
log entry 51). -/
def adoptOpcode : Nat := 0x0812

/-- Bytes 0 to 5 of a reply (R332). -/
def Reply.head (r : Reply) : List Nat := le 2 r.tag ++ [r.status, r.rflags] ++ le 2 r.data.length

/-- The reply with the RCRC of its content (R332). -/
def Reply.sealed (r : Reply) : Reply := { r with rcrc := crc16 (r.head ++ r.data) }

/-- RCRC passes. -/
def Reply.ok (r : Reply) : Bool := r.rcrc = crc16 (r.head ++ r.data)

/-- The whole reply. -/
def Reply.bytes (r : Reply) : List Nat := r.head ++ le 2 r.rcrc ++ r.data

/-- The reply that bytes hold. -/
def Reply.ofBytes (b : List Nat) : Reply :=
  { tag := ofLe (slice b 0 2), status := b.getD 2 0, rflags := b.getD 3 0
    data := slice b 8 (ofLe (slice b 4 2)), rcrc := ofLe (slice b 6 2) }

/-- The payload of a MGMT message (R364). -/
def MgmtMsg.bytes (m : MgmtMsg) : List Nat :=
  [m.entry, m.dest, 0, 0] ++ le 20 m.key ++
    match m.body with
    | .request k => k.bytes
    | .reply r => r.bytes

end Sys2Proof
end

