-- ==== Sys2Proof/Machine/Symbols.lean ====
section
/-! DEFINITION. The symbols of Traverse: control symbols, training sequence, ordered sets, urgent pairs, frames, and the
pseudo-random patterns of the test features (R61, R72, R73, R80, R82, R90, R94). -/

namespace Sys2Proof.Machine

/-! ### Symbols -/

/-- The control symbols of R61. -/
inductive Ctl where
  | sof
  | idle
  | eof
  | block
  | tickmark
  | da
  | dm
  | cap
  | ts
  | err
deriving DecidableEq, Repr

/-- The code Kx.y of a control symbol, as x and y (R61). -/
def ctlCode : Ctl → Nat × Nat
  | .sof => (28, 5)
  | .idle => (28, 1)
  | .eof => (29, 7)
  | .block => (28, 2)
  | .tickmark => (28, 3)
  | .da => (28, 4)
  | .dm => (28, 6)
  | .cap => (27, 7)
  | .ts => (28, 0)
  | .err => (30, 7)

/-- The byte value of a control symbol: x in bits 4:0 and y in bits 7:5 (R61). -/
def ctlByte (c : Ctl) : Nat := (ctlCode c).1 + 32 * (ctlCode c).2

/-- One symbol of the stream: a control symbol, or a byte. -/
inductive Symbol where
  | ctl (c : Ctl)
  | data (b : Nat)
deriving DecidableEq, Repr

/-- An ordered set: its control symbol, then bytes. -/
def orderedSet (c : Ctl) (bs : List Nat) : List Symbol := .ctl c :: bs.map Symbol.data

/-- A training sequence: K28.5, K28.0, and 14 symbols of D10.2 (R72). -/
def trainingSeq : List Symbol := [.ctl .sof, .ctl .ts] ++ List.replicate 14 (.data 0x4A)

/-- An urgent pair (R62). -/
def urgentPair (c : Ctl) : List Symbol := [.ctl c, .ctl c]

/-- The bytes of a frame between SOF and EOF, in the order of R94. -/
def frameBytes (f : Frame) : List Nat :=
  f.hdr.bytes ++ le 4 f.hdr.hcrc ++ (f.arms.flatMap fun e => e.bytes ++ le 4 e.acrc) ++
    f.pduX.bytes ++ le 4 f.pduX.scrc ++ f.pduY.bytes ++ le 4 f.pduY.scrc ++
    f.mgmt.bytes f.m ++ le 4 f.mgmt.mcrc ++ f.slots.flatMap TeleSlot.all ++
    le 2 f.wcount ++ List.replicate 10 0 ++ le 4 f.rcrc

/-- The symbols that something put on a link consists of. For STATE and SWEEP no layout is given (R408). -/
def outSymbols : Out → List Symbol
  | .frame _ f => orderedSet .sof (frameBytes f) ++ [.ctl .eof]
  | .blockPair _ => urgentPair .block
  | .tickmark _ => urgentPair .tickmark
  | .cap _ c => orderedSet .cap (c.bytes ++ le 2 c.crc)
  | .dm _ d => orderedSet .dm (d.bytes ++ [d.crc])
  | .da _ (some d) => orderedSet .da (d.bytes ++ [d.crc])
  | .da _ none => List.replicate 22 (.ctl .idle)
  | .err _ true => [.ctl .err, .ctl .eof]
  | .err _ false => [.ctl .err]
  | .heartbeat m => orderedSet .sof (twinMessage 1 m.bytes) ++ [.ctl .eof]
  | .share m => orderedSet .sof (twinMessage 2 m.bytes) ++ [.ctl .eof]
  | .digest m => orderedSet .sof (twinMessage 3 m.bytes) ++ [.ctl .eof]
  | .summary t l => orderedSet .sof (twinMessage 4 (summaryBytes t l)) ++ [.ctl .eof]
  | .control m => orderedSet .sof (twinMessage 5 m.bytes) ++ [.ctl .eof]
  | .tickAlign _ m => orderedSet .sof (twinMessage 0x11 m.bytes) ++ [.ctl .eof]
  | .vars _ t l => orderedSet .sof (twinMessage 0x12 (varsBytes t l)) ++ [.ctl .eof]
  | .mgmt _ m => orderedSet .sof (twinMessage 0x13 m.bytes) ++ [.ctl .eof]
  | _ => []

/-- What a transmitter repeats between the sets, frames and pairs that it sends (R70, R72). -/
def fillSymbols : TxKind → List Symbol
  | .training => trainingSeq
  | .idle => [.ctl .idle]
  | .caps => List.replicate 4 (.ctl .idle)
  | .request => List.replicate 4 (.ctl .idle)
  | .measuring => [.ctl .idle]
  | .service => [.ctl .idle]
  | _ => []

/-! ### Pseudo-random patterns (R90) -/

/-- The exponents n and t of the polynomial x^n + x^t + 1 that a value of GEN or CHK selects. -/
def prbsPoly : Nat → Option (Nat × Nat)
  | 1 => some (7, 6)
  | 2 => some (15, 14)
  | 3 => some (31, 28)
  | _ => none

/-- The next bit of the pattern of x^n + x^t + 1 after the bits `h`, newest first. -/
def prbsNext (n t : Nat) (h : List Bool) : Bool := xor (h.getD (n - 1) false) (h.getD (t - 1) false)

/-- The last `n` bits after `k` more, newest first. -/
def prbsRun (n t : Nat) (h : List Bool) (k : Nat) : List Bool := iter (fun h => (prbsNext n t h :: h).take n) k h

end Sys2Proof.Machine
end

