-- ==== Sys2Proof/Machine/Timebase.lean ====
section
/-! DEFINITION. Ticks, tick recovery and station time (02_tick_and_time.md). -/

namespace Sys2Proof.Machine

/-! ### The tick of a Datum -/

/-- The anchor registers in ns of station time (R31). -/
def State.anchorRegs (s : State) : Nat × Nat × Nat :=
  (s.cfg TB_EPOCH_SEC_LO_SEC + 2 ^ 32 * s.cfg TB_EPOCH_SEC_HI_SEC, s.cfg TB_EPOCH_OFS_OFS,
    s.cfg TB_TICK_BASE_LO_K0 + 2 ^ 32 * s.cfg TB_TICK_BASE_HI_K0)

/-- The anchor in force, in ns of station time (R31). -/
def TbSt.anchorNs (t : TbSt) : Nat := t.anchorSec * 1000000000 + t.anchorOfs * 2

/-- A tick number as 64 bits. -/
def tick64 (k : Int) : Nat := ofSigned 64 k

/-- The cycle, at or after `now`, in which station time reaches `x` ns. -/
def State.cycleOf (s : State) (x : Int) : Nat := s.now + ((x - s.time.total + 1) / 2).toNat

/-- The device takes its tick from another Datum: a follower of its cluster (R43), or the benchmark of board B while
its Twin link is in ACTIVE (R44). -/
def State.followsTick (s : State) : Bool := s.clpos ≠ 0 || (s.board = 1 && s.get TW_STAT_LSTATE = 6)

/-- The first tick on the grid of the anchor in force, at least 2 us away (R32). -/
def State.placeFirst (s : State) : State :=
  let p := s.tb.period
  let j := gridUp s.tb.anchorNs (2 * p) (s.time.total + 2000)
  { s with tb := { s.tb with
      placed := true, nextTick := tick64 (s.tb.anchorK + j), nextStart := s.cycleOf (s.tb.anchorNs + j * (2 * p))
      nextSub := 0 } }

/-- A strobe that sets TICK_EN starts the tick (R32, R56): it takes period and anchor from the registers and schedules the
first tick. A Datum that takes its tick from another one waits for that (R366), with the period and anchor it has from its
benchmark, if it has them (R43). The first frame carries no decision. -/
def State.tickEnable (s0 : State) : State :=
  let a := s0.anchorRegs
  let g := match s0.cl.grid with
    | some g => if s0.clpos = 0 then (s0.cfg TB_PERIOD_PERIOD, a.1, a.2.1) else g
    | none => (s0.cfg TB_PERIOD_PERIOD, a.1, a.2.1)
  let s := ({ s0 with
    frm := { s0.frm with nextArms := [] }
    tb := { s0.tb with
      period := g.1, anchorSec := g.2.1, anchorOfs := g.2.2, anchorK := a.2.2, placed := false, endTick := false
      change := false, newAnchor := none, newGrid := false, markDue := false } }).put TB_STAT_TICK_RUN 1
  if s.followsTick then s else s.placeFirst

/-- The Datum has lost the one it took its tick from, before it had a tick: it ticks on its own station time (R44). -/
def State.ownTick (s : State) : State :=
  if s.on TB_STAT_TICK_RUN && !s.tb.placed && !s.followsTick then s.placeFirst else s

/-- No tick runs any more (R32): a BLOCK pair that waited for its frames leaves. -/
def State.tickStop (s : State) : State :=
  let s1 := ({ s with tb := { s.tb with started := false, endTick := false, placed := false, held := false } }).put
    TB_STAT_TICK_RUN 0
  if s.tb.held then s1.sendBlocks else s1

/-- A strobe that clears TICK_EN lets the tick in progress end (R32). -/
def State.tickDisable (s : State) : State :=
  if s.tb.started then { s with tb := { s.tb with endTick := true } } else s.tickStop

/-- A new anchor takes effect (R33). -/
def TbSt.takeAnchor (t : TbSt) : TbSt :=
  match t.newAnchor with
  | some a => { t with anchorSec := a.1, anchorOfs := a.2.1, anchorK := a.2.2, newAnchor := none }
  | none => t

/-- The tick after a change of period or anchor begins at the first instant of the new grid that is no earlier than
t(k) plus the new P (R33). A tick that starts in the first cycle after t(k) has t(k) at the even nanosecond below. -/
def State.placeNext (s : State) : State :=
  if s.tb.change then
    let tb := s.tb.takeAnchor
    let j := gridUp tb.anchorNs (2 * tb.period) ((tb.tickTime.total / 2 * 2 + 2 * tb.period : Nat) : Int)
    let x : Int := tb.anchorNs + j * (2 * tb.period)
    { s with tb := { tb with
        change := false, newGrid := true, nextTick := (tb.tick + 1) % 2 ^ 64, nextSub := 0
        nextStart := tb.tickStart + ((x - tb.tickTime.total + 1) / 2).toNat } }
  else { s with tb := { s.tb with nextTick := (s.tb.tick + 1) % 2 ^ 64, nextStart := s.tb.tickStart + s.tb.period } }

/-- A period, and an anchor if one is given, that take effect at the next tick start, or at this one if `here` (R33). -/
def State.changeGrid (s : State) (period : Nat) (anchor : Option (Nat × Nat × Nat)) (here : Bool) : State :=
  let s1 : State := { s with tb := { s.tb with
    change := true, period := period, newAnchor := if anchor.isSome then anchor else s.tb.newAnchor } }
  if here then s1.placeNext else s1

/-- A strobe that changes the period or the anchor while ticks run (R33): at the next tick start, or at this one if
the strobe falls on it. `o` is the state before the strobe. A follower keeps the period and anchor of its benchmark
(R43). -/
def State.tickChange (s o : State) : State :=
  let newAnchor := s.anchorRegs ≠ o.anchorRegs
  let newPeriod := s.cfg TB_PERIOD_PERIOD ≠ o.cfg TB_PERIOD_PERIOD
  if s.role = .datum && s.on TB_STAT_TICK_RUN && s.clpos = 0 && (newAnchor || newPeriod) then
    if s.tb.started || s.tb.placed then
      s.changeGrid (s.cfg TB_PERIOD_PERIOD) (if newAnchor then some s.anchorRegs else none)
        (s.tb.started && s.now = s.tb.tickStart)
    else
      let a := s.anchorRegs
      { s with tb := { s.tb with
        period := s.cfg TB_PERIOD_PERIOD, anchorSec := a.1, anchorOfs := a.2.1, anchorK := a.2.2 } }
  else s

/-- The tick-mode instants of the tick that begins are all to be made (R54). -/
def State.tevTick (s : State) : State := { s with tev := s.tev.map fun e => (e.1, { e.2 with made := false }) }

/-- The tick of a Datum begins, or the last one ends (R31 to R34): after a change of period or anchor the anchor is
re-based, and TICKMARK precedes the frames; so it does after a new phase. -/
def State.tickBegin (s0 : State) : State :=
  let s := s0.advance s0.tb.nextStart
  if s.tb.endTick then s.tickStop
  else
    let fresh := s.tb.newGrid
    let tb := { s.tb with
      tick := s.tb.nextTick, tickStart := s.tb.nextStart, tickTime := s.time, started := true, newGrid := false
      sub := s.tb.nextSub, mark := fresh || s.tb.markDue, markDue := false, sofDue := some s.tb.held, held := false
      sampled := false, cutDone := false
      anchorSec := if fresh then s.time.sec else s.tb.anchorSec
      anchorOfs := if fresh then s.time.ns / 2 else s.tb.anchorOfs
      anchorK := if fresh then s.tb.nextTick else s.tb.anchorK }
    ({ s with tb := tb }).placeNext.tevTick

/-! ### The checks of R36 -/

/-- The conditions of R54 on time-event unit `n` for tick period `p`. -/
def tevCheck (g : Fld → Nat) (p n : Nat) : Bool :=
  g (TEV_CTRL_EN n) ≠ 1 ||
    ((1 ≤ g (TEV_WID_VAL n)) && (g (TEV_PER_VAL n) = 0 || g (TEV_WID_VAL n) < g (TEV_PER_VAL n)) &&
      (g (TEV_CTRL_MODE n) ≠ 1 || g (TEV_NS_VAL n) + g (TEV_WID_VAL n) < p))

/-- The checks of R36 on the values that `g` gives the configuration fields; `line` is the frame line time in
cycles, rounded up. -/
def tbCheck (g : Fld → Nat) (line : Nat) : Bool :=
  let p := g TB_PERIOD_PERIOD
  let l := g TB_CUTOFF_LEAD
  (line + 100 ≤ p) && (100 ≤ l) && (2 * l ≤ p) && (g TB_SAMPLE_S + 50 + l ≤ p) &&
    ((List.range 6).all fun n => (50 ≤ g (TB_APPLY_A n)) && (g (TB_APPLY_A n) + 50 ≤ p)) &&
    (List.range 4).all (tevCheck g p)

/-! ### Tick recovery -/

/-- The timing port of a Stake (R15). -/
def State.timingPort (s : State) : Nat := if s.tb.timing1 then 1 else 0

/-- Parts of 1/16 ns in which recovered tick starts are kept: every number up to 16 divides it (R83). -/
def fine : Nat := 720720

/-- The unrounded mean of R83 in parts of 1/16 ns. -/
def State.chainDly (s : State) (q : Nat) : Nat :=
  let v := (s.link q).daVals
  v.sum * (fine / v.length)

/-- TICK_LOCK falls to 0: source 16 is raised (R40), the Stake blocks (R281) and the frame it acted on is forgotten (R117). -/
def State.loseLock (s : State) : State :=
  if s.on TB_STAT_TICK_LOCK then
    let tb := { s.tb with
      started := false, havePeriod := false, periodWait := none, lockOnMark := false, lastComma := none, holdRun := 0
      past := [], rejRun := 0, commaInTick := false, announce := s.tb.announce.map fun a => { a with start := none } }
    ((({ s with tb := tb, frm := { s.frm with actedValid := false } }).put TB_STAT_TICK_LOCK 0).raise 16).blockStake true true [SF_SCAUSE_LOCK]
  else s

/-- A comma that is not accepted for timing (R39). -/
def State.rejectComma (s : State) : State :=
  ({ s with tb := { s.tb with rejRun := s.tb.rejRun + 1 } }).count TB_TPHASE_ERR

/-- The 64-bit tick number nearest the count `c` with low word `r`; of two equally near, the older (R41). -/
def extendTick (c r : Nat) : Nat :=
  let d := (r % 2 ^ 32 + 2 ^ 32 - c % 2 ^ 32) % 2 ^ 32
  if d < 2 ^ 31 then (c + d) % 2 ^ 64 else (c + d + 2 ^ 64 - 2 ^ 32) % 2 ^ 64

/-- Station time of the tick start as the running count gives it. -/
def State.countedStart (s : State) : State :=
  { s with tb := { s.tb with tickTime := s.time.subFrac (2 * (s.now - s.tb.tickStart) * 65536) } }

/-- An announcement with the tick start that it names where this Stake has it: that of the present tick, less the ticks since
then at the measured period. Until it can be placed there is none (R49, log entry 91). -/
def State.announceStart (s : State) (a : Announce) : Option Announce :=
  let d := toSigned 64 ((s.tb.tick + 2 ^ 64 - a.tick % 2 ^ 64) % 2 ^ 64)
  if a.start.isSome then some a
  else if d = 0 || s.tb.havePeriod then some { a with start := some ((s.tb.recd : Int) - d * (s.tb.period16 * fine : Nat)) }
  else none

/-- Station time set at a recovered tick start from the latest announcement (R49): its time, and the time from the tick start
that it names to this one. -/
def State.setStakeTime (s : State) : State :=
  match s.tb.announce.bind s.announceStart with
  | none => s.countedStart
  | some a =>
    let v := ((a.sec * 1000000000 + a.ns : Nat) : Int) * 65536 + a.frac + ((s.tb.recd : Int) - a.start.getD 0) * 4096 / fine
    let t : Time := { Time.ofTotal (v.toNat / 65536) with frac := v.toNat % 65536 }
    { s with time := t.addNs (2 * (s.now - s.tb.tickStart)), tb := { s.tb with tickTime := t, announce := some a } }

/-- The cycle in which a recovered tick start lies, and the steps of 0.25 ns of the phase interpolator from there to it
(R38). -/
def placeStart (rs : Nat) : Nat × Nat := (rs / (32 * fine), rs / (4 * fine) % 8)

/-- An instant `d` cycles after the recovered tick start `rs` lies at or before the moment at which a comma that arrived at
`at'` is accepted, 53 ns later (R405). -/
def pastAccept (rs at' d : Nat) : Bool := rs + 32 * fine * d ≤ (at' + 848) * fine

/-- Tick-mode instants of time-event units that have passed when the tick start moves are not made (R405). -/
def State.tevPast (s : State) (rs at' : Nat) : State :=
  (List.range 4).foldl (fun s n =>
    if s.cfgOn (TEV_CTRL_EN n) && s.cfgOn (TEV_CTRL_MODE n) && pastAccept rs at' (s.cfg (TEV_NS_VAL n)) then
      s.setTev n { s.tevSt n with made := true }
    else s) s

/-- A Stake goes on to tick `k`: what it has made of this tick is kept, and what it made of tick `k` on an earlier prediction
stands (R405). A period grows 40 times at most (R36), so that 64 ticks are enough. -/
def State.turnTick (s : State) (k : Nat) : State :=
  let mine : TickMade :=
    { tick := s.tb.tick, sampled := s.tb.sampled, applied := s.tb.applied, tev := (s.tev.filter (·.2.made)).map (·.1) }
  let past := if s.tb.started then (mine :: s.tb.past).take 64 else s.tb.past
  let m := past.find? (·.tick = k)
  { s with
    tb := { s.tb with past := past, tick := k, sampled := m.any (·.sampled), applied := m.any (·.applied) }
    tev := s.tev.map fun e => (e.1, { e.2 with made := m.any (·.tev.contains e.1) }) }

/-- The tick start moves on an accepted comma (R405): instants not yet made are placed on the new tick start, and one
that lies at or before the moment of acceptance is not made. -/
def State.moveTick (s0 : State) (at' rs tick : Nat) : State :=
  let s := if tick ≠ s0.tb.tick || !s0.tb.started then s0.turnTick tick else s0
  let tb := { s.tb with
    tick := tick, tickStart := (placeStart rs).1, phase := (placeStart rs).2, base := rs, recd := rs, started := true
    commaInTick := true, holdRun := 0, rejRun := 0
    sampled := s.tb.sampled || pastAccept rs at' (s.cfg TB_SAMPLE_S) }
  (({ s with tb := tb }).setStakeTime).tevPast rs at'

/-- The Stake acquires tick lock (R40); without an announcement station time counts from zero (R49). -/
def State.acquire (s : State) (at' rs tick : Nat) : State :=
  let s1 := if s.tb.announce.isNone then { s with time := {} } else s
  ((({ s1 with tb := { s1.tb with
    timeRuns := true, lockedAt := if s.tb.timeRuns then s.tb.lockedAt else s.now, started := false } }).put TB_STAT_TICK_LOCK 1).moveTick at' rs
    (extendTick s1.tb.tick tick))

/-- A spacing of 1250 to 50,000 cycles (R40). -/
def spacingOk (d : Nat) : Bool := 1250 * 32 ≤ d && d ≤ 50000 * 32

/-- A comma within 16 ns of the prediction is accepted, any other rejected (R39). -/
def State.regularComma (s : State) (rs tick : Nat) : State :=
  if (rs - s.tb.base) + (s.tb.base - rs) ≤ 256 * fine then
    { s with tb := { s.tb with
    recd := rs, tick := extendTick s.tb.tick tick, commaInTick := true, holdRun := 0, rejRun := 0 } }
  else s.rejectComma

/-- The station time at which the first symbol of an accepted TICKMARK pair arrived, two symbols of 1.6 ns before its comma
at `at'`, is kept for reading (R50, log entry 12). -/
def State.noteMark (s : State) (at' : Nat) : State :=
  { s with tb := { s.tb with
    tmarkTime := some ((s.tb.tickTime.addFrac ((at' - 32 * s.tb.tickStart) * 4096)).subFrac 209715) } }

/-- A comma that TICKMARK precedes directly re-phases a locked Stake and opens the wait for a period frame (R39, R40). -/
def State.markComma (s : State) (at' rs tick : Nat) : State :=
  let s1 : State := { s with tb := { s.tb with periodWait := some (at', tick) } }
  (s1.moveTick at' rs (extendTick s1.tb.tick tick)).noteMark at'

/-- Lock on a comma that TICKMARK precedes directly: the period comes later (R40). -/
def State.lockOnMark (s : State) (at' rs tick : Nat) : State :=
  let s1 : State := { s with tb := { s.tb with
    havePeriod := false, lockOnMark := true, periodWait := some (at', tick), lastComma := none } }
  (s1.acquire at' rs tick).noteMark at'

/-- A comma that TICKMARK precedes directly may also be that of the period frame of an earlier TICKMARK frame at `r0` with tick
`k0`: then it gives the measured period. If it fails the conditions, a Stake that locked on the earlier one acquires again
on this one (R40). -/
def State.markedPeriod (s : State) (r0 k0 at' rs tick : Nat) : State :=
  if tick = (k0 + 1) % 2 ^ 32 && spacingOk (at' - r0) then
    let s1 : State := { s with tb := { s.tb with period16 := at' - r0, havePeriod := true, lockOnMark := false } }
    s1.markComma at' rs tick
  else if s.tb.lockOnMark then ((s.count TB_TPHASE_ERR).loseLock).lockOnMark at' rs tick
  else s.markComma at' rs tick

/-- A comma that TICKMARK precedes directly at a locked Stake (R39, R40). -/
def State.lockedMark (s : State) (at' rs tick : Nat) : State :=
  match s.tb.periodWait with
  | some (r0, k0) =>
    if at' - r0 ≤ 50000 * 32 + 256 then s.markedPeriod r0 k0 at' rs tick else s.markComma at' rs tick
  | none => s.markComma at' rs tick

/-- The comma of the frame after a TICKMARK comma that arrived at `r0` with tick `k0`: a period frame, or one that fails its
conditions (R40). -/
def State.periodComma (s : State) (r0 k0 at' rs tick : Nat) : State :=
  let s1 : State := { s with tb := { s.tb with periodWait := none } }
  if tick = (k0 + 1) % 2 ^ 32 && spacingOk (at' - r0) then
    let s2 : State := { s1 with tb := { s1.tb with period16 := at' - r0, havePeriod := true, lockOnMark := false } }
    s2.moveTick at' rs (extendTick s1.tb.tick tick)
  else if s.tb.lockOnMark then
    let s2 := (s1.count TB_TPHASE_ERR).loseLock
    { s2 with tb := { s2.tb with lastComma := some (at', tick) } }
  else s1.rejectComma

/-- A comma with a valid header at a locked Stake (R39, R40). -/
def State.lockedComma (s : State) (at' rs tick : Nat) : State :=
  match s.tb.periodWait with
  | some (r0, k0) =>
    if at' - r0 ≤ 50000 * 32 + 256 then s.periodComma r0 k0 at' rs tick else s.regularComma rs tick
  | none => s.regularComma rs tick

/-- A comma with a valid header at a Stake without lock: the second of two consecutive frames locks (R40). -/
def State.freeComma (s : State) (at' rs tick : Nat) : State :=
  let wait : State := { s with tb := { s.tb with lastComma := some (at', tick) } }
  match s.tb.lastComma with
  | some (r0, k0) =>
    if tick = (k0 + 1) % 2 ^ 32 && spacingOk (at' - r0) then
      let s1 : State := { s with tb := { s.tb with
        havePeriod := true, period16 := at' - r0, lockOnMark := false, periodWait := none, lastComma := none } }
      s1.acquire at' rs tick
    else wait
  | none => wait

/-- A TICKMARK pair precedes the comma that arrives on port `q` at `at'` directly: its first symbol came two symbols of
1.6 ns earlier, in 1/16 ns (R39). -/
def State.marked (s : State) (q at' : Nat) : Bool :=
  match kget s.tb.tmark q with
  | some m => (m < at') && at' - m ≤ 53
  | none => false

/-- The comma of a frame on the timing port (R39, R40): `at'` is its arrival in 1/16 ns, `ok` whether the header CRC
passes. While DLY_VALID of the port is 0 the comma is not taken (R84). -/
def State.comma (s : State) (at' tick : Nat) (ok : Bool) : State :=
  let rs := at' * fine - s.chainDly s.timingPort
  let mark := s.marked s.timingPort at'
  if !s.on (TRV_STAT_DLY_VALID s.timingPort) then s
  else if s.on TB_STAT_TICK_LOCK then
    if !ok then s.rejectComma else if mark then s.lockedMark at' rs tick else s.lockedComma at' rs tick
  else if !ok then { s with tb := { s.tb with lastComma := none } }
  else if mark then s.lockOnMark at' rs tick
  else s.freeComma at' rs tick

/-- A predicted tick start (R38, R405): a tick without an accepted comma was a holdover tick (R40). -/
def State.predictTick (s0 : State) : State :=
  let held := !s0.tb.commaInTick
  let start := s0.tb.recd + s0.tb.period16 * fine
  let s1 := s0.advance (start / (32 * fine))
  let s2 := (if held then s1.count TB_HOLDOVER else s1).turnTick ((s1.tb.tick + 1) % 2 ^ 64)
  let tb := { s2.tb with
    tickStart := (placeStart start).1, phase := (placeStart start).2, base := start
    recd := start, commaInTick := false
    holdRun := if held then s2.tb.holdRun + 1 else s2.tb.holdRun }
  ({ s2 with tb := tb }).setStakeTime

/-- A time announcement from a time slot: tick number and station time of its start (R49). -/
def State.announceTime (s : State) (sec ns frac tick : Nat) : State :=
  let a : Announce := { sec := sec, ns := ns, frac := frac, tick := tick }
  let b := if s.tb.started then (s.announceStart a).getD a else a
  ({ s with tb := { s.tb with announce := some b } }).put TB_STAT_TIME_VALID 1

/-! ### Shadow writes and the tick start -/

/-- The newest tick start that the clock has reached. -/
def State.tickReached (s : State) : Nat :=
  let next := if s.role = .datum then s.tb.nextStart else (s.tb.recd + s.tb.period16 * fine) / (32 * fine)
  let runs := if s.role = .datum then s.on TB_STAT_TICK_RUN && s.tb.placed else s.on TB_STAT_TICK_LOCK && s.tb.havePeriod
  if runs && next ≤ s.now then next else s.tb.tickStart

/-- The shadow of a configuration field set; the value that the last tick start found in it is kept (R20). -/
def State.setShadow (s : State) (f : Fld) (v : Nat) : State :=
  let known := (kget s.mg.late f.key).any fun e => s.tickReached ≤ e.1
  let late := if known then s.mg.late else kset s.mg.late f.key (s.now, s.shadow f)
  ({ s with mg := { s.mg with late := late } } : State).putShadow f v

/-! ### Commands -/

/-- CLOCK_FAULT (R16): `clk` is 1 for CORE, 2 for GTIME, 3 for LANE, 4 for SAFE. -/
def execClockFault (clk : Nat) (s : State) : Result :=
  s.inRun fun s => if 1 ≤ clk ∧ clk ≤ 4 then s.raise clk else s

/-- A tick boundary has been recovered since the timing port changed, so that GTIME moves there (R15). -/
def State.mayMove (s : State) : Bool := s.on TB_STAT_TICK_LOCK && s.tb.moveDue.any fun t => t < s.tb.tickStart

/-- GTIME_MOVE (R15): GTIME moves at a recovered tick boundary, and the change is recorded; no chapter gives the record a
detail (R302). -/
def execGtimeMove (s : State) : Result :=
  s.inStake fun s => if s.mayMove then ({ s with tb := { s.tb with moveDue := none } }).event 1 0 else s

/-- TICK_LOCK_LOSS (R39): after four consecutive rejected commas. -/
def execTickLockLoss (s : State) : Result := s.inStake fun s => if 4 ≤ s.tb.rejRun then s.loseLock else s

/-- HOLDOVER_EXPIRY (R40): after 8 holdover ticks. -/
def execHoldoverExpiry (s : State) : Result := s.inStake fun s => if 8 ≤ s.tb.holdRun then s.loseLock else s

/-- PERIOD_FRAME_TIMEOUT (R40): no period frame arrived in the time allowed. -/
def execPeriodFrameTimeout (s : State) : Result :=
  s.inStake fun s =>
    if s.tb.periodWait.isSome then
      if s.tb.lockOnMark then s.loseLock else { s with tb := { s.tb with periodWait := none } }
    else s

/-- A write of 1 to TB_CTRL.STEP (R47): seconds and nanoseconds are loaded, and the fraction, of which the rule does not speak,
becomes 0 (DESIGN CHOICE, log entry 121). -/
def wrStep : Write := fun s =>
  if s.role ≠ .datum then (stNotInRole, s)
  else if s.on TB_STAT_TICK_RUN then (stBusy, s)
  else
    (stOk, { s with time :=
      { sec := s.get TB_SET_SEC_LO_VAL + 2 ^ 32 * s.get TB_SET_SEC_HI_VAL, ns := s.get TB_SET_NS_VAL, frac := 0 } })

/-- TIME_STEP (R47). -/
def execTimeStep (s : State) : Result := s.byWrite true wrStep

/-- The trim limit in units of 2^-16 ppm (R46). -/
def State.trimLimit (s : State) : Int := (s.get TB_SLEWLIM_LIM * 65536 / 10 : Nat)

/-- The applied trim is the written one within the slew limit (R46, R56). -/
def State.applyTrim (s : State) : State :=
  let t := toSigned 32 (s.get TB_FTRIM_TRIM)
  let v := max (-s.trimLimit) (min s.trimLimit t)
  ({ s with tb := { s.tb with trimApplied := v } }).putB TB_STAT_SLEW_CLAMP (v ≠ t)

/-- A valid correction from the selected source ends the holdover of station time (R48). -/
def State.correction (s : State) (src : Nat) : State :=
  if s.cfg TB_CTRL_SRC = src then s.put TB_STAT_HOLDOVER 0 else s

/-- A write to TB_FTRIM (R46, R48). With the Twin link down, source 3 falls back to the servo. -/
def wrFtrim (v : Nat) : Write := fun s =>
  let t := toSigned 32 v
  if t < -6553600 ∨ 6553600 < t then (stBadParam, s)
  else
    let s1 := ((s.put TB_FTRIM_TRIM v).applyTrim).correction 1
    (stOk, if s1.get TW_STAT_LSTATE ≠ 6 then s1.correction 3 else s1)

/-- FTRIM_WRITE (R46). -/
def execFtrimWrite (v : Nat) (s : State) : Result := s.byWrite true (wrFtrim (v % 2 ^ 32))

/-- DISCIPLINE_HOLDOVER (R48): the selected source has given no valid correction for 2 s. -/
def execDisciplineHoldover (s : State) : Result :=
  s.inDatum fun s =>
    if s.cfg TB_CTRL_SRC ≠ 0 && !s.on TB_STAT_HOLDOVER then (s.put TB_STAT_HOLDOVER 1).raise 19 else s

/-- PTP_TX_STAMP (R51 to R53): an event message leaves Ethernet port n, `frac` units of 2^-16 ns into the present
cycle. One-step insertion is not done on UDP over IPv6. `corr` is the correctionField that the message carries, in units of
2^-16 ns: the part of the stamp below 1 ns, which originTimestamp does not hold, is added to it (log entry 92). -/
def execPtpTxStamp (n seqId msgType corr frac : Nat) (s : State) : Result :=
  s.inDatum fun s =>
    if 2 ≤ n || !s.cfgOn (PTP_CTRL_EN n) then s
    else
      let t := s.time.addFrac (frac + 4096 * s.cfg (PTP_LAT_EGRESS n))
      if s.cfgOn (PTP_CTRL_ONESTEP n) && s.cfg (PTP_CTRL_TRANSPORT n) ≠ 2 then
        s.emit (.ptpOneStep n seqId t.sec t.ns ((corr + t.frac) % 2 ^ 64) (s.cfg (PTP_CTRL_TRANSPORT n) = 1))
      else
        let q := (kget s.ptp n).getD []
        if q.length < 16 then
          { s with ptp := kset s.ptp n (q ++ [{ seqId := seqId, msgType := msgType, time := t }]) }
        else s.count (PTP_DROP n)

/-- PTP_RX_STAMP (R52, R53): a PTP packet is received at Ethernet port n. -/
def execPtpRxStamp (n frac : Nat) (s : State) : Result :=
  s.inDatum fun s =>
    if 2 ≤ n || !s.cfgOn (PTP_CTRL_EN n) then s
    else s.emit (.ptpRx n ((s.time.addFrac frac).subFrac (4096 * s.cfg (PTP_LAT_INGRESS n))))

/-- The level that TOUTn has outside a pulse, and its opposite within one (R54). -/
def State.tout (s : State) (n : Nat) (pulse : Bool) : State :=
  if s.cfgOn (TEV_CTRL_OUT_EN n) then s.emit (.pin "TOUT" n (pulse ≠ s.cfgOn (TEV_CTRL_POL n))) else s

/-- TEV_PULSE_END (R54): WID cycles after the firing. -/
def execTevPulseEnd (n : Nat) (s : State) : Result :=
  s.inRun fun s =>
    if (s.tevSt n).pulse then
      ((s.advance (s.tevSt n).endAt).setTev n { s.tevSt n with pulse := false }).tout n false
    else s

/-- The start of an absolute unit in ns of station time (R54). -/
def State.tevStartNs (s : State) (n : Nat) : Nat :=
  (s.cfg (TEV_SEC_LO_VAL n) + 2 ^ 32 * s.cfg (TEV_SEC_HI_VAL n)) * 1000000000 + s.cfg (TEV_NS_VAL n)

/-- The settings of a time-event unit. -/
def State.tevSettings (s : State) (n : Nat) : List Nat :=
  [TEV_CTRL_EN n, TEV_CTRL_MODE n, TEV_SEC_LO_VAL n, TEV_SEC_HI_VAL n, TEV_NS_VAL n, TEV_PER_VAL n].map s.cfg

/-- A strobe arms a unit that it enables or whose settings it changes: an absolute one-shot whose time has passed
sets MISSED, and a tick-mode instant that has passed is not made in this tick (R54). `o` is the state before the strobe. -/
def State.tevArm (s o : State) (n : Nat) : State :=
  if s.cfgOn (TEV_CTRL_EN n) && s.tevSettings n ≠ o.tevSettings n then
    let late := !s.cfgOn (TEV_CTRL_MODE n) && s.cfg (TEV_PER_VAL n) = 0 && s.tevStartNs n < s.time.total
    let gone := s.cfgOn (TEV_CTRL_MODE n) && s.tb.started && s.tb.tickStart + s.cfg (TEV_NS_VAL n) < s.now
    let s1 := s.setTev n { s.tevSt n with fired := false, missed := late, made := (s.tevSt n).made || gone }
    if late then s1.put (TEV_STAT_MISSED n) 1 else s1
  else s

/-- TOUTn takes its level when a strobe lets the unit drive it or turns its polarity (R54). `o` is the state before. -/
def State.toutMove (s o : State) (n : Nat) : State :=
  if [TEV_CTRL_OUT_EN n, TEV_CTRL_POL n].map s.cfg = [TEV_CTRL_OUT_EN n, TEV_CTRL_POL n].map o.cfg then s
  else s.tout n (s.tevSt n).pulse

/-- What a strobe of group 0 does beside moving the values (R32, R33, R54). -/
def State.tbStrobed (s o : State) : State :=
  let s1 :=
    if s.role ≠ .datum then s
    else if s.cfgOn TB_CTRL_TICK_EN && !o.cfgOn TB_CTRL_TICK_EN then s.tickEnable
    else if !s.cfgOn TB_CTRL_TICK_EN && o.cfgOn TB_CTRL_TICK_EN then s.tickDisable
    else s.tickChange o
  (List.range 4).foldl (fun t n => (t.tevArm o n).toutMove o n) s1

end Sys2Proof.Machine
end

