-- ==== Sys2Proof/Machine/Link.lean ====
section
/-! DEFINITION. The Traverse link layer, and the training of the Twin and Baseline links
(03_traverse_link.md, R251, R363). -/

namespace Sys2Proof.Machine

/-! ### States of a link (R70) -/

/-- DETECT. -/
def lsDetect : Nat := 1
/-- BITLOCK. -/
def lsBitlock : Nat := 2
/-- SYMLOCK. -/
def lsSymlock : Nat := 3
/-- CAPX. -/
def lsCapx : Nat := 4
/-- DELAY. -/
def lsDelay : Nat := 5
/-- ACTIVE. -/
def lsActive : Nat := 6
/-- BLIND. -/
def lsBlind : Nat := 7
/-- WAIT. -/
def lsWait : Nat := 8
/-- HALT. -/
def lsHalt : Nat := 9
/-- TEST. -/
def lsTest : Nat := 10

/-- The Twin link (R251). -/
def twinLink : Nat := 16

/-- The field that reports the state of a link. -/
def lstateFld (l : Nat) : Fld :=
  if l < 16 then TRV_STAT_STATE l else if l = 16 then TW_STAT_LSTATE else CL_BL_STAT_VAL (l - 17)

/-- The field that reports the delay of a link. -/
def ldlyFld (l : Nat) : Fld :=
  if l < 16 then TRV_LINKDLY_DLY l else if l = 16 then TW_LINKDLY_DLY else CL_BL_LINKDLY_VAL (l - 17)

/-- The state of link `l`. -/
def State.lstate (s : State) (l : Nat) : Nat := s.get (lstateFld l)

/-- The links that the role has: T0 and T1 in a Stake; T0 to T15, the Twin link and BL0 to BL3 in a Datum. -/
def State.hasLink (s : State) (l : Nat) : Bool := if s.role = .datum then l < 21 else s.role = .stake && l < 2

/-- The Traverse ports of the role. -/
def State.nPorts (s : State) : Nat := if s.role = .datum then 16 else 2

/-- A link is enabled (R70, R251, R363). -/
def State.linkEn (s : State) (l : Nat) : Bool :=
  if l < 16 then s.cfgOn (TRV_CTRL_EN l)
  else if l = 16 then s.cfgOn TW_CTRL_EN
  else bitOf (s.cfg CL_CTRL_BLEN) (l - 17)

/-- The link is in ACTIVE or BLIND. -/
def State.linkUp (s : State) (l : Nat) : Bool := s.lstate l = lsActive || s.lstate l = lsBlind

/-- The link has symbol lock, in CAPX, DELAY, ACTIVE and BLIND (R62). -/
def State.symLocked (s : State) (l : Nat) : Bool := lsCapx ≤ s.lstate l && s.lstate l ≤ lsBlind

/-! ### What a link sends -/

/-- FEED of the CAP sets on link `l` (R73, R251, R363). A Stake sends the FEED of its other port, valid while that
port is in ACTIVE or BLIND. -/
def State.feedOut (s : State) (l : Nat) : Nat :=
  if s.role = .datum then (if l < 16 then l else 0) + 16 * s.clpos + 256 * s.board + 32768
  else
    let v := (s.link (1 - l)).feedIn
    if s.linkUp (1 - l) then v else v % 32768

/-- The CAP set on link `l` (R73, R76). -/
def State.capOf (s : State) (l : Nat) (ansReq : Bool) : Cap :=
  Cap.sealed
    { role := if s.role = .datum then 1 else 0
      stepping := 0xB0, verMin := 1, verMax := 2, monument := s.monument, feed := s.feedOut l
      ack := (s.link l).ackOut
      feReq := l < 16 && s.cfg (TRV_TEST_LOOP l) = 3
      feRefused := (s.link l).feRefused
      ansReq := ansReq, crc := 0 }

/-- An ordered set of `n` symbols goes out on link `l`. -/
def State.sendSet (s : State) (l n : Nat) (o : Out) : State :=
  (s.setLink l { s.link l with taken := (s.link l).taken + n }).emit o

/-- A CAP set goes out on link `l`. -/
def State.sendCap (s : State) (l : Nat) (ansReq : Bool) : State :=
  (s.setLink l { s.link l with capSent := some (s.capOf l false) }).sendSet l 27 (.cap l (s.capOf l ansReq))

/-- A port in ACTIVE sends a CAP set when its content is not that of the last one it sent (R76). -/
def State.capNews (s : State) : State :=
  (List.range s.nPorts).foldl (fun t q =>
    if s.lstate q = lsActive && (s.link q).capSent ≠ some (s.capOf q false) then t.sendCap q false else t) s

/-- A DM request goes out on link `l` (R80). -/
def State.sendDm (s : State) (l : Nat) : State :=
  s.sendSet l 8 (.dm l (Dm.sealed { response := false, seq := (s.link l).dmSeq, turn := 0, crc := 0 }))

/-- What link `l` transmits in its state (R70, R88 to R90). In TEST an echo comes first, then SQUELCH of the near-end serial
loopback, then GEN, then the request of a far-end loopback (DESIGN CHOICE, log entry 93). -/
def State.txKind (s : State) (l : Nat) : TxKind :=
  match s.lstate l with
  | 0 => .static
  | 2 => .training
  | 3 => .training
  | 4 => .caps
  | 5 => .measuring
  | 6 => .service
  | 7 => .service
  | 10 =>
    if (s.link l).echo then .echo
    else if s.cfg (TRV_TEST_LOOP l) = 1 ∧ s.cfgOn (TRV_TEST_SQUELCH l) then .static
    else match prbsPoly (s.cfg (TRV_TEST_GEN l)) with
      | some g => .prbs g.1 g.2
      | none => if s.cfg (TRV_TEST_LOOP l) = 3 then .request else .idle
  | _ => .idle

/-- The transmitter of link `l` follows the state of the link. -/
def State.showTx (s : State) (l : Nat) : State :=
  if s.txKind l = (s.link l).tx then s
  else (s.setLink l { s.link l with tx := s.txKind l }).emit (.tx l (s.txKind l))

/-! ### Where a stream goes -/

/-- A Stake forwards what arrives on port `q` to the other port (R66). -/
def State.forwards (s : State) (q : Nat) : Bool := s.role = .stake && q < 2 && s.linkUp q && s.linkUp (1 - q)

/-- Port `q` turns the stream that arrives on it around (R121, R122). -/
def State.turns (s : State) (q : Nat) : Bool := (s.port q).turning

/-- The port on which a stream that arrives on port `q` leaves, if it does. -/
def State.outPort (s : State) (q : Nat) : Option Nat :=
  if s.turns q then (if s.linkUp q then some q else none)
  else if q = 1 ∧ s.cfg (TRV_FCFG_TURN 0) = 1 then none
  else if s.forwards q then some (1 - q)
  else none

/-- The SOF after a TICKMARK pair has left on port `o`, or cannot come any more: the BLOCK pairs that waited for it leave
(R63). -/
def State.releaseHeld (s : State) (o : Nat) : State :=
  let k := s.link o
  if k.markOut then iter (fun t : State => t.pairOut o) k.heldPairs (s.setLink o { k with markOut := false, heldPairs := 0 }) else s

/-- Port `q` loses lock: a frame that it is forwarding ends with ERR and EOF (R65), and no SOF is waited for any more. -/
def State.breakFrame (s : State) (q : Nat) (inFrame : Bool) : State :=
  match s.outPort q with
  | some o => (if inFrame then s.emit (.err o true) else s).releaseHeld o
  | none => s

/-- In TEST with an echo, port `p` sends back what it receives (R89). -/
def State.echoes (s : State) (p : Nat) : Bool := p < 16 && s.lstate p = lsTest && (s.link p).echo

/-! ### Transitions -/

/-- The timing port follows T0 and T1 (R15). While neither is in ACTIVE it stays what it was (DESIGN CHOICE, log entry 122). -/
def State.updTiming (s : State) : State :=
  if s.role ≠ .stake then s
  else
    let t1 :=
      if s.lstate 0 = lsActive then false
      else if s.lstate 1 = lsActive then true
      else s.tb.timing1
    if t1 = s.tb.timing1 then s else { s with tb := { s.tb with timing1 := t1, moveDue := some s.now } }

/-- The source that reports a link: 32 + p, 160 or 20 + d. -/
def linkSource (l : Nat) : Nat := if l < 16 then 32 + l else if l = 16 then 160 else 20 + (l - 17)

/-- The cached values of a port are given up (R78). -/
def State.uncache (s : State) (l : Nat) : State :=
  let s1 := s.setLink l { s.link l with cache := none }
  if l < 16 then s1.put (TRV_STAT_CACHE_VALID l) 0 else s1

/-- What the entry to a state sets up, and what it sends (R70, R73, R77, R80). -/
def State.enterLink (s : State) (l : Nat) : State :=
  let k := s.link l
  if s.lstate l = lsCapx then
    (s.setLink l { k with lastCap := none, capRun := 0, ackOut := false, feRefused := false }).sendCap l false
  else if s.lstate l = lsDelay then
    let a : Int := if l < 16 then toSigned 16 (s.get (TRV_ASYM_ASYM l)) else 0
    (s.setLink l { k with dmVals := [], dmSeq := 0, spread := false, dmAsym := a }).sendDm l
  else if s.lstate l = lsActive then
    let ver := if l < 16 then s.get (TRV_STAT_VER l) else 2
    let c : LinkCache := { monument := k.partner, dly := s.get (ldlyFld l), phase := k.phase, align := k.align, ver := ver }
    let s1 := s.setLink l { k with attempts := 0, raised := false, cache := some c, cvs := [] }
    if l < 16 then s1.put (TRV_STAT_CACHE_VALID l) 1 else s1
  else if s.lstate l = lsBlind then
    match k.cache with
    | some c => s.setLink l { k with blindLock := false, phase := c.phase, align := c.align }
    | none => s.setLink l { k with blindLock := false }
  else s

/-- The latency through a Stake that leaves on port `o` is measured: at most 20 ns, and no value is given (R67, log
entry 8). -/
def State.measureHop (s : State) (o : Nat) : State := (s.put (TRV_HOPLAT_LAT o) (s.free 320)).used

/-- The fill of the FIFO behind the receiver of port `q` is set anew: the latency of the stream that arrives there is measured
again, on the port on which it leaves (R67). -/
def State.refill (s : State) (q : Nat) : State :=
  if s.role = .stake ∧ q < 2 ∧ s.linkUp q then s.measureHop (if s.turns q then q else 1 - q) else s

/-- What ends when a link leaves TEST: the far-end echo and the lock of the checker (R89, R90). -/
def State.quitTest (s : State) (l : Nat) : State :=
  if s.lstate l = lsTest then s
  else
    let s1 := s.setLink l { s.link l with echo := false }
    if l < 16 then s1.put (TRV_PRBS_STAT_CHK_LOCK l) 0 else s1

/-- A link moves to another state: counts, causes and faults of R76, R78, R83, R251 and R363. The values of d_q taken before
stay for the comparison with the next one: R83 restarts the mean only at a step (DESIGN CHOICE, log entry 94). -/
def State.goLink (s : State) (l new : Nat) (causes : List Fld) : State :=
  let old := s.lstate l
  let wasLive := s.linkUp l
  let s1 := ((s.put (lstateFld l) new).quitTest l).showTx l
  let nowLive := s1.linkUp l
  let s2 := if l < 16 ∧ old = lsActive ∧ (new = lsBlind ∨ new = lsWait) then s1.count (LOCKLOSS_CNT l) else s1
  let s3 := if wasLive && !nowLive then
      let t := s2.setLink l { s2.link l with feedIn := (s2.link l).feedIn % 32768, markOut := false, heldPairs := 0 }
      if l < 16 then t.put (TRV_STAT_DLY_VALID l) 0 else t
    else s2
  let s4 := if (new = lsWait ∨ new = lsHalt) ∧ old ≠ lsActive then
      let t := s3.setLink l { s3.link l with attempts := (s3.link l).attempts + 1 }
      if l < 16 then t.count (BUFAIL_CNT l) else t
    else s3
  let s5 := if new = lsHalt then s4.uncache l else s4
  let s6 := if l < 16 then
      let t := causes.foldl (fun t c => t.put c 1) s5
      if wasLive ∧ new = lsWait then t.put (TRV_LCAUSE_LOCK_LOST l) 1 else t
    else s5
  let s7b := ((s6.refill l).enterLink l).updTiming
  let s7 := if l = twinLink then
      let t : State := { s7b with tw := { s7b.tw with linkNew := new = lsActive, wasUp := s7b.tw.wasUp || new = lsActive } }
      if new = lsActive then t else (t.put TB_STAT_TWIN_ALIGNED 0).ownTick
    else s7b
  let bad := new = lsHalt ∨ (if l < 16 then wasLive = true ∧ new = lsWait else old = lsActive)
  if bad then s7.raise (linkSource l) else s7

/-- A port leaves ACTIVE for BLIND or WAIT (R76). -/
def State.leaveActive (s : State) (l : Nat) (changed : Bool) : State :=
  if l < 16 ∧ s.cfgOn (TRV_CTRL_BLIND_EN l) ∧ (s.link l).cache.isSome ∧ ¬ changed then s.goLink l lsBlind []
  else s.goLink l lsWait (if changed then [TRV_LCAUSE_PARTNER_CHANGED l] else [])

/-- The drive of LBYPp, which is high or released (R86, R395): EN is 1, LBYP_REL is 0, and the device is neither in reset nor in stage S4. -/
def State.updLbyp (s : State) (p : Nat) : State :=
  let on := s.phase = .run && s.cfgOn (TRV_CTRL_EN p) && !s.cfgOn (TRV_CTRL_LBYP_REL p) && s.get SH_STAT_STAGE < 4
  if on = s.on (TRV_STAT_LBYP_ON p) then s else (s.putB (TRV_STAT_LBYP_ON p) on).emit (if on then .pin "LBYP" p true else .release "LBYP" p)

/-- A strobe has set or cleared the enable of a link, or changed TRV_TEST (R70, R86, R88, R92). A port with EN = 0 stays in
DISABLED whatever TRV_TEST holds, and SQUELCH alone makes no test: R88 names LOOP, GEN and CHK (DESIGN CHOICE, log entry
95). -/
def State.linkStrobed (s : State) (l : Nat) : State :=
  let testing := l < 16 && (s.cfg (TRV_TEST_LOOP l) ≠ 0 || s.cfg (TRV_TEST_GEN l) ≠ 0 || s.cfg (TRV_TEST_CHK l) ≠ 0)
  let s1 :=
    if !s.linkEn l then (if s.lstate l = 0 then s else ((s.uncache l).goLink l 0 []))
    else if testing && s.lstate l ≠ lsTest then
      let t := s.goLink l lsTest (if s.linkUp l then [TRV_LCAUSE_TEST l] else [])
      if s.linkUp l then t.raise (linkSource l) else t
    else if s.lstate l = lsTest && !testing && !(s.link l).echo then s.goLink l lsDetect []
    else if s.lstate l = 0 then s.goLink l lsDetect []
    else s
  let s1 := s1.showTx l
  let s2 := if s1.txKind l = .request then s1.sendCap l false else s1
  let s3 := if l < 16 ∧ s2.on (TRV_PRBS_STAT_CHK_LOCK l) ∧ s2.cfg (TRV_TEST_CHK l) = 0 then
      s2.put (TRV_PRBS_STAT_CHK_LOCK l) 0 else s2
  if l < 16 then s3.updLbyp l else s3

/-- A step on a link that the role has; afterwards changed CAP sets go out (R76), and a Stake may deblock (R283). -/
def State.onLink (s : State) (l : Nat) (f : State → State) : Result :=
  s.inRun fun s => if s.hasLink l then ((f s).capNews).tryDeblock else s

/-- A step on a Traverse port. -/
def State.onPort (s : State) (p : Nat) (f : State → State) : Result :=
  s.onLink p fun s => if p < 16 then f s else s

/-! ### Bring-up -/

/-- RXC_DETECT (R71). -/
def execRxcDetect (l : Nat) (s : State) : Result :=
  s.onLink l fun s => if s.lstate l = lsDetect then s.goLink l lsBitlock [] else s

/-- BIT_LOCK (R70, R72): eight training sequences have arrived without error at sampling phase `phase`. -/
def execBitLock (l phase : Nat) (s : State) : Result :=
  s.onLink l fun s =>
    if s.lstate l = lsBitlock then (s.setLink l { s.link l with phase := phase }).goLink l lsSymlock [] else s

/-- SYMBOL_LOCK (R70, R251): eight commas have arrived at word alignment `align`. -/
def execSymbolLock (l align : Nat) (s : State) : Result :=
  s.onLink l fun s =>
    if s.lstate l = lsSymlock then (s.setLink l { s.link l with align := align }).goLink l lsCapx [] else s

/-- A FEED fails the check of R75 in port `p` of a Datum. -/
def State.badFeed (s : State) (p feed : Nat) : Bool :=
  s.role = .datum && bitOf feed 15 &&
    (bitsOf feed 3 0 ≠ p || bitsOf feed 7 4 ≠ s.clpos || bitsOf feed 8 8 = s.board)

/-- A partner that the Twin link (R251) or Baseline link `l` (R363) does not accept in CAPX. -/
def State.badPeer (s : State) (l : Nat) (c : Cap) : Bool :=
  c.role ≠ 1 || !bitOf c.feed 15 ||
    (if l = twinLink then bitsOf c.feed 7 4 ≠ s.clpos || bitsOf c.feed 8 8 = s.board
     else bitsOf c.feed 8 8 ≠ s.board || bxor (bitsOf c.feed 7 4) s.clpos ≠ 2 ^ (l - 17))

/-- The version ranges do not overlap, or two Datums meet on a Traverse hop (R74). -/
def State.incompat (s : State) (l : Nat) (c : Cap) : Bool :=
  c.verMax < 1 || 2 < c.verMin || (l < 16 && s.role = .datum && c.role = 1)

/-- The registers that show the partner follow each valid CAP set. -/
def State.notePartner (s : State) (l : Nat) (c : Cap) : State :=
  if l < 16 then
    (((s.put (TRV_PARTNER_ROLE l) c.role).put (TRV_PARTNER_STEPPING l) c.stepping).put (TRV_PARTNER_VER_MIN l)
      c.verMin).put (TRV_PARTNER_VER_MAX l) c.verMax
  else s

/-- The link has received three identical valid CAP sets: it sends ACK from now on (R73). -/
def State.ackCap (s : State) (l : Nat) : State :=
  if (s.link l).ackOut then s else (s.setLink l { s.link l with ackOut := true }).sendCap l false

/-- A CAP set in CAPX: three identical ones set ACK, and with ACK in the last of them the link goes to DELAY (R70,
R73); a partner that may not be there sends it to HALT (R74, R75, R251, R363). -/
def State.capInCapx (s : State) (l : Nat) (c : Cap) (same : Bool) : State :=
  if s.incompat l c then s.goLink l lsHalt [TRV_LCAUSE_INCOMPAT l]
  else if l < 16 && s.badFeed l c.feed then s.goLink l lsHalt [TRV_LCAUSE_FEEDER_MISMATCH l]
  else if 16 ≤ l && s.badPeer l c then s.goLink l lsHalt []
  else
    let run := if same then (s.link l).capRun + 1 else 1
    let s1 := s.setLink l { s.link l with capRun := run }
    let s2 := if l < 16 then s1.put (TRV_STAT_VER l) (min 2 c.verMax) else s1
    if 3 ≤ run then
      let s3 := s2.ackCap l
      if c.ack then s3.goLink l lsDelay [] else s3
    else s2

/-- FE_REQ is acted on in CAPX, DELAY, ACTIVE and BLIND (R89). A refusal is a change of the CAP set, which `capNews`
sends in ACTIVE. -/
def State.farEnd (s : State) (l : Nat) (c : Cap) : State :=
  if 16 ≤ l then s
  else if c.feReq && s.cfgOn (TRV_CTRL_FE_ALLOW l) then
    let s1 := s.goLink l lsTest []
    (s1.setLink l { s1.link l with echo := true }).showTx l
  else
    let s1 := s.setLink l { s.link l with feRefused := c.feReq }
    if c.feReq ∧ ¬ (s.link l).feRefused ∧ s.lstate l ≠ lsActive then s1.sendCap l false else s1

/-- A CAP set in ACTIVE (R75, R76, R251): a FEED that fails its check comes before another monument ID (DESIGN CHOICE, log
entry 96), and ANS_REQ is answered. -/
def State.capInActive (s : State) (l : Nat) (c : Cap) : State :=
  if l < 16 && s.badFeed l c.feed then s.goLink l lsHalt [TRV_LCAUSE_FEEDER_MISMATCH l]
  else if l = twinLink && s.badPeer l c then s.goLink l lsHalt []
  else if (s.link l).cache.any (fun x => x.monument ≠ c.monument) then s.leaveActive l true
  else if c.ansReq then s.sendCap l false
  else s

/-- CAP_SET_RECEIVE (R73 to R77, R89, R251, R363): a CAP set that fails its CRC is ignored, so that it does not break a run of
identical ones (DESIGN CHOICE, log entry 97), and so is one in a state that does not parse CAP sets. The requester of an echo
sees FE_REFUSED. -/
def execCapSetReceive (l : Nat) (c : Cap) (s : State) : Result :=
  s.onLink l fun s =>
    if s.echoes l then
      let s1 := s.emit (.cap l c)
      if c.ok ∧ c.feRefused ∧ s.cfg (TRV_TEST_LOOP l) = 3 then s1.put (TRV_LCAUSE_FE_REFUSED l) 1 else s1
    else if !c.ok then s
    else if s.lstate l = lsTest then
      if l < 16 ∧ s.cfg (TRV_TEST_LOOP l) = 3 ∧ c.feRefused then s.put (TRV_LCAUSE_FE_REFUSED l) 1 else s
    else if !s.symLocked l then s
    else
      let st := s.lstate l
      let k := s.link l
      let same := k.lastCap = some c
      let s1 := (s.setLink l { k with lastCap := some c, partner := c.monument, feedIn := c.feed }).notePartner l c
      let s2 := s1.farEnd l c
      if s2.lstate l = lsTest then s2
      else if st = lsCapx then s2.capInCapx l c same
      else if st = lsActive then
        s2.capInActive l c
      else if st = lsBlind then
        if k.cache.any (fun x => x.monument ≠ c.monument) then s2.goLink l lsWait [TRV_LCAUSE_PARTNER_CHANGED l]
        else if k.blindLock then
          let s3 := (s2.goLink l lsActive []).count (BLIND_CNT l)
          if c.ansReq then s3.sendCap l false else s3
        else s2
      else s2

/-- CAP_SET_PERIODIC (R76). -/
def execCapSetPeriodic (l : Nat) (s : State) : Result :=
  s.onLink l fun s => if s.lstate l = lsActive then s.sendCap l false else s

/-- FAR_END_ECHO_END (R89). -/
def execFarEndEchoEnd (p : Nat) (s : State) : Result :=
  s.onPort p fun s =>
    if (s.link p).echo then (s.setLink p { s.link p with echo := false }).goLink p lsDetect [] else s

/-- The spread of doubled delays exceeds 1.0 ns (R80). -/
def spreadTooWide (vs : List Int) : Bool :=
  match vs with
  | [] => false
  | v :: t => 32 < (t.foldl max v) - (t.foldl min v)

/-- 64 exchanges are complete: the mean is the link delay, rounded to 1/16 ns, and the link enters ACTIVE (R80). -/
def State.delayDone (s : State) (l : Nat) : State :=
  let k := s.link l
  if spreadTooWide k.dmVals then
    (s.setLink l { k with dmVals := [], spread := true }).sendDm l
  else
    let sum := k.dmVals.foldl (· + ·) 0
    (s.put (ldlyFld l) (ofSigned 32 ((sum + 64) / 128))).goLink l lsActive []

/-- DM_SET_RECEIVE (R80): a request is answered with its turnaround; a response to the request outstanding gives one
value. `sent` and `got` are the stamps in 1/16 ns: t3 and t2 of a request, t1 and t4 of a response. One request is
outstanding at a time: the next one is sent when its response has come, and none is repeated (DESIGN CHOICE, log entry 124). -/
def execDmSetReceive (l : Nat) (d : Dm) (sent got : Nat) (s : State) : Result :=
  s.onLink l fun s =>
    if s.echoes l then s.emit (.dm l d)
    else if !d.ok then s
    else if !d.response then
      if s.symLocked l then
        s.sendSet l 8 (.dm l (Dm.sealed { response := true, seq := d.seq, turn := (sent - got) % 2 ^ 32, crc := 0 }))
      else s
    else if s.lstate l = lsDelay ∧ d.seq = (s.link l).dmSeq then
      let k := s.link l
      let v : Int := ((got : Int) - sent) - d.turn + k.dmAsym
      let s1 := s.setLink l { k with dmVals := k.dmVals ++ [v], dmSeq := (k.dmSeq + 1) % 256 }
      if 64 ≤ (s1.link l).dmVals.length then s1.delayDone l else s1.sendDm l
    else s

/-- BRINGUP_TIMEOUT (R70, R78, R80). -/
def execBringupTimeout (l : Nat) (s : State) : Result :=
  s.onLink l fun s =>
    if lsBitlock ≤ s.lstate l ∧ s.lstate l ≤ lsDelay then
      s.goLink l lsWait (TRV_LCAUSE_BU_TIMEOUT l ::
        if s.lstate l = lsDelay ∧ (s.link l).spread then [TRV_LCAUSE_DLY_SPREAD l] else [])
    else s

/-- RXC_LOSS (R65, R70, R76, R77): lock that BLIND had is gone again. -/
def execRxcLoss (l : Nat) (inFrame : Bool) (s : State) : Result :=
  s.onLink l fun s =>
    if lsBitlock ≤ s.lstate l ∧ s.lstate l ≤ lsDelay then s.goLink l lsWait [TRV_LCAUSE_RXC_LOST l]
    else if s.lstate l = lsActive then
      (s.breakFrame l inFrame).leaveActive l false
    else if s.lstate l = lsBlind then
      let s1 := s.breakFrame l inFrame
      s1.setLink l { s1.link l with blindLock := false }
    else s

/-- CODE_VIOLATION (R65, R76, R251, R363): symbol number `sym` is forwarded as ERR and counted; 4 within 64 symbols end
ACTIVE, and the frame that was passing. -/
def execCodeViolation (l sym : Nat) (inFrame : Bool) (s : State) : Result :=
  s.onLink l fun s =>
    if !s.symLocked l then s
    else
      let s0 := match s.outPort l with
        | some o => (s.emit (.err o false)).releaseHeld o
        | none => s
      let s1 := if l < 16 then s0.count (CV_CNT l) else s0
      let recent := ((s1.link l).cvs.filter fun n => sym < n + 64) ++ [sym]
      let s2 := s1.setLink l { s1.link l with cvs := recent }
      if s2.lstate l = lsActive ∧ 4 ≤ recent.length then (s2.breakFrame l inFrame).leaveActive l false else s2

/-- COMMA_REALIGN (R65, R76, R251, R363). -/
def execCommaRealign (l : Nat) (inFrame : Bool) (s : State) : Result :=
  s.onLink l fun s =>
    let s1 := if l < 16 then s.count (REALIGN_CNT l) else s
    if s1.lstate l = lsActive then (s1.breakFrame l inFrame).leaveActive l false else s1

/-- ISOLATED_URGENT (R62). -/
def execIsolatedUrgent (p : Nat) (s : State) : Result :=
  s.onPort p fun s => if s.symLocked p then s.count (URG_ISO p) else s

/-- BLIND_RELOCK (R77): lock is back, and a CAP set asks for an answer. -/
def execBlindRelock (p : Nat) (s : State) : Result :=
  s.onPort p fun s =>
    if s.lstate p = lsBlind ∧ ¬ (s.link p).blindLock then
      (s.setLink p { s.link p with blindLock := true }).sendCap p true
    else s

/-- BLIND_TIMEOUT (R77): LOCK_LOST without lock, BU_TIMEOUT without a CAP set. -/
def execBlindTimeout (p : Nat) (s : State) : Result :=
  s.onPort p fun s =>
    if s.lstate p = lsBlind then
      s.goLink p lsWait [if (s.link p).blindLock then TRV_LCAUSE_BU_TIMEOUT p else TRV_LCAUSE_LOCK_LOST p]
    else s

/-- A port in BLIND that has lock repeats its request for a CAP set in each gap (R77). -/
def State.blindGap (s : State) (p : Nat) : State :=
  if s.lstate p = lsBlind ∧ (s.link p).blindLock then s.sendCap p true else s

/-! ### A stream on its way out (R63, R64) -/

/-- The IDLE symbols before an SOF on port `o` absorb the pairs inserted since the last one, or the SOF leaves late
(R64). -/
def State.absorb (s : State) (o idles : Nat) : State :=
  let k := s.link o
  let s1 := s.setLink o { k with idleDebt := k.idleDebt - idles }
  if idles < k.idleDebt then s1.count (IDLE_SHORT o) else s1

/-- A frame that has arrived leaves again on port `o`; the BLOCK pairs that waited for its SOF follow it (R63). -/
def State.passOn (s : State) (o : Nat) (f : Frame) : State := (s.emit (.frame o f)).releaseHeld o

/-! ### WAIT, HALT and retries -/

/-- WAIT_EXPIRY (R70, R78). -/
def execWaitExpiry (l : Nat) (s : State) : Result :=
  s.onLink l fun s => if s.lstate l = lsWait then s.goLink l lsDetect [] else s

/-- HALT_RXC_ABSENT (R70). -/
def execHaltRxcAbsent (l : Nat) (s : State) : Result :=
  s.onLink l fun s => if s.lstate l = lsHalt then s.goLink l lsDetect [] else s

/-- BRINGUP_RETRY_LIMIT (R78, R406). -/
def execBringupRetryLimit (p : Nat) (s : State) : Result :=
  s.onPort p fun s =>
    if s.cfg (TRV_BUCFG_RETRY p) ≤ (s.link p).attempts ∧ ¬ (s.link p).raised then
      (s.setLink p { s.link p with raised := true }).raise (linkSource p)
    else s

/-! ### Delay announce -/

/-- A value of d_q is taken into the mean (R83). -/
def State.takeDa (s : State) (q d : Nat) : State :=
  let vs := (s.link q).daVals
  let step : Bool := match vs.getLast? with
    | some v => 16 < (v - d) + (d - v)
    | none => false
  let s1 := if step then s.count (DA_STEP q) else s
  let ws := if step then [d] else (vs ++ [d]).drop (vs.length + 1 - 16)
  let mean := (2 * ws.sum + ws.length) / (2 * ws.length)
  ((s1.setLink q { s1.link q with daVals := ws }).put (TRV_CHAINDLY_DLY q) mean).put (TRV_STAT_DLY_VALID q) 1

/-- A Stake's DA set on its way out (R82). A turning Stake that has no d_q, because ACC is not valid, leaves FAR and its valid
bit as they came (DESIGN CHOICE, log entry 98). The set follows a frame, and what waited for its SOF goes before it. -/
def State.daOut (s : State) (q d : Nat) (a : Da) : State :=
  match s.outPort q with
  | none => s
  | some o =>
    let acc := (d + s.get (TRV_HOPLAT_LAT o)) % 2 ^ 32
    ((s.setLink q { s.link q with urgHeld := 0 }).releaseHeld o).emit (.da o (some (Da.sealed
      { acc := acc, far := if s.turns q && a.accValid then d % 2 ^ 32 else a.far, accValid := a.accValid
        farValid := (s.turns q && a.accValid) || a.farValid, crc := 0 })))

/-- The smallest apply offset of the arms on a port, or of all arms while none is mapped there, in cycles (R26). -/
def State.portApply (s : State) (p : Nat) : Nat :=
  let here := (List.range 6).filter fun n => s.portHasArm p (2 ^ n)
  let arms := if here.isEmpty then List.range 6 else here
  arms.foldl (fun m n => min m (s.cfg (TB_APPLY_A n))) 65535

/-- The check of R26 by a Datum (R85). -/
def State.applyMargin (s : State) (p d : Nat) : State :=
  let late := s.portApply p * 32 < d + 460 * 16
  let s1 := s.putB (TRV_STAT_APPLY_MARGIN p) late
  if late then
    let s2 := s1.put (TRV_FCAUSE_APPLY_MARGIN p) 1
    if s.on (TRV_STAT_APPLY_MARGIN p) then s2 else s2.raise (48 + p)
  else s1

/-- A Datum port that turns sends a DA set back with its chain delay in FAR (R122); its turn latency is at most 20 ns,
and no value is given (log entry 8). -/
def State.daTurn (s : State) (p v : Nat) (d : Da) : State :=
  if s.turns p then
    (s.used).emit (.da p (some (Da.sealed
      { acc := (v + s.free 320) % 2 ^ 32, far := v, accValid := d.accValid, farValid := true, crc := 0 })))
  else s

/-- DA_SET_RECEIVE (R82, R83, R85). A set whose CRC passes and whose ACC is not valid gives a Stake no d_q, and leaves it with
ACC not valid (DESIGN CHOICE, log entry 98). -/
def execDaSetReceive (p : Nat) (d : Da) (s : State) : Result :=
  s.onPort p fun s =>
    if s.echoes p then s.emit (.da p (some d))
    else if !s.linkUp p then s
    else if !d.ok then
      let s1 := s.count (DA_ERR p)
      match s.outPort p with
      | some o => s1.emit (.da o none)
      | none => s1
    else if s.role = .stake then
      if d.accValid then
        let v := (d.acc + s.get (TRV_LINKDLY_DLY p)) % 2 ^ 32
        (((s.takeDa p v).putB (TRV_STAT_FAR_VALID p) d.farValid)).daOut p v d
      else (s.putB (TRV_STAT_FAR_VALID p) d.farValid).daOut p 0 d
    else
      let s1 := s.putB (TRV_STAT_FAR_VALID p) d.farValid
      let s2 := if d.farValid then s1.put (TRV_FARDLY_DLY p) d.far else s1
      if d.accValid then
        let v := (d.acc + s.get (TRV_LINKDLY_DLY p)) % 2 ^ 32
        let s3 := (s2.put (TRV_CHAINDLY_DLY p) v).put (TRV_STAT_DLY_VALID p) 1
        (s3.applyMargin p (if d.farValid then d.far else v)).daTurn p v d
      else if s2.turns p then s2.emit (.da p (some d)) else s2

/-! ### Commands on the port registers -/

/-- A write of 1 to TRV_CTRL.RESTART (R70, R78): the port goes to DETECT at once, also from TEST, and TRV_TEST takes it there
again only with the next strobe (DESIGN CHOICE, log entry 99). -/
def wrRestart (p : Nat) : Write := fun s =>
  let s1 := s.uncache p
  (stOk, if s.lstate p = 0 then s1 else (s1.goLink p lsDetect []).capNews)

/-- PORT_RESTART (R70). -/
def execPortRestart (p : Nat) (s : State) : Result := s.byWrite (p < s.nPorts) (wrRestart p)

/-- Bits of what port `p` transmits are inverted; a near-end loopback returns them (R88, R91). -/
def State.injectBits (s : State) (p n : Nat) : State :=
  (s.setLink p { s.link p with injected := (s.link p).injected + n }).emit (.inject p n)

/-- A write to TRV_INJ with the fields it carries (R91, R92). -/
def wrInj (p : Nat) (single burst clr : Bool) (len : Nat) : Write := fun s =>
  if s.on SYS_LOCK_TRVTEST then (stLocked, s)
  else if burst && len = 0 then (stBadParam, s)
  else
    let s1 := if single then s.injectBits p 1 else s
    let s2 := if burst then s1.injectBits p len else s1
    let s3 := if clr then
        (s2.setLink p { s2.link p with prbsBits := 0, prbsErrs := 0 }).put (TRV_PRBS_STAT_CNT_OVF p) 0
      else s2
    (stOk, s3)

/-- INJECT_SINGLE (R91). -/
def execInjectSingle (p : Nat) (s : State) : Result := s.byWrite (p < s.nPorts) (wrInj p true false false 0)

/-- INJECT_BURST (R91). -/
def execInjectBurst (p len : Nat) (s : State) : Result := s.byWrite (p < s.nPorts) (wrInj p false true false (len % 256))

/-- PRBS_CLEAR (R91). -/
def execPrbsClear (p : Nat) (s : State) : Result := s.byWrite (p < s.nPorts) (wrInj p false false true 0)

/-- The PRBS checker compares bits and counts errors (R90); the counters saturate (R11). -/
def State.prbsCount (s : State) (p bits errs : Nat) : State :=
  let k := s.link p
  let top := 2 ^ 48 - 1
  let s1 := s.setLink p { k with prbsBits := min top (k.prbsBits + bits), prbsErrs := min top (k.prbsErrs + errs) }
  let s2 := if 0 < errs then s1.put (TRV_PRBS_STAT_ERR p) 1 else s1
  if top ≤ k.prbsBits + bits ∨ top ≤ k.prbsErrs + errs then s2.put (TRV_PRBS_STAT_CNT_OVF p) 1 else s2

/-- The checker of port `p` may find its pattern (R88, R90). The near-end serial loopback returns the pattern of GEN; the
near-end parallel one does not carry it, because GEN bypasses the encoder (log entry 93). -/
def State.checks (s : State) (p : Nat) : Bool :=
  s.lstate p = lsTest && s.cfg (TRV_TEST_CHK p) ≠ 0 &&
    (match s.cfg (TRV_TEST_LOOP p) with
     | 1 => s.cfg (TRV_TEST_GEN p) = s.cfg (TRV_TEST_CHK p)
     | 2 => false
     | _ => true)

/-- Compared bits and errors of a report: in the near-end serial loopback the errors are the bits that were inverted (R88,
R91). -/
def State.prbsReport (s : State) (p bits errs : Nat) : State :=
  if s.cfg (TRV_TEST_LOOP p) = 1 then
    (s.prbsCount p bits (s.link p).injected).setLink p
      { (s.prbsCount p bits (s.link p).injected).link p with injected := 0 }
  else s.prbsCount p bits errs

/-- PRBS_CHECKER_LOCK (R90): the checker locks; in a checker that is locked already, the bits compared and the errors
found since the last report. -/
def execPrbsCheckerLock (p bits errs : Nat) (s : State) : Result :=
  s.onPort p fun s =>
    if s.checks p then
      if s.on (TRV_PRBS_STAT_CHK_LOCK p) then s.prbsReport p bits errs
      else (s.setLink p { s.link p with injected := 0 }).put (TRV_PRBS_STAT_CHK_LOCK p) 1
    else s

/-- PRBS_LOCK_LOSS (R90): the bits and errors of the lock that ends are counted, and the checker seeds itself again. -/
def execPrbsLockLoss (p bits errs : Nat) (s : State) : Result :=
  s.onPort p fun s =>
    if s.on (TRV_PRBS_STAT_CHK_LOCK p) then
      ((s.prbsReport p bits errs).put (TRV_PRBS_STAT_CHK_LOCK p) 0).put (TRV_PRBS_STAT_LOCK_LOST p) 1
    else s

end Sys2Proof.Machine
end

