-- ==== Sys2Proof/Machine/Scheduler.lean ====
section
/-! DEFINITION. The hardware scheduler and the loop engine (08_loop_engine_scheduler.md). -/

namespace Sys2Proof.Machine

/-! ### Slots and queues (R216, R219) -/

/-- Slot states of SCH_SLOTs_STAT.STATE. -/
def ssIdle : Nat := 0
/-- PENDING. -/
def ssPending : Nat := 1
/-- HELD. -/
def ssHeld : Nat := 2
/-- Queued. -/
def ssQueued : Nat := 3
/-- Running. -/
def ssRunning : Nat := 4

/-- Queue `q`, its head first. -/
def State.queue (s : State) (q : Nat) : List Nat := (kget s.sch.queue q).getD []

/-- The state with queue `q` changed. -/
def State.setQueue (s : State) (q : Nat) (l : List Nat) : State :=
  { s with sch := { s.sch with queue := kset s.sch.queue q l } }

/-- Lane `n`. -/
def State.lane (s : State) (n : Nat) : LaneSt := (kget s.sch.lane n).getD {}

/-- The state with lane `n` changed. -/
def State.setLane (s : State) (n : Nat) (l : LaneSt) : State := { s with sch := { s.sch with lane := kset s.sch.lane n l } }

/-- The queue of slot `i`. -/
def State.prio (s : State) (i : Nat) : Nat := s.cfg (SCH_SLOT_CFG_PRIO i)

/-- The lane that runs an instance of slot `i`, if one does. -/
def State.laneOf (s : State) (i : Nat) : Option Nat :=
  (List.range 16).find? fun n => s.on (LE_LANE_STAT_BUSY n) && s.get (LE_LANE_STAT_SLOT n) = i

/-- The queue that holds slot `i`, if one does. -/
def State.queueOf (s : State) (i : Nat) : Option Nat := (List.range 8).find? fun q => (s.queue q).contains i

/-- The instance of slot `i`: idle, HELD, queued or running, beside PENDING. -/
def State.instOf (s : State) (i : Nat) : Nat :=
  if (s.laneOf i).isSome then ssRunning
  else if (s.queueOf i).isSome then ssQueued
  else if s.get (SCH_SLOT_STAT_STATE i) = ssHeld then ssHeld
  else ssIdle

/-- Slot `i` is PENDING (R216). -/
def State.slotPending (s : State) (i : Nat) : Bool := s.sch.pending.contains i

/-- SCH_SLOTs_STAT.STATE shows the instance, or PENDING beside a running one. -/
def State.showSlot (s : State) (i inst : Nat) : State :=
  s.put (SCH_SLOT_STAT_STATE i) (if inst = ssRunning && s.slotPending i then ssPending else inst)

/-- The mask flags of slot `i` are cleared (R216, R222). -/
def State.clearMask (s : State) (i : Nat) : State :=
  let m := s.cfg (SCH_SLOT_MASK_MASK i)
  s.put (SCH_SLOT_FLAGS_FLAGS i) (s.get (SCH_SLOT_FLAGS_FLAGS i) - band (s.get (SCH_SLOT_FLAGS_FLAGS i)) m)

/-- PENDING of slot `i` ends. -/
def State.clearPending (s : State) (i : Nat) : State :=
  { s with sch := { s.sch with pending := s.sch.pending.filter (· ≠ i) } }

/-- A new instance of slot `i` goes to its queue, or is HELD (R219, R221). -/
def State.enqueue (s : State) (i : Nat) : State :=
  let q := s.prio i
  if (s.queue q).length < s.cfg (SCH_QDEPTH_DEPTH q) then (s.setQueue q (s.queue q ++ [i])).showSlot i ssQueued
  else (s.showSlot i ssHeld).count HOLD_CNT

/-- Readiness of slot `i` at the end of a cycle (R216). -/
def State.evalSlot (s : State) (i : Nat) : State :=
  let m := s.cfg (SCH_SLOT_MASK_MASK i)
  if s.cfgOn SCH_CTRL_EN && s.cfgOn (SCH_SLOT_CFG_EN i) && m ≠ 0 && band (s.get (SCH_SLOT_FLAGS_FLAGS i)) m = m then
    if s.instOf i ≠ ssIdle then
      ({ s with sch := { s.sch with pending := addOnce s.sch.pending i } }).showSlot i (s.instOf i)
    else (((s.clearPending i).clearMask i).count READY_CNT).enqueue i
  else s

/-- Flags set together (R216): slot and flag bit. -/
def State.setFlags (s : State) (l : List (Nat × Nat)) : State :=
  let s1 := l.foldl (fun s e =>
    s.put (SCH_SLOT_FLAGS_FLAGS e.1) (setBitOf (s.get (SCH_SLOT_FLAGS_FLAGS e.1)) e.2)) s
  (l.map (·.1)).eraseDups.foldl State.evalSlot s1

/-- A hardware event signals its routes (R218). -/
def State.routeEvent (s : State) (src : Nat) : State :=
  s.setFlags (((List.range 32).filter fun n => s.cfgOn (SCH_ROUTE_EN n) && s.cfg (SCH_ROUTE_SRC n) = src).map fun n =>
    (s.cfg (SCH_ROUTE_SLOT n), s.cfg (SCH_ROUTE_FLAG n)))

/-! ### Dispatch (R210, R219) -/

/-- Slot `i` may start at all: not a due slot from the cut-off on or in JOIN, and nothing at a swap (R223, R226,
R264). -/
def State.mayStart (s : State) (i : Nat) : Bool :=
  !s.tw.wait && !(s.cfgOn (SCH_SLOT_CFG_DL_EN i) && (s.tb.cutDone || s.get TW_STAT_MODE = 1)) &&
    !(s.tb.cutDone && s.on LE_BANK_SWAP_PEND && (s.tb.tick + 1) % 2 ^ 32 = s.get LE_SWAP_TICK_TICK)

/-- The free lanes that LANEMASK of slot `i` allows. -/
def State.freeLanes (s : State) (i : Nat) : List Nat :=
  (List.range 16).filter fun n => !s.on (LE_LANE_STAT_BUSY n) && bitOf (s.cfg (SCH_SLOT_CFG_LANEMASK i)) n

/-- The entry point of slot `i` in the active bank (R210). -/
def State.entryPoint (s : State) (i : Nat) : Nat :=
  if s.on LE_BANK_ACTIVE then s.cfg (SCH_SLOT_ENTRY_ENTRY1 i) else s.cfg (SCH_SLOT_ENTRY_ENTRY0 i)

/-- An instance of slot `i` starts on lane `n` (R210). -/
def State.startOn (s : State) (i n : Nat) : State :=
  let l : LaneSt :=
    { pc := s.entryPoint i, w := [s.cfg (SCH_SLOT_DBASE_DBASE i), i, s.tb.tick % 2 ^ 32] ++ List.replicate 61 0
      acc := List.replicate 8 0 }
  ((((s.setLane n l).put (LE_LANE_STAT_BUSY n) 1).put (LE_LANE_STAT_SLOT n) i).put (SCH_SLOT_STAT_LANE i) n).count DISP_CNT

/-- The heads of queue `q` start while up to `k` starts are left in the cycle; the number left comes back. Which of
several free lanes is taken is a free value (log entry 8). -/
def State.serveQueue (s : State) (q : Nat) : Nat → List Nat → State × Nat
  | k, [] => (s, k)
  | 0, _ => (s, 0)
  | k + 1, i :: rest =>
    let free := s.freeLanes i
    if s.mayStart i && !free.isEmpty then
      let n := free.getD (s.free (free.length - 1)) 0
      let s1 := ((s.used).setQueue q rest).startOn i n
      (s1.showSlot i ssRunning).serveQueue q k rest
    else (s, k + 1)

/-- TASK_DISPATCH (R219): one cycle of the dispatcher. -/
def execTaskDispatch (s : State) : Result :=
  s.inDatum fun s =>
    if s.cfgOn SCH_CTRL_EN then ((List.range 8).foldl (fun r q => r.1.serveQueue q r.2 (r.1.queue q)) (s, 4)).1 else s

/-- The lowest HELD slot whose queue has room enters it (R221). -/
def execHeldInstanceEnqueue (s : State) : Result :=
  s.inDatum fun s =>
    match (List.range 128).find? fun i => s.instOf i = ssHeld &&
        (s.queue (s.prio i)).length < s.cfg (SCH_QDEPTH_DEPTH (s.prio i)) with
    | some i => (s.setQueue (s.prio i) (s.queue (s.prio i) ++ [i])).showSlot i ssQueued
    | none => s

/-! ### Output window (R215) -/

/-- The map entries of arm `a` with VALID = 1 as they stand: port, slot and index (R133). -/
def State.mapNow (s : State) (a : Nat) : List ((Nat × Nat) × Nat) :=
  (List.range 16).flatMap fun p =>
    ((List.range 64).filter fun i => s.cfgOn (LVL_MAP_VALID p i) && s.cfg (LVL_MAP_ARM p i) = a).map fun i =>
      ((p, i), s.cfg (LVL_MAP_IDX p i))

/-- An order is posted for arm `a` (R139): the select of the tick starts again under it, on the map now in force (R147). -/
def State.postOrder (s : State) (a : Nat) : State :=
  (s.setArm a { s.armSt a with sel := none, own := none, map := some (s.mapNow a) }).put (LVL_ARM_STAT_POSTED a) 1

/-- What a register of the output window is. -/
inductive Window where
  | order (a : Nat)
  | og (n field : Nat)
  | send (d w : Nat)
deriving DecidableEq, Repr

/-- The register of the output window at an address of the default map (R215). -/
def windowOf (addr : Nat) : Option Window :=
  match (List.range 6).find? fun a => addr = (LVL_ARM_ORDER_N a).addr with
  | some a => some (.order a)
  | none =>
    match (List.range 48).find? fun k => addr = 0x90104 + 0x20 * (k / 3) + 4 * (k % 3) with
    | some k => some (.og (k / 3) (k % 3))
    | none =>
      match (List.range 128).find? fun k => addr = (CL_VSEND_VAL (k / 32) (k % 32)).addr with
      | some k => some (.send (k / 32) (k % 32))
      | none => none

/-- Order-generator channel `n`. -/
def State.ogSt (s : State) (n : Nat) : OgSt := (kget s.cf.og n).getD {}

/-- The state with order-generator channel `n` changed. -/
def State.setOg (s : State) (n : Nat) (c : OgSt) : State := { s with cf := { s.cf with og := kset s.cf.og n c } }

/-- What follows when a register of the output window has its new value. -/
def State.windowTaken (s : State) : Window → State
  | .order a => s.postOrder a
  | .og n f =>
    let c := s.ogSt n
    s.setOg n { c with newSet := c.newSet || f = 0, newRate := c.newRate || f = 1, newRr := c.newRr || f = 2 }
  | .send .. => s

/-- A released write takes effect (R215). -/
def State.release1 (s : State) (addr v : Nat) : State :=
  match windowOf addr with
  | some (.order a) =>
    (((s.put (LVL_ARM_ORDER_N a) v).put (LVL_ARM_ORDER_DIR a) (v / 2048)).put (LVL_ARM_ORDER_FRAC a) (v / 65536)).postOrder a
  | some (.og n f) =>
    (s.put ⟨addr, 0, 32, 0⟩ v).windowTaken (.og n f)
  | some (.send d w) => s.put (CL_VSEND_VAL d w) v
  | none => s

/-- The VARS message of link `d` for a release that wrote send registers (R368). -/
def State.sendVars (s : State) (writes : List (Nat × Nat)) (d : Nat) : State :=
  let ws := (List.range 32).filter fun w => writes.any fun e => e.1 = (CL_VSEND_VAL d w).addr
  if ws.isEmpty then s
  else if s.lstate (17 + d) ≠ lsActive then s.count VAR_DROP
  else
    let l := ws.map fun w => (w, s.get (CL_VSEND_VAL d w))
    s.baseSend d 2 (varsBytes s.tb.tick l) (.vars d (s.tb.tick % 2 ^ 32) l)

/-- The staged outputs are released in write order (R215, R368). -/
def State.releaseAll (s : State) (writes : List (Nat × Nat)) : State :=
  let s1 := writes.foldl (fun s e => s.release1 e.1 e.2) s
  (List.range 4).foldl (fun s d => s.sendVars writes d) s1

/-! ### End and abort of an instance -/

/-- Nothing that a lane holds survives its instance (R210). -/
def State.freeLane (s : State) (n : Nat) : State := (s.setLane n {}).put (LE_LANE_STAT_BUSY n) 0

/-- The instance on lane `n` is aborted: its staged outputs are discarded (R215). -/
def State.abortLane (s : State) (n : Nat) : State :=
  let i := s.get (LE_LANE_STAT_SLOT n)
  (((s.freeLane n).clearPending i).showSlot i ssIdle).evalSlot i

/-- The completion targets of slot `i` (R218). -/
def State.targets (s : State) (i : Nat) : List (Nat × Nat) :=
  (if s.cfgOn (SCH_SLOT_DONE_EN0 i) then [(s.cfg (SCH_SLOT_DONE_SLOT0 i), s.cfg (SCH_SLOT_DONE_FLAG0 i))] else []) ++
    (if s.cfgOn (SCH_SLOT_DONE_EN1 i) then [(s.cfg (SCH_SLOT_DONE_SLOT1 i), s.cfg (SCH_SLOT_DONE_FLAG1 i))] else [])

/-- The lane runs an instance. -/
def State.laneBusy (s : State) (n : Nat) : Bool := n < 16 && s.on (LE_LANE_STAT_BUSY n)

/-- A release that starts now is not complete before the cut-off of the tick (R229): it takes up to 70 ns, how much is a free
value (R215, log entry 8). -/
def State.releaseLate (s : State) : Bool :=
  s.tb.started && !s.tb.cutDone && (s.tb.nextStart - s.cfg TB_CUTOFF_LEAD ≤ s.now + s.free 35)

/-- The instance on lane `n` has ended: its outputs are released, or, not complete before the cut-off, wait for it (R215,
R229). -/
def State.releaseEnd (s : State) (n : Nat) : State :=
  let l := (s.lane n).staged
  (if s.releaseLate then { s with sch := { s.sch with lateOut := s.sch.lateOut ++ l } } else s.releaseAll l).used

/-- After the cut-off, outputs whose release was not complete take effect for the frame after (R229). -/
def State.takeLate (s : State) : State :=
  if s.sch.lateOut.isEmpty then s
  else ({ s with sch := { s.sch with lateOut := [] } } : State).releaseAll s.sch.lateOut

/-- TASK_END (R210, R215, R218): the instance on lane `n` executes the end instruction. -/
def execTaskEnd (n : Nat) (s : State) : Result :=
  s.inDatum fun s =>
    if !s.laneBusy n then s
    else
      let i := s.get (LE_LANE_STAT_SLOT n)
      let s1 := (s.releaseEnd n).put (SCH_SLOT_STAT_DONE_TICK i) 1
      let s2 := ((s1.freeLane n).clearPending i).showSlot i ssIdle
      (s2.setFlags (s2.targets i)).evalSlot i

/-- A lane fault of lane `n` with its cause (R214). -/
def State.laneFault (s : State) (n cause : Nat) : State :=
  (((s.put (LE_LANE_STAT_FCAUSE n) cause).count LANE_FAULT).abortLane n).raise 79

/-- OUTPUT_WINDOW_WRITE (R214, R215): a lane stages a write; a 65th aborts the instance. -/
def execOutputWindowWrite (n addr v : Nat) (s : State) : Result :=
  s.inDatum fun s =>
    if !s.laneBusy n then s
    else if (windowOf addr).isNone then s.laneFault n 4
    else if (s.lane n).staged.length < 64 then
      s.setLane n { s.lane n with staged := (s.lane n).staged ++ [(addr, v % 2 ^ 32)] }
    else ((s.count OUTBUF_OVF).abortLane n).raise 75

/-- SIGNAL_INSTRUCTION (R218). -/
def execSignalInstruction (n i flag : Nat) (s : State) : Result :=
  s.inDatum fun s => if s.laneBusy n then s.setFlags [(i % 128, flag % 32)] else s

/-- Slot `i` is cancelled (R222). `ready` says that it becomes ready in the cycle of the cancel. Of a slot with an instance
queued or HELD that is PENDING as well, both rows of the table apply, with one count (DESIGN CHOICE, log entry 132). -/
def State.cancel (s : State) (i : Nat) (ready : Bool) : State :=
  let inst := s.instOf i
  if inst = ssIdle && ready then
    ((((s.clearMask i).count READY_CNT).count CANCEL_CNT).count READY_CANCEL)
  else if inst = ssQueued || inst = ssHeld then
    let s1 := match s.queueOf i with
      | some q => s.setQueue q ((s.queue q).filter (· ≠ i))
      | none => s
    let s2 := if s1.slotPending i then (s1.clearMask i).clearPending i else s1
    (s2.showSlot i ssIdle).count CANCEL_CNT
  else if inst = ssRunning && !s.slotPending i then s.count CANCEL_MISS
  else (((s.clearMask i).clearPending i).showSlot i inst).count CANCEL_CNT

/-- CANCEL_INSTRUCTION (R222). -/
def execCancelInstruction (n i : Nat) (ready : Bool) (s : State) : Result :=
  s.inDatum fun s => if s.laneBusy n then s.cancel (i % 128) ready else s

/-- SLOT_CANCEL (R222): a write to SCH_CANCEL. -/
def execSlotCancel (i : Nat) (ready : Bool) (s : State) : Result :=
  s.byWrite s.isDatum fun s => (stOk, s.cancel (i % 128) ready)

/-- SET_FLAG (R216, R218): a write to SCH_SETFLAG. -/
def execSetFlag (i flag : Nat) (s : State) : Result :=
  s.byWrite s.isDatum fun s => (stOk, s.setFlags [(i % 128, flag % 32)])

/-- LANE_FAULT (R214): cause 1 fetch, 2 data address, 3 encoding, 4 output window. -/
def execLaneFault (n cause : Nat) (s : State) : Result :=
  s.inDatum fun s => if s.laneBusy n && (1 ≤ cause) && (cause ≤ 4) then s.laneFault n cause else s

/-- NAN_RESULT (R209): the first in an instance raises source 74. -/
def execNanResult (n : Nat) (s : State) : Result :=
  s.inDatum fun s =>
    if !s.laneBusy n then s
    else
      let s1 := (s.put (LE_LANE_STAT_NAN n) 1).count NAN_CNT
      if (s.lane n).nan then s1 else (s1.setLane n { s1.lane n with nan := true }).raise 74

/-- DATA_ECC_ERROR (R213): an error in the 64-bit word at byte offset `ofs` of loop data memory. `kind` 0 is a
single-bit error, 1 an uncorrectable one met by lane `n`, 2 or 3 one that stays in the word: a management read meets it
with PARITY, and an ADC or state copy abandons its copy of that word and raises source 72; 4 marks entry `ofs` of the repetitive memory pool (R241). -/
def execDataEccError (kind ofs n : Nat) (s : State) : Result :=
  s.inDatum fun s =>
    match kind with
    | 0 => (s.count ECC_COR).raise 73
    | 1 =>
      if s.laneBusy n then
        (((s.put LE_ECC_ADDR_ADDR (ofs / 8 * 8)).count ECC_UNC).abortLane n).raise 72
      else s
    | 2 | 3 => { s with mbad := addOnce s.mbad (loopDataBase + ofs / 8 * 8) }
    | 4 => { s with cf := { s.cf with bad := addOnce s.cf.bad ofs } }
    | _ => s

/-- PROGRAM_ECC_ERROR (R211): corrected and counted, or the instance is aborted. -/
def execProgramEccError (n : Nat) (corrected : Bool) (s : State) : Result :=
  s.inDatum fun s =>
    if !s.laneBusy n then s
    else if corrected then s.count PM_COR
    else (s.abortLane n).raise 78

/-! ### The cut-off and the tick start -/

/-- Slot `i` overruns at the cut-off (R223): a slot is due by DL_EN alone. -/
def State.overruns (s : State) (i : Nat) : Bool := s.cfgOn (SCH_SLOT_CFG_DL_EN i) && !s.on (SCH_SLOT_STAT_DONE_TICK i)

/-- An instance that was queued or HELD is gone: the slot is evaluated again (R216). -/
def State.removed (s : State) (i : Nat) : State := ((s.clearPending i).showSlot i ssIdle).evalSlot i

/-- An overrunning slot's instance is removed or aborted (R223). -/
def State.overrun1 (s : State) (i : Nat) : State :=
  let s1 := (s.count (SCH_SLOT_OVR i)).put (SCH_SLOT_STAT_OVR_LAST i) 1
  match s1.laneOf i, s1.queueOf i with
  | some n, _ => s1.abortLane n
  | none, some q => (s1.setQueue q ((s1.queue q).filter (· ≠ i))).removed i
  | none, none => if s1.instOf i = ssHeld then s1.removed i else s1

/-- The due slots at the cut-off (R223): the truth value says that one overran. In JOIN no overrun counts (R264). -/
def State.dueSlots (s : State) : Bool × State :=
  if s.get TW_STAT_MODE = 1 then (false, s)
  else
    let ovr := (List.range 128).filter s.overruns
    let s0 := (List.range 128).foldl (fun s i => if s.on (SCH_SLOT_STAT_OVR_LAST i) then s.put (SCH_SLOT_STAT_OVR_LAST i) 0
      else s) s
    if ovr.isEmpty then (false, s0) else (true, ((ovr.foldl State.overrun1 s0).count OVR_TICKS).raise 70)

/-- The count of consecutive overrun ticks (R225): the 8-bit OVR_RUN stays at 255 (DESIGN CHOICE, log entry 134). -/
def State.overrunTick (s : State) (overrun : Bool) : State :=
  if overrun then s.put LE_STAT_OVR_RUN (min 255 (s.get LE_STAT_OVR_RUN + 1))
  else ({ s with sch := { s.sch with ovrRaised := false } }).put LE_STAT_OVR_RUN 0

/-- OVERRUN_LIMIT (R225, R406). -/
def execOverrunLimit (s : State) : Result :=
  s.inDatum fun s =>
    if s.cfg LE_OVR_CFG_LIM ≤ s.get LE_STAT_OVR_RUN ∧ ¬ s.sch.ovrRaised then
      ({ s with sch := { s.sch with ovrRaised := true } }).raise 71
    else s

/-- The scheduler at a tick start: slots with TCLR are cleared before the flags of the tick start (R217, R218). -/
def State.schedTick (s : State) : State :=
  let s1 := (List.range 128).foldl (fun s i =>
    let t := if s.on (SCH_SLOT_STAT_DONE_TICK i) then s.put (SCH_SLOT_STAT_DONE_TICK i) 0 else s
    if t.cfgOn (SCH_SLOT_CFG_TCLR i) then t.put (SCH_SLOT_FLAGS_FLAGS i) 0 else t) s
  s1.routeEvent 0

/-! ### Bank swap (R226) -/

/-- A write of 1 to LE_BANK.SWAP_REQ. -/
def wrSwapReq : Write := fun s =>
  let ahead := (s.get LE_SWAP_TICK_TICK + 2 ^ 32 - s.tb.tick % 2 ^ 32) % 2 ^ 32
  if !s.on LE_BANK_IDLE_OK then (stIncompatible, s)
  else if ahead < 2 ∨ 2 ^ 31 ≤ ahead then (stBadParam, s)
  else (stOk, (s.put LE_BANK_SWAP_REQ 1).put LE_BANK_SWAP_PEND 1)

/-- SWAP_REQUEST (R226). -/
def execSwapRequest (s : State) : Result := s.byWrite s.isDatum wrSwapReq

/-- A pending swap ends without taking place: source 76 (R226). SWAP_REQ reads 0 from then on (DESIGN CHOICE, log entry 133). -/
def State.dropSwap (s : State) : State :=
  if s.on LE_BANK_SWAP_PEND then ((s.put LE_BANK_SWAP_REQ 0).put LE_BANK_SWAP_PEND 0).raise 76 else s.put LE_BANK_SWAP_REQ 0

/-- SWAP_WITHDRAW (R226): a write of 0 to LE_BANK.SWAP_REQ. -/
def execSwapWithdraw (s : State) : Result := s.byWrite s.isDatum fun s => (stOk, s.dropSwap)

/-- The idle bank is written: IDLE_OK clears, and a swap is no longer possible (R226). -/
def State.idleWritten (s : State) : State := if s.on LE_BANK_IDLE_OK then (s.put LE_BANK_IDLE_OK 0).dropSwap else s

/-- BANK_SWAP (R226): at the start of the tick named, running instances are aborted and the banks exchange. SWAP_REQ reads 0
from then on (DESIGN CHOICE, log entry 133). -/
def execBankSwap (s : State) : Result :=
  s.inDatum fun s =>
    if s.on LE_BANK_SWAP_PEND ∧ s.on TB_STAT_TICK_RUN ∧ s.tb.tick % 2 ^ 32 = s.get LE_SWAP_TICK_TICK then
      let running := (List.range 16).filter fun n => s.on (LE_LANE_STAT_BUSY n)
      let s1 := running.foldl (fun s n => (s.count SWAP_ABORT).abortLane n) s
      (((s1.put LE_BANK_ACTIVE (1 - s1.get LE_BANK_ACTIVE)).put LE_BANK_IDLE_OK 0).put LE_BANK_SWAP_PEND 0).put
        LE_BANK_SWAP_REQ 0
    else s

/-! ### Dirty lines (R227) -/

/-- A management write to loop data memory marks its line of the state region as dirty. -/
def State.markDirty (s : State) (addr : Nat) : State :=
  let ofs := addr - loopDataBase
  if loopDataBase ≤ addr ∧ s.cfg LE_DIRTY_BASE_VAL ≤ ofs ∧ ofs < s.cfg LE_DIRTY_BASE_VAL + s.cfg LE_DIRTY_LEN_VAL then
    { s with sch := { s.sch with dirty := addOnce s.sch.dirty (ofs / 64 * 64) } }
  else s

/-- The words of the 64-byte line at offset `a` that a state copy can read: the whole line, or, of a line with a word that has
an uncorrectable error, its other words one by one (R213). -/
def State.lineParts (s : State) (a : Nat) : List (Nat × List Nat) :=
  let ws := (List.range 8).map fun i => a + 8 * i
  if ws.any fun w => s.mbad.contains (loopDataBase + w) then
    (ws.filter fun w => !s.mbad.contains (loopDataBase + w)).map fun w => (w, memBytes s.mem (loopDataBase + w) 8)
  else [(a, memBytes s.mem (loopDataBase + a) 64)]

/-- Source 72 for each word with an uncorrectable error among the addresses that a copy meets (R213). -/
def State.badWords (s : State) (addrs : List Nat) : State :=
  (s.mbad.filter addrs.contains).foldl (fun s _ => s.raise 72) s

/-- Up to 128 dirty lines in ascending order are taken and their marks cleared (R227). -/
def State.takeDirty (s : State) : List (Nat × List Nat) × State :=
  let ls := (sortNat s.sch.dirty).take 128
  (ls.flatMap s.lineParts,
    ({ s with sch := { s.sch with dirty := s.sch.dirty.filter fun a => !ls.contains a } }).badWords
      (ls.flatMap fun a => (List.range 8).map fun i => loopDataBase + a + 8 * i))

/-! ### The checks of group 5 (R228) -/

/-- The checks of R228 on the values that `g` gives the configuration fields. -/
def schedCheck (g : Fld → Nat) : Bool :=
  ((List.range 128).all fun i => g (SCH_SLOT_CFG_EN i) ≠ 1 ||
    (g (SCH_SLOT_MASK_MASK i) ≠ 0 && g (SCH_SLOT_CFG_LANEMASK i) ≠ 0 && (g (SCH_SLOT_ENTRY_ENTRY0 i) < 0x8000) &&
      (g (SCH_SLOT_ENTRY_ENTRY1 i) < 0x8000) && (g (SCH_SLOT_DBASE_DBASE i) < 0x200000) &&
      g (SCH_SLOT_DBASE_DBASE i) % 8 = 0)) &&
    ((List.range 32).all fun n => g (SCH_ROUTE_EN n) ≠ 1 || g (SCH_ROUTE_SRC n) ≤ 20) &&
    ((List.range 8).all fun q => (1 ≤ g (SCH_QDEPTH_DEPTH q)) && g (SCH_QDEPTH_DEPTH q) ≤ 128) &&
    (1 ≤ g LE_OVR_CFG_LIM) && g LE_OVR_CFG_LIM ≤ 255

/-- A strobe of group 5 lets slots that now satisfy their mask become ready (R216). -/
def State.schedStrobed (s : State) : State := (List.range 128).foldl State.evalSlot s

end Sys2Proof.Machine
end

