-- ==== Sys2Proof/Machine/Measurement.lean ====
section
/-! DEFINITION. Converters, pairs, calibration and the cell measurement of a Stake
(07_measurement_and_aux_supply.md), and the firing of time-event units, which start passes (R54, R55). -/

namespace Sys2Proof.Machine

/-! ### Converters and pairs -/

/-- Converter `n`. -/
def State.conv (s : State) (n : Nat) : Conv := (kget s.ad.conv n).getD {}

/-- The state with converter `n` changed. -/
def State.setConv (s : State) (n : Nat) (c : Conv) : State := { s with ad := { s.ad with conv := kset s.ad.conv n c } }

/-- Pair `m`. -/
def State.adPair (s : State) (m : Nat) : AdPair := (kget s.ad.pair m).getD {}

/-- The state with pair `m` changed. -/
def State.setAdPair (s : State) (m : Nat) (p : AdPair) : State :=
  { s with ad := { s.ad with pair := kset s.ad.pair m p } }

/-- Converter `n` is calibrating. -/
def State.calBusy (s : State) (n : Nat) : Bool := bitOf (s.get AD_STAT_CAL_BUSY) n

/-- A pass of converter `n` runs. -/
def State.passBusy (s : State) (n : Nat) : Bool := s.on (AD_SEQ_STAT_BUSY n)

/-- Pair `m` is mirrored (R195). -/
def State.mirrored (s : State) (m : Nat) : Bool := s.cfgOn (AD_PAIR_CFG_MIRROR m)

/-- The carrier of pair `m` (R195). -/
def State.carrier (s : State) (m : Nat) : Nat := 2 * m + s.cfg (AD_PAIR_CFG_CARRIER m)

/-- The converter whose results are the pair's: the carrier, or the other while the carrier calibrates (R195). -/
def State.pairConv (s : State) (m : Nat) : Nat :=
  let c := s.carrier m
  if s.mirrored m then (if s.calBusy c then 4 * m + 1 - c else c) else 2 * m

/-- The converter whose sequence settings converter `n` runs (R195). -/
def State.seqOf (s : State) (n : Nat) : Nat := if s.mirrored (n / 2) then n / 2 * 2 else n

/-- The entries of a pass of converter `n` as the active copy has them: input, DIFF, ACQ, CMP. -/
def State.seqTable (s : State) (n : Nat) : List (Nat × Nat × Nat × Nat) :=
  let q := s.seqOf n
  (List.range (s.cfg (AD_SEQ_CFG_LEN q))).map fun e =>
    (s.cfg (AD_SEQ_E_IN q e), s.cfg (AD_SEQ_E_DIFF q e), s.cfg (AD_SEQ_E_ACQ q e), s.cfg (AD_SEQ_E_CMP q e))

/-- The hold instants of the entries of a pass, in half nanoseconds after its start (R188). -/
def holdsOf (table : List (Nat × Nat × Nat × Nat)) : List Nat :=
  (table.drop 1).foldl (fun l e => l ++ [l.getLastD 0 + 200 + 25 * e.2.2.1]) [0]

/-- The conversions of the cell voltage of converter `n` that are not complete, with that of a pass of `table` that starts
now (R199): in a Stake, of ADC0 and, in a mirrored pair, of ADC1. -/
def State.cellsAt (s : State) (n : Nat) (j0 : Bool) (table : List (Nat × Nat × Nat × Nat)) : List CellConv :=
  let e := s.cfg AD_STAKE_CELL_E
  let mir := s.mirrored (n / 2)
  let open' := (s.conv n).cells.filter fun c => 4 * s.now ≤ c.hold + 200
  if s.role = .stake && (n = 0 || (n = 1 && mir)) && e < table.length then
    open' ++ [{
      startAt := s.now, hold := 4 * s.now + (holdsOf table).getD e 0, diff := (table.getD e (0, 0, 0, 0)).2.1, mir := mir
      j0 := if j0 then some s.tb.tick else none }]
  else open'

/-- A pass of converter `n` starts (R188). -/
def State.startPass (s : State) (n : Nat) (j0 : Bool) : State :=
  let t := s.seqTable n
  (s.setConv n { s.conv n with
    startAt := s.now, j0 := j0, mir := s.mirrored (n / 2), table := t, holds := holdsOf t
    cells := s.cellsAt n j0 t }).put (AD_SEQ_STAT_BUSY n) 1

/-- A pass that started in this cycle is that of j = 0 as well (R190). -/
def State.mergeJ0 (s : State) (n : Nat) : State :=
  s.setConv n { s.conv n with
    j0 := true
    cells := (s.conv n).cells.map fun c => if c.startAt = s.now then { c with j0 := some s.tb.tick } else c }

/-- A trigger at one converter (R190): a pass, nothing for a second trigger in one cycle, or a drop; the truth value
says that the trigger was dropped. `held` says that its partner runs a pass: then it does not start alone (R195). -/
def State.trigConv (s : State) (n : Nat) (j0 held : Bool) : Bool × State :=
  if s.calBusy n then (true, s.count (AD_CAL_DROP n))
  else if s.passBusy n && (s.conv n).startAt = s.now then (false, if j0 then s.mergeJ0 n else s)
  else if s.passBusy n || held then (true, s.count (AD_SEQ_OVR n))
  else (false, s.startPass n j0)

/-- At the first pass start after its calibration a converter rejoins the pair: ROT 1 to 2, or 3 to 4 (R197). -/
def State.rotRejoin (s : State) (m : Nat) : State :=
  let r := s.get (AD_PAIR_STAT_ROT m)
  let back := ([2 * m, 2 * m + 1].all fun c => !s.calBusy c && !(s.conv c).calWait) && !(s.adPair m).rotWait
  if (r = 1 ∨ r = 3) ∧ back ∧ ¬ s.passBusy (2 * m) ∧ ¬ s.passBusy (2 * m + 1) then
    let s1 := [2 * m, 2 * m + 1].foldl (fun t c => t.setConv c { t.conv c with left := false }) s
    (s1.setAdPair m { s1.adPair m with rotRun := 0 }).put (AD_PAIR_STAT_ROT m) (r + 1)
  else s

/-- A trigger for converter `n`: in a mirrored pair it starts the pass on both (R189, R195). A converter that has left
its pair for rotating calibration takes no part. While one of the two runs a pass, the other, free again after a
calibration, does not start alone: the trigger is dropped at both (DEDUCED from "with equal hold instants", log entry
105). A trigger dropped at j = 0 raises source 135 (R190). -/
def State.adTrigger (s0 : State) (n : Nat) (j0 : Bool) : State :=
  let m := n / 2
  let s := s0.rotRejoin m
  let cs := if s.mirrored m then ([2 * m, 2 * m + 1].filter fun c => !(s.conv c).left) else [n]
  let held := cs.any fun c => s.passBusy c && (s.conv c).startAt ≠ s.now
  let r := cs.foldl (fun a c => let q := a.2.trigConv c j0 held; (a.1 && q.1, q.2)) (true, s)
  if j0 && r.1 then r.2.raise 135 else r.2

/-- The grid is enabled for converter `n`. -/
def State.gridOn (s : State) (n : Nat) : Bool := s.cfgOn (AD_SEQ_CFG_GRID_EN (s.seqOf n))

/-- The converters that a grid instant at j = 0 triggers, one for a mirrored pair. -/
def State.gridConvs (s : State) : List Nat :=
  (List.range 4).filter fun n => s.gridOn n && (s.seqOf n = n)

/-- The pass time of R188 in half nanoseconds, on the values that `g` gives. -/
def passTime (g : Fld → Nat) (q : Nat) : Nat :=
  150 + ((List.range (g (AD_SEQ_CFG_LEN q) - 1)).map fun e => 200 + 25 * g (AD_SEQ_E_ACQ q (e + 1))).sum

/-- Ticks run: TICK_RUN of a Datum, TICK_LOCK of a Stake (R189). -/
def State.ticksRun (s : State) : Bool := if s.role = .datum then s.on TB_STAT_TICK_RUN else s.on TB_STAT_TICK_LOCK

/-- The length of the present tick in cycles, 0 in a Stake that has no measured period yet (R40). -/
def State.tickLen (s : State) : Nat :=
  if s.role = .datum then s.tb.nextStart - s.tb.tickStart else s.measuredP.getD 0

/-- The cycle of the next sample instant, where it is known (R189). -/
def State.nextSample (s : State) : Option Nat :=
  if !s.ticksRun then none
  else if s.tb.started && !s.tb.sampled then some (s.tb.tickStart + s.cfg TB_SAMPLE_S)
  else if s.role = .datum then (if s.tb.placed then some (s.tb.nextStart + s.cfg TB_SAMPLE_S) else none)
  else if s.tb.havePeriod then some ((s.tb.recd + s.tb.period16 * fine) / (32 * fine) + s.cfg TB_SAMPLE_S)
  else none

/-- The sample instant whose grid holds at cycle `at'`, and the end of that grid; none while the grid runs free (R189). -/
def State.gridSpan (s : State) (at' : Nat) : Option (Nat × Nat) :=
  if s.ticksRun then s.ad.grid.filter fun g => at' < g.2 else none

/-- Cycle `at'` is a grid instant of converter `n` other than j = 0 (R189): a multiple of PER after the sample instant, with
the pass over by S + P; or, on the free-running grid, PER after the last one, with the pass over by the next S. The first
instant of a free-running grid is not fixed (log entry 106). -/
def State.gridDue (s : State) (n at' : Nat) : Bool :=
  let q := s.seqOf n
  let per := s.cfg (AD_SEQ_CFG_PER q)
  let pass := 4 * at' + passTime s.cfg q
  (s.now ≤ at') && match s.gridSpan at' with
    | some (a, e) => (a < at') && (at' - a) % per = 0 && pass ≤ 4 * e
    | none =>
      (((s.conv q).gridAt.all fun l => (l < at') && (at' - l) % per = 0)) && (s.nextSample.all fun t => pass ≤ 4 * t)

/-- A grid instant of converter `n` is now. -/
def State.gridTrigger (s : State) (n : Nat) (j0 : Bool) : State :=
  (s.setConv (s.seqOf n) { s.conv (s.seqOf n) with gridAt := some s.now }).adTrigger n j0

/-- ADC_GRID_TRIGGER (R189): a grid instant after j = 0, or of the free-running grid, at cycle `at'`. -/
def execAdcGridTrigger (n at' : Nat) (s : State) : Result :=
  s.inRun fun s => if n < 4 && s.gridOn n && s.gridDue n at' then (s.advance at').gridTrigger n false else s

/-- ADC_SW_START (R189). -/
def execAdcSwStart (n : Nat) (s : State) : Result :=
  s.byWrite true fun s => if n < 4 then (stOk, s.adTrigger n false) else (stBadParam, s)

/-- The cycle in which time-event unit `n` next fires (R54): a periodic unit at the earliest start plus j periods that is not
past, and later than its last firing. In tick mode the start is NS after the tick start, in every tick anew (DESIGN CHOICE, log
entry 90). -/
def State.tevDue (s : State) (n : Nat) : Nat :=
  let p := s.cfg (TEV_PER_VAL n)
  if s.cfgOn (TEV_CTRL_MODE n) then
    let e := s.tb.tickStart + s.cfg (TEV_NS_VAL n)
    let from' := if (s.tevSt n).fired && s.now ≤ (s.tevSt n).firedAt then (s.tevSt n).firedAt + 1 else s.now
    if !(s.tevSt n).made || p = 0 then e else e + max 1 ((from' - e + p - 1) / p) * p
  else
    let e := s.tevStartNs n
    let from' := if (s.tevSt n).fired && s.now ≤ (s.tevSt n).firedAt then s.time.total + 1 else s.time.total
    if p = 0 then s.cycleOf e
    else s.cycleOf (e + max 0 (gridUp e (2 * p) from') * (2 * p))

/-- An armed unit may fire: in tick mode in a tick that runs, once, or with a period up to the end of the tick (log entry 90); in
absolute mode while station time runs, a one-shot once, and not when it was armed too late (R54). -/
def State.tevReady (s : State) (n : Nat) : Bool :=
  n < 4 && s.cfgOn (TEV_CTRL_EN n) &&
    if s.cfgOn (TEV_CTRL_MODE n) then
      s.tb.started && s.ticksRun &&
        (!(s.tevSt n).made || (s.cfg (TEV_PER_VAL n) ≠ 0 && s.tevDue n < s.tb.tickStart + s.tickLen))
    else s.timeMoves && (s.cfg (TEV_PER_VAL n) ≠ 0 || (!(s.tevSt n).fired && !(s.tevSt n).missed))

/-- TEV_FIRE (R54, R55, R218): the unit fires at its instant, pulses TOUT, starts the sequences it names, and signals its
route. -/
def execTevFire (n : Nat) (s : State) : Result :=
  s.inRun fun s0 =>
    if s0.tevReady n then
      let s := s0.advance (s0.tevDue n)
      let s1 := (s.setTev n { s.tevSt n with
        fires := (s.tevSt n).fires + 1, pulse := true, fired := true, made := (s.tevSt n).made || s.cfgOn (TEV_CTRL_MODE n)
        firedAt := s.now, endAt := s.now + s.cfg (TEV_WID_VAL n) }).put
        (TEV_STAT_FIRED n) 1
      let s2 := s1.tout n true
      let s3 := ((List.range 4).filter (bitOf (s2.cfg (TEV_CTRL_ADCSTART n)))).foldl (fun t c => t.adTrigger c false) s2
      if s3.role = .datum then s3.routeEvent (17 + n) else s3
    else s0

/-! ### Correction and results -/

/-- The correction of R193 of a raw code of converter `n`, as an integer. -/
def State.correct (s : State) (n raw diff : Nat) : Int :=
  let r : Int := if diff = 1 then toSigned 16 raw else (raw % 65536 : Nat)
  let v := ((r - toSigned 16 (s.get (AD_CAL_OFS_OFS n))) * (s.get (AD_CAL_GAIN_GAIN n) : Int) + 65536) / 131072
  if diff = 1 then max (-32768) (min 32767 v) else max 0 (min 65535 v)

/-- A corrected code as a register shows it. -/
def codeOf (v : Int) : Nat := ofSigned 16 v

/-- The corrected results of a pass of converter `n` with the raw codes it measured. -/
def State.passResults (s : State) (n : Nat) (raws : List Nat) : List Int :=
  ((s.conv n).table.zipIdx).map fun e => s.correct n (raws.getD e.2 0) e.1.2.1

/-- Calibration of converter `n` begins (R194). -/
def State.calBegin (s : State) (n : Nat) : State :=
  (s.setConv n { s.conv n with calWait := false }).put AD_STAT_CAL_BUSY (setBitOf (s.get AD_STAT_CAL_BUSY) n)

/-- The end of a pass of converter `n`: results, PASSNO, DONE, and a waiting calibration (R190, R194). -/
def State.endPass (s : State) (n : Nat) (res : List Int) : State :=
  let p := (s.get (AD_SEQ_STAT_PASSNO n) + 1) % 256
  let s1 := (res.zipIdx).foldl
    (fun t e => (t.put (AD_RES_CODE n e.2) (codeOf e.1)).put (AD_RES_PASSNO n e.2) p) s
  let s2 := ((s1.put (AD_SEQ_STAT_PASSNO n) p).put (AD_SEQ_STAT_DONE n) 1).put (AD_SEQ_STAT_BUSY n) 0
  let s3 := s2.setConv n { s2.conv n with
    j0 := false, diffs := (s2.conv n).table.map (·.2.1), passes := (s2.conv n).passes + 1
    holdAt := 4 * (s2.conv n).startAt + (s2.conv n).holds.headD 0 }
  if (s3.conv n).calWait then s3.calBegin n else s3

/-- One compared entry of pair `m` (R196): the truth value says that it disagrees. -/
def State.compareEntry (s : State) (m : Nat) (a b : Int) : Bool × State :=
  let d := min 65535 (a - b).natAbs
  let p := s.adPair m
  let bad := s.cfg (AD_PAIR_CFG_THR m) < d
  let cnt := s.cfg (AD_PAIR_CFG_CNT m)
  let shown := p.limits.getLast?.getD (s.on (AD_PAIR_STAT_MISMATCH m))
  let q := if bad then
      { p with
        disRun := p.disRun + 1, agreeRun := 0
        limits := if cnt ≤ p.disRun + 1 && !shown then p.limits ++ [true] else p.limits }
    else
      { p with
        agreeRun := p.agreeRun + 1, disRun := 0
        limits := if cnt ≤ p.agreeRun + 1 && shown then p.limits ++ [false] else p.limits }
  (bad, (s.setAdPair m q).put (AD_PAIR_STAT_DIFF m) d)

/-- Rotating calibration of pair `m` stops with ROT_ABORT and source 134 (R198). -/
def State.rotAbort (s : State) (m : Nat) : State :=
  (((s.put (AD_PAIR_STAT_ROT m) 0).put AD_STAT_ROT_BUSY (clrBitOf (s.get AD_STAT_ROT_BUSY) m)).put
    (AD_PAIR_STAT_ROT_ABORT m) 1).raise 134

/-- The comparison of a pass that both converters of pair `m` completed (R196), with what it means for rotating
calibration (R197, R198). -/
def State.comparePair (s : State) (m : Nat) (a b : List Int) : State :=
  let cmp := (((s.conv (2 * m)).table.zipIdx).filter fun e => e.1.2.2.2 = 1).map (·.2)
  let r := cmp.foldl (fun x i => let q := x.2.compareEntry m (a.getD i 0) (b.getD i 0); (x.1 || q.1, q.2)) (false, s)
  let s1 := r.2
  let rot := s1.get (AD_PAIR_STAT_ROT m)
  if cmp.isEmpty ∨ ¬ (rot = 2 ∨ rot = 4) then s1
  else if r.1 then s1.rotAbort m
  else s1.setAdPair m { s1.adPair m with rotRun := (s1.adPair m).rotRun + 1 }

/-- Converter `n` leaves its pair and calibrates (R197). -/
def State.rotLeave (s : State) (n : Nat) : State := (s.setConv n { s.conv n with left := true }).calBegin n

/-- The step of rotating calibration at a pass boundary of pair `m` (R197). -/
def State.rotBoundary (s : State) (m : Nat) : State :=
  let rot := s.get (AD_PAIR_STAT_ROT m)
  let p := s.adPair m
  let other := 4 * m + 1 - s.carrier m
  if p.rotWait ∧ rot = 1 then (s.setAdPair m { p with rotWait := false }).rotLeave other
  else if rot = 2 ∧ 16 ≤ p.rotRun then
    let old := s.carrier m
    ((s.putCfg (AD_PAIR_CFG_CARRIER m) (other % 2)).put (AD_PAIR_STAT_ROT m) 3).rotLeave old
  else if rot = 4 ∧ 16 ≤ p.rotRun then
    (s.put (AD_PAIR_STAT_ROT m) 0).put AD_STAT_ROT_BUSY (clrBitOf (s.get AD_STAT_ROT_BUSY) m)
  else s

/-- A limit of R196 is acted on: CNT disagreements set MISMATCH and raise the source, CNT agreements clear it. -/
def State.pairLimit (s : State) (m : Nat) (bad : Bool) : State :=
  if bad then (s.put (AD_PAIR_STAT_MISMATCH m) 1).raise (128 + m) else s.put (AD_PAIR_STAT_MISMATCH m) 0

/-- PAIR_MISMATCH (R196): the limits that the comparison has reached take effect. -/
def execPairMismatch (m : Nat) (s : State) : Result :=
  s.inRun fun s =>
    if 2 ≤ m then s
    else (s.adPair m).limits.foldl (fun t b => t.pairLimit m b) (s.setAdPair m { s.adPair m with limits := [] })

/-! ### Injected conversions -/

/-- The entry of the running pass of converter `n` that an injected conversion interrupts now: the first that is not
converted, 75 ns after its hold. -/
def State.interrupted (s : State) (n : Nat) : Nat :=
  ((s.conv n).holds.filter fun h => 4 * (s.conv n).startAt + h + 150 ≤ 4 * s.now).length

/-- By how much a preemption now makes the hold instants later, in half nanoseconds: the injected conversion takes 100 ns, then the
interrupted entry is acquired anew for 25 ns plus ACQ x 12.5 ns (R188, R192, log entry 107). -/
def State.preemptShift (s : State) (n : Nat) : Nat :=
  let c := s.conv n
  let i := s.interrupted n
  4 * s.now + 250 + 25 * (c.table.getD i (0, 0, 0, 0)).2.2.1 - (4 * c.startAt + c.holds.getD i 0)

/-- The running pass of converter `n` is preempted now: the interrupted entry and every later one hold later (R192). -/
def State.preempt (s : State) (n : Nat) : State :=
  let d := s.preemptShift n
  let c := s.conv n
  let i := s.interrupted n
  s.setConv n { c with
    holds := c.holds.zipIdx.map fun h => if i ≤ h.2 then h.1 + d else h.1
    cells := c.cells.map fun x =>
      if x.startAt = c.startAt && 4 * s.now < x.hold + 150 then { x with hold := x.hold + d } else x }

/-- An injected conversion is requested of one converter (R192). -/
def State.injectConv (s : State) (n inp diff : Nat) (pre : Bool) : State :=
  if s.calBusy n || (s.conv n).inj.isSome || (s.passBusy n && !pre) then s.count (AD_INJ_DROP n)
  else
    let s1 := s.setConv n { s.conv n with inj := some (inp, diff), injAt := s.now }
    if s.passBusy n then (s1.preempt n).count (AD_PREEMPT_CNT n) else s1

/-- A write of START to AD_INJn, with the other fields that the write carries (R192, R195). -/
def wrInject (n inp : Nat) (diff pre : Bool) : Write := fun s =>
  if 4 ≤ n then (stBadParam, s)
  else
    let s1 := ((s.put (AD_INJ_IN n) inp).putB (AD_INJ_DIFF n) diff).setShadow (AD_INJ_PREEMPT n) pre.toNat
    let cs := if s.mirrored (n / 2) then [n / 2 * 2, n / 2 * 2 + 1] else [n]
    (stOk, cs.foldl (fun t c => t.injectConv c (inp % 16) diff.toNat (s.cfgOn (AD_INJ_PREEMPT n))) s1)

/-- ADC_INJECT (R192). -/
def execAdcInject (n inp : Nat) (diff preempt : Bool) (s : State) : Result :=
  s.byWrite true (wrInject n inp diff preempt)

/-- ADC_INJECT_RESULT (R192): the result is there 100 ns after the start. -/
def execAdcInjectResult (n raw : Nat) (s : State) : Result :=
  s.inRun fun s0 =>
    match (s0.conv n).inj with
    | some (_, diff) =>
      let s := s0.advance ((s0.conv n).injAt + 50)
      ((s.setConv n { s.conv n with inj := none }).put (AD_INJ_RES_CODE n) (codeOf (s.correct n raw diff))).put
        (AD_INJ_RES_VALID n) 1
    | none => s0

/-! ### Calibration -/

/-- Self-calibration of one converter is requested (R194). -/
def State.calRequest (s : State) (n : Nat) : State :=
  if s.calBusy n || (s.conv n).calWait then s
  else if s.passBusy n then s.setConv n { s.conv n with calWait := true }
  else s.calBegin n

/-- A write to AD_CTRL.CAL_START (R194, R207). -/
def wrCalStart (mask : Nat) : Write := fun s =>
  let named := (List.range 4).filter (bitOf mask)
  if named.any fun n => s.get (AD_PAIR_STAT_ROT (n / 2)) ≠ 0 ∧ s.carrier (n / 2) = n then (stBusy, s)
  else (stOk, named.foldl State.calRequest s)

/-- ADC_CAL_START (R194). -/
def execAdcCalStart (mask : Nat) (s : State) : Result := s.byWrite true (wrCalStart mask)

/-- Factors pass within 0.9 to 1.1 and 1024 LSB (R194). -/
def calOk (gain ofs : Nat) : Bool :=
  (0x1CCCD ≤ gain) && (gain ≤ 0x23333) && ((toSigned 16 ofs).natAbs ≤ 1024)

/-- ADC_CAL_DONE (R194): the factors measured apply when they pass. -/
def execAdcCalDone (n gain ofs : Nat) (s : State) : Result :=
  s.inRun fun s =>
    if n < 4 ∧ s.calBusy n then
      let s1 := s.put AD_STAT_CAL_BUSY (clrBitOf (s.get AD_STAT_CAL_BUSY) n)
      if calOk gain ofs then
        ((s1.put (AD_CAL_GAIN_GAIN n) gain).put (AD_CAL_OFS_OFS n) ofs).put AD_STAT_CAL_VALID
          (setBitOf (s.get AD_STAT_CAL_VALID) n)
      else s1.raise (130 + n)
    else s

/-- Rotating calibration of pair `m` starts (R197). -/
def State.rotStart (s : State) (m : Nat) : State :=
  let s1 := (s.put (AD_PAIR_STAT_ROT m) 1).put AD_STAT_ROT_BUSY (setBitOf (s.get AD_STAT_ROT_BUSY) m)
  if s.passBusy (2 * m) || s.passBusy (2 * m + 1) then s1.setAdPair m { s1.adPair m with rotWait := true, rotRun := 0 }
  else (s1.setAdPair m { s1.adPair m with rotWait := false, rotRun := 0 }).rotLeave (4 * m + 1 - s1.carrier m)

/-- A write to AD_CTRL.ROT_START (R197). -/
def wrRotStart (mask : Nat) : Write := fun s =>
  let named := (List.range 2).filter (bitOf mask)
  if named.any fun m => !s.mirrored m || s.calBusy (2 * m) || s.calBusy (2 * m + 1) ||
      s.get (AD_PAIR_STAT_ROT m) ≠ 0 then (stBusy, s)
  else (stOk, named.foldl State.rotStart s)

/-- ROT_CAL_START (R197). -/
def execRotCalStart (mask : Nat) (s : State) : Result := s.byWrite true (wrRotStart mask)

/-- ROT_CAL_ABORT (R198): 10 ms after the rejoin 16 compared passes have not been made. -/
def execRotCalAbort (m : Nat) (s : State) : Result :=
  s.inRun fun s =>
    if m < 2 ∧ (s.get (AD_PAIR_STAT_ROT m) = 2 ∨ s.get (AD_PAIR_STAT_ROT m) = 4) ∧ (s.adPair m).rotRun < 16 then
      s.rotAbort m
    else s

/-! ### Cell measurement of a Stake -/

/-- VCODE of a corrected result (R199). -/
def State.vcodeOf (s : State) (c : Int) : Nat :=
  let v := c * (s.cfg AD_VSCALE_MUL : Int) / 65536 + toSigned 32 (s.cfg AD_VOFS_OFS)
  (max 0 (min 0x3FFFFE v)).toNat

/-- The tick in which the hold instant `hold` lies, in half nanoseconds, low 32 bits; 0 before the first lock since PORn
(R199). -/
def State.holdTick (s : State) (hold : Nat) : Nat :=
  if !s.tb.timeRuns || hold < 4 * s.tb.lockedAt then 0
  else if s.tb.havePeriod then
    ofSigned 32 ((s.tb.tick : Int) + ((hold : Int) - 4 * s.tb.tickStart) / ((s.tb.period16 / 8 : Nat) : Int))
  else s.tb.tick % 2 ^ 32

/-- A cell-voltage result of pair 0, of conversion `c`, with the code that the OV comparisons use (R175, R176, R199). -/
def State.cellResult (s : State) (c : CellConv) (own ov : Nat) : State :=
  let s1 := { s with
    ad := { s.ad with
      vcode := own, vEpoch := s.holdTick c.hold
      j0 := (c.j0.map fun k => (k, own)) <|> s.ad.j0 }
    gs := { s.gs with vcode := ov, ov2Run := if s.cfg GS_OV2_LEVEL ≤ ov then s.gs.ov2Run + 1 else 0 } }
  s1.ov1 ov

/-- The oldest conversion of the cell voltage that is not complete, and the converters that make it: both in a mirrored
pair, where both run (R195, R199). -/
def State.cellOpen (s : State) : Option (CellConv × List Nat) :=
  match (s.conv 0).cells.head?, (s.conv 1).cells.head? with
  | none, none => none
  | some a, none => some (a, [0])
  | none, some b => some (b, [1])
  | some a, some b =>
    if a.startAt = b.startAt then some (if s.pairConv 0 = 1 then b else a, [0, 1])
    else if a.startAt < b.startAt then some (a, [0]) else some (b, [1])

/-- The conversion of the cell voltage at converter `n` is complete. -/
def State.cellTaken (s : State) (n : Nat) : State := s.setConv n { s.conv n with cells := (s.conv n).cells.drop 1 }

/-- CELL_VOLTAGE_RESULT (R199): entry CELL_E of a pass of pair 0 is converted 100 ns after its hold instant, which for the
last entry is 25 ns after the end of the pass; `raw` and `rawB` are the raw codes of ADC0 and ADC1. The larger code of a
mirrored pair is compared with the OV levels. -/
def execCellVoltageResult (raw rawB : Nat) (s : State) : Result :=
  s.inStake fun s0 =>
    match s0.cellOpen with
    | none => s0
    | some (x, cs) =>
      let s := cs.foldl State.cellTaken (s0.advance ((x.hold + 203) / 4))
      let code (n : Nat) : Nat := s.vcodeOf (s.correct n (if n = 0 then raw else rawB) x.diff)
      let own := if cs.contains (s.pairConv 0) then s.pairConv 0 else cs.headD 0
      s.cellResult x (code own) ((cs.map code).foldl max 0)

/-- TEMP of the report (R200), as a 16-bit code: the carrier's latest result, with the DIFF of the pass that made it. -/
def State.tempCode (s : State) : Nat :=
  let m := s.cfg AD_STAKE_TEMP_PAIR
  let n := if s.mirrored m then s.pairConv m else s.carrier m
  let e := s.cfg AD_STAKE_TEMP_E
  let code := s.get (AD_RES_CODE n e)
  let c : Int := if (s.conv n).diffs.getD e 0 = 1 then toSigned 16 code else (code : Nat)
  let v := c * toSigned 16 (s.cfg AD_TSCALE_MUL) / 65536 + toSigned 16 (s.cfg AD_TSCALE_OFS)
  ofSigned 16 (max (-32768) (min 32767 v))

/-! ### The checks of group 4 -/

/-- The checks of R206 on a converter. -/
def convCheck (g : Fld → Nat) (n : Nat) : Bool :=
  let mir := g (AD_PAIR_CFG_MIRROR (n / 2)) = 1
  (1 ≤ g (AD_SEQ_CFG_LEN n)) && (g (AD_SEQ_CFG_LEN n) ≤ 32) && (50 ≤ g (AD_SEQ_CFG_PER n)) &&
    (g (AD_SEQ_CFG_PER n) ≤ 50000) &&
    ((List.range 32).all fun e => g (AD_SEQ_E_DIFF n e) ≠ 1 || g (AD_SEQ_E_IN n e) % 2 = 0) &&
    (g (AD_SEQ_CFG_GRID_EN n) ≠ 1 || (mir && n % 2 = 1) || passTime g n + 50 ≤ g (AD_SEQ_CFG_PER n) * 4)

/-- The checks of R206 and R388 on the values that `g` gives the configuration fields; `old` gives the values in
force and `rot` says which pairs are in rotating calibration. -/
def measCheck (g old : Fld → Nat) (stake : Bool) (rot : Nat → Bool) : Bool :=
  (List.range 4).all (convCheck g) &&
    (!stake || ((g AD_STAKE_CELL_E < g (AD_SEQ_CFG_LEN 0)) &&
      (g AD_STAKE_TEMP_E < g (AD_SEQ_CFG_LEN (2 * g AD_STAKE_TEMP_PAIR))) &&
      ([g AUX_TON_TON, g AUX_TOFF_TOFF, g AUX_TON_TONMAX].all fun v => 25 ≤ v && v ≤ 25000) &&
      (g AUX_TON_TON ≤ g AUX_TON_TONMAX) && (g AUX_SYNC_DLY < g AUX_SYNC_PER))) &&
    ((List.range 2).all fun m => !rot m ||
      (g (AD_PAIR_CFG_MIRROR m) = old (AD_PAIR_CFG_MIRROR m) && g (AD_PAIR_CFG_CARRIER m) = old (AD_PAIR_CFG_CARRIER m))) &&
    ((List.range 3).all fun i => g (SH_LVL_LEVEL (i + 1)) < g (SH_LVL_LEVEL i)) &&
    (g (SH_LVL_LEVEL 0) + g SH_CFG_HYST ≤ 2500)

end Sys2Proof.Machine
end

