-- ==== Sys2Proof/Machine/Align.lean ====
section
/-! DEFINITION. Alignment of the tick to that of another Datum (R43, R44, R365, R366). -/

namespace Sys2Proof.Machine

/-- A step that belongs to the start of tick `k` (its low 32 bits): it is taken in that tick, or just before its
TICK_START, after the cut-off of the tick before (log entry 47). -/
def State.atTick (s : State) (k : Nat) : Bool :=
  s.on TB_STAT_TICK_RUN && s.tb.placed &&
    if s.tb.cutDone || !s.tb.started then s.tb.nextTick % 2 ^ 32 = k else s.tb.tick % 2 ^ 32 = k

/-- The own start of tick `k` in 1/16 ns, on the grid in force. -/
def State.ownStart (s : State) (k : Nat) : Int :=
  ((s.tb.tickStart : Int) + toSigned 64 ((k + 2 ^ 64 - s.tb.tick % 2 ^ 64) % 2 ^ 64) * s.tb.period) * 32 + s.tb.sub

/-- The first tick of a device that takes its tick from another: the next tick start of that one (R366). `x` is the
start of tick `k` there, in 1/16 ns. -/
def State.firstTick (s : State) (x : Int) (k : Nat) : State :=
  ({ s with tb := { s.tb with
      nextTick := (k + 1) % 2 ^ 64, nextStart := x.toNat / 32 + s.tb.period, nextSub := x.toNat % 32, placed := true
      endTick := false, change := false, newAnchor := none, newGrid := false } }).put TB_STAT_TICK_RUN 1

/-- The start `x` of tick `k` at the device that this one follows, in 1/16 ns (R366): it starts the first tick, or is
compared with the own start; four consecutive differences of more than 1 ns, or `changed`, lead to a new phase at the
next tick start. -/
def State.alignTo (s : State) (x : Int) (k : Nat) (changed : Bool) : State :=
  if !s.cfgOn TB_CTRL_TICK_EN then s
  else if !s.tb.placed then
    ({ s with cl := { s.cl with errRun := 0, rephase := none } } : State).firstTick x k
  else if !s.tb.started then s
  else
    let bad := 16 < (x - s.ownStart k).natAbs
    let n := if bad then s.cl.errRun + 1 else 0
    let s1 := if bad then s.count ALIGN_ERR else s
    if 4 ≤ n || changed then
      { s1 with cl := { s1.cl with
        errRun := 0, rephase := some (x.toNat + 32 * s.tb.period, (k + 1) % 2 ^ 64) } }
    else { s1 with cl := { s1.cl with errRun := n } }

end Sys2Proof.Machine
end

