-- ==== Sys2Proof/Machine/SoftFloat.lean ====
section
/-! DEFINITION. IEEE 754 binary32 and binary64 on codes, rounding to nearest, ties to even (R209, R231). A code is the
number with the bits of the value. Each operation rounds once, to binary64 (DEDUCED, log entry 9). -/

namespace Sys2Proof

/-- The value of a code: not a number, infinite, or a signed multiple of a power of two. -/
inductive Fl where
  | nan
  | inf (neg : Bool)
  | fin (neg : Bool) (m : Nat) (e : Int)
deriving DecidableEq, Repr

/-- The value of a code with `mb` fraction bits and `eb` exponent bits. -/
def flDec (mb eb c : Nat) : Fl :=
  let neg := bitOf c (mb + eb)
  let ex := c / 2 ^ mb % 2 ^ eb
  let fr := c % 2 ^ mb
  let lo : Int := 1 - (2 ^ (eb - 1) - 1 : Nat) - mb
  if ex = 2 ^ eb - 1 then (if fr = 0 then .inf neg else .nan)
  else if ex = 0 then .fin neg fr lo
  else .fin neg (2 ^ mb + fr) (lo + ex - 1)

/-- `m / 2^k` to the nearest integer, ties to even. -/
def roundShift (m k : Nat) : Nat :=
  let q := m / 2 ^ k
  let r := m % 2 ^ k
  if 2 ^ k < 2 * r ∨ (2 * r = 2 ^ k ∧ q % 2 = 1) then q + 1 else q

/-- Number of bits of a number. -/
def bitLen (m : Nat) : Nat := if m = 0 then 0 else m.log2 + 1

/-- The code nearest to a value, ties to even. -/
def flEnc (mb eb : Nat) : Fl → Nat
  | .nan => (2 ^ (eb + 1) - 1) * 2 ^ (mb - 1)
  | .inf neg => neg.toNat * 2 ^ (mb + eb) + (2 ^ eb - 1) * 2 ^ mb
  | .fin neg m e =>
    let s := neg.toNat * 2 ^ (mb + eb)
    let lo : Int := 1 - (2 ^ (eb - 1) - 1 : Nat) - mb
    if m = 0 then s
    else
      let e1 : Int := max lo (e + bitLen m - (mb + 1))
      let q := if e1 ≤ e then m * 2 ^ (e - e1).toNat else roundShift m (e1 - e).toNat
      let base := (e1 - lo).toNat
      let c := if q < 2 ^ mb then q else base * 2 ^ mb + q
      s + min c ((2 ^ eb - 1) * 2 ^ mb)

/-- The value of a binary64 code. -/
def d64 (c : Nat) : Fl := flDec 52 11 c
/-- The nearest binary64 code. -/
def e64 (v : Fl) : Nat := flEnc 52 11 v
/-- The value of a binary32 code. -/
def d32 (c : Nat) : Fl := flDec 23 8 c
/-- The nearest binary32 code. -/
def e32 (v : Fl) : Nat := flEnc 23 8 v

/-- A binary32 code as binary64. -/
def f64of32 (c : Nat) : Nat := e64 (d32 c)
/-- A binary64 code rounded to binary32. -/
def f32of64 (c : Nat) : Nat := e32 (d64 c)

/-- A binary32 input is invalid: a NaN or an infinity (R231). -/
def invalid32 (c : Nat) : Bool := c / 2 ^ 23 % 256 = 255

/-- A signed integer times a power of two as a value. -/
def flOfInt (i : Int) (e : Int) : Fl := .fin (i < 0) i.natAbs e

/-- The integer of a finite value on the scale `e`. -/
def flAt (neg : Bool) (m : Nat) (e e0 : Int) : Int :=
  let v : Int := (m * 2 ^ (e - e0).toNat : Nat)
  if neg then -v else v

/-- The opposite value. -/
def flNeg : Fl → Fl
  | .nan => .nan
  | .inf n => .inf (!n)
  | .fin n m e => .fin (!n) m e

/-- The exact sum. A sum that is exactly zero is +0.0 unless both terms are negative zero. -/
def flAdd : Fl → Fl → Fl
  | .nan, _ => .nan
  | _, .nan => .nan
  | .inf a, .inf b => if a = b then .inf a else .nan
  | .inf a, .fin .. => .inf a
  | .fin .., .inf b => .inf b
  | .fin a m e, .fin b n f =>
    let e0 := min e f
    let v := flAt a m e e0 + flAt b n f e0
    if v = 0 then .fin (a && b) 0 e0 else flOfInt v e0

/-- The exact product. -/
def flMul : Fl → Fl → Fl
  | .nan, _ => .nan
  | _, .nan => .nan
  | .inf a, .inf b => .inf (a ≠ b)
  | .inf a, .fin b n _ => if n = 0 then .nan else .inf (a ≠ b)
  | .fin a m _, .inf b => if m = 0 then .nan else .inf (a ≠ b)
  | .fin a m e, .fin b n f => .fin (a ≠ b) (m * n) (e + f)

/-- The quotient, with enough bits and a sticky bit to round it. -/
def flDiv : Fl → Fl → Fl
  | .nan, _ => .nan
  | _, .nan => .nan
  | .inf _, .inf _ => .nan
  | .inf a, .fin b _ _ => .inf (a ≠ b)
  | .fin a _ _, .inf b => .fin (a ≠ b) 0 0
  | .fin a m e, .fin b n f =>
    if n = 0 then (if m = 0 then .nan else .inf (a ≠ b))
    else
      let k := 120 + bitLen n
      let q := m * 2 ^ k / n
      let st := if m * 2 ^ k % n = 0 then 0 else 1
      .fin (a ≠ b) (2 * q + st) (e - f - k - 1)

/-- Integer square root by bits: the largest `r` of `n` bits with `r * r ≤ m`. -/
def isqrtFrom (m : Nat) : Nat → Nat → Nat
  | 0, r => r
  | n + 1, r => isqrtFrom m n (if (r + 2 ^ n) * (r + 2 ^ n) ≤ m then r + 2 ^ n else r)

/-- The square root, with enough bits and a sticky bit to round it. -/
def flSqrt : Fl → Fl
  | .nan => .nan
  | .inf n => if n then .nan else .inf false
  | .fin n m e =>
    if m = 0 then .fin n 0 e
    else if n then .nan
    else
      let odd := (e % 2).toNat
      let m1 := m * 2 ^ (240 + odd)
      let r := isqrtFrom m1 (bitLen m1 / 2 + 1) 0
      .fin false (2 * r + if r * r = m1 then 0 else 1) ((e - odd - 240) / 2 - 1)

/-- Sum in binary64. -/
def fadd (a b : Nat) : Nat := e64 (flAdd (d64 a) (d64 b))
/-- Difference in binary64. -/
def fsub (a b : Nat) : Nat := e64 (flAdd (d64 a) (flNeg (d64 b)))
/-- Product in binary64. -/
def fmul (a b : Nat) : Nat := e64 (flMul (d64 a) (d64 b))
/-- Quotient in binary64. -/
def fdiv (a b : Nat) : Nat := e64 (flDiv (d64 a) (d64 b))
/-- Square root in binary64. -/
def fsqrt (a : Nat) : Nat := e64 (flSqrt (d64 a))
/-- Opposite in binary64. -/
def fneg (a : Nat) : Nat := bxor a (2 ^ 63)
/-- Magnitude in binary64. -/
def fabs (a : Nat) : Nat := a % 2 ^ 63

/-- An integer over a power of two in binary64. -/
def fint (i : Int) (e : Int) : Nat := e64 (flOfInt i e)

/-- The order of two values; nothing is less than a NaN. -/
def flLt : Fl → Fl → Bool
  | .nan, _ => false
  | _, .nan => false
  | .inf a, .inf b => a && !b
  | .inf a, .fin .. => a
  | .fin .., .inf b => !b
  | .fin a m e, .fin b n f => let e0 := min e f; flAt a m e e0 < flAt b n f e0

/-- Less than, in binary64. -/
def flt (a b : Nat) : Bool := flLt (d64 a) (d64 b)
/-- Zero of either sign, in binary64. -/
def fzero (a : Nat) : Bool := fabs a = 0
/-- Sign: -1, 0 or 1. -/
def fsign (a : Nat) : Int := if fzero a then 0 else if flt a 0 then -1 else 1
/-- The lesser of two. -/
def fmin (a b : Nat) : Nat := if flt b a then b else a
/-- The greater of two. -/
def fmax (a b : Nat) : Nat := if flt a b then b else a
/-- A value clamped to a range. -/
def fclamp (v lo hi : Nat) : Nat := fmax lo (fmin v hi)

/-- The remainder of a finite value on a positive one, from 0 up to the modulus, exact before rounding. -/
def flMod : Fl → Fl → Fl
  | .fin a m e, .fin _ n f =>
    let e0 := min e f
    let d := flAt false n f e0
    if d = 0 then .nan else flOfInt (flAt a m e e0 % d) e0
  | _, _ => .nan

/-- The remainder in binary64. -/
def fmod (a b : Nat) : Nat := e64 (flMod (d64 a) (d64 b))

/-- The nearest integer to a finite value of either sign, halves upwards; 0 of anything else. -/
def fround (a : Nat) : Int :=
  match d64 a with
  | .fin n m e =>
    let v := flAt n m e (min e (-1))
    (v + 2 ^ ((-(min e (-1))).toNat - 1)) / 2 ^ (-(min e (-1))).toNat
  | _ => 0

/-- 2π in binary64. -/
def twoPi : Nat := 0x401921FB54442D18
/-- The square root of 3 in binary64. -/
def sqrt3 : Nat := 0x3FFBB67AE8584CAA
/-- 1.0 in binary64. -/
def fone : Nat := 0x3FF0000000000000
/-- Positive infinity. -/
def fInf : Nat := 0x7FF0000000000000
/-- 2.0 in binary64. -/
def ftwo : Nat := 0x4000000000000000

/-- A code is a number: no NaN. -/
def isNum (a : Nat) : Bool :=
  match d64 a with
  | .nan => false
  | _ => true

/-- Less than or equal, in binary64; nothing is to a NaN. -/
def fle (a b : Nat) : Bool := isNum a && isNum b && !flt b a

/-! ### Sine and cosine

They are worked out on integers over 2^1300, which keeps every bit of a binary64 argument, and rounded once. -/

/-- Bits after the point. -/
def trigBits : Nat := 1300

/-- 1 / (k x) - 1 / (3 x^3) + ... : the terms of the arc tangent of 1 / x from 1 / (k p) on, over 2^1300. -/
def atanTerms (x : Nat) : Nat → Nat → Nat → Int
  | 0, _, _ => 0
  | n + 1, k, p => ((p / k : Nat) : Int) - atanTerms x n (k + 2) (p / (x * x))

/-- The arc tangent of 1 / x over 2^1300. -/
def atanInv (x : Nat) : Int := atanTerms x 300 1 (2 ^ trigBits / x)

/-- π over 2^1300, by Machin's formula. -/
def piFix : Int := 16 * atanInv 5 - 4 * atanInv 239

/-- r^k / k! - r^(k + 2) / (k + 2)! + ... over 2^1300, from the term `t` of order `k` on; `r2` is r squared. -/
def trigTerms (r2 : Int) : Nat → Nat → Int → Int
  | 0, _, _ => 0
  | n + 1, k, t => t - trigTerms r2 n (k + 2) (t * r2 / 2 ^ trigBits / ((k + 1) * (k + 2) : Nat))

/-- Sine of an angle `r` within an eighth of a turn, `q` quarter turns on, over 2^1300. -/
def sinQuarter (r : Int) (q : Int) : Int :=
  let r2 := r * r / 2 ^ trigBits
  let s := trigTerms r2 120 1 r
  let c := trigTerms r2 120 0 (2 ^ trigBits)
  match (q % 4).toNat with
  | 0 => s
  | 1 => c
  | 2 => -s
  | _ => -c

/-- Sine of an angle over 2^1300, `d` quarter turns on. -/
def sinFix (x : Int) (d : Int) : Int :=
  let half := piFix / 2
  let q := (2 * x + half) / (2 * half)
  sinQuarter (x - q * half) (q + d)

/-- A function of a finite angle, rounded to nearest, ties to even (R231; log entry 9). -/
def trig (d : Int) (a : Nat) : Nat :=
  match d64 a with
  | .fin neg m e => fint (sinFix (flAt neg m e (-(trigBits : Int))) d) (-(trigBits : Int))
  | _ => e64 .nan

/-- Sine in binary64. -/
def fsin (a : Nat) : Nat := if fzero a then a else trig 0 a

/-- Cosine in binary64. -/
def fcos (a : Nat) : Nat := trig 1 a

end Sys2Proof
end

