-- ==== Sys2Proof/Machine/Control.lean ====
section
/-! DEFINITION. The control units of a Datum: order generator, injector, repetitive controller, minimum select,
plausibility check and grid angle trackers (09_control_functions.md). -/

namespace Sys2Proof.Machine

/-! ### Tables in loop data memory (R230) -/

/-- A word of the input table. -/
def State.cfIn (s : State) (ofs : Nat) : Nat := s.memWord (loopDataBase + s.cfg CF_IN_ADDR + ofs)

/-- A word of the output table is written. -/
def State.cfOut (s : State) (ofs v : Nat) : State := s.setMemWord (loopDataBase + s.cfg CF_OUT_ADDR + ofs) v

/-- The tick period in seconds, binary64: PERIOD times 2 ns. -/
def State.hSec (s : State) : Nat := fdiv (fint (s.cfg TB_PERIOD_PERIOD) 0) (fint 500000000 0)

/-- A binary32 register as binary64. -/
def State.reg64 (s : State) (f : Fld) : Nat := f64of32 (s.cfg f)

/-- The source that a field of CF_FSRC names is raised, if it names one. -/
def State.raiseSpare (s : State) (f : Fld) : State :=
  let n := s.cfg f
  if 232 ≤ n ∧ n ≤ 255 then s.raise n else s

/-! ### Order generator (R233 to R237) -/

/-- A rate value that may be taken (R233): positive and finite. -/
def rateOk (c : Nat) : Bool := !invalid32 c && c % 2 ^ 31 ≠ 0 && c < 2 ^ 31

/-- A value not taken counts (R233). -/
def State.badValue (s : State) (n : Nat) : State := (s.count OG_BADVAL).put (OG_CH_STAT_BADVAL n) 1

/-- SET, RATE and RR are latched where they were written since the last cut-off (R233). -/
def State.ogLatch (s : State) (n : Nat) : State :=
  let c := s.ogSt n
  let vs := s.get (OG_CH_SET_VAL n)
  let vr := s.get (OG_CH_RATE_VAL n)
  let vv := s.get (OG_CH_RR_VAL n)
  let okS := !invalid32 vs
  let c1 := { c with
    set := if c.newSet && okS then (if vs = 0x80000000 then 0 else vs) else c.set
    rate := if c.newRate && rateOk vr then vr else c.rate
    rr := if c.newRr && rateOk vv then vv else c.rr
    newSet := false, newRate := false, newRr := false }
  let s1 := s.setOg n c1
  let s2 := if c.newSet && !okS then s1.badValue n else s1
  let s3 := if c.newRate && !rateOk vr then s2.badValue n else s2
  if c.newRr && !rateOk vv then s3.badValue n else s3

/-- A signed value of the sign of an integer. -/
def withSign (i : Int) (v : Nat) : Nat := if i = 0 then 0 else if i < 0 then fneg v else v

/-- The step of a channel (R234, R235); segments 0 HOLD, 1 ACCEL, 2 CRUISE, 3 DECEL. -/
def ogStep (h : Nat) (c0 : OgSt) : OgSt :=
  let rr := f64of32 c0.rr
  let c := if rr ≠ c0.j then
      (if c0.seg = 3 then { c0 with jPend := rr, pend := true } else { c0 with j := rr, pend := false })
    else c0
  let rate := f64of32 c.rate
  if fzero rate || fzero c.j then c
  else
    let set := f64of32 c.set
    let e := fsub set c.y
    if fzero e && fzero c.r then { c with seg := 0 }
    else
      let v := withSign (fsign e) (fmin rate (fsqrt (fmul (fmul ftwo c.j) (fabs e))))
      let jh := fmul c.j h
      let r1 := fadd c.r (fclamp (fsub v c.r) (fneg jh) jh)
      let y1 := fadd c.y (fmul (fdiv (fadd c.r r1) ftwo) h)
      let d := fsub set y1
      let land := !flt jh (fabs r1) && (fzero d || fsign d ≠ fsign e)
      let y2 := if land then set else y1
      let r2 := if land then 0 else r1
      let seg := if y2 = set && fzero r2 then 0
        else if flt (fabs c.r) (fabs r2) then 1
        else if flt (fabs r2) (fabs c.r) then 3
        else 2
      let fin := seg ≠ 3 && c.pend
      { c with y := y2, r := r2, seg := seg, j := if fin then c.jPend else c.j, pend := c.pend && !fin }

/-- The registers of a channel follow its state. -/
def State.ogShow (s : State) (n : Nat) : State :=
  let c := s.ogSt n
  (((s.put (OG_CH_STAT_SEG n) c.seg).putB (OG_CH_STAT_PEND n) c.pend).put (OG_CH_OUT_VAL n) (f32of64 c.y)).put
    (OG_CH_ROUT_VAL n) (f32of64 c.r)

/-- One channel at the cut-off: latch, step, output (R230, R233, R234). A disabled one latches and writes 0.0. -/
def State.ogChannel (s0 : State) (n : Nat) : State :=
  let s := s0.ogLatch n
  if s.cfgOn CF_CTRL_OG_EN && s.cfgOn (OG_CH_CFG_EN n) then
    let s1 := s
    let s2 := (s1.setOg n (ogStep s1.hSec (s1.ogSt n))).ogShow n
    let y := s2.get (OG_CH_OUT_VAL n)
    ((s2.setOg n { s2.ogSt n with out := y }).cfOut (4 * n) y).cfOut (0x40 + 4 * n) (s2.get (OG_CH_ROUT_VAL n))
  else ((s.setOg n { s.ogSt n with out := 0 }).cfOut (4 * n) 0).cfOut (0x40 + 4 * n) 0

/-- Channel `n` outputs exactly zero in the tick after a cut-off: the y written there is +0.0 or -0.0 (R237). -/
def State.ogZero (s : State) (n : Nat) : Bool := (s.ogSt n).out % 2 ^ 31 = 0

/-- A write to OG_CHn_LOAD (R236). -/
def wrOgLoad (n v : Nat) : Write := fun s =>
  if s.cfgOn (OG_CH_CFG_EN n) then (stBusy, s)
  else (stOk, (s.setOg n { s.ogSt n with y := f64of32 v, r := 0, seg := 0, pend := false }).ogShow n)

/-- OG_LOAD (R236). -/
def execOgLoad (n v : Nat) (s : State) : Result :=
  s.byWrite s.isDatum (if 16 ≤ n then fun s => (stBadParam, s) else wrOgLoad n (v % 2 ^ 32))

/-! ### Injector (R238 to R240) -/

/-- Generator `g`. -/
def State.injSt (s : State) (g : Nat) : InjSt := (kget s.cf.inj g).getD {}

/-- The state with generator `g` changed. -/
def State.setInj (s : State) (g : Nat) (c : InjSt) : State := { s with cf := { s.cf with inj := kset s.cf.inj g c } }

/-- A cause of R239 that stops a generator holds. -/
def State.injBlocked (s : State) : Bool := s.on FC_STAT_BLOCK_ACT || s.on FC_STAT_TERMINAL || s.safeBlocked

/-- Length and second tap of the polynomials of R238. -/
def prbsTaps (o : Nat) : Nat × Nat :=
  match o with
  | 0 => (7, 6) | 1 => (9, 5) | 2 => (11, 9) | 3 => (15, 14) | 4 => (23, 18) | _ => (31, 28)

/-- A write of 1 to INJ_GENg_CTRL.ARM (R238): the START tick is the one that INJ_GENg_START names now; the checks come in the
order of R339. -/
def wrInjArm (g : Nat) : Write := fun s =>
  let ahead := (s.get (INJ_GEN_START_VAL g) + 2 ^ 32 - s.tb.tick % 2 ^ 32) % 2 ^ 32
  if ahead < 2 ∨ 2 ^ 31 ≤ ahead then (stBadParam, s)
  else if s.on (INJ_GEN_STAT_ARMED g) || s.on (INJ_GEN_STAT_RUN g) then (stBusy, s)
  else
    let n := (prbsTaps (s.cfg (INJ_GEN_CFG_ORDER g))).1
    (stOk, (s.setInj g { start := (s.tb.tick + ahead) % 2 ^ 64, lfsr := 2 ^ n - 1, value := 0 }).put (INJ_GEN_STAT_ARMED g) 1)

/-- INJ_ARM (R238). -/
def execInjArm (g : Nat) (s : State) : Result :=
  s.byWrite s.isDatum (if 4 ≤ g then fun s => (stBadParam, s) else wrInjArm g)

/-- INJ_STOP (R239). -/
def execInjStop (g : Nat) (s : State) : Result :=
  s.byWrite s.isDatum fun s =>
    if 4 ≤ g then (stBadParam, s) else (stOk, (s.put (INJ_GEN_STAT_ARMED g) 0).put (INJ_GEN_STAT_RUN g) 0)

/-- INJ_RUN_START (R238, R250): armed generators whose START tick has come run, unless a cause of R239 holds. -/
def execInjRunStart (s : State) : Result :=
  s.inDatum fun s =>
    (List.range 4).foldl (fun s g =>
      if s.on (INJ_GEN_STAT_ARMED g) && (s.injSt g).start = s.tb.tick then
        if s.injBlocked then ((s.put (INJ_GEN_STAT_ARMED g) 0).put (INJ_GEN_STAT_ABORT g) 1).count INJ_ABORT
        else (s.put (INJ_GEN_STAT_ARMED g) 0).put (INJ_GEN_STAT_RUN g) 1
      else s) s

/-- Ticks of the run of generator `g` at tick `k`. -/
def State.injM (s : State) (g k : Nat) : Nat := (k + 2 ^ 64 - (s.injSt g).start) % 2 ^ 64

/-- INJ_RUN_END (R238): runs that have lasted DUR ticks end with DONE. -/
def execInjRunEnd (s : State) : Result :=
  s.inDatum fun s =>
    (List.range 4).foldl (fun s g =>
      let d := s.cfg (INJ_GEN_DUR_VAL g)
      if s.on (INJ_GEN_STAT_RUN g) && d ≠ 0 && d ≤ s.injM g s.tb.tick then
        (s.put (INJ_GEN_STAT_RUN g) 0).put (INJ_GEN_STAT_DONE g) 1
      else s) s

/-- The sum of a multisine (R238). -/
def State.multisine (s : State) (g m : Nat) : Nat :=
  (List.range 16).foldl (fun a j =>
    let hk := s.cfg (INJ_GEN_HK_HK g j)
    if hk = 0 then a
    else
      let x := fadd (fdiv (fint (hk * m) 0) (fint (s.cfg (INJ_GEN_NP_VAL g)) 0)) (fint (s.cfg (INJ_GEN_HK_PHASE g j)) (-16))
      fadd a (fmul (s.reg64 (INJ_GEN_AH_VAL g j)) (fsin (fmul twoPi x)))) 0

/-- The value of a generator for tick `m` of its run before the clamp, with its shift register (R238). -/
def State.injRaw (s : State) (g m : Nat) : Nat × Nat :=
  let amp := s.reg64 (INJ_GEN_AMP_VAL g)
  let c := s.injSt g
  match s.cfg (INJ_GEN_CFG_TYPE g) with
  | 0 =>
    let t := prbsTaps (s.cfg (INJ_GEN_CFG_ORDER g))
    let fb := if bitOf c.lfsr (t.1 - 1) ≠ bitOf c.lfsr (t.2 - 1) then 1 else 0
    let reg := if m % s.cfg (INJ_GEN_CFG_HOLDN g) = 0 then (c.lfsr * 2 + fb) % 2 ^ t.1 else c.lfsr
    (if reg % 2 = 1 then amp else fneg amp, reg)
  | 1 =>
    let h := s.hSec
    let t := fmul (fint m 0) h
    let f0 := s.reg64 (INJ_GEN_F0_VAL g)
    let df := fsub (s.reg64 (INJ_GEN_F1_VAL g)) f0
    let den := fmul (fmul ftwo (fint (s.cfg (INJ_GEN_DUR_VAL g)) 0)) h
    let ph := fadd (fmul f0 t) (fdiv (fmul df (fmul t t)) den)
    (fmul amp (fsin (fmul twoPi ph)), c.lfsr)
  | _ => (fmul amp (s.multisine g m), c.lfsr)

/-- The value of generator `g` at the cut-off, for the next tick (R238, R239). -/
def State.injStep (s : State) (g : Nat) : State :=
  let m := s.injM g ((s.tb.tick + 1) % 2 ^ 64)
  let d := s.cfg (INJ_GEN_DUR_VAL g)
  let runs := (s.on (INJ_GEN_STAT_RUN g) || (s.on (INJ_GEN_STAT_ARMED g) && m = 0)) && (d = 0 || m < d) && !s.injBlocked
  if s.cfgOn CF_CTRL_INJ_EN && runs then
    let r := s.injRaw g m
    let top := s.reg64 (INJ_GEN_AMAX_VAL g)
    let clips := flt top (fabs r.1)
    let s1 := s.setInj g { s.injSt g with lfsr := r.2, value := if clips then withSign (fsign r.1) top else r.1 }
    if clips then s1.put (INJ_GEN_STAT_CLAMP g) 1 else s1
  else s.setInj g { s.injSt g with value := 0 }

/-- The output of injection point `i` (R240). -/
def State.injPoint (s : State) (i : Nat) : Nat :=
  if s.cfgOn CF_CTRL_INJ_EN && s.cfgOn (INJ_PT_EN i) then
    f32of64 (fmul (fint (toSigned 16 (s.cfg (INJ_PT_GAIN i))) (-14)) (s.injSt (s.cfg (INJ_PT_GEN i))).value)
  else 0

/-- The injector at the cut-off. -/
def State.injector (s : State) : State :=
  let s1 := (List.range 4).foldl State.injStep s
  (List.range 32).foldl (fun s i => s.cfOut (0x80 + 4 * i) (s.injPoint i)) s1

/-! ### Repetitive controller (R241 to R243) -/

/-- Repetitive channel `c`. -/
def State.rcSt (s : State) (c : Nat) : RcSt := (kget s.cf.rc c).getD {}

/-- The state with repetitive channel `c` changed. -/
def State.setRc (s : State) (c : Nat) (v : RcSt) : State := { s with cf := { s.cf with rc := kset s.cf.rc c v } }

/-- Address of entry `i` of the memory of channel `c`. -/
def State.rcAddr (s : State) (c i : Nat) : Nat := poolBase + 4 * (s.cfg (RC_CH_MEM_BASE c) + i)

/-- A memory entry is read: an uncorrectable one is 0.0, is written back, and raises the source of RCMEM (R241). -/
def State.rcRead (s : State) (c i : Nat) : Nat × State :=
  let n := s.cfg (RC_CH_MEM_BASE c) + i
  if s.cf.bad.contains n then
    (0, (({ s with cf := { s.cf with bad := s.cf.bad.filter (· ≠ n) } }).setMemWord (s.rcAddr c i) 0).raiseSpare CF_FSRC_RCMEM)
  else (f64of32 (s.memWord (s.rcAddr c i)), s)

/-- The period of channel `c` in force (R242). -/
def State.rcN (s : State) (c : Nat) : Nat := s.get (RC_CH_PER_PER_ACT c)

/-- The period that a tracker asks for (R242): one of frequency 0 asks for one without end, which the clamp makes LEN. -/
def State.rcTracked (s : State) (c : Nat) : Nat :=
  let a : AngSt := (kget s.cf.ang (s.cfg (RC_CH_CFG_PERSRC c) - 1)).getD {}
  let x := fdiv fone (fmul (fdiv a.omega twoPi) s.hSec)
  let len := s.cfg (RC_CH_MEM_LEN c)
  max 2 (if x = fInf then len else min len (fround x).toNat)

/-- The period that takes effect at this cut-off, if it differs from the one in force: a new PER (R242). -/
def State.rcNewPer (s : State) (c : Nat) : Option Nat :=
  if s.cfg (RC_CH_CFG_PERSRC c) = 0 ∧ s.cfg (RC_CH_PER_PER c) ≠ s.rcN c then some (s.cfg (RC_CH_PER_PER c)) else none

/-- One entry of a resampled memory (R243). -/
def State.rcInterp (s : State) (c old new m : Nat) : Nat × State :=
  let i := m * old / new
  let f := fdiv (fint (m * old % new) 0) (fint new 0)
  let a := s.rcRead c i
  let b := a.2.rcRead c ((i + 1) % old)
  (f32of64 (fadd (fmul (fsub fone f) a.1) (fmul f b.1)), b.2)

/-- The resampled entries from `m` on (R243). -/
def State.rcEntries (s : State) (c old new m : Nat) : Nat → List Nat × State
  | 0 => ([], s)
  | k + 1 =>
    let a := s.rcInterp c old new m
    let r := a.2.rcEntries c old new (m + 1) k
    (a.1 :: r.1, r.2)

/-- The memory of channel `c`, which has stepped, resampled to period `new`, and its position with it (R243). -/
def State.rcResample (s : State) (c new : Nat) : State :=
  let old := s.rcN c
  let r := s.rcEntries c old new 0 new
  let s1 := (r.1.zipIdx).foldl (fun s e => s.setMemWord (s.rcAddr c e.2) e.1) r.2
  let k := s1.rcSt c
  ((s1.setRc c { k with j := k.j * new / old, perRun := 0, perDue := none }).put
    (RC_CH_PER_PER_ACT c) new).count RC_RESAMP

/-- CORE cycles of a resample (R243). -/
def resampleTime (n : Nat) : Nat := (n + 31) / 32 + 12

/-- Nanoseconds that resampling has from the end of the step to 20 ns before the tick start (R243, R249). -/
def State.resampleRoom (s : State) : Nat := if s.cfg TB_CUTOFF_LEAD < 160 then 0 else 2 * s.cfg TB_CUTOFF_LEAD - 180

/-- The position of channel `c` advances (R241). -/
def State.rcAdvance (s : State) (c : Nat) : State := s.setRc c { s.rcSt c with j := ((s.rcSt c).j + 1) % s.rcN c }

/-- The correction that channel `c`, whose position has advanced, puts out (R241). -/
def State.rcPut (s : State) (c : Nat) : State :=
  let k := s.rcSt c
  let a := s.rcRead c ((k.j + s.cfg (RC_CH_CFG_LEAD c)) % s.rcN c)
  let u := f32of64 a.1
  (a.2.setRc c { k with u := u }).cfOut (0x200 + 4 * c) u

/-- What a step does after learning (R241): the entry at j + 1 + LEAD is put out, and the position advances. -/
def State.rcOutput (s : State) (c : Nat) : State := (s.rcAdvance c).rcPut c

/-- The channel learns from its error (R241). -/
def State.rcLearn (s : State) (c : Nat) : State :=
  let e := s.cfIn (4 * c)
  if invalid32 e then s.count RC_NOLEARN
  else
    let k := s.rcSt c
    let n := s.rcN c
    let a := s.rcRead c k.j
    let x := fadd a.1 (fmul (s.reg64 (RC_CH_GAIN_VAL c)) (f64of32 e))
    let p := a.2.rcRead c ((k.j + n - 1) % n)
    let q := p.2.rcRead c ((k.j + 1) % n)
    let v := fmul (s.reg64 (RC_CH_ALPHA_VAL c))
      (fadd (fmul (s.reg64 (RC_CH_Q0_VAL c)) x) (fmul (s.reg64 (RC_CH_Q1_VAL c)) (fadd p.1 q.1)))
    let lim := s.reg64 (RC_CH_LIM_VAL c)
    q.2.setMemWord (s.rcAddr c k.j) (f32of64 (fclamp v (fneg lim) lim))

/-- The count of consecutive cut-offs for which the tracked period has differed; none while the channel follows no tracker
(R242). -/
def State.rcTrack (s : State) (c : Nat) : State :=
  if s.cfg (RC_CH_CFG_PERSRC c) = 0 then s.setRc c { s.rcSt c with perRun := 0, perDue := none }
  else
    let n := s.rcTracked c
    let k := s.rcSt c
    s.setRc c { k with perRun := if n = s.rcN c then 0 else k.perRun + 1, perDue := none }

/-- A channel at the cut-off: it learns unless its period changes there (R241, R243). `room` is the time left for
resampling. A tracked period that has differed for 64 cut-offs and whose resample fits is due; RC_PERIOD_CHANGE makes it. -/
def State.rcChannel (s : State) (c room : Nat) : Nat × State :=
  let s1 := s.rcTrack c
  match s1.rcNewPer c with
  | some n =>
    if resampleTime n ≤ room then (room - resampleTime n, ((s1.rcAdvance c).rcResample c n).rcPut c)
    else (room, ((s1.count RC_DEFER).rcLearn c).rcOutput c)
  | none =>
    if (s1.rcSt c).perRun < 64 then (room, (s1.rcLearn c).rcOutput c)
    else
      let n := s1.rcTracked c
      if resampleTime n ≤ room then
        (room - resampleTime n, (s1.setRc c { s1.rcSt c with perDue := some n }).rcOutput c)
      else (room, ((s1.count RC_DEFER).rcLearn c).rcOutput c)

/-- A channel that does not step (R242): its cut-offs are no consecutive ones, and it writes 0.0. -/
def State.rcIdle (s : State) (c : Nat) : State :=
  (if (s.rcSt c).perRun = 0 then s else s.setRc c { s.rcSt c with perRun := 0 }).cfOut (0x200 + 4 * c) 0

/-- The repetitive controller at the cut-off (R232, R241): in an overrun tick the outputs are written again. -/
def State.repetitive (s : State) (overrun : Bool) : State :=
  ((List.range 64).foldl (fun a c =>
    if a.2.cfgOn CF_CTRL_RC_EN && a.2.cfgOn (RC_CH_CFG_EN c) then
      if overrun then (a.1, a.2.cfOut (0x200 + 4 * c) (a.2.rcSt c).u) else a.2.rcChannel c a.1
    else (a.1, a.2.rcIdle c)) (s.resampleRoom, s)).2

/-- RC_PERIOD_CHANGE (R242, R243): the tracked periods that are due at this cut-off take effect, in ascending channel
order; the output of the cut-off comes from the new memory. -/
def execRcPeriodChange (s : State) : Result :=
  s.inDatum fun s =>
    (List.range 64).foldl (fun t c =>
      match (t.rcSt c).perDue with
      | some n =>
        if t.cfgOn CF_CTRL_RC_EN && t.cfgOn (RC_CH_CFG_EN c) then
          (t.rcResample c n).rcPut c
        else t
      | none => t) s

/-! ### Minimum select (R244, R245) -/

/-- Group `g`. -/
def State.msSt (s : State) (g : Nat) : MsSt := (kget s.cf.ms g).getD {}

/-- The state with group `g` changed. -/
def State.setMs (s : State) (g : Nat) (v : MsSt) : State := { s with cf := { s.cf with ms := kset s.cf.ms g v } }

/-- Candidate `i` of a group. -/
def msCand (m : MsSt) (i : Nat) : MsCand := (kget m.cand i).getD {}

/-- The lowest p with its candidate; on a tie the lowest number (R244). -/
def lowest : List (Nat × Nat) → Option (Nat × Nat)
  | [] => none
  | a :: t =>
    match lowest t with
    | some b => if flt b.2 a.2 then some b else some a
    | none => some a

/-- A group at the cut-off (R244). -/
def State.msStep (s : State) (g : Nat) : State :=
  let m0 := s.msSt g
  let cen := (List.range 8).filter (bitOf (s.cfg (MS_GRP_CFG_CEN g)))
  let inp (i : Nat) : Nat := s.cfIn (0x100 + 0x20 * g + 4 * i)
  let good := cen.filter fun i => !invalid32 (inp i)
  let s0 := if good.length < cen.length then s.put (MS_GRP_STAT_NAN g) 1 else s
  let kp (i : Nat) : Nat := s.reg64 (MS_GRP_C_KP_VAL g i)
  let m := good.foldl (fun m i =>
    let c := msCand m i
    let c1 := if c.starts then { c with i := fsub m.u (fmul (kp i) (f64of32 (inp i))), starts := false } else c
    { m with cand := kset m.cand i { c1 with e := inp i } }) m0
  let ps := good.map fun i => (i, fadd (fmul (kp i) (f64of32 (inp i))) (msCand m i).i)
  match lowest ps with
  | none =>
    let st := (m0.status % 64 / 16 * 16 + m0.status % 8) + 64
    ((s0.setMs g { m with status := st }).put (MS_GRP_STAT_HELD g) 1).put (MS_GRP_STAT_VALID g) 0
  | some w =>
    let lo := s.reg64 (MS_GRP_UMIN_VAL g)
    let hi := s.reg64 (MS_GRP_UMAX_VAL g)
    let u := fclamp w.2 lo hi
    let m1 := ps.foldl (fun m e =>
      let c := msCand m e.1
      let d := fadd (fmul (s.reg64 (MS_GRP_C_KI_VAL g e.1)) (f64of32 (inp e.1)))
        (fmul (s.reg64 (MS_GRP_C_KT_VAL g e.1)) (fsub u e.2))
      { m with cand := kset m.cand e.1 { c with i := fadd c.i (fmul s.hSec d) } }) m
    let low := !flt lo u && !flt u lo
    let high := !flt hi u && !flt u hi
    let st := w.1 + 8 + (if low then 16 else 0) + (if high then 32 else 0)
    let changed := m.won && s.get (MS_GRP_STAT_WIN g) ≠ w.1
    let s1 := s0.setMs g { m1 with u := u, status := st, won := true }
    let s2 := ((((s1.put (MS_GRP_STAT_WIN g) w.1).put (MS_GRP_STAT_VALID g) 1).putB (MS_GRP_STAT_LOWCLAMP g) low).putB
      (MS_GRP_STAT_HIGHCLAMP g) high).put (MS_GRP_STAT_HELD g) 0
    let s3 := (s2.put (MS_GRP_OUT_VAL g) (f32of64 u))
    let s4 := good.foldl (fun s i => s.put (MS_GRP_C_INT_VAL g i) (f32of64 ((msCand (s.msSt g) i)).i)) s3
    if changed then s4.count MS_CHG else s4

/-- The minimum-select groups at the cut-off (R232, R244). -/
def State.minSelect (s : State) (overrun : Bool) : State :=
  (List.range 16).foldl (fun s g =>
    if s.cfgOn CF_CTRL_MS_EN && s.cfgOn (MS_GRP_CFG_EN g) then
      let s1 := if overrun then s else s.msStep g
      (s1.cfOut (0x100 + 4 * g) (f32of64 (s1.msSt g).u)).cfOut (0x140 + 4 * g) (s1.msSt g).status
    else (s.cfOut (0x100 + 4 * g) 0).cfOut (0x140 + 4 * g) 0) s

/-! ### Plausibility (R246) -/

/-- What Levelling gives the check of an arm for a tick: a missing member, the members with a usable copy, the sum of
their VCODE in mV, and n in units of 1/65536. -/
structure PlIn where
  missing : Bool
  members : List Nat
  sum : Nat
  n : Nat
deriving DecidableEq, Repr

/-- Plausibility state of arm `a`. -/
def State.plSt (s : State) (a : Nat) : PlSt := (kget s.cf.pl a).getD {}

/-- The state with the plausibility state of arm `a` changed. -/
def State.setPl (s : State) (a : Nat) (v : PlSt) : State := { s with cf := { s.cf with pl := kset s.cf.pl a v } }

/-- The effective insertion of R246. -/
def State.nEff (s : State) (a n1 n2 : Nat) : Nat :=
  let ap : Int := s.cfg (TB_APPLY_A a)
  let sm : Int := s.cfg TB_SAMPLE_S
  let p : Int := s.cfg TB_PERIOD_PERIOD
  fdiv (fint ((ap - sm) * n2 + (p - ap + sm) * n1) (-16)) (fint p 0)

/-- The histories of the check of arm `a` go on at every cut-off (R246). -/
def State.plTick (s : State) (a : Nat) (x : PlIn) : PlSt :=
  let p := s.plSt a
  { p with cur := s.cfIn (0x300 + 4 * a), n1 := x.n, n2 := p.n1, members := x.members }

/-- The check of arm `a` at the cut-off (R246); in an overrun tick it does not step, and its outputs stay (R232). At its first
step after it was off there is no V_hat to go on from, and it resynchronises (DESIGN CHOICE, log entry 104). -/
def State.plStep (s : State) (a : Nat) (x : PlIn) (overrun : Bool) : State :=
  let p := s.plSt a
  let p1 := { s.plTick a x with resync := false, live := true }
  if overrun then s.setPl a (s.plTick a x)
  else
    let v := fdiv (fint x.sum 0) (fint 1000 0)
    if !p.live || x.missing || x.members ≠ p.members || invalid32 p.cur then
      ((s.setPl a { p1 with vhat := v, resync := true }).put (PL_ARM_STAT_RESYNC a) 1).count PL_RESYNC |>.put
        (PL_ARM_VHAT_VAL a) (f32of64 v)
    else
      let d := fmul (fmul (fmul s.hSec (s.reg64 (PL_ARM_CINV_VAL a))) (s.nEff a p.n1 p.n2)) (f64of32 p.cur)
      let pred := fadd p.vhat d
      let res := fsub v pred
      let vh := fadd pred (fmul (s.reg64 (PL_ARM_BETA_VAL a)) res)
      let c := if flt (s.reg64 (PL_ARM_THR_VAL a)) (fabs res) then min 0xFFFFFF (s.get (PL_ARM_STAT_CNT a) + 1) else 0
      let s1 := (((s.setPl a { p1 with vhat := vh, resid := f32of64 res }).put (PL_ARM_VHAT_VAL a) (f32of64 vh)).put
        (PL_ARM_RESID_VAL a) (f32of64 res)).put (PL_ARM_STAT_CNT a) c
      if c = 0 then s1.put (PL_ARM_STAT_FAIL a) 0 else s1

/-- FAIL of arm `a` as the status word shows it. -/
def State.plFails (s : State) (a : Nat) : Bool :=
  s.on (PL_ARM_STAT_FAIL a) || s.cfg (PL_ARM_CFG_TIME a) = s.get (PL_ARM_STAT_CNT a)

/-- The plausibility check at the cut-off. -/
def State.plausibility (s : State) (x : Nat → PlIn) (overrun : Bool) : State :=
  let on (a : Nat) : Bool := s.cfgOn CF_CTRL_PL_EN && s.cfgOn (PL_ARM_CFG_EN a)
  let s1 := (List.range 6).foldl (fun s a => if on a then s.plStep a (x a) overrun
    else s.setPl a { s.plTick a (x a) with resync := false, live := false }) s
  let s2 := (List.range 6).foldl (fun s a => s.cfOut (0x1C0 + 4 * a) (if on a then (s.plSt a).resid else 0)) s1
  let word := (List.range 6).foldl (fun v a =>
    if on a then v + (if s2.plFails a then 2 ^ a else 0) + (if (s2.plSt a).resync then 2 ^ (8 + a) else 0) else v) 0
  (List.range 9).foldl (fun s i => s.cfOut (0x1DC + 4 * i) 0) (s2.cfOut 0x1D8 word)

/-- PLAUSIBILITY_FAIL (R246): an arm whose count has reached TIME fails, once for each run. -/
def execPlausibilityFail (s : State) : Result :=
  s.inDatum fun s =>
    (List.range 6).foldl (fun s a =>
      if s.cfgOn CF_CTRL_PL_EN && s.cfgOn (PL_ARM_CFG_EN a) && !s.on (PL_ARM_STAT_FAIL a) &&
          s.cfg (PL_ARM_CFG_TIME a) = s.get (PL_ARM_STAT_CNT a) then
        ((s.put (PL_ARM_STAT_FAIL a) 1).put (PL_ARM_STAT_FAILED a) 1).raiseSpare CF_FSRC_PLAUS
      else s) s

/-! ### Grid angle trackers (R247, R248) -/

/-- Tracker `t`. -/
def State.angSt (s : State) (t : Nat) : AngSt := (kget s.cf.ang t).getD {}

/-- The state with tracker `t` changed. -/
def State.setAng (s : State) (t : Nat) (v : AngSt) : State := { s with cf := { s.cf with ang := kset s.cf.ang t v } }

/-- LOCK of tracker `t` falls: LOCKLOST and the source of TRACK (R248). -/
def State.dropLock (s : State) (t : Nat) : State :=
  if s.on (ANG_STAT_LOCK t) then ((s.put (ANG_STAT_LOCK t) 0).put (ANG_STAT_LOCKLOST t) 1).raiseSpare CF_FSRC_TRACK else s

/-- A tracker whose input is invalid or too small holds (R247). Entry to HOLD ends LOCK, sets LOCKLOST and raises the source of
TRACK (R248). -/
def State.angHold (s : State) (t amp : Nat) : State :=
  let a := s.angSt t
  let th := fmod (fadd a.theta (fmul a.omega s.hSec)) twoPi
  let s1 := s.setAng t { a with theta := th, amp := amp, inRun := 0, outRun := 0 }
  if s1.on (ANG_STAT_HOLD t) then s1
  else ((((s1.put (ANG_STAT_HOLD t) 1).count ANG_HOLD).put (ANG_STAT_LOCK t) 0).put (ANG_STAT_LOCKLOST t) 1).raiseSpare
    CF_FSRC_TRACK

/-- A tracker follows its input (R247). -/
def State.angFollow (s : State) (t alpha beta amp : Nat) : State :=
  let a := s.angSt t
  let h := s.hSec
  let q := fdiv (fadd (fneg (fmul alpha (fsin a.theta))) (fmul beta (fcos a.theta))) amp
  let lo := fmul twoPi (s.reg64 (ANG_FMIN_VAL t))
  let hi := fmul twoPi (s.reg64 (ANG_FMAX_VAL t))
  let press := s.on (ANG_STAT_FCLAMP t) && ((!flt a.omega hi && flt 0 q) || (!flt lo a.omega && flt q 0))
  let i := if press then a.i else fadd a.i (fmul (fmul (s.reg64 (ANG_KI_VAL t)) h) q)
  let w := fadd (fadd (fmul twoPi (s.reg64 (ANG_FNOM_VAL t))) (fmul (s.reg64 (ANG_KP_VAL t)) q)) i
  let out := flt w lo || flt hi w
  let om := fclamp w lo hi
  let near := flt (fabs q) (s.reg64 (ANG_LOCKTHR_VAL t))
  let s1 := s.setAng t { a with
    theta := fmod (fadd a.theta (fmul om h)) twoPi, omega := om, i := i, amp := amp
    inRun := if near then a.inRun + 1 else 0, outRun := if near then 0 else a.outRun + 1 }
  (s1.put (ANG_STAT_HOLD t) 0).putB (ANG_STAT_FCLAMP t) out

/-- The step of tracker `t` (R247); in an overrun tick the angle goes on at the frequency last computed (R232). -/
def State.angStep (s : State) (t : Nat) (overrun : Bool) : State :=
  let inp (k : Nat) : Nat := s.cfIn (0x320 + 0x10 * t + 4 * k)
  let va := f64of32 (inp 0)
  let vb := f64of32 (inp 1)
  let vc := f64of32 (inp 2)
  let alpha := fdiv (fsub (fsub (fmul ftwo va) vb) vc) (fint 3 0)
  let beta := fdiv (fsub vb vc) sqrt3
  let amp := fsqrt (fadd (fmul alpha alpha) (fmul beta beta))
  if overrun then
    let a := s.angSt t
    s.setAng t { a with theta := fmod (fadd a.theta (fmul a.omega s.hSec)) twoPi }
  else if ((List.range 3).any fun k => invalid32 (inp k)) || flt amp (s.reg64 (ANG_VMIN_VAL t)) then s.angHold t amp
  else s.angFollow t alpha beta amp

/-- LOCK of tracker `t` after its last step (R248). -/
def State.angLocked (s : State) (t : Nat) : Bool :=
  let n := s.cfg (ANG_CFG_LOCKT t)
  if n ≤ (s.angSt t).inRun then true else if n ≤ (s.angSt t).outRun then false else s.on (ANG_STAT_LOCK t)

/-- The outputs of tracker `t` (R230, R247). -/
def State.angOut (s : State) (t : Nat) : State :=
  let b := 0x180 + 0x20 * t
  if s.cfgOn CF_CTRL_ANG_EN && s.cfgOn (ANG_CFG_EN t) then
    let a := s.angSt t
    let adv := fmul (fmul a.omega (fint (s.cfg (ANG_CFG_ADV t)) 0)) s.hSec
    let th := fmod (fadd (fadd a.theta (s.reg64 (ANG_OFS_VAL t))) adv) twoPi
    let st := (if s.angLocked t then 1 else 0) + 2 * s.get (ANG_STAT_HOLD t) + 4 * s.get (ANG_STAT_FCLAMP t)
    let words := [f32of64 th, f32of64 (fsin th), f32of64 (fcos th), f32of64 (fdiv a.omega twoPi), f32of64 a.amp,
      st, f32of64 a.theta, 0]
    (words.zipIdx).foldl (fun s e => s.cfOut (b + 4 * e.2) e.1) s
  else (List.range 8).foldl (fun s i => s.cfOut (b + 4 * i) 0) s

/-- The trackers at the cut-off. -/
def State.trackers (s : State) (overrun : Bool) : State :=
  (List.range 2).foldl (fun s t =>
    (if s.cfgOn CF_CTRL_ANG_EN && s.cfgOn (ANG_CFG_EN t) then s.angStep t overrun else s).angOut t) s

/-- TRACKER_LOCK_CHANGE (R248): LOCKT consecutive steps change LOCK. -/
def execTrackerLockChange (s : State) : Result :=
  s.inDatum fun s =>
    (List.range 2).foldl (fun s t =>
      if !(s.cfgOn CF_CTRL_ANG_EN && s.cfgOn (ANG_CFG_EN t)) || s.angLocked t = s.on (ANG_STAT_LOCK t) then s
      else if s.angLocked t then s.put (ANG_STAT_LOCK t) 1
      else s.dropLock t) s

/-! ### The unit step (R230) -/

/-- Every unit steps at the cut-off; in JOIN none does (R264). -/
def State.unitStep (s : State) (x : Nat → PlIn) (overrun : Bool) : State :=
  if s.get TW_STAT_MODE = 1 then s
  else
    let s1 := ((List.range 16).foldl State.ogChannel s).injector
    (((s1.repetitive overrun).minSelect overrun).plausibility x overrun).trackers overrun

/-! ### Group 6 -/

/-- A binary32 value in binary64, from the values that `g` gives. -/
def gf (g : Fld → Nat) (f : Fld) : Nat := f64of32 (g f)

/-- The checks of R249 on repetitive channels. -/
def rcCheck (g : Fld → Nat) : Bool :=
  let en := (List.range 64).filter fun c => g (RC_CH_CFG_EN c) = 1
  (en.all fun c =>
    let len := g (RC_CH_MEM_LEN c)
    let per := g (RC_CH_PER_PER c)
    (2 ≤ len) && (len ≤ 4096) && (g (RC_CH_MEM_BASE c) + len ≤ 262144) && (2 ≤ per) && (per ≤ len) &&
      (g (RC_CH_CFG_LEAD c) < per)) &&
    en.all fun c => en.all fun d => d ≤ c ||
      (g (RC_CH_MEM_BASE c) + g (RC_CH_MEM_LEN c) ≤ g (RC_CH_MEM_BASE d)) ||
      g (RC_CH_MEM_BASE d) + g (RC_CH_MEM_LEN d) ≤ g (RC_CH_MEM_BASE c)

/-- The checks of R249 on a generator. -/
def injCheck (g : Fld → Nat) (n : Nat) : Bool :=
  (g (INJ_GEN_CFG_TYPE n) < 3) && (g (INJ_GEN_CFG_ORDER n) < 6) && (1 ≤ g (INJ_GEN_CFG_HOLDN n)) &&
    (g (INJ_GEN_CFG_TYPE n) ≠ 2 || 2 ≤ g (INJ_GEN_NP_VAL n)) &&
    (g (INJ_GEN_CFG_TYPE n) ≠ 1 || g (INJ_GEN_DUR_VAL n) ≠ 0) &&
    fle (fabs (gf g (INJ_GEN_AMP_VAL n))) (gf g (INJ_GEN_AMAX_VAL n))

/-- The checks of R249 on the values that `g` gives the configuration fields, with LEAD as it is in force. -/
def cfCheck (g : Fld → Nat) (lead : Nat) : Bool :=
  let i := g CF_IN_ADDR
  let o := g CF_OUT_ADDR
  i % 64 = 0 && o % 64 = 0 && (i + 832 ≤ loopDataSize) && (o + 768 ≤ loopDataSize) && ((i + 832 ≤ o) || o + 768 ≤ i) &&
    rcCheck g &&
    ((List.range 16).all fun n => g (MS_GRP_CFG_EN n) ≠ 1 ||
      (g (MS_GRP_CFG_CEN n) ≠ 0 && flt (gf g (MS_GRP_UMIN_VAL n)) (gf g (MS_GRP_UMAX_VAL n)))) &&
    ((List.range 2).all fun t => g (ANG_CFG_EN t) ≠ 1 ||
      (flt 0 (gf g (ANG_FMIN_VAL t)) && flt (gf g (ANG_FMIN_VAL t)) (gf g (ANG_FNOM_VAL t)) &&
        flt (gf g (ANG_FNOM_VAL t)) (gf g (ANG_FMAX_VAL t)) && (1 ≤ g (ANG_CFG_LOCKT t)))) &&
    ((List.range 4).all (injCheck g)) &&
    ((List.range 6).all fun a => g (PL_ARM_CFG_EN a) ≠ 1 || 1 ≤ g (PL_ARM_CFG_TIME a)) &&
    (g CF_CTRL_RC_EN ≠ 1 || 160 ≤ lead)

/-- A candidate of a group after a strobe: one that is enabled starts level, one whose KP changes keeps p (R245). -/
def State.msStrobed (s o : State) (g : Nat) : State :=
  (List.range 8).foldl (fun s i =>
    let was := bitOf (o.cfg (MS_GRP_CFG_CEN g)) i
    let is := bitOf (s.cfg (MS_GRP_CFG_CEN g)) i
    let m := s.msSt g
    let c := msCand m i
    if is && !was then s.setMs g { m with cand := kset m.cand i { c with starts := true } }
    else if is && s.cfg (MS_GRP_C_KP_VAL g i) ≠ o.cfg (MS_GRP_C_KP_VAL g i) then
      let d := fmul (fsub (o.reg64 (MS_GRP_C_KP_VAL g i)) (s.reg64 (MS_GRP_C_KP_VAL g i))) (f64of32 c.e)
      s.setMs g { m with cand := kset m.cand i { c with i := fadd c.i d } }
    else s) s

/-- What a strobe of group 6 does beside moving the values (R236, R241, R245, R248). `o` is the state before. -/
def State.cfStrobed (s o : State) : State :=
  let s1 := (List.range 16).foldl (fun s n =>
    if s.cfgOn (OG_CH_CFG_EN n) && !o.cfgOn (OG_CH_CFG_EN n) then
      (s.setOg n { s.ogSt n with r := 0, seg := 0, pend := false }).ogShow n
    else s) s
  let s2 := (List.range 64).foldl (fun s c =>
    if s.cfgOn (RC_CH_CFG_EN c) && !o.cfgOn (RC_CH_CFG_EN c) then
      (s.setRc c {}).put (RC_CH_PER_PER_ACT c) (s.cfg (RC_CH_PER_PER c))
    else s) s1
  let s3 := (List.range 16).foldl (fun s g => s.msStrobed o g) s2
  (List.range 2).foldl (fun s t =>
    if s.cfgOn (ANG_CFG_EN t) && !o.cfgOn (ANG_CFG_EN t) then
      s.setAng t { omega := fmul twoPi (s.reg64 (ANG_FNOM_VAL t)) }
    else s) s3

end Sys2Proof.Machine
end

