-- ==== Sys2Proof/Machine/StakeLevel.lean ====
section
/-! DEFINITION. Levelling in a Stake: the report of a tick, the decision at the apply instant, the trim
(R129 to R131, R142 to R144, 05_levelling.md; R173, 06_stake_power_stage.md). -/

namespace Sys2Proof

/-- Bit USED of AFLAGS (R99). -/
def ArmEntry.used (e : ArmEntry) : Bool := bitOf e.aflags 0
/-- Bit DIR of AFLAGS (R99): discharging. -/
def ArmEntry.dir (e : ArmEntry) : Bool := bitOf e.aflags 1
/-- Bit TRIM_V of AFLAGS (R99). -/
def ArmEntry.trimV (e : ArmEntry) : Bool := bitOf e.aflags 3

/-- The entry carries an apply offset. That of an arm which is not enabled is all zeros (R138). -/
def ArmEntry.hasApply (e : ArmEntry) : Bool := e.used || e.apply ≠ 0

/-- VCODE of a report (R110). -/
def TeleSlot.vcode (r : TeleSlot) : Nat := r.vs % 2 ^ 22
/-- INS of a report (R110). -/
def TeleSlot.ins (r : TeleSlot) : Bool := bitOf r.vs 22
/-- BLK of a report (R110). -/
def TeleSlot.blk (r : TeleSlot) : Bool := bitOf r.vs 23
/-- AVAIL of a report (R110). -/
def TeleSlot.avail (r : TeleSlot) : Bool := bitOf r.vs 24

/-- The adjusted voltage code of a report (R131). -/
def adjusted (r : TeleSlot) (dir : Bool) (hold : Nat) : Nat :=
  let v := if r.ins then (if dir then r.vcode + hold else r.vcode - hold) else r.vcode
  min 0x3FFFFE v

/-- The key of a report under an entry (R129). -/
def keyOf (r : TeleSlot) (dir : Bool) (hold idx : Nat) : Nat := adjusted r dir hold * 1024 + idx

end Sys2Proof

namespace Sys2Proof.Machine

/-! ### What the apply instant does -/

/-- What happens to the cell state at an apply instant (R143). -/
inductive Plan where
  /-- Forced Off by a power-stage block since the last apply instant (R167). -/
  | blockOff
  /-- A bootstrap refresh (R173). -/
  | refresh
  /-- A hold, UNRANKED; the truth value says that the report was latched before any entry was acted on. -/
  | hold (latched : Bool)
  /-- An entry with USED = 0: the state stays. -/
  | keep
  /-- The Stake is off and stays off. -/
  | off
  /-- The trim Stake. -/
  | trim (frac : Nat)
  /-- Inserted or Bypassed by the comparison. -/
  | set (inserted : Bool)
deriving DecidableEq, Repr

/-- The entry that the Stake has acted on in the current tick (R117). -/
def State.actedEntry (s : State) : Option ArmEntry :=
  match s.frm.entry with
  | some (t, e) => if t = s.tb.tick then some e else none
  | none => none

/-- The report of the current tick has been latched. -/
def State.latched (s : State) : Bool := s.frm.latchTick = some s.tb.tick

/-- The retained report that is usable for an entry that names epoch `x` (R142). -/
def State.usableReport (s : State) (x : Nat) : Option TeleSlot :=
  (s.frm.reports.find? fun r => r.1 % 2 ^ 32 = x && (s.tb.tick + 2 ^ 64 - r.1) % 2 ^ 64 < 4 && r.2.avail).map (·.2)

/-- The Stake is blocked, fired or at stage S3 or beyond (R143). -/
def State.cannotInsert (s : State) : Bool := s.offCause || s.powerBlocked

/-- The decision of an entry with its usable report (R143). -/
def State.judge (s : State) (e : ArmEntry) (r : TeleSlot) : Plan :=
  if s.cannotInsert || s.on GS_STAT_TEST_BUSY then .off
  else if e.trimV && e.trim % 1024 = s.get LVL_SIDX_IDX then .trim e.frac
  else
    let key := keyOf r e.dir e.hold (s.get LVL_SIDX_IDX)
    .set (if e.dir then e.t ≤ key else key < e.t)

/-- A refresh holds at this apply instant: it was due at a latch of an earlier tick (R173). -/
def State.refreshNow (s : State) : Bool := s.gs.refreshDue && s.gs.refreshEntry ≠ s.tb.tick

/-- What the apply instant of the current tick does, as far as it is known now (R143, R167, R173). A Stake under self-test
stays Off (R183), and a Stake that is forced Off or waits for an entry takes no refresh (R167, R171). -/
def State.plan (s : State) : Plan :=
  if s.gs.offAtApply then .blockOff
  else if s.refreshNow && !s.cannotInsert && !s.gs.needEntry && !s.on GS_STAT_TEST_BUSY then .refresh
  else
    match s.actedEntry with
    | none => .hold false
    | some e =>
      if !e.used then .keep
      else if s.latched && !s.frm.actedAtLatch then .hold true
      else
        match s.usableReport e.epoch with
        | none => .hold false
        | some r => s.judge e r

/-- The trim interval in GTIME cycles (R144). -/
def State.trimLen (s : State) (frac : Nat) : Nat := frac * s.tb.period16 / (65536 * 32)

/-- The measured tick period in GTIME cycles. -/
def State.stakeP (s : State) : Nat := s.tb.period16 / 32

/-- A trim that ends `d` cycles before the next apply instant returns to Bypassed: the gap is not too short (R144, R164). -/
def State.trimReturns (s : State) (d : Nat) : Bool := s.dt + s.minp ≤ d

/-- The state that the schedule in force gives the Stake at the next apply instant: a trim that runs returns first, if it can. -/
def State.cellThen (s : State) : Cell :=
  match s.gs.trimEnd with
  | some t => if s.trimReturns (s.gs.trimNext - t) then .bypassed else s.cell
  | none => s.cell

/-- A trim is inserted at the apply instant: it is long enough, or the Stake is inserted already (R144, R164). -/
def State.trimStarts (s : State) (f : Nat) : Bool := s.cellThen = .inserted || !s.tooShort s.cellThen .inserted (s.trimLen f)

/-- The state that the Stake has from the apply instant of the current tick, and whether it trims in the tick (R130). A Stake
that was trimming holds Bypassed (R143). -/
def State.cellAfter (s : State) : Cell × Bool :=
  if s.tb.applied then
    match s.gs.trimEnd with
    | some t => if s.trimReturns (s.gs.trimNext - t) then (.bypassed, true) else (.inserted, false)
    | none => (s.cell, decide (s.gs.trimTick = some s.tb.tick))
  else
    match s.plan with
    | .blockOff => (.off, false)
    | .refresh => (.bypassed, false)
    | .hold _ => (if s.gs.trimming && s.cellThen = .inserted then .bypassed else s.cellThen, false)
    | .keep => (s.cellThen, false)
    | .off => (.off, false)
    | .trim f =>
      if !s.trimStarts f then (s.cellThen, false)
      else if s.trimReturns (s.stakeP - s.trimLen f) then (.bypassed, true)
      else (.inserted, false)
    | .set b =>
      let c : Cell := if b then .inserted else .bypassed
      (if s.cellThen ≠ c && s.tooShort s.cellThen c s.stakeP then s.cellThen else c, false)

/-! ### The bootstrap refresh -/

/-- The change of channel `n` as the cell goes from `o` to `c` at cycle `t`: effective instant and level (R149, R150). -/
def State.moveOf (s : State) (n : Nat) (o c : Cell) (t : Nat) : List (Nat × Bool) :=
  if s.cellOn o n = s.cellOn c n then []
  else if s.cellOn c n then [(s.gridPoint (t + s.dt), true)] else [(s.gridPoint t, false)]

/-- The change of channel `n` at the end of a trim at cycle `t`, if the trim returns before the apply instant `next` (R144,
R164). -/
def State.returnOf (s : State) (n t next : Nat) : List (Nat × Bool) :=
  if s.trimReturns (next - t) then s.moveOf n .inserted .bypassed t else []

/-- The changes of channel `n` that are scheduled already: its symbols, and the end of a trim that runs. -/
def State.aheadNow (s : State) (n : Nat) : List (Nat × Bool) :=
  let due := ((s.chan n).due.filter fun e => e.2 = .on || e.2 = .off || e.2 = .softoff).map fun e => (e.1, decide (e.2 = .on))
  due ++ match s.gs.trimEnd with
    | some t => s.returnOf n t s.gs.trimNext
    | none => []

/-- The changes of channel `n` that the apply instant at cycle `apply` of this tick brings, as far as it is known now. -/
def State.aheadApply (s : State) (n apply : Nat) : List (Nat × Bool) :=
  if s.tb.applied then []
  else match s.plan with
    | .trim f =>
      if s.trimStarts f then
        s.moveOf n s.cellThen .inserted apply ++ s.returnOf n (apply + s.trimLen f) (apply + s.stakeP)
      else []
    | _ => s.moveOf n s.cellThen s.cellAfter.1 apply

/-- Changes of commanded state that lie ahead of channel `n` in the schedule in force (R150, R173). -/
def State.ahead (s : State) (n apply : Nat) : List (Nat × Bool) := s.aheadNow n ++ s.aheadApply n apply

/-- t_on of a channel at cycle `h`, following the changes ahead of it (R173). -/
def tOnAt (trch : Nat) (h : Nat) : Bool → Nat → Nat → Nat → List (Nat × Bool) → Nat
  | on, since, tOn, off, [] => if on then tOn + (h - since) else if trch ≤ h - off then 0 else tOn
  | on, since, tOn, off, (t, b) :: rest =>
    if h ≤ t ∨ b = on then tOnAt trch h on since tOn off rest
    else if b then tOnAt trch h true t (if trch ≤ t - off then 0 else tOn) off rest
    else tOnAt trch h false since (tOn + (t - since)) t rest

/-- A refresh is due at the latch: t_on of a used high-side channel would exceed TMAX − P at the next apply instant
(R173). -/
def State.refreshWanted (s : State) : Bool :=
  s.cfg GS_CFG_SUPPLY = 1 &&
    (s.usedCh.filter fun n => n % 2 = 0).any fun n =>
      let c := s.chan n
      let a := match s.frm.entry with
        | some (_, e) => e.apply
        | none => 0
      let ap := s.tb.tickStart + a
      s.cfg GS_BOOT_TMAX * 500 <
        tOnAt (s.cfg GS_BOOT_TRCH) (ap + s.stakeP) (s.on (GS_CH_STAT_ON n)) c.onSince c.tOn c.offSince (s.ahead n ap) +
          s.stakeP

/-! ### The report -/

/-- FSUM of a report (R110). -/
def State.fsum (s : State) : Nat :=
  let bit (i : Nat) (b : Bool) : Nat := if b then 2 ^ i else 0
  bit 0 (s.activeAt 2) +
    bit 1 (s.usedCh.any fun n => s.get (GS_CH_STAT_PSTATE n) = 2 || s.get (GS_CH_STAT_PSTATE n) = 3) +
    bit 2 (s.on GS_STAT_OV1_ON) + bit 3 (s.on GS_STAT_OV2_BLK) + bit 4 s.aux.raised +
    bit 5 (s.on (AD_PAIR_STAT_MISMATCH 0) || s.on (AD_PAIR_STAT_MISMATCH 1)) +
    bit 6 (!s.portUp 0 || !s.portUp 1) + bit 7 ((s.port 0).turning || (s.port 1).turning) +
    256 * min 3 (s.get SH_STAT_STAGE)

/-- The report of the current tick (R130), with UNRANKED and AVAIL and whether a refresh is due. -/
def State.makeReport (s : State) (due : Bool) : TeleSlot :=
  let own := match s.ad.j0 with
    | some (t, v) => if t = s.tb.tick then some v else none
    | none => none
  let blk := s.cannotInsert
  let avail := s.on LVL_SIDX_ADOPTED && s.on TB_STAT_TICK_LOCK && own.isSome && !blk && !s.gs.bypf &&
    (s.get SH_STAT_STAGE < 3) && !due && !s.gs.offAtApply
  let after := s.cellAfter
  let stays := after.1 = .inserted && !after.2
  let ins := if avail then stays else stays && !(blk || s.gs.bypf || due || 3 ≤ s.get SH_STAT_STAGE)
  let unranked := if s.tb.applied then s.frm.held else (match s.plan with | .hold _ => true | _ => false)
  let bit (i : Nat) (b : Bool) : Nat := if b then 2 ^ i else 0
  TeleSlot.sealed
    { vs := (own.getD s.ad.vcode) % 2 ^ 22 + bit 22 ins + bit 23 blk + bit 24 avail + bit 25 unranked + bit 26 after.2 +
        bit 27 s.gs.bypf
      temp := s.tempCode, fsum := s.fsum
      epoch := if own.isSome then s.tb.tick % 2 ^ 32 else s.ad.vEpoch
      wr := 0xA5, crc := 0 }

/-- The Stake latches its report as it first writes its slot in the tick (R130). Without tick lock every write
latches. -/
def State.latchReport (s : State) : State :=
  if s.latched && s.on TB_STAT_TICK_LOCK then s
  else
    let due := s.refreshWanted
    let r := s.makeReport due
    let unr := bitOf r.vs 25
    let frm := { s.frm with
      latchTick := some s.tb.tick
      actedAtLatch := s.actedEntry.isSome
      reports := ((s.tb.tick, r) :: s.frm.reports).take 4
      unrankRun := if unr then s.frm.unrankRun + 1 else 0
      unrankRaised := s.frm.unrankRaised && unr }
    let gs := if due && !s.refreshNow then { s.gs with refreshDue := true, refreshEntry := s.tb.tick } else s.gs
    ((((((({ s with frm := frm, gs := gs }).updRefresh).putB LVL_SSTAT_AVAIL r.avail).putB LVL_SSTAT_INS r.ins).putB LVL_SSTAT_UNRANKED
      unr).putB LVL_SSTAT_TRIMMING (bitOf r.vs 26)).putB LVL_SSTAT_REFRESH due)

/-- UNRANKED_LIMIT (R143, R406). -/
def execUnrankedLimit (s : State) : Result :=
  s.inStake fun s =>
    if s.cfg LVL_SCFG_UNRK_LIM ≤ s.frm.unrankRun ∧ ¬ s.frm.unrankRaised then
      ({ s with frm := { s.frm with unrankRaised := true } }).raise 69
    else s

/-! ### The apply instant -/

/-- The Stake is named trim Stake by the entry it acted on. -/
def State.namedTrim (s : State) : Bool :=
  s.actedEntry.any fun e => e.used && e.trimV && e.trim % 1024 = s.get LVL_SIDX_IDX

/-- A trim that is not realised counts (R143, R144). -/
def State.loseTrim (s : State) : State := if s.namedTrim then s.count LVL_TRIMLOST else s

/-- A hold (R143): the Stake keeps its state. -/
def State.hold (s : State) (latched : Bool) : State :=
  let s2 := ({ s with frm := { s.frm with held := true } }).count LVL_HOLD_CNT
  let s3 := if latched then (s2.count LVL_LATCHHOLD).put LVL_SSTAT_LATCHHOLD 1 else s2
  s3.loseTrim

/-- The trim starts: inserted for its interval (R144). -/
def State.startTrim (s : State) (frac : Nat) : State :=
  let l := s.trimLen frac
  let r := s.changeCell .inserted s.now l
  if r.1 then { (r.2.put LVL_SSTAT_TRIMMING 1) with gs := { r.2.gs with
      trimEnd := some (s.now + l), trimNext := s.now + s.stakeP, trimTick := some s.tb.tick, needEntry := false
      trimming := true } }
  else r.2.count LVL_TRIMLOST

/-- A trim that has not ended by the next apply instant ends there, in the bypassed state (R143, R144). -/
def State.cutTrim (s : State) : State :=
  if s.gs.trimEnd.isSome then (s.dropTrim).makeCell .bypassed s.now else s

/-- The apply instant of the current tick (R143): what the plan says. -/
def State.applyPlan (s0 : State) : State :=
  let c := s0.cutTrim
  let s : State := { c with gs := { c.gs with trimming := false } }
  match s0.plan with
  | .blockOff => (s.loseTrim).forceOff
  | .refresh => ((({ s with gs := { s.gs with refreshRun := true, refreshDue := false } }).loseTrim).makeCell .bypassed s.now)
  | .hold latched => (if s0.gs.trimming && s.cell = .inserted then s.makeCell .bypassed s.now else s).hold latched
  | .keep => s
  | .off => if s.cell = .off then s.loseTrim else (s.loseTrim).forceOff
  | .trim f => s.startTrim f
  | .set b =>
    let r := s.changeCell (if b then .inserted else .bypassed) s.now s.stakeP
    { r.2 with gs := { r.2.gs with needEntry := false } }

/-- APPLY_INSTANT (R143): at the recovered tick start plus the offset of the entry acted on (R35). A tick without one counts
NO_DEC, whatever the Stake does at the instant (R118). -/
def execApplyInstant (s : State) : Result :=
  s.inStake fun s =>
    if !s.on TB_STAT_TICK_LOCK || s.tb.applied then s
    else
      let s1 := match s.actedEntry with
        | some e => if e.hasApply then s.advance (s.tb.tickStart + e.apply) else s
        | none => s.count (NO_DEC s.timingPort)
      let s2 := ({ s1 with
        gs := { s1.gs with refreshRun := false }, frm := { s1.frm with held := false } }).put LVL_SSTAT_LATCHHOLD 0
      let s3 := (s2.put LVL_SSTAT_TRIMMING 0).applyPlan
      let gs := if s2.refreshNow then { s3.gs with refreshDue := false } else s3.gs
      ({ s3 with tb := { s3.tb with applied := true }, gs := gs } : State).updRefresh

/-- TRIM_END (R144): the trim Stake returns to Bypassed, unless the gap to the next apply instant would be too short (R164).
After a trip the switches keep their state until that instant (R167). -/
def execTrimEnd (s : State) : Result :=
  s.inStake fun s0 =>
    match s0.gs.trimEnd with
    | none => s0
    | some t =>
      let s := s0.advance t
      let s1 := { s with gs := { s.gs with trimEnd := none } }
      if s1.gs.offAtApply then s1.count LVL_TRIMLOST
      else
        let r := s1.changeCell .bypassed s1.now (s1.gs.trimNext - s1.now)
        if r.1 then r.2.count LVL_TRIMMED
        else ({ r.2 with gs := { r.2.gs with trimTick := none } }).count LVL_TRIMLOST

end Sys2Proof.Machine
end

