-- ==== Sys2Proof/Machine/Levelling.lean ====
section
/-! DEFINITION. Levelling in a Datum: members, select, summaries, the decision at the cut-off and the checks on it
(05_levelling.md). -/

namespace Sys2Proof.Machine

/-! ### Members and their copies (R134) -/

/-- The map entries of arm `a` that a decision goes by: those in force at the start of the select of the tick, or now while none
has started (R147). -/
def State.mapOf (s : State) (a : Nat) : List ((Nat × Nat) × Nat) := (s.armSt a).map.getD (s.mapNow a)

/-- Port and slot of the map entries of arm `a`. -/
def State.mapped (s : State) (a : Nat) : List (Nat × Nat) := (s.mapOf a).map (·.1)

/-- The members of arm `a`. -/
def State.members (s : State) (a : Nat) : List (Nat × Nat) :=
  (s.mapped a).filter fun m => !s.on (LVL_MAP_ABSENT m.1 m.2)

/-- The index of the map entry at port and slot `m` of arm `a` (R129). -/
def State.idxOf (s : State) (a : Nat) (m : Nat × Nat) : Nat := (((s.mapOf a).find? fun e => e.1 = m).map (·.2)).getD 0

/-- The usable copy of this tick of the Stake at port and slot `m` (R134). -/
def State.copyOf (s : State) (m : Nat × Nat) : Option TeleSlot := ((s.port m.1).slots.getD m.2 none)

/-- The MISSING members of arm `a`. -/
def State.missingOf (s : State) (a : Nat) : List (Nat × Nat) := (s.members a).filter fun m => (s.copyOf m).isNone

/-- The members of arm `a` with their usable copies. -/
def State.copies (s : State) (a : Nat) : List ((Nat × Nat) × TeleSlot) :=
  (s.members a).filterMap fun m => (s.copyOf m).map fun r => (m, r)

/-- The adjusted keys of the KEYED members of arm `a` in ascending order (R129, R134). -/
def State.keysOf (s : State) (a : Nat) (dir : Bool) (hold : Nat) : List Nat :=
  sortNat (((s.copies a).filter fun c => c.2.avail).map fun c => keyOf c.2 dir hold (s.idxOf a c.1))

/-- The HELD members of arm `a` that count in H (R134). -/
def State.heldOf (s : State) (a : Nat) : Nat :=
  ((s.copies a).filter fun c => !c.2.avail && c.2.ins && !c.2.blk).length

/-- A port of arm `a` sends frames of version 1 (R98, R138). -/
def State.armFmt1 (s : State) (a : Nat) : Bool := (s.mapped a).any fun m => s.cfg (TRV_FCFG_FMT m.1) = 1

/-! ### Threshold selection (R138, R140) -/

/-- The bound that selects no key (R129). -/
def noKey : Nat := 0xFFFFFFFF

/-- The threshold for `n` of the ascending keys `ks`, and the key of the trim Stake (R138). -/
def threshold (ks : List Nat) (n : Nat) (dir : Bool) : Nat × Option Nat :=
  let k := ks.length
  if dir then (if 0 < n then ks.getD (k - n) noKey else noKey, if n < k then ks[k - n - 1]? else none)
  else if n < k then (ks.getD n noKey, ks[n]?)
  else (noKey, none)

/-- The select of arm `a` under the order that LVL_ARMa_ORDER holds (R135, R138 to R140). -/
def State.selectArm (s : State) (a : Nat) : Selection :=
  let req := min 1024 (s.get (LVL_ARM_ORDER_N a))
  let dir := s.on (LVL_ARM_ORDER_DIR a)
  let frac := s.get (LVL_ARM_ORDER_FRAC a)
  let hold := (s.armSt a).holdNow
  let ks := s.keysOf a dir hold
  let h := s.heldOf a
  let n := min (req - h) ks.length
  let t := threshold ks n dir
  let trimV := t.2.isSome && frac ≠ 0 && !s.armFmt1 a
  { n := n, dir := dir, k := ks.length, h := h, t := t.1, trimV := trimV
    trim := if trimV then (t.2.getD 0) % 1024 else 0
    frac := if trimV then frac else 0
    short := ks.length < req - h || (frac ≠ 0 && !trimV)
    surplus := req < h
    hold := hold, rest := (s.armSt a).restOn }

/-- The own summary of arm `a` (R136). -/
def State.summaryOf (s : State) (a : Nat) : Summary :=
  let ks := s.keysOf a (s.on (LVL_ARM_ORDER_DIR a)) (s.armSt a).holdNow
  let h := s.heldOf a
  { missing := !(s.missingOf a).isEmpty, used := true, k := ks.length, h := h
    crc := crc32 (ks.flatMap (le 4) ++ le 2 h) }

/-- Arm `a` is enabled. -/
def State.armEn (s : State) (a : Nat) : Bool := a < 6 && bitOf (s.cfg LVL_CTRL_ARM_EN) a

/-- The Twin link is in ACTIVE (R251). -/
def State.twinUp (s : State) : Bool := s.lstate twinLink = lsActive

/-- Every enabled arm has its select, and one arm is enabled. -/
def State.allSelected (s : State) : Bool :=
  let en := (List.range 6).filter s.armEn
  !en.isEmpty && en.all fun a => (s.armSt a).sel.isSome

/-- The summaries of the tick go to the twin (R136, R252, R408): a disabled arm's is all zeros. -/
def State.sendSummary (s : State) : State :=
  if s.twinUp then
    s.twinSend (.summary (s.tb.tick % 2 ^ 32) ((List.range 6).map fun a =>
      if s.armEn a then (s.armSt a).own.getD {} else {}))
  else s

/-- The select of arm `a` completes (R141, R218); with the last enabled arm the summaries go out. -/
def State.finishSelect (s : State) (a : Nat) : State :=
  if (s.armSt a).sel.isSome then s
  else
    let s1 := (s.setArm a { s.armSt a with
      sel := some (s.selectArm a), own := some (s.summaryOf a), map := some (s.mapOf a) }).routeEvent (5 + a)
    if s1.allSelected then (s1.sendSummary).routeEvent 11 else s1

/-- LEVELLING_SELECT_DONE (R141): the select of an arm whose order has been posted completes. -/
def execLevellingSelectDone (a : Nat) (s : State) : Result :=
  s.inDatum fun s =>
    if s.armEn a && s.on (LVL_ARM_STAT_POSTED a) && s.tb.started && !s.tb.cutDone then s.finishSelect a else s

/-- ORDER_POST (R139): a write to LVL_ARMa_ORDER. It comes from a lane, which runs in S2 too. -/
def execOrderPost (a n : Nat) (dir : Bool) (frac : Nat) (s : State) : Result :=
  s.written s.running s.isDatum fun s =>
    if a < 6 then
      (stOk, s.release1 (LVL_ARM_ORDER_N a).addr (n % 2048 + 2048 * dir.toNat + 65536 * (frac % 65536)))
    else (stBadParam, s)

/-! ### ABSENT (R137) -/

/-- Members are marked ABSENT and source 65 is raised. -/
def State.markAbsent (s : State) (ms : List (Nat × Nat)) : State :=
  if ms.isEmpty then s
  else (ms.foldl (fun s m => s.put (LVL_MAP_ABSENT m.1 m.2) 1) s).raise 65

/-- ABSENT_MARK (R137): at the decision after REPMAX repeats the members still MISSING are marked. -/
def execAbsentMark (s : State) : Result :=
  s.inDatum fun s =>
    (List.range 6).foldl (fun s a =>
      if s.armEn a && s.cfg LVL_CTRL_REPMAX ≤ (s.armSt a).repeats && s.tb.started && !s.tb.cutDone then
        let t := s.finishSelect a
        (t.setArm a { t.armSt a with gone := (t.armSt a).gone || !(t.missingOf a).isEmpty }).markAbsent (t.missingOf a)
      else s) s

/-! ### The rest band (R132) -/

/-- HOLD of arm `a` for a decision (R132). -/
def State.holdFor (s : State) (a : Nat) (rest : Bool) : Nat :=
  min 0xFFFF (s.cfg (LVL_ARM_CFG_HOLD a) + if rest then s.cfg (LVL_ARM_CFG_REST a) else 0)

/-- The rest band of arm `a` is in force or not, and the HOLD of the tick follows. -/
def State.setRest (s : State) (a : Nat) (b : Bool) : State :=
  (s.setArm a { s.armSt a with restOn := b, holdNow := s.holdFor a b }).putB (LVL_ARM_STAT_REST_ON a) b

/-- The channel that arm `a` watches outputs exactly zero in this tick (R237). -/
def State.restZero (s : State) (a : Nat) : Bool := s.ogZero (s.cfg (LVL_ARM_RESTCFG_SRC a))

/-- A strobe of group 2: an arm that watches another channel from now on counts its zero ticks anew (R132). `o` is the state
before. -/
def State.restStrobed (s o : State) : State :=
  (List.range 6).foldl (fun s a =>
    if s.cfg (LVL_ARM_RESTCFG_SRC a) = o.cfg (LVL_ARM_RESTCFG_SRC a) then s
    else s.setArm a { s.armSt a with zeroRun := 0 }) s

/-- The rest band at a tick start: ticks of zero output are counted, and removal takes precedence (R132, R147). -/
def State.restTick (s : State) (a : Nat) : State :=
  let run := if s.restZero a then min 0xFFFFFF ((s.armSt a).zeroRun + 1) else 0
  let s1 := s.setArm a { s.armSt a with zeroRun := run }
  s1.setRest a ((s.armSt a).restOn && s.cfgOn (LVL_ARM_RESTCFG_REST_EN a) && 0 < run)

/-- REST_BAND_ENTRY (R132): after DLY ticks of zero output the rest band comes into force. -/
def execRestBandEntry (s : State) : Result :=
  s.inDatum fun s =>
    (List.range 6).foldl (fun s a =>
      if s.cfgOn (LVL_ARM_RESTCFG_REST_EN a) && s.cfg (LVL_ARM_RESTCFG_DLY a) ≤ (s.armSt a).zeroRun &&
          !(s.armSt a).restOn then s.setRest a true
      else s) s

/-- Levelling at a tick start: no copy, no order and no select of the new tick yet. -/
def State.levelTick (s : State) : State :=
  let s1 := (List.range 6).foldl (fun s a =>
    ((s.setArm a { s.armSt a with sel := none, own := none, twin := none, map := none, gone := false }).put
      (LVL_ARM_STAT_POSTED a) 0).restTick a) s
  (List.range 16).foldl (fun s p => s.setPort p { s.port p with slots := [] }) s1

/-! ### The decision (R136 to R138) -/

/-- The entry of a disabled arm: all fields 0 and a valid ACRC (R138). -/
def zeroEntry : ArmEntry := ArmEntry.sealed {}

/-- The entry that a selection gives (R99, R138). -/
def State.entryFor (s : State) (a : Nat) (x : Selection) : ArmEntry :=
  ArmEntry.sealed
    { n := x.n, aflags := 1 + 2 * x.dir.toNat + 4 * x.rest.toNat + 8 * x.trimV.toNat
      t := x.t, frac := x.frac, trim := x.trim, hold := x.hold
      apply := s.cfg (TB_APPLY_A a), epoch := s.tb.tick % 2 ^ 32 }

/-- The check of the realised count of arm `a`, in the tick after a decision and only if that tick has no MISSING member (R146). -/
def State.realised (s : State) (a : Nat) : State :=
  let c := s.armSt a
  if c.expectOn && (c.expectAt + 1) % 2 ^ 64 = s.tb.tick && (s.missingOf a).isEmpty && !c.gone then
    let real := ((s.copies a).filter fun m => m.2.ins).length
    let s1 := (s.put (LVL_ARM_DEV_EXPECT a) c.expect).put (LVL_ARM_DEV_REAL a) real
    if real = c.expect then s1.setArm a { c with devRun := 0, devRaised := false }
    else (s1.count LVL_DEV).setArm a { c with devRun := c.devRun + 1 }
  else s

/-- DEVIATION_PERSIST (R146, R406). -/
def execDeviationPersist (s : State) : Result :=
  s.inDatum fun s =>
    (List.range 6).foldl (fun s a =>
      if s.cfg LVL_CTRL_DEV_PERSIST ≤ (s.armSt a).devRun ∧ ¬ (s.armSt a).devRaised then
        (s.setArm a { s.armSt a with devRaised := true }).raise 66
      else s) s

/-- The twin's summary of arm `a` takes part (R136): late and differing summaries count. The truth value says that it gives a
cause to repeat. A link that drops during the tick makes the summary late (R147); in a tick in which it was down throughout
none is expected, and none counts as late (DESIGN CHOICE, log entry 58). -/
def State.twinSummary (s : State) (a : Nat) : Bool × State :=
  if s.cfgOn LVL_CTRL_TWIN_AGREE && (s.twinUp || s.tw.wasUp) then
    match (s.armSt a).twin with
    | none => (false, s.count LVL_TWIN_LATE)
    | some t =>
      if !s.twinUp then (false, s)
      else if (s.armSt a).own = some t then (t.missing, s)
      else (true, (s.count LVL_TWIN_DIFF).raise 67)
  else (false, s)

/-- Arm `a` repeats its last issued entry (R136). The repeated decision is checked in its next tick against the count of the
decision that it repeats (R146; DESIGN CHOICE, log entry 103). -/
def State.repeatArm (s : State) (a : Nat) : ArmEntry × State :=
  let c := s.armSt a
  (c.last.getD zeroEntry, ((s.setArm a { c with repeats := c.repeats + 1, expectAt := s.tb.tick }).count LVL_REPEAT).put
    (LVL_ARM_STAT_REPEAT a) 1)

/-- Arm `a` decides fresh (R135, R138). -/
def State.decideFresh (s : State) (a repeats : Nat) (x : Selection) : ArmEntry × State :=
  let e := s.entryFor a x
  let s1 := s.setArm a { s.armSt a with last := some e, repeats := repeats, expectOn := true, expectAt := s.tb.tick, expect := x.n + x.h }
  let s2 := (((s1.put (LVL_ARM_STAT_REPEAT a) 0).putB (LVL_ARM_STAT_SHORT a) x.short).putB (LVL_ARM_STAT_SURPLUS a)
    x.surplus).put (LVL_ARM_T_T a) x.t
  let s3 := ((s2.put (LVL_ARM_SEL_NSEL a) x.n).put (LVL_ARM_SEL_TRIM a) x.trim).putB (LVL_ARM_SEL_TRIM_V a) x.trimV
  let s4 := if x.short then s3.count LVL_SHORT else s3
  let s5 := if x.k < min 1024 (s.get (LVL_ARM_ORDER_N a)) - x.h then s4.raise 64 else s4
  (e, if x.surplus then s5.raise 68 else s5)

/-- The decision of arm `a` at the cut-off (R136 to R139). A late order is decided by the overrun rules on what
LVL_ARMa_ORDER holds and never repeats, while the count of R137 runs on (R147, R224). -/
def State.decideArm (s : State) (a : Nat) : ArmEntry × State :=
  if !s.armEn a then
    (zeroEntry, s.setArm a { s.armSt a with last := some zeroEntry, repeats := 0, expectOn := false })
  else
    let late := !s.on (LVL_ARM_STAT_POSTED a)
    let s1 := if late then { (s.count LVL_LATEORD) with sch := { s.sch with stale := true } } else s
    let s2 := (s1.finishSelect a).realised a
    let x := (s2.armSt a).sel.getD (s2.selectArm a)
    let gone := s2.missingOf a
    let s3 := (((if gone.isEmpty then s2 else s2.countN LVL_MISSING gone.length).put (LVL_ARM_STAT_K a) x.k).put
      (LVL_ARM_STAT_H a) x.h)
    let r := s3.twinSummary a
    let cause := r.1 || !gone.isEmpty
    if !cause then r.2.decideFresh a 0 x
    else if (r.2.armSt a).repeats < s.cfg LVL_CTRL_REPMAX then
      if late then r.2.decideFresh a ((r.2.armSt a).repeats + 1) x else r.2.repeatArm a
    else (r.2.markAbsent gone).decideFresh a 0 x

/-- The decisions of the six arms at the cut-off: the arm block of the next frame (R24, R136). -/
def State.decideArms (s : State) : State :=
  let r := (List.range 6).foldl (fun (r : List ArmEntry × State) a =>
    let d := r.2.decideArm a
    (r.1 ++ [d.1], d.2)) ([], s)
  { r.2 with frm := { r.2.frm with nextArms := r.1 } }

/-- What Levelling gives the plausibility check of arm `a` (R246): FRAC of the decision applied in this tick counts
when a usable copy trims. -/
def State.plIn (s : State) (a : Nat) : PlIn :=
  let cs := s.copies a
  let frac := ((s.armSt a).last.map (·.frac)).getD 0
  { missing := !(s.missingOf a).isEmpty || (s.armSt a).gone
    members := cs.map fun c => 64 * c.1.1 + c.1.2
    sum := (cs.map fun c => c.2.vcode).sum
    n := 65536 * (cs.filter fun c => c.2.ins).length + if cs.any fun c => bitOf c.2.vs 26 then frac else 0 }

/-! ### Group 2 (R133) -/

/-- The map entries that are valid under `g`, as arm and index. -/
def mapPairs (g : Fld → Nat) : List (Nat × Nat) :=
  (List.range 16).flatMap fun p =>
    ((List.range 64).filter fun i => g (LVL_MAP_VALID p i) = 1).map fun i => (g (LVL_MAP_ARM p i), g (LVL_MAP_IDX p i))

/-- No two valid entries of an arm hold the same index. -/
def mapCheck (g : Fld → Nat) : Bool :=
  let l := mapPairs g
  (l.map fun e => e.1 * 1024 + e.2).eraseDups.length = l.length

end Sys2Proof.Machine
end

