-- ==== Sys2Proof/Machine/Reply.lean ====
section
/-! DEFINITION. Replies and the transports that carry them (R333, R336, R338, R339, R370). -/

namespace Sys2Proof

/-- A list in pieces of `n`. -/
def pieces {α : Type} (n : Nat) (l : List α) : List (List α) :=
  (List.range ((l.length + n - 1) / n)).map fun i => (l.drop (n * i)).take n

/-- Words as reply data (R7). -/
def words (l : List Nat) : List Nat := l.flatMap (le 4)

/-- Two requests come from the same source (R333). -/
def Origin.same : Origin → Origin → Bool
  | .pcie q _ _, .pcie q' _ _ => q = q'
  | .relay q _ _, .relay q' _ _ => q = q'
  | a, b => a = b

end Sys2Proof

namespace Sys2Proof.Machine

/-- The opcodes of R338 with the roles that serve them: in a Datum, in a Stake. -/
def opcodeRoles (c : Nat) : Option (Bool × Bool) :=
  if c ≤ 0x0007 then some (true, true)
  else if c = 0x0008 then some (true, false)
  else if 0x0100 ≤ c ∧ c ≤ 0x0104 then some (true, false)
  else if 0x0110 ≤ c ∧ c ≤ 0x0112 then some (false, true)
  else if 0x0200 ≤ c ∧ c ≤ 0x0202 then some (true, false)
  else if c = 0x0300 ∨ c = 0x0301 then some (true, false)
  else if 0x0400 ≤ c ∧ c ≤ 0x0403 then some (true, true)
  else if c = 0x0500 then some (true, true)
  else if c = 0x0501 ∨ c = 0x0502 then some (false, true)
  else if 0x0600 ≤ c ∧ c ≤ 0x0602 then some (true, false)
  else if c = 0x0700 then some (true, true)
  else if c = 0x0800 ∨ c = 0x0801 then some (true, true)
  else if c = 0x0802 then some (true, false)
  else if 0x0803 ≤ c ∧ c ≤ 0x0807 then some (true, true)
  else none

/-- The first three checks of R339, and the flags that R332 holds at 0. -/
def State.packetStatus (s : State) (k : Packet) : Nat :=
  if !k.ok then stBadParam
  else match opcodeRoles k.opcode with
  | none => stBadOpcode
  | some roles =>
    if !(if s.role = .datum then roles.1 else roles.2) then stNotInRole
    else if 2 ≤ k.flags then stBadParam
    else stOk

/-- A request waits for Thoka to start it. -/
def State.waitReq (s : State) (r : Req) : State := { s with mg := { s.mg with reqs := s.mg.reqs ++ [r] } }

/-- The sender of frames and FEED of this Datum on port `p` (R96). -/
def State.sender (s : State) (p : Nat) : Nat := 0x8000 + 0x100 * s.board + 0x10 * s.clpos + p

/-! ### The transports -/

/-- A reply as one UDP datagram, or as fragments (R336). -/
def State.sendUdp (s : State) (src : Nat) (c : Cached) : State :=
  if c.data.length ≤ 9112 then
    s.emit (.udp src (Reply.sealed { tag := c.req.tag, status := c.status, rflags := c.rflags, data := c.data, rcrc := 0 }))
  else
    let ps := pieces 9112 c.data
    s.emits ((ps.zipIdx).map fun e => Out.udp src (Reply.sealed
      { tag := c.req.tag, status := c.status, rflags := c.rflags + 4
        data := le 2 e.2 ++ le 2 ps.length ++ e.1, rcrc := 0 }))

/-- The cache keeps the last 64 replies of each source (R336). -/
def State.remember (s : State) (c : Cached) : State :=
  let mine := s.mg.cache.filter fun e => e.req.origin = c.req.origin
  let cache := match mine with
    | old :: _ => if 64 ≤ mine.length then s.mg.cache.erase old else s.mg.cache
    | [] => s.mg.cache
  { s with mg := { s.mg with cache := cache ++ [c] } }

/-- Queue pair `q`. -/
def State.pq (s : State) (q : Nat) : QueueSt := (kget s.mg.queues q).getD {}

/-- The state with queue pair `q` changed. -/
def State.setPq (s : State) (q : Nat) (v : QueueSt) : State :=
  { s with mg := { s.mg with queues := kset s.mg.queues q v } }

/-- A 64-bit address of BAR0 in two words (R337). -/
def pairAddr (m : KMap Nat) (i : Nat) : Nat := (kget m i).getD 0 + 2 ^ 32 * (kget m (i + 1)).getD 0

/-- A completion entry (R336). -/
def completionEntry (tag status rspLen sqHead q : Nat) (phase : Bool) : List Nat :=
  le 2 tag ++ [status, phase.toNat] ++ le 4 rspLen ++ le 2 sqHead ++ [q, 0, 0, 0, 0, 0]

/-- A reply and its completion entry are written, or wait for room in the completion queue (R336). -/
def State.complete (s : State) (q rspMax rspAddr : Nat) (c : Cached) : State :=
  let k := s.pq q
  if !k.en then s
  else if (k.cqTail + 1) % k.depth = k.cqHead % k.depth then s.setPq q { k with waiting := k.waiting ++ [c] }
  else
    let full := c.data.length + 8
    let r := Reply.sealed { tag := c.req.tag, status := c.status, rflags := c.rflags, data := c.data, rcrc := 0 }
    let t := (k.cqTail + 1) % k.depth
    ((s.setPq q { k with cqTail := t, phase := if t = 0 then !k.phase else k.phase }).emit
      (.completion q rspAddr (r.bytes.take rspMax) (pairAddr k.base 2 + 16 * k.cqTail)
        (completionEntry r.tag r.status full k.sqHead q k.phase))).emit (.msix k.vec)

/-- The Baseline link towards a position: the lowest in ACTIVE that reduces the distance (R370). -/
def State.routeTo (s : State) (c : Nat) : Option Nat :=
  (List.range 4).find? fun d => bitOf (bxor s.clpos c) d && s.lstate (17 + d) = lsActive

/-- A MGMT message goes towards its destination, if there is a route (R370). -/
def State.sendMgmt (s : State) (m : MgmtMsg) : State :=
  match s.routeTo m.dest with
  | some d => s.baseSend d 3 m.bytes (.mgmt d m)
  | none => s

/-- Bytes of replies that a Stake holds (R108). -/
def State.upPending (s : State) : Nat :=
  ([0, 1].flatMap fun q => (s.port q).upReply.map fun r => r.bytes.length).sum

/-- A Stake's reply to message `msgId` of port `q` goes to the SENDER of the frame that carried its segment 0; it waits for
frames on that port, and one that exceeds 8 KiB is answered BUSY (R108). Without such a message there is none to
answer. -/
def State.sendUp (s : State) (q msgId : Nat) (c : Cached) : State :=
  let r := Reply.sealed { tag := c.req.tag, status := c.status, rflags := c.rflags, data := c.data, rcrc := 0 }
  let b := Reply.sealed { tag := c.req.tag, status := stBusy, rflags := c.rflags, data := [], rcrc := 0 }
  let bytes := if s.upPending + r.bytes.length ≤ 8192 then r.bytes else b.bytes
  match (s.port q).messages.find? fun m => m.msgId = msgId with
  | some m =>
    s.setPort q { s.port q with
      messages := (s.port q).messages.erase m
      upReply := (s.port q).upReply ++ [{ dest := m.sender, msgId := msgId, nextSeg := 0, bytes := bytes }] }
  | none => s

/-- A command completes: its reply goes back where the request came from (R332, R336, R370). -/
def State.replyWith (s : State) (r : Req) (status : Nat) (multi : Bool) (data : List Nat) : State :=
  let c : Cached := { req := r, status := status, rflags := s.get FC_STAT_PENDING + 2 * multi.toNat, data := data }
  let s1 := { s with mg := { s.mg with reqs := s.mg.reqs.erase r, full := s.mg.full.erase r } }
  match r.origin with
  | .udp src => (s1.sendUdp src c).remember c
  | .fwd entry key =>
    (s1.sendMgmt { entry := entry, dest := entry, key := key, body := .reply (Reply.sealed
      { tag := r.tag, status := c.status, rflags := c.rflags, data := data, rcrc := 0 }) }).remember c
  | .pcie q rspMax rspAddr => s1.complete q rspMax rspAddr c
  | .relay q _ msgId => s1.sendUp q msgId c

/-- A reply with data. -/
def State.reply (s : State) (r : Req) (status : Nat) (data : List Nat) : State := s.replyWith r status false data

/-- A reply without data. -/
def State.status (s : State) (r : Req) (st : Nat) : State := s.reply r st []

/-! ### Commands -/

/-- Thoka executes commands: out of reset, not paused at S2, and not while firmware is being swapped or booted, except
in recovery (R358, R373, R390). -/
def State.thokaRuns (s : State) : Bool :=
  s.running && (s.get SH_STAT_STAGE < 2) && s.mg.fw.state ≠ 3 && (s.mg.fw.state ≠ 0 || s.mg.fw.recovery)

/-- A request whose command waits for relay replies or for its tick, and holds back no other (R333). -/
def State.relayWaits (s : State) (r : Req) : Bool :=
  s.mg.relays.any (fun q => q.req = some r) || s.mg.txns.any (fun t => t.req = some r)

/-- An earlier request of the same source is still to be executed (R333). -/
def State.heldBack (s : State) (r : Req) : Bool :=
  (s.mg.reqs.takeWhile (· ≠ r)).any fun x => x.origin.same r.origin && !s.relayWaits x

/-- It is the turn of a request: those of one source start in the order received (R333). -/
def State.turnOf (s : State) (r : Req) : Bool := s.thokaRuns && !s.heldBack r

/-- Thoka starts the command of a request, unless it came to a full queue. -/
def State.starts (s : State) (r : Req) : Bool := s.turnOf r && !s.mg.full.contains r

/-- A command that is served (R338, R339, R373): `datum` and `stake` say which roles serve it, `recov` that it is served in
recovery. -/
def State.serve (s : State) (r : Req) (datum stake recov : Bool) (f : State → State) : State :=
  if !(if s.role = .datum then datum else stake) then s.status r stNotInRole
  else if s.mg.fw.recovery && !recov then s.status r stBusy
  else f s.endCycle

/-- A request that came to a full queue (R336, R339): where a check before that of queue room fails, as it does in `t`, to which the
command would lead, its status stands; else the request completes with QUEUE_FULL. -/
def State.refuseFull (s t : State) (r : Req) : State :=
  match t.mg.cache.find? fun c => c.req = r with
  | some c => if [stOk, stTimeout, stParity, stQueueFull].contains c.status then s.status r stQueueFull else t
  | none => s.status r stQueueFull

/-- A command of R338: while Thoka does not run, or an earlier command of the source is still to be executed, nothing starts. -/
def State.command (s : State) (r : Req) (datum stake recov : Bool) (f : State → State) : Result :=
  .next
    (if s.starts r then s.serve r datum stake recov f
     else if s.turnOf r then s.refuseFull (s.serve r datum stake recov f) r
     else s)

end Sys2Proof.Machine
end

