-- ==== Sys2Proof/Machine/RegRead.lean ====
section
/-! DEFINITION. Reading management addresses: register words (R8, R334, R346), the Field Book window (R302, R308), the
memories (R352) and the Plat table (R350, R351). -/

namespace Sys2Proof.Machine

/-! ### Field Book records as bytes -/

/-- A record as 32 bytes (R302). -/
def FbRec.bytes (r : FbRec) : List Nat :=
  le 8 r.time ++ le 4 r.seq ++
    [r.src % 256, r.cls % 8 + 8 * r.forced.toNat + 16 * r.timeInv.toNat + 32 * r.tail.toNat, r.kind, 0] ++
    le 12 r.data ++ le 2 r.rep ++ [0, if r.valid then 0xA5 else 0]

/-- The ring slot, or the tail slot, into which a staged record is being written (R304, R310). -/
def State.fbWriting (s : State) (space : Nat) : Option Nat :=
  if space = 1 then (s.fb.queue.find? fun e => e.rcd.tail && e.tailSeq.isNone).map fun _ => s.get FB_TAILHEAD_SEQ % 128
  else if s.on FB_STAT_FROZEN then none
  else s.fb.queue.head?.map fun _ => s.get FB_HEAD_SEQ % 8192

/-- The slot of the ring (space 0) or of the tail (space 1) that a sequence number names (R304, R310); a slot that was
never written holds zeros. While a record is being written, VALID of its slot is 0 (R304). -/
def State.fbSlot (s : State) (space q : Nat) : List Nat :=
  let i := if space = 1 then q % 128 else q % 8192
  match if space = 1 then kget s.fb.tail i else kget s.fb.ring i with
  | some r => ({ r with valid := r.valid && s.fbWriting space ≠ some i } : FbRec).bytes
  | none => List.replicate 32 0

/-! ### The Plat table -/

/-- An image of the device: 0 and 1 the firmware slots, 2 and 3 the loop banks (R356). -/
def State.image (s : State) (i : Nat) : Image := (kget s.mg.fw.image i).getD {}

/-- The manifest: bytes 0 to 63 (R356). -/
def Image.man (m : Image) : List Nat := slice m.bytes 0 64

/-- VERSION of a manifest (R356). -/
def Image.version (m : Image) : Nat := ofLe (slice m.man 12 4)

/-- ABI_MIN and ABI_MAX of a manifest. -/
def Image.abiMin (m : Image) : Nat := ofLe (slice m.man 8 2)

/-- The upper end of the ABI range. -/
def Image.abiMax (m : Image) : Nat := ofLe (slice m.man 10 2)

/-- The image of the active loop bank. -/
def State.activeBank (s : State) : Nat := 2 + s.get LE_BANK_ACTIVE

/-- The image of the idle loop bank. -/
def State.idleBank (s : State) : Nat := 3 - s.get LE_BANK_ACTIVE

/-- A block or memory of the die as Plat lists it: TYPE, INST, BASE, SIZE, CAP0 if the spec gives it, and the roles that
use it: Datum, Stake (R351, R352; SIZE: log entry 46). -/
structure PlatRow where
  ty : Nat
  inst : Nat
  base : Nat
  size : Nat
  cap0 : Option Nat
  datum : Bool
  stake : Bool

/-- A block of the default address map. -/
def platBlock (n : Nat) (datum stake : Bool) : PlatRow := ⟨n, 0, 0x10000 * n, 0x10000, none, datum, stake⟩

/-- The rows of R352. -/
def platRows : List PlatRow :=
  [platBlock 1 true true, platBlock 2 true true, platBlock 3 true true, platBlock 4 true true] ++
  ((List.range 16).map fun p => ⟨5, p, 0x50000 + 0x1000 * p, 0x1000, none, true, decide (p < 2)⟩) ++
  [platBlock 6 true true, platBlock 7 true false, platBlock 8 true false, platBlock 9 true false, platBlock 10 true true,
   platBlock 11 false true, platBlock 12 true true, platBlock 13 true true, platBlock 14 true true,
   platBlock 15 true true, platBlock 16 true false, platBlock 17 true false, platBlock 18 true true,
   platBlock 19 true true,
   ⟨0x20, 0, loopProgBase, 2 * bankSize, some bankSize, true, false⟩,
   ⟨0x21, 0, loopDataBase, loopDataSize, none, true, false⟩,
   ⟨0x22, 0, poolBase, poolSize, some 262144, true, false⟩,
   ⟨0x23, 0, Config.platWord 37 1, Config.platWord 37 2, some Config.ddrMiB, true, false⟩]

/-- The row's block is used by the device's role (R4). -/
def State.usesRow (s : State) (r : PlatRow) : Bool := if s.role = .datum then r.datum else r.stake

/-- One entry of 32 bytes (R351). -/
def State.platEntry (s : State) (e : PlatRow × Nat) : List Nat :=
  [e.1.ty, e.1.inst, 1, (s.usesRow e.1).toNat] ++ le 4 e.1.base ++ le 4 e.1.size ++
    le 4 (e.1.cap0.getD (Config.platWord e.2 3)) ++ le 4 (Config.platWord e.2 4) ++ le 4 (Config.platWord e.2 5) ++
    le 4 (Config.platWord e.2 6) ++ le 4 0

/-- All entries. -/
def State.platEntries (s : State) : List Nat := (platRows.zipIdx).flatMap s.platEntry

/-- Bytes 0 to 27 of the header (R350). -/
def State.platHead (s : State) : List Nat :=
  let datum := s.role = .datum
  let bank := s.image s.activeBank
  [0x4E, 0x4C, 0x50, 0x54] ++ le 2 1 ++ [0xB0, if datum then 1 else 0] ++ le 2 platRows.length ++ le 2 32 ++
    le 4 (s.image s.mg.fw.active).version ++ le 4 (if datum then bank.version else 0) ++
    le 2 (if datum then bank.abiMin else 0) ++
    [if datum then 0 else s.usedCh.length, if datum then 0 else s.cfg GS_CFG_SUPPLY] ++ le 4 0

/-- The table (R350). -/
def State.plat (s : State) : List Nat :=
  let e := s.platEntries
  s.platHead ++ le 4 (crc32 (s.platHead ++ e)) ++ e

/-! ### Presence of addresses (R4, R334) -/

/-- The role uses the word of block `b` at offset `o` of that block. -/
def State.hasBlock (s : State) (b o : Nat) : Bool :=
  let datum := s.role = .datum
  let half := 0x200 ≤ o ∧ o < 0x280
  match b with
  | 0 | 1 | 2 | 3 | 4 | 10 | 12 | 18 | 19 => true
  | 5 => datum || o < 0x2000
  | 6 | 15 => if half then !datum else datum
  | 14 => if half then !datum else datum
  | 7 | 8 | 9 | 16 | 17 => datum
  | 11 => !datum
  | 13 => datum = false || !(o < 0x20 || (0x40 ≤ o && o < 0x50))
  | _ => false

/-- The address lies in one of the memories that Plat covers. -/
def inMemory (addr : Nat) : Bool :=
  (loopProgBase ≤ addr && addr < loopProgBase + 2 * bankSize) || (loopDataBase ≤ addr && addr < loopDataBase + loopDataSize) ||
    (poolBase ≤ addr && addr < poolBase + poolSize)

/-- The length of the Plat table (R338, R350). -/
def platSize : Nat := 32 + 32 * platRows.length

/-- Whether a word can be accessed at all: OK, NOT_IN_ROLE or BAD_PARAM (R334); words are aligned to 4 bytes. -/
def State.addrStatus (s : State) (addr : Nat) : Nat :=
  if addr % 4 ≠ 0 || (platSize ≤ addr && addr < 0x10000) then stBadParam
  else if addr < 0x140000 then (if s.hasBlock (addr / 0x10000) (addr % 0x10000) then stOk else stNotInRole)
  else if inMemory addr then (if s.role = .datum then stOk else stNotInRole)
  else stBadParam

/-! ### Values -/

/-- The value of a live field where the register shows what another part of the state holds. -/
def State.view (s : State) (f : Fld) : Nat :=
  if 0x20120 ≤ f.addr ∧ f.addr < 0x20140 then s.activeWord ((f.addr - 0x20120) / 4)
  else if 0x30800 ≤ f.addr ∧ f.addr < 0x31000 then
    let o := f.addr - 0x30800
    ofLe (slice (s.fbSlot (s.get FB_CURSOR_SPACE) (s.get FB_CURSOR_CURSOR + o / 32)) (o % 32) 4)
  else if f.key = FB_STAT_QFILL.key then s.fb.queue.length
  else if f.key = FB_MERGED.key then min s.fb.merged 0x7FFFFFFF
  else if f.key = FB_MERGED_OVF.key then (0x7FFFFFFF ≤ s.fb.merged : Bool).toNat
  else if f.key = FB_LOST.key then min s.fb.dropped 0x7FFFFFFF
  else if f.key = FB_LOST_OVF.key then (0x7FFFFFFF ≤ s.fb.dropped : Bool).toNat
  else if f.key = FB_STAT_LOST_PEND.key then if s.fb.lost = 0 then 0 else 1
  else if f.key = SCH_STAT_INFLIGHT.key then ((List.range 128).filter fun i => s.instOf i ≠ ssIdle).length
  else if f.key = SCH_STAT_BUSY_LANES.key then ((List.range 16).filter fun n => s.on (LE_LANE_STAT_BUSY n)).length
  else if 0x70010 ≤ f.addr ∧ f.addr < 0x70030 ∧ f.lo = 8 then (s.queue ((f.addr - 0x70010) / 4)).length
  else if f.key = SF_SSTAT_LIVE0.key then (s.livePort 0).toNat
  else if f.key = SF_SSTAT_LIVE1.key then (s.livePort 1).toNat
  else if f.key = SF_SSTAT_PERM0.key then (s.permitOn s.sf.x 0).toNat
  else if f.key = SF_SSTAT_PERM1.key then (s.permitOn s.sf.x 1).toNat
  else if f.key = SF_SSTAT_PLCNT.key then s.sf.x.plCnt
  else if f.key = SF_PDUCNT_X_CNT.key then s.sf.cntX
  else if f.key = SF_PDUCNT_Y_CNT.key then s.sf.cntY
  else if f.key = DR_STAT_NDONE.key then ((List.range 64).filter fun i => 2 ≤ s.get (DR_SEG_STAT_STATE i)).length
  else if f.key = TXN_STAT_OPEN.key then s.mg.txns.length
  else if f.key = TXN_STAT_SPREP.key then (s.mg.held.any (·.ready)).toNat
  else if f.key = TXN_STAT_SCOMMIT.key then (s.mg.held.any fun h => h.tick.isSome).toNat
  else if f.key = TXN_STAT_STXID.key then (s.mg.held.map (·.txid)).getD 0
  else if f.key = TXN_STICK_TICK.key then ((s.mg.held.bind (·.tick)).getD 0) % 2 ^ 32
  else if f.key = CL_STAT_ALIGNED.key ∧ s.clpos = 0 then s.get TB_STAT_TICK_RUN
  else s.get f

/-- A field that a Stake reads as 0 and does not use. -/
def State.unusedField (s : State) (f : Fld) : Bool :=
  s.role ≠ .datum && (f.key = TB_CTRL_TICK_EN.key || f.key = FC_CTRL_VEC.key || f.key = (TRV_FCFG_SLOTS 0).key ||
    f.key = (TRV_FCFG_SLOTS 1).key || f.key = DR_MEM_BASE_VAL.key || f.addr = 0xC011C || f.addr = 0xC031C ||
    f.addr = 0xC051C || f.addr = 0xC071C)

/-- What a READ shows of a field: 0 for WO (R8), the shadow of a configuration field (R346). -/
def State.shows (s : State) (x : FSpec) : Nat :=
  if x.acc = .wo || s.unusedField x.fld then 0
  else if x.cfg then s.shadow x.fld else s.view x.fld

/-- A word made of fields. -/
def State.wordOf (s : State) (xs : List FSpec) : Nat :=
  (xs.map fun x => s.shows x % 2 ^ x.fld.width * 2 ^ x.fld.lo).sum

/-- The value of the word at an address that may be accessed; an address of a block that no register uses reads as 0. -/
def State.valueAt (s : State) (addr : Nat) : Nat :=
  if addr < 0x10000 then ofLe (slice s.plat addr 4)
  else if inMemory addr then s.memWord addr
  else match regFields addr with
    | some xs => s.wordOf xs
    | none => 0

/-- A READ clears the RC fields of the word (R8); a source that still asserts sets its status bit again (R297). -/
def State.clearRc (s : State) (xs : List FSpec) : State :=
  (xs.filter fun x => x.acc = .rc).foldl (fun s x =>
    if 0x20100 ≤ x.fld.addr ∧ x.fld.addr < 0x20120 then
      let r := (x.fld.addr - 0x20100) / 4
      s.put x.fld ((List.range 32).foldl (fun v b =>
        if bitOf (s.get x.fld) b && s.asserting (32 * r + b) && s.enabled (32 * r + b) then v + 2 ^ b else v) 0)
    else if x.fld.addr = FB_MERGED.addr then { s with fb := { s.fb with merged := 0 } }
    else if x.fld.addr = FB_LOST.addr then { s with fb := { s.fb with dropped := 0 } }
    else s.put x.fld 0) s

/-- A parity mismatch stands in the shadow of the word, which is what a READ returns (R343, R346), or its memory word has
an uncorrectable error (R213). -/
def State.readBad (s : State) (addr : Nat) : Bool :=
  s.mg.parity.contains (addr, true) || s.mbad.contains (addr / 8 * 8) ||
    (poolBase ≤ addr && s.cf.bad.contains ((addr - poolBase) / 4))

/-- One word of a READ: status, value and the state after it (R334). -/
def State.readWord (s : State) (addr : Nat) : Nat × Nat × State :=
  let st := s.addrStatus addr
  if st ≠ stOk then (st, 0, s)
  else if s.readBad addr then (stParity, s.valueAt addr, s)
  else (stOk, s.valueAt addr, if addr < 0x10000 || inMemory addr then s else s.clearRc ((regFields addr).getD []))

/-- Words from an address on, up to the first that fails (R334). A word that met a mismatch is returned (R343). -/
def State.readWords (s : State) (addr : Nat) : Nat → Nat × List Nat × State
  | 0 => (stOk, [], s)
  | n + 1 =>
    let r := s.readWord addr
    if r.1 = stOk then
      let q := r.2.2.readWords (addr + 4) n
      (q.1, r.2.1 :: q.2.1, q.2.2)
    else (r.1, if r.1 = stParity then [r.2.1] else [], r.2.2)

end Sys2Proof.Machine
end

