-- ==== Sys2Proof/Machine/Twin.lean ====
section
/-! DEFINITION. Twin redundancy and the control lease of a Datum (10_twin_redundancy.md). -/

namespace Sys2Proof.Machine

/-- Lease states of LS_STAT.STATE (R262). -/
def lsOff : Nat := 0
/-- FOLLOW. -/
def lsFollow : Nat := 1
/-- CLAIM. -/
def lsClaim : Nat := 2
/-- HOLD. -/
def lsHold : Nat := 3

/-- Modes of TW_STAT.MODE. -/
def twNone : Nat := 0
/-- JOIN. -/
def twJoin : Nat := 1
/-- TRACK. -/
def twTrack : Nat := 2

/-- The lease state. -/
def State.lease (s : State) : Nat := s.get LS_STAT_STATE

/-- The twin mode. -/
def State.mode (s : State) : Nat := s.get TW_STAT_MODE

/-- Low 32 bits of the tick number. -/
def State.tick32 (s : State) : Nat := s.tb.tick % 2 ^ 32

/-- Next epoch (R258, R262). -/
def nextEpoch (e : Nat) : Nat := (e + 1) % 2 ^ 32

/-! ### HEARTBEAT (R252, R253, R408) -/

/-- CRC-32 of a loop bank (R353, R408). -/
def State.bankCrc (s : State) (b : Nat) : Nat := crc32 (memBytes s.mem (loopProgBase + b * bankSize) bankSize)

/-- IDCRC (R408). -/
def State.idCrc (s : State) : Nat := crc32 ((s.image s.mg.fw.active).man ++ le 4 (s.bankCrc (s.get LE_BANK_ACTIVE)))

/-- CFGCRC (R408). -/
def State.cfgCrc (s : State) : Nat :=
  crc32 ([LS_CFG_LT, LS_CFG_ACKINT, LS_CFG_CLAIMTO, TW_CFG_HBLOSS, TW_CFG_MREQ, TW_CFG_MWIN].map s.cfg ++
    le 2 (s.cfg LS_QAGE_QAGE) ++ (List.range 16).map fun p => s.cfg (LS_PORT_CFG_QN p))

/-- The HEARTBEAT of the tick that starts (R408). -/
def State.heartbeat (s : State) : Heartbeat :=
  { tick := s.tb.tick, seq := s.frm.seq, epoch := s.get LS_EPOCH_EPOCH, state := s.lease, mode := s.mode
    m := s.on TW_STAT_MATCH, pref := s.on LS_STAT_PREF, fault := s.activeAt 3, idcrc := s.idCrc, cfgcrc := s.cfgCrc }

/-- A HEARTBEAT goes out at each tick start while the link is enabled (R252). -/
def State.sendHeartbeat (s : State) : State :=
  if s.cfgOn TW_CTRL_EN && s.twinUp then s.twinSend (.heartbeat s.heartbeat) else s

/-! ### The match state (R255, R256) -/

/-- A cause of R256: M becomes 0. -/
def State.loseMatch (s : State) : State :=
  let s1 : State := { s with tw := { s.tw with cause := true, run := 0 } }
  if s.on TW_STAT_MATCH then ((s1.put TW_STAT_MATCH 0).count MATCH_LOSS).raise 164 else s1

/-- The DIGEST comparison, when both are present and name the same TICK (R255). -/
def State.compareDigest (s : State) : State :=
  match s.tw.digOwn, s.tw.digTwin with
  | some a, some b =>
    if a.tick ≠ b.tick then s
    else if a.seq = b.seq ∧ a.crc = b.crc then { s with tw := { s.tw with digAgree := some true } }
    else (({ s with tw := { s.tw with digAgree := some false } } : State).count DIG_DIFF).loseMatch
  | _, _ => s

/-- The STATE comparison (R257). -/
def State.compareState (s : State) : State :=
  match s.tw.stOwn, s.tw.stTwin with
  | some a, some b =>
    if a.tick ≠ b.tick then s
    else if a = b then { s with tw := { s.tw with stAgree := some true } }
    else (({ s with tw := { s.tw with stAgree := some false } } : State).count STATE_DIFF).loseMatch
  | _, _ => s

/-- The match state at the cut-off (R256): a missed heartbeat beside a frame of the twin clears M, and so do JOIN and
EN = 0; then the comparisons since the last cut-off count. -/
def State.matchCutoff (s : State) : State :=
  let s1 := if !s.tw.hbGot && s.on TW_STAT_TWIN_ALIVE then s.loseMatch else s
  let s2 := if s1.mode = twJoin || !s1.cfgOn TW_CTRL_EN || !s1.cfgOn LS_CTRL_EN then s1.loseMatch else s1
  let ok := s2.tw.digAgree = some true && s2.tw.stAgree = some true && !s2.tw.cause
  { s2 with tw := { s2.tw with
      run := if ok then s2.tw.run + 1 else 0
      silent := if s2.tw.digAgree = some true then 0 else s2.tw.silent + 1
      digAgree := none, stAgree := none, cause := false } }

/-- MATCH_WINDOW_EXPIRY (R256). -/
def execMatchWindowExpiry (s : State) : Result :=
  s.inDatum fun s => if s.cfg TW_CFG_MWIN ≤ s.tw.silent then s.loseMatch else s

/-- MATCH_ACQUIRE (R256). -/
def execMatchAcquire (s : State) : Result :=
  s.inDatum fun s =>
    if s.cfg TW_CFG_MREQ ≤ s.tw.run && s.mode ≠ twJoin && s.cfgOn TW_CTRL_EN && s.cfgOn LS_CTRL_EN then
      s.put TW_STAT_MATCH 1
    else s

/-- The DIGEST of the next frame goes out at the cut-off (R252, R255, R408). -/
def State.sendDigest (s : State) : State :=
  let d : Digest :=
    { seq := (s.frm.seq + 1) % 2 ^ 32, tick := (s.tb.tick + 1) % 2 ^ 32
      crc := crc32 (s.frm.nextArms.flatMap fun e => e.bytes ++ le 4 e.acrc) }
  let s1 : State := { s with tw := { s.tw with digOwn := some d } }
  (if s.cfgOn TW_CTRL_EN && s.twinUp then s1.twinSend (.digest d) else s1).compareDigest

/-! ### STATE (R252, R257) -/

/-- The Levelling state of an arm as STATE carries it. -/
def State.armShare (s : State) (a : Nat) : ArmShare :=
  let c := s.armSt a
  { last := c.last.getD {}, repeats := c.repeats, zeroRun := c.zeroRun }

/-- Map entries marked ABSENT. -/
def State.absentList (s : State) : List Nat :=
  (List.range 1024).filter fun i => s.on (LVL_MAP_ABSENT (i / 64) (i % 64))

/-- The registers in which units of "Control functions on the loop engine" hold state (R252, R264). -/
def unitRegs : List Fld :=
  ((List.range 16).flatMap fun i => [OG_CH_OUT_VAL i, OG_CH_ROUT_VAL i, OG_CH_STAT_SEG i, OG_CH_STAT_PEND i, OG_CH_STAT_BADVAL i]) ++
  ((List.range 4).flatMap fun i =>
    [INJ_GEN_STAT_ARMED i, INJ_GEN_STAT_RUN i, INJ_GEN_STAT_DONE i, INJ_GEN_STAT_ABORT i, INJ_GEN_STAT_CLAMP i]) ++
  ((List.range 2).flatMap fun i => [ANG_STAT_LOCK i, ANG_STAT_HOLD i, ANG_STAT_FCLAMP i, ANG_STAT_LOCKLOST i]) ++
  ((List.range 6).flatMap fun i =>
    [PL_ARM_STAT_FAIL i, PL_ARM_STAT_FAILED i, PL_ARM_STAT_RESYNC i, PL_ARM_STAT_CNT i, PL_ARM_RESID_VAL i, PL_ARM_VHAT_VAL i]) ++
  ((List.range 16).flatMap fun i =>
    [MS_GRP_STAT_WIN i, MS_GRP_STAT_VALID i, MS_GRP_STAT_LOWCLAMP i, MS_GRP_STAT_HIGHCLAMP i, MS_GRP_STAT_HELD i,
      MS_GRP_STAT_NAN i, MS_GRP_OUT_VAL i] ++ (List.range 8).map fun j => MS_GRP_C_INT_VAL i j) ++
  (List.range 64).map RC_CH_PER_PER_ACT

/-- The states of all units (R252). -/
def State.unitState (s : State) : CfSt × List Nat := (s.cf, unitRegs.map s.get)

/-- The joining Datum takes the states of all units (R264). -/
def State.takeUnits (s : State) (u : CfSt × List Nat) : State :=
  (unitRegs.zip u.2).foldl (fun s e => if s.get e.1 = e.2 then s else s.put e.1 e.2) { s with cf := u.1 }

/-- STATE of this cut-off (R252). -/
def State.stateMsg (s : State) (lines : List (Nat × List Nat)) (units : Option (CfSt × List Nat)) (last : Bool) : StateMsg :=
  { tick := s.tb.tick, lines := lines.map fun e => (loopDataBase + e.1, e.2), arms := (List.range 6).map s.armShare
    absent := s.absentList, og := (List.range 16).map s.ogSt, units := units, last := last }

/-- The twin's mode as its last heartbeat reports it. -/
def State.twinMode (s : State) : Nat := if s.on TW_STAT_HB_OK then (s.tw.hb.map (·.mode)).getD twNone else twNone

/-- Bytes of the areas that a join sweeps. -/
def State.sweepTotal (s : State) : Nat := (s.sweepAreas.map (·.2)).sum

/-- The holder has swept everything, and no line is dirty (R264). -/
def State.joinServed (s : State) : Bool := s.sch.dirty.isEmpty && s.tw.sweepAt.any fun n => s.sweepTotal ≤ n

/-- The dirty lines of the cut-off are taken whether a message carries them or not (R227). STATE goes out in TRACK, and from the
holder to a Datum in JOIN (R252, R257). -/
def State.sendState (s : State) : State :=
  let r := s.takeDirty
  if !(s.cfgOn TW_CTRL_EN && s.twinUp) then r.2
  else if s.lease = lsHold && s.twinMode = twJoin then
    ({ r.2 with tw := { r.2.tw with stateSent := true } } : State).twinSend
      (.stateMsg (s.stateMsg r.1 (some s.unitState) r.2.joinServed))
  else if s.mode = twTrack then
    let m := s.stateMsg r.1 none false
    (({ r.2 with tw := { r.2.tw with stOwn := some m } } : State).twinSend (.stateMsg m)).compareState
  else r.2

/-- Whole words that a twin's message carries are written into memory: an error that a word held is gone. -/
def State.putLines (s : State) (a : Nat) (bs : List Nat) : State :=
  ({ s with mbad := s.mbad.filter fun w => !(a ≤ w && w + 8 ≤ a + bs.length) } : State).setMemBytes a bs

/-- A received STATE is written into the joining Datum (R264). -/
def State.writeState (s : State) (m : StateMsg) : State :=
  let s1 := m.lines.foldl (fun s e => s.putLines e.1 e.2) s
  let s2 := (m.arms.zipIdx).foldl (fun s e =>
    s.setArm e.2 { s.armSt e.2 with last := some e.1.last, repeats := e.1.repeats, zeroRun := e.1.zeroRun }) s1
  let s3 := (List.range 1024).foldl (fun s i =>
    if s.on (LVL_MAP_ABSENT (i / 64) (i % 64)) = m.absent.contains i then s
    else s.putB (LVL_MAP_ABSENT (i / 64) (i % 64)) (m.absent.contains i)) s2
  let s4 := match m.units with
    | some u => s3.takeUnits u
    | none => s3
  (m.og.zipIdx).foldl (fun s e => { s with cf := { s.cf with og := kset s.cf.og e.2 e.1 } }) s4

/-- A message arrives on the Twin link: one whose CRC fails is discarded and counted (R252). -/
def State.twinMsg (s : State) (ok : Bool) (f : State → State) : Result :=
  s.inDatum fun s => if !s.twinUp then s else if ok then f s else s.count TW_MSG_CRC

/-- Tick `k`, by its low 32 bits, has started (R13). -/
def State.tickBegun (s : State) (k : Nat) : Bool := s.tb.started && (s.tick32 + 2 ^ 32 - k % 2 ^ 32) % 2 ^ 32 < 2 ^ 31

/-- DIGEST_RECEIVE (R255): one that arrives after the start of the frame it names is late. -/
def execDigestReceive (m : Digest) (ok : Bool) (s : State) : Result :=
  s.twinMsg ok fun s =>
    let s1 := if s.tickBegun m.tick then s.count DIG_LATE else s
    ({ s1 with tw := { s1.tw with digTwin := some m } } : State).compareDigest

/-- SUMMARY_RECEIVE (R136, R408). -/
def execSummaryReceive (tick : Nat) (arms : List Summary) (ok : Bool) (s : State) : Result :=
  s.twinMsg ok fun s =>
    if tick = s.tick32 && s.tb.started && !s.tb.cutDone then
      ((List.range 6).foldl (fun s a => s.setArm a { s.armSt a with twin := arms[a]? }) s).routeEvent 4
    else s

/-! ### The lease (R261, R262) -/

/-- A SENDER names this Datum (board and CLPOS). -/
def State.isMe (s : State) (snd : Nat) : Bool := snd / 16 = (0x8000 + 0x100 * s.board + 0x10 * s.clpos) / 16

/-- A SENDER names the twin. -/
def State.isTwin (s : State) (snd : Nat) : Bool := snd / 16 = (0x8000 + 0x100 * (1 - s.board) + 0x10 * s.clpos) / 16

/-- Fresh acknowledgements of the members of port `p` (R261). -/
def State.freshAcks (s : State) (p : Nat) : List Ack :=
  ((List.range 64).filter fun i => s.cfgOn (LVL_MAP_VALID p i)).filterMap fun i =>
    match kget s.tw.acks (64 * p + i) with
    | some a => if (s.tb.tick + 2 ^ 64 - a.tick) % 2 ^ 64 < s.cfg LS_QAGE_QAGE then some a else none
    | none => none

/-- Ports with QN ≠ 0. -/
def State.quorumPorts (s : State) : List Nat := (List.range 16).filter fun p => s.cfg (LS_PORT_CFG_QN p) ≠ 0

/-- Fresh acknowledgements on port `p` that name a holder at an epoch; `live` counts those with LIVE only. -/
def State.ackCount (s : State) (who : Nat → Bool) (live : Bool) (e p : Nat) : Nat :=
  ((s.freshAcks p).filter fun a => who a.holder && a.epoch = e && (!live || a.live)).length

/-- The ports that count for a holder at an epoch (R261). -/
def State.portsFor (s : State) (who : Nat → Bool) (live : Bool) (e : Nat) : List Nat :=
  s.quorumPorts.filter fun p => s.cfg (LS_PORT_CFG_QN p) < 2 * s.ackCount who live e p

/-- A holder holds an epoch by quorum (R261). -/
def State.quorum (s : State) (who : Nat → Bool) (live : Bool) (e : Nat) : Bool :=
  s.quorumPorts.length < 2 * (s.portsFor who live e).length

/-- The epoch that the twin holds by quorum, if there is one. -/
def State.twinQuorum (s : State) : Option Nat :=
  (((List.range 16).flatMap s.freshAcks).filter fun a => s.isTwin a.holder).map (·.epoch) |>.find? fun e =>
    s.quorum s.isTwin false e

/-- The quorum of this Datum and of its twin, evaluated at the cut-off and shown (R261). -/
def State.evalQuorum (s : State) : State :=
  let e := s.get LS_EPOCH_EPOCH
  let te := s.twinQuorum.getD ((s.tw.hb.map (·.epoch)).getD e)
  let own := s.portsFor s.isMe false e
  let s1 := (List.range 16).foldl (fun t p =>
    ((t.put (LS_PORT_STAT_ACK_OWN p) (s.ackCount s.isMe false e p)).put (LS_PORT_STAT_ACK_TWIN p)
      (s.ackCount s.isTwin false te p)).putB (LS_PORT_STAT_COUNTS p) (own.contains p)) s
  ((s1.put LS_STAT_CHAINS own.length).put LS_STAT_NCH s.quorumPorts.length).putB LS_STAT_QUORUM (s.quorum s.isMe false e)

/-- The Datum enters a lease state with an epoch (R262). -/
def State.enterLease (s : State) (st e : Nat) : State :=
  let s1 := (s.put LS_STAT_STATE st).put LS_EPOCH_EPOCH e
  let s2 : State := { s1 with tw := { s1.tw with stateRun := 0, claimTold := false, hoTake := s1.tw.hoTake && st = lsClaim } }
  if st = lsClaim then s2.count LS_CLAIM else s2

/-- CLAIM of the next epoch. -/
def State.claimNext (s : State) : State := s.enterLease lsClaim (nextEpoch (s.get LS_EPOCH_EPOCH))

/-- OFF with EN = 1 (R262): on what the twin's heartbeat reports. -/
def State.offStep (s : State) : State :=
  if s.lease = lsOff && s.cfgOn LS_CTRL_EN && s.on TW_STAT_HB_OK then
    match s.tw.hb with
    | some h =>
      if h.state = lsClaim || h.state = lsHold then s.enterLease lsFollow h.epoch
      else if s.on LS_STAT_PREF && h.state = lsOff then s.claimNext
      else s
    | none => s
  else s

/-- The Datum in HOLD at the cut-off (R262, R267). -/
def State.holdCutoff (s : State) : State :=
  if !s.on LS_STAT_QUORUM then
    ((s.enterLease lsClaim (s.get LS_EPOCH_EPOCH)).count LS_QLOSS).raise 162
  else
    let named := (List.range 16).any fun p => (s.freshAcks p).any fun a => s.isTwin a.holder
    let again := match s.tw.sweepTick with
      | some t => s.cfg LS_QAGE_QAGE ≤ (s.tb.tick + 2 ^ 64 - t) % 2 ^ 64
      | none => true
    if named && again && s.tw.ho.isNone && s.tw.hoReq.isNone then
      ({ s with tw := { s.tw with sweepTick := some s.tb.tick } } : State).claimNext.count LS_SWEEP
    else s

/-- The Datum in CLAIM at the cut-off (R262, R263). -/
def State.claimCutoff (s : State) : State :=
  let e := s.get LS_EPOCH_EPOCH
  if s.on LS_STAT_QUORUM then
    let s1 := if s.tw.hoTake then s.count LS_HANDOVER else s
    s1.enterLease lsHold e
  else
    match s.twinQuorum with
    | some c => if c = e || isNewer 32 c e then s.enterLease lsFollow c else s
    | none => s

/-- The Datum in FOLLOW at the cut-off (R262). -/
def State.followCutoff (s : State) : State :=
  let f := s.get LS_EPOCH_EPOCH
  let s1 := match s.twinQuorum with
    | some c => if isNewer 32 c f then s.put LS_EPOCH_EPOCH c else s
    | none => s
  if !s1.on TW_STAT_HB_OK && !s1.quorum s1.isTwin true (s1.get LS_EPOCH_EPOCH) then s1.claimNext else s1

/-- The Datum in OFF at the cut-off (R262): no heartbeat within HBLOSS ticks of EN. -/
def State.offCutoff (s : State) : State :=
  let s1 := s.offStep
  if s1.lease ≠ lsOff then s1
  else match s1.tw.enRun with
    | some n =>
      if s1.cfg TW_CFG_HBLOSS ≤ n + 1 then ({ s1 with tw := { s1.tw with enRun := none } } : State).claimNext
      else { s1 with tw := { s1.tw with enRun := some (n + 1) } }
    | none => s1

/-- The lease at the cut-off (R261, R262). -/
def State.leaseCutoff (s : State) : State :=
  let s1 := s.evalQuorum
  if !s1.cfgOn LS_CTRL_EN then s1
  else
    let s2 : State := { s1 with tw := { s1.tw with
      stateRun := s1.tw.stateRun + 1, noFrames := if s1.on TW_STAT_TWIN_ALIVE then 0 else s1.tw.noFrames + 1 } }
    match s2.lease with
    | 0 => s2.offCutoff
    | 1 => s2.followCutoff
    | 2 => s2.claimCutoff
    | _ => s2.holdCutoff

/-- TWIN_SILENCE (R262). -/
def execTwinSilence (s : State) : Result :=
  s.inDatum fun s =>
    if s.lease = lsFollow && !s.on TW_STAT_HB_OK && s.cfg TW_CFG_HBLOSS ≤ s.tw.noFrames then s.claimNext else s

/-- CLAIM_TIMEOUT (R262). -/
def execClaimTimeout (s : State) : Result :=
  s.inDatum fun s =>
    if s.lease = lsClaim && s.cfg LS_CFG_CLAIMTO ≤ s.tw.stateRun && !s.tw.claimTold then
      ({ s with tw := { s.tw with claimTold := true } } : State).raise 163
    else s

/-! ### Handover (R263) -/

/-- A CONTROL message goes out (R408). -/
def State.control (s : State) (kind tick : Nat) : State := s.twinSend (.control { kind := kind, tick := tick })

/-- A handover or a join is under way. -/
def State.changing (s : State) : Bool :=
  s.tw.hoReq.isSome || s.tw.ho.isSome || s.mode = twJoin || s.twinMode = twJoin

/-- M = 1, HB_OK = 1, and nothing under way (R263). -/
def State.mayHandOver (s : State) : Bool := s.on TW_STAT_MATCH && s.on TW_STAT_HB_OK && !s.changing

/-- A handover request names the current tick + 4 (R263). -/
def State.requestHandover (s : State) : State :=
  let h := (s.tb.tick + 4) % 2 ^ 32
  ({ s with tw := { s.tw with hoReq := some h } } : State).control 1 h

/-- A write of 1 to LS_CTRL.HANDOVER (R263). -/
def wrHandover : Write := fun s =>
  if s.lease ≠ lsHold then (stNotHolder, s)
  else if !s.mayHandOver then (stBusy, s)
  else (stOk, s.requestHandover)

/-- HANDOVER_WRITE (R263). -/
def execHandoverWrite (s : State) : Result := s.byWrite s.isDatum wrHandover

/-- REVERT_HOLD_EXPIRY (R263): the preferred Datum has followed with HB_OK and M for REVHOLD. -/
def execRevertHoldExpiry (s : State) : Result :=
  s.inDatum fun s =>
    if s.on LS_STAT_PREF && s.lease = lsFollow && s.cfgOn LS_CTRL_REV_EN && !s.on TW_STAT_PREF_CONFLICT && s.mayHandOver then
      s.requestHandover
    else s

/-- A handover is agreed for tick `h` (R263). -/
def State.agreeHandover (s : State) (h : Nat) : State :=
  ({ s with tw := { s.tw with
    hoReq := none, ho := some (h, s.lease = lsFollow), hoEpoch := s.get LS_EPOCH_EPOCH } } : State).put LS_STAT_HO_PEND 1

/-- A handover is abandoned or has passed. -/
def State.endHandover (s : State) : State :=
  ({ s with tw := { s.tw with hoReq := none, ho := none } } : State).put LS_STAT_HO_PEND 0

/-- HANDOVER_RELEASE (R263): at tick h the holder enters FOLLOW(E + 1). One that has left HOLD by then has nothing to hand
over: the handover is abandoned. -/
def execHandoverRelease (s : State) : Result :=
  s.inDatum fun s =>
    match s.tw.ho with
    | some (h, false) =>
      if !s.atTick h then s
      else if s.lease = lsHold then (s.endHandover).enterLease lsFollow (nextEpoch (s.get LS_EPOCH_EPOCH))
      else s.endHandover
    | _ => s

/-- HANDOVER_CLAIM (R263): at tick h + 1 the taking Datum enters CLAIM(E + 1), where E is the epoch of the agreement: by then the
holder's heartbeat of tick h has already made it FOLLOW(E + 1) (R262). -/
def execHandoverClaim (s : State) : Result :=
  s.inDatum fun s =>
    match s.tw.ho with
    | some (h, true) =>
      if !s.atTick ((h + 1) % 2 ^ 32) then s
      else if s.lease = lsFollow then
        let s1 := (s.endHandover).enterLease lsClaim (nextEpoch s.tw.hoEpoch)
        { s1 with tw := { s1.tw with hoTake := true } }
      else s.endHandover
    | _ => s

/-! ### Join (R264) -/

/-- The Datum enters JOIN and asks the holder for it (R264). -/
def State.enterJoin (s : State) : State :=
  let s1 : State := { s with tw := { s.tw with sweepTo := 0, joinTick := none, wait := false, stGot := none } }
  ((s1.put TW_STAT_MODE twJoin).loseMatch).control 4 0

/-- A write of 1 to TW_CTRL.JOIN (R264). -/
def wrJoin : Write := fun s =>
  match s.tw.hb with
  | some h =>
    if s.on TW_STAT_HB_OK then
      if h.idcrc ≠ s.idCrc then (stIncompatible, s.raise 165)
      else if h.state ≠ lsHold || s.mode = twJoin then (stBusy, s)
      else (stOk, s.enterJoin)
    else (stBusy, s)
  | none => (stBusy, s)

/-- JOIN_WRITE (R264). -/
def execJoinWrite (s : State) : Result := s.byWrite s.isDatum wrJoin

/-- A join is abandoned (R264). -/
def State.abandonJoin (s : State) : State :=
  (({ s with tw := { s.tw with wait := false } }).put TW_STAT_MODE twNone).raise 166

/-- JOIN_TIMEOUT (R264): 10 s pass without completion. -/
def execJoinTimeout (s : State) : Result := s.inDatum fun s => if s.mode = twJoin then s.abandonJoin else s

/-- The joiner has the whole sweep. -/
def State.sweepDone (s : State) : Bool := s.sweepTotal ≤ s.tw.sweepTo

/-- The join is complete in the present tick: TRACK, FOLLOW(E), and frames from the next tick on (R264). -/
def State.joined (s : State) : State :=
  let s1 := (s.put TW_STAT_MODE twTrack).enterLease lsFollow ((s.tw.hb.map (·.epoch)).getD 0)
  { s1 with tw := { s1.tw with joinTick := some s.tb.tick, wait := false } }

/-- The cut-off before the present tick is the one of `tick`. -/
def State.lastCut (s : State) (tick : Nat) : Bool := (tick + 1) % 2 ^ 64 = s.tb.tick

/-- JOIN_COMPLETE (R264): at a tick start of a joining Datum that has the whole sweep. When STATE of the preceding cut-off has
been written, and says that no dirty line remained, the join is complete; until it is written no instance is
dispatched. -/
def execJoinComplete (s : State) : Result :=
  s.inDatum fun s =>
    if s.mode = twJoin && s.sweepDone && s.on TW_STAT_HB_OK && s.tb.started && !s.tb.cutDone then
      match s.tw.stGot with
      | some (k, last) =>
        if !s.lastCut k then { s with tw := { s.tw with wait := true } } else if last then s.joined else s
      | none => { s with tw := { s.tw with wait := true } }
    else s

/-- A joining Datum has written STATE: one that waited for it at its tick start has joined, if no dirty line remained (R264). -/
def State.joinState (s : State) (m : StateMsg) : State :=
  let s1 : State := { s with tw := { s.tw with stGot := some (m.tick, m.last), wait := false } }
  if s.tw.wait && s.lastCut m.tick && m.last then s1.joined else s1

/-- STATE_RECEIVE (R257, R264): only a Datum in JOIN writes it. -/
def execStateReceive (m : StateMsg) (ok : Bool) (s : State) : Result :=
  s.twinMsg ok fun s =>
    if s.mode = twJoin then (s.writeState m).joinState m
    else if s.mode = twTrack then ({ s with tw := { s.tw with stTwin := some m } } : State).compareState
    else s

/-- Position `n` of the areas that a join sweeps as an address, with the bytes that follow in its area. -/
def sweepPos : List (Nat × Nat) → Nat → Option (Nat × Nat)
  | [], _ => none
  | (a, len) :: t, n => if n < len then some (a + n, len - n) else sweepPos t (n - len)

/-- The blocks in which `m` bytes of an area from address `a` on go out (R252): one, or, with a word among them that has an
uncorrectable error, word by word, where an empty block stands for the word whose copy is abandoned (R213, log entry 109). -/
def State.sweepParts (s : State) (a m : Nat) : List (Nat × List Nat) :=
  if s.mbad.any fun w => a ≤ w && w < a + m then
    (List.range (m / 8)).map fun i =>
      if s.mbad.contains (a + 8 * i) then (a + 8 * i, []) else (a + 8 * i, memBytes s.mem (a + 8 * i) 8)
  else [(a, memBytes s.mem a m)]

/-- SWEEP messages from position `n` on, for at most `left` bytes in all and of one area each. -/
def State.sweepMsgs (s : State) : Nat → Nat → Nat → List (Nat × List Nat)
  | 0, _, _ => []
  | k + 1, n, left =>
    match sweepPos s.sweepAreas n with
    | some (a, len) =>
      let m := min len left
      if m = 0 then [] else s.sweepParts a m ++ s.sweepMsgs k (n + m) (left - m)
    | none => []

/-- The bytes of the sweep that a block stands for. -/
def sweepSpan (b : List Nat) : Nat := if b.isEmpty then 8 else b.length

/-- SWEEP may go out now: after a STATE of the join, until 200 ns before the next cut-off (R252). -/
def State.sweepOpen (s : State) : Bool :=
  s.tw.stateSent && (s.tb.cutDone || (s.now + 100 ≤ s.tb.nextStart - s.cfg TB_CUTOFF_LEAD))

/-- SWEEP_SEND (R252, R264): the holder sends the next blocks, up to 32 KiB in a tick, as memory stands (log entry 110). Each word
left out raises source 72 (R213). -/
def execSweepSend (s : State) : Result :=
  s.inDatum fun s =>
    match s.tw.sweepAt with
    | some n =>
      if s.lease = lsHold && s.twinUp && s.twinMode = twJoin && s.sweepOpen then
        let ms := s.sweepMsgs 65 n (32768 - s.tw.sweepNow)
        let sent := (ms.map fun e => sweepSpan e.2).sum
        let s1 := ms.foldl (fun s e => s.twinSend (.sweep e.1 e.2))
          ({ s with tw := { s.tw with sweepAt := some (n + sent), sweepNow := s.tw.sweepNow + sent } } : State)
        s1.badWords ((ms.filter (·.2.isEmpty)).map (·.1))
      else s
    | none => s

/-- SWEEP_RECEIVE (R264): an empty block stands for a word that the holder could not read. -/
def execSweepReceive (addr : Nat) (bytes : List Nat) (ok : Bool) (s : State) : Result :=
  s.twinMsg ok fun s =>
    if s.mode = twJoin then
      let s1 := s.putLines addr bytes
      { s1 with tw := { s1.tw with sweepTo := s1.tw.sweepTo + sweepSpan bytes } }
    else s

/-- CONTROL_RECEIVE (R263, R264, R408). -/
def execControlReceive (m : Control) (ok : Bool) (s : State) : Result :=
  s.twinMsg ok fun s =>
    match m.kind with
    | 1 =>
      if s.mayHandOver && (s.lease = lsFollow || s.lease = lsHold) then (s.agreeHandover m.tick).control 2 m.tick
      else s.control 3 m.tick
    | 2 => if s.tw.hoReq = some m.tick then s.agreeHandover m.tick else s
    | 3 => if s.tw.hoReq = some m.tick then { s with tw := { s.tw with hoReq := none } } else s
    | 4 =>
      if s.lease = lsHold && (s.tw.hb.map (·.idcrc)) = some s.idCrc then
        ({ s with tw := { s.tw with sweepAt := some 0, stateSent := false } } : State).control 5 0
      else s.control 6 0
    | 6 => if s.mode = twJoin then s.put TW_STAT_MODE twNone else s
    | _ => s

/-! ### Heartbeats received and missed -/

/-- The heartbeat is lost (R253): an agreed handover and a join end (R264, R267), the lease moves on (R262). -/
def State.loseHeartbeat (s : State) : State :=
  let s1 := ((s.put TW_STAT_HB_OK 0).raise 161).endHandover
  let s2 := if s1.mode = twJoin then s1.abandonJoin else s1.put TW_STAT_MODE twNone
  let s3 : State := { s2 with tw := { s2.tw with hbTold := true, wait := false, sweepAt := none } }
  if s3.lease = lsFollow || s3.lease = lsHold then s3.claimNext else s3

/-- HEARTBEAT_LOSS (R253): HBLOSS consecutive misses. -/
def execHeartbeatLoss (s : State) : Result :=
  s.inDatum fun s =>
    if s.cfg TW_CFG_HBLOSS ≤ s.tw.hbRun && !s.tw.hbTold then s.loseHeartbeat else s

/-- The heartbeat at the sample instant (R253): while the link is not in ACTIVE, as with TW_CTRL.EN = 0, every one is
missed. -/
def State.heartbeatSample (s : State) : State :=
  if s.tw.hbGot then { s with tw := { s.tw with hbRun := 0, hbTold := false } }
  else ({ s with tw := { s.tw with hbRun := s.tw.hbRun + 1 } } : State).count HB_MISS

/-- The strap and identity findings of a heartbeat (R263 to R265). -/
def State.heartbeatId (s : State) (m : Heartbeat) : State :=
  let conflict := m.pref = s.on LS_STAT_PREF
  let cfgDiff := m.cfgcrc ≠ s.cfgCrc
  let wasDiff := match s.tw.hb with
    | some h => h.cfgcrc ≠ s.cfgCrc
    | none => false
  let told := (conflict && !s.on TW_STAT_PREF_CONFLICT) || (cfgDiff && !(wasDiff && s.on TW_STAT_ID_DIFF))
  let s1 := (s.putB TW_STAT_PREF_CONFLICT conflict).putB TW_STAT_ID_DIFF (cfgDiff || m.idcrc ≠ s.idCrc)
  if told then s1.raise 165 else s1

/-- What the twin's lease state means for this one's (R262). -/
def State.heartbeatLease (s : State) (m : Heartbeat) : State :=
  let e := s.get LS_EPOCH_EPOCH
  match s.lease with
  | 0 => s.offStep
  | 1 => if isNewer 32 m.epoch e then s.put LS_EPOCH_EPOCH m.epoch else s
  | 2 => if m.state = lsHold && (m.epoch = e || isNewer 32 m.epoch e) then s.enterLease lsFollow m.epoch else s
  | _ => s

/-- What the twin's mode means for this one's: the holder is in TRACK with a twin in TRACK, and a sweep ends with the
join (R252, R264). -/
def State.heartbeatMode (s : State) (m : Heartbeat) : State :=
  let s1 := if m.mode = twTrack && s.mode = twNone && s.lease = lsHold then s.put TW_STAT_MODE twTrack else s
  if m.mode = twJoin then s1 else { s1 with tw := { s1.tw with sweepAt := none } }

/-- The join that follows a new Twin link (R264). -/
def State.heartbeatJoin (s : State) (m : Heartbeat) : State :=
  if s.tw.linkNew then
    let s1 : State := { s with tw := { s.tw with linkNew := false } }
    if s1.cfgOn LS_CTRL_EN && !s1.on TW_STAT_MATCH && m.state = lsHold then (wrJoin s1).2 else s1
  else s

/-- The tick length of board A's benchmark, in cycles, once two consecutive ticks have had it (R44, log entry 117): `x` is the
start of tick `k` there, in 1/16 ns. -/
def State.twinPeriod (s : State) (x k : Nat) : Option Nat × State :=
  let len := match s.tw.hbStart with
    | some (k0, x0, _) => if k = (k0 + 1) % 2 ^ 64 && spacingOk (x - x0) then (x - x0 + 16) / 32 else 0
    | none => 0
  let same := len ≠ 0 && s.tw.hbStart.any fun e => e.2.2 = len
  (if same then some len else none, { s with tw := { s.tw with hbStart := some (k, x, len) } })

/-- The ticks of board B's benchmark follow those of board A (R44): it takes their length, and re-phases when that moves. -/
def State.followTwin (s : State) (x k : Nat) : State :=
  let r := s.twinPeriod x k
  let moved := r.1.any (· ≠ s.tb.period)
  let s1 : State := { r.2 with tb := { r.2.tb with period := r.1.getD s.tb.period } }
  let s2 := s1.alignTo x k moved
  if s2.on TB_STAT_TICK_RUN && s2.tb.placed then s2.put TB_STAT_TWIN_ALIGNED 1 else s2

/-- Tick alignment of board B's benchmark, and SEQ of a Datum on board B (R44, R97). The HEARTBEAT leaves at its tick
start (log entry 48). It is a valid correction by the Twin link (R48). -/
def State.heartbeatAlign (s0 : State) (m : Heartbeat) (at' : Nat) : State :=
  let s := s0.correction 3
  if s.board = 0 then s
  else
    let s1 := if s.clpos = 0 then s.followTwin (at' - s.get TW_LINKDLY_DLY) m.tick else s
    if m.tick = s1.tb.tick && s1.tb.started then { s1 with frm := { s1.frm with seq := m.seq } } else s1

/-- HEARTBEAT_RECEIVE (R253): `at'` is the arrival of its SOF in 1/16 ns. -/
def execHeartbeatReceive (m : Heartbeat) (at' : Nat) (ok : Bool) (s : State) : Result :=
  s.twinMsg ok fun s =>
    let s1 := s.heartbeatId m
    let inTime := m.tick = s1.tb.tick && s1.tb.started && !s1.tb.sampled
    let s2 : State := { s1 with tw := { s1.tw with hb := some m, hbGot := s1.tw.hbGot || inTime, hbTold := false, enRun := none } }
    let s3 := ((s2.put TW_STAT_HB_OK 1).put LS_STAT_TWIN_STATE m.state).putB TW_STAT_TWIN_FAULT m.fault
    (((s3.heartbeatLease m).heartbeatMode m).heartbeatJoin m).heartbeatAlign m at'

/-! ### Sharing of inputs (R254) -/

/-- This Datum takes its inputs from the holder. -/
def State.takesShare (s : State) : Bool :=
  (s.mode = twTrack || s.mode = twJoin) && s.cfgOn TW_CTRL_SHARE_EN && s.lease ≠ lsHold

/-- This Datum shares its inputs. -/
def State.givesShare (s : State) : Bool :=
  s.lease = lsHold && s.cfgOn TW_CTRL_SHARE_EN && s.twinUp && (s.twinMode = twTrack || s.twinMode = twJoin)

/-- Results go into loop data memory as 16-bit words, entry 0 first, ADDR counting halfwords, and the flag named is set
(R191). The copy of a word with an uncorrectable error is abandoned (R213). -/
def State.copyResults (s : State) (n : Nat) (res : List Nat) : State :=
  let base := loopDataBase + 2 * s.cfg (AD_SEQ_DEST_ADDR n)
  let words := res.zipIdx.map fun e => (base + 2 * e.2, e.1)
  let s1 := (words.filter fun e => !s.mbad.contains (e.1 / 8 * 8)).foldl (fun s e => s.setMemBytes e.1 (le 2 e.2)) s
  (s1.badWords (words.map fun e => e.1 / 8 * 8)).setFlags [(s.cfg (AD_SEQ_DEST_SLOT n), s.cfg (AD_SEQ_DEST_FLAG n))]

/-- S + TW_SHTO of the present tick in cycles of GTIME (R254). -/
def State.shareLimit (s : State) : Nat := s.tb.tickStart + s.cfg TB_SAMPLE_S + s.cfg TW_SHTO_SHTO

/-- SHARE_RECEIVE (R254): in place of the own results, unless it comes after S + TW_SHTO (R267). -/
def execShareReceive (m : Share) (ok : Bool) (s : State) : Result :=
  s.twinMsg ok fun s =>
    if s.takesShare && m.tick = s.tick32 && s.now ≤ s.shareLimit && s.cfgOn (AD_SEQ_DEST_EN m.conv) && !s.tw.served.contains m.conv &&
        !s.tw.late.contains m.conv then
      (({ s with tw := { s.tw with served := addOnce s.tw.served m.conv } } : State).copyResults m.conv m.res).routeEvent 3
    else s

/-- SHARE_TIMEOUT (R254): S + TW_SHTO comes without the SHARE of converter `n`. -/
def execShareTimeout (n : Nat) (s : State) : Result :=
  s.inDatum fun s =>
    if s.takesShare && s.tb.sampled && s.cfgOn (AD_SEQ_DEST_EN n) && !s.tw.served.contains n && !s.tw.late.contains n then
      let s0 := s.advance s.shareLimit
      let s1 := ({ s0 with tw := { s0.tw with late := addOnce s0.tw.late n } } : State).count SHARE_LATE
      match kget s1.tw.withheld n with
      | some r => s1.copyResults n r
      | none => s1
    else s

/-! ### The tick start, and group 7 -/

/-- The twin at a tick start: nothing of the new tick has arrived yet. -/
def State.twinTick (s : State) : State :=
  ({ s with tw := { s.tw with wasUp := s.twinUp, hbGot := false, served := [], late := [], withheld := [], sweepNow := 0 } } : State).put
    TW_STAT_TWIN_ALIVE 0

/-- The checks of R265 on the values that `g` gives the configuration fields. -/
def twinCheck (g : Fld → Nat) : Bool :=
  (g LS_CFG_LT + 4 ≤ g TW_CFG_MWIN) && (2 * g LS_CFG_ACKINT ≤ g LS_QAGE_QAGE) &&
    [4, 8, 16, 32, 64].contains (g LS_CFG_ACKINT) && ((List.range 16).all fun p => g (LS_PORT_CFG_QN p) ≤ 64) &&
    (1 ≤ g TW_CFG_HBLOSS)

/-- A strobe of group 7 that changes LS_CTRL.EN (R262): the lease starts, or ends in OFF (log entry 49). -/
def State.leaseStrobed (s o : State) : State :=
  if s.cfgOn LS_CTRL_EN && !o.cfgOn LS_CTRL_EN then
    ({ s with tw := { s.tw with enRun := some 0 } } : State).offStep
  else if !s.cfgOn LS_CTRL_EN && o.cfgOn LS_CTRL_EN then s.endHandover.enterLease lsOff (s.get LS_EPOCH_EPOCH)
  else s

/-- A strobe of group 7: M is 0 while TW_CTRL.EN or LS_CTRL.EN is 0 (R256). -/
def State.twinStrobed (s o : State) : State :=
  let s1 := s.leaseStrobed o
  if (s1.cfgOn TW_CTRL_EN && s1.cfgOn LS_CTRL_EN) || !s1.on TW_STAT_MATCH then s1 else s1.loseMatch

end Sys2Proof.Machine
end

