-- ==== Sys2Proof/Machine/AdcPass.lean ====
section
/-! DEFINITION. The end of a pass of a converter: results, comparison, rotating calibration, the copy into loop data
memory and its sharing (07_measurement_and_aux_supply.md, R254). -/

namespace Sys2Proof.Machine

/-- The results of a pass go where a Datum uses them (R191, R254): `n` names the destination, `res` are the results. A
Datum that takes the holder's inputs keeps its own results of j = 0 until the SHARE comes or is late; the holder shares
them when it has copied them. -/
def State.deliverPass (s : State) (n : Nat) (res : List Nat) (j0 : Bool) : State :=
  if s.role ≠ .datum || !s.cfgOn (AD_SEQ_DEST_EN n) then s
  else if j0 && s.takesShare then
    if s.tw.served.contains n then s
    else if s.tw.late.contains n then s.copyResults n res
    else { s with tw := { s.tw with withheld := kset s.tw.withheld n res } }
  else
    let s1 := s.copyResults n res
    if j0 && s1.givesShare then
      s1.twinSend (.share { conv := n, pass := s1.get (AD_SEQ_STAT_PASSNO n), tick := s1.tick32, res := res })
    else s1

/-- The converters that run the same pass as converter `n`, which ends with it (R195, R196). -/
def State.passEnds (s : State) (n : Nat) : List Nat :=
  if (s.conv n).mir then
    [n / 2 * 2, n / 2 * 2 + 1].filter fun c => s.passBusy c && (s.conv c).mir && (s.conv c).startAt = (s.conv n).startAt
  else [n]

/-- The pass of the converters `cs` ends with the results that `res` gives them (R190, R191, R195 to R197). -/
def State.passEnd (s : State) (n : Nat) (cs : List Nat) (res : Nat → List Int) : State :=
  let m := n / 2
  let mir := (s.conv n).mir
  let j0 := (s.conv n).j0
  let src := if cs.contains (s.pairConv m) then s.pairConv m else n
  let s1 := cs.foldl (fun t c => t.endPass c (res c)) s
  let s2 := if mir && cs.length = 2 then s1.comparePair m (res (2 * m)) (res (2 * m + 1)) else s1
  let s3 := if mir then s2.rotBoundary m else s2
  if mir then s3.deliverPass (2 * m) ((res src).map codeOf) j0 else s3.deliverPass n ((res n).map codeOf) j0

/-- The cycle by which the running pass of converter `n` has ended, 75 ns after its last hold (R188, R192). -/
def State.passOver (s : State) (n : Nat) : Nat := (s.conv n).startAt + ((s.conv n).holds.getLastD 0 + 153) / 4

/-- ADC_PASS_END (R190): the pass of converter `n` ends, in a mirrored pair that of both; `raw` and `rawB` are the raw
codes of the even and the odd converter there, and `raw` those of converter `n` otherwise. -/
def execAdcPassEnd (n : Nat) (raw rawB : List Nat) (s : State) : Result :=
  s.inRun fun s0 =>
    if n < 4 ∧ s0.passBusy n then
      let s := s0.advance (s0.passOver n)
      let mir := (s.conv n).mir
      s.passEnd n (s.passEnds n) fun c => s.passResults c (if mir && c % 2 = 1 then rawB else raw)
    else s0

end Sys2Proof.Machine
end

