-- ==== Sys2Proof/Machine/AuxSupply.lean ====
section
/-! DEFINITION. The auxiliary supply PWM of a Stake (R201 to R205, 07_measurement_and_aux_supply.md). -/

namespace Sys2Proof.Machine

/-- An event at the running auxiliary PWM of a Stake. -/
def State.onAux (s : State) (f : State → State) : Result :=
  s.inStake fun s => if s.on AUX_STAT_RUN then f s else s

/-- AUXPWM takes a level. -/
def State.auxPin (s : State) (b : Bool) : State := (s.putB AUX_STAT_ON b).emit (.pin "AUXPWM" 0 b)

/-- The current period is cut (R202). -/
def State.auxCutNow (s : State) : State :=
  (({ s with aux := { s.aux with cutNow := true, offAt := s.now, cutRun := s.aux.cutRun + 1 } }).count AUX_CUT).put
    AUX_STAT_CUT 1

/-- A period ends where the next one starts: one without a cut ends the run of cuts (R202, R406). -/
def State.auxPeriodEnd (s : State) : State :=
  if s.aux.period && !s.aux.cutNow then { s with aux := { s.aux with cutRun := 0, raised := false } } else s

/-- A pulse ends and the off-time starts (R201). -/
def State.auxOff (s : State) : State := ({ s with aux := { s.aux with offAt := s.now } }).auxPin false

/-- A new period starts (R201, R202): with AUXFLT high it is cut from its start, and in mode 1 with AUXDEM low its
pulse ends at once. -/
def State.auxPeriod (s0 : State) : State :=
  let s := s0.auxPeriodEnd
  let s1 := { s with aux := { s.aux with period := true, cutNow := false, startAt := s.now } }
  if s1.on AUX_STAT_FLT then s1.auxCutNow
  else
    let s2 := s1.auxPin true
    if s2.cfgOn AUX_CTRL_MODE && !s2.on AUX_STAT_DEM then s2.auxOff else s2

/-- The off-time has reached TOFF. -/
def State.auxRested (s : State) : Bool := s.aux.offAt + s.cfg AUX_TOFF_TOFF ≤ s.now

/-- AUX_PULSE_START (R201): in mode 1 at the end of the off-time; in mode 0 in the first cycle in which AUXDEM is high and the
off-time has reached TOFF, but with sync only at a sync instant. -/
def execAuxPulseStart (s : State) : Result :=
  s.onAux fun s =>
    let rest := s.aux.offAt + s.cfg AUX_TOFF_TOFF
    if s.on AUX_STAT_ON then s
    else if s.cfgOn AUX_CTRL_MODE then (s.advance rest).auxPeriod
    else if s.cfgOn AUX_CTRL_SYNC_EN || !s.on AUX_STAT_DEM then s
    else (s.advance (max s.aux.demAt rest)).auxPeriod

/-- The cycle in which the running pulse ends (R201): TON after its start in mode 0; in mode 1 when AUXDEM goes low, but
TONMAX after its start at the latest. -/
def State.auxEnd (s : State) : Nat :=
  let a := s.aux.startAt
  if !s.cfgOn AUX_CTRL_MODE then a + s.cfg AUX_TON_TON
  else if s.on AUX_STAT_DEM then a + s.cfg AUX_TON_TONMAX
  else min (max a s.aux.demAt) (a + s.cfg AUX_TON_TONMAX)

/-- AUX_PULSE_END (R201). -/
def execAuxPulseEnd (s : State) : Result :=
  s.onAux fun s => if s.on AUX_STAT_ON then (s.advance s.auxEnd).auxOff else s

/-- AUXFLT_CUT (R202): the filtered AUXFLT goes high. -/
def execAuxfltCut (at' : Nat) (s : State) : Result :=
  s.inStake fun s0 =>
    let s := (s0.advance at').put AUX_STAT_FLT 1
    if s.on AUX_STAT_ON then (s.auxOff).auxCutNow else s

/-- AUXFLT_FALL (R203). -/
def execAuxfltFall (s : State) : Result := s.inStake fun s => s.put AUX_STAT_FLT 0

/-- AUX_CUT_LIMIT (R202, R406). -/
def execAuxCutLimit (s : State) : Result :=
  s.inStake fun s =>
    if s.cfg AUX_FILT_FLTLIM ≤ s.aux.cutRun ∧ ¬ s.aux.raised then
      ({ s with aux := { s.aux with raised := true } }).raise 136
    else s

/-- AUXDEM_CHANGE (R203). -/
def execAuxdemChange (high : Bool) (s : State) : Result :=
  s.inStake fun s => ({ s with aux := { s.aux with demAt := s.now } }).putB AUX_STAT_DEM high

/-- A received edge is accepted: a sync instant lies DLY later, after those of the edges before it; the own timer stops (R204). -/
def State.acceptEdge (s : State) : State :=
  let due := if s.aux.lost then [] else s.aux.syncs
  ({ s with aux := { s.aux with
      lastEdge := s.now, lost := false, syncs := due ++ [s.now + s.cfg AUX_SYNC_DLY] } }).put AUX_STAT_SYNC_LOCK 1

/-- AUXSYNC_EDGE (R204): without lock the edge is accepted without a window. In mode 1 every edge is repeated. -/
def execAuxsyncEdge (at' : Nat) (s : State) : Result :=
  s.onAux fun s0 =>
    let s := s0.advance at'
    if s.cfgOn AUX_CTRL_MODE then { s with aux := { s.aux with syncs := s.aux.syncs ++ [s.now + s.cfg AUX_SYNC_DLY] } }
    else if s.cfgOn AUX_CTRL_SYNC_SRC then s
    else
      let per := s.cfg AUX_SYNC_PER
      let want := s.aux.lastEdge + per
      if !s.on AUX_STAT_SYNC_LOCK || (8 * ((s.now - want) + (want - s.now)) ≤ per) then s.acceptEdge
      else s.count SYNC_ERR

/-- The device makes its own sync instants: SYNC_SRC = 1 in mode 0, or edges that have failed to come (R204). -/
def State.ownSync (s : State) : Bool :=
  !s.cfgOn AUX_CTRL_MODE && (s.cfgOn AUX_CTRL_SYNC_SRC || s.aux.lost)

/-- At a sync instant in mode 0 with sync a pulse starts, or SYNC_SKIP counts (R204). -/
def State.syncPulse (s : State) : State :=
  if s.cfgOn AUX_CTRL_MODE || !s.cfgOn AUX_CTRL_SYNC_EN then s
  else if s.on AUX_STAT_DEM && s.auxRested && !s.on AUX_STAT_ON then s.auxPeriod
  else s.count SYNC_SKIP

/-- SYNC_INSTANT (R204): at the next sync instant AUXSYNC_OUT is high for 20 ns; in mode 0 with sync a pulse starts or SYNC_SKIP
counts. -/
def execSyncInstant (s : State) : Result :=
  s.onAux fun s0 =>
    match s0.aux.syncs with
    | [] => s0
    | t :: rest =>
      let s := s0.advance t
      (({ s with aux := { s.aux with
        lastSync := t
        syncs := if s.ownSync then [t + s.cfg AUX_SYNC_PER] else rest } }).emit (.pulse "AUXSYNC_OUT" 10)).syncPulse

/-- The first instant of the timer that runs at `per` from `last` that is not past. -/
def timerFrom (last per now : Nat) : Nat := last + per * ((now - last + per - 1) / per)

/-- SYNC_LOSS (R204): in mode 0 with SYNC_SRC = 0 no edge has been accepted for 2 PER, since the last one or since the controller
started. The Stake goes on at PER from the last sync instant. -/
def execSyncLoss (s : State) : Result :=
  s.onAux fun s0 =>
    if s0.cfgOn AUX_CTRL_MODE || s0.cfgOn AUX_CTRL_SYNC_SRC || s0.aux.lost then s0
    else
      let per := s0.cfg AUX_SYNC_PER
      let s := s0.advance (s0.aux.lastEdge + 2 * per)
      ((({ s with aux := { s.aux with lost := true, syncs := [timerFrom s.aux.lastSync per s.now] } }).put AUX_STAT_SYNC_LOCK
        0).count SYNC_LOSS).raise 137

/-- The controller starts: its own timer, and the wait for a first edge, run from now (R204, log entry 108). -/
def State.auxStart (s : State) : State :=
  if s.on AUX_STAT_RUN then s
  else ({ s with aux := { s.aux with lastEdge := s.now, lastSync := s.now, lost := false } }).put AUX_STAT_RUN 1

/-- A strobe of group 4 starts or stops the controller (R205), which stays off in stage 4 (R386). The own timer of mode 0
starts with it; its first instant lies PER later (log entry 108). -/
def State.auxStrobed (s : State) : State :=
  if s.role ≠ .stake then s
  else if s.cfgOn AUX_CTRL_EN && s.get SH_STAT_STAGE < 4 then
    let s1 := s.auxStart
    if s1.ownSync && s1.aux.syncs.isEmpty then { s1 with aux := { s1.aux with syncs := [s.now + s.cfg AUX_SYNC_PER] } } else s1
  else
    let s1 := ({ s with aux := { s.aux with syncs := [] } }).put AUX_STAT_RUN 0
    if s1.on AUX_STAT_ON then s1.auxOff else s1

end Sys2Proof.Machine
end

