-- ==== Sys2Proof/Machine/Faults.lean ====
section
/-! DEFINITION. The meanings of the fault collector and Field Book commands (12_faults_and_field_book.md). -/

namespace Sys2Proof.Machine

/-- The filtered FLTINn is at its active level, which POL selects (R203). -/
def State.fltActive (s : State) (n : Nat) : Bool := s.fc.inputs.contains n != s.cfgOn (FLTIN_FILT_POL n)

/-- The level source 224 + n follows its input (R291). -/
def State.fltFollow (s : State) (n : Nat) : State :=
  if s.fltActive n then s.levelOn (224 + n) else s.levelOff (224 + n)

/-- FLTIN_CHANGE (R203, R291): the filtered level of FLTINn is now high or low. -/
def execFltinChange (n : Nat) (high : Bool) (s : State) : Result :=
  s.inRun fun s =>
    if 8 ≤ n then s
    else
      let l := s.fc.inputs.filter (· ≠ n)
      ({ s with fc := { s.fc with inputs := if high then l ++ [n] else l } } : State).fltFollow n

/-- A strobe of group 4 may turn the active level of an input (R203). `o` is the state before the strobe. -/
def State.fltStrobed (s o : State) : State :=
  ((List.range 8).filter fun n => s.cfgOn (FLTIN_FILT_POL n) != o.cfgOn (FLTIN_FILT_POL n)).foldl State.fltFollow s

/-- A force bit that has just been set: an assertion, unless the source asserted before (R298). -/
def State.forceOn (s : State) (src : Nat) (was : Bool) : State :=
  if was then s else s.beginAssert src true

/-- A write to FC_FORCEr (R298). -/
def wrForce (r v : Nat) : Write := fun s =>
  let old := s.get (FC_FORCE_SRC r)
  let rises := (List.range 32).filter fun b => bitOf v b && !bitOf old b
  let falls := (List.range 32).filter fun b => !bitOf v b && bitOf old b
  if rises.any fun b => s.classOf (32 * r + b) = 4 then (stLocked, s)
  else
    let s1 := s.put (FC_FORCE_SRC r) v
    let s2 := falls.foldl (fun t b => t.settle (32 * r + b)) s1
    (stOk, rises.foldl (fun t b => t.forceOn (32 * r + b) (s.asserting (32 * r + b))) s2)

/-- FAULT_FORCE (R298). -/
def execFaultForce (r v : Nat) (s : State) : Result :=
  s.byWrite true (if 8 ≤ r then fun s => (stBadParam, s) else wrForce r (v % 2 ^ 32))

/-- A write to WD_FEED (R301). -/
def wrFeed (key : Nat) : Write := fun s =>
  if s.fc.feedArmed && key = 0x5AA5 then
    (stOk, ({ s with fc := { s.fc with feedArmed := false } }).put FC_STAT_WD_EXP 0)
  else if !s.fc.feedArmed && key = 0xA55A then (stOk, { s with fc := { s.fc with feedArmed := true } })
  else (stOk, ({ s with fc := { s.fc with feedArmed := false } }).count WD_BADFEED)

/-- WATCHDOG_FEED (R301). -/
def execWatchdogFeed (key : Nat) (s : State) : Result := s.byWrite true (wrFeed (key % 65536))

/-- A staged record that belongs in the tail is copied there (R310). -/
def State.copyTail (s : State) (e : FbEnt) : State × FbEnt :=
  if e.rcd.tail && e.tailSeq.isNone then
    let q := s.get FB_TAILHEAD_SEQ
    let r := { e.rcd with seq := q, valid := true }
    (({ s with fb := { s.fb with tail := kset s.fb.tail (q % 128) r } }).put FB_TAILHEAD_SEQ (q + 1),
      { e with tailSeq := some q })
  else (s, e)

/-- Every staged record that waits for its tail copy gets it, oldest first (R310). -/
def State.copyTails : State → List FbEnt → State × List FbEnt
  | s, [] => (s, [])
  | s, e :: t =>
    let r := s.copyTail e
    let q := State.copyTails r.1 t
    (q.1, r.2 :: q.2)

/-- A KIND 1 record that reports the lost events (R302, R306). -/
def State.lostRec (s : State) : FbRec :=
  { time := s.time.word, src := 0, kind := 1, timeInv := s.timeInv, data := s.fb.lost % 2 ^ 32 + s.fb.lostTime * 2 ^ 32 }

/-- The oldest staged record goes into its ring slot; a free entry takes the pending KIND 1 record (R304, R306). -/
def State.writeRing (s : State) : State :=
  match s.fb.queue with
  | [] => s
  | e :: rest =>
    let q := s.get FB_HEAD_SEQ
    let r := { e.rcd with seq := q, valid := true }
    let s1 : State := ({ s with fb := { s.fb with
      ring := kset s.fb.ring (q % 8192) r, queue := rest, newestTail := e.tailSeq } }).put FB_HEAD_SEQ (q + 1)
    if s1.fb.lost = 0 then s1
    else { s1 with fb := { s1.fb with queue := rest ++ [{ rcd := s1.lostRec }], lost := 0 } }

/-- RECORD_WRITE (R304, R310): tail copies are made whether or not the ring is frozen (R309). -/
def execRecordWrite (s : State) : Result :=
  s.inRun fun s0 =>
    let s := s0.endCycle
    let r := s.copyTails s.fb.queue
    let s1 := { r.1 with fb := { r.1.fb with queue := r.2 } }
    if s1.on FB_STAT_FROZEN then s1 else s1.writeRing

/-- A write to FB_CTRL.FREEZE (R309). -/
def wrFreeze (b : Bool) : Write := fun s => (stOk, (s.putB FB_CTRL_FREEZE b).putB FB_STAT_FROZEN b)

/-- FREEZE (R309). -/
def execFreeze (freeze : Bool) (s : State) : Result := s.byWrite true (wrFreeze freeze)

/-- FREEZE_EXPIRY (R309): a freeze that lasted FRZ_MAX ends, and a 0x07 record enters the queue. -/
def execFreezeExpiry (s : State) : Result :=
  s.inRun fun s =>
    if s.on FB_CTRL_FREEZE then
      (((s.put FB_CTRL_FREEZE 0).put FB_STAT_FROZEN 0).put FB_STAT_FRZ_EXP 1).event 7 0
    else s

/-- Records made invalid (R311). -/
def invalidate (m : KMap FbRec) : KMap FbRec := m.map fun e => (e.1, { e.2 with valid := false })

/-- A write of 0b01 to FB_CTRL.CLEAR (R311). -/
def wrRingClear : Write := fun s =>
  if s.on SYS_LOCK_FB then (stLocked, s)
  else (stOk, ({ s with fb := { s.fb with ring := invalidate s.fb.ring } }).event 8 0)

/-- RING_CLEAR (R311). -/
def execRingClear (s : State) : Result := s.byWrite true wrRingClear

/-- A write of 0b10 to FB_CTRL.CLEAR (R311). -/
def wrTailClear : Write := fun s =>
  if s.on SYS_LOCK_FB then (stLocked, s)
  else (stOk, ({ s with fb := { s.fb with tail := invalidate s.fb.tail } }).event 8 0)

/-- TAIL_CLEAR (R311). -/
def execTailClear (s : State) : Result := s.byWrite true wrTailClear

/-- A cause that stops ALIVE (R300). -/
def State.aliveCause (s : State) : Bool := s.on FC_STAT_BLOCK_ACT || s.on FC_STAT_TERMINAL || s.on FC_STAT_WD_EXP

/-- ALIVE takes a level (R300). -/
def State.setAlive (s : State) (b : Bool) : State :=
  ({ s with fc := { s.fc with alive := b } }).emit (.pin "ALIVE" 0 b)

/-- ALIVE_EDGE (R300): ALIVE toggles while no cause holds, stops at the edge that takes it low, and resumes with a
rising edge. -/
def execAliveEdge (s : State) : Result :=
  s.inRun fun s =>
    if s.fc.alive then (if s.aliveCause then s.put FC_STAT_ALIVE_RUN 0 else s).setAlive false
    else if s.aliveCause then s.put FC_STAT_ALIVE_RUN 0
    else (s.put FC_STAT_ALIVE_RUN 1).setAlive true

end Sys2Proof.Machine
end

