-- ==== Sys2Proof/Machine/PowerStage.lean ====
section
/-! DEFINITION. The meanings of the power-stage commands (06_stake_power_stage.md). -/

namespace Sys2Proof.Machine

/-- The code that SETS loads into a strength register (R152, R160). -/
def State.setsCode (s : State) (n reg : Nat) : Nat :=
  if reg = 0 then s.get (GS_CH_STAT_CODE_ON n)
  else if reg = 1 then s.get (GS_CH_STAT_CODE_OFF n)
  else s.cfg (GS_CH_STR_SOFT n)

/-- A symbol that changes no commanded state leaves on GCMDn, after a symbol in progress (R153). -/
def State.emitSym (s : State) (n : Nat) (y : Sym) : State :=
  let c := s.chan n
  let e := s.symEnd n y
  let live := c.sets.filter fun x => s.now < x.1
  (s.setChan n { c with
    busy := e
    line := (c.line.filter fun x => s.now < x.2.1) ++ [(s.symStart n, e, y)]
    sets := match y with
      | .sets r _ => live ++ [(e, r)]
      | _ => live }).gcmdOut n y e

/-- The apply instant of the entry acted on in this tick (R35, R143). -/
def State.applyAt (s : State) : Nat := s.tb.tickStart + (s.actedEntry.map (·.apply)).getD 0

/-- The last symbol started on GCMDn ends at least 8 ns before the start of every scheduled symbol, those of a trim that runs
and of the entry acted on among them (R153). -/
def State.lineFits (s : State) (n : Nat) : Bool :=
  ((s.chan n).due.all fun e => (s.chan n).busy + 4 ≤ s.symBegin e.1) &&
    ((s.aheadNow n ++ if s.actedEntry.isNone then [] else s.aheadApply n s.applyAt).all fun e =>
      (s.chan n).busy + 4 ≤ s.symBegin e.1)

/-- A TEST symbol leaves on GCMDn, after every scheduled symbol that it would come too close to (R153). -/
def State.sendTest (s : State) (n sel : Nat) : State :=
  let r := s.emitSym n (.test sel)
  if r.lineFits n then r
  else
    let last := ((s.chan n).due.map (·.1) ++ (s.ahead n s.applyAt).map (·.1)).foldl max s.now
    (s.setChan n { s.chan n with busy := max (s.chan n).busy last }).emitSym n (.test sel)

/-- GCMD_REFRESH (R153): 1024 ns after the end of the last symbol the commanded state is repeated, every 64th time as three
SETS. -/
def execGcmdRefresh (n : Nat) (s : State) : Result :=
  s.inStake fun s0 =>
    if !s0.isUsed n || s0.on SF_SSTAT_GCMD_GATED then s0 else
      let s := s0.advance (s0.busyTill n + 512)
      let c := s.chan n
      let s1 := s.setChan n { c with refreshes := (c.refreshes + 1) % 64 }
      let s2 :=
        if (c.refreshes + 1) % 64 = 0 then
          ((s1.emitSym n (.sets 0 (s.setsCode n 0))).emitSym n (.sets 1 (s.setsCode n 1))).emitSym n
            (.sets 2 (s.setsCode n 2))
        else s1.emitSym n (if s.on (GS_CH_STAT_ON n) then .on else .off)
      if s2.lineFits n then s2 else s

/-- SETS_SEND (R153, R160): a due strength register is loaded, unless the SETS would end too close to a scheduled
symbol; in NOTREADY it may complete the conditions of R169. -/
def execSetsSend (n reg : Nat) (s : State) : Result :=
  s.inStake fun s =>
    if !s.isUsed n || s.on SF_SSTAT_GCMD_GATED || !(s.chan n).setsDue.contains reg then s else
      let c := s.chan n
      let s1 := (s.setChan n { c with setsDue := c.setsDue.filter (· ≠ reg), setsSent := addOnce c.setsSent reg }).emitSym n
        (.sets reg (s.setsCode n reg))
      if s1.lineFits n then s1.tryReady n else s

/-! ### The feedback link (R155 to R157) -/

/-- Markers of GFB (R155). -/
inductive Hold where
  | edge | desat | loss
deriving DecidableEq, Repr

/-- The class of one level held for `ns` nanoseconds: nothing up to the 8 ns of Manchester code, and a marker from 12 ns on, when
the device recognises it (R155). -/
def classHold (high : Bool) (ns : Nat) : Option Hold :=
  if ns < 12 then none else if high then some .desat else if ns < 100 then some .edge else some .loss

/-- The bits of a word from its chips: bit `i` comes in chips `2 i` and `2 i + 1`, high then low for a 1 and low then high for a
0; no word where two chips of a bit are equal (R155). -/
def manchester (chips : Nat) : Nat → Option Nat
  | 0 => some 0
  | n + 1 =>
    match chips % 4, manchester (chips / 4) n with
    | 1, some w => some (2 * w + 1)
    | 2, some w => some (2 * w)
    | _, _ => none

/-- The chips of a word of `n` bits (R155). -/
def chipsOf (w : Nat) : Nat → Nat
  | 0 => 0
  | n + 1 => (if w % 2 = 1 then 1 else 2) + 4 * chipsOf (w / 2) n

/-- SYNC and WCRC of a status word are right (R156). -/
def wordSound (w : Nat) : Bool := w % 16 = 6 && w / 4096 % 16 = crc4 w

/-- A status word is valid after the previous one (R157). -/
def wordOk (w : Nat) (prev : Option Nat) : Bool :=
  wordSound w &&
    match prev with
    | none => true
    | some q => w / 256 % 16 = (q + 1) % 16

/-- The WSEQ that the next word has to follow after a word that is not valid: its own, or the expected one where it cannot be
read (R157). -/
def nextSeq (w : Option Nat) (prev : Option Nat) : Option Nat :=
  match w with
  | some v => if wordSound v then some (v / 256 % 16) else prev.map fun q => (q + 1) % 16
  | none => prev.map fun q => (q + 1) % 16

/-! ### Self-test (R183) -/

/-- The monitor of the running self-test of channel `n` shows its condition, or its end, in a status word; `sel` names the test
and `shown` what the word says; a DESAT hold began in cycle `began` (R183). -/
def State.testSees (s : State) (n sel began : Nat) (shown : Bool) : State :=
  if !(s.on GS_STAT_TEST_BUSY && s.gs.testSel = sel && s.gs.testCh = n) then s
  else
    match s.gs.testPhase, shown with
    | .forced, true =>
      if sel = 1 ∧ s.gs.testAt + 1000 < began then s
      else
        let s1 := s.sendTest n 0
        { s1 with gs := { s1.gs with testPhase := .seen, testAt := (s1.chan n).busy } }
    | .seen, false =>
      if sel = 1 ∧ s.gs.testAt + 1000 < s.now then s
      else { s with gs := { s.gs with testPhase := .returned } }
    | _, _ => s

/-- What the tests of SEL 1 to 3 see in the status of channel `n`, which is known only with word lock (R157). -/
def State.testWord (s : State) (n : Nat) : State :=
  if s.on (GS_CH_STAT_LOCK n) then
    ((s.testSees n 1 s.now (s.on (GS_CH_STAT_DSAT n))).testSees n 2 s.now (!s.on (GS_CH_STAT_GVG n))).testSees n 3 s.now
      (!s.on (GS_CH_STAT_SUPG n))
  else s

/-- GFB_STATUS_WORD (R155 to R157): the chips of a word are decoded and checked; valid words count towards lock and report VCE,
GVG, SUPG and DSAT. -/
def execGfbStatusWord (n chips : Nat) (s : State) : Result :=
  s.inStake fun s =>
    if !s.isUsed n then s else
      let c := s.chan n
      let w := manchester chips 16
      if w.any fun v => wordOk v c.wseq then
        let v := w.getD 0
        let s1 := s.setChan n { c with goodRun := c.goodRun + 1, badRun := 0, wseq := some (v / 256 % 16) }
        (((((s1.put (GS_CH_STAT_VCE n) (v / 16 % 2)).put (GS_CH_STAT_GVG n) (v / 32 % 2)).put
          (GS_CH_STAT_SUPG n) (v / 64 % 2)).put (GS_CH_STAT_DSAT n) (v / 128 % 2)).testWord n).tryReady n
      else
        (s.setChan n { c with goodRun := 0, badRun := c.badRun + 1, wseq := nextSeq w c.wseq }).count
          (GS_CH_LINK_ERR n)

/-- WORD_LOCK_CHANGE (R157): four valid words gain lock; two invalid words lose it, which is a feedback fault
of a READY channel (R170). -/
def execWordLockChange (n : Nat) (s : State) : Result :=
  s.inStake fun s =>
    if !s.isUsed n then s
    else if !s.on (GS_CH_STAT_LOCK n) && (4 ≤ (s.chan n).goodRun) then (s.put (GS_CH_STAT_LOCK n) 1).tryReady n
    else if s.on (GS_CH_STAT_LOCK n) && (2 ≤ (s.chan n).badRun) then (s.put (GS_CH_STAT_LOCK n) 0).feedbackFault n
    else s

/-- The code steps towards its target after a marker pair of `t` ns (R161). -/
def State.adapt (s : State) (n t : Nat) (turnOn : Bool) : State :=
  let f := if turnOn then GS_CH_STAT_CODE_ON n else GS_CH_STAT_CODE_OFF n
  let reg := if turnOn then 0 else 1
  let tgt := if turnOn then s.cfg (GS_CH_TGT_TON n) else s.cfg (GS_CH_TGT_TOFF n)
  let tol := s.cfg (GS_CH_TOL_TOL n)
  let c := s.chan n
  let beyond := s.setChan n { c with wanted := min 16 (c.wanted + 1) }
  if tgt + tol < t then
    if s.get f < s.cfg (GS_CH_STRLIM_MAX n) then (s.put f (s.get f + 1)).dueSets n reg else beyond
  else if t + tol < tgt then
    if s.cfg (GS_CH_STRLIM_MIN n) < s.get f then (s.put f (s.get f - 1)).dueSets n reg else beyond
  else s.setChan n { c with wanted := 0 }

/-- EDGE_HOLD (R155, R158): a low hold of `len` ns that began at `ns` may complete the marker pair of the last change
command. -/
def execEdgeHold (n ns len : Nat) (s : State) : Result :=
  s.inStake fun s =>
    let c := s.chan n
    if classHold false len ≠ some .edge then s
    else if !s.isUsed n || ns < 2 * c.chgAt || 2 * c.chgAt + 2000 < ns then s else
      match c.chgOn, c.edges with
      | some _, [] => s.setChan n { c with edges := [ns] }
      | some b, t0 :: _ =>
        let t := ns - t0
        let s1 := s.setChan n { c with edges := [], chgOn := none }
        let s2 := s1.put (if b then GS_CH_MEAS_TON_M n else GS_CH_MEAS_TOFF_M n) t
        if s2.cfgOn (GS_CH_CTRL_ADAPT n) then s2.adapt n t b else s2
      | none, _ => s

/-- STRENGTH_LIMIT_FAULT (R161): 16 wanted steps beyond the limit raise source 113. -/
def execStrengthLimitFault (n : Nat) (s : State) : Result :=
  s.inStake fun s =>
    if (s.chan n).wanted = 16 then (s.setChan n { s.chan n with wanted := 0 }).raise 113 else s

/-- MARKER_WINDOW_EXPIRY (R158): a change command without a marker pair counts NOMARK. -/
def execMarkerWindowExpiry (n : Nat) (s : State) : Result :=
  s.inStake fun s =>
    if (s.chan n).chgOn.isSome then
      (s.setChan n { s.chan n with chgOn := none, edges := [] }).count (GS_CH_NOMARK n)
    else s

/-- A self-test of channel `n` with one of the given tests runs, so that its monitor does not react (R183). -/
def State.testing (s : State) (sels : List Nat) (n : Nat) : Bool :=
  s.on GS_STAT_TEST_BUSY && sels.contains s.gs.testSel && s.gs.testCh = n

/-- DESAT_TRIP (R166): a DESAT hold of the filter's length, 12 ns and FILT cycles, trips a channel that is on. Under self-test it
is the condition that the test waits for (R183). -/
def execDesatTrip (n : Nat) (s : State) : Result :=
  s.inStake fun s =>
    if s.testing [1] n then s.testSees n 1 (s.now - 6 - s.cfg GS_PROT0_FILT) true
    else if s.isUsed n && s.on (GS_CH_STAT_ON n) && !(s.chan n).soft then s.trip n
    else s

/-- DESAT_GLITCH (R155, R166): a DESAT hold that ends after `len` ns, before the filter's time, counts GLITCH on a channel that is
on. Under self-test the end of a hold is what the test waits for after TEST with SEL 0 (R183). -/
def execDesatGlitch (n len : Nat) (s : State) : Result :=
  s.inStake fun s =>
    if classHold true len ≠ some .desat then s
    else if s.testing [1] n then (s.testSees n 1 (s.now - len / 2) true).testSees n 1 s.now false
    else if s.isUsed n && s.on (GS_CH_STAT_ON n) && (len < 12 + 2 * s.cfg GS_PROT0_FILT) then s.count (GS_CH_GLITCH n)
    else s

/-- LOSS_HOLD (R155, R157, R170): a low hold of `len` ns that reaches 100 ns ends word lock, and a READY channel has a feedback
fault. -/
def execLossHold (n len : Nat) (s : State) : Result :=
  s.inStake fun s =>
    if !s.isUsed n || classHold false len ≠ some .loss then s else
      ((s.setChan n { s.chan n with goodRun := 0, badRun := 0, wseq := none }).put (GS_CH_STAT_LOCK n) 0).feedbackFault n

/-- Channel `n` is more than 2 us past its last change command (R170). -/
def State.settled (s : State) (n : Nat) : Bool := (s.chan n).chgAt = 0 || (s.chan n).chgAt + 1000 < s.now

/-- FEEDBACK_FAULT (R170): SUPG has been 0 for 1 us, or GVG, more than 2 us after the last change command. A self-test suppresses
the reaction of its own monitor (R183). -/
def execFeedbackFault (n : Nat) (s : State) : Result :=
  s.inStake fun s =>
    if s.on (GS_CH_STAT_LOCK n) && ((!s.on (GS_CH_STAT_SUPG n) && !s.testing [3] n) ||
        (!s.on (GS_CH_STAT_GVG n) && !s.testing [2] n && s.settled n)) then
      s.feedbackFault n
    else s

/-- TRIP_WAIT_EXPIRY (R169): after WAIT a TRIP channel is READY if its feedback is good; else the wait restarts. -/
def execTripWaitExpiry (n : Nat) (s : State) : Result :=
  s.inStake fun s =>
    if s.get (GS_CH_STAT_PSTATE n) = 2 ∧ s.on (GS_CH_STAT_LOCK n) ∧ s.on (GS_CH_STAT_SUPG n) ∧
        ¬ s.on (GS_CH_STAT_DSAT n) then
      ((s.put (GS_CH_STAT_PSTATE n) 1).updPblk).refollow
    else s

/-- CLEAN_EXPIRY (R169): CLEAN seconds in READY return TRIES_USED to 0. -/
def execCleanExpiry (n : Nat) (s : State) : Result :=
  s.inStake fun s => if s.get (GS_CH_STAT_PSTATE n) = 1 then s.put (GS_CH_STAT_TRIES_USED n) 0 else s

/-- NOTREADY_TIMEOUT (R170): a channel that has not reached READY 10 ms after reset raises source 104 + n. -/
def execNotreadyTimeout (n : Nat) (s : State) : Result :=
  s.inStake fun s =>
    if s.isUsed n && s.get (GS_CH_STAT_PSTATE n) = 0 && !(s.chan n).toldNotReady then
      (s.setChan n { s.chan n with toldNotReady := true }).raise (104 + n)
    else s

/-- A write of 1 to GS_CHn_CTRL.UNLATCH (R169). Without word lock DSAT is unknown (R157), and the write is answered as if it were
1 (DESIGN CHOICE, log entry 128). -/
def wrUnlatch (n : Nat) : Write := fun s =>
  if s.on (GS_CH_STAT_DSAT n) || !s.on (GS_CH_STAT_LOCK n) then (stBusy, s)
  else
    let s1 := s.put (GS_CH_STAT_TRIES_USED n) 0
    (stOk, if s.get (GS_CH_STAT_PSTATE n) = 3 then s1.enterNotReady n else s1)

/-- UNLATCH (R169). -/
def execUnlatch (n : Nat) (s : State) : Result := s.byWrite s.isStake (wrUnlatch n)

/-- OV2_BLOCK (R176): CNT consecutive results at or above OV2 force the Stake Off and raise source 110, unless the test of
OV2 suppresses the block (R183). -/
def execOv2Block (s : State) : Result :=
  s.inStake fun s =>
    if s.cfg GS_OV2_CNT ≤ s.gs.ov2Run ∧ ¬ s.on GS_STAT_OV2_BLK ∧ ¬ (s.on GS_STAT_TEST_BUSY ∧ s.gs.testSel = 5) then
      ((s.put GS_STAT_OV2_BLK 1).forceOff).raise 110
    else s

/-- A write of 1 to GS_CTRL.OV2_CLR (R176). -/
def wrOv2Clr : Write := fun s =>
  if s.gs.vcode ≤ s.cfg GS_OV1_OFF_LEVEL then
    (stOk, (({ s with gs := { s.gs with ov2Run := 0 } }.put GS_STAT_OV2_BLK 0).updPblk).refollow)
  else (stBusy, s)

/-- OV2_CLR (R176). -/
def execOv2Clr (s : State) : Result := s.byWrite s.isStake wrOv2Clr

/-- OV3_TRIGGER (R178): the comparator triggers the bypass, unless its test gates the firing paths (R183). -/
def execOv3Trigger (s : State) : Result :=
  s.inStake fun s => if s.on GS_STAT_TEST_BUSY && s.gs.testSel = 6 then s else s.bypass 1

/-- Both firing outputs take a level (R179). -/
def State.byPins (s : State) (b : Bool) : State := (s.emit (.pin "BYPF_A" 0 b)).emit (.pin "BYPF_B" 0 b)

/-- BYPASS_FIRE_DRIVE (R179): at DLY both firing outputs are driven high. -/
def execBypassFireDrive (s : State) : Result :=
  s.inStake fun s =>
    if s.gs.byp = .triggered then
      ({ s.advance (s.gs.bypAt + s.cfg GS_BYP_DLY) with gs := { s.gs with byp := .driven } }).byPins true
    else s

/-- BYPASS_READBACK_FAIL (R179): an output not at its driven level writes an event record with the path. -/
def execBypassReadbackFail (path : Nat) (s : State) : Result :=
  s.inStake fun s => if s.gs.byp = .driven then s.event 2 (path % 2) else s

/-- BYPASS_FIRE_RELEASE (R179): after PW both outputs are released. -/
def execBypassFireRelease (s : State) : Result :=
  s.inStake fun s =>
    if s.gs.byp = .driven then
      ({ s.advance (s.gs.bypAt + s.cfg GS_BYP_DLY + 500 * s.cfg GS_BYP_PW) with
          gs := { s.gs with byp := .released } }).byPins false
    else s

/-- A write of 0xB1A5 to GS_BYP_CMD (R181). -/
def wrBypArm (at' : Nat) : Write := fun s =>
  let s1 := s.advance at'
  (stOk, { s1 with gs := { s1.gs with armed := true, armAt := s1.now } })

/-- BYPASS_CMD_ARM (R181). -/
def execBypassCmdArm (at' : Nat) (s : State) : Result := s.byWrite s.isStake (wrBypArm at')

/-- A write of 0x0F1E to GS_BYP_CMD: within 1 ms of arming it fires the bypass (R181). -/
def wrBypFire (at' : Nat) : Write := fun s =>
  let s1 := s.advance at'
  let s2 := { s1 with gs := { s1.gs with armed := false } }
  (stOk, if s1.gs.armed ∧ s1.now ≤ s1.gs.armAt + 500000 then s2.bypass 2 else s2)

/-- BYPASS_CMD_FIRE (R181). -/
def execBypassCmdFire (at' : Nat) (s : State) : Result := s.byWrite s.isStake (wrBypFire at')

/-- A write of 0x0C1E to GS_BYP_CMD: it clears the retained fired mark after a PORn, while SYS_LOCK.OV is 0 (R181); without a mark
there is nothing to clear (log entry 28). -/
def wrBypClear : Write := fun s =>
  let s0 := { s with gs := { s.gs with armed := false } }
  if s.on SYS_LOCK_OV || (s.gs.mark && !s.gs.pornSinceFire) then (stLocked, s0)
  else if !s.gs.mark then (stOk, s0)
  else
    let s1 := { s0 with gs := { s0.gs with mark := false, bypf := false, byp := .idle, needEntry := true } }.put GS_STAT_FIRED 0
    (stOk, (if s1.gs.vcode ≤ s1.cfg GS_OV1_OFF_LEVEL then s1.setDchg false else s1).refollow)

/-- BYPASS_MARK_CLEAR (R181). -/
def execBypassMarkClear (s : State) : Result := s.byWrite s.isStake wrBypClear

/-- BYPASS_ARM_TIMEOUT (R181): 1 ms after arming the command disarms. -/
def execBypassArmTimeout (s : State) : Result :=
  s.inStake fun s => { s with gs := { s.gs with armed := false } }

/-- A write to GS_TEST (R183). -/
def wrTest (sel ch : Nat) : Write := fun s =>
  if sel = 0 ∨ 7 ≤ sel ∨ 4 ≤ ch then (stBadParam, s)
  else if s.cell = .off ∧ (¬ sel ≤ 3 ∨ (s.isUsed ch ∧ s.get (GS_CH_STAT_PSTATE ch) = 1)) ∧ ¬ s.on GS_STAT_TEST_BUSY then
    let s1 := { s with gs := { s.gs with testSel := sel, testCh := ch, testPhase := .forced, testAt := s.now } }
    let s2 := ((s1.put GS_STAT_TEST_BUSY 1).put GS_TEST_STAT_BUSY 1).put GS_TEST_STAT_LAST_SEL sel
    (stOk, if sel ≤ 3 then
        let s3 := s2.sendTest ch sel
        { s3 with gs := { s3.gs with testAt := (s3.chan ch).busy } }
      else if sel = 4 ∧ ¬ s2.on GS_STAT_FIRED then s2.setDchg false
      else s2)
  else (stBusy, s.put GS_TEST_STAT_REFUSED 1)

/-- SELF_TEST_START (R183). -/
def execSelfTestStart (sel ch : Nat) (s : State) : Result := s.byWrite s.isStake (wrTest sel ch)

/-- The largest code of a cell-voltage result (R199). -/
def fullScale : Nat := 0x3FFFFE

/-- A self-test passes (R183): the forced condition of SEL 1 to 3 has come and gone; the comparison of SEL 4 or 5 finds an
injected full-scale code at or above its level; and `seen`, what the comparators of SEL 4 to 6 report, is so. -/
def State.testPasses (s : State) (seen : Bool) : Bool :=
  match s.gs.testSel with
  | 4 => seen && s.cfg GS_OV1_ON_LEVEL ≤ fullScale
  | 5 => seen && s.cfg GS_OV2_LEVEL ≤ fullScale
  | 6 => seen
  | _ => s.gs.testPhase = .returned

/-- The end of a self-test (R183): PASS or FAIL; FAIL raises source 112 and writes a record with SEL and CH. -/
def State.endTest (s : State) (seen : Bool) : State :=
  let pass := s.testPasses seen
  let s1 := if s.gs.testSel ≤ 3 ∧ s.gs.testPhase = .forced then s.sendTest s.gs.testCh 0 else s
  let s2 := ((((s1.put GS_STAT_TEST_BUSY 0).put GS_TEST_STAT_BUSY 0).putB GS_TEST_STAT_PASS pass).putB GS_TEST_STAT_FAIL
    (!pass)).refollow
  if pass then s2 else (s2.raise 112).event 6 (s.gs.testSel + 256 * s.gs.testCh)

/-- A GATE_TEST that waits for the end of its test is answered with GS_TEST_STAT (R338). -/
def State.answerTest (s : State) : State :=
  match s.mg.test with
  | some r => ({ s with mg := { s.mg with test := none } } : State).reply r stOk (le 4 (s.valueAt GS_TEST_STAT_BUSY.addr))
  | none => s

/-- SELF_TEST_END (R183, R338): the detections have been seen or the limit of the test has passed; `seen` is what the comparators
under test report (log entry 111). -/
def execSelfTestEnd (seen : Bool) (s : State) : Result :=
  s.inStake fun s => if s.on GS_STAT_TEST_BUSY then (s.endTest seen).answerTest else s

/-- A channel that leaves manual mode takes the level that the schedule has for it (R184). -/
def State.followCell (s : State) (n : Nat) : State :=
  let t := s.symEnd n .on
  let want := s.cellOn s.cell n && s.follows n
  if !s.isUsed n || s.onAt n t = want then s
  else if want then s.turnOn n t
  else if (s.chan n).soft then s
  else s.sendNow n .off

/-- A write of GS_CHn_CTRL.MAN and MAN_ON (R184). While MAN cannot be written, a write that leaves it as it is is taken (DESIGN
CHOICE, log entry 129). -/
def wrManual (n : Nat) (man manOn : Bool) : Write := fun s =>
  if s.on (GS_CH_CTRL_MAN n) ≠ man ∧ (s.on LVL_SIDX_ADOPTED ∨ s.on SYS_LOCK_GATE) then (stLocked, s)
  else
    let s1 := (s.putB (GS_CH_CTRL_MAN n) man).putB (GS_CH_CTRL_MAN_ON n) manOn
    (stOk, if s.on (GS_CH_CTRL_MAN n) ∧ ¬ man then s1.followCell n else s1.manualLeg n)

/-- MANUAL_MODE_WRITE (R184). -/
def execManualModeWrite (n : Nat) (man manOn : Bool) (s : State) : Result := s.byWrite s.isStake (wrManual n man manOn)

/-- A write of WIDTH to GS_CHn_PULSE: one manual on-pulse, suppressed when shorter than MINP (R184). -/
def wrPulse (n width : Nat) : Write := fun s =>
  if !s.on (GS_CH_CTRL_MAN n) || !s.isUsed n then (stOk, s)
  else if width < s.minp then (stOk, s.count (GS_CH_SUPP_ON n))
  else if s.offCause || s.on GS_STAT_TEST_BUSY || s.get (GS_CH_STAT_PSTATE n) ≠ 1 || s.onAt n (s.symEnd n .on) then (stOk, s)
  else
    let t := s.symEnd n .on
    let s1 := s.turnOn n t
    (stOk, if s1.onAt n t then s1.schedule n (t + width) .off else s1)

/-- MANUAL_PULSE (R184). -/
def execManualPulse (n width : Nat) (s : State) : Result := s.byWrite s.isStake (wrPulse n width)

/-- A change command ends the wait for the marker pair of the one before, which then counts NOMARK (R158, log entry 102). -/
def State.closeWindow (s : State) (n : Nat) (change : Bool) : State :=
  if change && (s.chan n).chgOn.isSome && decide (s.now ≤ (s.chan n).chgAt + 1000) then s.count (GS_CH_NOMARK n) else s

/-- The commanded state of a channel changes at an effective instant; t_on of a bootstrap channel follows (R158, R173). -/
def State.commanded (s0 : State) (n t : Nat) (y : Sym) : State :=
  let s := s0.closeWindow n (s0.on (GS_CH_STAT_ON n) ≠ (y = .on) && y ≠ .softoff)
  let c := s.chan n
  let was := s.on (GS_CH_STAT_ON n)
  let b := y = .on
  let c1 := { c with
    soft := if y = .on then c.soft else false
    chgOn := if was ≠ b ∧ y ≠ .softoff then some b else c.chgOn
    chgAt := if was ≠ b ∧ y ≠ .softoff then t else c.chgAt
    edges := if was ≠ b ∧ y ≠ .softoff then [] else c.edges
    tOn := if b ∧ ¬ was then (if s.cfg GS_BOOT_TRCH ≤ t - c.offSince then 0 else c.tOn)
      else if ¬ b ∧ was then c.tOn + (t - c.onSince) else c.tOn
    onSince := if b ∧ ¬ was then t else c.onSince
    offSince := if ¬ b ∧ was then t else c.offSince }
  (s.setChan n c1).putB (GS_CH_STAT_ON n) b

/-- EFFECTIVE_INSTANT (R150): the next scheduled symbol of a channel takes effect. An ON while the other switch of the leg
is on is refused instead (R163), and a channel that is not READY is held off (R169). -/
def execEffectiveInstant (n : Nat) (s : State) : Result :=
  s.inStake fun s =>
    match (s.chan n).due with
    | [] => s
    | (t, y) :: rest =>
      let s1 := s.advance t
      let s2 := s1.setChan n { s1.chan n with due := rest, busy := max (s1.chan n).busy t }
      if !s2.isUsed n || (y = .on && s2.get (GS_CH_STAT_PSTATE n) ≠ 1) then s2
      else if y = .on ∧ s2.onAt (partner n) t then s2.refuseLeg n
      else s2.commanded n t y

end Sys2Proof.Machine
end

