-- ==== Sys2Proof/Machine/Recorder.lean ====
section
/-! DEFINITION. The disturbance recorder (13_disturbance_recorder.md). -/

namespace Sys2Proof.Machine

/-- States of DR_STAT.STATE (R320). -/
def drIdle : Nat := 0
/-- ARMED. -/
def drArmed : Nat := 1
/-- POST. -/
def drPost : Nat := 2
/-- REARM. -/
def drRearm : Nat := 3
/-- WAITSEG. -/
def drWaitseg : Nat := 4
/-- STOPPED. -/
def drStopped : Nat := 5

/-- The recorder's state. -/
def State.drState (s : State) : Nat := s.get DR_STAT_STATE

/-- IDLE or STOPPED: the settings of R329 may be written. -/
def State.drQuiet (s : State) : Bool := s.drState = drIdle || s.drState = drStopped

/-! ### Segments and records -/

/-- The content of segment `i`. -/
def State.seg (s : State) (i : Nat) : DrRec := (kget s.dr.segs i).getD {}

/-- The state with the content of segment `i` changed. -/
def State.setSeg (s : State) (i : Nat) (r : DrRec) : State := { s with dr := { s.dr with segs := kset s.dr.segs i r } }

/-- Segments of the record memory (R313). -/
def State.segments (s : State) : List Nat := List.range (s.get DR_CFG_NSEG)

/-- Free segments. -/
def State.freeSegs (s : State) : List Nat := s.segments.filter fun i => s.get (DR_SEG_STAT_STATE i) = 0

/-- Segments with a complete record: 2 complete, 3 streaming. -/
def State.doneSegs (s : State) : List Nat := (List.range 64).filter fun i => 2 ≤ s.get (DR_SEG_STAT_STATE i)

/-- The segment in use. -/
def State.segNow (s : State) : Nat := s.get DR_STAT_SEG

/-- The segment, of those named, whose record has the lowest number under serial arithmetic (R11, R322). -/
def State.oldestSeg (s : State) : List Nat → Option Nat
  | [] => none
  | i :: t =>
    match s.oldestSeg t with
    | none => some i
    | some j => if isNewer 32 (s.seg i).rnum (s.seg j).rnum then some j else some i

/-- A segment is freed (R327). -/
def State.dropSeg (s : State) (i : Nat) : State :=
  let s1 := (s.put (DR_SEG_STAT_STATE i) 0).put (DR_SEG_STAT_RNUM i) 0
  { s1 with dr := { s1.dr with
      segs := kdel s1.dr.segs i, ofs := if s.get (DR_SEG_STAT_STATE i) = 3 then 0 else s1.dr.ofs } }

/-- The number of the enabled channels. -/
def State.channels (s : State) : List Nat := (List.range 64).filter fun c => s.get (DR_CH_SRC_TYPE c) ≠ 0

/-- CHMASK (R324). -/
def State.chmask (s : State) : Nat := (s.channels.map fun c => 2 ^ c).sum

/-- The recorder is ARMED in segment `i`, which is empty (R320). -/
def State.armIn (s : State) (i : Nat) : State :=
  let r : DrRec := { nch := s.channels.length, chmask := s.chmask, pres := s.get DR_PRE_ROWS }
  let s1 := (((s.put DR_STAT_STATE drArmed).put DR_STAT_SEG i).put (DR_SEG_STAT_STATE i) 1).setSeg i r
  { s1 with dr := { s1.dr with faults := [], soft := [], cond := false, last := false, lost := none } }

/-- The next record to stream, when none is being streamed: the lowest number that has not been (R326). -/
def State.streamSeg (s : State) : Option Nat :=
  match (List.range 64).find? fun i => s.get (DR_SEG_STAT_STATE i) = 3 with
  | some i => some i
  | none => s.oldestSeg ((List.range 64).filter fun i => s.get (DR_SEG_STAT_STATE i) = 2 && !(s.seg i).streamed)

/-- In a Datum with DR_STREAM.EN, outside the shedding stages, the stream of the next record starts as soon as none is being
streamed (R326, R384). -/
def State.startStream (s : State) : State :=
  if s.isDatum && s.on DR_STREAM_EN && s.get SH_STAT_STAGE = 0 then
    match s.streamSeg with
    | some i => s.put (DR_SEG_STAT_STATE i) 3
    | none => s
  else s

/-- A segment is needed (R322): a free one, else with FULL the complete record with the lowest number that is not being
streamed, else WAITSEG. Which of several free segments is taken is a free value (log entry 8). -/
def State.needSeg (s0 : State) : State :=
  let s := s0.startStream
  match s.freeSegs with
  | i :: t => s.used.armIn ((i :: t).getD (s.free t.length) i)
  | [] =>
    match if s.on DR_CFG_FULL then s.oldestSeg (s.segments.filter fun i => s.get (DR_SEG_STAT_STATE i) = 2) else none with
    | some i => ((s.dropSeg i).count REC_OVW).armIn i
    | none => s.put DR_STAT_STATE drWaitseg

/-- WAITSEG ends when a segment has become free or may be overwritten (R320, R322). -/
def State.wakeSeg (s : State) : State := if s.drState = drWaitseg then s.needSeg else s

/-! ### Values of a row (R315, R316) -/

/-- A value of `w` bits extended to 32 bits by FMT (R315). -/
def extend (fmt w v : Nat) : Nat := if fmt = 1 then ofSigned 32 (toSigned w v) else v % 2 ^ w

/-- Bits of a mask from a list of truth values, bit 0 first. -/
def bitsFrom (l : List Bool) : Nat := ((l.zipIdx).map fun e => if e.1 then 2 ^ e.2 else 0).sum

/-- Digital vector `v` (R316); a reserved one, or one of the other role, has no stated value. -/
def State.vector (s : State) (v : Nat) : Nat :=
  let datum := s.role = .datum
  if v < 8 then s.activeWord v
  else if v = 8 then s.valueAt (if datum then 0xE0008 else 0xE0204)
  else if v = 9 ∧ datum then
    bitsFrom (((List.range 4).map fun g => s.on (INJ_GEN_STAT_RUN g)) ++ ((List.range 4).map fun g => s.on (INJ_GEN_STAT_ARMED g)))
  else if v = 10 ∧ datum then
    bitsFrom (((List.range 6).map fun a => s.on (LVL_ARM_STAT_REPEAT a)) ++
      ((List.range 6).map fun a => s.on (LVL_ARM_STAT_SHORT a)) ++ [s.on SCH_STAT_STALE_LAST])
  else if v = 11 then bitsFrom ((List.range s.nPorts).map s.portUp)
  else if v = 12 ∧ ¬ datum then s.valueAt GS_STAT_CELL.addr
  else if v = 13 ∧ ¬ datum then s.valueAt AUX_STAT_ON.addr
  else s.free 0xFFFFFFFF

/-- A word of a telemetry slot with its width (R315). -/
def slotWord (t : TeleSlot) (w : Nat) : Nat × Nat :=
  match w with
  | 0 => (32, t.vs)
  | 1 => (16, t.temp)
  | 2 => (16, t.fsum)
  | _ => (32, t.epoch)

/-- The value of channel `c` before it was taken anew. -/
def State.oldVal (s : State) (c : Nat) : Nat := (kget s.dr.val c).getD 0

/-- The value that channel `c` takes at a row instant (R315); `late` says that its read of loop data memory has not
completed (R317). -/
def State.chanValue (s : State) (late : Bool) (c : Nat) : Nat :=
  let sel := s.get (DR_CH_SRC_SEL c)
  let fmt := s.get (DR_CH_SRC_FMT c)
  match s.get (DR_CH_SRC_TYPE c) with
  | 1 =>
    let n := bitsOf sel 9 8
    let n' := if s.mirrored (n / 2) then s.pairConv (n / 2) else n
    extend fmt 16 (s.get (AD_RES_CODE n' (sel % 32)))
  | 2 =>
    let t := if s.role = .datum then kget s.dr.tele (64 * bitsOf sel 11 8 + sel % 64) else s.frm.reports.head?.map (·.2)
    match t with
    | some t => let w := slotWord t (bitsOf sel 13 12); extend fmt w.1 w.2
    | none => s.oldVal c
  | 3 => if late then s.oldVal c else s.memWord (loopDataBase + 4 * sel)
  | 4 => s.vector sel
  | _ => s.oldVal c

/-- Every enabled channel takes its value (R315, R317). -/
def State.takeRow (s : State) (late : List Nat) : State :=
  s.channels.foldl (fun s c =>
    let l := late.contains c && s.get (DR_CH_SRC_TYPE c) = 3
    let v := s.chanValue l c
    let s1 := if l then s.count LD_LATE else s.used
    { s1 with dr := { s1.dr with val := kset s1.dr.val c v } }) s

/-- The row as it is stored. -/
def State.rowOf (s : State) (time : Nat) : DrLine := { time := time, vals := s.channels.map s.oldVal }

/-! ### Conditions and masks (R318, R319, R323) -/

/-- A value read in a FMT, exactly. -/
def fmtValue (fmt v : Nat) : Fl :=
  match fmt with
  | 1 => flOfInt (toSigned 32 v) 0
  | 2 => d32 v
  | _ => flOfInt (v : Nat) 0

/-- A binary32 NaN. -/
def fmtNan (fmt v : Nat) : Bool := fmt = 2 && (v / 2 ^ 23 % 256 = 255) && v % 2 ^ 23 ≠ 0

/-- Condition bit of channel `c` for a value, from the bit that it had (R318). -/
def State.condBit (s : State) (c v : Nat) (was : Bool) : Bool :=
  if s.on (DR_CH_TRG_CMODE c) then bitOf v (s.get (DR_CH_TRG_BIT c))
  else
    let fmt := s.get (DR_CH_SRC_FMT c)
    let x := fmtValue fmt v
    let level := fmtValue fmt (s.get (DR_CH_LEVEL_VAL c))
    if fmtNan fmt v then was
    else if !flLt x level then true
    else if flLt x (flAdd level (flNeg (fmtValue fmt (s.get (DR_CH_HYST_VAL c))))) then false
    else was

/-- All condition bits for the values taken, as the list of channels with b_c = 1. -/
def State.condBits (s : State) : List Nat :=
  s.channels.filter fun c => s.condBit c (s.oldVal c) (s.dr.bits.contains c)

/-- The pattern condition of R319. -/
def State.patternHolds (s : State) (bits : List Nat) : Bool :=
  (List.range 64).all fun c =>
    let w := fun (lo hi : Fld) => bitOf (s.get (if c < 32 then lo else hi)) (c % 32)
    !(w DR_CARE_LO_VAL DR_CARE_HI_VAL) || (bits.contains c == w DR_PAT_LO_VAL DR_PAT_HI_VAL)

/-- The hardware trigger at a row (R319): the cause code if the row has a trigger event, and the condition to compare
the next row with. -/
def State.hwTrigger (s : State) (bits : List Nat) : Option Nat × Bool :=
  let tch := bits.contains (s.get DR_TRIG_TCH) == s.on DR_TRIG_POL
  match s.get DR_TRIG_MODE with
  | 0 => let c := s.patternHolds bits; (if c && !(s.dr.last && s.dr.cond) then some 1 else none, c)
  | 1 => (if tch && !(s.dr.last && s.dr.cond) then some 2 else none, tch)
  | 2 => (if tch && s.dr.last && !s.dr.cond then some 3 else none, tch)
  | _ => (none, false)

/-- A value violates the mask of channel `c` (R323). -/
def State.violates (s : State) (c v : Nat) : Bool :=
  let fmt := s.get (DR_CH_SRC_FMT c)
  fmtNan fmt v || flLt (fmtValue fmt (s.get (DR_CH_UPPER_VAL c))) (fmtValue fmt v) ||
    flLt (fmtValue fmt v) (fmtValue fmt (s.get (DR_CH_LOWER_VAL c)))

/-- The channels of a row that violate their masks; `post` says that the row is taken in POST (R323). -/
def State.violations (s : State) (post : Bool) (r : DrLine) : List Nat :=
  ((s.channels.zip r.vals).filter fun e =>
    s.on (DR_CH_MCFG_EN e.1) && (post || !s.on (DR_CH_MCFG_POST e.1)) && s.violates e.1 e.2).map (·.1)

/-- The violations of a row count (R323). -/
def State.noteViolations (s : State) (vs : List Nat) : State :=
  if vs.isEmpty then s else (s.countN MASK_VIOL vs.length).put DR_STAT_MASKVIOL 1

/-- The first violation in a record: channel, and row counted from the trigger row (R323, R324). -/
def State.firstViol (s : State) (r : DrRec) : Option (Nat × Int) :=
  let before := (r.pre.zipIdx).map fun e => (s.violations false e.1, (e.2 : Int) - r.pre.length)
  let after := (r.post.zipIdx).map fun e => (s.violations (e.2 ≠ 0) e.1, (e.2 : Int))
  ((before ++ after).find? fun e => !e.1.isEmpty).map fun e => (e.1.headD 0, e.2)

/-! ### The recording cycle (R320) -/

/-- RPER in GTIME cycles, if the row instant has a period (R324). -/
def State.rowPeriod (s : State) : Option Nat :=
  let tick := if s.role = .datum then some (if s.on TB_STAT_TICK_RUN then s.tb.period else s.cfg TB_PERIOD_PERIOD) else s.measuredP
  let n := s.get DR_CFG_CLKSRC
  match s.get DR_CFG_CLK with
  | 0 => tick
  | 1 => if s.gridOn n then some (s.cfg (AD_SEQ_CFG_PER (s.seqOf n))) else none
  | _ => if s.cfgOn (TEV_CTRL_MODE n) then tick else if s.cfg (TEV_PER_VAL n) = 0 then none else some (s.cfg (TEV_PER_VAL n))

/-- RPER: the period times DIV, or a value that the spec leaves open when the row instant has no period (log entry 8). -/
def State.rper (s : State) : Nat :=
  match s.rowPeriod with
  | some p => p * s.get DR_CFG_DIV
  | none => s.free 0xFFFFFFFF

/-- The record in hand is complete (R320, R322): its header is written, with the row period as it is then (R324), and its stream
starts if none is under way (R326). -/
def State.closeRecord (s : State) (trunc shed : Bool) : State :=
  let i := s.segNow
  let r := s.seg i
  let n := s.get DR_RNUM_RNUM
  let r' := { r with rnum := n, viol := s.firstViol r, trunc := trunc, shed := shed, rper := s.rper }
  ((((s.used.setSeg i r').put (DR_SEG_STAT_STATE i) 2).put (DR_SEG_STAT_RNUM i) n).put DR_RNUM_RNUM (n + 1)).startStream

/-- REARM ends after DR_REARM rows (R320). -/
def State.endRearm (s : State) : State := if s.drState = drRearm ∧ s.dr.left = 0 then s.needSeg else s

/-- POST ends when DR_POST rows follow the trigger row (R320); a record with a violation stops the recorder with
MSTOP (R323). -/
def State.endPost (s : State) : State :=
  if s.drState = drPost ∧ s.dr.left = 0 then
    let s1 := s.closeRecord false false
    if s1.on DR_CFG_MSTOP && ((s1.seg s.segNow).viol).isSome then s1.put DR_STAT_STATE drStopped
    else
      let s2 : State := { s1 with dr := { s1.dr with left := s1.get DR_REARM_ROWS } }
      (s2.put DR_STAT_STATE drRearm).endRearm
  else s

/-- A stored row of ARMED with its cause, TTIME and TSRC if it is the trigger row (R319, R320, R331). -/
def State.triggerOf (s : State) (hw : Option Nat) (mask : Bool) (time : Nat) : Option (Nat × Nat × Nat) :=
  match hw, s.dr.faults, s.dr.soft with
  | some c, _, _ => some (c, time, if c = 1 then 0 else s.get DR_TRIG_TCH)
  | none, (src, t) :: _, _ => some (4, t, src)
  | none, [], t :: _ => some (0, t, 0)
  | none, [], [] => if mask then some (5, time, 0) else none

/-- A row in ARMED (R320, R323); `at'` is the time of its hardware trigger event. -/
def State.armedRow (s : State) (row : DrLine) (hw : Option Nat) (at' : Nat) : State :=
  let vs := s.violations false row
  let s1 := s.noteViolations vs
  let i := s1.segNow
  let r := s1.seg i
  match s1.triggerOf hw (!vs.isEmpty && s1.on DR_CFG_MSTOP) (if hw.isSome then at' else row.time) with
  | some (c, t, src) =>
    let s2 := s1.setSeg i { r with post := [row], cause := c, ttime := t, tsrc := src, tick := s1.tb.tick }
    let s3 : State := { s2 with dr := { s2.dr with faults := [], soft := [], left := s2.get DR_POST_ROWS } }
    (s3.put DR_STAT_STATE drPost).endPost
  | none =>
    let pre := r.pre ++ [row]
    s1.setSeg i { r with pre := pre.drop (pre.length - s1.get DR_PRE_ROWS) }

/-- A row in POST (R320). -/
def State.postRow (s : State) (row : DrLine) (hw : Option Nat) : State :=
  let s1 := s.noteViolations (s.violations true row)
  let s2 := if hw.isSome then s1.count TRG_IGN else s1
  let r := s2.seg s2.segNow
  let s3 := s2.setSeg s2.segNow { r with post := r.post ++ [row] }
  ({ s3 with dr := { s3.dr with left := s3.dr.left - 1 } } : State).endPost

/-- A row in REARM or WAITSEG (R320). -/
def State.idleRow (s : State) (hw : Option Nat) : State :=
  if s.drState = drRearm then
    let s1 := if hw.isSome then s.count TRG_IGN else s
    ({ s1 with dr := { s1.dr with left := s1.dr.left - 1 } } : State).endRearm
  else if hw.isSome then s.count TRG_NOSEG else s

/-- The number of row instants that CLK names up to now (R314): cut-offs of a Datum and recovered tick starts of a Stake, ends of
passes, firings. -/
def State.rowCount (s : State) : Nat :=
  let n := s.get DR_CFG_CLKSRC
  match s.get DR_CFG_CLK with
  | 0 => s.dr.ticks
  | 1 => (s.conv n).passes
  | _ => (s.tevSt n).fires

/-- A row is due: DIV more row instants have come (R314). -/
def State.rowDue (s : State) : Bool :=
  s.rowCount ≠ s.dr.base && ((s.rowCount + 2 ^ 64 - s.dr.base) % 2 ^ 64 % s.get DR_CFG_DIV = 0)

/-- The last row instant in half nanoseconds of the clock, with CLK = 1 the hold instant of entry 0 of the pass (R314). -/
def State.rowInstant (s : State) : Nat :=
  let n := s.get DR_CFG_CLKSRC
  match s.get DR_CFG_CLK with
  | 0 => 4 * s.dr.tickAt
  | 1 => (s.conv n).holdAt
  | _ => 4 * (s.tevSt n).firedAt

/-- TIME of the row that is taken (R314). -/
def State.rowTime (s : State) : Nat := (s.time.subFrac ((4 * s.now - s.rowInstant) * 32768)).word

/-- The row of the last row instant is taken. -/
def State.rowTaken (s : State) : State := { s with dr := { s.dr with base := s.rowCount } }

/-- The row buffer may be full: 64 rows have entered it since ARM (R325). How fast it empties the spec does not say. -/
def State.bufferFull (s : State) : Bool := (s.drState = drArmed || s.drState = drPost) && (64 ≤ s.dr.rows)

/-- A row finds the buffer full (R325): the record is marked GAP, and a hardware trigger event at the row waits for the next stored
one (R331). -/
def State.dropRow (s : State) (hw : Option Nat) : State :=
  let s1 := (s.setSeg s.segNow { s.seg s.segNow with gap := true }).count ROW_DROP
  { s1 with dr := { s1.dr with lost := s1.dr.lost.or (hw.map fun c => (c, s1.rowTime)) } }

/-- A row that is stored or evaluated, in the states that take rows (R318, R320): a trigger event of a row dropped before it is
one with its own. -/
def State.keepRow (s : State) (bits : List Nat) (hw : Option Nat × Bool) : State :=
  let row := s.rowOf s.rowTime
  let n := if s.drState = drArmed || s.drState = drPost then 1 else 0
  let s1 : State := { s with dr := { s.dr with bits := bits, cond := hw.2, last := true, lost := none, rows := s.dr.rows + n } }
  let e := (s.dr.lost.map (·.1)).or hw.1
  if s1.drState = drArmed then s1.armedRow row e ((s.dr.lost.map (·.2)).getD row.time)
  else if s1.drState = drPost then s1.postRow row e
  else s1.idleRow e

/-- DR_ROW (R314): the recorder takes the row of a row instant, every DIV-th of them since the arming (DESIGN CHOICE, log
entry 119), and every channel its value. `dropped` says that the row buffer is full (R325), `late` names the channels whose read of
loop data memory has not completed (R317). -/
def execDrRow (dropped : Bool) (late : List Nat) (s : State) : Result :=
  s.inRun fun s0 =>
    if s0.drQuiet || !s0.rowDue then s0 else
    let s := s0.rowTaken.takeRow late
    let bits := s.condBits
    let hw := s.hwTrigger bits
    if dropped && s.bufferFull then s.dropRow hw.1 else s.keepRow bits hw

/-! ### Arm, stop and triggers by software -/

/-- Size of a segment in bytes (R313). -/
def State.segSize (s : State) : Nat :=
  (if s.role = .datum then s.get DR_MEM_SIZE_VAL else 4) * 2 ^ 20 / s.get DR_CFG_NSEG

/-- The channel named by TCH is enabled, and the source of the row instant exists and is enabled (R314, R329): every
converter exists and has no enable of its own, a TEV unit has EN. -/
def State.rowSource (s : State) : Bool :=
  s.channels.contains (s.get DR_TRIG_TCH) && (s.get DR_CFG_CLK ≠ 2 || s.cfgOn (TEV_CTRL_EN (s.get DR_CFG_CLKSRC)))

/-- The checks of R329 in order, as the code of ARM_ERR: 0 when all pass. -/
def State.armError (s : State) : Nat :=
  let n := s.channels.length
  let row := 8 + 4 * n
  let datum := s.role = .datum
  if n = 0 ∨ ¬ s.rowSource then 1
  else if s.segSize < 64 + (s.get DR_PRE_ROWS + 1 + s.get DR_POST_ROWS) * row then 2
  else if (if datum then 64 else 8) * s.rper < 10 * row then 3
  else if datum ∧ ¬ (s.get DR_MEM_BASE_VAL % 2 ^ 20 = 0 ∧
      s.get DR_MEM_BASE_VAL + s.get DR_MEM_SIZE_VAL * 2 ^ 20 ≤ Config.ddrMiB * 2 ^ 20) then 4
  else if ¬ datum ∧ s.channels.any fun c => s.get (DR_CH_SRC_TYPE c) = 3 then 5
  else 0

/-- A write of 1 to DR_CTRL.ARM (R320, R329); outside IDLE and STOPPED it has no effect. -/
def wrDrArm : Write := fun s =>
  if !s.drQuiet then (stOk, s)
  else
    let e := s.armError
    if e ≠ 0 then (stBadParam, s.put DR_STAT_ARM_ERR e)
    else
      let s1 : State := { s with dr := { s.dr with rows := 0, base := s.rowCount } }
      (stOk, (s1.used.put DR_STAT_ARM_ERR 0).needSeg)

/-- DR_ARM (R320). -/
def execDrArm (s : State) : Result := s.byWrite true wrDrArm

/-- The recorder stops (R320); `shed` marks the record of POST as cut by shedding (R330). -/
def State.drStop (s : State) (shed : Bool) : State :=
  let s1 := if s.drState = drArmed then s.dropSeg s.segNow
    else if s.drState = drPost then s.closeRecord true shed else s
  ({ s1 with dr := { s1.dr with faults := [], soft := [] } } : State).put DR_STAT_STATE drIdle

/-- A write of 1 to DR_CTRL.STOP (R320). -/
def wrDrStop : Write := fun s => (stOk, s.drStop false)

/-- DR_STOP (R320). -/
def execDrStop (s : State) : Result := s.byWrite true wrDrStop

/-- A write of 1 to DR_CTRL.SWTRIG (R319). -/
def wrSwTrig : Write := fun s =>
  let r := s.drEvent
  (stOk, if r.1 then { r.2 with dr := { r.2.dr with soft := r.2.dr.soft ++ [s.time.word] } } else r.2)

/-- DR_SWTRIG (R319). -/
def execDrSwtrig (s : State) : Result := s.byWrite true wrSwTrig

/-- A write to DR_CTRL: STOP acts before the other bits, and takes the place of SWTRIG (R331). -/
def wrDrCtrl (arm stop swtrig : Bool) : Write := fun s =>
  let r1 := if stop then wrDrStop s else (stOk, s)
  let r2 := if arm && !stop then wrDrArm r1.2 else r1
  if swtrig && !stop && r2.1 = stOk then wrSwTrig r2.2 else r2

/-- Entry to S1 (R330). -/
def State.drShedRise (s : State) : State :=
  let again := !s.drQuiet
  let s1 := s.drStop true
  ({ s1 with dr := { s1.dr with shedArm := again } } : State).put DR_STAT_SHED 1

/-- S1 ends (R330). -/
def State.drShedFall (s : State) : State :=
  let s1 : State := ({ s with dr := { s.dr with shedArm := false } } : State).put DR_STAT_SHED 0
  if s.dr.shedArm then (wrDrArm s1).2 else s1

/-! ### Records as bytes, stream and release -/

/-- Header bytes 0 to 59 (R324). -/
def DrRec.head (r : DrRec) : List Nat :=
  le 4 0x43455244 ++ le 4 r.rnum ++ le 8 r.ttime ++ le 8 r.tick ++ le 4 r.pre.length ++ le 4 (r.post.length - 1) ++
    [r.cause, (decide (r.pre.length < r.pres)).toNat + 2 * r.gap.toNat + 4 * r.viol.isSome.toNat + 8 * r.trunc.toNat +
      16 * r.shed.toNat, r.nch, 0] ++
    le 4 r.rper ++ le 8 r.chmask ++ [(r.viol.map (·.1)).getD 0, 0, 0, 0] ++
    le 4 (ofSigned 32 ((r.viol.map (·.2)).getD 0)) ++ le 4 r.tsrc

/-- The bytes of a row (R324). -/
def DrLine.bytes (l : DrLine) : List Nat := le 8 l.time ++ words l.vals

/-- A complete record as bytes (R324). -/
def DrRec.bytes (r : DrRec) : List Nat :=
  r.head ++ le 4 (crc32 r.head) ++ (r.pre ++ r.post).flatMap DrLine.bytes

/-- The segment with the complete record of a number. -/
def State.segOfRec (s : State) (rnum : Nat) : Option Nat := s.doneSegs.find? fun i => (s.seg i).rnum = rnum

/-- A write to DR_RELEASE (R327). -/
def wrDrRelease (rnum : Nat) : Write := fun s =>
  match s.segOfRec rnum with
  | some i => (stOk, (s.dropSeg i).wakeSeg)
  | none => (stBadParam, s)

/-- DR_RELEASE (R327). -/
def execDrRelease (rnum : Nat) (s : State) : Result := s.byWrite true (wrDrRelease (rnum % 2 ^ 32))

/-- Data bytes of a chunk (R326). -/
def State.chunkSize (s : State) : Nat :=
  match s.get DR_STREAM_CHUNK with
  | 0 => 1024
  | 1 => 4096
  | _ => 8192

/-- The stream ring of PCI Express has room for a chunk: attached, and not full (R337). -/
def RingSt.room (r : RingSt) : Bool :=
  let n := bitsOf r.cfg 28 16
  r.cfg % 2 = 1 && (2 ≤ n) && (r.wr + 1) % n ≠ r.rd % n

/-- The transport of DR_STREAM.PORT takes data: PCI Express while its ring has room (R326, R337). -/
def State.streamRoom (s : State) : Bool := if s.get DR_STREAM_PORT = 0 then s.mg.ring.room else true

/-- A chunk goes into the ring; the vector fires after LAST and after every 16th chunk (R337). -/
def State.ringChunk (s : State) (last : Bool) : State :=
  if s.get DR_STREAM_PORT ≠ 0 then s
  else
    let r := s.mg.ring
    let fire := last || r.run + 1 = 16
    let r' := { r with wr := (r.wr + 1) % bitsOf r.cfg 28 16, run := if fire then 0 else r.run + 1 }
    let s1 : State := { s with mg := { s.mg with ring := r' } }
    if fire then s1.emit (.msix r.vec) else s1

/-- The end of the stream of the record in segment `i`: the next may start (R326, R327). -/
def State.streamEnd (s : State) (i : Nat) : State :=
  let s1 : State := { s with dr := { s.dr with ofs := 0 } }
  let s2 := if s.on DR_STREAM_AUTO_REL then s1.dropSeg i
    else (s1.setSeg i { s1.seg i with streamed := true }).put (DR_SEG_STAT_STATE i) 2
  s2.startStream.wakeSeg

/-- Words of record memory that ECC corrects in an access, as the operand of a command tells them: its bits 15 to 0. -/
def eccCor (ecc : Nat) : Nat := ecc % 65536

/-- Words in which ECC finds an uncorrectable error: bits 31 to 16 of the operand. -/
def eccUnc (ecc : Nat) : Nat := ecc / 65536

/-- What ECC finds in record memory (R328): each word counts, and an uncorrectable error raises source 193. -/
def State.drEcc (s : State) (ecc : Nat) : State :=
  let s1 := if eccCor ecc = 0 then s else s.countN MEM_COR (eccCor ecc)
  if eccUnc ecc = 0 then s1 else (s1.countN MEM_UNC (eccUnc ecc)).raise 193

/-- The bytes of a chunk (R326). -/
def chunkBytes (rnum ofs cflags : Nat) (data : List Nat) : List Nat :=
  let b := le 4 rnum ++ le 8 ofs ++ le 2 data.length ++ [cflags, 0] ++ data
  b ++ le 4 (crc32 b)

/-- STREAM_CHUNK (R326, R384): the transport takes the next chunk, outside S1 and the deeper shedding stages. `ecc`
tells how many words of the chunk ECC corrects and how many it cannot. -/
def execStreamChunk (ecc : Nat) (s : State) : Result :=
  s.inDatum fun s =>
    match s.streamSeg with
    | none => s
    | some i =>
      if !s.on DR_STREAM_EN || s.get SH_STAT_STAGE ≠ 0 || !s.streamRoom then s
      else
        let b := (s.seg i).bytes
        let data := (b.drop s.dr.ofs).take s.chunkSize
        let last := b.length ≤ s.dr.ofs + data.length
        let s1 := (s.put (DR_SEG_STAT_STATE i) 3).emit
          (.chunk (s.get DR_STREAM_PORT) (chunkBytes (s.seg i).rnum s.dr.ofs
            ((decide last).toNat + if eccUnc ecc = 0 then 0 else 2) data))
        let s2 := (s1.ringChunk last).drEcc ecc
        if last then s2.streamEnd i else { s2 with dr := { s2.dr with ofs := s2.dr.ofs + data.length } }

end Sys2Proof.Machine
end

