-- ==== Sys2Proof/Machine/Relay.lean ====
section
/-! DEFINITION. Relay messages of a Datum: the relay queues, the fill of the management slot, and replies (R23, R105, R109,
R335). -/

namespace Sys2Proof

/-- The ports that a target names. -/
def Target.portList (t : Target) : List Nat := (List.range 16).filter (bitOf t.ports)

/-- The data of a relay message: in mode 3 the monument ID comes first (R104). -/
def Target.message (t : Target) (packet : List Nat) : List Nat := (if t.mode = 3 then le 16 t.monument else []) ++ packet

/-- The encodings of a target are not reserved: mode, hop count, arm, and no bytes beyond the ports (R10, R104, R335). -/
def Target.legal (t : Target) : Bool :=
  (t.mode ≤ 4) && (t.ports < 65536) && !t.portList.isEmpty &&
    (match t.mode with
     | 1 => t.addr < 64
     | 2 => t.addr < 0xFFFF
     | 4 => t.addr < 6
     | _ => t.addr = 0)

end Sys2Proof

namespace Sys2Proof.Machine

/-- Management-slot size of port `p` (R95). -/
def State.mSize (s : State) (p : Nat) : Nat := 16 * s.cfg (TRV_FCFG_MSIZE p)

/-- Bytes that a relay message holds at most on port `p` (R105). -/
def State.relayLimit (s : State) (p : Nat) : Nat := min 16384 (128 * (s.mSize p - 16))

/-- Room in the relay queue of port `p` (R23). -/
def State.relayRoom (s : State) (p : Nat) : Bool := (s.port p).relayQ.length < Config.relayExtra + 1

/-- The members of LVL_MAP with VALID = 1 on port `p`, of arm `a` if one is named (R335). -/
def State.relayMembers (s : State) (p : Nat) (a : Option Nat) : List Want :=
  ((List.range 64).filter fun i => s.cfgOn (LVL_MAP_VALID p i) && (a.all fun a => s.cfg (LVL_MAP_ARM p i) = a)).map
    fun i => { ports := [p], slot := some i }

/-- The expected set of a relay (R335). -/
def State.wantsOf (s : State) (t : Target) : List Want :=
  match t.mode with
  | 0 => t.portList.flatMap fun p => s.relayMembers p none
  | 4 => t.portList.flatMap fun p => s.relayMembers p (some t.addr)
  | 1 => t.portList.map fun p => { ports := [p], slot := some t.addr }
  | 2 => t.portList.map fun p => { ports := [p], slot := none }
  | _ => [{ ports := t.portList, slot := none }]

/-- The status that a relay of a message meets before it is queued: BAD_PARAM, QUEUE_FULL or OK (R23, R105). -/
def State.relayCheck (s : State) (t : Target) (packet : List Nat) : Nat :=
  if !t.legal || t.portList.any (fun p => s.relayLimit p < (t.message packet).length) then stBadParam
  else if t.portList.any fun p => !s.relayRoom p then stQueueFull
  else stOk

/-- A relay is queued on each port it names. -/
def State.relayStart (s : State) (r : Option Req) (kind : RelayKind) (t : Target) (packet : List Nat) : State :=
  let id := s.mg.relayNext
  let rq : RelayReq :=
    { id := id, req := r, kind := kind, wants := s.wantsOf t, sent := t.portList.map fun p => { port := p } }
  let s1 : State := { s with mg := { s.mg with relayNext := id + 1, relays := s.mg.relays ++ [rq] } }
  let m : RelayMsg := { mode := t.mode, addr := t.addr, bytes := t.message packet, req := id }
  t.portList.foldl (fun s p => s.setPort p { s.port p with relayQ := (s.port p).relayQ ++ [m] }) s1

/-- The relay `id` changed. -/
def State.updRelay (s : State) (id : Nat) (f : RelayReq → RelayReq) : State :=
  { s with mg := { s.mg with relays := s.mg.relays.map fun q => if q.id = id then f q else q } }

/-- The message of a relay on port `p` changed. -/
def RelayReq.updSent (q : RelayReq) (p : Nat) (f : Sent → Sent) : RelayReq :=
  { q with sent := q.sent.map fun e => if e.port = p then f e else e }

/-- Whether answers meet a want. -/
def Want.met (w : Want) (got : List Entry) : Bool :=
  got.any fun e => w.ports.contains e.port && (w.slot.all fun i => i = e.slot)

/-- Every expected Stake has answered. -/
def RelayReq.allMet (q : RelayReq) : Bool := q.wants.all fun w => w.met q.got

/-- No answer is waited for any more. -/
def RelayReq.ended (q : RelayReq) : Bool := (!q.wants.isEmpty && q.allMet) || q.sent.all (·.closed)

/-- Entries in ascending port and slot order. -/
def insertEntry (e : Entry) : List Entry → List Entry
  | [] => [e]
  | a :: t => if e.port * 256 + e.slot < a.port * 256 + a.slot then e :: a :: t else a :: insertEntry e t

/-- The entry of an expected Stake: its answer, or TIMEOUT. -/
def Want.entry (w : Want) (got : List Entry) : Entry :=
  match got.find? fun e => w.ports.contains e.port && (w.slot.all fun i => i = e.slot) with
  | some e => e
  | none => { port := w.ports.headD 0, slot := w.slot.getD 0xFF, status := stTimeout, data := [] }

/-- The entries of a reply: those of the expected set, then those of other Stakes that answered (R335). -/
def replyEntries (wants : List Want) (got : List Entry) : List Entry :=
  let exp := (wants.map fun w => w.entry got).foldl (fun l e => insertEntry e l) []
  exp ++ ((got.filter fun e => !exp.contains e).foldl (fun l e => insertEntry e l) [])

/-- An entry as bytes (R335). -/
def Entry.bytes (e : Entry) : List Nat :=
  [e.port, e.slot, e.status, 0] ++ le 2 e.data.length ++ [0, 0] ++ e.data ++
    List.replicate ((4 - e.data.length % 4) % 4) 0

/-! ### The management slot of a frame (R105) -/

/-- The slot with idle fill (R104). -/
def idleFill (m : Nat) : MgmtSlot := MgmtSlot.sealed m {}

/-- The time slot of the tick that starts (R49, R104). -/
def State.timeFill (s : State) (m : Nat) : MgmtSlot :=
  let t := s.tb.tickTime
  MgmtSlot.sealed m
    { kind := 3, used := 24, area := le 8 s.tb.tick ++ le 8 t.sec ++ le 4 t.ns ++ le 2 t.frac ++ [0, 0] }

/-- The next segment of a message in a slot of size `m`: header and data (R104). -/
def segFill (m : Nat) (g : RelayMsg) : MgmtSlot :=
  let n := min g.bytes.length (m - 16)
  let last := n = g.bytes.length
  MgmtSlot.sealed m
    { kind := 1, used := 8 + n
      area := [g.mode, g.msgId] ++ le 2 g.addr ++ [g.nextSeg % 128 + if last then 128 else 0, 0] ++ le 2 n ++ g.bytes.take n }

/-- A segment of the message at the head of the queue of port `p` goes out. -/
def State.fillSeg (s : State) (p : Nat) (g : RelayMsg) (rest : List RelayMsg) : State × MgmtSlot :=
  let m := s.mSize p
  let o := s.port p
  let last := g.bytes.length ≤ m - 16
  let q := if last then rest else { g with started := true, nextSeg := g.nextSeg + 1, bytes := g.bytes.drop (m - 16) } :: rest
  let s1 := s.setPort p { o with relayQ := q, downRun := o.downRun + 1 }
  (s1.updRelay g.req fun x => x.updSent p fun e =>
    { e with msgId := some g.msgId, lastTick := if last then some s.tb.tick else e.lastTick }, segFill m g)

/-- The management slot of the frame that port `p` sends in this tick (R23, R105, R358). -/
def State.fillMgmt (s : State) (p : Nat) : State × MgmtSlot :=
  let m := s.mSize p
  let o := s.port p
  let free := (s.setPort p { o with downRun := 0 }, idleFill m)
  if s.mg.fw.state = 0 || s.mg.fw.state = 3 then free
  else
    match o.relayQ with
    | [] =>
      if s.tb.tickTime.sec ≠ o.timeSec then (s.setPort p { o with timeSec := s.tb.tickTime.sec }, s.timeFill m) else free
    | g :: rest =>
      if g.started then s.fillSeg p g rest
      else if s.tb.tickTime.sec ≠ o.timeSec then (s.setPort p { o with timeSec := s.tb.tickTime.sec }, s.timeFill m)
      else if s.cfg (TRV_MCFG_FREE_INT p) ≤ o.downRun then free
      else (s.setPort p { o with msgNext := (o.msgNext + 1) % 256 }).fillSeg p { g with msgId := o.msgNext } rest

/-! ### Replies (R109) -/

/-- A whole reply with its origin: the relay on port `p` with that MSGID that still waits. -/
def State.relayFor (s : State) (p msgId : Nat) : Option RelayReq :=
  s.mg.relays.find? fun q => q.sent.any fun e => e.port = p && e.msgId = some msgId && !e.closed

/-- The reply of a Stake on port `p` is kept with its relay (R109, R335). SRC names its slot; a reply whose RCRC fails
is no reply. -/
def State.relayAnswer (s : State) (p src msgId : Nat) (bytes : List Nat) : State × Option RelayReq :=
  let r := Reply.ofBytes bytes
  if !r.ok then (s, none)
  else
    match s.relayFor p msgId with
    | none => (s, none)
    | some q =>
      let e : Entry := { port := p, slot := if bitOf src 15 then 0xFF else src % 64, status := r.status, data := r.data }
      let q1 : RelayReq := { q with got := q.got.filter (fun x => !(x.port = p && x.slot = e.slot)) ++ [e] }
      (s.updRelay q.id fun _ => q1, some q1)

/-- Messages whose reply time has passed, and those that wait on a port that carries no frames, are waited for no longer
(R109). -/
def State.closeSent (s : State) (q : RelayReq) : RelayReq :=
  { q with sent := q.sent.map fun e =>
      match e.lastTick with
      | some t =>
        if s.cfg (TRV_MCFG_RTO e.port) ≤ (s.tb.tick + 2 ^ 64 - t) % 2 ^ 64 then { e with closed := true } else e
      | none => if s.portUp e.port then e else { e with closed := true } }

/-- The relay queues of ports are emptied; the messages they held are waited for no longer (R128, R338). -/
def State.flushPorts (s : State) (ps : List Nat) : State :=
  ps.foldl (fun s p =>
    let ids := (s.port p).relayQ.map (·.req)
    (ids.foldl (fun t id => t.updRelay id fun q => q.updSent p fun e => { e with closed := true }) s).setPort p
      { s.port p with relayQ := [] }) s

end Sys2Proof.Machine
end

