-- ==== Sys2Proof/Machine/Safe.lean ====
section
/-! DEFINITION. The meanings of the safe-block commands (11_safe_block.md). -/

namespace Sys2Proof.Machine

/-- GTIME cycles in a millisecond. -/
def msCycles : Nat := 500000

/-! ### The channels of a Datum -/

/-- A channel of the safe block: Y if `y`, else X. -/
def State.safeCh (s : State) (y : Bool) : Chan := if y then s.sf.y else s.sf.x

/-- The state with a channel changed. -/
def State.setSafeCh (s : State) (y : Bool) (c : Chan) : State :=
  if y then { s with sf := { s.sf with y := c } } else { s with sf := { s.sf with x := c } }

/-- The discrepancy time of a channel in cycles: DISC of its copy, or the reset value (R279). -/
def Chan.disc (c : Chan) : Nat := (c.copy.map SfCfg.disc).getD 50 * msCycles

/-- SF_STAT shows the filtered inputs of channel X and what it found on them (R269, R271, R273, R275, R277). -/
def State.mirrorInputs (s : State) : State :=
  let x := s.sf.x
  ((((((s.putB SF_STAT_SBLK_A_REQ x.sblkA).putB SF_STAT_SBLK_B_REQ x.sblkB).putB SF_STAT_SRST_A_ACT x.srstA).putB
    SF_STAT_SRST_B_ACT x.srstB).putB SF_STAT_DISC_FLT (x.discSblk || x.discSrst)).putB
      SF_STAT_PROOF x.proof).putB SF_STAT_RST_STUCK x.stuck

/-- When the levels of a pair began to differ (R273). -/
def diffAt (a b : Bool) (old : Option Nat) (t : Nat) : Option Nat := if a = b then none else some (old.getD t)

/-! ### Requests and proof-open (R272, R273, R275) -/

/-- A channel with the filtered SBLK levels `a` and `b` at cycle `t`; true is a request. -/
def Chan.sblk (c : Chan) (a b : Bool) (t : Nat) : Chan :=
  { c with
    sblkA := a, sblkB := b
    jointAt := if a && b then some (c.jointAt.getD t) else none
    jointDone := c.jointDone || (!(a && b) && c.jointAt.any fun u => u + msCycles ≤ t)
    openAt := if a || b then none else some (c.openAt.getD t)
    discSblkAt := diffAt a b c.discSblkAt t
    discSblk := c.discSblk && a ≠ b }

/-- SBLK_CHANGE (R272, R273, R275): filtered SBLK levels change in the named channels. A request blocks the channel
and raises source 178. -/
def execSblkChange (x y a b : Bool) (at' : Nat) (s : State) : Result :=
  s.inDatum fun s0 =>
    let s := s0.advance at'
    let had := s.sf.x.sblkA || s.sf.x.sblkB || s.sf.y.sblkA || s.sf.y.sblkB
    let s1 := ({ s with sf := { s.sf with
      x := if x then s.sf.x.sblk a b s.now else s.sf.x
      y := if y then s.sf.y.sblk a b s.now else s.sf.y } }).mirrorInputs
    if (a || b) && (x || y) then
      let s2 := s1.blockDatum x y SF_CAUSE_INPUT
      if had then s2 else s2.raise 178
    else s1

/-- PROOF_OPEN (R275): in a channel, after a joint request of 1 ms, the pair has been inactive for 10 ms. -/
def execProofOpen (y : Bool) (s : State) : Result :=
  s.inDatum fun s =>
    let c := s.safeCh y
    match c.openAt with
    | some t => if c.jointDone then ((s.advance (t + 10 * msCycles)).setSafeCh y { c with proof := true }).mirrorInputs else s
    | none => s

/-- A channel finds one of its pairs in discrepancy; for the SBLK pair that clears the proof-open (R273). -/
def Chan.discrepant (c : Chan) (srst : Bool) : Chan :=
  if srst then { c with discSrst := true, reqSince := true }
  else { c with discSblk := true, reqSince := true, jointDone := false, proof := false }

/-- DISCREPANCY_TIMEOUT (R273): a pair has been in discrepancy for longer than DISC ms in a channel. What both channels find
counts once (log entry 115). -/
def execDiscrepancyTimeout (srst y : Bool) (s : State) : Result :=
  s.inDatum fun s0 =>
    let c := s0.safeCh y
    let found (c : Chan) : Bool := if srst then c.discSrst else c.discSblk
    match (if srst then c.discSrstAt else c.discSblkAt) with
    | some t =>
      if found c then s0
      else
        let s := s0.advance (t + c.disc + 1)
        let s1 := ((s.setSafeCh y (c.discrepant srst)).mirrorInputs).put SF_CAUSE_DISC 1
        if found (s.safeCh !y) then s1 else (s1.count SF_DISC_CNT).raise 179
    | none => s0

/-! ### Reset (R276 to R278) -/

/-- SF_RSTINFO records a result and the duration of a press in ms (R276). -/
def State.rstInfo (s : State) (result ms : Nat) : State :=
  (s.put SF_RSTINFO_RESULT result).put SF_RSTINFO_PRESS (min 8191 ms)

/-- The two instants lie within `d` cycles of each other. -/
def within (p q : Option Nat) (d : Nat) : Bool :=
  match p, q with
  | some p, some q => (p - q) + (q - p) ≤ d
  | _, _ => false

/-- The duration between two instants. -/
def lasted (p r : Option Nat) : Nat :=
  match p, r with
  | some p, some r => r - p
  | _, _ => 0

/-- How long the press of a channel lasted, in ms. -/
def Chan.pressMs (c : Chan) : Nat := max (lasted c.pressA c.relA) (lasted c.pressB c.relB) / msCycles

/-- What R276 makes of the press that a channel has measured, as RESULT of SF_RSTINFO: 3 short, 5 not together, 4 too long, 0
valid so far; the order of the tests is log entry 116. -/
def Chan.verdict (c : Chan) : Nat :=
  let a := lasted c.pressA c.relA
  let b := lasted c.pressB c.relB
  if max a b < 50 * msCycles then 3
  else if !within c.pressA c.pressB c.disc || !within c.relA c.relB c.disc then 5
  else if min a b < 50 * msCycles then 3
  else if 5000 * msCycles < max a b then 4
  else 0

/-- A press has just been released in a channel. One that lasted too long has its result from RESET_STUCK. -/
def State.judgePress (s : State) (y : Bool) : State :=
  let c := s.safeCh y
  if !c.pressOk then s
  else match c.verdict with
    | 0 => s.setSafeCh y { c with relAllAt := some s.now }
    | 4 => s.setSafeCh y { c with pressOk := false }
    | v => (s.setSafeCh y { c with pressOk := false }).rstInfo v c.pressMs

/-- A channel with the filtered SRST levels `a` and `b` at cycle `t`, true being a press: a press begins when none was, and
counts only while no reset input is stuck (R276, R277). -/
def Chan.srst (c : Chan) (a b : Bool) (t : Nat) : Chan :=
  let d := if !c.srstA && !c.srstB && (a || b) then
      { c with
        pressOk := !c.stuck, reqSince := false, pressA := none, pressB := none, relA := none, relB := none, relAllAt := none }
    else c
  { d with
    srstA := a, srstB := b
    pressA := if a && !c.srstA then some t else d.pressA
    pressB := if b && !c.srstB then some t else d.pressB
    relA := if !a && c.srstA then some t else d.relA
    relB := if !b && c.srstB then some t else d.relB
    discSrstAt := diffAt a b c.discSrstAt t
    discSrst := c.discSrst && a ≠ b }

/-- New SRST levels in one channel. -/
def State.srstIn (s : State) (y a b : Bool) : State :=
  let c := s.safeCh y
  let s1 := s.setSafeCh y (c.srst a b s.now)
  if (c.srstA || c.srstB) && !a && !b then s1.judgePress y else s1

/-- SRST_CHANGE (R276, R277): the filtered SRST levels change in the named channels; presses and releases are timed. -/
def execSrstChange (x y a b : Bool) (at' : Nat) (s : State) : Result :=
  s.inDatum fun s0 =>
    let s := s0.advance at'
    let s1 := if x then s.srstIn false a b else s
    (if y then s1.srstIn true a b else s1).mirrorInputs

/-- The conditions of R278 that both channels find in the same place. -/
def State.resetShared (s : State) : Bool :=
  !s.class34Now && s.on SF_STAT_CFG_LOCKED && s.on SF_STAT_CFG_MATCH && s.on SF_STAT_XLINK_OK && !s.sf.diff &&
  (s.sf.x.permit == s.sf.y.permit)

/-- A channel passes the conditions of R278, on the inputs as it sees them. -/
def State.resetOk (s : State) (c : Chan) : Bool :=
  s.resetShared && c.proof && !c.discSblk && !c.discSrst && !c.stuck && !c.sblkA && !c.sblkB && !c.reqSince

/-- A channel has measured a valid press, and waits for the end of the 50 ms. -/
def Chan.resetDue (c : Chan) : Bool := c.pressOk && c.relAllAt.isSome

/-- The cycle in which the reset of a channel completes, 50 ms after the release (R276); 0 where none is due. -/
def Chan.resetAt (c : Chan) : Nat := if c.resetDue then c.relAllAt.getD 0 + 50 * msCycles else 0

/-- An SBLK request that waits to be taken is filtered in this cycle too: the block wins (R289; log entry 114). -/
def State.blockWins (s : State) (y : Bool) : Bool :=
  s.pending.any fun
    | .sblkChange cx cy a b t => (if y then cy else cx) && (a || b) && t ≤ s.now
    | _ => false

/-- What a completed reset gives in a channel, as RESULT of SF_RSTINFO: 1 accepted, 2 refused, 6 PERMITTED already (R278); none
where no reset of its own completes. -/
def State.resetResult (s : State) (y : Bool) : Option Nat :=
  let c := s.safeCh y
  if !c.resetDue then none
  else if c.permit then some 6
  else if s.resetOk c && !s.blockWins y then some 1
  else some 2

/-- A channel after a completed reset with its result: its press is over. -/
def Chan.resetTaken (c : Chan) (r : Option Nat) : Chan :=
  match r with
  | none => c
  | some v => { c with permit := c.permit || v = 1, pressOk := false, relAllAt := none }

/-- A completed reset is checked by each channel on its own (R278). What both channels answer counts once, and SF_RSTINFO has what
channel X answers, if a reset completes there (log entry 115). -/
def State.completeReset (s : State) : State :=
  let x := s.resetResult false
  let y := s.resetResult true
  let s1 := ({ s with sf := { s.sf with x := s.sf.x.resetTaken x, y := s.sf.y.resetTaken y } }).mirrorSafe
  let s2 := s1.rstInfo ((x.or y).getD 0) (if x.isSome then s.sf.x.pressMs else s.sf.y.pressMs)
  let s3 := if x = some 1 ∨ y = some 1 then ((s2.count SF_RESETS).put FC_STAT_BLOCK_ACT 0).put FC_FIRST_VALID 0 else s2
  if x = some 2 ∨ y = some 2 then (s3.count SF_RST_REF).raise 181 else s3

/-- RESET_COMPLETE (R276, R278): both inputs have stayed released for 50 ms after a valid press. -/
def execResetComplete (s : State) : Result :=
  s.inDatum fun s =>
    if s.sf.x.resetDue || s.sf.y.resetDue then (s.advance (max s.sf.x.resetAt s.sf.y.resetAt)).completeReset else s

/-- The first instant of the presses that stand in a channel. -/
def Chan.pressedAt (c : Chan) : Option Nat :=
  match (if c.srstA then c.pressA else none), (if c.srstB then c.pressB else none) with
  | some a, some b => some (min a b)
  | some a, none => some a
  | none, b => b

/-- RESET_STUCK (R277): a reset input has been pressed for more than 5 s in a channel. -/
def execResetStuck (y : Bool) (s : State) : Result :=
  s.inDatum fun s0 =>
    let c := s0.safeCh y
    match c.pressedAt with
    | some t =>
      if c.stuck then s0
      else
        let s := s0.advance (t + 5000 * msCycles + 1)
        let s1 := (s.setSafeCh y { c with stuck := true, pressOk := false }).mirrorInputs
        if (s.safeCh !y).stuck then s1 else (s1.rstInfo 4 5000).raise 180
    | none => s0

/-- RESET_STUCK_CLEAR (R277): both reset inputs have been released for 50 ms in a channel. -/
def execResetStuckClear (y : Bool) (s : State) : Result :=
  s.inDatum fun s =>
    let c := s.safeCh y
    if c.srstA || c.srstB || !c.stuck then s
    else
      let t := max (c.relA.getD 0) (c.relB.getD 0)
      ((s.advance (t + 50 * msCycles)).setSafeCh y { c with stuck := false }).mirrorInputs

/-! ### Cross-link, configuration, and blocks of a Stake -/

/-- XLINK_HEARTBEAT (R270): a valid heartbeat ends source 177, and agreeing states end source 176 unless a copy
has failed its CRC. -/
def execXlinkHeartbeat (s : State) : Result :=
  s.inRun fun s =>
    let agree := s.sf.x.permit = s.sf.y.permit
    let s1 := ({ s with sf := { s.sf with beatLost := false, diff := s.sf.diff && !agree } }).levelOff 177
    let s2 := if s1.role = .datum then s1.put SF_STAT_XLINK_OK 1 else s1
    (if agree && !s2.sf.crcFail then s2.levelOff 176 else s2).tryDeblock

/-- XLINK_TIMEOUT (R270): no heartbeat for 4 us asserts source 177. -/
def execXlinkTimeout (s : State) : Result :=
  s.inRun fun s =>
    let s1 := { s with sf := { s.sf with beatLost := true } }
    (if s1.role = .datum then s1.put SF_STAT_XLINK_OK 0 else s1).levelOn 177

/-- CHANNEL_DISAGREE (R270): states that differ for more than 2 us assert source 176. -/
def execChannelDisagree (s : State) : Result :=
  s.inRun fun s =>
    if s.sf.x.permit ≠ s.sf.y.permit then ({ s with sf := { s.sf with diff := true } }).levelOn 176 else s

/-- The safety configuration fields as they stand (R279). -/
def State.sfCfgNow (s : State) : SfCfg :=
  { filt := s.get SF_CFG_FILT, arms := s.get SF_CFG_ARMS, disc := s.get SF_DISC_DISC, cwin := s.get SF_SCFG_CWIN }

/-- A copy of the safety configuration of which the spec says only that it differs: free values (R279, log entry 25). -/
def State.freeCopy (s : State) : SfCfg :=
  { filt := s.free 2047, arms := s.used.free 63, disc := s.used.used.free 1023, cwin := s.used.used.used.free 15 }

/-- A write of 1 to SYS_LOCK.SAFE (R279): each channel takes its copy, and the copies are compared. Of copies that differ, that of
channel Y is a free one (log entry 25). -/
def wrSafeLock (agree : Bool) : Write := fun s =>
  if s.on SYS_LOCK_SAFE then (stOk, s)
  else
    let c := s.sfCfgNow
    let s0 := if agree then s else s.used.used.used.used
    let s1 := ({ s0 with sf := { s0.sf with
      x := { s0.sf.x with copy := some c }
      y := { s0.sf.y with copy := some (if agree then c else s.freeCopy) } } }).put SYS_LOCK_SAFE 1
    let s2 := if s1.role = .datum then (s1.put SF_STAT_CFG_LOCKED 1).putB SF_STAT_CFG_MATCH agree else s1
    (stOk, if agree then s2 else s2.raise 182)

/-- SAFE_LOCK (R279). -/
def execSafeLock (agree : Bool) (s : State) : Result := s.byWrite true (wrSafeLock agree)

/-- SAFE_CONFIG_CRC (R270, R279): a failed check of a configuration copy asserts source 176 until PORn. -/
def execSafeConfigCrc (s : State) : Result :=
  s.inRun fun s => ({ s with sf := { s.sf with crcFail := true } }).levelOn 176

/-- The GCMD pins are held static low (R284). -/
def State.gateGcmd (s : State) : State :=
  (s.put SF_SSTAT_GCMD_GATED 1).emits ((List.range 4).map fun n => Out.pin "GCMD" n false)

/-- GCMD_GATE (R284): channel Y is BLOCKED and the cell is not Off 2 us later. -/
def execGcmdGate (s : State) : Result :=
  s.inStake fun s => if !s.sf.y.permit && s.cell ≠ .off then s.gateGcmd else s

/-- PERMIT_LOSS (R282): a channel whose PLCNT has reached 3 blocks, once per run; what both channels find counts once (log
entry 115). -/
def execPermitLoss (s : State) : Result :=
  s.inStake fun s =>
    let x := s.sf.x.permitLost
    let y := s.sf.y.permitLost
    if x || y then
      let s1 : State := { s with sf := { s.sf with
        x := { s.sf.x with plDone := s.sf.x.plDone || x }, y := { s.sf.y with plDone := s.sf.y.plDone || y } } }
      ((s1.blockStake x y [SF_SCAUSE_PLOSS]).count SF_SELFBLK).raise 184
    else s

end Sys2Proof.Machine
end

