-- ==== Sys2Proof/Machine/Regs.lean ====
section
/-! DEFINITION. Writing registers and memories (R8, R10, R334, R344), strobes of configuration groups with their checks
(R341 to R343), and the wide-read mailbox (R345). -/

namespace Sys2Proof.Machine

/-! ### Strobes (R342) -/

/-- The source of the shadow's values for group `g`, beside the active copy of all other groups. -/
def State.after (s : State) (g : Nat) (f : Fld) : Nat := if keyGroup f.key = some g then s.shadow f else s.cfg f

/-- The frame line time in cycles, rounded up: that of the longest frame among the ports that carry frames (R95). -/
def State.lineTime (s : State) (g : Fld → Nat) : Nat :=
  (((List.range 16).filter s.portUp).map fun p =>
    (4 * (274 + 16 * g (TRV_FCFG_MSIZE p) + 16 * g (TRV_FCFG_SLOTS p)) + 4) / 5).foldl max 0

/-- The check of a group on values of the configuration fields (R36, R95, R133, R174, R206, R228, R249, R265). -/
def State.groupCheck (s : State) (g : Nat) (v : Fld → Nat) : Bool :=
  let datum := s.role = .datum
  match g with
  | 0 => !datum || tbCheck v (s.lineTime v)
  | 1 => !datum || s.lineTime v + 100 ≤ v TB_PERIOD_PERIOD
  | 2 => !datum || mapCheck v
  | 3 => datum || gsCheck v s.measuredP
  | 4 => measCheck v s.cfg (!datum) fun m => s.get (AD_PAIR_STAT_ROT m) ≠ 0
  | 5 => !datum || schedCheck v
  | 6 => !datum || cfCheck v (v TB_CUTOFF_LEAD)
  | 7 => !datum || twinCheck v
  | _ => true

/-- The shadow of group `g` holds a parity mismatch (R343). -/
def State.groupParity (s : State) (g : Nat) : Bool :=
  s.mg.parity.any fun e => e.2 && blockGroup (e.1 / 0x10000) = some g

/-- The group may strobe. -/
def State.groupOk (s : State) (g : Nat) : Bool := s.groupCheck g (s.after g) && !s.groupParity g

/-- The STROBE_REF bit and the source of a refused group; groups 1 and 2 have no such bit (R36, R95, R133, R174, R206,
R228, R249, R265). -/
def State.refuse (s : State) (g : Nat) : State :=
  match g with
  | 0 => (s.put TB_STAT_STROBE_REF 1).raise 17
  | 1 => s.raise 17
  | 2 => s.raise 80
  | 3 => (s.put GS_STAT_STROBE_REF 1).raise 114
  | 4 => (s.put AD_STAT_STROBE_REF 1).raise 138
  | 5 => (s.put SCH_STAT_STROBE_REF 1).raise 77
  | 6 => (s.put CF_STAT_STROBE_REF 1).raiseSpare CF_FSRC_CFG
  | 7 => (s.put TW_STAT_STROBE_REF 1).raise 168
  | _ => s

/-- The shadow of group `g` moves into the active copy at once, and with it what was written late (R20, R342). -/
def State.moveGroup (s : State) (g : Nat) : State :=
  { s with
    act := s.shd.foldl (fun a e => if keyGroup e.1 = some g then kset a e.1 e.2 else a) s.act
    mg := { s.mg with
      parity := s.mg.parity.filter fun e => e.2 || blockGroup (e.1 / 0x10000) ≠ some g
      late := s.mg.late.filter fun e => keyGroup e.1 ≠ some g } }

/-- The apply margins of the ports with a measured delay (R26). -/
def State.applyMargins (s : State) : State :=
  if s.role ≠ .datum then s
  else ((List.range 16).filter fun p => s.on (TRV_STAT_DLY_VALID p)).foldl (fun s p =>
    s.applyMargin p (if s.on (TRV_STAT_FAR_VALID p) then s.get (TRV_FARDLY_DLY p) else s.get (TRV_CHAINDLY_DLY p))) s

/-- Links after a strobe. -/
def State.linksStrobed (s : State) (ls : List Nat) : State :=
  (ls.filter s.hasLink).foldl State.linkStrobed s

/-- What a strobe of group `g` does beside moving the values. `o` is the state before the strobe. -/
def State.strobed (s o : State) (g : Nat) : State :=
  match g with
  | 0 =>
    let s1 := ((s.tbStrobed o).linksStrobed [17, 18, 19, 20]).applyMargins
    if s1.cfgOn CF_CTRL_RC_EN && (s1.cfg TB_CUTOFF_LEAD < 160) && (160 ≤ o.cfg TB_CUTOFF_LEAD) then
      s1.raiseSpare CF_FSRC_CFG
    else s1
  | 1 => s.linksStrobed (List.range 16)
  | 2 => (s.restStrobed o).applyMargins
  | 3 => if s.role = .stake then s.gsStrobed o else s
  | 4 => (s.fltStrobed o).auxStrobed
  | 5 => if s.role = .datum then s.schedStrobed else s
  | 6 => if s.role = .datum then s.cfStrobed o else s
  | 7 => if s.role = .datum then (s.twinStrobed o).linksStrobed [16] else s
  | _ => s

/-- A strobe of group `g`: the truth value says that it was refused (R342). -/
def State.strobe1 (s : State) (g : Nat) : Bool × State :=
  if s.groupOk g then (false, ((s.moveGroup g).strobed s g).capNews)
  else (true, (s.refuse g).put STB_REF_GRP (setBitOf (s.get STB_REF_GRP) g))

/-- A strobe of the groups of a mask, in ascending order, with the mask of the groups refused (R342). -/
def State.strobe (s : State) (mask : Nat) : Nat × State :=
  ((List.range 8).filter (bitOf mask)).foldl (fun r g =>
    let q := r.2.strobe1 g
    (if q.1 then setBitOf r.1 g else r.1, q.2)) (0, s)

/-! ### Strobes of the tick start (R20) -/

/-- A strobe of the tick start that has passed: a shadow write that landed in its cycle or later is not moved, and takes
effect on the next strobe of its group (R20). -/
def State.atStart (s : State) (f : State → State) : State :=
  let ls := s.mg.late.filter fun e => s.tb.tickStart ≤ e.2.1
  let r := f { s with shd := ls.foldl (fun m e => kset m e.1 e.2.2) s.shd }
  { r with
    shd := ls.foldl (fun m e => match kget s.shd e.1 with | some v => kset m e.1 v | none => m) r.shd
    mg := { r.mg with late := ls.map fun e => (e.1, (e.2.1, (kget r.shd e.1).getD e.2.2)) } }

/-! ### The wide-read mailbox (R50, R90, R345) -/

/-- Station time as words: seconds, nanoseconds, fraction. -/
def Time.words (t : Time) : List Nat := [t.sec % 2 ^ 32, t.sec / 2 ^ 32, t.ns, t.frac]

/-- A 128-bit value as words. -/
def wide128 (v : Nat) : List Nat := (List.range 4).map fun i => v / 2 ^ (32 * i) % 2 ^ 32

/-- The timebase items (R50). -/
def State.timeItem (s : State) (i : Nat) : List Nat :=
  match i with
  | 0 => s.time.words
  | 1 => s.tb.tickTime.words ++ [s.tb.tick % 2 ^ 32, s.tb.tick / 2 ^ 32]
  | 2 =>
    if s.role = .datum then
      let a := if s.on TB_STAT_TICK_RUN then (s.tb.anchorSec, s.tb.anchorOfs, s.tb.anchorK) else s.anchorRegs
      [a.1 % 2 ^ 32, a.1 / 2 ^ 32, a.2.1, a.2.2 % 2 ^ 32, a.2.2 / 2 ^ 32]
    else match s.tb.announce with
      | some a => [a.sec % 2 ^ 32, a.sec / 2 ^ 32, a.ns / 2, a.tick % 2 ^ 32, a.tick / 2 ^ 32]
      | none => [0, 0, 0, 0, 0]
  | _ => match s.tb.tmarkTime with
    | some t => t.words
    | none => [0, 0, 0, 0]

/-- The words of an item, if it is known, and the state after its capture, which takes the oldest entry of a transmit
stamp FIFO (R50, R345). -/
def State.wideItem (s : State) (item : Nat) : Option (List Nat) × State :=
  if item = 0x0001 then (some (wide128 s.monument), s)
  else if 0x0400 ≤ item ∧ item ≤ 0x0403 then (some (s.timeItem (item % 16)), s)
  else if (item = 0x0410 ∨ item = 0x0411) ∧ s.role = .datum then
    match (kget s.ptp (item % 16)).getD [] with
    | e :: rest =>
      (some (e.time.words ++ [e.seqId % 65536 + 65536 * e.msgType]), { s with ptp := kset s.ptp (item % 16) rest })
    | [] => (some [0, 0, 0, 0, 0], s)
  else
    let p := (item - 0x0500) / 16
    if 0x0500 ≤ item ∧ p < s.nPorts ∧ item % 16 < 4 then
      let k := s.link p
      match item % 16 with
      | 0 => (some [k.prbsBits % 2 ^ 32, k.prbsBits / 2 ^ 32], s)
      | 1 => (some [k.prbsErrs % 2 ^ 32, k.prbsErrs / 2 ^ 32], s)
      | 2 => (some (wide128 k.partner), s)
      | _ => (some (wide128 ((k.cache.map (·.monument)).getD 0)), s)
    else (none, s)

/-- An item is captured (R345): an unknown one sets ERR. -/
def State.capture (s : State) (item : Nat) : Option (List Nat) × State :=
  let s0 := ((s.put MB_REQ_ITEM item).put MB_STAT_VALID 0).put MB_STAT_ITEM item
  let r := s0.wideItem item
  match r.1 with
  | some ws =>
    let s1 := (List.range 8).foldl (fun s i => s.put (MB_DATA_DATA i) (ws.getD i 0)) r.2
    (some ws, (s1.put MB_STAT_NWORDS ws.length).put MB_STAT_VALID 1)
  | none => (none, r.2.put MB_STAT_ERR 1)

/-! ### Checks of a write -/

/-- The field's value in a word. -/
def FSpec.value (x : FSpec) (w : Nat) : Nat := w / 2 ^ x.fld.lo % 2 ^ x.fld.width

/-- A write acts on the field at all (R8). -/
def FSpec.takes (x : FSpec) : Bool := x.acc ≠ .ro && x.acc ≠ .rc

/-- The field ignores writes: it is unused in the role or read-only there (R313), or the class of a source with a fixed one
(R292). -/
def State.ignores (s : State) (x : FSpec) : Bool :=
  s.unusedField x.fld || (s.role ≠ .datum && x.fld.key = DR_MEM_SIZE_VAL.key) || [111, 176, 177].any fun n => x.fld.key = (FC_SRC_CLASS n).key

/-- The bits of an enable word that stay set (R292). -/
def fixedBits (addr : Nat) : Nat :=
  if addr = (FC_EN_SRC 3).addr then 2 ^ 15 else if addr = (FC_EN_SRC 5).addr then 2 ^ 16 + 2 ^ 17 else 0

/-- What a value of the field must be a multiple of, by its description (R227, R230, R369). -/
def FSpec.unit (x : FSpec) : Nat :=
  if [LE_DIRTY_BASE_VAL, LE_DIRTY_LEN_VAL, CF_IN_ADDR, CF_OUT_ADDR].any fun f => x.fld.key = f.key then 64
  else if (List.range 4).any fun d => x.fld.key = (CL_VRX_ADDR d).key then 128
  else 1

/-- A value that the description of the field allows (R10). -/
def FSpec.allows (x : FSpec) (v : Nat) : Bool :=
  v % x.unit = 0 && (x.legal.isEmpty || x.legal.any fun r => (r.1 ≤ v) && v ≤ r.2)

/-- SEL of a recorder channel whose TYPE is that of a digital vector names none of the reserved vectors (R10, R316, log entry
125). -/
def FSpec.vectorOk (x : FSpec) (w : Nat) : Bool :=
  let sel := (DR_CH_SRC_SEL 0).addr ≤ x.fld.addr && x.fld.addr < (DR_CH_SRC_SEL 64).addr &&
    x.fld.addr % 32 = 0 && x.fld.lo = (DR_CH_SRC_SEL 0).lo
  !(sel && w % 8 = 4) || x.value w < 14

/-- No field is given a value that its description does not allow (R10). -/
def State.legalWord (s : State) (xs : List FSpec) (w : Nat) : Bool :=
  xs.all fun x => !x.takes || s.ignores x || (x.allows (x.value w) && x.vectorOk w)

/-- Lock bit `l` of SYS_LOCK. -/
def State.lockBit (s : State) (l : Nat) : Bool := s.on ⟨SYS_LOCK_TIME.addr, l, 1, 0⟩

/-- The value that a field has for a write (R8, R346). -/
def State.present (s : State) (x : FSpec) : Nat := if x.cfg then s.shadow x.fld else s.get x.fld

/-- The write would change a locked field (R8). -/
def State.lockedWord (s : State) (xs : List FSpec) (w : Nat) : Bool :=
  xs.any fun x =>
    match x.acc with
    | .rwl l => s.lockBit l && !s.ignores x && x.value w ≠ s.present x
    | _ => false

/-! ### Taking a write -/

/-- A field takes its part of a word (R8). -/
def State.storeField (s : State) (x : FSpec) (w : Nat) : State :=
  let v := x.value w
  let set (s : State) (v : Nat) : State := if x.cfg then s.setShadow x.fld v else s.put x.fld v
  if s.ignores x then s
  else match x.acc with
    | .rw => set s v
    | .rwl _ => set s v
    | .w1s => set s (bor (s.present x) v)
    | .w1c => set s (s.present x - band (s.present x) v)
    | _ => s

/-- The plain fields of a word take their values; a shadow copy written again holds no mismatch (R343). -/
def State.storeWord (s : State) (addr : Nat) (xs : List FSpec) (w : Nat) : State :=
  let s1 := xs.foldl (fun s x => s.storeField x (bor w (fixedBits addr))) s
  { s1 with mg := { s1.mg with parity := s1.mg.parity.filter (· ≠ (addr, true)) } }

/-- A second action after a first that was not refused; a refusal of the second leaves nothing of the first (R339). -/
def thenWrite (a b : Write) : Write := fun s =>
  let r := a s
  if r.1 = stOk then (let q := b r.2; if q.1 = stOk then q else (q.1, s)) else r

/-- An action that a write carries only under a condition. -/
def whenWrite (c : Bool) (a : Write) : Write := fun s => if c then a s else (stOk, s)

/-- A write to SYS_LOCK: bits set (R344), and with SAFE the safety configuration is taken (R279). -/
def wrLock (agree : Bool) (mask : Nat) : Write := fun s =>
  let s1 := ((List.range 11).filter fun b => b ≠ 8 && bitOf mask b).foldl
    (fun s b => s.put ⟨SYS_LOCK_TIME.addr, b, 1, 0⟩ 1) s
  if bitOf mask 8 then wrSafeLock agree s1 else (stOk, s1)

/-- A write to FB_CTRL (R309, R311). -/
def wrFbCtrl (w : Nat) : Write := fun s =>
  match bitsOf w 2 1 with
  | 3 => (stBadParam, s)
  | 1 => thenWrite wrRingClear (wrFreeze (bitOf w 0)) s
  | 2 => thenWrite wrTailClear (wrFreeze (bitOf w 0)) s
  | _ => wrFreeze (bitOf w 0) s

/-- A write to GS_BYP_CMD (R181). -/
def wrBypCmd (code : Nat) : Write := fun s =>
  if code = 0xB1A5 then wrBypArm s.now s
  else if code = 0x0F1E then wrBypFire s.now s
  else if code = 0x0C1E then wrBypClear s
  else (stOk, { s with gs := { s.gs with armed := false } })

/-- A write to AD_INJn (R192). -/
def wrAdInj (n addr : Nat) (xs : List FSpec) (w : Nat) : Write := fun s =>
  if bitOf w 6 then wrInject n (bitsOf w 3 0) (bitOf w 4) (bitOf w 5) s else (stOk, s.storeWord addr xs w)

/-- A write to SCH_SETFLAG (R218). -/
def wrSetFlag (w : Nat) : Write := fun s => (stOk, s.setFlags [(bitsOf w 14 8, bitsOf w 4 0)])

/-- A write to INJ_GENg_CTRL (R238, R239): STOP acts before ARM. -/
def wrInjCtrl (g w : Nat) : Write :=
  thenWrite
    (whenWrite (bitOf w 1) fun s => (stOk, (s.put (INJ_GEN_STAT_ARMED g) 0).put (INJ_GEN_STAT_RUN g) 0))
    (whenWrite (bitOf w 0) (wrInjArm g))

/-- A write to STB_FIRE (R342). -/
def wrStbFire (mask : Nat) : Write := fun s => (stOk, (s.strobe mask).2)

/-- A write to MB_REQ (R345). -/
def wrMbReq (item : Nat) : Write := fun s => (stOk, (s.capture item).2)

/-- The index of an address in an array of words, if it is one of them. -/
def indexOf (base stride n addr : Nat) : Option Nat :=
  if base ≤ addr ∧ (addr - base) % stride = 0 ∧ (addr - base) / stride < n then some ((addr - base) / stride) else none

/-- The writes of the words that do more than take a value, in the blocks of both roles: time base, faults, links. -/
def specialCommon (addr : Nat) (xs : List FSpec) (w : Nat) : Option Write :=
  let plain : Write := fun s => (stOk, s.storeWord addr xs w)
  if addr = SYS_LOCK_TIME.addr then some (wrLock true w)
  else if addr = WD_FEED_KEY.addr then some (wrFeed (w % 65536))
  else if addr = FB_CTRL_FREEZE.addr then some (wrFbCtrl w)
  else if addr = TB_CTRL_STEP.addr then some (thenWrite (whenWrite (bitOf w 4) wrStep) plain)
  else if addr = TB_FTRIM_TRIM.addr then some (wrFtrim w)
  else if addr = TB_SLEWLIM_LIM.addr then some (thenWrite plain fun s => (stOk, s.applyTrim))
  else if addr = STB_FIRE_GRP.addr then some (wrStbFire (w % 256))
  else if addr = MB_REQ_ITEM.addr then some (wrMbReq (w % 65536))
  else if addr = DR_CTRL_ARM.addr then some (wrDrCtrl (bitOf w 0) (bitOf w 1) (bitOf w 2))
  else if addr = DR_RELEASE_RNUM.addr then some (wrDrRelease w)
  else if addr = AD_CTRL_CAL_START.addr then
    some (thenWrite (wrCalStart (bitsOf w 3 0)) (wrRotStart (bitsOf w 5 4)))
  else match indexOf (FC_FORCE_SRC 0).addr 4 8 addr with
  | some r => some (wrForce r w)
  | none =>
    match indexOf (TRV_CTRL_RESTART 0).addr 0x1000 16 addr with
    | some p => some (thenWrite (whenWrite (bitOf w 4) (wrRestart p)) plain)
    | none =>
      match indexOf (TRV_INJ_SINGLE 0).addr 0x1000 16 addr with
      | some p => some (wrInj p (bitOf w 0) (bitOf w 1) (bitOf w 2) (bitsOf w 15 8))
      | none =>
        match indexOf (AD_SEQ_CTRL_SW_START 0).addr 0x200 4 addr with
        | some n => some (whenWrite (bitOf w 0) fun s => (stOk, s.adTrigger n false))
        | none => (indexOf (AD_INJ_START 0).addr 0x200 4 addr).map fun n => wrAdInj n addr xs w

/-- Likewise in the blocks of a Stake. -/
def specialStake (addr : Nat) (xs : List FSpec) (w : Nat) : Option Write :=
  let plain : Write := fun s => (stOk, s.storeWord addr xs w)
  if addr = GS_CTRL_OV2_CLR.addr then some (thenWrite (whenWrite (bitOf w 1) wrOv2Clr) plain)
  else if addr = GS_BYP_CMD_CODE.addr then some (wrBypCmd (w % 65536))
  else if addr = GS_TEST_SEL.addr then some (wrTest (bitsOf w 2 0) (bitsOf w 5 4))
  else match indexOf (GS_CH_CTRL_UNLATCH 0).addr 0x40 4 addr with
  | some n =>
    some (thenWrite (wrManual n (bitOf w 2) (bitOf w 3)) (thenWrite (whenWrite (bitOf w 1) (wrUnlatch n)) plain))
  | none => (indexOf (GS_CH_PULSE_WIDTH 0).addr 0x40 4 addr).map fun n => wrPulse n (w % 65536)

/-- Likewise in the blocks of a Datum. -/
def specialDatum (addr : Nat) (xs : List FSpec) (w : Nat) : Option Write :=
  let plain : Write := fun s => (stOk, s.storeWord addr xs w)
  if addr = SCH_SETFLAG_FLAG.addr then some (wrSetFlag w)
  else if addr = SCH_CANCEL_SLOT.addr then some fun s => (stOk, s.cancel (w % 128) false)
  else if addr = LE_BANK_SWAP_REQ.addr then
    some (if bitOf w 2 then wrSwapReq else fun s => (stOk, s.dropSwap))
  else if addr = TW_CTRL_JOIN.addr then some (thenWrite (whenWrite (bitOf w 2) wrJoin) plain)
  else if addr = LS_CTRL_HANDOVER.addr then some (thenWrite (whenWrite (bitOf w 2) wrHandover) plain)
  else match indexOf (INJ_GEN_CTRL_ARM 0).addr 0x100 4 addr with
  | some g => some (wrInjCtrl g w)
  | none =>
    match indexOf (OG_CH_LOAD_VAL 0).addr 0x20 16 addr with
    | some n => some (wrOgLoad n w)
    | none => if (windowOf addr).isSome then some fun s => (stOk, s.release1 addr w) else none

/-- The write of a register word that passed the checks on its values: what it does, and its status. -/
def State.takeWord (s : State) (addr : Nat) (xs : List FSpec) (w : Nat) : Nat × State :=
  let own := if s.role = .datum then specialDatum addr xs w else specialStake addr xs w
  match specialCommon addr xs w with
  | some f => f s
  | none =>
    match own with
    | some f => f s
    | none =>
      if addr / 0x10000 = 0x0A && xs.any FSpec.takes && !s.drQuiet then (stBusy, s)
      else (stOk, s.storeWord addr xs w)

/-- A word of the repetitive memory pool belongs to an enabled channel (R242). -/
def State.poolBusy (s : State) (addr : Nat) : Bool :=
  let i := (addr - poolBase) / 4
  (List.range 64).any fun c =>
    s.cfgOn (RC_CH_CFG_EN c) && (s.cfg (RC_CH_MEM_BASE c) ≤ i) && (i < s.cfg (RC_CH_MEM_BASE c) + s.cfg (RC_CH_MEM_LEN c))

/-- A word of loop data memory is written by management: it holds no ECC error and marks its line (R212, R227, log entry
50). -/
def State.writeLoopWord (s : State) (addr w : Nat) : State :=
  ({ s with mbad := s.mbad.filter (· ≠ addr / 8 * 8) }.setMemWord addr w).markDirty addr

/-- A management write to a memory (R211, R212, R227, R242). A word written holds no ECC error (log entry 50). -/
def State.writeMemory (s : State) (addr w : Nat) : Nat × State :=
  if addr < loopDataBase then
    if (addr - loopProgBase) / bankSize = s.get LE_BANK_ACTIVE then (stBusy, s)
    else (stOk, (s.setMemWord addr w).idleWritten)
  else if addr < poolBase then
    (stOk, s.writeLoopWord addr w)
  else if s.poolBusy addr then (stBusy, s)
  else
    (stOk, ({ s with cf := { s.cf with bad := s.cf.bad.filter (· ≠ (addr - poolBase) / 4) } } : State).setMemWord addr w)

/-- A WRITE of one word: its status and the state after it (R8, R10, R334, R339). A write to the Plat table is
ignored. -/
def State.writeWord (s : State) (addr w : Nat) : Nat × State :=
  let st := s.addrStatus addr
  if st ≠ stOk then (st, s)
  else if addr < 0x10000 then (stOk, s)
  else if inMemory addr then s.writeMemory addr (w % 2 ^ 32)
  else
    let xs := (regFields addr).getD []
    if !s.legalWord xs w then (stBadParam, s)
    else if s.lockedWord xs (bor w (fixedBits addr)) then (stLocked, s)
    else s.takeWord addr xs (w % 2 ^ 32)

/-- Words written from an address on, up to the first that fails: status, words written, state (R334). -/
def State.writeWords (s : State) (addr : Nat) : List Nat → Nat × Nat × State
  | [] => (stOk, 0, s)
  | w :: t =>
    let r := s.writeWord addr w
    if r.1 = stOk then
      let q := r.2.writeWords (addr + 4) t
      (q.1, q.2.1 + 1, q.2.2)
    else (r.1, 0, r.2)

/-- The value that a MODIFY writes (R334). -/
def modified (old mask value : Nat) : Nat := old - band old mask + band value mask

/-- A MODIFY of one word: status, old value, state (R334, R339). -/
def State.modifyWord (s : State) (addr mask value : Nat) : Nat × Nat × State :=
  let st := s.addrStatus addr
  if st ≠ stOk then (st, 0, s)
  else
    let old := s.valueAt addr
    let r := s.writeWord addr (modified old (mask % 2 ^ 32) (value % 2 ^ 32))
    if r.1 = stOk && s.readBad addr then (stParity, 0, s) else (r.1, old, r.2)

end Sys2Proof.Machine
end

