-- ==== Sys2Proof/Machine/Txn.lean ====
section
/-! DEFINITION. Transactions, relays with what they serve, scans and adoption (R335, R346 to R349, R354, R355, R360). -/

namespace Sys2Proof.Machine

/-! ### Writes of a transaction -/

/-- States of R346. -/
def txOpen : Nat := 0
/-- PREPARED. -/
def txPrepared : Nat := 1
/-- FAILED. -/
def txFailed : Nat := 2
/-- COMMITTED. -/
def txCommitted : Nat := 3
/-- DONE. -/
def txDone : Nat := 4
/-- PARTIAL. -/
def txPartial : Nat := 5
/-- ROLLED_BACK. -/
def txRolledBack : Nat := 6

/-- The open transaction with a handle. -/
def State.txn (s : State) (id : Nat) : Option Txn := s.mg.txns.find? fun t => t.id = id

/-- An open transaction changed. -/
def State.setTxn (s : State) (t : Txn) : State :=
  { s with mg := { s.mg with txns := s.mg.txns.map fun u => if u.id = t.id then t else u } }

/-- A transaction ends in a state; the last 16 that ended are kept (R346). -/
def State.closeTxn (s : State) (t : Txn) (st : Nat) : State :=
  { s with mg := { s.mg with
      txns := s.mg.txns.filter fun u => u.id ≠ t.id
      closed := (({ t with state := st, req := none } : Txn) :: s.mg.closed).take 16 } }

/-- The configuration fields of the word at an address. -/
def cfgFields (addr : Nat) : List FSpec := ((regFields addr).getD []).filter fun x => x.cfg && x.takes

/-- A word writes a configuration field, and gives no other field that takes writes a value to act on (R347). -/
def State.cfgTarget (s : State) (addr w : Nat) : Bool :=
  let xs := (regFields addr).getD []
  !(cfgFields addr).isEmpty &&
    xs.all fun x => x.cfg || !x.takes || x.value w = (if x.acc = .rw then s.get x.fld else 0)

/-- An address of loop data memory. -/
def inLoopData (addr : Nat) : Bool := (loopDataBase ≤ addr) && addr < loopDataBase + loopDataSize

/-- The status of a transaction write for its target alone (R10, R344, R347). A Stake's lock bits are checked at its
prepare. -/
def State.txnTarget (s : State) (scope addr w : Nat) : Nat :=
  let at' : State := if scope = 0 then s else { s with role := .stake }
  let st := at'.addrStatus addr
  if st ≠ stOk then (if scope = 0 then st else stBadParam)
  else if scope = 0 && (inLoopData addr || (windowOf addr).isSome) then stOk
  else if inMemory addr || addr < 0x10000 || !at'.cfgTarget addr w || !at'.legalWord (cfgFields addr) w then stBadParam
  else if scope = 0 && s.lockedWord (cfgFields addr) w then stLocked
  else stOk

/-- Another open transaction of the scope holds the address for a common port (R347). -/
def State.txnConflict (s : State) (t : Txn) (addr : Nat) : Bool :=
  s.mg.txns.any fun u => u.id ≠ t.id && u.scope = t.scope && (kget u.writes addr).isSome &&
    (t.scope = 0 || band u.target.ports t.target.ports ≠ 0)

/-- Room for a further write: 4096 in all, 256 of loop data memory (R346, R347). -/
def Txn.room (t : Txn) (addr : Nat) : Bool :=
  (kget t.writes addr).isSome ||
    ((t.writes.length < 4096) && (!inLoopData addr || (t.writes.filter fun e => inLoopData e.1).length < 256))

/-- A write of one word in a transaction: status and state (R346, R347). -/
def State.txnWrite (s : State) (id addr w : Nat) : Nat × State :=
  match s.txn id with
  | none => (stBadParam, s)
  | some t =>
    let st := s.txnTarget t.scope addr w
    if st = stBadParam || st = stNotInRole || !t.room addr then (if st = stNotInRole then st else stBadParam, s)
    else if st ≠ stOk then (st, s)
    else if s.txnConflict t addr then (stTxnConflict, s.count TXN_CONFLICTS)
    else if t.state ≠ txOpen then (stBusy, s)
    else (stOk, s.setTxn { t with writes := kset t.writes addr (w % 2 ^ 32) })

/-- Words written in a transaction, up to the first that fails. -/
def State.txnWrites (s : State) (id addr : Nat) : List Nat → Nat × Nat × State
  | [] => (stOk, 0, s)
  | w :: t =>
    let r := s.txnWrite id addr w
    if r.1 = stOk then
      let q := r.2.txnWrites id (addr + 4) t
      (q.1, q.2.1 + 1, q.2.2)
    else (r.1, 0, r.2)

/-- The value that a MODIFY of a transaction starts from: its own pending write, else the present value; that of a Stake
is not known here and is a free value (log entry 8). -/
def State.txnOld (s : State) (id addr : Nat) : Nat × State :=
  match s.txn id with
  | none => (0, s)
  | some t =>
    match kget t.writes addr with
    | some v => (v, s)
    | none => if t.scope = 0 then (s.valueAt addr, s) else (s.free (2 ^ 32 - 1), s.used)

/-- A MODIFY of a transaction: status, old value, state. -/
def State.txnModify (s : State) (id addr mask value : Nat) : Nat × Nat × State :=
  let o := s.txnOld id addr
  let r := o.2.txnWrite id addr (modified o.1 (mask % 2 ^ 32) (value % 2 ^ 32))
  (r.1, o.1, r.2)

/-! ### Applying writes -/

/-- The configuration fields of the words of a transaction enter the shadows (R348). -/
def State.withWrites (s : State) (ws : KMap Nat) : State :=
  ws.foldl (fun s e => if (cfgFields e.1).isEmpty then s else s.storeWord e.1 (cfgFields e.1) e.2) s

/-- The groups that the writes touch. -/
def touched (ws : KMap Nat) : List Nat :=
  (List.range 8).filter fun g =>
    ws.any fun e => !(cfgFields e.1).isEmpty && blockGroup (e.1 / 0x10000) = some g

/-- The groups of a list as a mask. -/
def maskOf (gs : List Nat) : Nat := gs.foldl setBitOf 0

/-- The groups that would refuse a strobe of the groups `gs` in ascending order (R348). -/
def State.refusedBy (s : State) (gs : List Nat) : Nat :=
  (gs.foldl (fun (r : Nat × State) g =>
    if r.2.groupCheck g (r.2.after g) then (r.1, r.2.moveGroup g) else (setBitOf r.1 g, r.2)) (0, s)).1

/-- The groups that fail their checks on the shadow with the writes (R348). -/
def State.checkWrites (s : State) (ws : KMap Nat) : Nat := (s.withWrites ws).refusedBy (touched ws)

/-- A lock bit forbids one of the writes. -/
def State.writesLocked (s : State) (ws : KMap Nat) : Bool := ws.any fun e => s.lockedWord (cfgFields e.1) e.2

/-- Loop data writes of a transaction (R348). -/
def State.loopWrites (s : State) (ws : KMap Nat) : State :=
  ws.foldl (fun s e => if inLoopData e.1 then s.writeLoopWord e.1 e.2 else s) s

/-- Output-window writes of a transaction (R348). -/
def State.windowWrites (s : State) (ws : KMap Nat) : State :=
  ws.foldl (fun s e => if (windowOf e.1).isSome then s.release1 e.1 e.2 else s) s

/-- The writes to registers apply, and every touched group strobes: the mask of the groups refused, and the state (R348). -/
def State.applyWrites (s : State) (ws : KMap Nat) : Nat × State :=
  ((s.withWrites ws).windowWrites ws).strobe (maskOf (touched ws))

/-- A local transaction applies, with the loop data that TXN_TICK_APPLY has not written, and ends DONE or PARTIAL (R348). -/
def State.applyTxn (s : State) (t : Txn) : State :=
  let r := (if t.loopDone then s else s.loopWrites t.writes).applyWrites t.writes
  if r.1 = 0 then (r.2.closeTxn t txDone).count TXN_COMMITS
  else ((r.2.closeTxn { t with refused := r.1 } txPartial).count TXN_PARTIAL).raise 194

/-- `k` lies at least `n` ticks ahead (R13, R348). -/
def State.ticksAhead (s : State) (k n : Nat) : Bool :=
  let d := (k % 2 ^ 32 + 2 ^ 32 - s.tb.tick % 2 ^ 32) % 2 ^ 32
  (n ≤ d) && (d < 2 ^ 31)

/-- Tick `k` is the current one or has passed (R13). -/
def State.reached (s : State) (k : Nat) : Bool := (s.tb.tick % 2 ^ 32 + 2 ^ 32 - k % 2 ^ 32) % 2 ^ 32 < 2 ^ 31

/-! ### Packets that the device relays itself -/

/-- IDENT (R338). -/
def identPacket : List Nat := (Packet.make 0x0800 0 []).bytes

/-- Writes in one message of a prepare (R349). -/
def sprepMax : Nat := 1024

/-- Part `i` of the prepare of a transaction: TXID, whether it is the first, all writes, its writes (log entry 51). -/
def sprepPacket (t : Txn) (i : Nat) : List Nat :=
  let part := (t.writes.drop (sprepMax * i)).take sprepMax
  (Packet.make 0x0110 0 (le 2 t.id ++ le 2 (if i = 0 then 1 else 0) ++ le 4 t.writes.length ++
    part.flatMap fun e => le 4 e.1 ++ le 4 e.2)).bytes

/-- TXN_SCOMMIT with its tick (log entry 51). -/
def scommitPacket (t : Txn) : List Nat := (Packet.make 0x0111 0 (le 2 t.id ++ [0, 0] ++ le 4 t.tick)).bytes

/-- TXN_SABORT (log entry 51). -/
def sabortPacket (t : Txn) : List Nat := (Packet.make 0x0112 0 (le 2 t.id ++ [0, 0])).bytes

/-- An adoption, or a confirmation of one: port, slot, arm, whether it confirms, index, and the monument ID that the slot
had (log entry 51). -/
def adoptPacket (confirm : Bool) (p slot a idx old : Nat) : List Nat :=
  (Packet.make adoptOpcode 0 ([p, slot, a, confirm.toNat] ++ le 2 idx ++ [0, 0] ++ le 16 old)).bytes

/-- The target of one Stake by its monument ID on one port. -/
def byMonument (p m : Nat) : Target := { ports := 2 ^ p, mode := 3, addr := 0, monument := m }

/-! ### Scans (R354) -/

/-- The hop after a scan goes on: IDENT by hop count. -/
def State.scanHop (s : State) (r : Option Req) (p hop : Nat) : State :=
  s.relayStart r (.scan p hop) { ports := 2 ^ p, mode := 2, addr := hop, monument := 0 } identPacket

/-- A found Stake as CHAIN_SCAN reports it. -/
def Hop.bytes (h : Hop) : List Nat := [h.hop, h.slot, if h.slot = 0xFF then 0 else 1, 0] ++ le 16 h.monument

/-- The slot at which the adoption table of port `p` holds a monument ID. -/
def State.tableSlot (s : State) (p m : Nat) : Option Nat :=
  (List.range 64).find? fun i => m ≠ 0 && kget s.mg.table (64 * p + i) = some m

/-- Slot `a` comes west of slot `b` as the hops of this board run (R354). -/
def State.inOrder (s : State) (a b : Nat) : Bool := if s.board = 0 then a < b else b < a

/-- The confirmations that follow a scan (R354): a Stake that breaks the order of slots raises source 198. -/
def State.confirmAll (s : State) (p : Nat) : List Hop → List Nat → State
  | [], _ => s
  | h :: t, seen =>
    match s.tableSlot p h.monument with
    | none => s.confirmAll p t seen
    | some i =>
      let s1 :=
        if seen.all fun j => s.inOrder j i then
          s.relayStart none (.confirm p i) (byMonument p h.monument)
            (adoptPacket true p i (s.shadow (LVL_MAP_ARM p i)) (s.shadow (LVL_MAP_IDX p i)) h.monument)
        else s.raise 198
      s1.confirmAll p t (seen ++ [i])

/-- A scan of port `p` ends (R354). -/
def State.scanEnd (s : State) (r : Option Req) (p : Nat) : State :=
  let hops := (kget s.mg.scans p).getD []
  match r with
  | some r => s.reply r stOk (hops.flatMap Hop.bytes)
  | none => s.confirmAll p hops []

/-- One hop of a scan has been asked (R354). -/
def State.scanStep (s : State) (q : RelayReq) (p hop : Nat) : State :=
  match q.got with
  | e :: _ =>
    let h : Hop := { hop := hop + 1, slot := e.slot, monument := ofLe (slice e.data 0 16) }
    let s1 : State := { s with mg := { s.mg with scans := kset s.mg.scans p ((kget s.mg.scans p).getD [] ++ [h]) } }
    if hop + 1 < 64 then s1.scanHop q.req p (hop + 1) else s1.scanEnd q.req p
  | [] => s.scanEnd q.req p

/-! ### Adoption (R355) -/

/-- The event record of an adoption (R303, R355). -/
def State.adoptEvent (s : State) (new old p slot a : Nat) : State :=
  s.event 4 (new % 2 ^ 32 + 2 ^ 32 * (old % 2 ^ 32) + 2 ^ 64 * p + 2 ^ 72 * slot + 2 ^ 80 * a +
    2 ^ 88 * (if old = 0 then 0 else 1))

/-- The monument ID that the adoption table holds for a slot; 0 if none. -/
def State.tableAt (s : State) (p slot : Nat) : Nat := (kget s.mg.table (64 * p + slot)).getD 0

/-- A Stake that the last scan of port `p` found holds a slot now (R354, R355). -/
def State.noteSlot (s : State) (p m slot : Nat) : State :=
  match kget s.mg.scans p with
  | some hops =>
    { s with mg := { s.mg with
        scans := kset s.mg.scans p (hops.map fun h => if h.monument = m then { h with slot := slot } else h) } }
  | none => s

/-- The Stake has become adopted: the Datum's table, map and record follow (R355). -/
def State.adopted (s0 : State) (r : Option Req) (p slot a idx m : Nat) : State :=
  let s := s0.noteSlot p m slot
  let old := s.tableAt p slot
  let s1 : State := { s with mg := { s.mg with table := kset s.mg.table (64 * p + slot) m } }
  let s2 := ((s1.setShadow (LVL_MAP_IDX p slot) idx).setShadow (LVL_MAP_ARM p slot) a).setShadow (LVL_MAP_VALID p slot) 1
  let s3 := s2.adoptEvent m old p slot a
  match r with
  | some r => s3.reply r stOk (le 16 old)
  | none => s3

/-! ### The end of a relay -/

/-- Every expected Stake answered with OK. -/
def RelayReq.allOk (q : RelayReq) : Bool := q.wants.all fun w => (w.entry q.got).status = stOk

/-- The entries of a relay as reply data. -/
def RelayReq.data (q : RelayReq) : List Nat := (replyEntries q.wants q.got).flatMap Entry.bytes

/-- A reply to the request that a relay serves, if there is one. -/
def State.replyOpt (s : State) (r : Option Req) (st : Nat) (multi : Bool) (data : List Nat) : State :=
  match r with
  | some r => s.replyWith r st multi data
  | none => s

/-- The next part of a prepare, or its end: PREPARED or FAILED (R349). -/
def State.sprepStep (s : State) (q : RelayReq) (txid next : Nat) : State :=
  let st := if q.allMet then stOk else stTimeout
  match s.txn txid with
  | none => s.replyOpt q.req st true q.data
  | some t =>
    if !q.allOk then (s.setTxn { t with state := txFailed }).replyOpt q.req st true q.data
    else if sprepMax * next < t.writes.length then
      s.relayStart q.req (.sprep txid (next + 1)) t.target (sprepPacket t next)
    else (s.setTxn { t with state := txPrepared }).replyOpt q.req st true q.data

/-- The Stakes that have not answered the commit of a transaction. -/
def State.unanswered (s : State) (t : Txn) : List Want := (s.wantsOf t.target).filter fun w => !w.met t.got

/-- Answers to a commit; those that are missing are asked again by mode 3, until SGUARD ticks before its tick (R349). -/
def State.scommitStep (s : State) (q : RelayReq) (txid : Nat) : State :=
  match s.txn txid with
  | none => s
  | some t =>
    let t1 : Txn := { t with got := t.got.filter (fun e => !q.got.any fun x => x.port = e.port && x.slot = e.slot) ++ q.got }
    let s1 := s.setTxn t1
    if t.state = txCommitted && s1.ticksAhead t.tick (s1.get TXN_CFG_SGUARD) then
      (s1.unanswered t1).foldl (fun s w =>
        match w.ports, w.slot with
        | [p], some i =>
          if s.tableAt p i = 0 || s.relayLimit p < (16 + (scommitPacket t).length) then s
          else s.relayStart none (.scommit txid) (byMonument p (s.tableAt p i)) (scommitPacket t)
        | ps, _ =>
          if t.target.mode = 3 && ps.all (fun p => 16 + (scommitPacket t).length ≤ s.relayLimit p) then
            s.relayStart none (.scommit txid) t.target (scommitPacket t)
          else s) s1
    else s1

/-- What follows when a relay has ended (R335, R349, R354, R355). -/
def State.relayDone (s : State) (q : RelayReq) : State :=
  let st := if q.allMet then stOk else stTimeout
  match q.kind with
  | .relay => s.replyOpt q.req st true q.data
  | .scan p hop => s.scanStep q p hop
  | .sprep txid next => s.sprepStep q txid next
  | .scommit txid => s.scommitStep q txid
  | .sabort _ => s.replyOpt q.req st true q.data
  | .adopt p slot a idx m =>
    match q.got with
    | e :: _ => if e.status = stOk then s.adopted q.req p slot a idx m else s.replyOpt q.req e.status false []
    | [] => s.replyOpt q.req stTimeout false []
  | .confirm p i => if q.allMet && q.allOk then s.noteSlot p (s.tableAt p i) i else s.raise 198

/-- The relays that have ended leave the list, and what follows on them takes place, in the order in which they began. -/
def State.settleRelays (s : State) : State :=
  let ended := s.mg.relays.filter (·.ended)
  ended.foldl State.relayDone { s with mg := { s.mg with relays := s.mg.relays.filter fun q => !q.ended } }

/-- RELAY_REPLY_TIMEOUT (R109, R335): the reply time of relay `id` has passed on a port. -/
def execRelayReplyTimeout (id : Nat) (s : State) : Result :=
  s.inDatum fun s => (s.updRelay id s.closeSent).settleRelays

/-! ### Commands that relay -/

/-- RELAY (R335). -/
def execRelay (r : Req) (t : Target) (k : Packet) (s : State) : Result :=
  s.command r true false false fun s =>
    let st := if t.portList.isEmpty then stBadParam else s.relayCheck t k.bytes
    if st ≠ stOk then s.status r st else s.relayStart (some r) .relay t k.bytes

/-- CHAIN_SCAN (R354). -/
def execChainScan (r : Req) (p : Nat) (s : State) : Result :=
  s.command r true false false fun s =>
    if 16 ≤ p then s.status r stBadParam
    else if !s.relayRoom p then s.status r stQueueFull
    else ({ s with mg := { s.mg with scans := kset s.mg.scans p [] } } : State).scanHop (some r) p 0

/-- RELAY_FLUSH (R128, R338, R360). -/
def execRelayFlush (r : Req) (ports : Nat) (s : State) : Result :=
  s.command r true false false fun s =>
    ((s.flushPorts ((List.range 16).filter (bitOf ports))).settleRelays).status r stOk

/-- ADOPTION_SCAN (R354): a port has reached ACTIVE. -/
def execAdoptionScan (p : Nat) (s : State) : Result :=
  s.inDatum fun s =>
    if p < 16 && s.lstate p = lsActive && s.thokaRuns then
      ({ s with mg := { s.mg with scans := kset s.mg.scans p [] } } : State).scanHop none p 0
    else s

/-- Another map entry with VALID = 1 of the arm holds the index (R133, R355). -/
def State.indexTaken (s : State) (p slot a idx : Nat) : Bool :=
  (List.range 1024).any fun k => k ≠ 64 * p + slot && s.shadow (LVL_MAP_VALID (k / 64) (k % 64)) = 1 &&
    s.shadow (LVL_MAP_ARM (k / 64) (k % 64)) = a && s.shadow (LVL_MAP_IDX (k / 64) (k % 64)) = idx

/-- The slot breaks the west-to-east order on its port, with the Stake where the last scan found it (R355). -/
def State.breaksOrder (s : State) (p slot m : Nat) : Bool :=
  let hops := (kget s.mg.scans p).getD []
  match hops.find? fun h => h.monument = m with
  | some h =>
    hops.any fun x => x.slot ≠ 0xFF &&
      ((decide (x.hop < h.hop) && !s.inOrder x.slot slot) || (decide (h.hop < x.hop) && !s.inOrder slot x.slot))
  | none => false

/-- ADOPT in a Datum (R355). -/
def State.adoptDatum (s : State) (r : Req) (p slot a idx m : Nat) : State :=
  let packet := adoptPacket false p slot a idx (s.tableAt p slot)
  if 16 ≤ p || 64 ≤ slot || 6 ≤ a || 1024 ≤ idx || s.indexTaken p slot a idx then s.status r stBadParam
  else if s.relayLimit p < 16 + packet.length then s.status r stBadParam
  else if ((kget s.mg.scans p).getD []).any (fun h => h.slot = slot) || s.breaksOrder p slot m then s.status r stBusy
  else if !s.relayRoom p then s.status r stQueueFull
  else s.relayStart (some r) (.adopt p slot a idx m) (byMonument p m) packet

/-- The block event that lasts while ADOPTED is 0 ends now (R281): only later frames count for deblock (R283, R289). -/
def State.endUnadopted (s : State) : State :=
  if s.on LVL_SIDX_ADOPTED then s else { s with sf := { s.sf with x := s.sf.x.forget s.now, y := s.sf.y.forget s.now } }

/-- The Stake's registers show its adoption (R354). -/
def State.showAdopted (s0 : State) (slot a idx : Nat) : State :=
  let s := s0.endUnadopted
  let s1 := [0, 1].foldl (fun s q => (s.put (TRV_SLOT_SLOT q) slot).put (TRV_SLOT_VALID q) 1) s
  (((s1.put LVL_SIDX_IDX idx).put LVL_SIDX_ARM a).put LVL_SIDX_ADOPTED 1).movePumps s

/-- Adoption ends manual mode (R184). -/
def State.endManual (s : State) : State :=
  if (List.range 4).any fun n => s.on (GS_CH_CTRL_MAN n) then
    ((List.range 4).foldl (fun s n => (s.put (GS_CH_CTRL_MAN n) 0).put (GS_CH_CTRL_MAN_ON n) 0) s).forceOff
  else s

/-- The Datum that a request in a Stake came from, in the SENDER format. -/
def reqDatum (r : Req) : Nat :=
  match r.origin with
  | .relay _ dest _ => dest
  | _ => 0

/-- An adoption or a confirmation at a Stake (R354, R355): `old` is the monument ID that the slot had. -/
def State.adoptStake (s : State) (r : Req) (confirm : Bool) (p slot a idx old : Nat) : State :=
  let same : Bool := s.mg.mine.any fun m => m.2 = (slot, a, idx)
  if 16 ≤ p || 64 ≤ slot || 6 ≤ a || 1024 ≤ idx then s.status r stBadParam
  else if confirm then
    if same then (s.showAdopted slot a idx).endManual.status r stOk else s.status r stBadParam
  else if s.on LVL_SIDX_ADOPTED then s.status r (if same then stOk else stBusy)
  else
    let s1 : State := { s with mg := { s.mg with mine := some (reqDatum r, slot, a, idx) } }
    (((s1.showAdopted slot a idx).endManual).adoptEvent s1.monument old p slot a).status r stOk

/-- The request is an adoption that a Datum has relayed to this Stake. -/
def State.adoptWaits (s : State) (r : Req) : Bool :=
  match r.origin with
  | .relay q _ id => (s.port q).messages.any fun m => m.msgId = id && (Packet.ofBytes m.bytes).opcode = adoptOpcode
  | _ => false

/-- ADOPT (R354, R355): in a Datum the command, with the monument ID of the Stake; in a Stake the message that the Datum
relays, with the monument ID that the slot had, and `confirm` for a confirmation. The opcode 0x0802 itself is one of a Datum
(R338). -/
def execAdopt (r : Req) (confirm : Bool) (p slot a idx monument : Nat) (s : State) : Result :=
  s.command r true (s.adoptWaits r) false fun s =>
    if s.role = .datum then s.adoptDatum r p slot a idx monument else (s.adoptStake r confirm p slot a idx monument).tryDeblock

/-! ### Transactions in a Datum -/

/-- The handle after a handle (R346). -/
def nextTxid (n : Nat) : Nat := if n % 65536 = 65535 then 1 else n % 65536 + 1

/-- TXN_BEGIN (R346). -/
def execTxnBegin (r : Req) (scope : Nat) (t : Target) (s : State) : Result :=
  s.command r true false false fun s =>
    if 2 ≤ scope || (scope = 1 && (!t.legal || t.mode = 2)) then s.status r stBadParam
    else if 8 ≤ s.mg.txns.length then s.status r stBusy
    else
      let id := s.mg.txnNext
      ({ s with mg := { s.mg with
          txnNext := nextTxid id, txns := s.mg.txns ++ [{ id := id, scope := scope, target := t }] } } : State).reply r stOk
        (le 2 id ++ [0, 0])

/-- A command on an open transaction: BAD_PARAM for a handle that no open transaction has. -/
def State.onTxn (s : State) (r : Req) (txid : Nat) (f : State → Txn → State) : Result :=
  s.command r true false false fun s =>
    match s.txn txid with
    | some t => f s t
    | none => s.status r stBadParam

/-- TXN_PREPARE (R348, R349). -/
def execTxnPrepare (r : Req) (txid : Nat) (s : State) : Result :=
  s.onTxn r txid fun s t =>
    if t.scope = 0 then
      if s.writesLocked t.writes then s.status r stLocked
      else if t.state ≠ txOpen then s.status r stBusy
      else
        let m := s.checkWrites t.writes
        (s.setTxn { t with refused := m }).reply r stOk (le 4 m)
    else
      let st := s.relayCheck t.target (sprepPacket t 0)
      if st = stBadParam then s.status r st
      else if t.state = txFailed || t.state = txCommitted then s.status r stBusy
      else if st ≠ stOk then s.status r st
      else s.relayStart (some r) (.sprep txid 1) t.target (sprepPacket t 0)

/-- Ticks run, and TICK of a commit lies less than the LEAD or SLEAD ticks ahead (R348, R349). -/
def State.tooSoon (s : State) (tick : Nat) (lead : Fld) : Bool :=
  s.on TB_STAT_TICK_RUN && !s.ticksAhead tick (s.get lead)

/-- TXN_COMMIT of a local transaction (R348), with its checks in the order of R339. -/
def State.commitLocal (s : State) (r : Req) (t : Txn) (imm : Bool) (tick : Nat) : State :=
  if s.checkWrites t.writes ≠ 0 || (!imm && s.tooSoon tick TXN_CFG_LEAD) then s.status r stBadParam
  else if s.writesLocked t.writes then s.status r stLocked
  else if t.state ≠ txOpen then s.status r stBusy
  else if imm then (s.applyTxn t).status r stOk
  else if !s.on TB_STAT_TICK_RUN then s.status r stBusy
  else (s.setTxn { t with state := txCommitted, tick := tick % 2 ^ 32 }).status r stOk

/-- TXN_COMMIT of a Stake-scope transaction (R349), with its checks in the order of R339: it completes at the start of its tick. -/
def State.commitStakes (s : State) (r : Req) (t : Txn) (imm : Bool) (tick : Nat) : State :=
  let t1 : Txn := { t with state := txCommitted, tick := tick % 2 ^ 32, got := [], req := some r }
  let st := s.relayCheck t.target (scommitPacket t1)
  if imm || s.tooSoon tick TXN_CFG_SLEAD || st = stBadParam then s.status r stBadParam
  else if t.state ≠ txPrepared || !s.on TB_STAT_TICK_RUN then s.status r stBusy
  else if st ≠ stOk then s.status r st
  else (s.setTxn t1).relayStart none (.scommit t.id) t.target (scommitPacket t1)

/-- TXN_COMMIT (R348, R349). -/
def execTxnCommit (r : Req) (txid : Nat) (imm : Bool) (tick : Nat) (s : State) : Result :=
  s.onTxn r txid fun s t => if t.scope = 0 then s.commitLocal r t imm tick else s.commitStakes r t imm tick

/-- TXN_ROLLBACK (R346, R349). -/
def execTxnRollback (r : Req) (txid : Nat) (s : State) : Result :=
  s.onTxn r txid fun s t =>
    let st := if t.scope = 0 then stOk else s.relayCheck t.target (sabortPacket t)
    if st = stBadParam then s.status r st
    else if t.state = txCommitted then s.status r stBusy
    else if t.scope = 0 then ((s.closeTxn t txRolledBack).count TXN_ROLLBACKS).status r stOk
    else if st ≠ stOk then s.status r st
    else ((s.closeTxn t txRolledBack).count TXN_ROLLBACKS).relayStart (some r) (.sabort txid) t.target (sabortPacket t)

/-- TXN_STATUS (R346): of an open transaction or one of the last 16 that ended. -/
def execTxnStatus (r : Req) (txid : Nat) (s : State) : Result :=
  s.command r true false false fun s =>
    match (s.mg.txns ++ s.mg.closed).find? fun t => t.id = txid with
    | some t => s.reply r stOk ([t.state, 0] ++ le 2 t.writes.length ++ le 4 t.tick ++ le 4 t.refused)
    | none => s.status r stBadParam

/-- TXN_IDLE_EXPIRY (R346): no command for TXN_IDLE seconds. -/
def execTxnIdleExpiry (txid : Nat) (s : State) : Result :=
  s.inDatum fun s =>
    match s.txn txid with
    | some t =>
      if t.state = txCommitted then s
      else
        let s1 := (s.closeTxn t txRolledBack).count TXN_EXPIRED
        if t.scope = 0 then s1 else s1.relayStart none (.sabort txid) t.target (sabortPacket t)
    | none => s

/-- The local transactions committed for tick `k`, by its low 32 bits. -/
def State.dueTxns (s : State) (k : Nat) : List Txn :=
  s.mg.txns.filter fun t => t.scope = 0 && t.state = txCommitted && t.tick = k % 2 ^ 32

/-- The local transactions of the tick that starts apply (R348). -/
def State.applyDue (s : State) : State :=
  (s.dueTxns s.tb.tick).foldl (fun s t => s.atStart fun s => s.applyTxn t) s

/-- TXN_TICK_APPLY (R348): between a cut-off and the tick start that follows, the transactions of that tick write loop data; the
rest of them applies at the tick start (TICK_START). -/
def execTxnTickApply (s : State) : Result :=
  s.inDatum fun s =>
    if s.on TB_STAT_TICK_RUN && s.tb.started && s.tb.cutDone then
      ((s.dueTxns (s.tb.tick + 1)).filter fun t => !t.loopDone).foldl
        (fun s t => (s.loopWrites t.writes).setTxn { t with loopDone := true }) s
    else s

/-- A Stake-scope commit completes at the start of its tick (R349). -/
def State.commitEnd (s : State) (t : Txn) : State :=
  let missing := (s.unanswered t).length
  let s1 : State := { s with mg := { s.mg with relays := s.mg.relays.filter fun q => q.kind ≠ .scommit t.id } }
  let data := (replyEntries (s.wantsOf t.target) t.got).flatMap Entry.bytes
  if missing = 0 then ((s1.closeTxn t txDone).count TXN_COMMITS).replyOpt t.req stOk true data
  else ((((s1.closeTxn t txPartial).count TXN_PARTIAL).countN TXN_MISSED missing).raise 195).replyOpt t.req stTimeout true data

/-- The answers of relays of a commit that still run count (R349). -/
def State.gatherCommit (s : State) (t : Txn) : Txn :=
  let got := (s.mg.relays.filter fun q => q.kind = .scommit t.id).flatMap (·.got)
  { t with got := t.got ++ got.filter fun e => !t.got.any fun x => x.port = e.port && x.slot = e.slot }

/-- TXN_COMMIT_COMPLETE (R349). -/
def execTxnCommitComplete (s : State) : Result :=
  s.inDatum fun s =>
    if s.on TB_STAT_TICK_RUN && s.tb.started then
      (s.mg.txns.filter fun t => t.scope = 1 && t.state = txCommitted && s.reached t.tick).foldl
        (fun s t => s.commitEnd (s.gatherCommit t)) s
    else s

/-! ### Transactions in a Stake (R349) -/

/-- The Stake keeps nothing of a transaction. -/
def State.dropHeld (s : State) : State := { s with mg := { s.mg with held := none } }

/-- The status of one write at a prepare. -/
def State.sprepStatus (s : State) (e : Nat × Nat) : Nat :=
  let st := s.addrStatus e.1
  if st ≠ stOk then st
  else if inMemory e.1 || e.1 < 0x10000 || !s.cfgTarget e.1 e.2 || !s.legalWord (cfgFields e.1) e.2 then stBadParam
  else if s.lockedWord (cfgFields e.1) e.2 then stLocked
  else stOk

/-- The writes held so far; with the last part the group checks decide (R349). -/
def State.keepPart (s : State) (r : Req) (txid total : Nat) (ws : KMap Nat) : State :=
  if ws.length < total then
    ({ s with mg := { s.mg with held := some { txid := txid, total := total, writes := ws } } } : State).reply r stOk
      (le 4 ws.length)
  else if s.checkWrites ws ≠ 0 then s.dropHeld.status r stBadParam
  else
    ({ s with mg := { s.mg with
        held := some { txid := txid, total := total, writes := ws, ready := true, since := s.tb.tick } } } : State).reply r
      stOk (le 4 ws.length)

/-- TXN_SPREP with the whole of a transaction, or its first or a further part. -/
def State.sprep (s : State) (r : Req) (txid total : Nat) (first : Bool) (writes : List (Nat × Nat)) : State :=
  let count (n : Nat) : List Nat := le 4 n
  match (writes.map s.sprepStatus).find? (· ≠ stOk), s.mg.held with
  | bad, some h =>
    if h.ready && h.txid ≠ txid then s.status r stBusy
    else if h.ready then
      if h.total = total then s.reply r stOk (count h.writes.length) else s.status r stBusy
    else
      match bad with
      | some st => s.dropHeld.status r st
      | none =>
        if !first && h.txid ≠ txid then s.dropHeld.status r stBusy
        else s.keepPart r txid total (writes.foldl (fun m e => kset m e.1 (e.2 % 2 ^ 32)) (if first then [] else h.writes))
  | some st, none => s.status r st
  | none, none =>
    if first then s.keepPart r txid total (writes.foldl (fun m e => kset m e.1 (e.2 % 2 ^ 32)) [])
    else s.status r stBusy

/-- TXN_SPREP (R349). -/
def execTxnSprep (r : Req) (txid total : Nat) (first : Bool) (writes : List (Nat × Nat)) (s : State) : Result :=
  s.command r false true false fun s => s.sprep r txid total first writes

/-- TXN_SCOMMIT (R349, R360): one that comes too late discards the writes. -/
def execTxnScommit (r : Req) (txid tick : Nat) (s : State) : Result :=
  s.command r false true false fun s =>
    match s.mg.held with
    | some h =>
      if h.txid ≠ txid || !h.ready then s.status r stBusy
      else if h.tick.isSome then s.status r (if h.tick = some (tick % 2 ^ 32) then stOk else stBusy)
      else if s.ticksAhead tick 1 then
        ({ s with mg := { s.mg with held := some { h with tick := some (tick % 2 ^ 32) } } } : State).status r stOk
      else (s.dropHeld.raise 195).status r stBadParam
    | none => s.status r stBusy

/-- TXN_SABORT (R349, R360). -/
def execTxnSabort (r : Req) (txid : Nat) (s : State) : Result :=
  s.command r false true false fun s =>
    match s.mg.held with
    | some h => if h.txid = txid && h.tick.isNone then s.dropHeld.status r stOk else s.status r stBusy
    | none => s.status r stBusy

/-- The writes of a prepared transaction apply; a write that has been locked since is left out, and source 194 is raised
(R360). -/
def State.applyHeld (s : State) (h : Held) : State :=
  let ws := h.writes.filter fun e => !s.lockedWord (cfgFields e.1) e.2
  let r := s.dropHeld.applyWrites ws
  if r.1 ≠ 0 || ws.length ≠ h.writes.length then r.2.raise 194 else r.2

/-- TXN_STAKE_APPLY (R349): tick k has come by the Stake's count. Without TICK_LOCK the writes are discarded. -/
def execTxnStakeApply (s : State) : Result :=
  s.inStake fun s =>
    match s.mg.held with
    | some h =>
      match h.tick with
      | some k =>
        if !s.on TB_STAT_TICK_LOCK then s.dropHeld.raise 195
        else if k = s.tb.tick % 2 ^ 32 then s.atStart fun s => s.applyHeld h
        else s
      | none => s
    | none => s

/-- TXN_PREPARE_TIMEOUT (R349): PTO ticks without a commit or an abort. -/
def execTxnPrepareTimeout (s : State) : Result :=
  s.inStake fun s =>
    match s.mg.held with
    | some h =>
      if h.ready && h.tick.isNone && s.get TXN_SCFG_PTO ≤ (s.tb.tick + 2 ^ 64 - h.since) % 2 ^ 64 then s.dropHeld.raise 195
      else s
    | none => s

end Sys2Proof.Machine
end

