-- ==== Sys2Proof/Machine/Frames.lean ====
section
/-! DEFINITION. The frames of a Datum: sending (R94 to R100, R114, R274), and receiving with closure, telemetry, up records and
the comparison with the twin (R109, R124 to R127, R134, R177, R261). -/

namespace Sys2Proof.Machine

/-! ### Sending -/

/-- The PDU of a channel for port `p`; 16 bytes of 0x00 in its place where the channel has not delivered it (R100, R274). -/
def State.pdu (s : State) (y : Bool) (c : Chan) (cnt p : Nat) : Pdu :=
  if (if y then s.sf.missY else s.sf.missX) then {}
  else Pdu.sealed y
    { chan := if y then 0x59 else 0x58, cmd := if c.permit then 0xA5 else 0x5A, arms := c.arms, cnt := cnt, src := s.sender p }

/-- The entry of arm `a` before the first decision: the apply offset of an enabled arm alone (R35, R138). -/
def State.firstEntry (s : State) (a : Nat) : ArmEntry :=
  if s.armEn a then ArmEntry.sealed { apply := s.cfg (TB_APPLY_A a) } else zeroEntry

/-- The arm block of the frame of this tick (R99). -/
def State.armBlock (s : State) : List ArmEntry :=
  if s.frm.nextArms.isEmpty then (List.range 6).map s.firstEntry else s.frm.nextArms

/-- The entries of a first frame are issued: they are what a repeat repeats (R136). No decision stands behind them (R146). -/
def State.issueFirst (s : State) : State :=
  if s.frm.nextArms.isEmpty then
    let s1 := (List.range 6).foldl (fun t a => t.setArm a { t.armSt a with last := some (s.firstEntry a), expectOn := false }) s
    { s1 with frm := { s1.frm with nextArms := s.armBlock } }
  else s

/-- FLAGS of a header (R96, R262). -/
def State.frameFlags (s : State) : Nat :=
  (s.on TW_STAT_MATCH && s.lease ≠ lsOff).toNat + 2 * s.sch.stale.toNat + 4 * (s.lease = lsClaim || s.lease = lsHold).toNat

/-- The header of the frame on port `p` (R96). -/
def State.header (s : State) (p : Nat) : Header :=
  Header.sealed
    { seq := s.frm.seq, tick := s.tick32, sender := s.sender p, fmt := s.cfg (TRV_FCFG_FMT p), flags := s.frameFlags
      epoch := s.get LS_EPOCH_EPOCH, slots := s.cfg (TRV_FCFG_SLOTS p), msize := s.cfg (TRV_FCFG_MSIZE p), hcrc := 0 }

/-- The frame on port `p` with its management slot (R94, R111). -/
def State.frameOf (s : State) (p : Nat) (m : MgmtSlot) : Frame :=
  let slots := List.replicate (s.cfg (TRV_FCFG_SLOTS p)) ({} : TeleSlot)
  { hdr := s.header p, arms := s.armBlock, pduX := s.pdu false s.sf.x s.sf.cntX p, pduY := s.pdu true s.sf.y s.sf.cntY p
    mgmt := m, slots := slots, wcount := 0, rcrc := regionCrc slots 0 }

/-- A frame of `n` symbols starts on port `p` now. -/
def State.startFrame (s : State) (p n : Nat) : State :=
  let s1 := s.absorb p (s.idlesSince p)
  s1.setLink p { s1.link p with sofAt := s1.now, taken := n }

/-- Symbols of a frame on the line (R94). -/
def frameSymbols (f : Frame) : Nat := 274 + f.m + 16 * f.hdr.slots

/-- TICKMARK leaves on port `p` directly before an SOF (R34), in place of two IDLE symbols (R64). -/
def State.markOut (s : State) (p : Nat) : State := (s.count (TMARK_FWD_CNT p)).sendSet p 2 (.tickmark p)

/-- The DA set of a Datum, directly after the EOF of its frame (R82). -/
def State.announceDelay (s : State) (p : Nat) : State :=
  s.sendSet p 11 (.da p (some (Da.sealed { acc := 0, far := 0, accValid := true, farValid := false, crc := 0 })))

/-- The frame leaves on port `p`, after TICKMARK if `mark` says so; while the block holds a BLOCK pair follows its SOF on the
ports of affected arms (R63, R114). -/
def State.sendFrame (s0 : State) (mark : Bool) (blocked : List Nat) (p : Nat) : State :=
  let s := if mark then s0.markOut p else s0
  let r := s.fillMgmt p
  let f := r.1.frameOf p r.2
  let s1 := r.1.setPort p { r.1.port p with sentSeq := f.hdr.seq, sentArms := f.arms.map (·.acrc) }
  let s2 := (s1.startFrame p (frameSymbols f)).emit (.frame p f)
  ((if blocked.contains p then s2.ownPair p else s2).announceDelay p).blindGap p

/-- This Datum builds no frame for the tick: it is in JOIN, or its join completed at this tick start (R264). -/
def State.buildsNone (s : State) : Bool := s.mode = twJoin || s.tw.joinTick = some s.tb.tick

/-- PDUs that the channels have not delivered by the tick start count (R274). -/
def State.countMiss (s : State) : State :=
  let n := s.sf.missX.toNat + s.sf.missY.toNat
  if n = 0 then s else s.countN SF_PDU_MISS n

/-- The SEQ of the frames of this tick (R97): one more, or on board B, while the Twin link is up, that which the last HEARTBEAT
gives for this tick number. -/
def State.frameSeq (s : State) : Nat :=
  match (if s.board = 1 && s.twinUp then s.tw.hb else none) with
  | some m => (m.seq + s.tb.tick + 2 ^ 64 - m.tick % 2 ^ 64) % 2 ^ 32
  | none => (s.frm.seq + 1) % 2 ^ 32

/-- The frames of a tick start (R94, R97, R224, R274): each channel fixes its PDU, SEQ increases if frames are sent, and the
scheduler shows their STALE. Without a frame no TICKMARK leaves, and BLOCK waits for no SOF. The station time of the TICKMARK is
kept for reading: its first symbol leaves two symbols of 1.6 ns before the SOF (R50). -/
def State.sendFrames (s0 : State) : State :=
  let s : State := { s0 with tb := { s0.tb with mark := false, sofDue := none } }
  let s1 : State := { s with
    sf := { s.sf with cntX := (s.sf.cntX + 1) % 2 ^ 32, cntY := (s.sf.cntY + 1) % 2 ^ 32 }
    frm := { s.frm with buildStopped := s.buildsNone } }
  let ps := (List.range 16).filter s1.portUp
  if s1.buildsNone || ps.isEmpty then (if s0.tb.sofDue = some true then s1.sendBlocks else s1)
  else
    let s1 : State := if s0.tb.mark then { s1 with tb := { s1.tb with tmarkTime := some (s1.tb.tickTime.subFrac 209715) } } else s1
    let s1 := s1.countMiss.issueFirst
    let s2 := ({ s1 with frm := { s1.frm with seq := s1.frameSeq } } : State).putB SCH_STAT_STALE_LAST s1.sch.stale
    let blocked := if s2.sf.x.permit && s2.sf.y.permit then [] else s2.blockPorts
    ps.foldl (fun s p => s.sendFrame s0.tb.mark blocked p) s2

/-- The ports at a tick start: nothing of the new tick has arrived. -/
def State.portsTick (s : State) : State :=
  (List.range 16).foldl (fun s p =>
    let o := s.port p
    if o.gotFrame || !o.slots.isEmpty then s.setPort p { o with gotFrame := false, slots := [] } else s) s

/-! ### Closure (R124, R125) -/

/-- Causes of R124 by their bit in TRV_FCAUSE. -/
def cNoFrame : Nat := 1
/-- HDR_CRC. -/
def cHdr : Nat := 2
/-- ARM_CRC. -/
def cArm : Nat := 3
/-- SAFE_CRC. -/
def cSafe : Nat := 4
/-- MGMT_CRC. -/
def cMgmt : Nat := 5
/-- TELE_CRC. -/
def cTele : Nat := 6
/-- COUNT. -/
def cCount : Nat := 7
/-- SENDER. -/
def cSender : Nat := 8
/-- SEQ. -/
def cSeq : Nat := 9
/-- TRANSIT. -/
def cTransit : Nat := 10
/-- TURNED. -/
def cTurned : Nat := 11

/-- The twin's SENDER on port `p` (R124). -/
def State.twinSender (s : State) (p : Nat) : Nat := 0x8000 + 0x100 * (1 - s.board) + 0x10 * s.clpos + p

/-- Transit of a frame whose SOF arrived at `at'`, in 1/16 ns. -/
def State.transit (s : State) (at' : Nat) : Int := (at' : Int) - 32 * s.tb.tickStart

/-- The closure check of a frame with a valid HCRC (R124). -/
def State.closureCauses (s : State) (p : Nat) (f : Frame) (at' : Nat) : List Nat :=
  let twinEnded := !s.cfgOn (TRV_CLOSE_TOPO p)
  (if f.hdr.sender = s.sender p then (if twinEnded then [cTurned] else [])
    else if !twinEnded || f.hdr.sender ≠ s.twinSender p then [cSender] else []) ++
  (if f.hdr.seq ≠ s.frm.seq then [cSeq] else []) ++
  (if f.arms.all ArmEntry.ok then [] else [cArm]) ++
  (if f.pduX.ok false && f.pduY.ok true then [] else [cSafe]) ++
  (if f.mgmt.ok f.m then [] else [cMgmt]) ++
  (if f.regionOk then [] else [cTele]) ++
  (if f.wcount = s.cfg (TRV_CLOSE_EXPECT p) then [] else [cCount]) ++
  (if s.on (TRV_STAT_DLY_VALID p) &&
      s.cfg (TRV_CLOSE_TOL p) < (s.transit at' - (s.get (TRV_CHAINDLY_DLY p) : Int)).natAbs then [cTransit] else [])

/-- The ports whose closure is checked: those that carry frames. -/
def State.closurePorts (s : State) : List Nat := (List.range 16).filter s.portUp

/-- The result of a closure check of port `p` (R124, R125), and route source 16 when it was the last of the tick
(R218). -/
def State.closed (s : State) (p : Nat) (causes : List Nat) : State :=
  let o := s.port p
  let s1 := s.setPort p { o with
    gotFrame := true, failRun := if causes.isEmpty then 0 else o.failRun + 1
    closeRaised := o.closeRaised && !causes.isEmpty }
  let s2 := s1.putB (TRV_CSTAT_PASS p) causes.isEmpty
  let s3 := if causes.isEmpty then s2 else s2.count (CLOSE_FAIL p)
  let s4 := causes.foldl (fun s b => s.put ⟨(TRV_FCAUSE_NO_FRAME p).addr, b, 1, 0⟩ 1) s3
  if s4.closurePorts.all fun q => (s4.port q).gotFrame then s4.routeEvent 16 else s4

/-- CLOSURE_PERSIST_FAULT (R125, R406). -/
def execClosurePersistFault (p : Nat) (s : State) : Result :=
  s.inDatum fun s =>
    let o := s.port p
    if p < 16 && s.cfg (TRV_CLOSE_PERSIST p) ≤ o.failRun && !o.closeRaised then
      (s.setPort p { o with closeRaised := true }).raise (48 + p)
    else s

/-- At the cut-off a port without a frame fails with NO_FRAME (R124). -/
def State.closeMissing (s : State) : State :=
  (s.closurePorts.filter fun p => !(s.port p).gotFrame).foldl (fun s p => (s.count (NO_FRAME p)).closed p [cNoFrame]) s

/-- The drop counter of a snapshot buffer counts one event, as R11 has it. -/
def PortSt.drop (o : PortSt) : PortSt :=
  if o.snapDrops + 1 < 0x7FFFFFFF then { o with snapDrops := o.snapDrops + 1 }
  else { o with snapDrops := 0x7FFFFFFF, snapOvf := true }

/-- The telemetry of the epoch goes to the data plane with the closure result, if a buffer is free (R21). Else it is
dropped and counted (R19). The spec names no register or wide-read item for that count: no command reads or clears it
(DESIGN CHOICE, log entry 89). -/
def State.snapshot (s : State) (p : Nat) (f : Frame) (causes : List Nat) : State :=
  let o := s.port p
  if 2 ≤ o.snaps.length then s.setPort p o.drop
  else s.setPort p { o with snaps := o.snaps ++ [{ epoch := s.tick32, causes := maskOf causes, slots := f.slots }] }

/-! ### Counters of a received frame -/

/-- The checksum counters of a frame with a valid HCRC. -/
def State.countErrors (s : State) (p : Nat) (f : Frame) : State :=
  let bad := (f.arms.filter fun e => !e.ok).length
  let badP := (!f.pduX.ok false).toNat + (!f.pduY.ok true).toNat
  let badS := (f.slots.filter fun t => t.wr = 0xA5 && !t.ok).length
  let add (s : State) (c : Fld) (n : Nat) : State := if n = 0 then s else s.countN c n
  let s1 := add (add (add s (ARM_CRC p) bad) (SAFE_CRC p) badP) (SLOT_CRC p) badS
  let s2 := if f.mgmt.ok f.m then s1 else s1.count (MGMT_CRC p)
  if f.regionOk then s2 else s2.count (TELE_CRC p)

/-- What TRV_CSTAT and TRV_TRANSIT show of the last frame. -/
def State.showFrame (s : State) (p : Nat) (f : Frame) (at' : Nat) : State :=
  ((((s.putB (TRV_CSTAT_TURNED p) (f.hdr.sender = s.sender p)).put (TRV_CSTAT_WCOUNT p) f.wcount).put (TRV_CSTAT_VSLOTS p)
    (f.slots.filter fun t => t.wr = 0xA5 && t.ok).length)).put (TRV_TRANSIT_DLY p) (ofSigned 32 (s.transit at'))

/-! ### The twin (R126, R256) -/

/-- The comparison of a frame of the twin with the own frame of the same SEQ; an entry whose ACRC fails gives no result
and leaves its bit (R126). -/
def State.compareArms (s : State) (p : Nat) (f : Frame) : State :=
  let o := s.port p
  if o.sentArms.isEmpty || f.hdr.seq ≠ o.sentSeq then s
  else
    let m := (f.arms.zipIdx).foldl (fun m e =>
      if !e.1.ok then m
      else if e.1.acrc = o.sentArms.getD e.2 0 then clrBitOf m e.2 else setBitOf m e.2) (s.get (TRV_CSTAT_MISMATCH p))
    let s1 := s.put (TRV_CSTAT_MISMATCH p) m
    if (f.arms.zipIdx).any fun e => e.1.ok && e.1.acrc ≠ o.sentArms.getD e.2 0 then s1.loseMatch else s1

/-- A frame of the twin (R126, R253, R256). -/
def State.twinFrame (s : State) (p : Nat) (f : Frame) : State :=
  if !s.isTwin f.hdr.sender then s
  else
    let s1 := if f.hdr.tick = s.tick32 then s.put TW_STAT_TWIN_ALIVE 1 else s
    s1.compareArms p f

/-! ### Telemetry (R134, R137, R177, R389) -/

/-- Slot `j` of a port's copies set. -/
def setSlot (l : List (Option TeleSlot)) (j : Nat) (t : TeleSlot) : List (Option TeleSlot) :=
  (l ++ List.replicate (j + 1 - l.length) none).set j (some t)

/-- A bypass request shown by a usable copy raises source 115 once (R177, R389): `k` numbers the request. -/
def State.request (s : State) (p k : Nat) (asked : Bool) : State :=
  let o := s.port p
  if !asked then
    if o.bypReq.contains k then s.setPort p { o with bypReq := o.bypReq.filter (· ≠ k) } else s
  else if o.bypReq.contains k then s
  else (s.setPort p { o with bypReq := o.bypReq ++ [k] }).raise 115

/-- A usable copy of the Stake in slot `j` of port `p`, which the recorder keeps as the latest (R315). A new one opens its arm's
select again. -/
def State.takeCopy (s0 : State) (p j : Nat) (t : TeleSlot) : State :=
  let s : State := { s0 with dr := { s0.dr with tele := kset s0.dr.tele (64 * p + j) t } }
  let o := s.port p
  let new := (o.slots.getD j none).isNone
  let s1 := s.setPort p { o with slots := setSlot o.slots j t }
  let s2 := if s1.on (LVL_MAP_ABSENT p j) then s1.put (LVL_MAP_ABSENT p j) 0 else s1
  let a := s2.cfg (LVL_MAP_ARM p j)
  let s3 := if new then s2.setArm a { s2.armSt a with
      sel := none, own := none, map := if s2.on (LVL_ARM_STAT_POSTED a) then some (s2.mapNow a) else none } else s2
  (s3.request p j (bitOf t.fsum 3)).request p (64 + j) (bitsOf t.fsum 10 8 = 3)

/-- One slot of a frame of this tick (R134). -/
def State.takeSlot (s : State) (p j : Nat) (t : TeleSlot) : State :=
  if t.wr ≠ 0xA5 || !t.ok || !s.cfgOn (LVL_MAP_VALID p j) then s
  else if t.avail && t.epoch ≠ s.tick32 then s.count LVL_EPOCH_ERR
  else s.takeCopy p j t

/-- The telemetry slots of a frame (R127, R134). -/
def State.takeSlots (s : State) (p : Nat) (f : Frame) : State :=
  if f.hdr.tick = s.tick32 then (f.slots.zipIdx).foldl (fun s e => s.takeSlot p e.2 e.1) s else s

/-! ### Up records (R104, R109, R260, R261) -/

/-- An up record (R104). -/
structure UpRec where
  src : Nat
  dest : Nat
  msgId : Nat
  num : Nat
  last : Bool
  data : List Nat
deriving DecidableEq, Repr

/-- The up records of a record area, of at most `n` records (R104). -/
def upRecords : Nat → List Nat → List UpRec
  | 0, _ => []
  | n + 1, a =>
    if a.length < 8 then []
    else
      let len := ofLe (slice a 6 2)
      { src := ofLe (slice a 0 2), dest := ofLe (slice a 2 2), msgId := a.getD 4 0, num := a.getD 5 0 % 128
        last := bitOf (a.getD 5 0) 7, data := slice a 8 len } :: upRecords n (a.drop (8 + len))

/-- An acknowledgement goes into the lease unit (R260, R261). -/
def State.takeAck (s : State) (p : Nat) (u : UpRec) : State :=
  let a : Ack := { epoch := ofLe (slice u.data 0 4), holder := ofLe (slice u.data 4 2), live := bitOf (u.data.getD 6 0) 0, tick := s.tb.tick }
  ({ s with tw := { s.tw with acks := kset s.tw.acks (64 * p + u.src % 64) a } } : State).count LS_ACK_RX

/-- A reply record is reassembled by SRC and MSGID; a whole reply goes to its relay (R109). -/
def State.takeReply (s : State) (p : Nat) (u : UpRec) : State :=
  let o := s.port p
  let mine (r : Reasm) : Bool := r.src = u.src && r.msgId = u.msgId
  let cur := o.upReasm.find? mine
  let rest := o.upReasm.filter fun r => !mine r
  let next : Option Reasm :=
    if u.num = 0 then some { src := u.src, msgId := u.msgId, nextSeg := 1, bytes := u.data, sender := 0, seq := 0 }
    else match cur with
      | some r => if r.nextSeg % 128 = u.num then some { r with nextSeg := r.nextSeg + 1, bytes := r.bytes ++ u.data } else none
      | none => none
  match next with
  | none => s.setPort p { o with upReasm := rest }
  | some r =>
    if u.last then (((s.setPort p { o with upReasm := rest }).relayAnswer p u.src u.msgId r.bytes).1).settleRelays
    else s.setPort p { o with upReasm := rest ++ [r] }

/-- The up records of a slot whose MCRC passes and whose DEST is this Datum (R109, R260). -/
def State.takeUp (s : State) (p : Nat) (f : Frame) : State :=
  if f.mgmt.ok f.m && f.mgmt.kind = 2 then
    ((upRecords 256 (slice f.mgmt.area 0 f.mgmt.used)).filter fun u => u.dest = s.sender p).foldl
      (fun s u => if bitOf u.src 14 then s.takeAck p u else s.takeReply p u) s
  else s

/-! ### Receiving -/

/-- A frame that arrives before the cut-off of a tick (R124). One whose header CRC fails hands over no snapshot (DESIGN CHOICE,
log entry 123). -/
def State.receiveFrame (s : State) (p : Nat) (f : Frame) (at' : Nat) : State :=
  let first := !(s.port p).gotFrame
  if !f.hdr.ok then
    let s1 := s.count (HDR_CRC p)
    if first then s1.closed p [cHdr] else s1
  else
    let s1 := ((s.count (FRM_RX p)).countErrors p f).showFrame p f at'
    let causes := s1.closureCauses p f at'
    let s2 := (s1.twinFrame p f).takeSlots p f
    let s3 := if first then (s2.closed p causes).snapshot p f causes else s2
    let s4 := if first && causes.contains cSeq && s3.isTwin f.hdr.sender then s3.loseMatch else s3
    s4.takeUp p f

/-- Symbols of a frame as cycles on the line, rounded up (R94). -/
def frameCycles (f : Frame) : Nat := (4 * frameSymbols f + 4) / 5

/-- DATUM_FRAME_RECEIVE (R64, R89, R122, R124): a frame whose SOF arrived at `at'`, in 1/16 ns, has arrived whole on port `p`. A
port that turns or echoes sends it back unchanged; `idles` is the number of IDLE symbols before its SOF that may be
deleted. -/
def execDatumFrameReceive (p : Nat) (f : Frame) (at' idles : Nat) (s : State) : Result :=
  s.inDatum fun s0 =>
    if s0.echoes p then s0.emit (.frame p f)
    else if 16 ≤ p || !s0.portUp p then s0
    else
      let s := s0.advance (at' / 32 + frameCycles f)
      let s1 := match s.outPort p with
        | some o => (s.absorb o idles).passOn o f
        | none => s
      if !s1.tb.started then (if f.hdr.ok then (s1.count (FRM_RX p)).takeUp p f else s1.count (HDR_CRC p))
      else if s1.tb.cutDone then s1.count (NO_FRAME p)
      else s1.receiveFrame p f at'

end Sys2Proof.Machine
end

