-- ==== Sys2Proof/Machine/Transport.lean ====
section
/-! DEFINITION. The transports: PCI Express queues and stream ring (R336, R337), UDP with the reply cache (R336), and
forwarding between the Datums of a cluster (R370). -/

namespace Sys2Proof

/-- A request that came by UDP or was forwarded: the UDP limits of R336 hold for it. -/
def Origin.byUdp : Origin → Bool
  | .udp _ => true
  | .fwd _ _ => true
  | _ => false

end Sys2Proof

namespace Sys2Proof.Machine

/-! ### Accepting a request -/

/-- The reply of a cached command is sent again (R336). -/
def State.resend (s : State) (c : Cached) : State :=
  match c.req.origin with
  | .udp src => s.sendUdp src c
  | .fwd entry key => s.sendMgmt { entry := entry, dest := entry, key := key, body := .reply (Reply.sealed
      { tag := c.req.tag, status := c.status, rflags := c.rflags, data := c.data, rcrc := 0 }) }
  | _ => s

/-- A request that came by UDP or was forwarded (R336, R339, R360): a repeated TAG is answered from the cache, or has no
effect while its command has not completed; a request to which 32 are pending is one for a full queue. -/
def State.acceptUdp (s : State) (r : Req) (k : Packet) : State :=
  match s.mg.cache.find? fun c => c.req = r with
  | some c => s.resend c
  | none =>
    if s.mg.reqs.contains r then s
    else
      let st := if 9120 < k.params.length then stBadParam else s.packetStatus k
      if st ≠ stOk then s.status r st
      else if 32 ≤ (s.mg.reqs.filter fun x => x.origin.byUdp && !s.mg.full.contains x).length then
        ({ s with mg := { s.mg with full := s.mg.full ++ [r] } } : State).waitReq r
      else s.waitReq r

/-! ### UDP (R336, R370) -/

/-- The origin key of a request to position `c` (R364): its source, an address of up to 128 bits with a port, and above it the
position, so that requests of one TAG to two positions are told apart (DESIGN CHOICE, log entry 135). -/
def originKey (src c : Nat) : Nat := src % 2 ^ 144 + 2 ^ 144 * c

/-- A UDP request that is forwarded to another position (R370). -/
def State.forward (s : State) (src c : Nat) (k : Packet) : State :=
  if (s.routeTo c).isNone then s.count FWD_DROP
  else
    let e := (originKey src c, k.tag)
    let s1 := (s.count FWD_CNT).sendMgmt { entry := s.clpos, dest := c, key := e.1, body := .request k }
    { s1 with mg := { s1.mg with fwd := s1.mg.fwd.filter (· ≠ e) ++ [e] } }

/-- UDP_REQUEST (R336, R370): a datagram to a UDP port, from a source. -/
def execUdpRequest (port src : Nat) (k : Packet) (s : State) : Result :=
  s.inDatum fun s =>
    let local' := s.acceptUdp { origin := .udp src, tag := k.tag } k
    if port = 20044 then local'
    else if 20045 ≤ port ∧ port < 20045 + 16 then
      if !s.cfgOn CL_CTRL_FWD_EN then s.count FWD_DROP
      else if port = 20045 + s.clpos then local'
      else s.forward src (port - 20045) k
    else s

/-- REPLY_CACHE_EXPIRY (R336): a reply has been kept for 1 s. -/
def execReplyCacheExpiry (r : Req) (s : State) : Result :=
  s.inDatum fun s => { s with mg := { s.mg with cache := s.mg.cache.filter fun c => c.req ≠ r } }

/-! ### Forwarding (R370) -/

/-- A reply of another position at the entry Datum goes to its UDP source, if it is still waited for. -/
def State.forwarded (s : State) (key : Nat) (r : Reply) : State :=
  if s.mg.fwd.contains (key, r.tag) then
    ({ s with mg := { s.mg with fwd := s.mg.fwd.filter (· ≠ (key, r.tag)) } } : State).sendUdp (key % 2 ^ 144)
      { req := { origin := .udp (key % 2 ^ 144), tag := r.tag }, status := r.status, rflags := r.rflags, data := r.data }
  else s

/-- MGMT_FORWARD (R364, R370): a MGMT message has arrived on Baseline link `d`; `ok` says that its CRC passes. -/
def execMgmtForward (d : Nat) (m : MgmtMsg) (ok : Bool) (s : State) : Result :=
  s.inDatum fun s =>
    if 4 ≤ d || s.lstate (17 + d) ≠ lsActive then s
    else if !ok then s.count CL_MSG_CRC
    else if m.dest ≠ s.clpos then s.sendMgmt m
    else match m.body with
    | .request k => s.acceptUdp { origin := .fwd m.entry m.key, tag := k.tag } k
    | .reply r => s.forwarded m.key r

/-- FORWARD_TIMEOUT (R370): 100 ms without a reply to the request forwarded under an origin key. -/
def execForwardTimeout (key tag : Nat) (s : State) : Result :=
  s.inDatum fun s =>
    if s.mg.fwd.contains (key, tag) then
      (s.forwarded key (Reply.sealed
        { tag := tag, status := stTimeout, rflags := s.get FC_STAT_PENDING, data := [], rcrc := 0 })).count FWD_TO
    else s

/-! ### PCI Express (R336, R337) -/

/-- A submission entry is taken up. -/
def State.acceptPcie (s : State) (q : Nat) (e : Nat × Nat × Packet) : State :=
  let r : Req := { origin := .pcie q e.1 e.2.1, tag := e.2.2.tag }
  let st := s.packetStatus e.2.2
  if st ≠ stOk then s.status r st else s.waitReq r

/-- SQ_TAIL_DOORBELL (R337): `entries` are the submission entries between the old and the new tail, each with RSP_MAX,
RSP_ADDR and the packet at REQ_ADDR. -/
def execSqTailDoorbell (q tail : Nat) (entries : List (Nat × Nat × Packet)) (s : State) : Result :=
  s.inDatum fun s =>
    let k := s.pq q
    if 4 ≤ q || !k.en || k.depth ≤ tail || entries.length ≠ (tail + k.depth - k.sqTail) % k.depth then s
    else entries.foldl (fun s e => s.acceptPcie q e) (s.setPq q { k with sqTail := tail, sqHead := tail })

/-- CQ_HEAD_DOORBELL (R337): completions that waited for room are written. -/
def execCqHeadDoorbell (q head : Nat) (s : State) : Result :=
  s.inDatum fun s =>
    let k := s.pq q
    if 4 ≤ q || !k.en || k.depth ≤ head then s
    else k.waiting.foldl (fun s c =>
      match c.req.origin with
      | .pcie _ rspMax rspAddr => s.complete q rspMax rspAddr c
      | _ => s) (s.setPq q { k with cqHead := head, waiting := [] })

/-- STREAM_READ_INDEX (R337). -/
def execStreamReadIndex (i : Nat) (s : State) : Result :=
  s.inDatum fun s =>
    if i < bitsOf s.mg.ring.cfg 28 16 then { s with mg := { s.mg with ring := { s.mg.ring with rd := i } } } else s

/-- A write to QCFG of queue `q` (R337): an attached queue starts empty. A DEPTH that R337 does not allow is ignored (DESIGN
CHOICE, log entry 113). -/
def State.wrQcfg (s : State) (q v : Nat) : State :=
  let k := s.pq q
  let depth := bitsOf v 15 8
  if depth < 2 ∨ 128 < depth then (if bitOf v 0 then s else s.setPq q { k with en := false })
  else
    let k1 := { k with en := bitOf v 0, depth := depth, vec := bitsOf v 21 16 }
    s.setPq q (if bitOf v 0 && !k.en then
      { k1 with sqHead := 0, sqTail := 0, cqTail := 0, cqHead := 0, phase := true, waiting := [] } else k1)

/-- A write to STR_CFG (R337): reserved bits are not kept; an attached ring starts empty. A count that R337 does not allow is
ignored (DESIGN CHOICE, log entry 113). -/
def State.wrStrCfg (s : State) (v : Nat) : State :=
  let r := s.mg.ring
  let n := bitsOf v 28 16
  if n < 2 ∨ 4096 < n then
    (if bitOf v 0 then s else { s with mg := { s.mg with ring := { r with cfg := r.cfg - r.cfg % 2 } } })
  else
    let r1 := { r with cfg := n * 2 ^ 16 + v % 2 }
    { s with mg := { s.mg with ring := if bitOf v 0 && r.cfg % 2 = 0 then { r1 with wr := 0, rd := 0, run := 0 } else r1 } }

/-- BAR_QUEUE_CONFIG (R337): a write to the attachment registers of BAR0. -/
def execBarQueueConfig (ofs v : Nat) (s : State) : Result :=
  s.inDatum fun s =>
    let v := v % 2 ^ 32
    if 0x100 ≤ ofs ∧ ofs < 0x180 ∧ ofs % 4 = 0 then
      let q := (ofs - 0x100) / 0x20
      let i := (ofs - 0x100) % 0x20 / 4
      let k := s.pq q
      if i = 4 then s.wrQcfg q v
      else if 4 < i || k.en then s
      else s.setPq q { k with base := kset k.base i v }
    else if ofs = 0x200 ∨ ofs = 0x204 then
      { s with mg := { s.mg with ring := { s.mg.ring with base := kset s.mg.ring.base ((ofs - 0x200) / 4) v } } }
    else if ofs = 0x208 then s.wrStrCfg v
    else if ofs = 0x20C then { s with mg := { s.mg with ring := { s.mg.ring with vec := v % 64 } } }
    else s

/-- The status mirror of BAR0, word by word (R337). -/
def State.mirror (s : State) : List Nat :=
  [s.tb.tick % 2 ^ 32] ++
    [FC_STAT_PENDING, FC_FIRST_SRC, SF_STAT_STATE, LS_STAT_STATE, TW_STAT_MATCH, TB_STAT_TICK_RUN].map
      (fun f => s.wordOf ((regFields f.addr).getD [])) ++
    [s.mg.fw.state + 256 * s.mg.fw.active, s.mg.ring.wr]

end Sys2Proof.Machine
end

