-- ==== Sys2Proof/Machine/Manage.lean ====
section
/-! DEFINITION. The opcodes of R338 that read and write registers, start measurements and tests, and tell of the device;
with the register writes that have a row of their own, the scrubber (R343) and the load of the configuration (R404). -/

namespace Sys2Proof.Machine

/-! ### Registers -/

/-- NOP (R338). -/
def execNop (r : Req) (s : State) : Result := s.command r true true true fun s => s.status r stOk

/-- READ (R334, R343). -/
def execRead (r : Req) (addr count : Nat) (s : State) : Result :=
  s.command r true true true fun s =>
    if count = 0 ∨ 2048 < count then s.status r stBadParam
    else
      let q := s.readWords addr count
      q.2.2.reply r q.1 (words q.2.1)

/-- WRITE (R334), or a write in a transaction (R346, R347), which a Stake does not have. -/
def execWrite (r : Req) (txid : Option Nat) (addr : Nat) (words : List Nat) (s : State) : Result :=
  s.command r true true false fun s =>
    if words.isEmpty || 2048 < words.length || (txid.isSome && s.role ≠ .datum) then s.status r stBadParam
    else
      let q := match txid with
        | some id => s.txnWrites id addr words
        | none => s.writeWords addr words
      q.2.2.reply r q.1 (le 4 q.2.1)

/-- MODIFY (R334), or one in a transaction. -/
def execModify (r : Req) (txid : Option Nat) (addr mask value : Nat) (s : State) : Result :=
  s.command r true true false fun s =>
    if txid.isSome && s.role ≠ .datum then s.status r stBadParam
    else
      let q := match txid with
        | some id => s.txnModify id addr mask value
        | none => s.modifyWord addr mask value
      q.2.2.reply r q.1 (if q.1 = stOk then le 4 q.2.1 else [])

/-- READ_WIDE (R345). -/
def execReadWide (r : Req) (item : Nat) (s : State) : Result :=
  s.command r true true false fun s =>
    let q := s.capture (item % 65536)
    match q.1 with
    | some ws => q.2.reply r stOk (le 2 item ++ le 2 ws.length ++ words ws)
    | none => q.2.status r stBadParam

/-- MB_REQ_WRITE (R345): a direct write of MB_REQ. -/
def execMbReqWrite (item : Nat) (s : State) : Result := s.byWrite true (wrMbReq (item % 65536))

/-- PLAT_READ (R338, R350). -/
def execPlatRead (r : Req) (ofs len : Nat) (s : State) : Result :=
  s.command r true true true fun s =>
    let b := s.plat
    if 8192 < len || b.length ≤ ofs then s.status r stBadParam else s.reply r stOk ((b.drop ofs).take len)

/-- STROBE (R342). -/
def execStrobe (r : Req) (groups : Nat) (s : State) : Result :=
  s.command r true true false fun s =>
    if 256 ≤ groups then s.status r stBadParam
    else
      let q := s.strobe groups
      q.2.reply r stOk (le 4 q.1)

/-- STROBE_FIRE (R342): a write to STB_FIRE. -/
def execStrobeFire (groups : Nat) (s : State) : Result := s.byWrite true (wrStbFire (groups % 256))

/-- LOCK_SET (R344): a write to SYS_LOCK. -/
def execLockSet (mask : Nat) (s : State) : Result := s.byWrite true (wrLock true (mask % 2048))

/-- CONFIG_PARITY_SCRUB (R343): the scrubber has found a mismatch in a copy of the configuration word at an address. -/
def execConfigParityScrub (addr : Nat) (shadow : Bool) (s : State) : Result :=
  s.inRun fun s =>
    if (cfgFields addr).isEmpty || s.addrStatus addr ≠ stOk then s
    else
      let s1 : State := { s with mg := { s.mg with parity := s.mg.parity.filter (· ≠ (addr, shadow)) ++ [(addr, shadow)] } }
      ((s1.put SYS_PAR_ADDR_ADDR addr).putB SYS_PAR_ADDR_SHADOW shadow).raise 192

/-! ### Firmware settings and the configuration store -/

/-- NETCFG (R336): settings kept in flash by their selector, set by data and read without. -/
def execNetcfg (r : Req) (sel : Nat) (data : List Nat) (s : State) : Result :=
  s.command r true false false fun s =>
    let s1 : State := if data.isEmpty then s else { s with mg := { s.mg with net := kset s.mg.net sel data } }
    s1.reply r stOk ((kget s1.mg.net sel).getD [])

/-- What the flash holds of adoption is taken (R354): the Datum's table, the Stake's record. -/
def State.loadAdoption (s : State) (a : AdoptStore) : State :=
  if s.role = .datum then
    { s with mg := { s.mg with table := a.table.foldl (fun m e => kset m e.1 e.2) s.mg.table } }
  else { s with mg := { s.mg with mine := a.mine } }

/-- The word enables a port of a Datum, the tick or the watchdog, or sets lock bits: Thoka writes it after the strobe (R404). -/
def State.actsLate (s : State) (addr : Nat) : Bool :=
  addr = WD_CFG_EN.addr || addr = SYS_LOCK_TIME.addr ||
    (s.role = .datum && (addr = TB_CTRL_TICK_EN.addr || (List.range 16).any fun p => addr = (TRV_CTRL_EN p).addr))

/-- CONFIG_LOAD (R344, R354, R390, R404): Thoka, started after PORn, writes the words of the configuration store and strobes every
group; only then come the words that enable ports, tick and watchdog, and the locks. In S2 it starts nothing. -/
def execConfigLoad (writes : List (Nat × Nat)) (locks : Nat) (store : AdoptStore) (s : State) : Result :=
  s.inRun fun s =>
    let f := s.mg.fw
    if !f.started || !f.load || 2 ≤ s.get SH_STAT_STAGE then s
    else
      let put (l : List (Nat × Nat)) (s : State) : State := ((l.foldl (fun s e => (s.writeWord e.1 e.2).2) s).strobe 255).2
      let s1 := s.loadAdoption store
      let s2 := put (writes.filter fun e => !s.actsLate e.1) s1
      let s3 := put (writes.filter fun e => s.actsLate e.1) s2
      let s4 := (wrLock true (locks % 2048) s3).2
      { s4 with mg := { s4.mg with fw := { s4.mg.fw with
        started := false, load := false, state := if f.state = 0 then 1 else f.state } } }

/-! ### Units of the device -/

/-- A command whose effect is that of a register write, with its status. -/
def State.viaWrite (s : State) (r : Req) (w : Write) : State :=
  let q := w s
  q.2.status r q.1

/-- LOOP_SWAP (R226, R338). -/
def execLoopSwap (r : Req) (tick : Nat) (s : State) : Result :=
  s.command r true false false fun s =>
    s.viaWrite r (thenWrite (fun s => (stOk, s.put LE_SWAP_TICK_TICK tick)) wrSwapReq)

/-- ARM_STATUS (R338). -/
def execArmStatus (r : Req) (a : Nat) (s : State) : Result :=
  s.command r true false false fun s =>
    if 6 ≤ a then s.status r stBadParam
    else s.reply r stOk (words ([LVL_ARM_STAT_K a, LVL_ARM_T_T a, LVL_ARM_SEL_NSEL a, LVL_ARM_DEV_EXPECT a].map
      fun f => s.valueAt f.addr))

/-- FB_READ (R308, R338): the complete records from a sequence number on. -/
def execFbRead (r : Req) (space count first : Nat) (s : State) : Result :=
  s.command r true true false fun s =>
    if 2 ≤ space ∨ 64 < count then s.status r stBadParam
    else
      let recs := ((List.range count).map fun i => ((first + i) % 2 ^ 32, s.fbSlot space ((first + i) % 2 ^ 32))).filter
        fun e => ofLe (slice e.2 8 4) = e.1 && e.2.getD 31 0 = 0xA5
      s.reply r stOk (le 2 recs.length ++ [0, 0] ++ recs.flatMap (·.2))

/-- FB_FREEZE (R309, R338). -/
def execFbFreeze (r : Req) (on : Nat) (s : State) : Result :=
  s.command r true true false fun s =>
    if 2 ≤ on then s.status r stBadParam else s.viaWrite r (wrFreeze (on = 1))

/-- DR_LIST (R338). -/
def execDrList (r : Req) (s : State) : Result :=
  s.command r true true false fun s =>
    s.reply r stOk (s.segments.flatMap fun i => le 4 (s.get (DR_SEG_STAT_STATE i)) ++ le 4 (s.seg i).rnum)

/-- DR_READ (R328, R338): `ecc` tells how many words ECC corrects and how many it cannot. -/
def execDrRead (r : Req) (rnum ofs len ecc : Nat) (s : State) : Result :=
  s.command r true true false fun s =>
    match s.segOfRec (rnum % 2 ^ 32) with
    | none => s.status r stBadParam
    | some i =>
      let b := (s.seg i).bytes
      if 8192 < len || b.length ≤ ofs then s.status r stBadParam
      else (s.drEcc ecc).reply r (if eccUnc ecc = 0 then stOk else stParity) ((b.drop ofs).take len)

/-- ADC_CAL (R194, R197, R338). -/
def execAdcCal (r : Req) (cal rot : Nat) (s : State) : Result :=
  s.command r true true false fun s =>
    if 16 ≤ cal ∨ 4 ≤ rot then s.status r stBadParam else s.viaWrite r (thenWrite (wrCalStart cal) (wrRotStart rot))

/-- GATE_TEST (R183, R338): the reply follows when the test has ended. -/
def execGateTest (r : Req) (sel ch : Nat) (s : State) : Result :=
  s.command r false true false fun s =>
    let q := wrTest sel ch s
    if q.1 = stOk then { q.2 with mg := { q.2.mg with test := some r } } else q.2.status r q.1

/-- BYPASS_FIRE (R181, R338): the arm write, and 1 µs later the fire write. -/
def execBypassFire (r : Req) (code : Nat) (s : State) : Result :=
  s.command r false true false fun s =>
    if code ≠ s.monument % 2 ^ 32 then s.status r stBadParam
    else s.viaWrite r (thenWrite (wrBypArm s.now) (wrBypFire (s.now + 500)))

/-- LEASE_STATUS (R338). -/
def execLeaseStatus (r : Req) (s : State) : Result :=
  s.command r true false false fun s =>
    s.reply r stOk (words ([LS_STAT_STATE, LS_EPOCH_EPOCH, TW_STAT_LSTATE].map fun f => s.valueAt f.addr))

/-- HANDOVER (R263, R338). -/
def execHandover (r : Req) (s : State) : Result := s.command r true false false fun s => s.viaWrite r wrHandover

/-- JOIN (R264, R338). -/
def execJoin (r : Req) (s : State) : Result := s.command r true false false fun s => s.viaWrite r wrJoin

/-- SAFE_STATUS (R338): three words, and nothing is cleared. -/
def execSafeStatus (r : Req) (s : State) : Result :=
  s.command r true true false fun s =>
    s.reply r stOk (words (if s.role = .datum then
        [s.valueAt SF_STAT_STATE.addr, s.valueAt SF_CAUSE_PORN.addr, s.valueAt SF_RSTINFO_RESULT.addr]
      else [s.valueAt SF_SSTAT_STATE.addr, s.valueAt SF_SCAUSE_PORN.addr, 0]))

/-! ### Identity (R353) -/

/-- STEPPING and ROLE as IDENT and ATTEST give them. -/
def State.stepRole (s : State) : List Nat := [0xB0, if s.role = .datum then 1 else 0]

/-- IDENT (R338, R353). -/
def execIdent (r : Req) (s : State) : Result :=
  s.command r true true true fun s =>
    s.reply r stOk (le 16 s.monument ++ s.stepRole ++ [0, 0] ++
      (List.range 64).map fun i => Config.pubKey s.monument i % 256)

/-- The bytes that ATTEST signs (R353); a Stake has no loop bank, and 0 stands for its CRC-32. -/
def State.attested (s : State) (nonce : List Nat) : List Nat :=
  [0x4E, 0x4C, 0x41, 0x54] ++ slice nonce 0 16 ++ le 16 s.monument ++ s.stepRole ++
    slice (s.image s.mg.fw.active).man 60 4 ++
    le 4 (if s.role = .datum then s.bankCrc (s.get LE_BANK_ACTIVE) else 0)

/-- ATTEST (R353). -/
def execAttest (r : Req) (nonce : List Nat) (s : State) : Result :=
  s.command r true true false fun s =>
    if nonce.length ≠ 16 then s.status r stBadParam
    else
      let m := s.attested nonce
      s.reply r stOk ((List.range 64).map fun i => Config.sign s.monument m i % 256)

end Sys2Proof.Machine
end

