-- ==== Sys2Proof/Machine/ImageLoad.lean ====
section
/-! DEFINITION. Images: loading, checking and activating them (R356 to R359), and the boot ROM (R373). -/

namespace Sys2Proof

/-! ### SHA-256 (R356) -/

/-- The round constants of SHA-256, in four parts. -/
def shaK0 : List Nat :=
  [0x428A2F98, 0x71374491, 0xB5C0FBCF, 0xE9B5DBA5, 0x3956C25B, 0x59F111F1, 0x923F82A4, 0xAB1C5ED5,
   0xD807AA98, 0x12835B01, 0x243185BE, 0x550C7DC3, 0x72BE5D74, 0x80DEB1FE, 0x9BDC06A7, 0xC19BF174]

/-- Round constants, part 2. -/
def shaK1 : List Nat :=
  [0xE49B69C1, 0xEFBE4786, 0x0FC19DC6, 0x240CA1CC, 0x2DE92C6F, 0x4A7484AA, 0x5CB0A9DC, 0x76F988DA,
   0x983E5152, 0xA831C66D, 0xB00327C8, 0xBF597FC7, 0xC6E00BF3, 0xD5A79147, 0x06CA6351, 0x14292967]

/-- Round constants, part 3. -/
def shaK2 : List Nat :=
  [0x27B70A85, 0x2E1B2138, 0x4D2C6DFC, 0x53380D13, 0x650A7354, 0x766A0ABB, 0x81C2C92E, 0x92722C85,
   0xA2BFE8A1, 0xA81A664B, 0xC24B8B70, 0xC76C51A3, 0xD192E819, 0xD6990624, 0xF40E3585, 0x106AA070]

/-- Round constants, part 4. -/
def shaK3 : List Nat :=
  [0x19A4C116, 0x1E376C08, 0x2748774C, 0x34B0BCB5, 0x391C0CB3, 0x4ED8AA4A, 0x5B9CCA4F, 0x682E6FF3,
   0x748F82EE, 0x78A5636F, 0x84C87814, 0x8CC70208, 0x90BEFFFA, 0xA4506CEB, 0xBEF9A3F7, 0xC67178F2]

/-- A 32-bit word rotated right. -/
def rotr (n x : Nat) : Nat := x / 2 ^ n + x % 2 ^ n * 2 ^ (32 - n)

/-- The exclusive or of three words. -/
def xor3 (a b c : Nat) : Nat := bxor (bxor a b) c

/-- The number that bytes make, most significant first. -/
def ofBe (bs : List Nat) : Nat := bs.foldl (fun v b => 256 * v + b % 256) 0

/-- `n` bytes of a number, most significant first. -/
def be (n v : Nat) : List Nat := (le n v).reverse

/-- The message padded to a multiple of 64 bytes. -/
def shaPad (m : List Nat) : List Nat :=
  m ++ [0x80] ++ List.replicate ((119 - m.length % 64) % 64) 0 ++ be 8 (8 * m.length)

/-- One more word of the message schedule; the newest sixteen words come newest first. -/
def shaNext (w : List Nat) : Nat :=
  let a := w.getD 14 0
  let b := w.getD 1 0
  (xor3 (rotr 17 b) (rotr 19 b) (b / 2 ^ 10) + w.getD 6 0 + xor3 (rotr 7 a) (rotr 18 a) (a / 2 ^ 3) + w.getD 15 0) % 2 ^ 32

/-- The message schedule, newest first. -/
def shaSchedule (block : List Nat) : List Nat :=
  iter (fun w => shaNext w :: w) 48 ((List.range 16).map fun i => ofBe (slice block (4 * i) 4)).reverse

/-- One round on the eight working words. -/
def shaRound (v : List Nat) (kw : Nat × Nat) : List Nat :=
  let g (i : Nat) : Nat := v.getD i 0
  let e := g 4
  let a := g 0
  let t1 := g 7 + xor3 (rotr 6 e) (rotr 11 e) (rotr 25 e) + bxor (band e (g 5)) (band (2 ^ 32 - 1 - e) (g 6)) + kw.1 + kw.2
  let t2 := xor3 (rotr 2 a) (rotr 13 a) (rotr 22 a) + xor3 (band a (g 1)) (band a (g 2)) (band (g 1) (g 2))
  [(t1 + t2) % 2 ^ 32, a, g 1, g 2, (g 3 + t1) % 2 ^ 32, e, g 5, g 6]

/-- The hash after a block. -/
def shaBlock (h block : List Nat) : List Nat :=
  let v := ((shaK0 ++ shaK1 ++ shaK2 ++ shaK3).zip (shaSchedule block).reverse).foldl shaRound h
  (h.zip v).map fun e => (e.1 + e.2) % 2 ^ 32

/-- The initial hash. -/
def shaInit : List Nat :=
  [0x6A09E667, 0xBB67AE85, 0x3C6EF372, 0xA54FF53A, 0x510E527F, 0x9B05688C, 0x1F83D9AB, 0x5BE0CD19]

/-- SHA-256 of bytes. -/
def sha256 (m : List Nat) : List Nat := ((pieces 64 (shaPad m)).foldl shaBlock shaInit).flatMap (be 4)

end Sys2Proof

namespace Sys2Proof.Machine

/-! ### Checking (R356, R357) -/

/-- The manifest has its magic bytes and passes its CRC (R356). -/
def Image.sealed (m : Image) : Bool :=
  slice m.man 0 4 = [0x4E, 0x4C, 0x49, 0x4D] && ofLe (slice m.man 60 4) = crc32 (slice m.man 0 60)

/-- LENGTH (R356). -/
def Image.bodyLen (m : Image) : Nat := ofLe (slice m.man 16 4)

/-- KIND (R356). -/
def Image.kind (m : Image) : Nat := m.man.getD 4 0

/-- A Traverse version lies in the range of the manifest (R356). -/
def Image.covers (m : Image) (v : Nat) : Bool := (m.man.getD 6 0 ≤ v) && v ≤ m.man.getD 7 0

/-- The stepping is one that the image supports (R356). -/
def Image.stepOk (m : Image) : Bool := m.man.getD 5 0 ≤ 0xB0

/-- The ABI range of `m` covers that of the loop program `b`. -/
def Image.coversAbi (m b : Image) : Bool := (m.abiMin ≤ b.abiMin) && b.abiMax ≤ m.abiMax

/-- The body of image `i`: a loop program lies in its bank. -/
def State.bodyOf (s : State) (i : Nat) : List Nat :=
  let m := s.image i
  if 2 ≤ i then memBytes s.mem (loopProgBase + (i - 2) * bankSize) m.bodyLen else (m.bytes.drop 64).take m.bodyLen

/-- MCRC, LENGTH and DIGEST of image `i` (R357). -/
def State.imageSound (s : State) (i : Nat) : Bool :=
  let m := s.image i
  m.sealed && m.len = 64 + m.bodyLen && (i < 2 || m.bodyLen ≤ bankSize) && sha256 (s.bodyOf i) = slice m.man 20 32

/-- The ports in ACTIVE. -/
def State.activePorts (s : State) : List Nat := (List.range s.nPorts).filter fun p => s.lstate p = lsActive

/-- Image `i` is of the kind that its place takes, and covers the running partners (R357). -/
def State.imageCovers (s : State) (i : Nat) : Bool :=
  let m := s.image i
  if 2 ≤ i then m.kind = 2 && (s.image s.mg.fw.active).coversAbi m
  else if s.role = .datum then
    m.kind = 0 && m.stepOk && (s.activePorts.all fun p => m.covers (s.get (TRV_STAT_VER p)) && m.covers (s.cfg (TRV_FCFG_FMT p))) &&
      (!(s.image s.activeBank).sealed || m.coversAbi (s.image s.activeBank)) &&
      (!s.on LE_BANK_IDLE_OK || m.coversAbi (s.image s.idleBank))
  else m.kind = 1 && m.stepOk && s.activePorts.all fun p => m.covers (s.get (TRV_STAT_VER p))

/-- Image `i` changed. -/
def State.setImage (s : State) (i : Nat) (m : Image) : State :=
  { s with mg := { s.mg with fw := { s.mg.fw with image := kset s.mg.fw.image i m } } }

/-- Firmware state changed. -/
def State.setFw (s : State) (f : FwSt) : State := { s with mg := { s.mg with fw := f } }

/-- An image is refused (R357). -/
def State.refuseImage (s : State) : State := (s.raise 196).event 5 (2 ^ 88)

/-! ### Loading (R356, R359) -/

/-- The firmware slot that is not running. -/
def State.idleSlot (s : State) : Nat := 1 - s.mg.fw.active

/-- The image that a TARGET names, if the role has it (R338). -/
def State.imgTarget (s : State) (target : Nat) : Option Nat :=
  if target = 0 then some s.idleSlot else if target = 1 ∧ s.role = .datum then some s.idleBank else none

/-- The image that is open may not be written: it is the running bank, or the slot that a trial goes back to. -/
def State.imgBusy (s : State) (i : Nat) : Bool :=
  if 2 ≤ i then i = s.activeBank else i = s.mg.fw.active || s.mg.fw.state = 2

/-- IMG_OPEN (R338, R356). That of the idle bank counts as a write to it (R226; DESIGN CHOICE, log entry 133). -/
def execImgOpen (r : Req) (target len : Nat) (s : State) : Result :=
  s.command r true true true fun s =>
    match s.imgTarget target with
    | none => s.status r stBadParam
    | some i =>
      if len < 64 || (2 ≤ i && 64 + bankSize < len) then s.status r stBadParam
      else if s.imgBusy i then s.status r stBusy
      else
        let s1 := (if 2 ≤ i then s.idleWritten else s).setImage i { len := len }
        (s1.setFw { s1.mg.fw with opened := some i }).status r stOk

/-- Bytes put into a list at an offset; what lies before and was never written is 0. -/
def putAt (l : List Nat) (ofs : Nat) (bs : List Nat) : List Nat :=
  l.take ofs ++ List.replicate (ofs - l.length) 0 ++ bs ++ l.drop (ofs + bs.length)

/-- Image bytes arrive; the body of a loop program goes into its bank. -/
def State.imgStore (s : State) (i ofs : Nat) (bytes : List Nat) : State :=
  let m := s.image i
  let s1 := s.setImage i { m with bytes := putAt m.bytes ofs bytes, checked := false }
  if 2 ≤ i then
    (s1.setMemBytes (loopProgBase + (i - 2) * bankSize + (ofs - 64)) (bytes.drop (64 - ofs))).idleWritten
  else s1

/-- IMG_DATA (R338, R356). -/
def execImgData (r : Req) (ofs : Nat) (bytes : List Nat) (s : State) : Result :=
  s.command r true true true fun s =>
    match s.mg.fw.opened with
    | none => s.status r stBusy
    | some i =>
      if (s.image i).len < ofs + bytes.length then s.status r stBadParam
      else if s.imgBusy i then s.status r stBusy
      else (s.imgStore i ofs bytes).status r stOk

/-- IMG_CHECK (R357): the spec gives RESULT no values, and it is a free value (log entry 8). -/
def execImgCheck (r : Req) (s : State) : Result :=
  s.command r true true true fun s =>
    match s.mg.fw.opened with
    | none => s.status r stBusy
    | some i =>
      if s.imgBusy i then s.status r stBusy
      else
        let data := (s.image i).man ++ le 4 (s.free (2 ^ 32 - 1))
        if s.imageSound i && s.imageCovers i then
          let s1 := s.used.setImage i { s.image i with checked := true }
          (if 2 ≤ i then s1.put LE_BANK_IDLE_OK 1 else s1).reply r stOk data
        else s.used.refuseImage.reply r stIncompatible data

/-! ### Firmware (R358) -/

/-- A Stake-scope commit awaits its tick, in the Datum that made it or in a Stake that holds it (R360). -/
def State.commitWaits (s : State) : Bool :=
  (s.mg.txns.any fun t => t.scope = 1 && t.state = txCommitted) || s.mg.held.any fun h => h.tick.isSome

/-- The requests that no command has started: those that nothing still waits on. -/
def State.notStarted (s : State) : List Req :=
  s.mg.reqs.filter fun r =>
    !(s.mg.relays.any (fun q => q.req = some r) || s.mg.txns.any (fun t => t.req = some r) || s.mg.test = some r)

/-- IMG_ACTIVATE (R358, R360): the check of R357 is made again, and the new slot starts in trial by a firmware reset. -/
def execImgActivate (r : Req) (target : Nat) (s : State) : Result :=
  s.command r true true true fun s =>
    let i := s.idleSlot
    if target ≠ 0 then s.status r stBadParam
    else if s.mg.fw.state = 2 || s.commitWaits || !(s.image i).checked then s.status r stBusy
    else if !(s.imageSound i && s.imageCovers i) then s.refuseImage.status r stIncompatible
    else
      let s1 := s.status r stOk
      let s2 := s1.notStarted.foldl (fun s q => s.status q stBusy) s1
      let s3 : State := { s2 with mg := { s2.mg with cache := [] } }
      (((s3.setFw { s3.mg.fw with state := 3, active := i, recovery := false, started := false, opened := none }).put
        SYS_RSTCAUSE_KIND 3).event 5 0)

/-- IMG_STATUS (R338): the versions, the active slot, and whether it is in trial. -/
def execImgStatus (r : Req) (s : State) : Result :=
  s.command r true true true fun s =>
    s.reply r stOk (le 4 (s.image 0).version ++ le 4 (s.image 1).version ++ le 4 s.mg.fw.active ++
      le 4 (if s.mg.fw.state = 2 then 1 else 0))

/-- The new firmware is in trial, or is about to start. -/
def State.inTrial (s : State) : Bool := s.mg.fw.state = 2 || s.mg.fw.state = 3

/-- FIRMWARE_CONFIRM (R358). -/
def execFirmwareConfirm (s : State) : Result :=
  s.inRun fun s =>
    if s.inTrial && s.thokaRuns then s.setFw { s.mg.fw with state := 1 } else s

/-- The boot ROM goes back to the old slot (R358). -/
def State.revert (s : State) : State :=
  (s.setFw { s.mg.fw with state := 0, active := s.idleSlot, started := false, opened := none }).raise 197

/-- The management processor has been reset: a trial ends, else the same slot starts again (R87, R358). -/
def State.processorReset (s : State) : State :=
  if s.inTrial then s.revert
  else s.setFw { s.mg.fw with state := 0, started := false, recovery := false, opened := none }

/-- TRIAL_TIMEOUT (R358, R390): the processor has reset in trial (`crashed`), or 10 s have passed, which do not count
in S2. -/
def execTrialTimeout (crashed : Bool) (s : State) : Result :=
  s.inRun fun s => if s.inTrial && (crashed || (s.get SH_STAT_STAGE < 2)) then s.revert else s

/-! ### The boot ROM (R373) -/

/-- The boot header is valid (R373). -/
def bootHeaderOk (h : List Nat) : Bool :=
  slice h 0 4 = [0x4E, 0x4C, 0x42, 0x48] && [1, 2, 4].contains (h.getD 4 0) && (h.getD 5 0 ≤ 1) && (5 ≤ h.getD 6 0) &&
    (h.getD 6 0 ≤ 20) && (h.getD 7 0 ≤ 1) && ofLe (slice h 60 4) = crc32 (slice h 0 60)

/-- The image in a slot, as the boot ROM reads it: it must be firmware of the role and for the stepping (R373). -/
def State.bootOk (s : State) (b : List Nat) : Bool :=
  let m : Image := { bytes := b }
  m.sealed && m.kind = (if s.role = .datum then 0 else 1) && m.stepOk && (64 + m.bodyLen ≤ b.length) &&
    sha256 ((b.drop 64).take m.bodyLen) = slice m.man 20 32

/-- Slot `i` starts: after PORn its configuration is still to be loaded; a new image starts in trial. -/
def State.startSlot (s : State) (i : Nat) : State :=
  let f := s.mg.fw
  s.setFw { f with active := i, recovery := false, started := f.load, state := if f.state = 3 then 2 else if f.load then 0 else 1 }

/-- BOOT_IMAGE_CHECK (R373): the boot ROM starts the active slot, else the other, else it stays in recovery. After PORn
the header names the active slot. A new slot that does not pass is left again (R358). -/
def execBootImageCheck (hdr slot0 slot1 : List Nat) (s : State) : Result :=
  s.inRun fun s =>
    let f := s.mg.fw
    if f.started || f.recovery || !(f.state = 0 || f.state = 3) then s
    else
      let i := if f.load && f.state = 0 then hdr.getD 7 0 % 2 else f.active
      let bytes (j : Nat) : List Nat := if j = 0 then slot0 else slot1
      let s1 := (s.setImage 0 { s.image 0 with bytes := slot0, len := slot0.length }).setImage 1
        { s.image 1 with bytes := slot1, len := slot1.length }
      if f.state = 3 then (if s1.bootOk (bytes i) then s1.startSlot i else s1.revert)
      else if !bootHeaderOk hdr then (s1.setFw { s1.mg.fw with recovery := true }).raise 27
      else if s1.bootOk (bytes i) then s1.startSlot i
      else if s1.bootOk (bytes (1 - i)) then (s1.startSlot (1 - i)).raise 26
      else (s1.setFw { s1.mg.fw with recovery := true }).raise 27

end Sys2Proof.Machine
end

