-- ==== Sys2Proof/Machine/Cluster.lean ====
section
/-! DEFINITION. The Datums of a cluster: alignment of ticks (R43, R364 to R366) and variables (R369). -/

namespace Sys2Proof.Machine

/-! ### The parent (R365) -/

/-- The number of 1 bits of a cluster position. -/
def ones4 (c : Nat) : Nat := ((List.range 4).filter (bitOf c)).length

/-- The DEPTH that neighbour `d` reports, if it is in ACTIVE and sends ALIGNED = 1. One that has sent nothing in four own ticks
does not send (DESIGN CHOICE, log entry 126). -/
def State.depthOf (s : State) (d : Nat) : Option Nat :=
  if s.lstate (17 + d) = lsActive then
    match kget s.cl.nb d with
    | some n => if n.msg.aligned && n.age < 4 then some n.msg.depth else none
    | none => none
  else none

/-- The aligned neighbour of the lowest DEPTH, the lowest link of those, among links. -/
def State.lowest (s : State) : List Nat → Option (Nat × Nat)
  | [] => none
  | d :: t =>
    match s.depthOf d, s.lowest t with
    | some x, some r => if x ≤ r.2 then some (d, x) else some r
    | some x, none => some (d, x)
    | none, r => r

/-- The parent, with its DEPTH and whether it is one that qualifies (R365). -/
def State.parent (s : State) : Option (Nat × Nat × Bool) :=
  match (List.range 4).find? fun d => s.depthOf d = some (ones4 s.clpos - 1) with
  | some d => some (d, ones4 s.clpos - 1, true)
  | none => (s.lowest (List.range 4)).map fun r => (r.1, r.2, false)

/-- The parent as CL_STAT shows it (R365); a DEPTH above 7 shows as 7 (DESIGN CHOICE, log entry 127). -/
def State.showParent (s0 : State) (d depth : Nat) (good : Bool) : State :=
  let s : State := { s0 with cl := { s0.cl with parent := some d, depth := depth + 1 } }
  let s1 := (s.put CL_STAT_PARENT d).put CL_STAT_DEPTH (min 7 (depth + 1))
  if good then s1.put CL_STAT_DEEP 0
  else if s.on CL_STAT_DEEP then s1 else (s1.put CL_STAT_DEEP 1).raise 25

/-! ### TICKALIGN (R43, R364 to R366) -/

/-- The grid of the benchmark moves (R33, R43): in its tick `k`, which is the present one here, or in the next. Before the
first tick the period and the anchor are taken as they are. -/
def State.followGrid (s : State) (m : TickAlign) : State :=
  let k0 := s.anchorRegs.2.2
  let old := s.cl.grid
  let s1 : State := { s with cl := { s.cl with grid := some (m.period, m.sec, m.ofs) } }
  if s.tb.started && (old.isSome || s.tb.period ≠ m.period) then
    let moved := old.any fun g => g.2 ≠ (m.sec, m.ofs)
    s1.changeGrid m.period (if moved then some (m.sec, m.ofs, k0) else none) (m.tick = s.tb.tick)
  else { s1 with tb := { s1.tb with period := m.period, anchorSec := m.sec, anchorOfs := m.ofs, anchorK := k0 } }

/-- Period and anchor are those of the benchmark; own registers that differ raise source 18 (R43). -/
def State.takeGrid (s : State) (m : TickAlign) : State :=
  let a := s.anchorRegs
  let differs := s.cfg TB_PERIOD_PERIOD ≠ m.period || a.1 ≠ m.sec || a.2.1 ≠ m.ofs
  let s1 : State := { s with cl := { s.cl with differs := differs } }
  let s2 := if s.cl.grid = some (m.period, m.sec, m.ofs) then s1 else s1.followGrid m
  if differs && !s.cl.differs then s2.raise 18 else s2

/-- The TICKALIGN of the parent is accepted: `x` is the tick start it gives, in 1/16 ns (R365, R366). -/
def State.acceptAlign (s : State) (d depth : Nat) (good : Bool) (m : TickAlign) (x : Int) : State :=
  let changed := s.cl.parent.any (· ≠ d)
  let s1 := ((s.showParent d depth good).takeGrid m).correction 2
  let s2 : State := { s1 with cl := { s1.cl with got := true, quiet := 0 } }
  let s3 := if s2.cfgOn TB_CTRL_TICK_EN then s2.put CL_STAT_ALIGNED 1 else s2
  s3.alignTo x m.tick changed

/-- TICKALIGN_RECEIVE (R365): `at'` is the arrival of its SOF on Baseline link `d`, in 1/16 ns; `ok` says that its CRC
passes. The benchmark takes no alignment. -/
def execTickalignReceive (d : Nat) (m : TickAlign) (at' : Nat) (ok : Bool) (s : State) : Result :=
  s.inDatum fun s =>
    if 4 ≤ d || s.lstate (17 + d) ≠ lsActive then s
    else if !ok then s.count CL_MSG_CRC
    else
      let x : Int := (at' : Int) - m.txofs - s.get (CL_BL_LINKDLY_VAL d)
      let s1 : State := { s with cl := { s.cl with nb := kset s.cl.nb d ({ msg := m, start := x.toNat } : Neighbour) } }
      if s.clpos = 0 then s1
      else match s1.parent with
      | some (q, depth, good) => if q = d then s1.acceptAlign d depth good m x else s1
      | none => s1

/-- ALIGNMENT_LOSS (R366): 8 consecutive ticks without an accepted TICKALIGN. -/
def execAlignmentLoss (s : State) : Result :=
  s.inDatum fun s =>
    if s.clpos ≠ 0 && s.on CL_STAT_ALIGNED && 8 ≤ s.cl.quiet then (s.put CL_STAT_ALIGNED 0).raise 24 else s

/-- FOLLOWER_REPHASE (R366): the next tick start takes the phase and number of the Datum that this one follows, and
TICKMARK precedes its frames (R34). -/
def execFollowerRephase (s : State) : Result :=
  s.inDatum fun s =>
    match s.cl.rephase with
    | some (x, k) =>
      let start := x / 32
      let j := if s.now < start || s.tb.period = 0 then 0 else (s.now - start) / s.tb.period + 1
      { s with
        cl := { s.cl with rephase := none }
        tb := { s.tb with
          nextStart := start + j * s.tb.period, nextSub := x % 32, nextTick := (k + j) % 2 ^ 64, markDue := true } }
    | none => s

/-- Ticks without an accepted TICKALIGN, at a tick start (R366). -/
def State.alignTick (s : State) : State :=
  { s with cl := { s.cl with
    got := false, quiet := if s.cl.got then 0 else s.cl.quiet + 1
    nb := s.cl.nb.map fun e => (e.1, { e.2 with age := e.2.age + 1 }) } }

/-- TICKALIGN leaves on every Baseline link in ACTIVE at a tick start (R364); TXOFS is a free value (log entry 8). -/
def State.sendAlign (s : State) : State :=
  ((List.range 4).filter fun d => s.lstate (17 + d) = lsActive).foldl (fun s d =>
    let a := s.anchorRegs
    let g := if s.clpos = 0 then (a.1, a.2.1) else (s.cl.grid.map (·.2)).getD (s.tb.anchorSec, s.tb.anchorOfs)
    let m : TickAlign :=
      { tick := s.tb.tick, period := s.tb.period, sec := g.1, ofs := g.2
        depth := if s.clpos = 0 then 0 else min 255 s.cl.depth
        aligned := s.clpos = 0 || s.on CL_STAT_ALIGNED, txofs := s.free (2 ^ 32 - 1) }
    s.used.baseSend d 1 m.bytes (.tickAlign d m)) s

/-! ### Variables (R369) -/

/-- VARS_RECEIVE (R369): words by their send register. -/
def execVarsReceive (d tick : Nat) (words : List (Nat × Nat)) (ok : Bool) (s : State) : Result :=
  s.inDatum fun s =>
    if 4 ≤ d || s.lstate (17 + d) ≠ lsActive then s
    else if !ok then s.count CL_MSG_CRC
    else if tick % 2 ^ 32 ≠ s.tb.tick % 2 ^ 32 then s.count VAR_STALE
    else
      let base := loopDataBase + s.cfg (CL_VRX_ADDR d) / 128 * 128
      ((words.filter fun e => e.1 < 32).foldl (fun s e => s.setMemWord (base + 4 * e.1) e.2) s).routeEvent (12 + d)

end Sys2Proof.Machine
end

