-- ==== Sys2Proof/Machine/Power.lean ====
section
/-! DEFINITION. Resets (R1 to R3, R372, R379, R386), supplies (R377, R381), shedding (R382 to R387), temperature (R392) and
the watchdog (R301). -/

namespace Sys2Proof.Machine

/-! ### Into reset -/

/-- The outputs of the I/O banks that are high-impedance in reset (R394, R400); those of the charge pumps stop first. -/
def resetPins : List Out :=
  (List.range 16).map (Out.release "LBYP") ++ (List.range 4).map (Out.release "TOUT") ++
    [.release "DCHG" 0, .release "BYPF_A" 0, .release "BYPF_B" 0, .release "AUXPWM" 0, .release "AUXSYNC_OUT" 0] ++
    ["PUMP0A", "PUMP0B", "PUMP2A", "PUMP2B"].map (Out.release · 0)

/-- The outputs of a device in reset: all are high-impedance, but ALIVE is low, and GCMD static low (R86, R300, R394, R395). -/
def State.dropPins (s : State) : State :=
  let s1 := s.emits (([0, 2].filter fun n => (s.pump n).isSome).map fun n => Out.pump n none)
  ((s1.emits resetPins).emits ((List.range 4).map fun n => Out.pin "GCMD" n false)).emit (.pin "ALIVE" 0 false)

/-- A field that keeps its value. -/
def State.keep (s : State) (o : State) (f : Fld) : State := s.put f (o.get f)

/-- Everything but the retention domain takes its reset value (R372, R381): the tail, its sequence number, the fired
mark and SH_S4 stay, as do the contents of the flash; the loop banks hold zeros, and no image (R211). BYPF stays with the mark until the Stake loses power (R180). S4_LAST is cleared by PORn on the pin alone (R386). -/
def State.powerReset (s0 : State) (ph : Phase) : State :=
  let s := s0.dropPins
  let r := State.reset
  let s1 : State := { r with
    pending := s.pending, phase := ph, monument := s.monument, now := s.now, out := s.out, fresh := s.fresh
    gs := { r.gs with mark := s.gs.mark, pornSinceFire := true, bypf := ph ≠ .supply && s.gs.mark && s.gs.bypf }
    fb := { r.fb with tail := s.fb.tail, tailKept := s.fb.tailKept }
    mg := { r.mg with
      table := s.mg.table, mine := s.mg.mine, net := s.mg.net
      fw := { r.mg.fw with active := s.mg.fw.active, image := s.mg.fw.image.filter (·.1 < 2) } } }
  let s2 := ((s1.keep s FB_TAILHEAD_SEQ).keep s SH_S4).keep s SH_S4_OVF
  if ph = .porn then s2 else s2.keep s SH_STAT_S4_LAST

/-- PORN_ASSERT (R372, R379). -/
def execPornAssert (s : State) : Result := .next (s.powerReset .porn)

/-- The S4 reset begins (R386). -/
def State.shedReset (s : State) : State := ((s.count SH_S4).powerReset .shed).put SH_STAT_S4_LAST 1

/-- SUPPLY_RESET (R379, R386): PORn and the S4 reset hold the device already, and with the supply BYPF is lost (R180); a device
in the steps of S4 enters the S4 reset at once. -/
def execSupplyReset (s : State) : Result :=
  .next
    (if s.phase = .porn || s.phase = .shed then { s with gs := { s.gs with bypf := false } }
     else if s.running && s.get SH_STAT_STAGE = 4 then s.shedReset
     else s.powerReset .supply)

/-! ### Out of reset -/

/-- The straps are sampled (R1, R361): ROLE in bits 1 and 0, CLPOS in 5 to 2, BOARD in 6, TWPREF in 7. -/
def State.takeStraps (s : State) (straps monument : Nat) : State :=
  let role : Role := match bitsOf straps 1 0 with | 0 => .stake | 1 => .datum | _ => .reserved
  let datum := role = .datum
  let s1 : State := { s with
    role := role, monument := monument, phase := if role = .reserved then .roleHold else .run
    clpos := if datum then bitsOf straps 5 2 else 0
    board := if datum then bitsOf straps 6 6 else 0
    twpref := if datum then bitsOf straps 7 7 else 0 }
  (((s1.put SYS_STRAP_ROLE (bitsOf straps 1 0)).put SYS_STRAP_CLPOS (bitsOf straps 5 2)).put SYS_STRAP_BOARD
    (bitsOf straps 6 6)).put SYS_STRAP_TWPREF (bitsOf straps 7 7)

/-- Retention contents that were lost (R381): the tail is empty, TAIL_VALID is 0, and source 13 is raised. -/
def State.takeRetained (s : State) : State :=
  if s.fb.tailKept then s.put FB_STAT_TAIL_VALID 1
  else
    let s1 : State := { s with gs := { s.gs with mark := false }, fb := { s.fb with tail := [], tailKept := true } }
    ((((s1.put FB_TAILHEAD_SEQ 0).put SH_S4 0).put SH_S4_OVF 0).put FB_STAT_TAIL_VALID 0).raise 13

/-- A Datum starts: fields whose reset value depends on the role, and the safety inputs as they are (R268, R272, R273, R275, R277, R361):
`inputs` has the requests of SBLK_A and SBLK_B in bits 0 and 1, and the presses of SRST_A and SRST_B in bits 2 and 3. -/
def State.startDatum (s : State) (inputs : Nat) : State :=
  let a := bitOf inputs 2
  let b := bitOf inputs 3
  let ch (c : Chan) : Chan :=
    { (c.sblk (bitOf inputs 0) (bitOf inputs 1) s.now) with
      srstA := a, srstB := b, discSrstAt := diffAt a b none s.now, stuck := a || b }
  let s1 : State := { s with sf := { s.sf with x := ch s.sf.x, y := ch s.sf.y } }
  let s2 := ((s1.mirrorInputs.put TB_STAT_TIME_VALID 1).putB CL_STAT_BENCH (s.clpos = 0)).put LS_STAT_PREF s.twpref
  let s3 := (List.range 16).foldl (fun s p => s.putCfg (TRV_FCFG_DTURN p) 1) s2
  let s4 := if bitOf inputs 0 || bitOf inputs 1 then (s3.blockDatum true true SF_CAUSE_INPUT).raise 178 else s3
  if a || b then (s4.rstInfo 4 0).raise 180 else s4

/-- A Stake starts (R86, R180, R205, R395, R404): its outputs idle low, ports enabled, auxiliary PWM running, and Off with DCHG driven if the fired mark
is set. It is not adopted, which SF_SCAUSE records (R281). -/
def State.startStake (s : State) : State :=
  let s1 := [0, 1].foldl (fun s q =>
    ((s.putCfg (TRV_CTRL_EN q) 1).putCfg (TRV_FCFG_TURN q) 2).linkStrobed q)
    ((s.byPins false).emits [.pin "DCHG" 0 false, .pin "AUXPWM" 0 false])
  let s2 := (s1.auxStart.put DR_MEM_SIZE_VAL 4).put SF_SCAUSE_UNADOPTED 1
  let s3 := s2.usedCh.foldl State.initCodes s2
  ((if s3.gs.mark then ((s3.put GS_STAT_FIRED 1).setDchg true).updPblk else s3)).movePumps { s with phase := .porn }

/-- The release of reset (R1, R2, R361, R404). -/
def State.release (s : State) (straps monument inputs : Nat) : State :=
  let s1 := s.takeStraps straps monument
  match s1.role with
  | .reserved => s1
  | .datum => s1.takeRetained.startDatum inputs
  | .stake => s1.takeRetained.startStake

/-- RESET_RELEASE (R1, R361): the later of the rising edge of PORn and the end of the reset of R379. -/
def execResetRelease (straps monument inputs : Nat) (s : State) : Result :=
  .next (if s.phase = .porn || s.phase = .supply then s.release straps monument inputs else s)

/-! ### Supplies and temperature -/

/-- RAIL_FAULT (R377): rail `i` of SH_STAT.RAIL has been out of its band for 10 µs. -/
def execRailFault (i : Nat) (s : State) : Result :=
  s.inRun fun s =>
    if i < 8 && !bitOf (s.get SH_STAT_RAIL) i then
      (s.put SH_STAT_RAIL (setBitOf (s.get SH_STAT_RAIL) i)).raise (5 + i)
    else s

/-- RAIL_RETURN (R377). -/
def execRailReturn (i : Nat) (s : State) : Result :=
  s.inRun fun s => if i < 8 then s.put SH_STAT_RAIL (clrBitOf (s.get SH_STAT_RAIL) i) else s

/-- RETENTION_DETECTOR (R381): VRET has been below 1.7 V. -/
def execRetentionDetector (s : State) : Result := .next { s with fb := { s.fb with tailKept := false } }

/-- A temperature source: it asserts at or above its level and ends 2 °C below it (R392); in 1/16 °C. -/
def State.tempSource (s : State) (src : Nat) (t level : Int) : State :=
  if level ≤ t then s.levelOn src else if t < level - 32 then s.levelOff src else s

/-- TJ_MEASURE (R392): `tj` is the code of SH_MEAS.TJ. -/
def execTjMeasure (tj : Nat) (s : State) : Result :=
  s.inRun fun s =>
    let t := toSigned 16 tj
    ((s.put SH_MEAS_TJ tj).tempSource 14 t (16 * toSigned 8 (s.cfg SH_TEMP_WARN))).tempSource 15 t (16 * 122)

/-! ### Shedding -/

/-- The number of levels above VAUXS (R382). -/
def State.stageFor (s : State) (mv : Nat) : Nat := ((List.range 4).filter fun n => mv < s.cfg (SH_LVL_LEVEL n)).length

/-- A change of stage: its record and count (R387). -/
def State.setStage (s : State) (new mv : Nat) (tail : Bool) : State :=
  let old := s.get SH_STAT_STAGE
  (((s.put SH_STAT_STAGE new).put SH_MEAS_VAUXS mv).count SH_TRANS).stage
    { time := s.time.word, src := 3, kind := 2, data := old + 256 * new + 65536 * (mv % 65536), timeInv := s.timeInv
      tail := tail }

/-- Entry to S3 (R384, R385). -/
def State.enterS3 (s : State) : State :=
  let s1 := s.raise 30
  if s1.role = .datum then
    (if s.enabled 30 && (3 ≤ s.classOf 30) && !s.asserting 30 && !s.assertedNow 30 then s1 else s1.blockClass 30 3)
  else s1.forceOff

/-- Steps 1 to 4 of the entry to S4 (R386). -/
def State.enterS4 (s : State) (mv : Nat) : State :=
  let stake := s.role = .stake
  let s1 := if stake then s.forceOff else s
  let s2 := if stake && s1.cfg GS_OV2_LEVEL ≤ s1.gs.vcode then s1.bypass 3 else s1
  let s3 := (s2.setStage 4 mv true).movePumps s2
  let s4 := (List.range s3.nPorts).foldl State.updLbyp s3
  if stake then (if s4.on AUX_STAT_ON then s4.auxPin false else s4).put AUX_STAT_RUN 0 else s4

/-- Entry to the next stage (R383, R384, R387). -/
def State.nextStage (s0 : State) (mv : Nat) : State :=
  let s := s0.put SH_STAT_HOLDING 0
  match s.get SH_STAT_STAGE with
  | 0 => ((s.setStage 1 mv false).raise 28).drShedRise
  | 1 => (s.setStage 2 mv false).raise 29
  | 2 => (s.setStage 3 mv false).enterS3
  | _ => s.enterS4 mv

/-- What VAUXS must reach for stage `n` to be left (R383). -/
def State.backLevel (s : State) (n : Nat) : Nat := s.cfg (SH_LVL_LEVEL (n - 1)) + s.cfg SH_CFG_HYST

/-- VAUXS stands at `mv` in the present stage: the recovery count runs, or not (R383). -/
def State.showHolding (s : State) (mv : Nat) : State :=
  let g := s.get SH_STAT_STAGE
  (s.put SH_MEAS_VAUXS mv).putB SH_STAT_HOLDING (0 < g && g < 4 && s.backLevel g ≤ mv)

/-- SHED_STAGE_RISE (R383): VAUXS stands at `v.mv` and has been below the first `v.below` levels for FILT; the stage rises
through each of them. Where it rises no further, the report shows whether the recovery count runs (log entry 131). -/
def execShedStageRise (v : VauxReport) (s : State) : Result :=
  s.inRun fun s =>
    let r := min v.below (s.stageFor v.mv) - s.get SH_STAT_STAGE
    if r = 0 then s.showHolding v.mv else iter (fun s => s.nextStage v.mv) r s

/-- SHED_STAGE_FALL (R383): VAUXS has been at or above the level of the stage plus HYST for HOLD; a dip below it only restarts
the count. Manual channels that S3 held off follow MAN_ON again (R184, R384). -/
def execShedStageFall (mv : Nat) (s : State) : Result :=
  s.inRun fun s =>
    let g := s.get SH_STAT_STAGE
    if g = 0 || 4 ≤ g then s
    else if mv < s.backLevel g then s.showHolding mv
    else
      let s1 := (s.setStage (g - 1) mv false).showHolding mv
      if g = 1 then s1.drShedFall else if g = 3 && s1.role = .stake then s1.updPblk.refollow else s1

/-- The record of an entry to S4 (R386, R387). -/
def FbRec.ofS4 (r : FbRec) : Bool := r.kind = 2 && r.src = 3 && r.data / 256 % 256 = 4

/-- SHED_RESET_ENTRY (R386): the steps of S4 and a firing sequence have ended, and the record of the entry and its tail copy are
written. -/
def execShedResetEntry (s : State) : Result :=
  s.inRun fun s =>
    if s.get SH_STAT_STAGE = 4 && !(s.fb.cycle.any FbRec.ofS4) && !(s.fb.queue.any (·.rcd.ofS4)) &&
        (s.gs.byp = .idle || s.gs.byp = .released) then s.shedReset else s

/-- SHED_RESET_RELEASE (R386): the straps are sampled again, and source 31 is raised. -/
def execShedResetRelease (straps inputs : Nat) (s : State) : Result :=
  .next
    (if s.phase = .shed then
      let s1 := s.release straps s.monument inputs
      if s1.running then s1.raise 31 else s1
     else s)

/-! ### The management processor -/

/-- WATCHDOG_EXPIRY (R301, R390): no feed within TMO; in S2 the timeout is suspended. -/
def execWatchdogExpiry (s : State) : Result :=
  s.inRun fun s =>
    if !s.on WD_CFG_EN || s.on FC_STAT_WD_EXP || 2 ≤ s.get SH_STAT_STAGE then s
    else
      let s1 := (s.put FC_STAT_WD_EXP 1).raise 0
      if s1.on WD_CFG_RST_EN then (s1.put SYS_RSTCAUSE_KIND 2).processorReset else s1

/-- What a warm reset resets (R360, R372): queues, requests that have not been answered, the UDP cache and open local transactions. -/
def State.warmReset (s : State) : State :=
  let s1 := (s.mg.txns.filter fun t => t.scope = 0 && t.state ≠ txCommitted).foldl
    (fun s t => (s.closeTxn t txRolledBack).count TXN_ROLLBACKS) s
  let s2 : State := { s1 with mg := { s1.mg with
    reqs := [], full := [], cache := [], queues := [], fwd := [], test := none
    relays := s1.mg.relays.map fun q => { q with req := none }
    txns := s1.mg.txns.map fun t => { t with req := none } } }
  let s3 : State := if s2.role = .stake then [0, 1].foldl (fun s q => s.setPort q { s.port q with messages := [] }) s2 else s2
  (s3.put SYS_RSTCAUSE_KIND 1).processorReset

/-- RESET_WARM (R338, R372): the reply is sent first. -/
def execResetWarm (r : Req) (key : Nat) (s : State) : Result :=
  s.command r true true false fun s =>
    if key ≠ 0x0000A5C3 then s.status r stBadParam else (s.status r stOk).warmReset

end Sys2Proof.Machine
end

