-- ==== Sys2Proof/Machine/StakeFrame.lean ====
section
/-! DEFINITION. A Stake at a frame: lease record, duplicate discard, telemetry slot, management slot, forwarding, and
urgent pairs (04_traverse_frames.md; R258 to R260, 10_twin_redundancy.md). -/

namespace Sys2Proof.Machine

/-! ### The lease record (R258, R259) -/

/-- Board of an identity in the SENDER format (R96). -/
def boardOf (sender : Nat) : Nat := bitsOf sender 8 8

/-- HOLDER of a header (R96). -/
def holderBit (h : Header) : Bool := bitOf h.flags 2

/-- MATCHED of a header (R96). -/
def matchedBit (h : Header) : Bool := bitOf h.flags 0

/-- An acknowledgement is due on both ports (R260). -/
def State.ackBoth (s : State) : State :=
  { s with frm := { s.frm with ackDue := [0, 1].foldl addOnce s.frm.ackDue } }

/-- Whether the recorded lease may be taken over by a claim (R258). -/
def State.leaseFree (s : State) : Bool := s.get LS_SREC_LEASE_T = 0 || s.on LS_SREC_RELEASED

/-- Lease processing of a frame (R258). -/
def State.leaseProcess (s : State) (h : Header) : State :=
  let b := boardOf h.sender
  let same := b = s.get LS_SREC_BOARD
  let next := h.epoch = (s.get LS_SEPOCH_EPOCH + 1) % 2 ^ 32
  if holderBit h then
    if !s.on LS_SREC_VALID || (same && isNewer 32 h.epoch (s.get LS_SEPOCH_EPOCH)) || (!same && next && s.leaseFree) then
      (((((((s.put LS_SREC_VALID 1).put LS_SREC_BOARD b).put LS_SREC_HOLDER h.sender).put LS_SEPOCH_EPOCH h.epoch).put
        LS_SREC_LEASE_T (s.cfg LS_SCFG_LT)).put LS_SREC_RELEASED 0).count LS_GRANT).ackBoth
    else if same && h.epoch = s.get LS_SEPOCH_EPOCH then s.put LS_SREC_LEASE_T (s.cfg LS_SCFG_LT)
    else s
  else if s.on LS_SREC_VALID && same && next && !s.on LS_SREC_RELEASED then
    ((s.put LS_SREC_RELEASED 1).count LS_RELEASE).ackBoth
  else s

/-- Lease processing runs once for a pair of SENDER and SEQ of a frame of the current tick (R258). -/
def State.leaseOnce (s : State) (h : Header) : State :=
  if s.on TB_STAT_TICK_LOCK && h.tick = s.tb.tick % 2 ^ 32 && !s.frm.leaseSeen.contains (h.sender, h.seq) then
    ({ s with frm := { s.frm with leaseSeen := ((h.sender, h.seq) :: s.frm.leaseSeen).take 8 } }).leaseProcess h
  else s

/-- The lease check of a frame (R259). -/
def State.leaseCheck (s : State) (h : Header) : Bool :=
  let b := boardOf h.sender
  let e := s.get LS_SEPOCH_EPOCH
  let next := h.epoch = (e + 1) % 2 ^ 32
  if !s.on LS_SREC_VALID then false
  else if b = s.get LS_SREC_BOARD then (holderBit h && h.epoch = e) || (!holderBit h && next)
  else matchedBit h && ((!holderBit h && h.epoch = e) || (holderBit h && next))

/-- The lease at a recovered tick start (R258): a lease that reaches 0 expires. -/
def State.leaseTick (s : State) : State :=
  let t := s.get LS_SREC_LEASE_T
  if t = 0 then s
  else
    let s1 := s.put LS_SREC_LEASE_T (t - 1)
    if t = 1 then { s1 with frm := { s1.frm with leaseDue := true } } else s1

/-- LEASE_EXPIRY (R258): lease_t has reached 0. -/
def execLeaseExpiry (s : State) : Result :=
  s.inStake fun s =>
    if s.frm.leaseDue then (({ s with frm := { s.frm with leaseDue := false } }).count LS_EXPIRE).raise 167 else s

/-- A periodic acknowledgement falls due in this tick (R260). -/
def State.ackTick (s : State) : State :=
  if s.on (TRV_SLOT_VALID 0) && s.on LS_SREC_VALID &&
      s.tb.tick % s.cfg LS_SCFG_ACKINT = s.get (TRV_SLOT_SLOT 0) % s.cfg LS_SCFG_ACKINT then s.ackBoth
  else s

/-! ### Duplicate discard (R117) -/

/-- The entry as the Stake uses it: of a version-1 frame no fraction is realised (R98). -/
def entryOf (fmt : Nat) (e : ArmEntry) : ArmEntry := if fmt = 1 && e.trimV then { e with aflags := e.aflags - 8 } else e

/-- The frame has been acted on (R117). -/
def State.actOn (s : State) (h : Header) (e : ArmEntry) : State :=
  { s with frm := { s.frm with
      actedValid := true, actedSeq := h.seq, actedAcrc := e.acrc, entry := some (s.tb.tick, entryOf h.fmt e) } }

/-- A frame with a valid HCRC decoded on port `q` (R117). The entry of an arm that is not enabled has no apply offset to be late
for (R138, R143). -/
def State.dupDiscard (s : State) (q : Nat) (f : Frame) : State :=
  let h := f.hdr
  let e := f.arm (s.get LVL_SIDX_ARM)
  if !s.on TB_STAT_TICK_LOCK then s
  else if h.fmt < 1 ∨ 2 < h.fmt then ((s.count (FMT_ERR q)).put (TRV_FCAUSE_FMT q) 1).raise (48 + q)
  else if !e.ok then s.count (ARM_CRC q)
  else if h.tick ≠ s.tb.tick % 2 ^ 32 || (e.hasApply && s.tb.tickStart + e.apply ≤ s.now) then s.count (LATE q)
  else if !s.leaseCheck h then s.count (LEASE_REJ q)
  else if s.frm.actedValid && h.seq = s.frm.actedSeq then
    if e.acrc = s.frm.actedAcrc then s.count (DUP_OK q)
    else ((s.count (DUP_DIFF q)).put (TRV_FCAUSE_DUP_DIFF q) 1).raise (48 + q)
  else if s.frm.actedValid && !isNewer 32 h.seq s.frm.actedSeq then s.count (OLD_SEQ q)
  else
    let lost := if s.frm.actedValid then (h.seq + 2 ^ 32 - s.frm.actedSeq) % 2 ^ 32 - 1 else 0
    (if lost = 0 then s else s.countN (LOST q) lost).actOn h e

/-! ### Management slot -/

/-- Bytes of this Stake's identity that a mode-3 message names (R106). -/
def State.monumentBytes (s : State) : List Nat := le 16 s.monument

/-- A down segment of a management slot (R104). -/
structure Seg where
  mode : Nat
  msgId : Nat
  addr : Nat
  num : Nat
  last : Bool
  data : List Nat
deriving DecidableEq, Repr

/-- The down segment that a record area holds (R104). -/
def segOf (a : List Nat) : Seg :=
  { mode := a.getD 0 0, msgId := a.getD 1 0, addr := ofLe (slice a 2 2), num := a.getD 4 0 % 128
    last := bitOf (a.getD 4 0) 7, data := slice a 8 (ofLe (slice a 6 2)) }

/-- The segment is addressed to this Stake (R106, R107). `mine` says that a message of the same number is being
reassembled, to which later segments of mode 3 belong. -/
def State.addressed (s : State) (g : Seg) (mine : Bool) : Bool :=
  let slot := s.on (TRV_SLOT_VALID 0)
  match g.mode with
  | 0 => slot
  | 1 => slot && g.addr = s.get (TRV_SLOT_SLOT 0)
  | 2 => g.addr = 0
  | 3 => if g.num = 0 then slice g.data 0 16 = s.monumentBytes else mine
  | 4 => slot && g.addr = s.get LVL_SIDX_ARM
  | _ => false

/-- A partly received message is discarded (R107). -/
def State.dropReasm (s : State) (q : Nat) : State :=
  if (s.port q).reasm.isSome then (s.setPort q { s.port q with reasm := none }).count (REL_ERR q) else s

/-- A whole message is a request (R336, R339): one that fails the first checks is answered, another waits for Thoka. An adoption
that a Datum relays has an opcode of its own (log entry 51). -/
def State.acceptRelay (s : State) (q : Nat) (m : Reasm) : State :=
  let k := Packet.ofBytes m.bytes
  let r : Req := { origin := .relay q m.sender m.msgId, tag := k.tag }
  let st := if k.ok && k.opcode = adoptOpcode then stOk else s.packetStatus k
  if st ≠ stOk then s.status r st else s.waitReq r

/-- The reassembly goes on or is complete (R107). -/
def State.putReasm (s : State) (q : Nat) (r : Reasm) (last : Bool) : State :=
  if last then
    ((s.setPort q { s.port q with reasm := none, messages := (s.port q).messages ++ [r] }).emit (.message q r.bytes)).acceptRelay q r
  else s.setPort q { s.port q with reasm := some r }

/-- A down segment that arrives on port `q` (R106, R107). -/
def State.downSegment (s : State) (q : Nat) (h : Header) (g : Seg) : State :=
  let cur := (s.port q).reasm
  let goes := cur.any fun r => g.num ≠ 0 && g.msgId = r.msgId && g.num = r.nextSeg
  if s.addressed g goes then
    if g.num = 0 then
      let skip := if g.mode = 3 then 16 else 0
      (s.dropReasm q).putReasm q
        { src := h.sender, msgId := g.msgId, nextSeg := 1, bytes := g.data.drop skip, sender := h.sender, seq := h.seq } g.last
    else
      match cur with
      | some r =>
        if goes then s.putReasm q { r with nextSeg := r.nextSeg + 1, bytes := r.bytes ++ g.data } g.last
        else s.dropReasm q
      | none => s
  else s.dropReasm q

/-- The record area with the ADDR of a mode-2 segment as it is forwarded (R106). -/
def forwardAddr (a : List Nat) : List Nat :=
  let g := segOf a
  if g.mode = 2 then
    let v := if g.addr = 0 then 0xFFFF else if g.addr < 0xFFFF then g.addr - 1 else g.addr
    a.take 2 ++ le 2 v ++ a.drop 4
  else a

/-- The management slot as it arrives on port `q` with a CRC that passes: time announcement or down segment, once for
a pair of SENDER and SEQ (R49, R106). -/
def State.takeMgmt (s : State) (q : Nat) (f : Frame) : State × MgmtSlot :=
  let g := f.mgmt
  let key := (f.hdr.sender, f.hdr.seq)
  if s.frm.mgmtSeen.contains key then (s.dropReasm q, g)
  else
    let s1 : State := { s with frm := { s.frm with mgmtSeen := (key :: s.frm.mgmtSeen).take 8 } }
    if g.kind = 3 ∧ g.used = 24 then
      let a := slice g.area 0 24
      ((s1.dropReasm q).announceTime (ofLe (slice a 8 8)) (ofLe (slice a 16 4)) (ofLe (slice a 20 2))
        (ofLe (slice a 0 8)), g)
    else if g.kind = 1 then
      (s1.downSegment q f.hdr (segOf (slice g.area 0 (f.m - 8))), { g with area := forwardAddr (slice g.area 0 (f.m - 8)) })
    else (s1.dropReasm q, g)

/-- An up record appended to a slot (R104, R108). -/
def appendRecord (m : Nat) (g : MgmtSlot) (src dest msgId seg : Nat) (data : List Nat) : MgmtSlot :=
  { g with
    kind := 2, used := g.used + 8 + data.length
    area := slice g.area 0 g.used ++ le 2 src ++ le 2 dest ++ [msgId, seg] ++ le 2 data.length ++ data ++
      List.replicate (m - 8 - (g.used + 8 + data.length)) 0 }

/-- A slot takes an up record (R108). -/
def roomFor (m : Nat) (g : MgmtSlot) : Bool := (g.kind = 0 || g.kind = 2) && g.used + 16 ≤ m - 8

/-- The 8 data bytes of an acknowledgement (R260). -/
def State.ackData (s : State) : List Nat :=
  le 4 (s.get LS_SEPOCH_EPOCH) ++ le 2 (s.get LS_SREC_HOLDER) ++
    [(if 0 < s.get LS_SREC_LEASE_T then 1 else 0) + 2 * s.get LS_SREC_RELEASED, s.get LS_SREC_LEASE_T]

/-- SRC of an up record of this Stake (R104). -/
def State.upSrc (s : State) : Nat := if s.on (TRV_SLOT_VALID 0) then s.get (TRV_SLOT_SLOT 0) else 0x8000

/-- The up record that a frame leaving on port `o` takes: a due acknowledgement first, then a reply (R108, R260). -/
def State.upRecord (s : State) (o m : Nat) (g : MgmtSlot) (ok : Bool) : State × MgmtSlot :=
  let room := ok && roomFor m g
  let ack := s.frm.ackDue.contains o && s.on (TRV_SLOT_VALID 0) && s.on LS_SREC_VALID
  if ack then
    match (s.port o).lastSender with
    | some d =>
      if room then
        ({ s with frm := { s.frm with
            ackDue := s.frm.ackDue.filter (· ≠ o), ackWaited := s.frm.ackWaited.filter (· ≠ o) } },
          appendRecord m g (s.get (TRV_SLOT_SLOT 0) + 0x4000) d 0 0x80 s.ackData)
      else if s.frm.ackWaited.contains o then (s, g)
      else (({ s with frm := { s.frm with ackWaited := s.frm.ackWaited ++ [o] } }).count LS_ACK_WAIT, g)
    | none => (s, g)
  else
    match (s.port o).upReply with
    | r :: rest =>
      if room then
        let n := min r.bytes.length (m - 8 - g.used - 8)
        let last := n = r.bytes.length
        let left := if last then rest else { r with nextSeg := r.nextSeg + 1, bytes := r.bytes.drop n } :: rest
        (s.setPort o { s.port o with upReply := left },
          appendRecord m g s.upSrc r.dest r.msgId (r.nextSeg % 128 + if last then 128 else 0) (r.bytes.take n))
      else (s, g)
    | [] => (s, g)

/-! ### Forwarding -/

/-- A checksum for a region whose received checksum did not pass: the fresh one inverted (R103). -/
def resealed (ok : Bool) (crc : Nat) : Nat := if ok then crc else bxor crc 0xFFFFFFFF

/-- The telemetry region of a frame on its way out: own slot, WCOUNT and region CRC (R103, R111, R112). -/
def State.writeSlot (s : State) (f : Frame) : State × List TeleSlot × Nat :=
  let j := s.get (TRV_SLOT_SLOT 0)
  if s.on (TRV_SLOT_VALID 0) && (j < f.slots.length) then
    let s1 := s.latchReport
    match s1.frm.reports with
    | r :: _ =>
      (s1, f.slots.set j r.2, if (f.slots.getD j {}).wr = 0xA5 then f.wcount else min 0xFFFF (f.wcount + 1))
    | [] => (s1, f.slots, f.wcount)
  else (s, f.slots, f.wcount)

/-- A frame with a valid HCRC that arrives on port `q` leaves on port `o`, if it does (R66, R103, R111). -/
def State.passFrame (s : State) (q : Nat) (f : Frame) : State :=
  let okM := f.mgmt.ok f.m
  match s.outPort q with
  | none => if okM then (s.takeMgmt q f).1 else s.dropReasm q
  | some o =>
    let s1 := if okM then s else s.count (MGMT_CRC q)
    let a := if okM then s1.takeMgmt q f else (s1.dropReasm q, f.mgmt)
    let b := a.1.upRecord o f.m a.2 okM
    let okT := f.regionOk
    let s2 := if okT then b.1 else b.1.count (TELE_CRC q)
    let w := s2.writeSlot f
    (w.1.passOn o { f with
      mgmt := { b.2 with mcrc := resealed okM (b.2.sealed f.m).mcrc }, slots := w.2.1, wcount := w.2.2
      rcrc := resealed okT (regionCrc w.2.1 w.2.2) }).blindGap o

/-- A frame whose HCRC fails is forwarded unchanged (R128). -/
def State.passBad (s : State) (q : Nat) (f : Frame) : State :=
  let s1 := (s.count (HDR_CRC q)).dropReasm q
  match s1.outPort q with
  | none => s1
  | some o => (s1.passOn o f).blindGap o

/-- A frame with a valid HCRC is counted on its port, and its sender kept for acknowledgements (R101, R260). -/
def State.noteFrame (s0 : State) (q : Nat) (f : Frame) : State :=
  if f.hdr.ok then
    let s := s0.count (FRM_RX q)
    s.setPort q { s.port q with lastSender := some f.hdr.sender }
  else s0

/-- Lease processing of a decoded frame (R258). -/
def State.leaseFrame (s : State) (f : Frame) : State := if f.hdr.ok then s.leaseOnce f.hdr else s

/-- Duplicate discard, safety function and forwarding of a decoded frame that arrived on port `q`, its SOF in cycle `sof` (R101,
R111, R117, R128). -/
def State.useFrame (s : State) (q sof : Nat) (f : Frame) : State :=
  if f.hdr.ok then ((s.dupDiscard q f).safetyRegion q sof f).passFrame q f else s.passBad q f

/-- What a Stake does with a decoded frame that arrived on port `q`, its SOF in cycle `sof`. -/
def State.decodeFrame (s : State) (q sof : Nat) (f : Frame) : State :=
  ((s.noteFrame q f).leaseFrame f).useFrame q sof f

/-- Two frames are decoded in the same cycle, `f0` of T0 and `f1` of T1: lease processing takes that from board A first (R258,
R267), and the Stake acts on the T0 copy first (R119). -/
def State.decodeBoth (s : State) (sof : Nat) (f0 f1 : Frame) : State :=
  let s1 := (s.noteFrame 0 f0).noteFrame 1 f1
  let s2 := if boardOf f1.hdr.sender < boardOf f0.hdr.sender then (s1.leaseFrame f1).leaseFrame f0
    else (s1.leaseFrame f0).leaseFrame f1
  (s2.useFrame 0 sof f0).useFrame 1 sof f1

/-! ### Urgent pairs -/

/-- An urgent pair that arrived on port `q` leaves on another, at most 32 in one frame; `frame` is 0 outside a frame,
else the number of the frame on this link (R64, R66, R68). A pair beyond 32 counts in URG_DROP of the port on which it arrived
(DESIGN CHOICE, log entry 100). The answer names the port on which the pair leaves, if it does. -/
def State.forwardPair (s : State) (q frame : Nat) : Option Nat × State :=
  match s.outPort q with
  | none => (none, s)
  | some o =>
    let k := s.link q
    let n := if k.urgHead = frame then k.urgents else if frame = 0 then 0 else k.urgHeld
    if frame ≠ 0 ∧ 32 ≤ n then (none, s.count (URG_DROP q))
    else
      let s1 := s.setLink q { k with urgHead := frame, urgents := n + 1 }
      (some o, s1.setLink o { s1.link o with idleDebt := (s1.link o).idleDebt + 2 })

/-- A BLOCK pair that arrived on port `q` is forwarded, if it is; between a TICKMARK pair and its SOF it waits for that SOF,
and is one of the 32 of its frame (R63, R64, R66). -/
def State.forwardBlock (s : State) (q frame : Nat) : State :=
  let r := s.forwardPair q frame
  match r.1 with
  | some o =>
    let k := r.2.link o
    if frame = 0 ∧ k.markOut then
      let t := r.2.setLink o { k with idleDebt := k.idleDebt - 2 }
      if 32 ≤ (t.link q).urgHeld then t.count (URG_DROP q)
      else
        let t1 := t.setLink q { t.link q with urgHeld := (t.link q).urgHeld + 1 }
        t1.setLink o { t1.link o with heldPairs := (t1.link o).heldPairs + 1 }
    else (r.2.count (BLOCK_FWD_CNT o)).emit (.blockPair o)
  | none => r.2

/-- BLOCK_PAIR_RECEIVE (R115): the pair is forwarded, the gates go off and both channels block. -/
def execBlockPairReceive (q frame at' : Nat) (s : State) : Result :=
  s.inStake fun s0 =>
    if s0.echoes q then s0.emit (.blockPair q)
    else if 2 ≤ q || !s0.symLocked q then s0
    else
      let s1 := (s0.advance at').forwardBlock q frame
      (s1.blockStake true true [SF_SCAUSE_URGENT]).seeArmBlocked

/-- BLOCK_PAIR_DATUM (R116, R286): counted, source 183, no change of state; a turning port sends it back (R122). -/
def execBlockPairDatum (p frame : Nat) (s : State) : Result :=
  s.inDatum fun s =>
    if s.echoes p then s.emit (.blockPair p)
    else if 16 ≤ p || !s.symLocked p then s
    else (((s.count (BLOCK_RX p)).put SF_CAUSE_RXBLOCK 1).raise 183).forwardBlock p frame

/-- A TICKMARK pair that arrived on port `q` is forwarded, if it is. Outside a frame its SOF follows it (R63, R66). -/
def State.forwardMark (s : State) (q frame : Nat) : State :=
  let r := s.forwardPair q frame
  match r.1 with
  | some o =>
    let s1 := if frame = 0 then
        let t := (r.2.releaseHeld o).setLink q { (r.2.releaseHeld o).link q with urgHeld := 0 }
        t.setLink o { t.link o with markOut := true }
      else r.2
    (s1.count (TMARK_FWD_CNT o)).emit (.tickmark o)
  | none => r.2

/-- TICKMARK_RECEIVE (R39, R66, R116): the first symbol of the pair arrived on port `q` at `at'`, in 1/16 ns. In a Stake the
comma that follows it directly may re-phase the tick. -/
def execTickmarkReceive (q frame at' : Nat) (s : State) : Result :=
  s.inRun fun s =>
    if s.echoes q then s.emit (.tickmark q)
    else if !s.hasLink q || 16 ≤ q || !s.symLocked q then s
    else
      let s1 := s.advance (at' / 32)
      (if s1.role = .stake ∧ frame = 0 then { s1 with tb := { s1.tb with tmark := kset s1.tb.tmark q at' } }
        else s1).forwardMark q frame

/-! ### Turning -/

/-- Port `q` is to turn (R121, R122). -/
def State.wantTurn (s : State) (q : Nat) : Bool :=
  if s.role = .stake then
    let mode := s.cfg (TRV_FCFG_TURN 0)
    (mode = 1 && q = 0) || (mode = 2 && s.linkUp q && !s.linkUp (1 - q))
  else s.cfgOn (TRV_FCFG_DTURN q) && s.lstate q = lsActive && (!s.on TB_STAT_TICK_RUN || !s.tb.placed || s.frm.buildStopped)

/-- Port `q` starts or stops turning (R123); the latency of a turn is measured (R67). -/
def State.turnPort (s : State) (q : Nat) : State :=
  let w := s.wantTurn q
  if w = s.turns q then s
  else
    let s1 := s.setPort q { s.port q with turning := w }
    if w ∧ s1.role = .stake then s1.measureHop q else s1

/-- TURN_CHANGE (R123): at a frame gap. -/
def execTurnChange (s : State) : Result :=
  s.inRun fun s => (List.range s.nPorts).foldl State.turnPort s

end Sys2Proof.Machine
end

