-- ==== Sys2Proof/Machine/Tick.lean ====
section
/-! DEFINITION. The steps that carry a tick: tick start, sample instant and cut-off of a Datum, and the frame and the
recovered tick start of a Stake (01_architecture.md, 02_tick_and_time.md, 04_traverse_frames.md). -/

namespace Sys2Proof.Machine

/-! ### Tick start of a Datum -/

/-- The data plane has taken some of the snapshots of each port, how many is a free value (R21, log entry 8). -/
def State.takeSnapshots (s : State) : State :=
  (List.range 16).foldl (fun s p =>
    let o := s.port p
    if o.snaps.isEmpty then s
    else (s.setPort p { o with snaps := o.snaps.drop (s.free o.snaps.length) }).used) s

/-- The tick-start strobes (R20, R342). -/
def State.tickStrobe (s : State) : State := s.atStart fun s => (s.strobe (s.get STB_SRC_GRP)).2

/-- What the units of a Datum do at the start of a tick: nothing of the new tick has happened yet. -/
def State.tickUnits (s : State) : State := s.schedTick.levelTick.twinTick.portsTick.alignTick.takeSnapshots

/-- TICK_START (R31): the tick begins, transactions of the tick and the strobes act (R342, R348), and frames, HEARTBEAT and TICKALIGN leave (R94, R252, R364). `missX` and
`missY` say that a safety channel has not delivered its PDU by then (R274). -/
def execTickStart (missX missY : Bool) (s : State) : Result :=
  s.inDatum fun s0 =>
    if s0.on TB_STAT_TICK_RUN && s0.tb.placed then
      let s : State := { s0 with sf := { s0.sf with missX := missX, missY := missY } }
      let s1 := s.tickBegin
      if s1.on TB_STAT_TICK_RUN then s1.tickUnits.applyDue.tickStrobe.sendFrames.sendHeartbeat.sendAlign else s1
    else s0

/-! ### Sample instant -/

/-- The grid instant j = 0 triggers the converters on the grid (R189). -/
def State.gridSample (s : State) : State := s.gridConvs.foldl (fun s n => s.gridTrigger n true) s

/-- A tick is in progress in which the sample instant has not been made. -/
def State.sampleDue (s : State) : Bool :=
  s.tb.started && !s.tb.sampled && s.ticksRun

/-- SAMPLE_INSTANT (R37): the epoch sample, S after the tick start (R30, R405); a Datum also finds there whether the
heartbeat of the tick was missed (R253). -/
def execSampleInstant (s : State) : Result :=
  s.inRun fun s =>
    if s.sampleDue then
      let s1 := (s.advance (s.tb.tickStart + s.cfg TB_SAMPLE_S)).gridSample
      let s2 : State := { s1 with
        tb := { s1.tb with sampled := true }, ad := { s1.ad with grid := some (s1.now, s1.now + s1.tickLen) } }
      if s2.role = .datum then s2.heartbeatSample.routeEvent 1 else s2
    else s

/-! ### Frame-build cut-off -/

/-- The arm block of the next frame and STALE (R136, R224): the truth value says that the tick is an overrun tick (R225).
A Datum in JOIN builds no frame and counts no overrun (R264). -/
def State.decideTick (s : State) : Bool × State :=
  let r := s.dueSlots
  let s1 : State := { r.2 with sch := { r.2.sch with stale := r.1 } }
  let s2 := if s1.mode = twJoin then s1 else s1.decideArms
  (s2.sch.stale, s2.overrunTick s2.sch.stale)

/-- What a Datum sends its twin at the cut-off (R252). -/
def State.sendTwin (s : State) : State := (if s.mode = twJoin then s else s.sendDigest).sendState

/-- FRAME_BUILD_CUTOFF (R24): L before the next tick start the arm block of the next frame is fixed, the units step and
closure, match state and lease are decided. -/
def execFrameBuildCutoff (s : State) : Result :=
  s.inDatum fun s =>
    if s.tb.started && !s.tb.cutDone then
      let t := s.tb.nextStart - s.cfg TB_CUTOFF_LEAD
      let s1 := (s.advance t).noteRow t
      let r := s1.decideTick
      let s2 := (r.2.unitStep s1.plIn r.1).closeMissing.matchCutoff.leaseCutoff.sendTwin.routeEvent 2
      ({ s2 with tb := { s2.tb with cutDone := true } } : State).takeLate
    else s

/-! ### A tick of a Stake -/

/-- What a Stake does at each recovered tick start (R258, R260, R282, R314, R342). -/
def State.stakeTick (s : State) : State := (s.noteRow s.tb.tickStart).permitLookback.leaseTick.ackTick.tickStrobe.tryDeblock

/-- STAKE_TICK_START (R38, R405): the predicted tick start. A Stake that has no measured period yet places none (R40). An SOF for
which BLOCK pairs wait, and which has not passed in the tick before, does not come any more (R63). -/
def execStakeTickStart (s : State) : Result :=
  s.inStake fun s =>
    if s.on TB_STAT_TICK_LOCK && s.tb.havePeriod then ((s.predictTick.releaseHeld 0).releaseHeld 1).stakeTick else s

/-- A new measured period is checked against the power-stage settings (R174). `o` is the state before. -/
def State.periodCheck (s o : State) : State :=
  if s.tb.havePeriod && s.tb.period16 ≠ o.tb.period16 && !gsCheck s.cfg s.measuredP then s.raise 114 else s

/-- The comma of a frame on the timing port, which arrived at `at'` (R39, R40): it is accepted 53 ns later (R405), and it
may begin a tick. -/
def State.timingComma (s : State) (f : Frame) (at' : Nat) : State :=
  let s1 := ((s.advance (at' / 32 + 27)).comma at' f.hdr.tick f.hdr.ok).periodCheck s
  if s1.on TB_STAT_TICK_LOCK && (s1.tb.tick ≠ s.tb.tick || !s.on TB_STAT_TICK_LOCK) then s1.stakeTick else s1

/-- The waiting command that decodes a frame of the other port in the same GTIME cycle, if there is one: the frame, its arrival
and its IDLE symbols (R119, R258; log entry 114). -/
def State.sameCycle (s : State) (q at' : Nat) : Option (Frame × Nat × Nat) :=
  s.pending.findSome? fun
    | .stakeFrameDecode p g t n => if p = 1 - q && t / 32 = at' / 32 then some (g, t, n) else none
    | _ => none

/-- IDLE symbols before the SOF of a frame on port `q` are deleted (R64). -/
def State.absorbIdle (s : State) (q idles : Nat) : State :=
  match s.outPort q with
  | some o => s.absorb o idles
  | none => s

/-- A decode is done together with that of the other port in its cycle; the command that still waits then does nothing. -/
def State.pairDecode (s0 : State) (q at' idles : Nat) (f g : Frame) (t n : Nat) : State :=
  let s : State := { s0 with frm := { s0.frm with decoded := s0.frm.decoded ++ [(1 - q, t)] } }
  let s1 := if q = s.timingPort then s.timingComma f at' else s.timingComma g t
  let s2 := ((s1.advance (at' / 32 + 230)).absorbIdle q idles).absorbIdle (1 - q) n
  (if q = 0 then s2.decodeBoth (at' / 32) f g else s2.decodeBoth (at' / 32) g f).tryDeblock

/-- STAKE_FRAME_DECODE (R101, R111, R117): the frame whose SOF arrived on port `q` at `at'`, in 1/16 ns, is decoded 460 ns
later and passes on; `idles` is the number of IDLE symbols before its SOF that may be deleted (R64). A frame of the other port
that waits to be decoded in the same cycle is decoded with it, in the order of R119 and R258. -/
def execStakeFrameDecode (q : Nat) (f : Frame) (at' idles : Nat) (s : State) : Result :=
  s.inStake fun s =>
    if s.frm.decoded.contains (q, at') then
      { s with frm := { s.frm with decoded := s.frm.decoded.erase (q, at') } }
    else if s.echoes q then s.emit (.frame q f)
    else if 2 ≤ q || !s.linkUp q then s
    else
      match (if s.linkUp (1 - q) && !s.echoes (1 - q) then s.sameCycle q at' else none) with
      | some (g, t, n) => s.pairDecode q at' idles f g t n
      | none =>
        let s1 := if q = s.timingPort then s.timingComma f at' else s
        (((s1.advance (at' / 32 + 230)).absorbIdle q idles).decodeFrame q (at' / 32) f).tryDeblock

end Sys2Proof.Machine
end

