-- ==== Sys2Proof/Machine/Dispatch.lean ====
section
/-! DEFINITION. The meaning of every command, one arm per constructor. -/

namespace Sys2Proof.Machine

def exec (i : Instr) (s : State) : Host.Outcome State Fault Refusal :=
  match i with
  | .pornAssert => Sys2Proof.Machine.execPornAssert s
  | .resetRelease straps monument inputs => Sys2Proof.Machine.execResetRelease straps monument inputs s
  | .supplyReset => Sys2Proof.Machine.execSupplyReset s
  | .clockFault clk => Sys2Proof.Machine.execClockFault clk s
  | .railFault j => Sys2Proof.Machine.execRailFault j s
  | .tjMeasure tj => Sys2Proof.Machine.execTjMeasure tj s
  | .gtimeMove => Sys2Proof.Machine.execGtimeMove s
  | .tickStart missX missY => Sys2Proof.Machine.execTickStart missX missY s
  | .sampleInstant => Sys2Proof.Machine.execSampleInstant s
  | .frameBuildCutoff => Sys2Proof.Machine.execFrameBuildCutoff s
  | .datumFrameReceive p f at' idles => Sys2Proof.Machine.execDatumFrameReceive p f at' idles s
  | .stakeFrameDecode q f at' idles => Sys2Proof.Machine.execStakeFrameDecode q f at' idles s
  | .daSetReceive p d => Sys2Proof.Machine.execDaSetReceive p d s
  | .stakeTickStart => Sys2Proof.Machine.execStakeTickStart s
  | .permitLoss => Sys2Proof.Machine.execPermitLoss s
  | .leaseExpiry => Sys2Proof.Machine.execLeaseExpiry s
  | .tickLockLoss => Sys2Proof.Machine.execTickLockLoss s
  | .holdoverExpiry => Sys2Proof.Machine.execHoldoverExpiry s
  | .periodFrameTimeout => Sys2Proof.Machine.execPeriodFrameTimeout s
  | .tickmarkReceive q frame at' => Sys2Proof.Machine.execTickmarkReceive q frame at' s
  | .applyInstant => Sys2Proof.Machine.execApplyInstant s
  | .trimEnd => Sys2Proof.Machine.execTrimEnd s
  | .blockPairReceive q frame at' => Sys2Proof.Machine.execBlockPairReceive q frame at' s
  | .blockPairDatum p frame => Sys2Proof.Machine.execBlockPairDatum p frame s
  | .isolatedUrgent p => Sys2Proof.Machine.execIsolatedUrgent p s
  | .codeViolation l sym inFrame => Sys2Proof.Machine.execCodeViolation l sym inFrame s
  | .commaRealign l inFrame => Sys2Proof.Machine.execCommaRealign l inFrame s
  | .rxcDetect l => Sys2Proof.Machine.execRxcDetect l s
  | .bitLock l phase => Sys2Proof.Machine.execBitLock l phase s
  | .symbolLock l align => Sys2Proof.Machine.execSymbolLock l align s
  | .capSetReceive l c => Sys2Proof.Machine.execCapSetReceive l c s
  | .farEndEchoEnd p => Sys2Proof.Machine.execFarEndEchoEnd p s
  | .capSetPeriodic l => Sys2Proof.Machine.execCapSetPeriodic l s
  | .dmSetReceive l d sent got => Sys2Proof.Machine.execDmSetReceive l d sent got s
  | .bringupTimeout l => Sys2Proof.Machine.execBringupTimeout l s
  | .rxcLoss l inFrame => Sys2Proof.Machine.execRxcLoss l inFrame s
  | .blindRelock p => Sys2Proof.Machine.execBlindRelock p s
  | .blindTimeout p => Sys2Proof.Machine.execBlindTimeout p s
  | .waitExpiry l => Sys2Proof.Machine.execWaitExpiry l s
  | .bringupRetryLimit p => Sys2Proof.Machine.execBringupRetryLimit p s
  | .portRestart p => Sys2Proof.Machine.execPortRestart p s
  | .injectSingle p => Sys2Proof.Machine.execInjectSingle p s
  | .injectBurst p len => Sys2Proof.Machine.execInjectBurst p len s
  | .prbsClear p => Sys2Proof.Machine.execPrbsClear p s
  | .prbsCheckerLock p bits errs => Sys2Proof.Machine.execPrbsCheckerLock p bits errs s
  | .prbsLockLoss p bits errs => Sys2Proof.Machine.execPrbsLockLoss p bits errs s
  | .turnChange => Sys2Proof.Machine.execTurnChange s
  | .closurePersistFault p => Sys2Proof.Machine.execClosurePersistFault p s
  | .relayReplyTimeout id => Sys2Proof.Machine.execRelayReplyTimeout id s
  | .orderPost a n dir frac => Sys2Proof.Machine.execOrderPost a n dir frac s
  | .levellingSelectDone a => Sys2Proof.Machine.execLevellingSelectDone a s
  | .absentMark => Sys2Proof.Machine.execAbsentMark s
  | .deviationPersist => Sys2Proof.Machine.execDeviationPersist s
  | .unrankedLimit => Sys2Proof.Machine.execUnrankedLimit s
  | .restBandEntry => Sys2Proof.Machine.execRestBandEntry s
  | .gcmdRefresh n => Sys2Proof.Machine.execGcmdRefresh n s
  | .setsSend n reg => Sys2Proof.Machine.execSetsSend n reg s
  | .gfbStatusWord n chips => Sys2Proof.Machine.execGfbStatusWord n chips s
  | .wordLockChange n => Sys2Proof.Machine.execWordLockChange n s
  | .edgeHold n ns len => Sys2Proof.Machine.execEdgeHold n ns len s
  | .strengthLimitFault n => Sys2Proof.Machine.execStrengthLimitFault n s
  | .markerWindowExpiry n => Sys2Proof.Machine.execMarkerWindowExpiry n s
  | .desatTrip n => Sys2Proof.Machine.execDesatTrip n s
  | .desatGlitch n len => Sys2Proof.Machine.execDesatGlitch n len s
  | .lossHold n len => Sys2Proof.Machine.execLossHold n len s
  | .feedbackFault n => Sys2Proof.Machine.execFeedbackFault n s
  | .tripWaitExpiry n => Sys2Proof.Machine.execTripWaitExpiry n s
  | .cleanExpiry n => Sys2Proof.Machine.execCleanExpiry n s
  | .notreadyTimeout n => Sys2Proof.Machine.execNotreadyTimeout n s
  | .unlatch n => Sys2Proof.Machine.execUnlatch n s
  | .cellVoltageResult raw rawB => Sys2Proof.Machine.execCellVoltageResult raw rawB s
  | .ov2Block => Sys2Proof.Machine.execOv2Block s
  | .ov2Clr => Sys2Proof.Machine.execOv2Clr s
  | .ov3Trigger => Sys2Proof.Machine.execOv3Trigger s
  | .bypassFireDrive => Sys2Proof.Machine.execBypassFireDrive s
  | .bypassReadbackFail path => Sys2Proof.Machine.execBypassReadbackFail path s
  | .bypassFireRelease => Sys2Proof.Machine.execBypassFireRelease s
  | .bypassCmdArm at' => Sys2Proof.Machine.execBypassCmdArm at' s
  | .bypassCmdFire at' => Sys2Proof.Machine.execBypassCmdFire at' s
  | .bypassMarkClear => Sys2Proof.Machine.execBypassMarkClear s
  | .bypassArmTimeout => Sys2Proof.Machine.execBypassArmTimeout s
  | .selfTestStart sel ch => Sys2Proof.Machine.execSelfTestStart sel ch s
  | .selfTestEnd pass => Sys2Proof.Machine.execSelfTestEnd pass s
  | .manualModeWrite n man manOn => Sys2Proof.Machine.execManualModeWrite n man manOn s
  | .manualPulse n width => Sys2Proof.Machine.execManualPulse n width s
  | .adcGridTrigger n at' => Sys2Proof.Machine.execAdcGridTrigger n at' s
  | .adcSwStart n => Sys2Proof.Machine.execAdcSwStart n s
  | .tevFire n => Sys2Proof.Machine.execTevFire n s
  | .adcPassEnd n raw rawB => Sys2Proof.Machine.execAdcPassEnd n raw rawB s
  | .pairMismatch m => Sys2Proof.Machine.execPairMismatch m s
  | .adcInject n inp diff preempt => Sys2Proof.Machine.execAdcInject n inp diff preempt s
  | .adcInjectResult n raw => Sys2Proof.Machine.execAdcInjectResult n raw s
  | .adcCalStart mask => Sys2Proof.Machine.execAdcCalStart mask s
  | .adcCalDone n gain ofs => Sys2Proof.Machine.execAdcCalDone n gain ofs s
  | .rotCalStart mask => Sys2Proof.Machine.execRotCalStart mask s
  | .rotCalAbort m => Sys2Proof.Machine.execRotCalAbort m s
  | .auxPulseStart => Sys2Proof.Machine.execAuxPulseStart s
  | .auxPulseEnd => Sys2Proof.Machine.execAuxPulseEnd s
  | .auxfltCut at' => Sys2Proof.Machine.execAuxfltCut at' s
  | .auxCutLimit => Sys2Proof.Machine.execAuxCutLimit s
  | .auxdemChange high => Sys2Proof.Machine.execAuxdemChange high s
  | .fltinChange n high => Sys2Proof.Machine.execFltinChange n high s
  | .auxsyncEdge at' => Sys2Proof.Machine.execAuxsyncEdge at' s
  | .syncInstant => Sys2Proof.Machine.execSyncInstant s
  | .syncLoss => Sys2Proof.Machine.execSyncLoss s
  | .taskDispatch => Sys2Proof.Machine.execTaskDispatch s
  | .taskEnd n => Sys2Proof.Machine.execTaskEnd n s
  | .outputWindowWrite n addr v => Sys2Proof.Machine.execOutputWindowWrite n addr v s
  | .signalInstruction n j flag => Sys2Proof.Machine.execSignalInstruction n j flag s
  | .cancelInstruction n j ready => Sys2Proof.Machine.execCancelInstruction n j ready s
  | .laneFault n cause => Sys2Proof.Machine.execLaneFault n cause s
  | .nanResult n => Sys2Proof.Machine.execNanResult n s
  | .dataEccError kind ofs n => Sys2Proof.Machine.execDataEccError kind ofs n s
  | .programEccError n corrected => Sys2Proof.Machine.execProgramEccError n corrected s
  | .setFlag j flag => Sys2Proof.Machine.execSetFlag j flag s
  | .slotCancel j ready => Sys2Proof.Machine.execSlotCancel j ready s
  | .heldInstanceEnqueue => Sys2Proof.Machine.execHeldInstanceEnqueue s
  | .overrunLimit => Sys2Proof.Machine.execOverrunLimit s
  | .swapRequest => Sys2Proof.Machine.execSwapRequest s
  | .swapWithdraw => Sys2Proof.Machine.execSwapWithdraw s
  | .bankSwap => Sys2Proof.Machine.execBankSwap s
  | .ogLoad n v => Sys2Proof.Machine.execOgLoad n v s
  | .injArm g => Sys2Proof.Machine.execInjArm g s
  | .injStop g => Sys2Proof.Machine.execInjStop g s
  | .injRunStart => Sys2Proof.Machine.execInjRunStart s
  | .injRunEnd => Sys2Proof.Machine.execInjRunEnd s
  | .rcPeriodChange => Sys2Proof.Machine.execRcPeriodChange s
  | .plausibilityFail => Sys2Proof.Machine.execPlausibilityFail s
  | .trackerLockChange => Sys2Proof.Machine.execTrackerLockChange s
  | .heartbeatReceive m at' ok => Sys2Proof.Machine.execHeartbeatReceive m at' ok s
  | .shareReceive m ok => Sys2Proof.Machine.execShareReceive m ok s
  | .shareTimeout n => Sys2Proof.Machine.execShareTimeout n s
  | .digestReceive m ok => Sys2Proof.Machine.execDigestReceive m ok s
  | .summaryReceive tick arms ok => Sys2Proof.Machine.execSummaryReceive tick arms ok s
  | .controlReceive m ok => Sys2Proof.Machine.execControlReceive m ok s
  | .stateReceive m ok => Sys2Proof.Machine.execStateReceive m ok s
  | .sweepReceive addr bytes ok => Sys2Proof.Machine.execSweepReceive addr bytes ok s
  | .sweepSend => Sys2Proof.Machine.execSweepSend s
  | .heartbeatLoss => Sys2Proof.Machine.execHeartbeatLoss s
  | .matchWindowExpiry => Sys2Proof.Machine.execMatchWindowExpiry s
  | .matchAcquire => Sys2Proof.Machine.execMatchAcquire s
  | .twinSilence => Sys2Proof.Machine.execTwinSilence s
  | .claimTimeout => Sys2Proof.Machine.execClaimTimeout s
  | .handoverWrite => Sys2Proof.Machine.execHandoverWrite s
  | .revertHoldExpiry => Sys2Proof.Machine.execRevertHoldExpiry s
  | .handoverRelease => Sys2Proof.Machine.execHandoverRelease s
  | .handoverClaim => Sys2Proof.Machine.execHandoverClaim s
  | .joinWrite => Sys2Proof.Machine.execJoinWrite s
  | .joinComplete => Sys2Proof.Machine.execJoinComplete s
  | .joinTimeout => Sys2Proof.Machine.execJoinTimeout s
  | .sblkChange x y a b at' => Sys2Proof.Machine.execSblkChange x y a b at' s
  | .srstChange x y a b at' => Sys2Proof.Machine.execSrstChange x y a b at' s
  | .resetComplete => Sys2Proof.Machine.execResetComplete s
  | .discrepancyTimeout srst y => Sys2Proof.Machine.execDiscrepancyTimeout srst y s
  | .proofOpen y => Sys2Proof.Machine.execProofOpen y s
  | .resetStuck y => Sys2Proof.Machine.execResetStuck y s
  | .xlinkHeartbeat => Sys2Proof.Machine.execXlinkHeartbeat s
  | .xlinkTimeout => Sys2Proof.Machine.execXlinkTimeout s
  | .channelDisagree => Sys2Proof.Machine.execChannelDisagree s
  | .safeLock agree => Sys2Proof.Machine.execSafeLock agree s
  | .safeConfigCrc => Sys2Proof.Machine.execSafeConfigCrc s
  | .gcmdGate => Sys2Proof.Machine.execGcmdGate s
  | .faultForce r v => Sys2Proof.Machine.execFaultForce r v s
  | .watchdogFeed key => Sys2Proof.Machine.execWatchdogFeed key s
  | .watchdogExpiry => Sys2Proof.Machine.execWatchdogExpiry s
  | .recordWrite => Sys2Proof.Machine.execRecordWrite s
  | .freeze freeze => Sys2Proof.Machine.execFreeze freeze s
  | .freezeExpiry => Sys2Proof.Machine.execFreezeExpiry s
  | .ringClear => Sys2Proof.Machine.execRingClear s
  | .tailClear => Sys2Proof.Machine.execTailClear s
  | .drRow dropped late => Sys2Proof.Machine.execDrRow dropped late s
  | .drArm => Sys2Proof.Machine.execDrArm s
  | .drStop => Sys2Proof.Machine.execDrStop s
  | .drSwtrig => Sys2Proof.Machine.execDrSwtrig s
  | .drRelease rnum => Sys2Proof.Machine.execDrRelease rnum s
  | .streamChunk ecc => Sys2Proof.Machine.execStreamChunk ecc s
  | .udpRequest port src k => Sys2Proof.Machine.execUdpRequest port src k s
  | .sqTailDoorbell q tail entries => Sys2Proof.Machine.execSqTailDoorbell q tail entries s
  | .cqHeadDoorbell q head => Sys2Proof.Machine.execCqHeadDoorbell q head s
  | .streamReadIndex j => Sys2Proof.Machine.execStreamReadIndex j s
  | .barQueueConfig ofs v => Sys2Proof.Machine.execBarQueueConfig ofs v s
  | .nop r => Sys2Proof.Machine.execNop r s
  | .read r addr count => Sys2Proof.Machine.execRead r addr count s
  | .write r txid addr words => Sys2Proof.Machine.execWrite r txid addr words s
  | .modify r txid addr mask value => Sys2Proof.Machine.execModify r txid addr mask value s
  | .readWide r item => Sys2Proof.Machine.execReadWide r item s
  | .mbReqWrite item => Sys2Proof.Machine.execMbReqWrite item s
  | .platRead r ofs len => Sys2Proof.Machine.execPlatRead r ofs len s
  | .resetWarm r key => Sys2Proof.Machine.execResetWarm r key s
  | .strobe r groups => Sys2Proof.Machine.execStrobe r groups s
  | .strobeFire groups => Sys2Proof.Machine.execStrobeFire groups s
  | .netcfg r sel data => Sys2Proof.Machine.execNetcfg r sel data s
  | .txnBegin r scope t => Sys2Proof.Machine.execTxnBegin r scope t s
  | .txnPrepare r txid => Sys2Proof.Machine.execTxnPrepare r txid s
  | .txnCommit r txid imm tick => Sys2Proof.Machine.execTxnCommit r txid imm tick s
  | .txnRollback r txid => Sys2Proof.Machine.execTxnRollback r txid s
  | .txnStatus r txid => Sys2Proof.Machine.execTxnStatus r txid s
  | .txnSprep r txid total first writes => Sys2Proof.Machine.execTxnSprep r txid total first writes s
  | .txnScommit r txid tick => Sys2Proof.Machine.execTxnScommit r txid tick s
  | .txnSabort r txid => Sys2Proof.Machine.execTxnSabort r txid s
  | .txnIdleExpiry txid => Sys2Proof.Machine.execTxnIdleExpiry txid s
  | .txnTickApply => Sys2Proof.Machine.execTxnTickApply s
  | .txnStakeApply => Sys2Proof.Machine.execTxnStakeApply s
  | .txnPrepareTimeout => Sys2Proof.Machine.execTxnPrepareTimeout s
  | .txnCommitComplete => Sys2Proof.Machine.execTxnCommitComplete s
  | .relay r t k => Sys2Proof.Machine.execRelay r t k s
  | .chainScan r p => Sys2Proof.Machine.execChainScan r p s
  | .relayFlush r ports => Sys2Proof.Machine.execRelayFlush r ports s
  | .loopSwap r tick => Sys2Proof.Machine.execLoopSwap r tick s
  | .armStatus r a => Sys2Proof.Machine.execArmStatus r a s
  | .fbRead r space count first => Sys2Proof.Machine.execFbRead r space count first s
  | .fbFreeze r on => Sys2Proof.Machine.execFbFreeze r on s
  | .drList r => Sys2Proof.Machine.execDrList r s
  | .drRead r rnum ofs len ecc => Sys2Proof.Machine.execDrRead r rnum ofs len ecc s
  | .adcCal r cal rot => Sys2Proof.Machine.execAdcCal r cal rot s
  | .gateTest r sel ch => Sys2Proof.Machine.execGateTest r sel ch s
  | .bypassFire r code => Sys2Proof.Machine.execBypassFire r code s
  | .leaseStatus r => Sys2Proof.Machine.execLeaseStatus r s
  | .handover r => Sys2Proof.Machine.execHandover r s
  | .join r => Sys2Proof.Machine.execJoin r s
  | .safeStatus r => Sys2Proof.Machine.execSafeStatus r s
  | .ident r => Sys2Proof.Machine.execIdent r s
  | .attest r nonce => Sys2Proof.Machine.execAttest r nonce s
  | .adopt r confirm p slot a idx monument => Sys2Proof.Machine.execAdopt r confirm p slot a idx monument s
  | .adoptionScan p => Sys2Proof.Machine.execAdoptionScan p s
  | .imgOpen r target len => Sys2Proof.Machine.execImgOpen r target len s
  | .imgData r ofs bytes => Sys2Proof.Machine.execImgData r ofs bytes s
  | .imgCheck r => Sys2Proof.Machine.execImgCheck r s
  | .imgActivate r target => Sys2Proof.Machine.execImgActivate r target s
  | .imgStatus r => Sys2Proof.Machine.execImgStatus r s
  | .firmwareConfirm => Sys2Proof.Machine.execFirmwareConfirm s
  | .trialTimeout crashed => Sys2Proof.Machine.execTrialTimeout crashed s
  | .bootImageCheck hdr slot0 slot1 => Sys2Proof.Machine.execBootImageCheck hdr slot0 slot1 s
  | .configLoad writes locks store => Sys2Proof.Machine.execConfigLoad writes locks store s
  | .configParityScrub addr shadow => Sys2Proof.Machine.execConfigParityScrub addr shadow s
  | .lockSet mask => Sys2Proof.Machine.execLockSet mask s
  | .timeStep => Sys2Proof.Machine.execTimeStep s
  | .ftrimWrite v => Sys2Proof.Machine.execFtrimWrite v s
  | .disciplineHoldover => Sys2Proof.Machine.execDisciplineHoldover s
  | .ptpTxStamp n seqId msgType corr frac => Sys2Proof.Machine.execPtpTxStamp n seqId msgType corr frac s
  | .ptpRxStamp n frac => Sys2Proof.Machine.execPtpRxStamp n frac s
  | .tickalignReceive d m at' ok => Sys2Proof.Machine.execTickalignReceive d m at' ok s
  | .alignmentLoss => Sys2Proof.Machine.execAlignmentLoss s
  | .followerRephase => Sys2Proof.Machine.execFollowerRephase s
  | .varsReceive d tick words ok => Sys2Proof.Machine.execVarsReceive d tick words ok s
  | .mgmtForward d m ok => Sys2Proof.Machine.execMgmtForward d m ok s
  | .forwardTimeout key tag => Sys2Proof.Machine.execForwardTimeout key tag s
  | .shedStageRise v => Sys2Proof.Machine.execShedStageRise v s
  | .shedStageFall mv => Sys2Proof.Machine.execShedStageFall mv s
  | .shedResetEntry => Sys2Proof.Machine.execShedResetEntry s
  | .shedResetRelease straps inputs => Sys2Proof.Machine.execShedResetRelease straps inputs s
  | .haltRxcAbsent l => Sys2Proof.Machine.execHaltRxcAbsent l s
  | .resetStuckClear y => Sys2Proof.Machine.execResetStuckClear y s
  | .aliveEdge => Sys2Proof.Machine.execAliveEdge s
  | .effectiveInstant n => Sys2Proof.Machine.execEffectiveInstant n s
  | .tevPulseEnd n => Sys2Proof.Machine.execTevPulseEnd n s
  | .railReturn j => Sys2Proof.Machine.execRailReturn j s
  | .retentionDetector => Sys2Proof.Machine.execRetentionDetector s
  | .auxfltFall => Sys2Proof.Machine.execAuxfltFall s
  | .replyCacheExpiry r => Sys2Proof.Machine.execReplyCacheExpiry r s

end Sys2Proof.Machine
end

