-- ==== Sys2Proof/Machine/Step.lean ====
section
/-! DEFINITION. The step: the first waiting command acts; with none waiting one clock cycle passes. -/

namespace Sys2Proof.Machine

/-- One GTIME cycle passes with no command, and the outputs so far have left the device (log entry 10). -/
def State.idle (s : State) : State := { s with out := [] }.advance (s.now + 1)

/-- The command at the front of the queue acts on the state with the rest of the queue. -/
def step (s : State) : Host.Outcome State Fault Refusal :=
  match s.pending with
  | [] => .next s.idle
  | c :: rest => exec c { s with pending := rest }

/-- The state with the command that a word spells at the front of its queue; unchanged where the word spells none. -/
def State.withFetchWord (s : State) (nbits w : Nat) : State :=
  match decodeTableWord nbits w with
  | some c => { s with pending := c :: s.pending }
  | none => s

end Sys2Proof.Machine
end

