-- ==== Sys2Proof/Safety.lean ====
section
/-! DEFINITION. The terms in which the statements speak of whole runs: sound states, the commands that reset or store, and
several steps. -/

namespace Sys2Proof

/-- The commands that put the device into reset or take it out (R1, R372, R379, R386). -/
def Instr.mayReset : Instr → Bool
  | .pornAssert => true
  | .supplyReset => true
  | .resetRelease _ _ _ => true
  | .shedResetEntry => true
  | .shedResetRelease _ _ => true
  | _ => false

/-- The commands that may store to loop memory: writes by management and by transactions, images, the configuration
store, copies of results and inputs, messages of the twin and of other Datums, the frame-build cut-off, at which the
control units write their outputs, and the tick start, at which the data writes of a transaction may fall due. -/
def Instr.mayStore : Instr → Bool
  | .write _ _ _ _ => true
  | .modify _ _ _ _ _ => true
  | .configLoad _ _ _ => true
  | .imgData _ _ _ => true
  | .txnCommit _ _ _ _ => true
  | .txnTickApply => true
  | .txnStakeApply => true
  | .adcPassEnd _ _ _ => true
  | .shareReceive _ _ => true
  | .shareTimeout _ => true
  | .stateReceive _ _ => true
  | .sweepReceive _ _ _ => true
  | .varsReceive _ _ _ _ => true
  | .frameBuildCutoff => true
  | .tickStart _ _ => true
  | .rcPeriodChange => true
  | _ => false

end Sys2Proof

namespace Sys2Proof.Machine

/-- The memory and the three copies of the registers are in canonical form, so that equal contents are equal data. -/
def State.sound (s : State) : Prop :=
  Memory.wf s.mem = true ∧ kwf s.live = true ∧ kwf s.shd = true ∧ kwf s.act = true

/-- The role that ROLE[1:0] gives at the release of reset (R1). -/
def roleOf (straps : Nat) : Role := if straps % 4 = 0 then .stake else if straps % 4 = 1 then .datum else .reserved

/-- Both safety channels are BLOCKED (R268, R269). -/
abbrev State.bothBlocked (s : State) : Prop := s.sf.x.permit = false ∧ s.sf.y.permit = false

/-- The state after a number of steps, if each of them answers a next state. -/
def steps : Nat → State → Option State
  | 0, s => some s
  | n + 1, s =>
    match step s with
    | .next t => steps n t
    | _ => none

end Sys2Proof.Machine
end

