-- ==== Sys2Proof/Certificates/Slice0/Obligations.lean ====
section
/-! DEFINITION. The statements for the provers. -/

open Sys2Proof Sys2Proof.Machine


/-- A step runs the command at the front of the queue on the state with the rest of it. For every command c, every queue
behind it and every state, the step of the state with c in front is what exec answers for c on the state with the rest
of the queue. The queue is the model's way of taking commands (log entry 10). -/
def Obligations.StepRunsFrontCommand : Prop :=
  ∀ (c : Instr) (rest : List Instr) (s : State),
    step { s with pending := c :: rest } = exec c { s with pending := rest }

/-- With no command waiting, one GTIME cycle passes and nothing else changes. The step on an empty queue answers a next
state one cycle later, with station time moved on by 2 ns if it runs (R45, R49), the records of the cycle that ends
entered into the Field Book (R307), no outputs left, and every other part of the state as before. That an idle step is
one cycle is the model's choice (log entry 10). -/
def Obligations.IdleStepPassesOneCycle : Prop :=
  ∀ s : State, s.pending = [] →
    step s = .next { s with
      now := s.now + 1, out := [], time := if s.timeMoves then s.time.addNs 2 else s.time, fb := s.endCycle.fb }

/-- The state right after power-on is sound: in reset, with nothing waiting and every register at its reset value.
State.reset is sound, is held by PORn, has an empty queue and no outputs, reads every live, shadow and active field as
its reset value and every byte of memory as the default, holds no fault, no record, no transaction, no relay and no
request, and both safety channels BLOCKED (R268, R281, R372). Bytes of memory reading as 0, and what the state beside
the registers holds, are the model's choice (log entries 2 and 3). -/
def Obligations.ResetStateIsSound : Prop :=
  State.reset.sound ∧ State.reset.phase = .porn ∧ State.reset.pending = [] ∧ State.reset.out = [] ∧
    (∀ f, State.reset.get f = f.reset ∧ State.reset.shadow f = f.reset ∧ State.reset.cfg f = f.reset) ∧
    (∀ a, memGet State.reset.mem a = memDefault) ∧ State.reset.bothBlocked ∧ State.reset.fb.queue = [] ∧
    State.reset.mg.reqs = [] ∧ State.reset.mg.relays = [] ∧ State.reset.mg.txns = []

/-- Every step keeps the state sound: memory and registers stay in canonical form. From every sound state, with whatever
command in front of the queue or none, a step that answers a next state leaves it sound: the memory sorted by address
with no default byte listed, and each of the three copies of the registers sorted by field. -/
def Obligations.EveryStepKeepsSound : Prop :=
  ∀ s t : State, s.sound → step s = .next t → t.sound

/-- Every command answers a next state and leaves the queue as it was. For every command and every state, exec answers a
next state, never a fault or a refusal, and the commands that wait behind it are untouched. A command that the role or
the state of the device does not take has no effect (log entry 7); a management command that fails is answered with a
status (R339, R340). -/
def Obligations.EveryCommandAnswers : Prop :=
  ∀ (c : Instr) (s : State), ∃ t, exec c s = .next t ∧ t.pending = s.pending

/-- The role is fixed from the release of reset until the next reset. A command that is no reset leaves role and phase as
they are, a warm reset, a firmware reset and an update among them (R3). After PORn, after a failed supply of a running
device and after the S4 reset of R386, the next release samples ROLE[1:0] again, whatever the role was before. That a
supply which fails at stage 4 makes the S4 reset is the model's reading (log entry 77). -/
def Obligations.RoleFixedUntilReset : Prop :=
  (∀ (c : Instr) (s t : State), s.running = true → c.mayReset = false → exec c s = .next t →
      t.role = s.role ∧ t.phase = s.phase) ∧
    (∀ (s u t : State) (straps m i : Nat), exec .pornAssert s = .next u → exec (.resetRelease straps m i) u = .next t →
      t.role = roleOf straps) ∧
    (∀ (s u t : State) (straps m i : Nat), s.running = true → s.get SH_STAT_STAGE ≠ 4 → exec .supplyReset s = .next u →
      exec (.resetRelease straps m i) u = .next t → t.role = roleOf straps) ∧
    (∀ (s u t : State) (straps i : Nat), s.running = true → s.get SH_STAT_STAGE = 4 → exec .supplyReset s = .next u →
      exec (.shedResetRelease straps i) u = .next t → t.role = roleOf straps) ∧
    (∀ (s u t : State) (straps i : Nat), s.running = true → exec .shedResetEntry s = .next u → u.phase ≠ s.phase →
      exec (.shedResetRelease straps i) u = .next t → t.role = roleOf straps)

/-- A command that neither stores nor resets leaves every byte of loop memory as it reads. For every command outside the
named ones that may store (writes by management and transactions, images, the configuration store, copies of results
and inputs, messages of the twin and of other Datums, the cut-off, a tick start at which data writes of a transaction
fall due, a resampled channel) and outside resets, every address reads after the command what it read before. -/
def Obligations.OnlyStoresChangeMemory : Prop :=
  ∀ (c : Instr) (s t : State), c.mayStore = false → c.mayReset = false → exec c s = .next t →
    ∀ a, memGet t.mem a = memGet s.mem a

/-- A Datum under safe block stays blocked, through any number of steps, until a reset of the safe block completes. From
every state of a Datum with both channels BLOCKED and a queue that holds no RESET_COMPLETE and no reset of the device,
every number of steps ends in a state with both channels BLOCKED: no frame, message, write, transaction, fault, timer
or other command ends the block (R268, R278, R298). -/
def Obligations.BlockedDatumStaysBlocked : Prop :=
  ∀ (n : Nat) (s t : State), s.role = .datum → s.bothBlocked →
    (∀ c ∈ s.pending, c ≠ .resetComplete ∧ c.mayReset = false) → steps n s = some t → t.bothBlocked

/-- No step takes the device back in time. For every state, a step that answers a next state leaves the cycle count of the
device where it was or later; a reset does not set it back. The count is the model's own (log entry 10). -/
def Obligations.ClockNeverGoesBack : Prop :=
  ∀ s t : State, step s = .next t → s.now ≤ t.now

/-- A device held in reset or in a reserved role takes no command and drives nothing. In a state that is not running,
every command but the resets and the retention detector leaves the whole state as it is, outputs included: a device
with a reserved ROLE stays in reset and drives no output (R2), and PORn and the internal resets hold it likewise
(R372). -/
def Obligations.DeviceInResetDoesNothing : Prop :=
  ∀ (c : Instr) (s : State), s.running = false → c.mayReset = false → c ≠ .retentionDetector → exec c s = .next s

/-- Memory reads what was stored, and the bytes beside it as before. In a state whose memory is in canonical form, after
bytes are stored from an address on, each of their addresses reads its byte, every other address reads as before, and
the memory is in canonical form; a stored word reads back, low 32 bits, little-endian (R7). -/
def Obligations.MemoryReadsWhatWasStored : Prop :=
  ∀ (s : State) (a : Nat) (bs : List Nat), Memory.wf s.mem = true →
    (∀ x, memGet (s.setMemBytes a bs).mem x =
      if a ≤ x ∧ x < a + bs.length then BitVec.ofNat 8 (bs.getD (x - a) 0) else memGet s.mem x) ∧
    Memory.wf (s.setMemBytes a bs).mem = true ∧
    (∀ v, (s.setMemWord a v).memWord a = v % 2 ^ 32)

/-- Serial arithmetic: when a value is newer, for every width. For values of width w from 1 on, b is newer than a exactly
when their difference modulo 2^w lies between 1 and 2^(w-1) - 1; a difference of 0 is equality and of 2^(w-1) is not
newer, and of two values at most one is newer than the other. -/
def Obligations.SerialArithmetic : Prop :=
  ∀ w a b d : Nat, 1 ≤ w → a < 2 ^ w → b < 2 ^ w → d = (b + 2 ^ w - a) % 2 ^ w →
    (isNewer w b a = true ↔ 1 ≤ d ∧ d ≤ 2 ^ (w - 1) - 1) ∧ (d = 0 ↔ b = a) ∧
    (d = 2 ^ (w - 1) → isNewer w b a = false) ∧ (isNewer w b a = true → isNewer w a b = false)

/-- Event counters: one more, saturation, OVF, and the clear by a read. A 31-bit event counter counts one event; the one
that takes it to all-ones, 0x7FFF_FFFF, saturates it and sets OVF, every further event leaves both so, and an event
before leaves OVF as it was; a read that clears the word clears count and OVF, and an event that follows it leaves 1
and OVF 0; of the counters of merged and lost records, which the Field Book keeps, a read leaves 0 and OVF 0 to be
shown (R11, R12, R305, R306). That reaching all-ones is the saturation that sets OVF is inferred (log entry 6). -/
def Obligations.CountersSaturateAndClear : Prop :=
  ∀ (s : State) (f : Fld), f.lo = 0 → f.width = 31 → s.get f < 2 ^ 31 →
    (s.get f < 0x7FFFFFFE → (s.count f).get f = s.get f + 1 ∧ (s.count f).get (ovfOf f) = s.get (ovfOf f)) ∧
    (0x7FFFFFFE ≤ s.get f → (s.count f).get f = 0x7FFFFFFF ∧ (s.count f).get (ovfOf f) = 1) ∧
    (s.get (ovfOf f) = 1 → (s.count f).get (ovfOf f) = 1) ∧
    (∀ u, ¬ (0x20100 ≤ f.addr ∧ f.addr < 0x20120) → f.addr ≠ FB_MERGED.addr → f.addr ≠ FB_LOST.addr →
      u = s.clearRc [⟨f, .rc, false, []⟩, ⟨ovfOf f, .rc, false, []⟩] →
      u.get f = 0 ∧ u.get (ovfOf f) = 0 ∧ (u.count f).get f = 1 ∧ (u.count f).get (ovfOf f) = 0) ∧
    (∀ u v, u = s.clearRc [⟨FB_MERGED, .rc, false, []⟩, ⟨FB_MERGED_OVF, .rc, false, []⟩] →
      v = s.clearRc [⟨FB_LOST, .rc, false, []⟩, ⟨FB_LOST_OVF, .rc, false, []⟩] →
      u.view FB_MERGED = 0 ∧ u.view FB_MERGED_OVF = 0 ∧ v.view FB_LOST = 0 ∧ v.view FB_LOST_OVF = 0)

/-- The release of reset takes the role from ROLE[1:0]. At the release of a device held by PORn, by the reset after a
failed supply or by the S4 reset, ROLE[1:0] = 0 makes a Stake, 1 a Datum, and 2 and 3 are reserved. -/
def Obligations.RoleFromStraps : Prop :=
  ∀ (s : State) (straps m i : Nat),
    (s.phase = .porn ∨ s.phase = .supply → ∃ t, exec (.resetRelease straps m i) s = .next t ∧
      (straps % 4 = 0 → t.role = .stake) ∧ (straps % 4 = 1 → t.role = .datum) ∧ (2 ≤ straps % 4 → t.role = .reserved)) ∧
    (s.phase = .shed → ∃ t, exec (.shedResetRelease straps i) s = .next t ∧
      (straps % 4 = 0 → t.role = .stake) ∧ (straps % 4 = 1 → t.role = .datum) ∧ (2 ≤ straps % 4 → t.role = .reserved))

/-- The lease check of a frame passes exactly for the holder, its release, and a matched twin. The check fails without a
valid record. A frame from the recorded board passes as holder of the recorded epoch, or as its release at the next
epoch; one from the other board needs MATCHED, and passes when it acknowledges the recorded epoch or claims the next.
Bits of FLAGS: 0 MATCHED, 2 HOLDER; bit 8 of SENDER is the board (R96). -/
def Obligations.LeaseCheckOfAFrame : Prop :=
  ∀ (s : State) (h : Header) (e next b : Nat), e = s.get LS_SEPOCH_EPOCH → next = (e + 1) % 2 ^ 32 →
    b = h.sender / 2 ^ 8 % 2 →
    (s.leaseCheck h = true ↔ s.on LS_SREC_VALID = true ∧
      ((b = s.get LS_SREC_BOARD ∧
          ((bitOf h.flags 2 = true ∧ h.epoch = e) ∨ (bitOf h.flags 2 = false ∧ h.epoch = next))) ∨
        (b ≠ s.get LS_SREC_BOARD ∧ bitOf h.flags 0 = true ∧
          ((bitOf h.flags 2 = false ∧ h.epoch = e) ∨ (bitOf h.flags 2 = true ∧ h.epoch = next)))))

/-- Every result is corrected by OFS and GAIN, rounded to nearest and clamped to the coding range. The corrected code of a
raw code is floor(((raw - OFS) * GAIN + 65536) / 131072), clamped to -32768 to 32767 for a differential entry, whose
raw code is signed, and to 0 to 65535 otherwise; GAIN of 0x20000 and OFS of 0 change nothing, and exact halves round
towards plus infinity: 2.5 to 3, -2.5 to -2. -/
def Obligations.CorrectionOfResults : Prop :=
  (∀ (s : State) (n raw : Nat) (v : Int),
      v = ((raw % 65536 : Nat) - toSigned 16 (s.get (AD_CAL_OFS_OFS n))) * (s.get (AD_CAL_GAIN_GAIN n) : Int) →
      s.correct n raw 0 = max 0 (min 65535 (Int.fdiv (v + 65536) 131072))) ∧
    (∀ (s : State) (n raw : Nat) (v : Int),
      v = (toSigned 16 raw - toSigned 16 (s.get (AD_CAL_OFS_OFS n))) * (s.get (AD_CAL_GAIN_GAIN n) : Int) →
      s.correct n raw 1 = max (-32768) (min 32767 (Int.fdiv (v + 65536) 131072))) ∧
    (∀ (s : State) (n raw : Nat), s.get (AD_CAL_GAIN_GAIN n) = 0x20000 → s.get (AD_CAL_OFS_OFS n) = 0 →
      s.correct n raw 0 = (raw % 65536 : Nat)) ∧
    (∀ (s : State) (n : Nat), s.get (AD_CAL_GAIN_GAIN n) = 0x10000 → s.get (AD_CAL_OFS_OFS n) = 0 →
      s.correct n 5 0 = 3 ∧ s.correct n 0xFFFB 1 = -2)

/-- A Datum that enters S3 blocks both channels and sends BLOCK pairs, whatever the class of source 30. In a Datum below
stage 3 whose VAUXS falls to the third level, through one level or several, both safety channels are BLOCKED,
BLOCK_ACT is set and a BLOCK pair leaves every port of an affected arm (R385); with a frame due or TICKMARK on the
line the pairs wait (R63). When the stage falls again the channels stay; a completed reset of both channels that meets
its conditions ends the block (R278, R289). That it looks in the queue for a new request of its cycle is the model's
choice (log entry 114). -/
def Obligations.DatumBlocksAtS3 : Prop :=
  ∀ (s : State) (n mv : Nat), s.isDatum = true →
    (s.get SH_STAT_STAGE ≤ 2 → min n (s.stageFor mv) = 3 → ∃ t, exec (.shedStageRise ⟨n, mv⟩) s = .next t ∧ t.bothBlocked ∧
      t.on FC_STAT_BLOCK_ACT = true ∧ t.get SH_STAT_STAGE = 3) ∧
    (s.get SH_STAT_STAGE ≤ 2 → min n (s.stageFor mv) = 3 → s.tb.sofDue = none → s.markSending = false →
      ∃ t, exec (.shedStageRise ⟨n, mv⟩) s = .next t ∧ ∀ p ∈ t.blockPorts, Out.blockPair p ∈ t.out) ∧
    (s.get SH_STAT_STAGE ≤ 2 → min n (s.stageFor mv) = 3 → s.tb.sofDue.isSome = true →
      ∃ t, exec (.shedStageRise ⟨n, mv⟩) s = .next t ∧ t.tb.sofDue = some true) ∧
    (s.get SH_STAT_STAGE ≤ 2 → min n (s.stageFor mv) = 3 → s.tb.sofDue = none → s.markSending = true →
      ∃ t, exec (.shedStageRise ⟨n, mv⟩) s = .next t ∧ t.tb.held = true) ∧
    (∃ t, exec (.shedStageFall mv) s = .next t ∧ t.sf.x.permit = s.sf.x.permit ∧ t.sf.y.permit = s.sf.y.permit) ∧
    (s.bothBlocked → s.sf.x.resetDue = true → s.sf.y.resetDue = true → s.resetOk s.sf.x = true → s.resetOk s.sf.y = true →
      (∀ x y a b u, Instr.sblkChange x y a b u ∉ s.pending) →
      ∃ t, exec .resetComplete s = .next t ∧ t.sf.x.permit = true ∧ t.sf.y.permit = true ∧
        t.on FC_STAT_BLOCK_ACT = false)

/-- The threshold of Levelling selects exactly n of the keys. For strictly rising keys below 0xFFFFFFFF and n of at most
their number, a charging arm has exactly n keys below the threshold, a discharging arm exactly n keys at or above it,
and the trim key, where there is one, is the next one that is not selected: the lowest of those at or above it in a
charging arm, the highest of those below it in a discharging arm (R138, R140). -/
def Obligations.ThresholdSelectsExactlyN : Prop :=
  ∀ (ks : List Nat) (n : Nat), ks.Pairwise (· < ·) → (∀ k ∈ ks, k < 0xFFFFFFFF) → n ≤ ks.length →
    (ks.filter (· < (threshold ks n false).1)).length = n ∧
    (ks.filter ((threshold ks n true).1 ≤ ·)).length = n ∧
    (∀ k, (threshold ks n false).2 = some k →
      k ∈ ks ∧ (threshold ks n false).1 ≤ k ∧ (∀ j : Nat, j ∈ ks → (threshold ks n false).1 ≤ j → k ≤ j)) ∧
    (∀ k, (threshold ks n true).2 = some k →
      k ∈ ks ∧ k < (threshold ks n true).1 ∧ (∀ j : Nat, j ∈ ks → j < (threshold ks n true).1 → j ≤ k))

/-- The key of a report: adjusted voltage code above the index. The adjusted code is VCODE, less HOLD but not below 0 for
an inserted Stake of a charging arm, plus HOLD for an inserted one of a discharging arm, and at most 0x3FFFFE; the key
holds it in bits 31:10 and the index in bits 9:0, is at most 0xFFFFFBFF, and two keys of different indices differ. -/
def Obligations.KeysOfReports : Prop :=
  (∀ (r : TeleSlot) (hold : Nat), r.ins = true → r.vcode < hold → adjusted r false hold = 0) ∧
    (∀ (r : TeleSlot) (hold : Nat), r.ins = true → hold ≤ r.vcode →
      adjusted r false hold = min 0x3FFFFE (r.vcode - hold)) ∧
    (∀ (r : TeleSlot) (hold : Nat), r.ins = true → adjusted r true hold = min 0x3FFFFE (r.vcode + hold)) ∧
    (∀ (r : TeleSlot) (dir : Bool) (hold : Nat), r.ins = false → adjusted r dir hold = min 0x3FFFFE r.vcode) ∧
    (∀ (r q : TeleSlot) (dir : Bool) (hold i j : Nat), i < 1024 → j < 1024 →
      keyOf r dir hold i / 2 ^ 10 = adjusted r dir hold ∧ keyOf r dir hold i % 2 ^ 10 = i ∧
        keyOf r dir hold i ≤ 0xFFFFFBFF ∧ (i ≠ j → keyOf r dir hold i ≠ keyOf q dir hold j))

/-- An assertion of class 3 or 4 blocks both safety channels at once; one below class 3 changes neither. When an enabled
source asserts at class 3 or 4, both channels are BLOCKED and BLOCK_ACT is set, with TERMINAL at class 4, and FHOLD in
a Stake, whose cell goes Off. Below class 3 the channels keep their states, and class 2 sets DEGRADE. Class 1 and
above sets PENDING, the status bit is set at every class, and a disabled source does nothing (R292 to R296, R299). -/
def Obligations.Class3And4Block : Prop :=
  ∀ (s : State) (src data : Nat) (forced : Bool), src < 256 →
    (s.enabled src = false → s.assertSrc src data forced = s) ∧
    (s.enabled src = true → 3 ≤ s.classOf src → s.role = .datum →
      (s.assertSrc src data forced).bothBlocked ∧ (s.assertSrc src data forced).on FC_STAT_BLOCK_ACT = true) ∧
    (s.enabled src = true → 3 ≤ s.classOf src → s.role = .stake →
      (s.assertSrc src data forced).bothBlocked ∧ (s.assertSrc src data forced).on FC_STAT_BLOCK_ACT = true ∧
        (s.assertSrc src data forced).on SF_SSTAT_FHOLD = true ∧ (s.assertSrc src data forced).cell = .off) ∧
    (s.enabled src = true → s.classOf src = 4 → (s.assertSrc src data forced).on FC_STAT_TERMINAL = true) ∧
    (s.enabled src = true → s.classOf src < 3 →
      (s.assertSrc src data forced).sf.x.permit = s.sf.x.permit ∧
        (s.assertSrc src data forced).sf.y.permit = s.sf.y.permit) ∧
    (s.enabled src = true → s.classOf src = 2 → (s.assertSrc src data forced).on FC_STAT_DEGRADE = true) ∧
    (s.enabled src = true → 1 ≤ s.classOf src → (s.assertSrc src data forced).on FC_STAT_PENDING = true) ∧
    (s.enabled src = true →
      bitOf ((s.assertSrc src data forced).get (FC_STATUS_SRC (src / 32))) (src % 32) = true)

/-- A Stake's lease record changes only to a newer epoch of its holder, or to the next epoch of the other board when the
lease is free. When lease processing of a frame changes the recorded epoch or board, the frame names HOLDER, the
record takes the frame's epoch, holder and board, the lease timer LS_SREC.LEASE_T becomes LT of LS_SCFG and RELEASED
clears; and if there was a record before, either the frame came from the recorded board with a newer epoch, or from
the other one with the next epoch while the lease had run out or been released (R258). -/
def Obligations.LeaseRecordMovesForward : Prop :=
  ∀ (s t : State) (h : Header), t = s.leaseProcess h → h.epoch < 2 ^ 32 → h.sender < 2 ^ 16 →
    t.get LS_SEPOCH_EPOCH ≠ s.get LS_SEPOCH_EPOCH ∨ t.get LS_SREC_BOARD ≠ s.get LS_SREC_BOARD →
    bitOf h.flags 2 = true ∧ t.get LS_SEPOCH_EPOCH = h.epoch ∧ t.get LS_SREC_HOLDER = h.sender ∧
      t.get LS_SREC_BOARD = h.sender / 2 ^ 8 % 2 ∧ t.on LS_SREC_VALID = true ∧ t.on LS_SREC_RELEASED = false ∧
      t.get LS_SREC_LEASE_T = s.cfg LS_SCFG_LT % 2 ^ LS_SREC_LEASE_T.width ∧
      (s.on LS_SREC_VALID = true →
        (h.sender / 2 ^ 8 % 2 = s.get LS_SREC_BOARD ∧ isNewer 32 h.epoch (s.get LS_SEPOCH_EPOCH) = true) ∨
        (h.sender / 2 ^ 8 % 2 ≠ s.get LS_SREC_BOARD ∧ h.epoch = (s.get LS_SEPOCH_EPOCH + 1) % 2 ^ 32 ∧
          (s.get LS_SREC_LEASE_T = 0 ∨ s.on LS_SREC_RELEASED = true)))

/-- A Stake acts on a sequence number once, and never on an older one. When the duplicate test of a frame changes what the
Stake has acted on, the first frame included, it had acted on none before or the frame's SEQ is newer than the one
acted on; the Stake then records the frame's SEQ and the ACRC of its own entry; and TICK_LOCK, FMT, ACRC, TICK, the
apply instant and the lease check of R117 all passed. A frame whose SEQ is the recorded one leaves the record and the
entry as they are (R117). That an entry which is not used and has no offset has no apply instant to test is the
model's reading (log entry 35). -/
def Obligations.SameFrameActsOnce : Prop :=
  ∀ (s t : State) (q : Nat) (f : Frame), t = s.dupDiscard q f → q < 2 → f.hdr.seq < 2 ^ 32 → s.frm.actedSeq < 2 ^ 32 →
    (s.frm.actedValid = true → f.hdr.seq = s.frm.actedSeq →
      t.frm.actedSeq = s.frm.actedSeq ∧ t.frm.actedAcrc = s.frm.actedAcrc ∧ t.frm.entry = s.frm.entry) ∧
    (t.frm.actedSeq ≠ s.frm.actedSeq ∨ t.frm.actedValid ≠ s.frm.actedValid →
      (s.frm.actedValid = false ∨ isNewer 32 f.hdr.seq s.frm.actedSeq = true) ∧ t.frm.actedSeq = f.hdr.seq ∧
        t.frm.actedAcrc = (f.arm (s.get LVL_SIDX_ARM)).acrc ∧ t.frm.actedValid = true ∧
        s.on TB_STAT_TICK_LOCK = true ∧ 1 ≤ f.hdr.fmt ∧ f.hdr.fmt ≤ 2 ∧ (f.arm (s.get LVL_SIDX_ARM)).ok = true ∧
        f.hdr.tick = s.tb.tick % 2 ^ 32 ∧ s.leaseCheck f.hdr = true ∧
        ((f.arm (s.get LVL_SIDX_ARM)).used = true ∨ (f.arm (s.get LVL_SIDX_ARM)).apply ≠ 0 →
          s.now < s.tb.tickStart + (f.arm (s.get LVL_SIDX_ARM)).apply))

/-- A channel of a Stake leaves BLOCKED only with tick lock, adoption, permits on every live port, and no fault held. When
the deblock of a Stake turns a BLOCKED channel to PERMITTED, the device was a running Stake with TICK_LOCK and
ADOPTED, at least one port was live, every live port had delivered a permit frame within the last CWIN ticks of that
channel, no permit loss stood in that channel, no cross-link fault stood, and FHOLD was 0 or its arm had been blocked
since the fault ended. When both channels are then PERMITTED, FHOLD is 0 and SF_DEBLOCK has counted. A blocked channel
of a device that meets the conditions does leave BLOCKED (R283, R285). That it looks in the queue for a BLOCK pair of
the same cycle is the model's choice (log entry 114). -/
def Obligations.StakeDeblocksUnderItsConditions : Prop :=
  ∀ (s t : State), t = s.tryDeblock →
    (∀ y : Bool, (s.safeCh y).permit = false → (t.safeCh y).permit = true →
      s.role = .stake ∧ s.running = true ∧ s.on TB_STAT_TICK_LOCK = true ∧ s.on LVL_SIDX_ADOPTED = true ∧
        (s.livePort 0 = true ∨ s.livePort 1 = true) ∧
        (∀ q : Nat, q < 2 → s.livePort q = true → s.permitOn (s.safeCh y) q = true) ∧
        (s.safeCh y).permitLost = false ∧ s.sf.beatLost = false ∧ s.sf.diff = false ∧ (s.on SF_SSTAT_FHOLD = false ∨ s.sf.fholdSeen = true)) ∧
    (s.sf.x.permit = false ∨ s.sf.y.permit = false → t.sf.x.permit = true → t.sf.y.permit = true →
      t.on SF_SSTAT_FHOLD = false ∧ (s.get SF_DEBLOCK < 0x7FFFFFFF → t.get SF_DEBLOCK = s.get SF_DEBLOCK + 1)) ∧
    (∀ y : Bool, s.role = .stake → s.running = true → (s.safeCh y).permit = false → s.on TB_STAT_TICK_LOCK = true →
      s.on LVL_SIDX_ADOPTED = true → s.livePort 0 = true ∨ s.livePort 1 = true →
      (∀ q : Nat, q < 2 → s.livePort q = true → s.permitOn (s.safeCh y) q = true) →
      s.on SF_SSTAT_FHOLD = false ∨ s.sf.fholdSeen = true → s.sf.beatLost = false → s.sf.diff = false →
      (s.safeCh y).permitLost = false → (∀ q b u, Instr.blockPairReceive q b u ∉ s.pending) →
      (t.safeCh y).permit = true)

/-- The tick of a Datum: start, end of the last tick, sample instant and cut-off, each once. In a Datum whose ticks run
and have a place: TICK_START begins the planned tick at its planned cycle, with its number, start cycle and station
time, neither sample instant nor cut-off made; then the units begin their tick, the local transactions of the tick
strobe, the tick-start strobes act, and frames, HEARTBEAT and TICKALIGN leave (R31, R94, R252, R348, R364). Where the
end of the tick was asked for, no tick begins and TICK_RUN falls (R32). The sample instant of the tick is made S after
its start: it triggers the converters on the grid, judges the heartbeat and routes its event (R37, R189, R253). The
cut-off is made LEAD before the next tick start, in the order decide, step the units, close, match, lease, send to the
twin (R24). A sample instant or a cut-off that has been made is not made again. The order of the work at a tick start
is the model's reading, that work of one instant is one command its choice, and that HEARTBEAT carries the states as
the last cut-off left them its reading (log entries 14, 47, 48). -/
def Obligations.TickOfADatumCompletes : Prop :=
  ∀ s : State, s.isDatum = true →
    (∀ x y : Bool, s.on TB_STAT_TICK_RUN = true → s.tb.placed = true → s.tb.endTick = false →
      ∃ u, u = ({ s with sf := { s.sf with missX := x, missY := y } } : State).tickBegin ∧
        exec (.tickStart x y) s = .next u.tickUnits.applyDue.tickStrobe.sendFrames.sendHeartbeat.sendAlign ∧
        u.tb.tick = s.tb.nextTick ∧ u.tb.tickStart = s.tb.nextStart ∧ u.tb.tickTime = u.time ∧ u.tb.started = true ∧
        u.tb.sampled = false ∧ u.tb.cutDone = false ∧ u.now = max s.now s.tb.nextStart) ∧
    (∀ (x y : Bool) (u : State), s.on TB_STAT_TICK_RUN = true → s.tb.placed = true → s.tb.endTick = true →
      u = (({ s.advance s.tb.nextStart with
        tb := { s.tb with started := false, endTick := false, placed := false, held := false },
        sf := { s.sf with missX := x, missY := y } } : State).put TB_STAT_TICK_RUN 0) →
      exec (.tickStart x y) s = .next (if s.tb.held then u.sendBlocks else u)) ∧
    (∀ u, s.on TB_STAT_TICK_RUN = true → s.tb.started = true → s.tb.sampled = false →
      u = (s.advance (s.tb.tickStart + s.cfg TB_SAMPLE_S)).gridSample →
      exec .sampleInstant s = .next (({ u with
        tb := { u.tb with sampled := true }
        ad := { u.ad with grid := some (u.now, u.now + u.tickLen) } } : State).heartbeatSample.routeEvent 1)) ∧
    (∀ u v w, s.tb.started = true → s.tb.cutDone = false →
      u = (s.advance (s.tb.nextStart - s.cfg TB_CUTOFF_LEAD)).noteRow (s.tb.nextStart - s.cfg TB_CUTOFF_LEAD) → v = u.decideTick →
      w = (v.2.unitStep u.plIn v.1).closeMissing.matchCutoff.leaseCutoff.sendTwin.routeEvent 2 →
      exec .frameBuildCutoff s = .next ({ w with tb := { w.tb with cutDone := true } } : State).takeLate) ∧
    (s.tb.sampled = true → exec .sampleInstant s = .next s) ∧
    (s.tb.cutDone = true → exec .frameBuildCutoff s = .next s)

/-- The tick of a Stake: predicted tick start, sample instant, loss of lock, the wait for a period frame, GTIME moves. In
a Stake: with lock and a measured period STAKE_TICK_START places the predicted tick and does what each recovered tick
start does; the tick that ended without an accepted comma counts as holdover (R38, R40). The sample instant of a
recovered tick is made S after its start and triggers the converters on the grid (R37, R189). Four consecutive
rejected commas and eight holdover ticks lose lock (R39, R40). A period frame that does not come in time loses a lock
that a TICKMARK gave, and otherwise only ends the wait (R40). GTIME that is due to move moves at a recovered tick
start, with event record 1, DATA 0 (R15, R302). -/
def Obligations.TickOfAStakeCompletes : Prop :=
  ∀ s : State, s.isStake = true →
    (∀ t, s.on TB_STAT_TICK_LOCK = true → s.tb.havePeriod = true → t = (s.predictTick.releaseHeld 0).releaseHeld 1 →
      exec .stakeTickStart s = .next (t.noteRow t.tb.tickStart).permitLookback.leaseTick.ackTick.tickStrobe.tryDeblock ∧
        t.tb.holdRun = (if s.tb.commaInTick = true then s.tb.holdRun else s.tb.holdRun + 1) ∧
        t.tb.tick = (s.tb.tick + 1) % 2 ^ 64 ∧ t.tb.commaInTick = false) ∧
    (∀ u, s.on TB_STAT_TICK_LOCK = true → s.tb.started = true → s.tb.sampled = false →
      u = (s.advance (s.tb.tickStart + s.cfg TB_SAMPLE_S)).gridSample →
      exec .sampleInstant s = .next { u with
        tb := { u.tb with sampled := true }
        ad := { u.ad with grid := some (u.now, u.now + u.tickLen) } }) ∧
    (4 ≤ s.tb.rejRun → exec .tickLockLoss s = .next s.loseLock) ∧
    (8 ≤ s.tb.holdRun → exec .holdoverExpiry s = .next s.loseLock) ∧
    (s.tb.periodWait.isSome = true → s.tb.lockOnMark = true → exec .periodFrameTimeout s = .next s.loseLock) ∧
    (s.tb.periodWait.isSome = true → s.tb.lockOnMark = false →
      exec .periodFrameTimeout s = .next { s with tb := { s.tb with periodWait := none } }) ∧
    (∀ k : Nat, s.tb.moveDue = some k → s.on TB_STAT_TICK_LOCK = true → k < s.tb.tickStart →
      exec .gtimeMove s = .next (({ s with tb := { s.tb with moveDue := none } } : State).event 1 0))

/-- Station time, PTP stamps and clock faults. Out of reset a clock fault raises its source 1 to 4 (R16). Where writes are
taken (below S2, firmware running: R359, R390) STEP of a Datum sets station time to TB_SET; with ticks running it
answers BUSY (R47). A trim within 100 ppm either way is written, applied within the slew limit, and is a valid
correction of source 1, and of source 3 while the Twin link is not in ACTIVE; one beyond answers BAD_PARAM (R46, R48).
Two seconds without a correction from the selected source set HOLDOVER and raise 19 (R48). An event message that
leaves an enabled port with one-step insertion, not over IPv6, carries its stamp; any other is stamped into the FIFO
of 16, or dropped and counted when that is full; a received packet carries its stamp (R51 to R53). What the
correctionField takes is the model's reading (log entry 92). -/
def Obligations.StationTimeCompletes : Prop :=
  ∀ s : State, s.running = true →
    (∀ k, 1 ≤ k → k ≤ 4 → exec (.clockFault k) s = .next (s.raise k)) ∧
    (s.takesWrites = true → s.role = .datum → s.on TB_STAT_TICK_RUN = false →
      exec .timeStep s = .next (({ s with time := {
        sec := s.get TB_SET_SEC_LO_VAL + 2 ^ 32 * s.get TB_SET_SEC_HI_VAL, ns := s.get TB_SET_NS_VAL, frac := 0 } } :
          State).emit (.done 0))) ∧
    (s.takesWrites = true → s.role = .datum → s.on TB_STAT_TICK_RUN = true →
      exec .timeStep s = .next (s.emit (.done stBusy))) ∧
    (∀ v u, s.takesWrites = true → toSigned 32 (v % 2 ^ 32) ≤ 6553600 → -6553600 ≤ toSigned 32 (v % 2 ^ 32) →
      u = ((s.put TB_FTRIM_TRIM (v % 2 ^ 32)).applyTrim).correction 1 →
      exec (.ftrimWrite v) s = .next ((if u.get TW_STAT_LSTATE ≠ 6 then u.correction 3 else u).emit (.done 0)) ∧
        u.tb.trimApplied = max (-u.trimLimit) (min u.trimLimit (toSigned 32 (v % 2 ^ 32)))) ∧
    (∀ v, s.takesWrites = true → 6553600 < toSigned 32 (v % 2 ^ 32) ∨ toSigned 32 (v % 2 ^ 32) < -6553600 →
      exec (.ftrimWrite v) s = .next (s.emit (.done stBadParam))) ∧
    (s.role = .datum → s.cfg TB_CTRL_SRC ≠ 0 → s.on TB_STAT_HOLDOVER = false →
      exec .disciplineHoldover s = .next ((s.put TB_STAT_HOLDOVER 1).raise 19)) ∧
    (∀ n seqId ty c f t, s.role = .datum → n < 2 → s.cfgOn (PTP_CTRL_EN n) = true →
      s.cfgOn (PTP_CTRL_ONESTEP n) = true → s.cfg (PTP_CTRL_TRANSPORT n) ≠ 2 →
      t = s.time.addFrac (f + 4096 * s.cfg (PTP_LAT_EGRESS n)) →
      exec (.ptpTxStamp n seqId ty c f) s = .next (s.emit (.ptpOneStep n seqId t.sec t.ns ((c + t.frac) % 2 ^ 64)
        (s.cfg (PTP_CTRL_TRANSPORT n) = 1)))) ∧
    (∀ n seqId ty c f, s.role = .datum → n < 2 → s.cfgOn (PTP_CTRL_EN n) = true →
      s.cfgOn (PTP_CTRL_ONESTEP n) = false ∨ s.cfg (PTP_CTRL_TRANSPORT n) = 2 → ((kget s.ptp n).getD []).length < 16 →
      exec (.ptpTxStamp n seqId ty c f) s = .next { s with ptp := kset s.ptp n ((kget s.ptp n).getD [] ++ [{
        seqId := seqId, msgType := ty, time := s.time.addFrac (f + 4096 * s.cfg (PTP_LAT_EGRESS n)) }]) }) ∧
    (∀ n seqId ty c f, s.role = .datum → n < 2 → s.cfgOn (PTP_CTRL_EN n) = true →
      s.cfgOn (PTP_CTRL_ONESTEP n) = false ∨ s.cfg (PTP_CTRL_TRANSPORT n) = 2 → 16 ≤ ((kget s.ptp n).getD []).length →
      exec (.ptpTxStamp n seqId ty c f) s = .next (s.count (PTP_DROP n))) ∧
    (∀ n f, s.role = .datum → n < 2 → s.cfgOn (PTP_CTRL_EN n) = true →
      exec (.ptpRxStamp n f) s = .next (s.emit (.ptpRx n
        ((s.time.addFrac f).subFrac (4096 * s.cfg (PTP_LAT_INGRESS n))))))

/-- Bring-up of a link: detect, lock, CAP sets, delay exchanges, timeouts and retries. Out of reset, on a Traverse, Twin
or Baseline link of the role: RXC_DETECT, BIT_LOCK and SYMBOL_LOCK take the link from DETECT, BITLOCK and SYMLOCK to
the next state and keep the sampling phase and word alignment found. A CAP set in CAPX, no far-end echo being granted,
is noted; one that may not be there sends the link to HALT with its cause; else the third identical one sets ACK and,
with ACK in it, takes the link to DELAY. One that fails its CRC does nothing. A DM request is answered with its
turnaround; a response to the outstanding request gives a value, and the 64th ends the measurement. A timeout of
training goes to WAIT with BU_TIMEOUT, and DLY_SPREAD where the delays spread; WAIT ends in DETECT and so does HALT
once RXC is absent; RETRY failed attempts of a port raise 32 + p once. After each, ports in ACTIVE whose content
changed send CAP sets and a Stake may deblock (R70, R73, R74, R76, R78, R80). That a set which fails its CRC breaks no
run, that ACK takes part in the comparison, and that a DM request is answered from CAPX on, with one request
outstanding at a time, is the model's choice or reading (log entries 16, 97, 124). -/
def Obligations.LinkBringUpCompletes : Prop :=
  ∀ (s : State) (l : Nat), s.running = true → s.hasLink l = true →
    (s.lstate l = 1 → exec (.rxcDetect l) s = .next (s.goLink l 2 []).capNews.tryDeblock) ∧
    (∀ ph, s.lstate l = 2 →
      exec (.bitLock l ph) s = .next ((s.setLink l { s.link l with phase := ph }).goLink l 3 []).capNews.tryDeblock) ∧
    (∀ al, s.lstate l = 3 →
      exec (.symbolLock l al) s = .next ((s.setLink l { s.link l with align := al }).goLink l 4 []).capNews.tryDeblock) ∧
    (∀ (c : Cap) (u : State), c.ok = true →
      (decide (l < 16) && c.feReq && s.cfgOn (TRV_CTRL_FE_ALLOW l)) = false → s.lstate l = 4 →
      u = ((s.setLink l { s.link l with lastCap := some c, partner := c.monument, feedIn := c.feed }).notePartner l
        c).farEnd l c →
      (u.incompat l c = true →
        exec (.capSetReceive l c) s = .next (u.goLink l 9 [TRV_LCAUSE_INCOMPAT l]).capNews.tryDeblock) ∧
      (u.incompat l c = false → l < 16 → u.badFeed l c.feed = true →
        exec (.capSetReceive l c) s = .next (u.goLink l 9 [TRV_LCAUSE_FEEDER_MISMATCH l]).capNews.tryDeblock) ∧
      (u.incompat l c = false → 16 ≤ l → u.badPeer l c = true →
        exec (.capSetReceive l c) s = .next (u.goLink l 9 []).capNews.tryDeblock) ∧
      (∀ (run : Nat) (v : State), u.incompat l c = false → (l < 16 → u.badFeed l c.feed = false) →
        (16 ≤ l → u.badPeer l c = false) →
        run = (if (s.link l).lastCap = some c then (u.link l).capRun + 1 else 1) →
        v = (if l < 16 then (u.setLink l { u.link l with capRun := run }).put (TRV_STAT_VER l) (min 2 c.verMax)
          else u.setLink l { u.link l with capRun := run }) →
        (run < 3 → exec (.capSetReceive l c) s = .next v.capNews.tryDeblock) ∧
        (3 ≤ run → c.ack = false → exec (.capSetReceive l c) s = .next (v.ackCap l).capNews.tryDeblock) ∧
        (3 ≤ run → c.ack = true →
          exec (.capSetReceive l c) s = .next ((v.ackCap l).goLink l 5 []).capNews.tryDeblock))) ∧
    (∀ c : Cap, c.ok = false → s.echoes l = false → exec (.capSetReceive l c) s = .next s.capNews.tryDeblock) ∧
    (∀ (d : Dm) (t3 t2 : Nat), d.ok = true → d.response = false → s.symLocked l = true →
      exec (.dmSetReceive l d t3 t2) s = .next (s.sendSet l 8 (.dm l (Dm.sealed {
        response := true, seq := d.seq, turn := (t3 - t2) % 2 ^ 32, crc := 0 }))).capNews.tryDeblock) ∧
    (∀ (d : Dm) (t1 t4 : Nat) (u : State), d.ok = true → d.response = true → s.lstate l = 5 →
      d.seq = (s.link l).dmSeq → u = s.setLink l { s.link l with
        dmVals := (s.link l).dmVals ++ [((t4 : Int) - t1) - d.turn + (s.link l).dmAsym],
        dmSeq := ((s.link l).dmSeq + 1) % 256 } →
      ((s.link l).dmVals.length < 63 → exec (.dmSetReceive l d t1 t4) s = .next (u.sendDm l).capNews.tryDeblock) ∧
      (63 ≤ (s.link l).dmVals.length →
        exec (.dmSetReceive l d t1 t4) s = .next (u.delayDone l).capNews.tryDeblock)) ∧
    (2 ≤ s.lstate l → s.lstate l ≤ 5 →
      exec (.bringupTimeout l) s = .next (s.goLink l 8 (TRV_LCAUSE_BU_TIMEOUT l ::
        if s.lstate l = 5 ∧ (s.link l).spread = true then [TRV_LCAUSE_DLY_SPREAD l] else [])).capNews.tryDeblock) ∧
    (s.lstate l = 8 → exec (.waitExpiry l) s = .next (s.goLink l 1 []).capNews.tryDeblock) ∧
    (s.lstate l = 9 → exec (.haltRxcAbsent l) s = .next (s.goLink l 1 []).capNews.tryDeblock) ∧
    (l < 16 → s.cfg (TRV_BUCFG_RETRY l) ≤ (s.link l).attempts → (s.link l).raised = false →
      exec (.bringupRetryLimit l) s = .next ((s.setLink l { s.link l with raised := true }).raise
        (32 + l)).capNews.tryDeblock)

/-- A link in service: CAP sets, losses, violations, BLIND, echo and delay announce. Out of reset, on a link of the role
with no echo granted. A valid CAP set in DELAY is noted, in ACTIVE checked and answered if it asks (R75, R76), in
BLIND brings the port back to ACTIVE once it has lock and the monument is the same, else sends it to WAIT with
PARTNER_CHANGED (R77). RXC lost in training goes to WAIT, in ACTIVE leaves it, in BLIND takes the lock; the frame that
passes is broken (R65, R70). A code violation is passed on as ERR and counted, and the fourth within 64 symbols ends
ACTIVE; a realigned comma counts and ends ACTIVE (R76). An isolated urgent code counts; a relock in BLIND asks for a
CAP set; a BLIND timeout goes to WAIT with its cause; the end of an echo goes to DETECT; a periodic CAP set leaves. A
DA set that fails its CRC counts and is passed on as bad; one with ACC is taken into the mean of a Stake and passed
on, and shown in a Datum, with the check of its apply margin (R82, R83, R85). How a set without valid ACC fares is the
model's choice (log entry 98). -/
def Obligations.LinkUpkeepCompletes : Prop :=
  ∀ (s : State) (p : Nat), s.running = true → s.hasLink p = true → s.echoes p = false →
    (∀ (c : Cap) (u : State), c.ok = true →
      (decide (p < 16) && c.feReq && s.cfgOn (TRV_CTRL_FE_ALLOW p)) = false →
      u = ((s.setLink p { s.link p with lastCap := some c, partner := c.monument, feedIn := c.feed }).notePartner p
        c).farEnd p c →
      (s.lstate p = 5 → exec (.capSetReceive p c) s = .next u.capNews.tryDeblock) ∧
      (s.lstate p = 6 → exec (.capSetReceive p c) s = .next (u.capInActive p c).capNews.tryDeblock) ∧
      (s.lstate p = 7 → (s.link p).cache.any (fun x => x.monument ≠ c.monument) = true →
        exec (.capSetReceive p c) s = .next (u.goLink p 8 [TRV_LCAUSE_PARTNER_CHANGED p]).capNews.tryDeblock) ∧
      (∀ v, s.lstate p = 7 → (s.link p).cache.any (fun x => x.monument ≠ c.monument) = false →
        (s.link p).blindLock = true → v = (u.goLink p 6 []).count (BLIND_CNT p) →
        exec (.capSetReceive p c) s = .next (if c.ansReq = true then v.sendCap p false else v).capNews.tryDeblock)) ∧
    (s.lstate p = 6 → exec (.capSetPeriodic p) s = .next (s.sendCap p false).capNews.tryDeblock) ∧
    (∀ b, 2 ≤ s.lstate p → s.lstate p ≤ 5 →
      exec (.rxcLoss p b) s = .next (s.goLink p 8 [TRV_LCAUSE_RXC_LOST p]).capNews.tryDeblock) ∧
    (∀ b, s.lstate p = 6 → exec (.rxcLoss p b) s = .next ((s.breakFrame p b).leaveActive p false).capNews.tryDeblock) ∧
    (∀ b u, s.lstate p = 7 → u = s.breakFrame p b → exec (.rxcLoss p b) s = .next
      (u.setLink p { u.link p with blindLock := false }).capNews.tryDeblock) ∧
    (∀ (sym : Nat) (b : Bool) (u v w : State), s.symLocked p = true →
      u = (match s.outPort p with | some o => (s.emit (.err o false)).releaseHeld o | none => s) →
      w = (if p < 16 then u.count (CV_CNT p) else u) →
      v = w.setLink p { w.link p with cvs := ((s.link p).cvs.filter fun n => sym < n + 64) ++ [sym] } →
      (s.lstate p = 6 → 3 ≤ ((s.link p).cvs.filter fun n => sym < n + 64).length →
        exec (.codeViolation p sym b) s = .next ((v.breakFrame p b).leaveActive p false).capNews.tryDeblock) ∧
      (s.lstate p ≠ 6 ∨ ((s.link p).cvs.filter fun n => sym < n + 64).length < 3 →
        exec (.codeViolation p sym b) s = .next v.capNews.tryDeblock)) ∧
    (∀ (b : Bool) (u : State), u = (if p < 16 then s.count (REALIGN_CNT p) else s) →
      exec (.commaRealign p b) s = .next (if s.lstate p = 6 then (u.breakFrame p b).leaveActive p false
        else u).capNews.tryDeblock) ∧
    (p < 16 → s.symLocked p = true → exec (.isolatedUrgent p) s = .next (s.count (URG_ISO p)).capNews.tryDeblock) ∧
    (p < 16 → s.lstate p = 7 → (s.link p).blindLock = false →
      exec (.blindRelock p) s = .next ((s.setLink p { s.link p with blindLock := true }).sendCap p
        true).capNews.tryDeblock) ∧
    (p < 16 → s.lstate p = 7 →
      exec (.blindTimeout p) s = .next (s.goLink p 8 [if (s.link p).blindLock = true then TRV_LCAUSE_BU_TIMEOUT p
        else TRV_LCAUSE_LOCK_LOST p]).capNews.tryDeblock) ∧
    (p < 16 → (s.link p).echo = true →
      exec (.farEndEchoEnd p) s = .next ((s.setLink p { s.link p with echo := false }).goLink p 1 []).capNews.tryDeblock) ∧
    (∀ d : Da, p < 16 → s.linkUp p = true → d.ok = false →
      exec (.daSetReceive p d) s = .next (match s.outPort p with
        | some o => (s.count (DA_ERR p)).emit (.da o none) | none => s.count (DA_ERR p)).capNews.tryDeblock) ∧
    (∀ (d : Da) (v : Nat), p < 16 → s.linkUp p = true → d.ok = true → d.accValid = true → s.role = .stake →
      v = (d.acc + s.get (TRV_LINKDLY_DLY p)) % 2 ^ 32 →
      exec (.daSetReceive p d) s = .next (((s.takeDa p v).putB (TRV_STAT_FAR_VALID p) d.farValid).daOut p v
        d).capNews.tryDeblock) ∧
    (∀ d : Da, p < 16 → s.linkUp p = true → d.ok = true → d.accValid = false → s.role = .stake →
      exec (.daSetReceive p d) s = .next ((s.putB (TRV_STAT_FAR_VALID p) d.farValid).daOut p 0 d).capNews.tryDeblock) ∧
    (∀ (d : Da) (v : Nat) (u : State), p < 16 → s.linkUp p = true → d.ok = true → d.accValid = true → s.role = .datum →
      v = (d.acc + s.get (TRV_LINKDLY_DLY p)) % 2 ^ 32 →
      u = (if d.farValid = true then (s.putB (TRV_STAT_FAR_VALID p) d.farValid).put (TRV_FARDLY_DLY p) d.far
        else s.putB (TRV_STAT_FAR_VALID p) d.farValid) →
      exec (.daSetReceive p d) s = .next (((((u.put (TRV_CHAINDLY_DLY p) v).put (TRV_STAT_DLY_VALID p) 1).applyMargin p
        (if d.farValid = true then d.far else v)).daTurn p v d)).capNews.tryDeblock)

/-- Restart, injection, PRBS and far-end echo of a Traverse port. Out of reset, on a Traverse port of the role: RESTART
gives up the cache of the port and, unless it is OFF, takes it to DETECT. With SYS_LOCK.TRVTEST clear a single
injection inverts 1 bit of what the port sends, a burst of n from 1 to 255 inverts n and one of 0 answers BAD_PARAM,
and PRBS_CLR clears both counts and CNT_OVF; with it set each answers LOCKED. A checker in TEST that may find its
pattern locks, later reports count what it compared, and the loss of its lock counts, clears CHK_LOCK and sets
LOCK_LOST. In TEST with an echo a CAP set received is sent back (R70, R88 to R92). Which test settings let a checker
find its pattern, and a RESTART in TEST, are the model's reading (log entries 93 and 99). -/
def Obligations.PortRegistersComplete : Prop :=
  ∀ (s : State) (p : Nat), s.running = true → p < s.nPorts →
    (s.takesWrites = true → s.lstate p ≠ 0 → exec (.portRestart p) s = .next (((s.uncache p).goLink p 1 []).capNews.emit (.done 0))) ∧
    (s.takesWrites = true → s.lstate p = 0 → exec (.portRestart p) s = .next ((s.uncache p).emit (.done 0))) ∧
    (s.takesWrites = true → s.on SYS_LOCK_TRVTEST = false →
      exec (.injectSingle p) s = .next (((s.setLink p { s.link p with injected := (s.link p).injected + 1 }).emit
        (.inject p 1)).emit (.done 0))) ∧
    (∀ n, s.takesWrites = true → s.on SYS_LOCK_TRVTEST = false → 1 ≤ n → n < 256 →
      exec (.injectBurst p n) s = .next (((s.setLink p { s.link p with injected := (s.link p).injected + n }).emit
        (.inject p n)).emit (.done 0))) ∧
    (s.takesWrites = true → s.on SYS_LOCK_TRVTEST = false → exec (.injectBurst p 0) s = .next (s.emit (.done stBadParam))) ∧
    (s.takesWrites = true → s.on SYS_LOCK_TRVTEST = false →
      exec (.prbsClear p) s = .next (((s.setLink p { s.link p with prbsBits := 0, prbsErrs := 0 }).put
        (TRV_PRBS_STAT_CNT_OVF p) 0).emit (.done 0))) ∧
    (∀ n, s.takesWrites = true → s.on SYS_LOCK_TRVTEST = true →
      exec (.injectSingle p) s = .next (s.emit (.done stLocked)) ∧
        exec (.injectBurst p n) s = .next (s.emit (.done stLocked)) ∧
        exec (.prbsClear p) s = .next (s.emit (.done stLocked))) ∧
    (∀ b e, s.hasLink p = true → p < 16 → s.checks p = true → s.on (TRV_PRBS_STAT_CHK_LOCK p) = false →
      exec (.prbsCheckerLock p b e) s = .next ((s.setLink p { s.link p with injected := 0 }).put
        (TRV_PRBS_STAT_CHK_LOCK p) 1).capNews.tryDeblock) ∧
    (∀ b e, s.hasLink p = true → p < 16 → s.checks p = true → s.on (TRV_PRBS_STAT_CHK_LOCK p) = true →
      exec (.prbsCheckerLock p b e) s = .next (s.prbsReport p b e).capNews.tryDeblock) ∧
    (∀ b e, s.hasLink p = true → p < 16 → s.on (TRV_PRBS_STAT_CHK_LOCK p) = true →
      exec (.prbsLockLoss p b e) s = .next (((s.prbsReport p b e).put (TRV_PRBS_STAT_CHK_LOCK p) 0).put
        (TRV_PRBS_STAT_LOCK_LOST p) 1).capNews.tryDeblock) ∧
    (∀ (c : Cap) (u : State), s.hasLink p = true → s.echoes p = true → u = s.emit (.cap p c) →
      exec (.capSetReceive p c) s = .next (if c.ok = true ∧ c.feRefused = true ∧ s.cfg (TRV_TEST_LOOP p) = 3 then
        u.put (TRV_LCAUSE_FE_REFUSED p) 1 else u).capNews.tryDeblock)

/-- Frames and urgent pairs as they arrive, turning ports, closure faults and lease expiry. On a port that is up and
echoes nothing: a Datum that receives a whole frame sends it back where the port turns, then counts it and takes up
its replies while no tick runs, counts NO_FRAME after the cut-off, and else checks its closure (R122, R124). A Stake
decodes a frame 460 ns after its SOF, takes tick recovery from its comma on the timing port, and does lease,
duplicate, safety and forwarding work; a frame of the other port that waits to be decoded in the same cycle is decoded
with it, and its own command then does nothing (R101, R117, R119, R258). In TEST with an echo a frame goes back as it
came (R89). A BLOCK pair is forwarded and blocks both channels of a Stake, whose cell goes Off (R115); a Datum counts
it, sets RXBLOCK and raises 183 (R286). A TICKMARK pair outside a frame is noted by a Stake for its comma, and
forwarded where a stream passes or turns (R39, R66). TURN_CHANGE makes each port turn or not as it is wanted (R123).
PERSIST failures of closure raise 48 + p once (R125); an expired lease counts LS_EXPIRE and raises 167 (R258). That
the Stake looks in the queue for the frame of the same cycle, and the 230 cycles from the comma to the decode, are the
model's reading (log entries 84, 114). -/
def Obligations.FramesAndPairsComplete : Prop :=
  ∀ s : State,
    (∀ (p : Nat) (f : Frame) (c i : Nat) (u v : State), s.isDatum = true → s.echoes p = false → p < 16 →
      s.portUp p = true → u = s.advance (c / 32 + frameCycles f) →
      v = (match u.outPort p with | some o => (u.absorb o i).passOn o f | none => u) →
      (v.tb.started = false → exec (.datumFrameReceive p f c i) s =
        .next (if f.hdr.ok = true then (v.count (FRM_RX p)).takeUp p f else v.count (HDR_CRC p))) ∧
      (v.tb.started = true → v.tb.cutDone = true →
        exec (.datumFrameReceive p f c i) s = .next (v.count (NO_FRAME p))) ∧
      (v.tb.started = true → v.tb.cutDone = false →
        exec (.datumFrameReceive p f c i) s = .next (v.receiveFrame p f c))) ∧
    (∀ p : Nat, s.isDatum = true → p < 16 → s.cfg (TRV_CLOSE_PERSIST p) ≤ (s.port p).failRun →
      (s.port p).closeRaised = false →
      exec (.closurePersistFault p) s = .next ((s.setPort p { s.port p with closeRaised := true }).raise (48 + p))) ∧
    (∀ (q : Nat) (f : Frame) (c i : Nat) (u : State), s.isStake = true → q < 2 → s.frm.decoded.contains (q, c) = false →
      s.echoes q = false → s.linkUp q = true → s.linkUp (1 - q) = false ∨ s.sameCycle q c = none →
      u = (if q = s.timingPort then s.timingComma f c else s) →
      exec (.stakeFrameDecode q f c i) s =
        .next (((u.advance (c / 32 + 230)).absorbIdle q i).decodeFrame q (c / 32) f).tryDeblock) ∧
    (∀ (q : Nat) (f g : Frame) (c i t n : Nat), s.isStake = true → q < 2 → s.frm.decoded.contains (q, c) = false →
      s.echoes q = false → s.echoes (1 - q) = false → s.linkUp q = true → s.linkUp (1 - q) = true →
      s.sameCycle q c = some (g, t, n) →
      exec (.stakeFrameDecode q f c i) s = .next (s.pairDecode q c i f g t n)) ∧
    (∀ (q : Nat) (f : Frame) (c i : Nat), s.isStake = true → s.frm.decoded.contains (q, c) = true →
      exec (.stakeFrameDecode q f c i) s = .next { s with frm := { s.frm with decoded := s.frm.decoded.erase (q, c) } }) ∧
    (∀ (q : Nat) (f : Frame) (c i n : Nat), s.running = true → s.echoes q = true →
      (s.role = .datum → exec (.datumFrameReceive q f c i) s = .next (s.emit (.frame q f))) ∧
      (s.role = .stake → s.frm.decoded.contains (q, c) = false →
        exec (.stakeFrameDecode q f c i) s = .next (s.emit (.frame q f))) ∧
      (s.role = .stake → exec (.blockPairReceive q n c) s = .next (s.emit (.blockPair q))) ∧
      (s.role = .datum → exec (.blockPairDatum q n) s = .next (s.emit (.blockPair q))) ∧
      exec (.tickmarkReceive q n c) s = .next (s.emit (.tickmark q))) ∧
    (∀ q n c : Nat, s.isStake = true → q < 2 → s.echoes q = false → s.symLocked q = true →
      ∃ t, t = ((((s.advance c).forwardBlock q n).blockStake true true [SF_SCAUSE_URGENT]).seeArmBlocked) ∧
        exec (.blockPairReceive q n c) s = .next t ∧ t.bothBlocked ∧ t.cell = .off ∧ t.on SF_SCAUSE_URGENT = true) ∧
    (∀ p n : Nat, s.isDatum = true → p < 16 → s.echoes p = false → s.symLocked p = true →
      exec (.blockPairDatum p n) s =
        .next ((((s.count (BLOCK_RX p)).put SF_CAUSE_RXBLOCK 1).raise 183).forwardBlock p n)) ∧
    (∀ (q n c : Nat) (u : State), s.running = true → s.echoes q = false → s.hasLink q = true → q < 16 →
      s.symLocked q = true → u = s.advance (c / 32) →
      exec (.tickmarkReceive q n c) s = .next ((if s.role = .stake ∧ n = 0 then
        { u with tb := { u.tb with tmark := kset u.tb.tmark q c } } else u).forwardMark q n)) ∧
    (s.running = true → ∃ t, t = (List.range s.nPorts).foldl State.turnPort s ∧ exec .turnChange s = .next t ∧
      (∀ q : Nat, q < s.nPorts → t.turns q = s.wantTurn q)) ∧
    (s.isStake = true → s.frm.leaseDue = true →
      exec .leaseExpiry s = .next ((({ s with frm := { s.frm with leaseDue := false } } : State).count LS_EXPIRE).raise
        167))

/-- Levelling in a Stake: apply instant, trim, unranked limit. In a Stake with lock: an apply instant not yet made is made
at the tick start plus the offset of the entry acted on, where it has one, and else at once, with NO_DEC counted where
no entry was acted on (R118, R143); LATCHHOLD and TRIMMING clear, the Stake does what the plan of R143 says, and the
instant is then made, a refresh that was due being no longer due. The end of a trim is made at its cycle: it returns
to Bypassed and counts LVL_TRIMMED, or counts LVL_TRIMLOST where the gap to the next apply instant would be too short
(R144, R164) or the cell was tripped since (R167). UNRK_LIM consecutive reports with UNRANKED raise 69 once (R143). -/
def Obligations.LevellingOfAStakeCompletes : Prop :=
  ∀ s : State, s.isStake = true →
    (∀ u v w, s.on TB_STAT_TICK_LOCK = true → s.tb.applied = false →
      u = (match s.actedEntry with
        | some e => if e.hasApply = true then s.advance (s.tb.tickStart + e.apply) else s
        | none => s.count (NO_DEC s.timingPort)) →
      v = ({ u with gs := { u.gs with refreshRun := false }, frm := { u.frm with held := false } } : State).put
        LVL_SSTAT_LATCHHOLD 0 →
      w = (v.put LVL_SSTAT_TRIMMING 0).applyPlan →
      exec .applyInstant s = .next ({ w with
        tb := { w.tb with applied := true },
        gs := if v.refreshNow = true then { w.gs with refreshDue := false } else w.gs } : State).updRefresh) ∧
    (s.tb.applied = true → exec .applyInstant s = .next s) ∧
    (∀ c u, s.gs.trimEnd = some c → u = ({ s.advance c with gs := { s.gs with trimEnd := none } } : State) →
      (s.gs.offAtApply = true → exec .trimEnd s = .next (u.count LVL_TRIMLOST)) ∧
      (∀ r, s.gs.offAtApply = false → r = u.changeCell .bypassed u.now (s.gs.trimNext - u.now) →
        (r.1 = true → exec .trimEnd s = .next (r.2.count LVL_TRIMMED)) ∧
        (r.1 = false → exec .trimEnd s = .next
          (({ r.2 with gs := { r.2.gs with trimTick := none } } : State).count LVL_TRIMLOST)))) ∧
    (s.cfg LVL_SCFG_UNRK_LIM ≤ s.frm.unrankRun → s.frm.unrankRaised = false →
      exec .unrankedLimit s = .next (({ s with frm := { s.frm with unrankRaised := true } } : State).raise 69))

/-- Levelling in a Datum: order, select, ABSENT, deviation, rest band. In a Datum: an order is released to LVL_ARMa_ORDER
of an arm 0 to 5, and any other arm answers BAD_PARAM (R139); a select done before the cut-off of a posted order of an
enabled arm completes (R141). The next three take the six arms in order, each as it then stands: ABSENT_MARK, before
the cut-off, marks the members still MISSING in every enabled arm that has repeated REPMAX times, and remembers that
its tick had some (R137, R146); DEVIATION_PERSIST raises 66 for every arm whose deviation has persisted and has not
yet raised it (R146); REST_BAND_ENTRY brings the rest band of every arm into force whose output was zero for DLY ticks
(R132). Where one arm alone qualifies, exactly that one changes. -/
def Obligations.LevellingOfADatumCompletes : Prop :=
  ∀ s : State, s.isDatum = true →
    (∀ a n dir f, a < 6 →
      exec (.orderPost a n dir f) s = .next ((s.release1 (LVL_ARM_ORDER_N a).addr
        (n % 2048 + 2048 * dir.toNat + 65536 * (f % 65536))).emit (.done 0))) ∧
    (∀ a n dir f, 6 ≤ a → exec (.orderPost a n dir f) s = .next (s.emit (.done stBadParam))) ∧
    (∀ a, s.armEn a = true → s.on (LVL_ARM_STAT_POSTED a) = true → s.tb.started = true → s.tb.cutDone = false →
      exec (.levellingSelectDone a) s = .next (s.finishSelect a)) ∧
    exec .absentMark s = .next ((List.range 6).foldl (fun u a =>
      if u.armEn a = true ∧ u.cfg LVL_CTRL_REPMAX ≤ (u.armSt a).repeats ∧ u.tb.started = true ∧ u.tb.cutDone = false then
        ((u.finishSelect a).setArm a { (u.finishSelect a).armSt a with
          gone := ((u.finishSelect a).armSt a).gone || !((u.finishSelect a).missingOf a).isEmpty }).markAbsent
            ((u.finishSelect a).missingOf a)
      else u) s) ∧
    exec .deviationPersist s = .next ((List.range 6).foldl (fun u a =>
      if u.cfg LVL_CTRL_DEV_PERSIST ≤ (u.armSt a).devRun ∧ (u.armSt a).devRaised = false then
        (u.setArm a { u.armSt a with devRaised := true }).raise 66 else u) s) ∧
    exec .restBandEntry s = .next ((List.range 6).foldl (fun u a =>
      if u.cfgOn (LVL_ARM_RESTCFG_REST_EN a) = true ∧ u.cfg (LVL_ARM_RESTCFG_DLY a) ≤ (u.armSt a).zeroRun ∧
        (u.armSt a).restOn = false then u.setRest a true else u) s) ∧
    (∀ a : Nat, a < 6 → s.cfg LVL_CTRL_DEV_PERSIST ≤ (s.armSt a).devRun → (s.armSt a).devRaised = false →
      (∀ b : Nat, b < 6 → b ≠ a → (s.armSt b).devRun < s.cfg LVL_CTRL_DEV_PERSIST) →
      exec .deviationPersist s = .next ((s.setArm a { s.armSt a with devRaised := true }).raise 66)) ∧
    (∀ a : Nat, a < 6 → s.cfgOn (LVL_ARM_RESTCFG_REST_EN a) = true → s.cfg (LVL_ARM_RESTCFG_DLY a) ≤ (s.armSt a).zeroRun →
      (s.armSt a).restOn = false → (∀ b : Nat, b < 6 → b ≠ a → s.cfgOn (LVL_ARM_RESTCFG_REST_EN b) = false) →
      exec .restBandEntry s = .next (s.setRest a true))

/-- Gate link: refresh, SETS, status words, word lock and LOSS. In a Stake, for a used channel n. GCMD_REFRESH, with GCMD
not gated, takes place 512 cycles (1024 ns) after the end of the last symbol: the commanded state is repeated, every
64th time the three SETS instead, one after the other; where the symbols would end less than 8 ns before a scheduled
one, nothing is sent. SETS_SEND of a due register sends its code, takes it from the due ones to the sent ones and may
complete the conditions of READY; with no room it changes nothing. With GCMD gated neither does anything. A status
word whose 32 chips decode and which is valid after the previous one counts as good and sets VCE, GVG, SUPG and DSAT
from its bits, for the self-test and the conditions of READY to see; any other counts as bad, counts LINK_ERR and
becomes the word that the next is compared with. WORD_LOCK_CHANGE sets LOCK after four good words and clears it, as a
feedback fault, after two bad ones. A low hold of 100 ns or more clears LOCK, as a feedback fault (R153, R155 to R157,
R160, R169, R170). How SETS follow each other, where the 1024 ns are counted from, and that symbols which do not fit
are not sent, and how a word with a wrong WSEQ fares, is the model's reading (log entries 26, 27). -/
def Obligations.GateLinkCommandsComplete : Prop :=
  ∀ (s : State) (n : Nat), s.isStake = true → s.isUsed n = true →
    (∀ u r, s.on SF_SSTAT_GCMD_GATED = false → u = s.advance (s.busyTill n + 512) → ((s.chan n).refreshes + 1) % 64 ≠ 0 →
      r = (u.setChan n { s.chan n with refreshes := ((s.chan n).refreshes + 1) % 64 }).emitSym n
        (if s.on (GS_CH_STAT_ON n) = true then .on else .off) →
      exec (.gcmdRefresh n) s = .next (if r.lineFits n = true then r else u)) ∧
    (∀ u r, s.on SF_SSTAT_GCMD_GATED = false → u = s.advance (s.busyTill n + 512) → ((s.chan n).refreshes + 1) % 64 = 0 →
      r = (((u.setChan n { s.chan n with refreshes := 0 }).emitSym n (.sets 0 (s.get (GS_CH_STAT_CODE_ON n)))).emitSym n
        (.sets 1 (s.get (GS_CH_STAT_CODE_OFF n)))).emitSym n (.sets 2 (s.cfg (GS_CH_STR_SOFT n))) →
      exec (.gcmdRefresh n) s = .next (if r.lineFits n = true then r else u)) ∧
    (∀ reg r, s.on SF_SSTAT_GCMD_GATED = false → (s.chan n).setsDue.contains reg = true →
      r = (s.setChan n { s.chan n with
        setsDue := (s.chan n).setsDue.filter (· ≠ reg), setsSent := addOnce (s.chan n).setsSent reg }).emitSym n
          (.sets reg (s.setsCode n reg)) →
      exec (.setsSend n reg) s = .next (if r.lineFits n = true then r.tryReady n else s)) ∧
    (s.on SF_SSTAT_GCMD_GATED = true → exec (.gcmdRefresh n) s = .next s ∧ ∀ reg, exec (.setsSend n reg) s = .next s) ∧
    (∀ chips w, manchester chips 16 = some w → wordOk w (s.chan n).wseq = true →
      exec (.gfbStatusWord n chips) s = .next (((((((s.setChan n { s.chan n with
        goodRun := (s.chan n).goodRun + 1, badRun := 0, wseq := some (w / 256 % 16) }).put
          (GS_CH_STAT_VCE n) (w / 16 % 2)).put (GS_CH_STAT_GVG n) (w / 32 % 2)).put
          (GS_CH_STAT_SUPG n) (w / 64 % 2)).put (GS_CH_STAT_DSAT n) (w / 128 % 2)).testWord n).tryReady n)) ∧
    (∀ chips w, manchester chips 16 = some w → wordOk w (s.chan n).wseq = false →
      exec (.gfbStatusWord n chips) s = .next ((s.setChan n { s.chan n with
        goodRun := 0, badRun := (s.chan n).badRun + 1, wseq := nextSeq (some w) (s.chan n).wseq }).count
          (GS_CH_LINK_ERR n))) ∧
    (∀ chips, manchester chips 16 = none →
      exec (.gfbStatusWord n chips) s = .next ((s.setChan n { s.chan n with
        goodRun := 0, badRun := (s.chan n).badRun + 1, wseq := (s.chan n).wseq.map fun q => (q + 1) % 16 }).count
          (GS_CH_LINK_ERR n))) ∧
    (s.on (GS_CH_STAT_LOCK n) = false → 4 ≤ (s.chan n).goodRun →
      exec (.wordLockChange n) s = .next ((s.put (GS_CH_STAT_LOCK n) 1).tryReady n)) ∧
    (s.on (GS_CH_STAT_LOCK n) = true → 2 ≤ (s.chan n).badRun →
      exec (.wordLockChange n) s = .next ((s.put (GS_CH_STAT_LOCK n) 0).feedbackFault n)) ∧
    (∀ len, 100 ≤ len →
      exec (.lossHold n len) s = .next (((s.setChan n { s.chan n with goodRun := 0, badRun := 0, wseq := none }).put
        (GS_CH_STAT_LOCK n) 0).feedbackFault n))

/-- Gate markers: edge holds, missing markers, strength limit. In a Stake, for channel n. A low hold of 12 ns or more and
less than 100 ns on a used channel, begun at most 2000 ns after the instant of the change command that waits for its
pair: the first one is kept; the second writes the difference of the two instants to TON_M or TOFF_M, the pair is
complete, and with ADAPT the code steps towards its target. A hold of less than 12 ns, one outside that window and one
with no command waiting change nothing. MARKER_WINDOW_EXPIRY with a command waiting ends the wait and counts NOMARK,
else nothing changes. STRENGTH_LIMIT_FAULT after 16 wanted steps beyond the limit raises source 113 and starts the
count again, else nothing changes (R155, R158, R161). -/
def Obligations.GateMarkersAndStrengthComplete : Prop :=
  ∀ (s : State) (n : Nat), s.isStake = true →
    (∀ ns len b, 12 ≤ len → len < 100 → s.isUsed n = true → 2 * (s.chan n).chgAt ≤ ns → ns ≤ 2 * (s.chan n).chgAt + 2000 →
      (s.chan n).chgOn = some b → (s.chan n).edges = [] →
      exec (.edgeHold n ns len) s = .next (s.setChan n { s.chan n with edges := [ns] })) ∧
    (∀ ns len b t0 rest u, 12 ≤ len → len < 100 → s.isUsed n = true → 2 * (s.chan n).chgAt ≤ ns →
      ns ≤ 2 * (s.chan n).chgAt + 2000 → (s.chan n).chgOn = some b → (s.chan n).edges = t0 :: rest →
      u = (s.setChan n { s.chan n with edges := [], chgOn := none }).put
        (if b = true then GS_CH_MEAS_TON_M n else GS_CH_MEAS_TOFF_M n) (ns - t0) →
      exec (.edgeHold n ns len) s = .next (if s.cfgOn (GS_CH_CTRL_ADAPT n) = true then u.adapt n (ns - t0) b else u)) ∧
    (∀ ns len, len < 12 ∨ ns < 2 * (s.chan n).chgAt ∨ 2 * (s.chan n).chgAt + 2000 < ns ∨ (s.chan n).chgOn = none →
      exec (.edgeHold n ns len) s = .next s) ∧
    ((s.chan n).chgOn.isSome = true →
      exec (.markerWindowExpiry n) s = .next ((s.setChan n { s.chan n with chgOn := none, edges := [] }).count
        (GS_CH_NOMARK n))) ∧
    ((s.chan n).chgOn = none → exec (.markerWindowExpiry n) s = .next s) ∧
    ((s.chan n).wanted = 16 →
      exec (.strengthLimitFault n) s = .next ((s.setChan n { s.chan n with wanted := 0 }).raise 113)) ∧
    ((s.chan n).wanted < 16 → exec (.strengthLimitFault n) s = .next s)

/-- Gate protection: trips, feedback faults and their ends. In a Stake, for a used channel n. DESAT_TRIP under the
self-test of DESAT shows that test its condition, with the instant at which the hold began; else, on a channel that is
on and not in SOFTOFF, it starts SOFTOFF, counts TRIP_CNT, sets the protection state by the tries left and blocks from
the next apply instant. A high hold of 12 ns or more, shorter than the filter's time, counts GLITCH on a channel that
is on and not under that test. FEEDBACK_FAULT of a locked READY channel with SUPG 0, or GVG 0 past 2 us after the
change command, its own monitor not under test, starts SOFTOFF if the channel is on, OFF if an ON is still to come, is
handled as a trip and raises source 104 + n; outside READY it changes nothing. TRIP_WAIT_EXPIRY makes a TRIP channel
READY where its feedback is good, and channels in manual mode follow again; where it is not, nothing changes.
CLEAN_EXPIRY in READY clears TRIES_USED. NOTREADY_TIMEOUT of a channel still in NOTREADY raises source 104 + n once.
UNLATCH with lock and DSAT 0 clears TRIES_USED, takes LATCHED to NOTREADY and answers OK; with DSAT 1, or without
lock, when DSAT is unknown (R157), it answers BUSY (R155, R166 to R170, R183). That an unknown DSAT refuses it, and
that it clears TRIES_USED in every state, is the model's reading (log entries 28 and 128). -/
def Obligations.GateProtectionComplete : Prop :=
  ∀ (s : State) (n : Nat), s.isStake = true → s.isUsed n = true →
    (s.testing [1] n = true → exec (.desatTrip n) s = .next (s.testSees n 1 (s.now - 6 - s.cfg GS_PROT0_FILT) true)) ∧
    (s.testing [1] n = false → s.on (GS_CH_STAT_ON n) = true → (s.chan n).soft = false →
      exec (.desatTrip n) s = .next (((((s.sendNow n .softoff).count (GS_CH_TRIP_CNT n)).tripState n).blockAtApply))) ∧
    (∀ len, s.testing [1] n = false → s.on (GS_CH_STAT_ON n) = true → 12 ≤ len → len < 12 + 2 * s.cfg GS_PROT0_FILT →
      exec (.desatGlitch n len) s = .next (s.count (GS_CH_GLITCH n))) ∧
    (∀ u, s.on (GS_CH_STAT_LOCK n) = true →
      (s.on (GS_CH_STAT_SUPG n) = false ∧ s.testing [3] n = false) ∨
        (s.on (GS_CH_STAT_GVG n) = false ∧ s.testing [2] n = false ∧ (s.chan n).chgAt + 1000 < s.now) →
      s.get (GS_CH_STAT_PSTATE n) = 1 →
      u = (if s.on (GS_CH_STAT_ON n) = true then s.sendNow n .softoff
        else if ((s.chan n).due.any fun e => decide (e.2 = .on)) = true then s.sendNow n .off else s) →
      exec (.feedbackFault n) s = .next ((((u.count (GS_CH_TRIP_CNT n)).tripState n).blockAtApply).raise (104 + n))) ∧
    (s.get (GS_CH_STAT_PSTATE n) ≠ 1 → exec (.feedbackFault n) s = .next s) ∧
    (s.get (GS_CH_STAT_PSTATE n) = 2 → s.on (GS_CH_STAT_LOCK n) = true → s.on (GS_CH_STAT_SUPG n) = true →
      s.on (GS_CH_STAT_DSAT n) = false →
      exec (.tripWaitExpiry n) s = .next (s.put (GS_CH_STAT_PSTATE n) 1).updPblk.refollow) ∧
    (s.on (GS_CH_STAT_LOCK n) = false ∨ s.on (GS_CH_STAT_SUPG n) = false ∨ s.on (GS_CH_STAT_DSAT n) = true →
      exec (.tripWaitExpiry n) s = .next s) ∧
    (s.get (GS_CH_STAT_PSTATE n) = 1 → exec (.cleanExpiry n) s = .next (s.put (GS_CH_STAT_TRIES_USED n) 0)) ∧
    (s.get (GS_CH_STAT_PSTATE n) = 0 → (s.chan n).toldNotReady = false →
      exec (.notreadyTimeout n) s = .next ((s.setChan n { s.chan n with toldNotReady := true }).raise (104 + n))) ∧
    (s.takesWrites = true → s.on (GS_CH_STAT_LOCK n) = true → s.on (GS_CH_STAT_DSAT n) = false →
      exec (.unlatch n) s = .next ((if s.get (GS_CH_STAT_PSTATE n) = 3 then (s.put (GS_CH_STAT_TRIES_USED n) 0).enterNotReady n
        else s.put (GS_CH_STAT_TRIES_USED n) 0).emit (.done stOk))) ∧
    (s.takesWrites = true → s.on (GS_CH_STAT_LOCK n) = false ∨ s.on (GS_CH_STAT_DSAT n) = true →
      exec (.unlatch n) s = .next (s.emit (.done stBusy)))

/-- Overvoltage levels and the bypass. In a Stake. OV2_BLOCK after CNT results, outside its test, sets OV2_BLK, forces the
Stake Off and raises 110. OV2_CLR at or below OV1_OFF clears the block, channels in manual mode follow again and the
answer is OK; above it the answer is BUSY. OV3_TRIGGER outside its test, with nothing fired or in hand, forces Off,
drives DCHG, sets BYPF, the mark and FIRED and raises 111 with cause 1 and the last cell voltage; in the cycle of a
trigger of a higher cause it gives its own cause; else, and under its test, it changes nothing. BYPASS_FIRE_DRIVE
drives both firing pins high DLY after the trigger, BYPASS_FIRE_RELEASE lets them go PW later; a readback failure
while they are driven writes event record 2 with the path. 0xB1A5 arms at its instant; 0x0F1E disarms and, within
500,000 cycles of arming, triggers with cause 2 as above; 0x0C1E disarms; with SYS_LOCK.OV clear and no mark it is OK,
which is the model's reading (log entry 28); with a mark and a PORn since it clears mark, BYPF and FIRED and is OK;
else it is LOCKED. The timeout disarms (R175 to R181, R183, R185). That two triggers of one cycle give way by cause is
read off their instant (log entry 114). -/
def Obligations.OvervoltageAndBypassComplete : Prop :=
  ∀ (s : State), s.isStake = true →
    (s.cfg GS_OV2_CNT ≤ s.gs.ov2Run → s.on GS_STAT_OV2_BLK = false →
      (s.on GS_STAT_TEST_BUSY = false ∨ s.gs.testSel ≠ 5) →
      exec .ov2Block s = .next ((s.put GS_STAT_OV2_BLK 1).forceOff.raise 110)) ∧
    (s.takesWrites = true → s.gs.vcode ≤ s.cfg GS_OV1_OFF_LEVEL →
      exec .ov2Clr s = .next (((({ s with gs := { s.gs with ov2Run := 0 } } : State).put GS_STAT_OV2_BLK 0).updPblk.refollow).emit
        (.done stOk))) ∧
    (s.takesWrites = true → s.cfg GS_OV1_OFF_LEVEL < s.gs.vcode → exec .ov2Clr s = .next (s.emit (.done stBusy))) ∧
    (∀ u, s.on GS_STAT_TEST_BUSY = false ∨ s.gs.testSel ≠ 6 → s.on GS_STAT_FIRED = false → s.gs.mark = false →
      s.gs.byp = .idle → u = s.forceOff.setDchg true →
      exec .ov3Trigger s = .next ((({ u with gs := { u.gs with
        byp := .triggered, bypAt := u.now, bypCause := 1, bypf := true, mark := true, pornSinceFire := false } } : State).put
          GS_STAT_FIRED 1).raiseWith 111 (1 + u.gs.vcode * 2 ^ 32))) ∧
    (s.on GS_STAT_TEST_BUSY = false ∨ s.gs.testSel ≠ 6 → s.gs.byp = .triggered → s.gs.bypAt = s.now → 1 < s.gs.bypCause →
      exec .ov3Trigger s = .next (s.lowerCause 1)) ∧
    ((s.on GS_STAT_TEST_BUSY = true ∧ s.gs.testSel = 6) ∨ s.gs.byp = .driven ∨ s.gs.byp = .released →
      exec .ov3Trigger s = .next s) ∧
    (s.gs.byp = .triggered →
      exec .bypassFireDrive s = .next (({ s.advance (s.gs.bypAt + s.cfg GS_BYP_DLY) with
        gs := { s.gs with byp := .driven } } : State).emits [.pin "BYPF_A" 0 true, .pin "BYPF_B" 0 true])) ∧
    (∀ path, s.gs.byp = .driven → exec (.bypassReadbackFail path) s = .next (s.event 2 (path % 2))) ∧
    (s.gs.byp = .driven →
      exec .bypassFireRelease s = .next (({ s.advance (s.gs.bypAt + s.cfg GS_BYP_DLY + 500 * s.cfg GS_BYP_PW) with
        gs := { s.gs with byp := .released } } : State).emits [.pin "BYPF_A" 0 false, .pin "BYPF_B" 0 false])) ∧
    (∀ c, s.takesWrites = true → exec (.bypassCmdArm c) s = .next (({ s.advance c with
      gs := { s.gs with armed := true, armAt := max s.now c } } : State).emit (.done stOk))) ∧
    (∀ c u v, s.takesWrites = true → u = ({ s.advance c with gs := { s.gs with armed := false } } : State) → v = u.forceOff.setDchg true →
      s.gs.armed = true → max s.now c ≤ s.gs.armAt + 500000 →
      s.on GS_STAT_FIRED = false → s.gs.mark = false → s.gs.byp = .idle →
      exec (.bypassCmdFire c) s = .next (((({ v with gs := { v.gs with
        byp := .triggered, bypAt := v.now, bypCause := 2, bypf := true, mark := true, pornSinceFire := false } } : State).put
          GS_STAT_FIRED 1).raiseWith 111 (2 + v.gs.vcode * 2 ^ 32)).emit (.done stOk))) ∧
    (∀ c, s.takesWrites = true → s.gs.armed = false ∨ s.gs.armAt + 500000 < max s.now c →
      exec (.bypassCmdFire c) s = .next (({ s.advance c with gs := { s.gs with armed := false } } : State).emit (.done stOk))) ∧
    (s.takesWrites = true → s.on SYS_LOCK_OV = false → s.gs.mark = false →
      exec .bypassMarkClear s = .next (({ s with gs := { s.gs with armed := false } } : State).emit (.done stOk))) ∧
    (∀ u, s.takesWrites = true → s.on SYS_LOCK_OV = false → s.gs.mark = true → s.gs.pornSinceFire = true →
      u = (({ s with gs := { s.gs with
        armed := false, mark := false, bypf := false, byp := .idle, needEntry := true } } : State).put GS_STAT_FIRED 0) →
      exec .bypassMarkClear s = .next (((if s.gs.vcode ≤ s.cfg GS_OV1_OFF_LEVEL then u.setDchg false else u).refollow).emit
        (.done stOk))) ∧
    (s.takesWrites = true → s.on SYS_LOCK_OV = true ∨ (s.gs.mark = true ∧ s.gs.pornSinceFire = false) →
      exec .bypassMarkClear s = .next (({ s with gs := { s.gs with armed := false } } : State).emit (.done stLocked))) ∧
    exec .bypassArmTimeout s = .next { s with gs := { s.gs with armed := false } }

/-- Self-tests, manual channels and effective instants. In a Stake. A write to GS_TEST with SEL 0 or 7 up or CH 4 up is
BAD_PARAM. In Off with no test running, for SEL 1 to 3 with the channel used and READY, it starts: SEL, CH and the
busy bits are set, SEL 1 to 3 send TEST, SEL 4 lets DCHG go unless the bypass has fired; else REFUSED is set and the
answer is BUSY. SELF_TEST_END of a running test writes PASS and FAIL by what the test has seen and what its comparator
reports (log entry 111) and answers a waiting GATE_TEST. MAN changes only while the Stake is not adopted and GATE
unlocked, else LOCKED; then MAN and MAN_ON are written, and the channel takes the level of the schedule when it leaves
manual mode, that of MAN_ON otherwise. A manual pulse on a used manual channel: shorter than MINP it counts SUPP_ON;
while the Stake is forced Off, under test, not READY or the channel is on it does nothing; else it schedules ON and,
if the interlock lets it, OFF WIDTH later; on any other channel nothing. EFFECTIVE_INSTANT takes place at the first
scheduled symbol: on an unused channel, and an ON on a channel that is not READY, the symbol is dropped; an ON while
the other switch of the leg is on is refused; else it is the new commanded state (R149, R150, R163, R169, R183, R184). -/
def Obligations.SelfTestAndManualComplete : Prop :=
  ∀ (s : State), s.isStake = true →
    (∀ sel ch, s.takesWrites = true → sel = 0 ∨ 7 ≤ sel ∨ 4 ≤ ch → exec (.selfTestStart sel ch) s = .next (s.emit (.done stBadParam))) ∧
    (∀ sel ch u, s.takesWrites = true → 1 ≤ sel → sel ≤ 3 → ch < 4 → s.cell = .off → s.isUsed ch = true → s.get (GS_CH_STAT_PSTATE ch) = 1 →
      s.on GS_STAT_TEST_BUSY = false →
      u = (((({ s with gs := { s.gs with testSel := sel, testCh := ch, testPhase := .forced, testAt := s.now } } : State).put
        GS_STAT_TEST_BUSY 1).put GS_TEST_STAT_BUSY 1).put GS_TEST_STAT_LAST_SEL sel).sendTest ch sel →
      exec (.selfTestStart sel ch) s = .next (({ u with gs := { u.gs with testAt := (u.chan ch).busy } } : State).emit
        (.done stOk))) ∧
    (∀ sel ch u, s.takesWrites = true → 4 ≤ sel → sel ≤ 6 → ch < 4 → s.cell = .off → s.on GS_STAT_TEST_BUSY = false →
      u = (((({ s with gs := { s.gs with testSel := sel, testCh := ch, testPhase := .forced, testAt := s.now } } : State).put
        GS_STAT_TEST_BUSY 1).put GS_TEST_STAT_BUSY 1).put GS_TEST_STAT_LAST_SEL sel) →
      exec (.selfTestStart sel ch) s =
        .next ((if sel = 4 ∧ u.on GS_STAT_FIRED = false then u.setDchg false else u).emit (.done stOk))) ∧
    (∀ sel ch, s.takesWrites = true → 1 ≤ sel → sel ≤ 6 → ch < 4 →
      s.cell ≠ .off ∨ s.on GS_STAT_TEST_BUSY = true ∨
        (sel ≤ 3 ∧ (s.isUsed ch = false ∨ s.get (GS_CH_STAT_PSTATE ch) ≠ 1)) →
      exec (.selfTestStart sel ch) s = .next ((s.put GS_TEST_STAT_REFUSED 1).emit (.done stBusy))) ∧
    (∀ b, s.on GS_STAT_TEST_BUSY = true → exec (.selfTestEnd b) s = .next (s.endTest b).answerTest) ∧
    (∀ b, s.on GS_STAT_TEST_BUSY = false → exec (.selfTestEnd b) s = .next s) ∧
    (∀ n man b, s.takesWrites = true → n < 4 → s.on (GS_CH_CTRL_MAN n) ≠ man → s.on LVL_SIDX_ADOPTED = true ∨ s.on SYS_LOCK_GATE = true →
      exec (.manualModeWrite n man b) s = .next (s.emit (.done stLocked))) ∧
    (∀ n man b u, s.takesWrites = true → n < 4 → s.on (GS_CH_CTRL_MAN n) = man ∨ (s.on LVL_SIDX_ADOPTED = false ∧ s.on SYS_LOCK_GATE = false) →
      u = (s.putB (GS_CH_CTRL_MAN n) man).putB (GS_CH_CTRL_MAN_ON n) b →
      exec (.manualModeWrite n man b) s = .next ((if s.on (GS_CH_CTRL_MAN n) = true ∧ man = false then u.followCell n
        else u.manualLeg n).emit (.done stOk))) ∧
    (∀ n width, s.takesWrites = true → s.on (GS_CH_CTRL_MAN n) = false ∨ s.isUsed n = false →
      exec (.manualPulse n width) s = .next (s.emit (.done stOk))) ∧
    (∀ n width, s.takesWrites = true → s.isUsed n = true → s.on (GS_CH_CTRL_MAN n) = true → width < s.minp →
      exec (.manualPulse n width) s = .next ((s.count (GS_CH_SUPP_ON n)).emit (.done stOk))) ∧
    (∀ n width, s.takesWrites = true → s.isUsed n = true → s.on (GS_CH_CTRL_MAN n) = true → s.minp ≤ width →
      s.offCause = true ∨ s.on GS_STAT_TEST_BUSY = true ∨ s.get (GS_CH_STAT_PSTATE n) ≠ 1 ∨
        s.onAt n (s.symEnd n .on) = true →
      exec (.manualPulse n width) s = .next (s.emit (.done stOk))) ∧
    (∀ n width e u, s.takesWrites = true → s.isUsed n = true → s.on (GS_CH_CTRL_MAN n) = true → s.minp ≤ width → s.offCause = false →
      s.on GS_STAT_TEST_BUSY = false → s.get (GS_CH_STAT_PSTATE n) = 1 → e = s.symEnd n .on → s.onAt n e = false →
      u = s.turnOn n e →
      exec (.manualPulse n width) s = .next ((if u.onAt n e = true then u.schedule n (e + width) .off else u).emit
        (.done stOk))) ∧
    (∀ n, (s.chan n).due = [] → exec (.effectiveInstant n) s = .next s) ∧
    (∀ n c y rest u, (s.chan n).due = (c, y) :: rest →
      u = (s.advance c).setChan n { s.chan n with due := rest, busy := max (s.chan n).busy c } →
      (u.isUsed n = false ∨ (y = .on ∧ u.get (GS_CH_STAT_PSTATE n) ≠ 1) → exec (.effectiveInstant n) s = .next u) ∧
      (u.isUsed n = true → y = .on → u.get (GS_CH_STAT_PSTATE n) = 1 → u.onAt (partner n) c = true →
        exec (.effectiveInstant n) s = .next (u.refuseLeg n)) ∧
      (u.isUsed n = true → (y = .on → u.get (GS_CH_STAT_PSTATE n) = 1 ∧ u.onAt (partner n) c = false) →
        exec (.effectiveInstant n) s = .next (u.commanded n c y)))

/-- Safe-block inputs and the reset of a Datum. In a Datum. SBLK_CHANGE gives the named channels the new levels at its
instant; a request in a named channel blocks the named channels with cause INPUT and raises 178 where no level asked
before, and one in both leaves neither permitting. PROOF_OPEN in a channel that met the joint request and whose pair
is open proves it 10 ms after it opened, in any other changes nothing. SRST_CHANGE gives the named channels the new
levels, and the last release of a channel judges its press; a press of both inputs from released is measured from its
instant. DISCREPANCY_TIMEOUT of a pair that differs in a channel comes a cycle after DISC has passed since it began to
differ, sets DISC and, where the other channel has not found it, counts and raises 179. RESET_COMPLETE with a press
judged valid comes 50 ms after its last release. Each channel whose own press it is answers by its own conditions,
which are listed: 6 where it is PERMITTED, 1 where it passes, and it then enters PERMITTED, else 2; an accepted one
counts SF_RESETS and clears BLOCK_ACT and FC_FIRST, a refused one counts SF_RST_REF and raises 181. RESET_STUCK comes
5 s and a cycle after the first press that stands, with result 4 and 180 where the other channel has not found it;
RESET_STUCK_CLEAR 50 ms after the release of both inputs (R272 to R278). What counts as one request, what two channels
count together, the order of the tests of a press and the look in the queue are the model's readings (log entries 22,
24, 114, 115, 116). -/
def Obligations.SafeInputsComplete : Prop :=
  ∀ s : State, s.isDatum = true →
    (∀ x y a b c u v, u = s.advance c →
      v = ({ u with sf := { u.sf with
        x := if x = true then u.sf.x.sblk a b u.now else u.sf.x,
        y := if y = true then u.sf.y.sblk a b u.now else u.sf.y } } : State).mirrorInputs →
      (((a || b) && (x || y)) = true → (s.sf.x.sblkA || s.sf.x.sblkB || s.sf.y.sblkA || s.sf.y.sblkB) = false →
        exec (.sblkChange x y a b c) s = .next ((v.blockDatum x y SF_CAUSE_INPUT).raise 178)) ∧
      (((a || b) && (x || y)) = true → (s.sf.x.sblkA || s.sf.x.sblkB || s.sf.y.sblkA || s.sf.y.sblkB) = true →
        exec (.sblkChange x y a b c) s = .next (v.blockDatum x y SF_CAUSE_INPUT)) ∧
      (((a || b) && (x || y)) = false → exec (.sblkChange x y a b c) s = .next v)) ∧
    (∀ a b c, (a || b) = true →
      ∃ t, exec (.sblkChange true true a b c) s = .next t ∧ t.sf.x.permit = false ∧ t.sf.y.permit = false ∧
        s.now ≤ t.now ∧ t.mem = s.mem) ∧
    (∀ y k, (s.safeCh y).openAt = some k → (s.safeCh y).jointDone = true →
      exec (.proofOpen y) s = .next ((s.advance (k + 5000000)).setSafeCh y { s.safeCh y with proof := true }).mirrorInputs) ∧
    (∀ y, (s.safeCh y).openAt = none ∨ (s.safeCh y).jointDone = false → exec (.proofOpen y) s = .next s) ∧
    (∀ x y a b c u v, u = s.advance c → v = (if x = true then u.srstIn false a b else u) →
      exec (.srstChange x y a b c) s = .next (if y = true then v.srstIn true a b else v).mirrorInputs) ∧
    (∀ c, s.sf.x.srstA = false → s.sf.x.srstB = false →
      ∃ t, exec (.srstChange true false true true c) s = .next t ∧ t.sf.x.pressA = some (max s.now c) ∧
        t.sf.x.pressB = some (max s.now c) ∧ t.sf.x.pressOk = (!s.sf.x.stuck) ∧ t.sf.x.reqSince = false ∧
        t.sf.y = s.sf.y ∧ t.mem = s.mem ∧ t.out = s.out) ∧
    (∀ srst y k u, (if srst = true then (s.safeCh y).discSrstAt else (s.safeCh y).discSblkAt) = some k →
      (if srst = true then (s.safeCh y).discSrst else (s.safeCh y).discSblk) = false →
      u = (((s.advance (k + (s.safeCh y).disc + 1)).setSafeCh y ((s.safeCh y).discrepant srst)).mirrorInputs).put SF_CAUSE_DISC 1 →
      exec (.discrepancyTimeout srst y) s =
        .next (if (if srst = true then (s.safeCh !y).discSrst else (s.safeCh !y).discSblk) = true then u
          else (u.count SF_DISC_CNT).raise 179)) ∧
    (∀ srst y, (if srst = true then (s.safeCh y).discSrstAt else (s.safeCh y).discSblkAt) = none ∨
        (if srst = true then (s.safeCh y).discSrst else (s.safeCh y).discSblk) = true →
      exec (.discrepancyTimeout srst y) s = .next s) ∧
    (∀ u rx ry v w, (s.sf.x.resetDue || s.sf.y.resetDue) = true → u = s.advance (max s.sf.x.resetAt s.sf.y.resetAt) →
      rx = u.resetResult false → ry = u.resetResult true →
      v = (({ u with sf := { u.sf with x := u.sf.x.resetTaken rx, y := u.sf.y.resetTaken ry } } : State).mirrorSafe).rstInfo
        ((rx.or ry).getD 0) (if rx.isSome = true then s.sf.x.pressMs else s.sf.y.pressMs) →
      w = (if rx = some 1 ∨ ry = some 1 then ((v.count SF_RESETS).put FC_STAT_BLOCK_ACT 0).put FC_FIRST_VALID 0 else v) →
      exec .resetComplete s = .next (if rx = some 2 ∨ ry = some 2 then (w.count SF_RST_REF).raise 181 else w)) ∧
    (∀ y c, c = s.safeCh y →
      s.resetResult y = (if c.resetDue = false then none else if c.permit = true then some 6
        else if s.resetOk c = true ∧ s.blockWins y = false then some 1 else some 2) ∧
      (s.resetOk c = true ↔ s.class34Now = false ∧ s.on SF_STAT_CFG_LOCKED = true ∧ s.on SF_STAT_CFG_MATCH = true ∧
        s.on SF_STAT_XLINK_OK = true ∧ s.sf.diff = false ∧ s.sf.x.permit = s.sf.y.permit ∧ c.proof = true ∧
        c.discSblk = false ∧ c.discSrst = false ∧ c.stuck = false ∧ c.sblkA = false ∧ c.sblkB = false ∧
        c.reqSince = false) ∧
      (c.resetTaken none = c ∧ ∀ k, c.resetTaken (some k) =
        { c with permit := c.permit || k = 1, pressOk := false, relAllAt := none })) ∧
    ((s.sf.x.resetDue || s.sf.y.resetDue) = false → exec .resetComplete s = .next s) ∧
    (∀ y k u, (s.safeCh y).pressedAt = some k → (s.safeCh y).stuck = false →
      u = ((s.advance (k + 2500000001)).setSafeCh y { s.safeCh y with stuck := true, pressOk := false }).mirrorInputs →
      exec (.resetStuck y) s = .next (if (s.safeCh !y).stuck = true then u else (u.rstInfo 4 5000).raise 180)) ∧
    (∀ y, (s.safeCh y).pressedAt = none ∨ (s.safeCh y).stuck = true → exec (.resetStuck y) s = .next s) ∧
    (∀ y, (s.safeCh y).srstA = false → (s.safeCh y).srstB = false → (s.safeCh y).stuck = true →
      exec (.resetStuckClear y) s = .next ((s.advance (max ((s.safeCh y).relA.getD 0) ((s.safeCh y).relB.getD 0) +
        25000000)).setSafeCh y { s.safeCh y with stuck := false }).mirrorInputs) ∧
    (∀ y, (s.safeCh y).srstA = true ∨ (s.safeCh y).srstB = true ∨ (s.safeCh y).stuck = false →
      exec (.resetStuckClear y) s = .next s)

/-- Cross-link of the safety channels and the lock of their configuration. Out of reset, in either role: XLINK_HEARTBEAT
ends the loss of the heartbeat and source 177; where the channels agree it ends their difference and, unless a copy
failed its CRC, source 176; a Datum sets XLINK_OK, and a Stake may deblock. XLINK_TIMEOUT marks the loss, asserts 177,
and clears XLINK_OK in a Datum. CHANNEL_DISAGREE of channels whose states differ marks the difference and asserts 176;
of channels that agree it changes nothing. A first write of 1 to SYS_LOCK.SAFE gives each channel its copy, where the
copies differ channel Y a free one (log entry 25), which is the model's choice; a Datum sets CFG_LOCKED and writes the
agreement to CFG_MATCH; without agreement 182 raises; the answer is OK. A second one changes nothing and is OK. A copy
that fails its CRC marks that and asserts 176. In a Stake: GCMD_GATE with channel Y BLOCKED and the cell not Off holds
the four GCMD pins low, else changes nothing; PERMIT_LOSS blocks the channels whose PLCNT is 3, not yet taken for this
run, with cause PLOSS, counts SF_SELFBLK and raises 184, else changes nothing (R270, R279, R282, R284). -/
def Obligations.CrossLinkAndLockComplete : Prop :=
  ∀ s : State, s.running = true →
    (∀ agree u v, agree = decide (s.sf.x.permit = s.sf.y.permit) →
      u = ({ s with sf := { s.sf with beatLost := false, diff := s.sf.diff && !agree } } : State).levelOff 177 →
      v = (if s.role = .datum then u.put SF_STAT_XLINK_OK 1 else u) →
      exec .xlinkHeartbeat s = .next (if (agree && !s.sf.crcFail) = true then v.levelOff 176 else v).tryDeblock) ∧
    (s.role = .datum → exec .xlinkTimeout s = .next ((({ s with sf := { s.sf with beatLost := true } } : State).put
      SF_STAT_XLINK_OK 0).levelOn 177)) ∧
    (s.role = .stake → exec .xlinkTimeout s = .next (({ s with sf := { s.sf with beatLost := true } } : State).levelOn 177)) ∧
    (s.sf.x.permit ≠ s.sf.y.permit →
      exec .channelDisagree s = .next (({ s with sf := { s.sf with diff := true } } : State).levelOn 176)) ∧
    (s.sf.x.permit = s.sf.y.permit → exec .channelDisagree s = .next s) ∧
    (∀ agree z u v, s.takesWrites = true → s.on SYS_LOCK_SAFE = false → z = (if agree = true then s else s.used.used.used.used) →
      u = ({ z with sf := { z.sf with
        x := { z.sf.x with copy := some s.sfCfgNow },
        y := { z.sf.y with copy := some (if agree = true then s.sfCfgNow else s.freeCopy) } } } : State).put SYS_LOCK_SAFE 1 →
      v = (if s.role = .datum then (u.put SF_STAT_CFG_LOCKED 1).put SF_STAT_CFG_MATCH agree.toNat else u) →
      exec (.safeLock agree) s = .next ((if agree = true then v else v.raise 182).emit (.done stOk))) ∧
    (∀ agree, s.takesWrites = true → s.on SYS_LOCK_SAFE = true → exec (.safeLock agree) s = .next (s.emit (.done stOk))) ∧
    exec .safeConfigCrc s = .next (({ s with sf := { s.sf with crcFail := true } } : State).levelOn 176) ∧
    (s.role = .stake → s.sf.y.permit = false → s.cell ≠ .off →
      exec .gcmdGate s = .next ((s.put SF_SSTAT_GCMD_GATED 1).emits
        [.pin "GCMD" 0 false, .pin "GCMD" 1 false, .pin "GCMD" 2 false, .pin "GCMD" 3 false])) ∧
    (s.role = .stake → s.sf.y.permit = true ∨ s.cell = .off → exec .gcmdGate s = .next s) ∧
    (∀ u, s.role = .stake → (s.sf.x.permitLost || s.sf.y.permitLost) = true →
      u = ({ s with sf := { s.sf with
        x := { s.sf.x with plDone := s.sf.x.plDone || s.sf.x.permitLost },
        y := { s.sf.y with plDone := s.sf.y.plDone || s.sf.y.permitLost } } } : State) →
      exec .permitLoss s = .next (((u.blockStake s.sf.x.permitLost s.sf.y.permitLost
        [SF_SCAUSE_PLOSS]).count SF_SELFBLK).raise 184)) ∧
    ((s.sf.x.permitLost || s.sf.y.permitLost) = false → exec .permitLoss s = .next s)

/-- Fault inputs, forcing, watchdog, Field Book and ALIVE. Out of reset. FLTINn going high or low asserts or ends level
source 224 + n as POL says, and there is no FLTINn from 8 on. A write to FC_FORCEr with a rising bit of a class 4
source is LOCKED; else the bits are written, sources whose bit falls settle and those whose bit rises assert, one that
asserted before only keeping its bit, and the answer is OK; from r = 8 on it is BAD_PARAM. 0xA55A and then 0x5AA5 feed
the watchdog; any other value disarms and counts WD_BADFEED. RECORD_WRITE closes the cycle, makes the tail copies that
wait and, unless the ring is frozen, writes the oldest staged record to ring slot SEQ mod 8192 with the next SEQ.
FREEZE writes both bits; a freeze that expires leaves FRZ_EXP and a 0x07 record. Each clear makes its records invalid
and leaves a 0x08 record, or is LOCKED. ALIVE toggles while no cause holds, takes its last falling edge under a cause
with ALIVE_RUN 0, and then rests (R203, R291, R298, R300, R301, R304, R309 to R311). -/
def Obligations.FaultAndFieldBookComplete : Prop :=
  ∀ s : State, s.running = true →
    (∀ n t, n < 8 → t = ({ s with fc := { s.fc with inputs := s.fc.inputs.filter (· ≠ n) ++ [n] } } : State) →
      exec (.fltinChange n true) s =
        .next (if s.cfgOn (FLTIN_FILT_POL n) = true then t.levelOff (224 + n) else t.levelOn (224 + n))) ∧
    (∀ n t, n < 8 → t = ({ s with fc := { s.fc with inputs := s.fc.inputs.filter (· ≠ n) } } : State) →
      exec (.fltinChange n false) s =
        .next (if s.cfgOn (FLTIN_FILT_POL n) = true then t.levelOn (224 + n) else t.levelOff (224 + n))) ∧
    (∀ n b, 8 ≤ n → exec (.fltinChange n b) s = .next s) ∧
    (∀ r v rises falls, s.takesWrites = true → r < 8 → v < 2 ^ 32 →
      rises = (List.range 32).filter (fun b => bitOf v b && !bitOf (s.get (FC_FORCE_SRC r)) b) →
      falls = (List.range 32).filter (fun b => !bitOf v b && bitOf (s.get (FC_FORCE_SRC r)) b) →
      ((rises.any fun b => decide (s.classOf (32 * r + b) = 4)) = true →
        exec (.faultForce r v) s = .next (s.emit (.done stLocked))) ∧
      ((rises.any fun b => decide (s.classOf (32 * r + b) = 4)) = false →
        exec (.faultForce r v) s = .next ((rises.foldl (fun t b => t.forceOn (32 * r + b) (s.asserting (32 * r + b)))
          (falls.foldl (fun t b => t.settle (32 * r + b)) (s.put (FC_FORCE_SRC r) v))).emit (.done stOk)))) ∧
    (∀ r v, s.takesWrites = true → 8 ≤ r → exec (.faultForce r v) s = .next (s.emit (.done stBadParam))) ∧
    (∀ v, s.takesWrites = true → v % 65536 = 0x5AA5 → s.fc.feedArmed = true → exec (.watchdogFeed v) s =
      .next ((({ s with fc := { s.fc with feedArmed := false } } : State).put FC_STAT_WD_EXP 0).emit (.done stOk))) ∧
    (∀ v, s.takesWrites = true → v % 65536 = 0xA55A → s.fc.feedArmed = false → exec (.watchdogFeed v) s =
      .next (({ s with fc := { s.fc with feedArmed := true } } : State).emit (.done stOk))) ∧
    (∀ v, s.takesWrites = true → (s.fc.feedArmed = true ∧ v % 65536 ≠ 0x5AA5) ∨ (s.fc.feedArmed = false ∧ v % 65536 ≠ 0xA55A) →
      exec (.watchdogFeed v) s =
        .next ((({ s with fc := { s.fc with feedArmed := false } } : State).count WD_BADFEED).emit (.done stOk))) ∧
    (∀ r u, r = s.endCycle.copyTails s.endCycle.fb.queue → u = ({ r.1 with fb := { r.1.fb with queue := r.2 } } : State) →
      exec .recordWrite s = .next (if u.on FB_STAT_FROZEN = true then u else u.writeRing)) ∧
    (∀ e rest, s.fb.cycle = [] → s.fb.queue = e :: rest → e.rcd.tail = false → (∀ x : FbEnt, x ∈ rest → x.rcd.tail = false) →
      s.on FB_STAT_FROZEN = false → s.fb.lost = 0 →
      exec .recordWrite s = .next (({ s with fb := { s.fb with
        ring := kset s.fb.ring (s.get FB_HEAD_SEQ % 8192) { e.rcd with seq := s.get FB_HEAD_SEQ, valid := true }
        queue := rest, newestTail := e.tailSeq } } : State).put FB_HEAD_SEQ (s.get FB_HEAD_SEQ + 1))) ∧
    (∀ b : Bool, s.takesWrites = true → exec (.freeze b) s =
      .next (((s.put FB_CTRL_FREEZE b.toNat).put FB_STAT_FROZEN b.toNat).emit (.done stOk))) ∧
    (s.on FB_CTRL_FREEZE = true → exec .freezeExpiry s =
      .next ((((s.put FB_CTRL_FREEZE 0).put FB_STAT_FROZEN 0).put FB_STAT_FRZ_EXP 1).event 7 0)) ∧
    (s.on FB_CTRL_FREEZE = false → exec .freezeExpiry s = .next s) ∧
    (s.takesWrites = true → s.on SYS_LOCK_FB = false →
      exec .ringClear s =
        .next ((({ s with fb := { s.fb with ring := invalidate s.fb.ring } } : State).event 8 0).emit (.done stOk)) ∧
      exec .tailClear s =
        .next ((({ s with fb := { s.fb with tail := invalidate s.fb.tail } } : State).event 8 0).emit (.done stOk))) ∧
    (s.takesWrites = true → s.on SYS_LOCK_FB = true →
      exec .ringClear s = .next (s.emit (.done stLocked)) ∧ exec .tailClear s = .next (s.emit (.done stLocked))) ∧
    (s.fc.alive = false → s.aliveCause = false → exec .aliveEdge s =
      .next ((({ s.put FC_STAT_ALIVE_RUN 1 with fc := { s.fc with alive := true } } : State).emit (.pin "ALIVE" 0 true)))) ∧
    (s.fc.alive = true → s.aliveCause = false → exec .aliveEdge s =
      .next ((({ s with fc := { s.fc with alive := false } } : State).emit (.pin "ALIVE" 0 false)))) ∧
    (s.fc.alive = true → s.aliveCause = true → exec .aliveEdge s =
      .next ((({ s.put FC_STAT_ALIVE_RUN 0 with fc := { s.fc with alive := false } } : State).emit (.pin "ALIVE" 0 false)))) ∧
    (s.fc.alive = false → s.aliveCause = true → exec .aliveEdge s = .next (s.put FC_STAT_ALIVE_RUN 0))

/-- Converter passes: triggers, ends, time events and the cell voltage. Out of reset. A grid instant of a converter whose
grid is on and for which that cycle is due takes place then and is a trigger; one that is not due changes nothing. A
software start of converter 0 to 3 is a trigger and OK, of another BAD_PARAM. A trigger of an idle converter outside a
mirrored pair and outside calibration starts its pass with the active table. ADC_PASS_END of a running pass comes 75
ns after its last hold and ends it with the corrected results, at both converters of a mirrored pair with theirs; in a
Stake, outside a mirrored pair, that is the end at that converter: results, PASSNO, DONE and a waiting calibration;
without a running pass it changes nothing. TEV_FIRE of a unit that may fire takes place at its instant: the unit has
fired, its pulse begins and ends WID later, TOUT takes its level, the sequences it names are triggered, and a Datum
signals its route; of another it changes nothing. TEV_PULSE_END of a unit in a pulse comes at that end and lets TOUT
go. In a Stake the oldest open conversion of the cell voltage gives VCODE 100 ns after its hold, the larger code of a
mirrored pair goes to the OV levels (R54, R55, R175, R176, R188 to R193, R195, R199). -/
def Obligations.ConverterPassesComplete : Prop :=
  ∀ s : State, s.running = true →
    (∀ n c, n < 4 → s.gridOn n = true → s.gridDue n c = true →
      exec (.adcGridTrigger n c) s = .next ((s.advance c).gridTrigger n false)) ∧
    (∀ n c, 4 ≤ n ∨ s.gridOn n = false ∨ s.gridDue n c = false → exec (.adcGridTrigger n c) s = .next s) ∧
    (∀ n, s.takesWrites = true → n < 4 → exec (.adcSwStart n) s = .next ((s.adTrigger n false).emit (.done stOk))) ∧
    (∀ n, s.takesWrites = true → n < 4 → s.mirrored (n / 2) = false → s.calBusy n = false → s.passBusy n = false →
      s.get (AD_PAIR_STAT_ROT (n / 2)) = 0 →
      exec (.adcSwStart n) s = .next ((s.startPass n false).emit (.done stOk))) ∧
    (∀ n, s.takesWrites = true → 4 ≤ n → exec (.adcSwStart n) s = .next (s.emit (.done stBadParam))) ∧
    (∀ n raw rawB u, n < 4 → s.passBusy n = true → u = s.advance (s.passOver n) →
      exec (.adcPassEnd n raw rawB) s = .next (u.passEnd n (u.passEnds n) fun c =>
        u.passResults c (if ((u.conv n).mir && decide (c % 2 = 1)) = true then rawB else raw))) ∧
    (∀ n raw rawB u, n < 4 → s.passBusy n = true → s.role = .stake → (s.conv n).mir = false →
      u = s.advance (s.passOver n) →
      exec (.adcPassEnd n raw rawB) s = .next (u.endPass n (u.passResults n raw))) ∧
    (∀ n raw rawB, 4 ≤ n ∨ s.passBusy n = false → exec (.adcPassEnd n raw rawB) s = .next s) ∧
    (∀ n u v w, s.tevReady n = true → u = s.advance (s.tevDue n) →
      v = ((u.setTev n { s.tevSt n with
        fires := (s.tevSt n).fires + 1, pulse := true, fired := true, made := (s.tevSt n).made || s.cfgOn (TEV_CTRL_MODE n), firedAt := u.now,
        endAt := u.now + s.cfg (TEV_WID_VAL n) }).put (TEV_STAT_FIRED n) 1).tout n true →
      w = ((List.range 4).filter (bitOf (s.cfg (TEV_CTRL_ADCSTART n)))).foldl (fun t c => t.adTrigger c false) v →
      exec (.tevFire n) s = .next (if w.role = .datum then w.routeEvent (17 + n) else w)) ∧
    (∀ n, s.tevReady n = false → exec (.tevFire n) s = .next s) ∧
    (∀ n, (s.tevSt n).pulse = true →
      exec (.tevPulseEnd n) s = .next (((s.advance (s.tevSt n).endAt).setTev n { s.tevSt n with pulse := false }).tout n
        false)) ∧
    (∀ n, (s.tevSt n).pulse = false → exec (.tevPulseEnd n) s = .next s) ∧
    (∀ raw rawB x cs u, s.role = .stake → s.cellOpen = some (x, cs) →
      u = cs.foldl State.cellTaken (s.advance ((x.hold + 203) / 4)) →
      exec (.cellVoltageResult raw rawB) s =
        .next (u.cellResult x
          (u.vcodeOf (u.correct (if cs.contains (u.pairConv 0) = true then u.pairConv 0 else cs.headD 0)
            (if (if cs.contains (u.pairConv 0) = true then u.pairConv 0 else cs.headD 0) = 0 then raw else rawB) x.diff))
          ((cs.map fun n => u.vcodeOf (u.correct n (if n = 0 then raw else rawB) x.diff)).foldl max 0))) ∧
    (∀ raw rawB, s.cellOpen = none → exec (.cellVoltageResult raw rawB) s = .next s)

/-- Converter pairs, injected conversions and calibration. Out of reset. PAIR_MISMATCH acts on the limits that the
comparison of pair m has reached, in their order: CNT disagreements set MISMATCH and raise 128 + m, CNT agreements
clear it. ADC_INJECT writes the fields and requests a conversion of the converter, of both of a mirrored pair, and is
OK: one that calibrates, has a request open, or runs a pass without PREEMPT counts INJ_DROP; else the request is open
and a running pass is preempted. Converters from 4 on are BAD_PARAM. The result of an open request comes 100 ns after
its start, corrected and VALID. CAL_START is BUSY where it names the carrier of a pair in rotating calibration; else
it requests calibration of each converter it names: at once if idle, at the end of a running pass, once. Factors of a
calibrating converter that pass are applied and set CAL_VALID, others raise 130 + n; both end CAL_BUSY. ROT_START is
BUSY where a pair it names is not mirrored, calibrates or rotates; else each pair it names starts rotating
calibration. ROT_CAL_ABORT of a rejoined pair with fewer than 16 compared passes ends it with ROT_ABORT and source
134, of another changes nothing (R190, R192 to R198, R207). That ROT_START is BUSY while a pair rotates is the model's
reading (log entry 29). -/
def Obligations.ConverterCareComplete : Prop :=
  ∀ s : State, s.running = true →
    (∀ m, m < 2 → exec (.pairMismatch m) s = .next ((s.adPair m).limits.foldl (fun t b =>
      if b = true then (t.put (AD_PAIR_STAT_MISMATCH m) 1).raise (128 + m) else t.put (AD_PAIR_STAT_MISMATCH m) 0)
        (s.setAdPair m { s.adPair m with limits := [] }))) ∧
    (∀ m, 2 ≤ m → exec (.pairMismatch m) s = .next s) ∧
    (∀ n inp (diff pre : Bool) u, s.takesWrites = true → n < 4 →
      u = ((s.put (AD_INJ_IN n) inp).putB (AD_INJ_DIFF n) diff).setShadow (AD_INJ_PREEMPT n) pre.toNat →
      exec (.adcInject n inp diff pre) s = .next (((if s.mirrored (n / 2) = true then [n / 2 * 2, n / 2 * 2 + 1] else [n]).foldl
        (fun t c => t.injectConv c (inp % 16) diff.toNat (s.cfgOn (AD_INJ_PREEMPT n))) u).emit (.done stOk))) ∧
    (∀ n inp diff pre, s.takesWrites = true → 4 ≤ n → exec (.adcInject n inp diff pre) s = .next (s.emit (.done stBadParam))) ∧
    (∀ n inp (diff pre : Bool), s.takesWrites = true → n < 4 → s.mirrored (n / 2) = false → s.calBusy n = false → s.passBusy n = false →
      (s.conv n).inj = none →
      ∃ t, exec (.adcInject n inp diff pre) s = .next t ∧ (t.conv n).inj = some (inp % 16, diff.toNat) ∧
        (t.conv n).injAt = s.now ∧ t.out = s.out ++ [.done stOk] ∧ t.mem = s.mem) ∧
    (∀ n raw inp diff u, (s.conv n).inj = some (inp, diff) → u = s.advance ((s.conv n).injAt + 50) →
      exec (.adcInjectResult n raw) s = .next (((u.setConv n { s.conv n with inj := none }).put (AD_INJ_RES_CODE n)
        (codeOf (s.correct n raw diff))).put (AD_INJ_RES_VALID n) 1)) ∧
    (∀ n raw, (s.conv n).inj = none → exec (.adcInjectResult n raw) s = .next s) ∧
    (∀ mask l, s.takesWrites = true → l = (List.range 4).filter (bitOf mask) →
      (∀ n : Nat, n ∈ l → s.get (AD_PAIR_STAT_ROT (n / 2)) = 0 ∨ s.carrier (n / 2) ≠ n) →
      exec (.adcCalStart mask) s = .next ((l.foldl State.calRequest s).emit (.done stOk))) ∧
    (∀ mask n, s.takesWrites = true → n < 4 → bitOf mask n = true → s.get (AD_PAIR_STAT_ROT (n / 2)) ≠ 0 → s.carrier (n / 2) = n →
      exec (.adcCalStart mask) s = .next (s.emit (.done stBusy))) ∧
    (∀ n gain ofs, n < 4 → s.calBusy n = true → calOk gain ofs = true →
      exec (.adcCalDone n gain ofs) s = .next ((((s.put AD_STAT_CAL_BUSY (clrBitOf (s.get AD_STAT_CAL_BUSY) n)).put
        (AD_CAL_GAIN_GAIN n) gain).put (AD_CAL_OFS_OFS n) ofs).put AD_STAT_CAL_VALID (setBitOf (s.get AD_STAT_CAL_VALID) n))) ∧
    (∀ n gain ofs, n < 4 → s.calBusy n = true → calOk gain ofs = false →
      exec (.adcCalDone n gain ofs) s = .next ((s.put AD_STAT_CAL_BUSY (clrBitOf (s.get AD_STAT_CAL_BUSY) n)).raise
        (130 + n))) ∧
    (∀ n gain ofs, 4 ≤ n ∨ s.calBusy n = false → exec (.adcCalDone n gain ofs) s = .next s) ∧
    (∀ mask l, s.takesWrites = true → l = (List.range 2).filter (bitOf mask) →
      (∀ m : Nat, m ∈ l → s.mirrored m = true ∧ s.calBusy (2 * m) = false ∧ s.calBusy (2 * m + 1) = false ∧
        s.get (AD_PAIR_STAT_ROT m) = 0) →
      exec (.rotCalStart mask) s = .next ((l.foldl State.rotStart s).emit (.done stOk))) ∧
    (∀ mask m, s.takesWrites = true → m < 2 → bitOf mask m = true →
      s.mirrored m = false ∨ s.calBusy (2 * m) = true ∨ s.calBusy (2 * m + 1) = true ∨ s.get (AD_PAIR_STAT_ROT m) ≠ 0 →
      exec (.rotCalStart mask) s = .next (s.emit (.done stBusy))) ∧
    (∀ m, m < 2 → s.get (AD_PAIR_STAT_ROT m) = 2 ∨ s.get (AD_PAIR_STAT_ROT m) = 4 → (s.adPair m).rotRun < 16 →
      exec (.rotCalAbort m) s = .next ((((s.put (AD_PAIR_STAT_ROT m) 0).put AD_STAT_ROT_BUSY
        (clrBitOf (s.get AD_STAT_ROT_BUSY) m)).put (AD_PAIR_STAT_ROT_ABORT m) 1).raise 134)) ∧
    (∀ m, 2 ≤ m ∨ 16 ≤ (s.adPair m).rotRun ∨ s.get (AD_PAIR_STAT_ROT m) = 0 → exec (.rotCalAbort m) s = .next s)

/-- The auxiliary supply PWM. In a Stake. With the controller running and no pulse: in mode 1 the next period starts at
the end of the off-time; in mode 0 without sync and with AUXDEM high it starts once AUXDEM was high and the off-time
has passed; a running pulse ends at its end by R201: TON, or in mode 1 AUXDEM low but at most TONMAX. The start of a
period is that of a pulse, or a cut under AUXFLT, and ends the run of cuts after an uncut one. AUXFLT going high sets
FLT at its instant and cuts a running pulse; falling, it clears FLT. FLTLIM cut periods raise 136 once. AUXDEM is
shown in DEM. With the controller running: an edge in mode 1 is repeated DLY later; in mode 0 from the input it is
accepted without lock, or within PER / 8 of its time, else SYNC_ERR counts; a sync instant comes at its time, pulses
AUXSYNC_OUT for 10 cycles, the own timer goes on PER later, and in mode 0 with sync a pulse starts or SYNC_SKIP
counts; the loss of sync comes 2 PER after the last accepted edge, or after the start, once, in mode 0 from the input,
clears SYNC_LOCK, counts SYNC_LOSS, raises 137, and the own timer goes on. With it stopped these change nothing (R201
to R204, R406). What the timers count from at a start is the model's choice (log entry 108). -/
def Obligations.AuxiliarySupplyComplete : Prop :=
  ∀ s : State, s.isStake = true →
    (s.on AUX_STAT_RUN = true → s.on AUX_STAT_ON = false → s.cfgOn AUX_CTRL_MODE = true →
      exec .auxPulseStart s = .next (s.advance (s.aux.offAt + s.cfg AUX_TOFF_TOFF)).auxPeriod) ∧
    (s.on AUX_STAT_RUN = true → s.on AUX_STAT_ON = false → s.cfgOn AUX_CTRL_MODE = false →
      s.cfgOn AUX_CTRL_SYNC_EN = false → s.on AUX_STAT_DEM = true →
      exec .auxPulseStart s = .next (s.advance (max s.aux.demAt (s.aux.offAt + s.cfg AUX_TOFF_TOFF))).auxPeriod) ∧
    (s.on AUX_STAT_ON = true ∨ (s.cfgOn AUX_CTRL_MODE = false ∧ (s.cfgOn AUX_CTRL_SYNC_EN = true ∨ s.on AUX_STAT_DEM = false)) →
      exec .auxPulseStart s = .next s) ∧
    (∀ u, s.on AUX_STAT_RUN = true → s.on AUX_STAT_ON = true → u = s.advance s.auxEnd →
      exec .auxPulseEnd s = .next (({ u with aux := { s.aux with offAt := u.now } } : State).auxPin false)) ∧
    (s.on AUX_STAT_ON = false → exec .auxPulseEnd s = .next s) ∧
    (∀ c, s.on AUX_STAT_ON = true →
      exec (.auxfltCut c) s = .next (((s.advance c).put AUX_STAT_FLT 1).auxOff.auxCutNow)) ∧
    (∀ c, s.on AUX_STAT_ON = false → exec (.auxfltCut c) s = .next ((s.advance c).put AUX_STAT_FLT 1)) ∧
    exec .auxfltFall s = .next (s.put AUX_STAT_FLT 0) ∧
    (s.cfg AUX_FILT_FLTLIM ≤ s.aux.cutRun → s.aux.raised = false →
      exec .auxCutLimit s = .next (({ s with aux := { s.aux with raised := true } } : State).raise 136)) ∧
    (s.aux.cutRun < s.cfg AUX_FILT_FLTLIM ∨ s.aux.raised = true → exec .auxCutLimit s = .next s) ∧
    (∀ b : Bool, exec (.auxdemChange b) s =
      .next (({ s with aux := { s.aux with demAt := s.now } } : State).put AUX_STAT_DEM b.toNat)) ∧
    (∀ c u, s.on AUX_STAT_RUN = true → s.cfgOn AUX_CTRL_MODE = true → u = s.advance c →
      exec (.auxsyncEdge c) s = .next { u with aux := { s.aux with syncs := s.aux.syncs ++ [u.now + s.cfg AUX_SYNC_DLY] } }) ∧
    (∀ c, s.on AUX_STAT_RUN = true → s.cfgOn AUX_CTRL_MODE = false → s.cfgOn AUX_CTRL_SYNC_SRC = true →
      exec (.auxsyncEdge c) s = .next (s.advance c)) ∧
    (∀ c u, s.on AUX_STAT_RUN = true → s.cfgOn AUX_CTRL_SYNC_SRC = false → s.cfgOn AUX_CTRL_MODE = false →
      u = s.advance c →
      s.on AUX_STAT_SYNC_LOCK = false ∨ 8 * ((u.now - (s.aux.lastEdge + s.cfg AUX_SYNC_PER)) +
        ((s.aux.lastEdge + s.cfg AUX_SYNC_PER) - u.now)) ≤ s.cfg AUX_SYNC_PER →
      exec (.auxsyncEdge c) s = .next (({ u with aux := { s.aux with
        lastEdge := u.now, lost := false
        syncs := (if s.aux.lost = true then [] else s.aux.syncs) ++ [u.now + s.cfg AUX_SYNC_DLY] } } : State).put
          AUX_STAT_SYNC_LOCK 1)) ∧
    (∀ c u, s.on AUX_STAT_RUN = true → s.cfgOn AUX_CTRL_SYNC_SRC = false → s.cfgOn AUX_CTRL_MODE = false →
      u = s.advance c → s.on AUX_STAT_SYNC_LOCK = true →
      s.cfg AUX_SYNC_PER < 8 * ((u.now - (s.aux.lastEdge + s.cfg AUX_SYNC_PER)) +
        ((s.aux.lastEdge + s.cfg AUX_SYNC_PER) - u.now)) →
      exec (.auxsyncEdge c) s = .next (u.count SYNC_ERR)) ∧
    (∀ t rest u, s.on AUX_STAT_RUN = true → s.aux.syncs = t :: rest → u = s.advance t →
      exec .syncInstant s = .next (({ u with aux := { s.aux with
        lastSync := t
        syncs := if s.ownSync = true then [t + s.cfg AUX_SYNC_PER] else rest } } : State).emit (.pulse "AUXSYNC_OUT" 10)).syncPulse) ∧
    (s.aux.syncs = [] → exec .syncInstant s = .next s) ∧
    (∀ u, s.on AUX_STAT_RUN = true → s.cfgOn AUX_CTRL_MODE = false → s.cfgOn AUX_CTRL_SYNC_SRC = false → s.aux.lost = false →
      u = s.advance (s.aux.lastEdge + 2 * s.cfg AUX_SYNC_PER) →
      exec .syncLoss s = .next (((({ u with aux := { s.aux with
        lost := true, syncs := [timerFrom s.aux.lastSync (s.cfg AUX_SYNC_PER) u.now] } } : State).put AUX_STAT_SYNC_LOCK 0).count
          SYNC_LOSS).raise 137)) ∧
    (s.cfgOn AUX_CTRL_MODE = true ∨ s.cfgOn AUX_CTRL_SYNC_SRC = true ∨ s.aux.lost = true → exec .syncLoss s = .next s) ∧
    (s.on AUX_STAT_RUN = false → exec .auxPulseStart s = .next s ∧ exec .auxPulseEnd s = .next s ∧
      (∀ c, exec (.auxsyncEdge c) s = .next s) ∧ exec .syncInstant s = .next s ∧ exec .syncLoss s = .next s)

/-- Scheduler: flags, dispatch, end and cancel of an instance. In a Datum. SET_FLAG and the signal instruction of a busy
lane set the flag and evaluate its slot. With the scheduler on, TASK_DISPATCH serves the queues in order with four
starts in all; with the head of queue 0 alone, that may start on one free lane, it starts there; with the scheduler
off nothing changes. The lowest HELD slot with room in its queue enters it at its end; with none nothing changes.
TASK_END of a busy lane releases its staged writes, or keeps them where the release would not be complete by the
cut-off (a free value, log entry 8), marks the tick done, frees the lane, ends PENDING, signals its targets and
evaluates the slot. A cancel, by either command, removes a queued or held instance and what makes it ready again,
misses a running one that is not PENDING (CANCEL_MISS), takes a slot just becoming ready (READY_CNT, READY_CANCEL),
and else clears its masked flags and PENDING; all but the miss count CANCEL_CNT. OVR_RUN at its limit raises 71 once.
No command of a lane that runs nothing does anything (R210, R215, R216, R218, R219, R221, R222, R225, R229). Which row
of R222 takes a slot that is RUNNING or queued and PENDING as well, and the report that a slot was just becoming
ready, are the model's reading and choice (log entries 41, 42, 132). -/
def Obligations.SchedulerCommandsComplete : Prop :=
  ∀ s : State, s.isDatum = true →
    (∀ i f, s.takesWrites = true → exec (.setFlag i f) s = .next ((s.setFlags [(i % 128, f % 32)]).emit (.done stOk))) ∧
    (∀ n i f, s.laneBusy n = true → exec (.signalInstruction n i f) s = .next (s.setFlags [(i % 128, f % 32)])) ∧
    (s.cfgOn SCH_CTRL_EN = true → exec .taskDispatch s =
      .next ((List.range 8).foldl (fun r q => r.1.serveQueue q r.2 (r.1.queue q)) (s, 4)).1) ∧
    (∀ i n u, s.cfgOn SCH_CTRL_EN = true → s.queue 0 = [i] → s.mayStart i = true → s.freeLanes i = [n] →
      u = ((s.used.setQueue 0 []).startOn i n).showSlot i 4 → (∀ q : Nat, q ∈ [1, 2, 3, 4, 5, 6, 7] → u.queue q = []) →
      exec .taskDispatch s = .next u) ∧
    (s.cfgOn SCH_CTRL_EN = false → exec .taskDispatch s = .next s) ∧
    (∀ i, ((List.range 128).find? fun i => s.instOf i = 2 &&
        (s.queue (s.prio i)).length < s.cfg (SCH_QDEPTH_DEPTH (s.prio i))) = some i →
      exec .heldInstanceEnqueue s = .next ((s.setQueue (s.prio i) (s.queue (s.prio i) ++ [i])).showSlot i 3)) ∧
    ((∀ i : Nat, i ∈ List.range 128 → s.instOf i = 2 →
        s.cfg (SCH_QDEPTH_DEPTH (s.prio i)) ≤ (s.queue (s.prio i)).length) →
      exec .heldInstanceEnqueue s = .next s) ∧
    (∀ n i u v, s.laneBusy n = true → i = s.get (LE_LANE_STAT_SLOT n) →
      u = (if s.releaseLate = true then ({ s with sch := { s.sch with lateOut := s.sch.lateOut ++ (s.lane n).staged } } : State)
        else s.releaseAll (s.lane n).staged).used →
      v = (((u.put (SCH_SLOT_STAT_DONE_TICK i) 1).freeLane n).clearPending i).showSlot i 0 →
      exec (.taskEnd n) s = .next ((v.setFlags (v.targets i)).evalSlot i)) ∧
    (∀ i (ready : Bool) u, i < 128 → u = (match s.queueOf i with
        | some q => s.setQueue q ((s.queue q).filter (· ≠ i))
        | none => s) →
      (s.instOf i = 0 → ready = false →
        s.cancel i ready = (((s.clearMask i).clearPending i).showSlot i 0).count CANCEL_CNT) ∧
      (s.instOf i = 0 → ready = true →
        s.cancel i ready = (((s.clearMask i).count READY_CNT).count CANCEL_CNT).count READY_CANCEL) ∧
      (s.instOf i = 2 ∨ s.instOf i = 3 →
        s.cancel i ready = ((if u.slotPending i = true then (u.clearMask i).clearPending i else u).showSlot i 0).count CANCEL_CNT) ∧
      (s.instOf i = 4 → s.slotPending i = false → s.cancel i ready = s.count CANCEL_MISS) ∧
      (s.instOf i = 4 → s.slotPending i = true →
        s.cancel i ready = (((s.clearMask i).clearPending i).showSlot i 4).count CANCEL_CNT)) ∧
    (∀ n i ready, s.laneBusy n = true → exec (.cancelInstruction n i ready) s = .next (s.cancel (i % 128) ready)) ∧
    (∀ i ready, s.takesWrites = true → exec (.slotCancel i ready) s = .next ((s.cancel (i % 128) ready).emit (.done stOk))) ∧
    (s.cfg LE_OVR_CFG_LIM ≤ s.get LE_STAT_OVR_RUN → s.sch.ovrRaised = false →
      exec .overrunLimit s = .next (({ s with sch := { s.sch with ovrRaised := true } } : State).raise 71)) ∧
    (s.get LE_STAT_OVR_RUN < s.cfg LE_OVR_CFG_LIM ∨ s.sch.ovrRaised = true → exec .overrunLimit s = .next s) ∧
    (∀ n i f r, s.laneBusy n = false → exec (.signalInstruction n i f) s = .next s ∧ exec (.taskEnd n) s = .next s ∧
      exec (.cancelInstruction n i r) s = .next s)

/-- Loop engine: output window, lane faults, ECC, NaN, bank swap. In a Datum, for a busy lane: a write to a register of
the output window is staged, the 65th counts OUTBUF_OVF, aborts and raises 75, one elsewhere is lane fault 4; a lane
fault of cause 1 to 4 records its cause, counts, aborts the instance and raises 79; a NaN sets NAN, counts NAN_CNT and
raises 74 for the first in the instance; an uncorrectable data error shows its word, counts ECC_UNC, aborts and raises
72; a corrected program error counts PM_COR, an uncorrectable one aborts and raises 78. A lane that runs nothing does
none of this. A single-bit data error counts ECC_COR and raises 73; one that stays marks its word, or its entry of the
repetitive pool. A swap request without IDLE_OK is INCOMPATIBLE, for a tick less than two ahead BAD_PARAM, else it is
pending and OK; a withdrawal drops a pending one with 76 and is OK; at the start of its tick a pending swap aborts the
instances that run, counted, and exchanges the banks; at another nothing changes (R209, R211, R213 to R215, R226,
R241). -/
def Obligations.LoopEngineCommandsComplete : Prop :=
  ∀ s : State, s.isDatum = true →
    (∀ n addr v, s.laneBusy n = true → (windowOf addr).isSome = true → (s.lane n).staged.length < 64 →
      exec (.outputWindowWrite n addr v) s = .next (s.setLane n { s.lane n with
        staged := (s.lane n).staged ++ [(addr, v % 2 ^ 32)] })) ∧
    (∀ n addr v, s.laneBusy n = true → (windowOf addr).isSome = true → 64 ≤ (s.lane n).staged.length →
      exec (.outputWindowWrite n addr v) s = .next (((s.count OUTBUF_OVF).abortLane n).raise 75)) ∧
    (∀ n addr v, s.laneBusy n = true → windowOf addr = none →
      exec (.outputWindowWrite n addr v) s = .next ((((s.put (LE_LANE_STAT_FCAUSE n) 4).count LANE_FAULT).abortLane n).raise
        79)) ∧
    (∀ n k, s.laneBusy n = true → 1 ≤ k → k ≤ 4 →
      exec (.laneFault n k) s = .next ((((s.put (LE_LANE_STAT_FCAUSE n) k).count LANE_FAULT).abortLane n).raise 79)) ∧
    (∀ n u, s.laneBusy n = true → u = (s.put (LE_LANE_STAT_NAN n) 1).count NAN_CNT →
      exec (.nanResult n) s = .next (if (s.lane n).nan = true then u
        else (u.setLane n { u.lane n with nan := true }).raise 74)) ∧
    (∀ ofs n, exec (.dataEccError 0 ofs n) s = .next ((s.count ECC_COR).raise 73)) ∧
    (∀ ofs n, s.laneBusy n = true →
      exec (.dataEccError 1 ofs n) s = .next ((((s.put LE_ECC_ADDR_ADDR (ofs / 8 * 8)).count ECC_UNC).abortLane n).raise
        72)) ∧
    (∀ k ofs n, k = 2 ∨ k = 3 →
      exec (.dataEccError k ofs n) s = .next { s with mbad := addOnce s.mbad (loopDataBase + ofs / 8 * 8) }) ∧
    (∀ ofs n, exec (.dataEccError 4 ofs n) s = .next { s with cf := { s.cf with bad := addOnce s.cf.bad ofs } }) ∧
    (∀ n, s.laneBusy n = true → exec (.programEccError n true) s = .next (s.count PM_COR)) ∧
    (∀ n, s.laneBusy n = true → exec (.programEccError n false) s = .next ((s.abortLane n).raise 78)) ∧
    (∀ n addr v k b, s.laneBusy n = false → exec (.outputWindowWrite n addr v) s = .next s ∧
      exec (.laneFault n k) s = .next s ∧ exec (.nanResult n) s = .next s ∧ exec (.dataEccError 1 addr n) s = .next s ∧
      exec (.programEccError n b) s = .next s) ∧
    (s.takesWrites = true → s.on LE_BANK_IDLE_OK = false → exec .swapRequest s = .next (s.emit (.done stIncompatible))) ∧
    (∀ d, s.takesWrites = true → d = (s.get LE_SWAP_TICK_TICK + 2 ^ 32 - s.tb.tick % 2 ^ 32) % 2 ^ 32 → s.on LE_BANK_IDLE_OK = true →
      (d < 2 ∨ 2 ^ 31 ≤ d → exec .swapRequest s = .next (s.emit (.done stBadParam))) ∧
      (2 ≤ d → d < 2 ^ 31 →
        exec .swapRequest s = .next (((s.put LE_BANK_SWAP_REQ 1).put LE_BANK_SWAP_PEND 1).emit (.done stOk)))) ∧
    (s.takesWrites = true → s.on LE_BANK_SWAP_PEND = true →
      exec .swapWithdraw s = .next ((((s.put LE_BANK_SWAP_REQ 0).put LE_BANK_SWAP_PEND 0).raise 76).emit (.done stOk))) ∧
    (s.takesWrites = true → s.on LE_BANK_SWAP_PEND = false → exec .swapWithdraw s = .next ((s.put LE_BANK_SWAP_REQ 0).emit (.done stOk))) ∧
    (∀ u, s.on LE_BANK_SWAP_PEND = true → s.on TB_STAT_TICK_RUN = true → s.tb.tick % 2 ^ 32 = s.get LE_SWAP_TICK_TICK →
      u = ((List.range 16).filter fun n => s.on (LE_LANE_STAT_BUSY n)).foldl (fun t n => (t.count SWAP_ABORT).abortLane n) s →
      exec .bankSwap s = .next ((((u.put LE_BANK_ACTIVE (1 - u.get LE_BANK_ACTIVE)).put LE_BANK_IDLE_OK 0).put
        LE_BANK_SWAP_PEND 0).put LE_BANK_SWAP_REQ 0)) ∧
    (s.on LE_BANK_SWAP_PEND = false ∨ s.tb.tick % 2 ^ 32 ≠ s.get LE_SWAP_TICK_TICK → exec .bankSwap s = .next s)

/-- Control functions: load, injection, repetitive control, plausibility, trackers. In a Datum. OG_LOAD of a disabled
channel loads its output and is OK, of an enabled one BUSY, from 16 on BAD_PARAM. INJ_ARM for a tick less than two
ahead is BAD_PARAM, else of a generator that is armed or runs BUSY, else it is armed for that tick with its seed and
OK; INJ_STOP clears ARMED and RUN and is OK; generators from 4 on are BAD_PARAM. INJ_RUN_START, in ascending order,
makes each armed generator whose tick has come run, or abort with its count where a cause blocks it; INJ_RUN_END ends
each run of DUR ticks with DONE. RC_PERIOD_CHANGE makes the due period change of each channel in use, in ascending
order, and its output. PLAUSIBILITY_FAIL sets FAIL and FAILED and raises the source for each arm in use whose count
stands at TIME and that has not failed. TRACKER_LOCK_CHANGE sets or drops LOCK of each tracker in use whose condition
differs (R236, R238, R239, R242, R243, R246, R248). -/
def Obligations.ControlUnitsComplete : Prop :=
  ∀ s : State, s.isDatum = true →
    (∀ n v, s.takesWrites = true → n < 16 → v < 2 ^ 32 → s.cfgOn (OG_CH_CFG_EN n) = false →
      exec (.ogLoad n v) s = .next (((s.setOg n { s.ogSt n with y := f64of32 v, r := 0, seg := 0, pend := false }).ogShow
        n).emit (.done stOk))) ∧
    (∀ n v, s.takesWrites = true → n < 16 → s.cfgOn (OG_CH_CFG_EN n) = true → exec (.ogLoad n v) s = .next (s.emit (.done stBusy))) ∧
    (∀ n v, s.takesWrites = true → 16 ≤ n → exec (.ogLoad n v) s = .next (s.emit (.done stBadParam))) ∧
    (∀ g d, s.takesWrites = true → g < 4 →
      d = (s.get (INJ_GEN_START_VAL g) + 2 ^ 32 - s.tb.tick % 2 ^ 32) % 2 ^ 32 →
      (d < 2 ∨ 2 ^ 31 ≤ d → exec (.injArm g) s = .next (s.emit (.done stBadParam))) ∧
      (2 ≤ d → d < 2 ^ 31 → s.on (INJ_GEN_STAT_ARMED g) = true ∨ s.on (INJ_GEN_STAT_RUN g) = true →
        exec (.injArm g) s = .next (s.emit (.done stBusy))) ∧
      (2 ≤ d → d < 2 ^ 31 → s.on (INJ_GEN_STAT_ARMED g) = false → s.on (INJ_GEN_STAT_RUN g) = false →
        exec (.injArm g) s = .next (((s.setInj g {
        start := (s.tb.tick + d) % 2 ^ 64, lfsr := 2 ^ (prbsTaps (s.cfg (INJ_GEN_CFG_ORDER g))).1 - 1, value := 0 }).put
          (INJ_GEN_STAT_ARMED g) 1).emit (.done stOk)))) ∧
    (∀ g, s.takesWrites = true → g < 4 → exec (.injStop g) s = .next (((s.put (INJ_GEN_STAT_ARMED g) 0).put (INJ_GEN_STAT_RUN g) 0).emit
      (.done stOk))) ∧
    (∀ g, s.takesWrites = true → 4 ≤ g → exec (.injArm g) s = .next (s.emit (.done stBadParam)) ∧
      exec (.injStop g) s = .next (s.emit (.done stBadParam))) ∧
    exec .injRunStart s = .next ((List.range 4).foldl (fun t g =>
      if (t.on (INJ_GEN_STAT_ARMED g) && decide ((t.injSt g).start = t.tb.tick)) = true then
        if t.injBlocked = true then ((t.put (INJ_GEN_STAT_ARMED g) 0).put (INJ_GEN_STAT_ABORT g) 1).count INJ_ABORT
        else (t.put (INJ_GEN_STAT_ARMED g) 0).put (INJ_GEN_STAT_RUN g) 1
      else t) s) ∧
    exec .injRunEnd s = .next ((List.range 4).foldl (fun t g =>
      if (t.on (INJ_GEN_STAT_RUN g) && decide (t.cfg (INJ_GEN_DUR_VAL g) ≠ 0) &&
          decide (t.cfg (INJ_GEN_DUR_VAL g) ≤ t.injM g t.tb.tick)) = true then
        (t.put (INJ_GEN_STAT_RUN g) 0).put (INJ_GEN_STAT_DONE g) 1
      else t) s) ∧
    exec .rcPeriodChange s = .next ((List.range 64).foldl (fun t c =>
      match (t.rcSt c).perDue with
      | some n =>
        if (t.cfgOn CF_CTRL_RC_EN && t.cfgOn (RC_CH_CFG_EN c)) = true then
          (t.rcResample c n).rcPut c
        else t
      | none => t) s) ∧
    exec .plausibilityFail s = .next ((List.range 6).foldl (fun t a =>
      if (t.cfgOn CF_CTRL_PL_EN && t.cfgOn (PL_ARM_CFG_EN a) && !t.on (PL_ARM_STAT_FAIL a) &&
          decide (t.cfg (PL_ARM_CFG_TIME a) = t.get (PL_ARM_STAT_CNT a))) = true then
        ((t.put (PL_ARM_STAT_FAIL a) 1).put (PL_ARM_STAT_FAILED a) 1).raiseSpare CF_FSRC_PLAUS
      else t) s) ∧
    exec .trackerLockChange s = .next ((List.range 2).foldl (fun u t =>
      if (!(u.cfgOn CF_CTRL_ANG_EN && u.cfgOn (ANG_CFG_EN t)) || decide (u.angLocked t = u.on (ANG_STAT_LOCK t))) = true then u
      else if u.angLocked t = true then u.put (ANG_STAT_LOCK t) 1
      else u.dropLock t) s) ∧
    ((∀ g < 3, s.on (INJ_GEN_STAT_ARMED g) = false) → s.on (INJ_GEN_STAT_ARMED 3) = true →
      (s.injSt 3).start = s.tb.tick → s.injBlocked = false →
      exec .injRunStart s = .next ((s.put (INJ_GEN_STAT_ARMED 3) 0).put (INJ_GEN_STAT_RUN 3) 1)) ∧
    ((∀ g < 3, s.on (INJ_GEN_STAT_RUN g) = false) → s.on (INJ_GEN_STAT_RUN 3) = true → s.cfg (INJ_GEN_DUR_VAL 3) ≠ 0 →
      s.cfg (INJ_GEN_DUR_VAL 3) ≤ s.injM 3 s.tb.tick →
      exec .injRunEnd s = .next ((s.put (INJ_GEN_STAT_RUN 3) 0).put (INJ_GEN_STAT_DONE 3) 1)) ∧
    (s.cfgOn CF_CTRL_ANG_EN = true → s.cfgOn (ANG_CFG_EN 0) = false → s.cfgOn (ANG_CFG_EN 1) = true →
      s.angLocked 1 = true → s.on (ANG_STAT_LOCK 1) = false →
      exec .trackerLockChange s = .next (s.put (ANG_STAT_LOCK 1) 1))

/-- Twin: what the messages of the Twin link do when they arrive. In a Datum. With the Twin link not in ACTIVE a message
does nothing; in ACTIVE one whose CRC fails counts in TW_MSG_CRC. Of a good one: HEARTBEAT gives the strap and
identity findings, is noted with whether it came before the sample instant of its tick (when, and that the report of
the lost one ends, are the model's readings, log entries 48 and 87), sets HB_OK, shows the twin's state and fault, and
acts on the lease, the mode, the join of a new link and the alignment; DIGEST counts DIG_LATE if its tick has begun,
is kept and compared; summaries of this tick before the cut-off are kept for the six arms and signal event 4, others
are dropped; CONTROL: a handover request that may be granted is agreed and accepted, else refused; an accept agrees,
and a refusal ends, the request it names; a join request is granted by a holder of the same IDCRC, which starts its
sweep, else refused; a refusal ends JOIN (the model's choice, log entry 81); STATE in JOIN is written and may complete
the join, in TRACK kept and compared; SWEEP in JOIN is written and counted (an empty block stands for 8 bytes); SHARE
that is awaited, up to S + TW_SHTO, takes the place of the own results and signals event 3. SHARE_TIMEOUT of an
awaited one, at S + TW_SHTO, counts SHARE_LATE and copies results that were withheld; else nothing changes (R252 to
R257, R263, R264, R267, R408). -/
def Obligations.TwinMessagesComplete : Prop :=
  ∀ s : State, s.isDatum = true →
    (∀ h at' sh d tk arms c st a bs b, s.twinUp = false →
      exec (.heartbeatReceive h at' b) s = .next s ∧ exec (.shareReceive sh b) s = .next s ∧
      exec (.digestReceive d b) s = .next s ∧ exec (.summaryReceive tk arms b) s = .next s ∧
      exec (.controlReceive c b) s = .next s ∧ exec (.stateReceive st b) s = .next s ∧
      exec (.sweepReceive a bs b) s = .next s) ∧
    (∀ h at' sh d tk arms c st a bs, s.twinUp = true →
      exec (.heartbeatReceive h at' false) s = .next (s.count TW_MSG_CRC) ∧
      exec (.shareReceive sh false) s = .next (s.count TW_MSG_CRC) ∧
      exec (.digestReceive d false) s = .next (s.count TW_MSG_CRC) ∧
      exec (.summaryReceive tk arms false) s = .next (s.count TW_MSG_CRC) ∧
      exec (.controlReceive c false) s = .next (s.count TW_MSG_CRC) ∧
      exec (.stateReceive st false) s = .next (s.count TW_MSG_CRC) ∧
      exec (.sweepReceive a bs false) s = .next (s.count TW_MSG_CRC)) ∧
    (∀ (h : Heartbeat) (at' : Nat) (u v : State), s.twinUp = true → u = s.heartbeatId h →
      v = ((({ u with tw := { u.tw with
        hb := some h, hbGot := u.tw.hbGot || (decide (h.tick = u.tb.tick) && u.tb.started && !u.tb.sampled),
        hbTold := false, enRun := none } } : State).put TW_STAT_HB_OK 1).put LS_STAT_TWIN_STATE h.state).put
          TW_STAT_TWIN_FAULT h.fault.toNat →
      exec (.heartbeatReceive h at' true) s =
        .next ((((v.heartbeatLease h).heartbeatMode h).heartbeatJoin h).heartbeatAlign h at')) ∧
    (∀ (d : Digest) (u : State), s.twinUp = true → u = (if s.tickBegun d.tick = true then s.count DIG_LATE else s) →
      exec (.digestReceive d true) s = .next ({ u with tw := { u.tw with digTwin := some d } } : State).compareDigest) ∧
    (∀ tk arms, s.twinUp = true → tk = s.tb.tick % 2 ^ 32 → s.tb.started = true → s.tb.cutDone = false →
      exec (.summaryReceive tk arms true) s = .next (((List.range 6).foldl
        (fun s a => s.setArm a { s.armSt a with twin := arms[a]? }) s).routeEvent 4)) ∧
    (∀ tk arms, s.twinUp = true → tk ≠ s.tb.tick % 2 ^ 32 ∨ s.tb.started = false ∨ s.tb.cutDone = true →
      exec (.summaryReceive tk arms true) s = .next s) ∧
    (∀ k, s.twinUp = true → s.mayHandOver = true → s.lease = lsFollow ∨ s.lease = lsHold →
      exec (.controlReceive { kind := 1, tick := k } true) s = .next ((({ s with tw := { s.tw with
        hoReq := none, ho := some (k, decide (s.lease = lsFollow)), hoEpoch := s.get LS_EPOCH_EPOCH } } : State).put
          LS_STAT_HO_PEND 1).twinSend (.control { kind := 2, tick := k }))) ∧
    (∀ k, s.twinUp = true → s.mayHandOver = false ∨ s.lease = lsOff ∨ s.lease = lsClaim →
      exec (.controlReceive { kind := 1, tick := k } true) s = .next (s.twinSend (.control { kind := 3, tick := k }))) ∧
    (∀ k, s.twinUp = true → s.tw.hoReq = some k →
      exec (.controlReceive { kind := 2, tick := k } true) s = .next (({ s with tw := { s.tw with
        hoReq := none, ho := some (k, decide (s.lease = lsFollow)), hoEpoch := s.get LS_EPOCH_EPOCH } } : State).put
          LS_STAT_HO_PEND 1) ∧
      exec (.controlReceive { kind := 3, tick := k } true) s = .next { s with tw := { s.tw with hoReq := none } }) ∧
    (∀ k, s.twinUp = true → s.tw.hoReq ≠ some k →
      exec (.controlReceive { kind := 2, tick := k } true) s = .next s ∧
      exec (.controlReceive { kind := 3, tick := k } true) s = .next s) ∧
    (∀ (k : Nat) (h : Heartbeat), s.twinUp = true → s.lease = lsHold → s.tw.hb = some h → h.idcrc = s.idCrc →
      exec (.controlReceive { kind := 4, tick := k } true) s =
        .next (({ s with tw := { s.tw with sweepAt := some 0, stateSent := false } } : State).twinSend (.control { kind := 5, tick := 0 }))) ∧
    (∀ k : Nat, s.twinUp = true → s.lease ≠ lsHold →
      exec (.controlReceive { kind := 4, tick := k } true) s = .next (s.twinSend (.control { kind := 6, tick := 0 }))) ∧
    (∀ k : Nat, s.twinUp = true → exec (.controlReceive { kind := 6, tick := k } true) s =
      .next (if s.mode = twJoin then s.put TW_STAT_MODE twNone else s)) ∧
    (∀ m, s.twinUp = true → s.mode = twJoin → exec (.stateReceive m true) s = .next ((s.writeState m).joinState m)) ∧
    (∀ m, s.twinUp = true → s.mode = twTrack →
      exec (.stateReceive m true) s = .next ({ s with tw := { s.tw with stTwin := some m } } : State).compareState) ∧
    (∀ m a bs, s.twinUp = true → s.mode = twNone →
      exec (.stateReceive m true) s = .next s ∧ exec (.sweepReceive a bs true) s = .next s) ∧
    (∀ a bs u, s.twinUp = true → s.mode = twJoin → u = s.putLines a bs →
      exec (.sweepReceive a bs true) s = .next { u with tw := { u.tw with sweepTo := u.tw.sweepTo + sweepSpan bs } }) ∧
    (∀ (m : Share), s.twinUp = true → s.takesShare = true → m.tick = s.tb.tick % 2 ^ 32 →
      s.now ≤ s.tb.tickStart + s.cfg TB_SAMPLE_S + s.cfg TW_SHTO_SHTO → s.cfgOn (AD_SEQ_DEST_EN m.conv) = true → s.tw.served.contains m.conv = false → s.tw.late.contains m.conv = false →
      exec (.shareReceive m true) s = .next ((({ s with tw := { s.tw with served := addOnce s.tw.served m.conv } } :
        State).copyResults m.conv m.res).routeEvent 3)) ∧
    (∀ (m : Share), s.twinUp = true → s.takesShare = false ∨ m.tick ≠ s.tb.tick % 2 ^ 32 ∨
        s.tb.tickStart + s.cfg TB_SAMPLE_S + s.cfg TW_SHTO_SHTO < s.now ∨ s.cfgOn (AD_SEQ_DEST_EN m.conv) = false ∨ s.tw.served.contains m.conv = true ∨ s.tw.late.contains m.conv = true →
      exec (.shareReceive m true) s = .next s) ∧
    (∀ n v u, s.takesShare = true → s.tb.sampled = true → s.cfgOn (AD_SEQ_DEST_EN n) = true →
      s.tw.served.contains n = false → s.tw.late.contains n = false →
      v = s.advance (s.tb.tickStart + s.cfg TB_SAMPLE_S + s.cfg TW_SHTO_SHTO) →
      u = ({ v with tw := { v.tw with late := addOnce v.tw.late n } } : State).count SHARE_LATE →
      (∀ r, kget s.tw.withheld n = some r → exec (.shareTimeout n) s = .next (u.copyResults n r)) ∧
      (kget s.tw.withheld n = none → exec (.shareTimeout n) s = .next u)) ∧
    (∀ n, s.takesShare = false ∨ s.tb.sampled = false ∨ s.cfgOn (AD_SEQ_DEST_EN n) = false ∨
        s.tw.served.contains n = true ∨ s.tw.late.contains n = true →
      exec (.shareTimeout n) s = .next s)

/-- Lease: heartbeat loss, match, claim, handover. In a Datum. HBLOSS missed heartbeats not yet acted on clear HB_OK,
raise 161, end an agreed handover, abandon a join or end the mode, and a Datum in FOLLOW or HOLD claims the next
epoch. MWIN ticks without an agreeing digest are a cause that ends a match (counted, source 164); MREQ ticks of
agreement out of JOIN with both EN set make M 1; HBLOSS ticks without frames of the twin, with HB_OK 0, end FOLLOW in
CLAIM of the next epoch; CLAIMTO ticks in CLAIM raise 163 once. HANDOVER is NOT_HOLDER out of HOLD, BUSY where no
handover may start, else the twin is asked for one at the current tick + 4 and the answer is OK; the end of REVHOLD at
the preferred follower with REV_EN and no strap conflict asks alike. At its tick the holder enters FOLLOW of the next
epoch, or abandons the handover if it has left HOLD; a tick later the taker in FOLLOW enters CLAIM of the epoch after
the agreed one, or abandons it. Out of these conditions nothing changes (R253, R255, R256, R262, R263, R267). That a
lost heartbeat ends TRACK, and when the taker counts a handover, is the model's reading (log entries 81, 82). -/
def Obligations.LeaseCommandsComplete : Prop :=
  ∀ s : State, s.isDatum = true →
    (∀ u v w, s.cfg TW_CFG_HBLOSS ≤ s.tw.hbRun → s.tw.hbTold = false →
      u = ((s.put TW_STAT_HB_OK 0).raise 161).endHandover →
      v = (if u.mode = twJoin then u.abandonJoin else u.put TW_STAT_MODE twNone) →
      w = ({ v with tw := { v.tw with hbTold := true, wait := false, sweepAt := none } } : State) →
      exec .heartbeatLoss s = .next (if w.lease = lsFollow ∨ w.lease = lsHold then
        w.enterLease lsClaim ((w.get LS_EPOCH_EPOCH + 1) % 2 ^ 32) else w)) ∧
    (s.tw.hbRun < s.cfg TW_CFG_HBLOSS ∨ s.tw.hbTold = true → exec .heartbeatLoss s = .next s) ∧
    (s.cfg TW_CFG_MWIN ≤ s.tw.silent → s.on TW_STAT_MATCH = true → exec .matchWindowExpiry s =
      .next (((({ s with tw := { s.tw with cause := true, run := 0 } } : State).put TW_STAT_MATCH 0).count MATCH_LOSS).raise
        164)) ∧
    (s.cfg TW_CFG_MWIN ≤ s.tw.silent → s.on TW_STAT_MATCH = false → exec .matchWindowExpiry s =
      .next { s with tw := { s.tw with cause := true, run := 0 } }) ∧
    (s.tw.silent < s.cfg TW_CFG_MWIN → exec .matchWindowExpiry s = .next s) ∧
    (s.cfg TW_CFG_MREQ ≤ s.tw.run → s.mode ≠ twJoin → s.cfgOn TW_CTRL_EN = true → s.cfgOn LS_CTRL_EN = true →
      exec .matchAcquire s = .next (s.put TW_STAT_MATCH 1)) ∧
    (s.tw.run < s.cfg TW_CFG_MREQ ∨ s.mode = twJoin ∨ s.cfgOn TW_CTRL_EN = false ∨ s.cfgOn LS_CTRL_EN = false →
      exec .matchAcquire s = .next s) ∧
    (s.lease = lsFollow → s.on TW_STAT_HB_OK = false → s.cfg TW_CFG_HBLOSS ≤ s.tw.noFrames →
      exec .twinSilence s = .next (s.enterLease lsClaim ((s.get LS_EPOCH_EPOCH + 1) % 2 ^ 32))) ∧
    (s.lease ≠ lsFollow ∨ s.on TW_STAT_HB_OK = true ∨ s.tw.noFrames < s.cfg TW_CFG_HBLOSS →
      exec .twinSilence s = .next s) ∧
    (s.lease = lsClaim → s.cfg LS_CFG_CLAIMTO ≤ s.tw.stateRun → s.tw.claimTold = false →
      exec .claimTimeout s = .next (({ s with tw := { s.tw with claimTold := true } } : State).raise 163)) ∧
    (s.lease ≠ lsClaim ∨ s.tw.stateRun < s.cfg LS_CFG_CLAIMTO ∨ s.tw.claimTold = true →
      exec .claimTimeout s = .next s) ∧
    (s.takesWrites = true → s.lease ≠ lsHold → exec .handoverWrite s = .next (s.emit (.done stNotHolder))) ∧
    (s.takesWrites = true → s.lease = lsHold → s.mayHandOver = false → exec .handoverWrite s = .next (s.emit (.done stBusy))) ∧
    (∀ k, s.takesWrites = true → s.lease = lsHold → s.mayHandOver = true → k = (s.tb.tick + 4) % 2 ^ 32 → exec .handoverWrite s =
      .next ((({ s with tw := { s.tw with hoReq := some k } } : State).twinSend (.control { kind := 1, tick := k })).emit
        (.done stOk))) ∧
    (∀ k, s.on LS_STAT_PREF = true → s.lease = lsFollow → s.cfgOn LS_CTRL_REV_EN = true →
      s.on TW_STAT_PREF_CONFLICT = false → s.mayHandOver = true → k = (s.tb.tick + 4) % 2 ^ 32 →
      exec .revertHoldExpiry s =
        .next (({ s with tw := { s.tw with hoReq := some k } } : State).twinSend (.control { kind := 1, tick := k }))) ∧
    (s.on LS_STAT_PREF = false ∨ s.lease ≠ lsFollow ∨ s.cfgOn LS_CTRL_REV_EN = false ∨
        s.on TW_STAT_PREF_CONFLICT = true ∨ s.mayHandOver = false →
      exec .revertHoldExpiry s = .next s) ∧
    (∀ k, s.tw.ho = some (k, false) → s.atTick k = true → s.lease = lsHold → exec .handoverRelease s =
      .next ((({ s with tw := { s.tw with hoReq := none, ho := none } } : State).put LS_STAT_HO_PEND 0).enterLease
        lsFollow ((s.get LS_EPOCH_EPOCH + 1) % 2 ^ 32))) ∧
    (∀ k, s.tw.ho = some (k, false) → s.atTick k = true → s.lease ≠ lsHold → exec .handoverRelease s =
      .next (({ s with tw := { s.tw with hoReq := none, ho := none } } : State).put LS_STAT_HO_PEND 0)) ∧
    (s.tw.ho = none → exec .handoverRelease s = .next s ∧ exec .handoverClaim s = .next s) ∧
    (∀ k u, s.tw.ho = some (k, true) → s.atTick ((k + 1) % 2 ^ 32) = true → s.lease = lsFollow →
      u = ((({ s with tw := { s.tw with hoReq := none, ho := none } } : State).put LS_STAT_HO_PEND 0).enterLease
        lsClaim ((s.tw.hoEpoch + 1) % 2 ^ 32)) →
      exec .handoverClaim s = .next { u with tw := { u.tw with hoTake := true } }) ∧
    (∀ k, s.tw.ho = some (k, true) → s.atTick ((k + 1) % 2 ^ 32) = true → s.lease ≠ lsFollow → exec .handoverClaim s =
      .next (({ s with tw := { s.tw with hoReq := none, ho := none } } : State).put LS_STAT_HO_PEND 0))

/-- Join: its start, the sweep, its end and its timeout. In a Datum. A join written with HB_OK and a heartbeat of another
IDCRC is INCOMPATIBLE and raises 165; with HB_OK and a holder of the same IDCRC, not in JOIN, it enters JOIN, ends the
match, asks the holder and is OK; with no HB_OK, no heartbeat, a twin that does not hold, or in JOIN, it is BUSY. The
holder whose twin is in JOIN, once it has sent a STATE of the join, sends the next sweep blocks, of at most 32 KiB in
a tick, until 200 ns before the next cut-off, a word it cannot read as an empty block that raises 72 (log entry 109);
else nothing changes. At a tick start, before the cut-off, a swept joiner with HB_OK that has written STATE of the
preceding cut-off, with no dirty line left, is in TRACK and FOLLOW of the holder's epoch; before that STATE is written
its dispatch waits (the mark of the last STATE and the wait are the model's reading, log entry 81); where a line was
dirty nothing changes. 10 s without completion leave JOIN and raise 166 (R264). -/
def Obligations.JoinCommandsComplete : Prop :=
  ∀ s : State, s.isDatum = true →
    (∀ (h : Heartbeat), s.takesWrites = true → s.on TW_STAT_HB_OK = true → s.tw.hb = some h → h.idcrc = s.idCrc → h.state = lsHold → s.mode ≠ twJoin →
      exec .joinWrite s =
        .next ((((({ s with tw := { s.tw with sweepTo := 0, joinTick := none, wait := false, stGot := none } } : State).put
          TW_STAT_MODE twJoin).loseMatch).twinSend (.control { kind := 4, tick := 0 })).emit (.done stOk))) ∧
    (∀ (h : Heartbeat), s.takesWrites = true → s.on TW_STAT_HB_OK = true → s.tw.hb = some h → h.idcrc ≠ s.idCrc →
      exec .joinWrite s = .next ((s.raise 165).emit (.done stIncompatible))) ∧
    (∀ (h : Heartbeat), s.takesWrites = true → s.tw.hb = some h → h.idcrc = s.idCrc → h.state ≠ lsHold ∨ s.mode = twJoin →
      exec .joinWrite s = .next (s.emit (.done stBusy))) ∧
    (s.takesWrites = true → s.on TW_STAT_HB_OK = false ∨ s.tw.hb = none → exec .joinWrite s = .next (s.emit (.done stBusy))) ∧
    (∀ n k ms, s.tw.sweepAt = some n → s.lease = lsHold → s.twinUp = true → s.twinMode = twJoin → s.tw.stateSent = true →
      s.tb.cutDone = true ∨ s.now + 100 ≤ s.tb.nextStart - s.cfg TB_CUTOFF_LEAD →
      ms = s.sweepMsgs 65 n (32768 - s.tw.sweepNow) → k = (ms.map fun e => sweepSpan e.2).sum →
      exec .sweepSend s = .next ((ms.foldl (fun s e => s.twinSend (.sweep e.1 e.2)) ({ s with tw := { s.tw with
        sweepAt := some (n + k), sweepNow := s.tw.sweepNow + k } } : State)).badWords
          ((ms.filter (·.2.isEmpty)).map (·.1)))) ∧
    (s.tw.sweepAt = none ∨ s.lease ≠ lsHold ∨ s.twinUp = false ∨ s.twinMode ≠ twJoin ∨ s.tw.stateSent = false ∨
        (s.tb.cutDone = false ∧ s.tb.nextStart - s.cfg TB_CUTOFF_LEAD < s.now + 100) →
      exec .sweepSend s = .next s) ∧
    (∀ (h : Heartbeat) (k : Nat) (u : State), s.mode = twJoin → s.sweepTotal ≤ s.tw.sweepTo → s.on TW_STAT_HB_OK = true →
      s.tw.hb = some h → s.tb.started = true → s.tb.cutDone = false → s.tw.stGot = some (k, true) →
      (k + 1) % 2 ^ 64 = s.tb.tick → u = (s.put TW_STAT_MODE twTrack).enterLease lsFollow h.epoch →
      exec .joinComplete s = .next { u with tw := { u.tw with joinTick := some s.tb.tick, wait := false } }) ∧
    (∀ (k : Nat), s.sweepTotal ≤ s.tw.sweepTo → s.tw.stGot = some (k, false) → (k + 1) % 2 ^ 64 = s.tb.tick →
      exec .joinComplete s = .next s) ∧
    (s.mode = twJoin → s.sweepTotal ≤ s.tw.sweepTo → s.on TW_STAT_HB_OK = true → s.tb.started = true →
      s.tb.cutDone = false → (∀ (k : Nat) (b : Bool), s.tw.stGot = some (k, b) → (k + 1) % 2 ^ 64 ≠ s.tb.tick) →
      exec .joinComplete s = .next { s with tw := { s.tw with wait := true } }) ∧
    (s.mode ≠ twJoin ∨ s.tw.sweepTo < s.sweepTotal ∨ s.on TW_STAT_HB_OK = false ∨ s.tb.started = false ∨ s.tb.cutDone = true →
      exec .joinComplete s = .next s) ∧
    (s.mode = twJoin → exec .joinTimeout s =
      .next ((({ s with tw := { s.tw with wait := false } } : State).put TW_STAT_MODE twNone).raise 166)) ∧
    (s.mode ≠ twJoin → exec .joinTimeout s = .next s)

/-- Disturbance recorder: row, arm, stop, software trigger, release, stream. In a running device: a row in IDLE or
STOPPED, or before DIV more row instants have come, changes nothing; at every other every channel takes its value. One
that the buffer drops in ARMED or POST, which needs 64 rows since the arming, marks its record GAP, counts ROW_DROP
and keeps a hardware trigger for the next row; each other row has TIME of the row instant, its condition bits and the
hardware trigger, and goes to the rule of ARMED, POST or REARM and WAITSEG. ARM outside IDLE and STOPPED has no
effect; with a failing check it is BAD_PARAM and shows ARM_ERR; else the count of the row instants is noted (that DIV
counts from the arming is the model's choice, log entry 119) and a segment is needed. STOP frees the segment of ARMED,
closes the record of POST as truncated, and ends in IDLE. SWTRIG waits for a row in ARMED, counts TRG_IGN in POST and
REARM and TRG_NOSEG in WAITSEG, and else does nothing. A release drops the complete record of that number, which may
end WAITSEG; of an unknown one it is BAD_PARAM. In a Datum the stream sends, while it is on, outside shedding and with
room in its ring, the next chunk of the record in hand, which goes into the ring on PCI Express, with what ECC found
counted and 193 raised; after the last one the record is released or shown complete; else nothing is sent (R314, R317
to R320, R322, R325 to R329, R337, R384). -/
def Obligations.RecorderCommandsComplete : Prop :=
  ∀ s : State, s.running = true →
    (∀ (d : Bool) (late : List Nat), s.drQuiet = true ∨ s.rowDue = false → exec (.drRow d late) s = .next s) ∧
    (∀ (late : List Nat) (u t : State), u = s.rowTaken.takeRow late → s.rowDue = true →
      s.drState = drArmed ∨ s.drState = drPost → 64 ≤ s.dr.rows →
      t = (u.setSeg u.segNow { u.seg u.segNow with gap := true }).count ROW_DROP →
      exec (.drRow true late) s = .next { t with dr := { t.dr with
        lost := t.dr.lost.or ((u.hwTrigger u.condBits).1.map fun c => (c, t.rowTime)) } }) ∧
    (∀ (d : Bool) (late : List Nat) (u v : State) (row : DrLine) (e : Option Nat) (c : Nat), s.drQuiet = false →
      s.rowDue = true → d = false ∨ (s.drState ≠ drArmed ∧ s.drState ≠ drPost) ∨ s.dr.rows < 64 →
      u = s.rowTaken.takeRow late → row = u.rowOf u.rowTime → e = (u.dr.lost.map (·.1)).or (u.hwTrigger u.condBits).1 →
      c = (if s.drState = drArmed ∨ s.drState = drPost then 1 else 0) →
      v = { u with dr := { u.dr with
        bits := u.condBits, cond := (u.hwTrigger u.condBits).2, last := true, lost := none, rows := u.dr.rows + c } } →
      exec (.drRow d late) s = .next (
        if v.drState = drArmed then v.armedRow row e ((u.dr.lost.map (·.2)).getD row.time)
        else if v.drState = drPost then v.postRow row e
        else v.idleRow e)) ∧
    (s.takesWrites = true → s.drQuiet = false → exec .drArm s = .next (s.emit (.done stOk))) ∧
    (s.takesWrites = true → s.drQuiet = true → s.armError ≠ 0 →
      exec .drArm s = .next ((s.put DR_STAT_ARM_ERR s.armError).emit (.done stBadParam))) ∧
    (s.takesWrites = true → s.drQuiet = true → s.armError = 0 → exec .drArm s =
      .next (((({ s with dr := { s.dr with rows := 0, base := s.rowCount } } : State).used.put DR_STAT_ARM_ERR 0).needSeg).emit (.done
        stOk))) ∧
    (∀ u, s.takesWrites = true → u = (if s.drState = drArmed then s.dropSeg s.segNow
        else if s.drState = drPost then s.closeRecord true false else s) → exec .drStop s =
      .next ((({ u with dr := { u.dr with faults := [], soft := [] } } : State).put DR_STAT_STATE drIdle).emit (.done
        stOk))) ∧
    (s.takesWrites = true → s.drState = drArmed → exec .drSwtrig s =
      .next (({ s with dr := { s.dr with soft := s.dr.soft ++ [s.time.word] } } : State).emit (.done stOk))) ∧
    (s.takesWrites = true → s.drState = drPost ∨ s.drState = drRearm → exec .drSwtrig s = .next ((s.count TRG_IGN).emit (.done stOk))) ∧
    (s.takesWrites = true → s.drState = drWaitseg → exec .drSwtrig s = .next ((s.count TRG_NOSEG).emit (.done stOk))) ∧
    (s.takesWrites = true → s.drState = drIdle ∨ s.drState = drStopped → exec .drSwtrig s = .next (s.emit (.done stOk))) ∧
    (∀ n i, s.takesWrites = true → n < 2 ^ 32 → s.segOfRec n = some i →
      exec (.drRelease n) s = .next (((s.dropSeg i).wakeSeg).emit (.done stOk))) ∧
    (∀ n, s.takesWrites = true → n < 2 ^ 32 → s.segOfRec n = none → exec (.drRelease n) s = .next (s.emit (.done stBadParam))) ∧
    (∀ (ecc i : Nat) (data : List Nat) (last : Bool) (u : State), s.isDatum = true → s.on DR_STREAM_EN = true →
      s.get SH_STAT_STAGE = 0 → s.streamRoom = true → s.streamSeg = some i →
      data = ((s.seg i).bytes.drop s.dr.ofs).take s.chunkSize →
      last = decide ((s.seg i).bytes.length ≤ s.dr.ofs + data.length) →
      u = ((((s.put (DR_SEG_STAT_STATE i) 3).emit (.chunk (s.get DR_STREAM_PORT) (chunkBytes (s.seg i).rnum s.dr.ofs
        (last.toNat + if ecc / 65536 = 0 then 0 else 2) data))).ringChunk last).drEcc ecc) →
      exec (.streamChunk ecc) s = .next (if last = true then u.streamEnd i
        else { u with dr := { u.dr with ofs := u.dr.ofs + data.length } })) ∧
    (∀ ecc, s.isDatum = true → s.on DR_STREAM_EN = false ∨ s.get SH_STAT_STAGE ≠ 0 ∨ s.streamRoom = false ∨
      s.streamSeg = none → exec (.streamChunk ecc) s = .next s)

/-- Transports: UDP, forwarding, reply cache, PCI Express queues and ring. In a Datum: a request by UDP or forwarding with
a cached reply is answered from the cache; one that already waits has no effect; one over 9120 bytes of parameters is
BAD_PARAM, one that fails a check of its packet gets that status; the thirty-third waiting is one for a full queue;
else it waits. UDP port 20044 takes it so, with forwarding on also the port of the own position; a port of another
position sends it on and FWD_CNT counts; without a route, or with forwarding off, FWD_DROP counts; another port does
nothing. A MGMT message with a bad CRC counts CL_MSG_CRC, one for another position goes on, a request for this one is
taken, a reply that is waited for goes to its source; on a link not in ACTIVE nothing happens. A forwarded request
that nobody answered is answered TIMEOUT and counted; one not waited for does nothing. A reply leaves the cache after
its second. At a tail doorbell that names the entries up to the tail each is taken up or gets its status; a head
doorbell writes the waiting completions; a detached queue and an index beyond its depth do nothing, nor does a tail
with another number of entries (log entry 61). A read index below the entry count is taken. QCFG with a depth of 2 to
128 is taken, and a queue it attaches starts empty; with another depth EN = 0 detaches it and EN = 1 does nothing. The
base of an attached queue stays. STR_CFG with 2 to 4096 entries is taken and a ring it attaches starts empty; with
another count EN = 0 detaches it and EN = 1 does nothing; the ring's base and vector are taken. Another offset does
nothing. That an invalid write or doorbell is ignored is the model's choice (R336, R337, R339, R364, R370; log entries
61, 113), as is the origin key, the source with the position above it (log entry 135). -/
def Obligations.TransportCommandsComplete : Prop :=
  ∀ s : State, s.isDatum = true →
    (∀ (r : Req) (k : Packet),
      (∀ c, (s.mg.cache.find? fun c => c.req = r) = some c → s.acceptUdp r k = s.resend c) ∧
      ((s.mg.cache.find? fun c => c.req = r) = none → s.mg.reqs.contains r = true → s.acceptUdp r k = s) ∧
      ((s.mg.cache.find? fun c => c.req = r) = none → s.mg.reqs.contains r = false → 9120 < k.params.length →
        s.acceptUdp r k = s.status r stBadParam) ∧
      ((s.mg.cache.find? fun c => c.req = r) = none → s.mg.reqs.contains r = false → k.params.length ≤ 9120 →
        s.packetStatus k ≠ stOk → s.acceptUdp r k = s.status r (s.packetStatus k)) ∧
      ((s.mg.cache.find? fun c => c.req = r) = none → s.mg.reqs.contains r = false → k.params.length ≤ 9120 →
        s.packetStatus k = stOk → s.acceptUdp r k =
          { s with mg := { s.mg with
            reqs := s.mg.reqs ++ [r],
            full := if 32 ≤ (s.mg.reqs.filter fun x => x.origin.byUdp && !s.mg.full.contains x).length
              then s.mg.full ++ [r] else s.mg.full } })) ∧
    (∀ port src k, port = 20044 ∨ (s.clpos < 16 ∧ s.cfgOn CL_CTRL_FWD_EN = true ∧ port = 20045 + s.clpos) →
      exec (.udpRequest port src k) s = .next (s.acceptUdp { origin := .udp src, tag := k.tag } k)) ∧
    (∀ c src key k u, c < 16 → c ≠ s.clpos → s.cfgOn CL_CTRL_FWD_EN = true → (s.routeTo c).isSome = true →
      key = src % 2 ^ 144 + 2 ^ 144 * c →
      u = (s.count FWD_CNT).sendMgmt { entry := s.clpos, dest := c, key := key, body := .request k } →
      exec (.udpRequest (20045 + c) src k) s =
        .next { u with mg := { u.mg with fwd := u.mg.fwd.filter (· ≠ (key, k.tag)) ++ [(key, k.tag)] } }) ∧
    (∀ c src k, c < 16 → s.cfgOn CL_CTRL_FWD_EN = false ∨ (c ≠ s.clpos ∧ (s.routeTo c).isNone = true) →
      exec (.udpRequest (20045 + c) src k) s = .next (s.count FWD_DROP)) ∧
    (∀ port src k, port < 20044 ∨ 20060 < port → exec (.udpRequest port src k) s = .next s) ∧
    (∀ (d : Nat) (m : MgmtMsg), d < 4 → s.lstate (17 + d) = lsActive → exec (.mgmtForward d m false) s = .next (s.count CL_MSG_CRC)) ∧
    (∀ (d : Nat) (m : MgmtMsg), d < 4 → s.lstate (17 + d) = lsActive → m.dest ≠ s.clpos →
      exec (.mgmtForward d m true) s = .next (s.sendMgmt m)) ∧
    (∀ (d : Nat) (m : MgmtMsg) (k : Packet), d < 4 → s.lstate (17 + d) = lsActive → m.dest = s.clpos → m.body = .request k →
      exec (.mgmtForward d m true) s = .next (s.acceptUdp { origin := .fwd m.entry m.key, tag := k.tag } k)) ∧
    (∀ (d : Nat) (m : MgmtMsg) (r : Reply), d < 4 → s.lstate (17 + d) = lsActive → m.dest = s.clpos → m.body = .reply r →
      exec (.mgmtForward d m true) s = .next (if s.mg.fwd.contains (m.key, r.tag) = true then
        ({ s with mg := { s.mg with fwd := s.mg.fwd.filter (· ≠ (m.key, r.tag)) } } : State).sendUdp (m.key % 2 ^ 144)
          { req := { origin := .udp (m.key % 2 ^ 144), tag := r.tag }, status := r.status, rflags := r.rflags, data := r.data }
        else s)) ∧
    (∀ (d : Nat) (m : MgmtMsg) (ok : Bool), 4 ≤ d ∨ s.lstate (17 + d) ≠ lsActive → exec (.mgmtForward d m ok) s = .next s) ∧
    (∀ key tag, s.mg.fwd.contains (key, tag) = true → exec (.forwardTimeout key tag) s =
      .next ((({ s with mg := { s.mg with fwd := s.mg.fwd.filter (· ≠ (key, tag)) } } : State).sendUdp (key % 2 ^ 144)
        { req := { origin := .udp (key % 2 ^ 144), tag := tag }, status := stTimeout, rflags := s.get FC_STAT_PENDING,
          data := [] }).count FWD_TO)) ∧
    (∀ key tag, s.mg.fwd.contains (key, tag) = false → exec (.forwardTimeout key tag) s = .next s) ∧
    (∀ r, exec (.replyCacheExpiry r) s =
      .next { s with mg := { s.mg with cache := s.mg.cache.filter fun c => c.req ≠ r } }) ∧
    (∀ (u : State) (q n a : Nat) (k : Packet), u.acceptPcie q (n, a, k) =
      if u.packetStatus k = stOk then
        { u with mg := { u.mg with reqs := u.mg.reqs ++ [{ origin := .pcie q n a, tag := k.tag }] } }
      else u.status { origin := .pcie q n a, tag := k.tag } (u.packetStatus k)) ∧
    (∀ (q tail : Nat) (l : List (Nat × Nat × Packet)), q < 4 → (s.pq q).en = true → tail < (s.pq q).depth →
      l.length = (tail + (s.pq q).depth - (s.pq q).sqTail) % (s.pq q).depth →
      exec (.sqTailDoorbell q tail l) s = .next (l.foldl (fun s e => s.acceptPcie q e)
        (s.setPq q { s.pq q with sqTail := tail, sqHead := tail }))) ∧
    (∀ q head, q < 4 → (s.pq q).en = true → head < (s.pq q).depth →
      exec (.cqHeadDoorbell q head) s = .next ((s.pq q).waiting.foldl (fun s c =>
        match c.req.origin with
        | .pcie _ rspMax rspAddr => s.complete q rspMax rspAddr c
        | _ => s) (s.setPq q { s.pq q with cqHead := head, waiting := [] }))) ∧
    (∀ (q i : Nat) (l : List (Nat × Nat × Packet)), 4 ≤ q ∨ (s.pq q).en = false ∨ (s.pq q).depth ≤ i →
      exec (.sqTailDoorbell q i l) s = .next s ∧ exec (.cqHeadDoorbell q i) s = .next s) ∧
    (∀ (q tail : Nat) (l : List (Nat × Nat × Packet)),
      l.length ≠ (tail + (s.pq q).depth - (s.pq q).sqTail) % (s.pq q).depth →
      exec (.sqTailDoorbell q tail l) s = .next s) ∧
    (∀ i, exec (.streamReadIndex i) s = .next (if i < bitsOf s.mg.ring.cfg 28 16 then
      { s with mg := { s.mg with ring := { s.mg.ring with rd := i } } } else s)) ∧
    (∀ q v k, q < 4 → v < 2 ^ 32 → 2 ≤ bitsOf v 15 8 → bitsOf v 15 8 ≤ 128 →
      k = { s.pq q with en := bitOf v 0, depth := bitsOf v 15 8, vec := bitsOf v 21 16 } →
      exec (.barQueueConfig (0x110 + 0x20 * q) v) s = .next (s.setPq q
        (if bitOf v 0 = true ∧ (s.pq q).en = false then
          { k with sqHead := 0, sqTail := 0, cqTail := 0, cqHead := 0, phase := true, waiting := [] } else k))) ∧
    (∀ q v, q < 4 → v < 2 ^ 32 → bitsOf v 15 8 < 2 ∨ 128 < bitsOf v 15 8 →
      exec (.barQueueConfig (0x110 + 0x20 * q) v) s =
        .next (if bitOf v 0 = true then s else s.setPq q { s.pq q with en := false })) ∧
    (∀ q i v, q < 4 → i < 4 → v < 2 ^ 32 → exec (.barQueueConfig (0x100 + 0x20 * q + 4 * i) v) s =
      .next (if (s.pq q).en = true then s else s.setPq q { s.pq q with base := kset (s.pq q).base i v })) ∧
    (∀ v r, v < 2 ^ 32 → 2 ≤ bitsOf v 28 16 → bitsOf v 28 16 ≤ 4096 →
      r = { s.mg.ring with cfg := bitsOf v 28 16 * 2 ^ 16 + v % 2 } → exec (.barQueueConfig 0x208 v) s =
        .next { s with mg := { s.mg with ring := (if bitOf v 0 = true ∧ s.mg.ring.cfg % 2 = 0 then
          { r with wr := 0, rd := 0, run := 0 } else r) } }) ∧
    (∀ v, v < 2 ^ 32 → bitsOf v 28 16 < 2 ∨ 4096 < bitsOf v 28 16 → exec (.barQueueConfig 0x208 v) s =
      .next (if bitOf v 0 = true then s
        else { s with mg := { s.mg with ring := { s.mg.ring with cfg := s.mg.ring.cfg - s.mg.ring.cfg % 2 } } })) ∧
    (∀ i v, i < 2 → v < 2 ^ 32 → exec (.barQueueConfig (0x200 + 4 * i) v) s =
      .next { s with mg := { s.mg with ring := { s.mg.ring with base := kset s.mg.ring.base i v } } }) ∧
    (∀ v, exec (.barQueueConfig 0x20C v) s =
      .next { s with mg := { s.mg with ring := { s.mg.ring with vec := v % 2 ^ 32 % 64 } } }) ∧
    (∀ ofs v, (∀ q i, q < 4 → i ≤ 4 → ofs ≠ 0x100 + 0x20 * q + 4 * i) → ofs ≠ 0x200 → ofs ≠ 0x204 → ofs ≠ 0x208 →
      ofs ≠ 0x20C → exec (.barQueueConfig ofs v) s = .next s)

/-- Opcodes that read: registers, Plat table, wide items, books, records, identity, status. While Thoka does not run, or
an earlier command of the source is still to be executed, none of these starts; one that came to a full queue is then
QUEUE_FULL. While it runs, a Stake answers NOT_IN_ROLE to the settings and the statuses of arm, lease and transaction;
in recovery what is not served there is BUSY, NOP, READ, PLAT_READ, IDENT and IMG_STATUS are. Else, on the state with
the records of the cycle entered: NOP is OK; READ of 1 to 2048 words returns them with their status, each of its
fields with 0 for WO, the shadow of a configuration field, and RC fields cleared, PLAT_READ of at most 8192 bytes from
an offset within the table its bytes, READ_WIDE of a known item its words, a direct write of MB_REQ captures the item;
FB_READ of at most 64 records from a number on the complete ones it finds; DR_LIST the segments; DR_READ of at most
8192 bytes of a complete record its bytes, or PARITY on an uncorrectable ECC error, each word counted, with 193;
SAFE_STATUS, ARM_STATUS, LEASE_STATUS and IMG_STATUS their words; IDENT and ATTEST with a 16-byte nonce key and
signature; NETCFG keeps and returns a setting; TXN_STATUS an open or one of the last 16 transactions. Every other
parameter is BAD_PARAM (R328, R338, R339, R343, R345, R346, R353, R373). What RESULT of IMG_STATUS and the selectors
of NETCFG hold are the model's choices (log entry 60). -/
def Obligations.ManagementReadsComplete : Prop :=
  ∀ (s t : State) (r : Req), t = s.endCycle →
    (s.turnOf r = false → ∀ (n m k e : Nat) (l : List Nat) (c : Instr), c ∈ [Instr.nop r, .read r n m,
      .platRead r n m, .readWide r n, .fbRead r n m k, .drList r, .drRead r n m k e, .safeStatus r, .ident r, .attest r l,
      .imgStatus r, .netcfg r n l, .armStatus r n, .leaseStatus r, .txnStatus r n] → exec c s = .next s) ∧
    (s.starts r = true → s.role = .stake → ∀ (n : Nat) (l : List Nat) (c : Instr),
      c ∈ [Instr.netcfg r n l, .armStatus r n, .leaseStatus r, .txnStatus r n] →
      exec c s = .next (s.status r stNotInRole)) ∧
    (s.starts r = true → s.mg.fw.recovery = true → ∀ (n m k e : Nat) (l : List Nat) (c : Instr),
      c ∈ [Instr.readWide r n, .fbRead r n m k, .drList r, .drRead r n m k e, .safeStatus r, .attest r l] →
      exec c s = .next (s.status r stBusy)) ∧
    (s.starts r = true → exec (.nop r) s = .next (t.status r stOk)) ∧
    (∀ src, s.turnOf r = true → s.mg.full.contains r = true → r.origin = .udp src →
      (s.mg.cache.find? fun c => c.req = r) = none → exec (.nop r) s = .next (s.status r stQueueFull)) ∧
    (∀ (addr : Nat) (xs : List FSpec) (v : Nat), s.addrStatus addr = stOk → 0x10000 ≤ addr → inMemory addr = false →
      regFields addr = some xs → v = (xs.map fun x => (if x.acc = .wo ∨ s.unusedField x.fld = true then 0
        else if x.cfg then s.shadow x.fld else s.view x.fld) % 2 ^ x.fld.width * 2 ^ x.fld.lo).sum →
      s.readWord addr = if s.readBad addr = true then (stParity, v, s) else (stOk, v, s.clearRc xs)) ∧
    (∀ (x : FSpec) (l : List FSpec), x.acc ≠ .rc → s.clearRc (x :: l) = s.clearRc l) ∧
    (∀ x : FSpec, x.acc = .rc → ¬ (0x20100 ≤ x.fld.addr ∧ x.fld.addr < 0x20120) → x.fld.addr ≠ FB_MERGED.addr →
      x.fld.addr ≠ FB_LOST.addr → s.clearRc [x] = s.put x.fld 0) ∧
    (∀ addr count, s.starts r = true → exec (.read r addr count) s =
      .next (if count = 0 ∨ 2048 < count then t.status r stBadParam
        else (t.readWords addr count).2.2.reply r (t.readWords addr count).1 (words (t.readWords addr count).2.1))) ∧
    (∀ ofs len, s.starts r = true → exec (.platRead r ofs len) s =
      .next (if 8192 < len ∨ t.plat.length ≤ ofs then t.status r stBadParam
        else t.reply r stOk ((t.plat.drop ofs).take len))) ∧
    (s.starts r = true → exec (.ident r) s = .next (t.reply r stOk (le 16 t.monument ++ t.stepRole ++ [0, 0] ++
      (List.range 64).map fun i => Config.pubKey t.monument i % 256))) ∧
    (s.starts r = true → exec (.imgStatus r) s = .next (t.reply r stOk (le 4 (t.image 0).version ++
      le 4 (t.image 1).version ++ le 4 t.mg.fw.active ++ le 4 (if t.mg.fw.state = 2 then 1 else 0)))) ∧
    (∀ item, s.takesWrites = true → s.running = true → item < 65536 →
      exec (.mbReqWrite item) s = .next ((s.capture item).2.emit (.done stOk))) ∧
    (s.starts r = true → s.mg.fw.recovery = false →
      (∀ item, item < 65536 → (∀ ws, (t.capture item).1 = some ws → exec (.readWide r item) s =
          .next ((t.capture item).2.reply r stOk (le 2 item ++ le 2 ws.length ++ words ws))) ∧
        ((t.capture item).1 = none → exec (.readWide r item) s = .next ((t.capture item).2.status r stBadParam))) ∧
      (∀ space count first recs,
        recs = (((List.range count).map fun i => ((first + i) % 2 ^ 32, t.fbSlot space ((first + i) % 2 ^ 32))).filter
          fun e => ofLe (slice e.2 8 4) = e.1 && e.2.getD 31 0 = 0xA5) →
        exec (.fbRead r space count first) s = .next (if 2 ≤ space ∨ 64 < count then t.status r stBadParam
          else t.reply r stOk (le 2 recs.length ++ [0, 0] ++ recs.flatMap (·.2)))) ∧
      exec (.drList r) s = .next (t.reply r stOk ((List.range (t.get DR_CFG_NSEG)).flatMap fun i =>
        le 4 (t.get (DR_SEG_STAT_STATE i)) ++ le 4 (t.seg i).rnum)) ∧
      (∀ rnum ofs len ecc i, rnum < 2 ^ 32 → t.segOfRec rnum = some i → exec (.drRead r rnum ofs len ecc) s =
        .next (if 8192 < len ∨ (t.seg i).bytes.length ≤ ofs then t.status r stBadParam
          else (t.drEcc ecc).reply r (if ecc / 65536 = 0 then stOk else stParity) (((t.seg i).bytes.drop ofs).take len))) ∧
      (∀ rnum ofs len ecc, rnum < 2 ^ 32 → t.segOfRec rnum = none →
        exec (.drRead r rnum ofs len ecc) s = .next (t.status r stBadParam)) ∧
      exec (.safeStatus r) s = .next (t.reply r stOk (words (if t.role = .datum then
          [t.valueAt SF_STAT_STATE.addr, t.valueAt SF_CAUSE_PORN.addr, t.valueAt SF_RSTINFO_RESULT.addr]
        else [t.valueAt SF_SSTAT_STATE.addr, t.valueAt SF_SCAUSE_PORN.addr, 0]))) ∧
      (∀ nonce : List Nat, exec (.attest r nonce) s = .next (if nonce.length ≠ 16 then t.status r stBadParam
        else t.reply r stOk ((List.range 64).map fun i => Config.sign t.monument (t.attested nonce) i % 256))) ∧
      (s.role = .datum →
        (∀ (sel : Nat) (data : List Nat) (u : State), u = (if data = [] then t
            else ({ t with mg := { t.mg with net := kset t.mg.net sel data } } : State)) →
          exec (.netcfg r sel data) s = .next (u.reply r stOk ((kget u.mg.net sel).getD []))) ∧
        (∀ a, exec (.armStatus r a) s = .next (if 6 ≤ a then t.status r stBadParam
          else t.reply r stOk (words [t.valueAt (LVL_ARM_STAT_K a).addr, t.valueAt (LVL_ARM_T_T a).addr,
            t.valueAt (LVL_ARM_SEL_NSEL a).addr, t.valueAt (LVL_ARM_DEV_EXPECT a).addr]))) ∧
        exec (.leaseStatus r) s = .next (t.reply r stOk (words [t.valueAt LS_STAT_STATE.addr,
          t.valueAt LS_EPOCH_EPOCH.addr, t.valueAt TW_STAT_LSTATE.addr])) ∧
        (∀ id x, ((t.mg.txns ++ t.mg.closed).find? fun t => t.id = id) = some x → exec (.txnStatus r id) s =
          .next (t.reply r stOk ([x.state, 0] ++ le 2 x.writes.length ++ le 4 x.tick ++ le 4 x.refused))) ∧
        (∀ id, ((t.mg.txns ++ t.mg.closed).find? fun t => t.id = id) = none →
          exec (.txnStatus r id) s = .next (t.status r stBadParam))))

/-- Opcodes and rows that write: registers, strobes, locks, units, warm reset, parity. While Thoka does not run, or an
earlier command of the source is still to be executed, no opcode starts; a bank swap, handover and join are
NOT_IN_ROLE in a Stake, a gate test and bypass in a Datum; in recovery all that the role has are BUSY. Else, on the
state with the cycle's records entered: WRITE of 1 to 2048 words and MODIFY change what they name and give their
status. An address not a multiple of 4, or of nothing, is BAD_PARAM, one the role lacks NOT_IN_ROLE, a value that a
field does not allow BAD_PARAM, a change of a field whose lock is set LOCKED, all without effect; else a word with no
row of its own takes each field: RW and RWL the value, in the shadow for a configuration field, W1S sets and W1C
clears bits, RO, RC and WO keep theirs, other fields too. STROBE of a byte of groups strobes them, as STB_FIRE does: a
group that passes its checks moves its shadow, and no other, into its active copy; one that fails moves nothing, sets
its refusal bits and raises its source. FB_FREEZE of 0 or 1 sets both bits; ADC_CAL of 4 and 2 bits starts
calibration, then rotation, or neither; GATE_TEST is refused or answers at its end; BYPASS_FIRE with the low word of
the monument ID arms and 1 us later fires; LOOP_SWAP asks for the swap at a tick: INCOMPATIBLE without IDLE_OK,
BAD_PARAM less than two ticks ahead; HANDOVER is NOT_HOLDER, BUSY or asked for; JOIN is BUSY, INCOMPATIBLE with 165,
or entered; RESET_WARM with its key answers and resets. Other parameters are BAD_PARAM. SYS_LOCK takes its bits. A
scrubbed mismatch is noted, shown and raises 192. After PORn the firmware loads the adoption record, writes and
strobes the store, last the words that enable ports, tick and watchdog, sets the locks and runs; not in S2 (R8, R10,
R20, R181, R183, R194, R197, R226, R263, R264, R309, R334, R338, R339, R342 to R344, R354, R372, R404). -/
def Obligations.ManagementWritesComplete : Prop :=
  ∀ (s t : State) (r : Req), t = s.endCycle →
    (s.turnOf r = false → ∀ (n m k : Nat) (l : List Nat) (x : Option Nat) (c : Instr), c ∈ [Instr.write r x n l,
      .modify r x n m k, .strobe r n, .fbFreeze r n, .adcCal r n m, .gateTest r n m, .bypassFire r n, .loopSwap r n,
      .handover r, .join r, .resetWarm r n] → exec c s = .next s) ∧
    (s.starts r = true → ∀ (n m : Nat) (c : Instr),
      (s.role = .stake ∧ c ∈ [Instr.loopSwap r n, .handover r, .join r]) ∨
        (s.role = .datum ∧ c ∈ [Instr.gateTest r n m, .bypassFire r n]) → exec c s = .next (s.status r stNotInRole)) ∧
    (s.starts r = true → s.mg.fw.recovery = true → ∀ (n m k : Nat) (l : List Nat) (x : Option Nat) (c : Instr),
      c ∈ [Instr.write r x n l, .modify r x n m k, .strobe r n, .fbFreeze r n, .adcCal r n m, .resetWarm r n] ∨
        (s.role = .datum ∧ c ∈ [Instr.loopSwap r n, .handover r, .join r]) ∨
        (s.role = .stake ∧ c ∈ [Instr.gateTest r n m, .bypassFire r n]) → exec c s = .next (s.status r stBusy)) ∧
    (∀ addr w, (addr % 4 ≠ 0 → s.writeWord addr w = (stBadParam, s)) ∧
      (0x140000 ≤ addr → inMemory addr = false → s.writeWord addr w = (stBadParam, s)) ∧
      (addr % 4 = 0 → 0x10000 ≤ addr → addr < 0x140000 → s.hasBlock (addr / 0x10000) (addr % 0x10000) = false →
        s.writeWord addr w = (stNotInRole, s))) ∧
    (∀ (addr w : Nat) (xs : List FSpec) (u : State), s.addrStatus addr = stOk → 0x10000 ≤ addr → inMemory addr = false →
      regFields addr = some xs →
      (∀ (x : FSpec) (v : Nat), x ∈ xs → x.acc ≠ .ro → x.acc ≠ .rc → s.ignores x = false → x.legal ≠ [] →
        v = w / 2 ^ x.fld.lo % 2 ^ x.fld.width → (∀ p ∈ x.legal, v < p.1 ∨ p.2 < v) →
        s.writeWord addr w = (stBadParam, s)) ∧
      (∀ (x : FSpec) (l : Nat), s.legalWord xs w = true → x ∈ xs → x.acc = .rwl l →
        s.get ⟨SYS_LOCK_TIME.addr, l, 1, 0⟩ = 1 → s.ignores x = false →
        bor w (fixedBits addr) / 2 ^ x.fld.lo % 2 ^ x.fld.width ≠ (if x.cfg then s.shadow x.fld else s.get x.fld) →
        s.writeWord addr w = (stLocked, s)) ∧
      (s.legalWord xs w = true → s.lockedWord xs (bor w (fixedBits addr)) = false → addr / 0x10000 ≠ 0x0A →
        specialCommon addr xs (w % 2 ^ 32) = none → specialDatum addr xs (w % 2 ^ 32) = none →
        specialStake addr xs (w % 2 ^ 32) = none →
        u = xs.foldl (fun s x => s.storeField x (bor (w % 2 ^ 32) (fixedBits addr))) s →
        s.writeWord addr w =
          (stOk, { u with mg := { u.mg with parity := u.mg.parity.filter (· ≠ (addr, true)) } }))) ∧
    (∀ (x : FSpec) (w v : Nat) (u : State), u = s.storeField x w → v = w / 2 ^ x.fld.lo % 2 ^ x.fld.width →
      (x.acc = .ro ∨ x.acc = .rc ∨ x.acc = .wo ∨ s.ignores x = true → u = s) ∧
      (s.ignores x = false → x.acc = .rw ∨ (∃ l, x.acc = .rwl l) →
        (x.cfg = false → u.get x.fld = v) ∧ (x.cfg = true → u.shadow x.fld = v)) ∧
      (s.ignores x = false → x.cfg = false →
        (x.acc = .w1s → u.get x.fld = bor (s.get x.fld) v % 2 ^ x.fld.width) ∧
        (x.acc = .w1c → u.get x.fld = (s.get x.fld - band (s.get x.fld) v) % 2 ^ x.fld.width)) ∧
      (∀ f : Fld, u.cfg f = s.cfg f ∧ (f.key ≠ x.fld.key → u.get f = s.get f ∧ u.shadow f = s.shadow f))) ∧
    (∀ g, g < 8 → s.takesWrites = true → exec (.strobeFire (2 ^ g)) s = .next ((s.strobe1 g).2.emit (.done stOk))) ∧
    (∀ g, s.groupOk g = true → s.strobe1 g = (false, ((s.moveGroup g).strobed s g).capNews)) ∧
    (∀ g u, s.groupOk g = false → u = [(s.put TB_STAT_STROBE_REF 1).raise 17, s.raise 17, s.raise 80,
        (s.put GS_STAT_STROBE_REF 1).raise 114, (s.put AD_STAT_STROBE_REF 1).raise 138,
        (s.put SCH_STAT_STROBE_REF 1).raise 77, (s.put CF_STAT_STROBE_REF 1).raiseSpare CF_FSRC_CFG,
        (s.put TW_STAT_STROBE_REF 1).raise 168].getD g s →
      s.strobe1 g = (true, u.put STB_REF_GRP (setBitOf (s.get STB_REF_GRP) g))) ∧
    (∀ (g : Nat) (f : Fld), kwf s.shd = true → (s.moveGroup g).shadow f = s.shadow f ∧
      (keyGroup f.key ≠ some g → (s.moveGroup g).cfg f = s.cfg f) ∧
      (keyGroup f.key = some g → (kget s.shd f.key).isSome = true → (s.moveGroup g).cfg f = s.shadow f)) ∧
    (s.starts r = true → s.mg.fw.recovery = false →
      (∀ addr ws, exec (.write r none addr ws) s = .next (if ws = [] ∨ 2048 < ws.length then t.status r stBadParam
        else (t.writeWords addr ws).2.2.reply r (t.writeWords addr ws).1 (le 4 (t.writeWords addr ws).2.1))) ∧
      (∀ addr mask v q, q = t.modifyWord addr mask v → exec (.modify r none addr mask v) s =
        .next (q.2.2.reply r q.1 (if q.1 = stOk then le 4 q.2.1 else []))) ∧
      (∀ m, exec (.strobe r m) s = .next (if 256 ≤ m then t.status r stBadParam
        else (t.strobe m).2.reply r stOk (le 4 (t.strobe m).1))) ∧
      (∀ on, exec (.fbFreeze r on) s = .next (if 2 ≤ on then t.status r stBadParam
        else ((t.putB FB_CTRL_FREEZE (decide (on = 1))).putB FB_STAT_FROZEN (decide (on = 1))).status r stOk)) ∧
      (∀ cal rot q q', q = wrCalStart cal t → q' = wrRotStart rot q.2 → exec (.adcCal r cal rot) s =
        .next (if 16 ≤ cal ∨ 4 ≤ rot then t.status r stBadParam
          else if q.1 ≠ stOk then q.2.status r q.1
          else if q'.1 = stOk then q'.2.status r stOk else t.status r q'.1)) ∧
      (∀ sel ch q, s.role = .stake → q = wrTest sel ch t → exec (.gateTest r sel ch) s =
        .next (if q.1 = stOk then { q.2 with mg := { q.2.mg with test := some r } } else q.2.status r q.1)) ∧
      (∀ (code : Nat) (v w : State), s.role = .stake →
        v = ({ t with gs := { t.gs with armed := true, armAt := t.now } } : State).advance (t.now + 500) →
        w = { v with gs := { v.gs with armed := false } } →
        exec (.bypassFire r code) s = .next (if code ≠ t.monument % 2 ^ 32 then t.status r stBadParam
          else (w.bypass 2).status r stOk)) ∧
      (∀ (k a : Nat) (u : State), s.role = .datum → u = t.put LE_SWAP_TICK_TICK k →
        a = (u.get LE_SWAP_TICK_TICK + 2 ^ 32 - u.tb.tick % 2 ^ 32) % 2 ^ 32 → exec (.loopSwap r k) s =
          .next (if u.on LE_BANK_IDLE_OK = false then t.status r stIncompatible
            else if a < 2 ∨ 2 ^ 31 ≤ a then t.status r stBadParam
            else ((u.put LE_BANK_SWAP_REQ 1).put LE_BANK_SWAP_PEND 1).status r stOk)) ∧
      (s.role = .datum → exec (.handover r) s = .next (if t.lease ≠ lsHold then t.status r stNotHolder
        else if t.mayHandOver = false then t.status r stBusy else t.requestHandover.status r stOk)) ∧
      (s.role = .datum → t.tw.hb = none ∨ t.on TW_STAT_HB_OK = false → exec (.join r) s = .next (t.status r stBusy)) ∧
      (∀ h : Heartbeat, s.role = .datum → t.on TW_STAT_HB_OK = true → t.tw.hb = some h → exec (.join r) s =
        .next (if h.idcrc ≠ t.idCrc then (t.raise 165).status r stIncompatible
          else if h.state ≠ lsHold ∨ t.mode = twJoin then t.status r stBusy else t.enterJoin.status r stOk)) ∧
      (∀ key, exec (.resetWarm r key) s =
        .next (if key ≠ 0xA5C3 then t.status r stBadParam else (t.status r stOk).warmReset))) ∧
    (∀ m, s.takesWrites = true → m < 256 → exec (.strobeFire m) s = .next ((s.strobe m).2.emit (.done stOk))) ∧
    (∀ m q, s.takesWrites = true → m < 2048 → q = wrLock true m s → exec (.lockSet m) s = .next (q.2.emit (.done q.1))) ∧
    (∀ (addr : Nat) (b : Bool) (u : State), s.running = true →
      u = { s with mg := { s.mg with parity := s.mg.parity.filter (· ≠ (addr, b)) ++ [(addr, b)] } } →
      exec (.configParityScrub addr b) s = .next (if cfgFields addr = [] ∨ s.addrStatus addr ≠ stOk then s
        else ((u.put SYS_PAR_ADDR_ADDR addr).putB SYS_PAR_ADDR_SHADOW b).raise 192)) ∧
    (∀ ws m st, s.running = true → s.mg.fw.started = false ∨ s.mg.fw.load = false ∨ 2 ≤ s.get SH_STAT_STAGE →
      exec (.configLoad ws m st) s = .next s) ∧
    (∀ (ws : List (Nat × Nat)) (m : Nat) (st : AdoptStore) (a b u v : State), s.running = true → s.mg.fw.started = true →
      s.mg.fw.load = true → s.get SH_STAT_STAGE < 2 → m < 2048 →
      a = (ws.filter fun e => !s.actsLate e.1).foldl (fun s e => (s.writeWord e.1 e.2).2) (s.loadAdoption st) →
      b = (a.strobe 255).2 → u = (ws.filter fun e => s.actsLate e.1).foldl (fun s e => (s.writeWord e.1 e.2).2) b →
      v = (wrLock true m (u.strobe 255).2).2 →
      exec (.configLoad ws m st) s = .next { v with mg := { v.mg with fw := { v.mg.fw with
        started := false, load := false, state := if s.mg.fw.state = 0 then 1 else s.mg.fw.state } } })

/-- Transactions in a Datum: begin, write, prepare, commit, rollback, expiry and the tick. A Stake answers these opcodes
NOT_IN_ROLE. In a Datum where Thoka starts the request outside recovery, on the state with the cycle's records
entered: TXN_BEGIN of scope 0, or 1 with a legal target that is no hop, opens a transaction and returns its handle, is
BUSY with 8 open, else BAD_PARAM; WRITE and MODIFY with a handle collect writes with their status. A handle that no
open transaction has is BAD_PARAM. A local prepare is LOCKED, BUSY unless open, else it answers the groups that would
refuse; a local commit is BAD_PARAM where a group would refuse or, while ticks run, its tick is not LEAD ahead,
LOCKED, BUSY unless open, applies at once with IMM, is BUSY without ticks, and is then COMMITTED. A Stake-scope
prepare that is not failed or committed, a commit of a prepared one for a tick SLEAD ahead, and a rollback meet the
checks of a relay and start it. ROLLBACK of a committed one is BUSY; else it closes and counts. Without commands a
transaction that is not committed expires, counted, with an abort to its Stakes. While ticks run, after a cut-off the
committed local transactions of the next tick that have not yet done so write their loop data in order (the rest
applies at the tick start, TICK_START), and in a tick the Stake-scope ones whose tick is reached end with their
answers; with ticks stopped nothing happens (R339, R346 to R349). The messages to Stakes are the model's (log entry
51), and so are that a prepare a check refuses leaves it open, which groups are named, what the expiry counts and how
a commit with answers missing ends (log entry 64). -/
def Obligations.TransactionsOfADatumComplete : Prop :=
  ∀ (s t : State) (r : Req), t = s.endCycle → s.starts r = true →
    (s.role = .stake → ∀ (n m : Nat) (b : Bool) (g : Target) (c : Instr),
      c ∈ [Instr.txnBegin r n g, .txnPrepare r n, .txnCommit r n b m, .txnRollback r n] →
        exec c s = .next (s.status r stNotInRole)) ∧
    (s.mg.fw.recovery = false → s.role = .datum →
      (∀ (scope : Nat) (g : Target), exec (.txnBegin r scope g) s =
        .next (if 2 ≤ scope ∨ (scope = 1 ∧ (g.legal = false ∨ g.mode = 2)) then t.status r stBadParam
          else if 8 ≤ t.mg.txns.length then t.status r stBusy
          else ({ t with mg := { t.mg with
            txnNext := nextTxid t.mg.txnNext, txns := t.mg.txns ++ [{ id := t.mg.txnNext, scope := scope, target := g }]
              } } : State).reply r stOk (le 2 t.mg.txnNext ++ [0, 0]))) ∧
      (∀ id addr ws q, q = t.txnWrites id addr ws → exec (.write r (some id) addr ws) s =
        .next (if ws = [] ∨ 2048 < ws.length then t.status r stBadParam else q.2.2.reply r q.1 (le 4 q.2.1))) ∧
      (∀ id addr mask v q, q = t.txnModify id addr mask v → exec (.modify r (some id) addr mask v) s =
        .next (q.2.2.reply r q.1 (if q.1 = stOk then le 4 q.2.1 else []))) ∧
      (∀ id b k, t.txn id = none → exec (.txnPrepare r id) s = .next (t.status r stBadParam) ∧
        exec (.txnCommit r id b k) s = .next (t.status r stBadParam) ∧
        exec (.txnRollback r id) s = .next (t.status r stBadParam)) ∧
      (∀ id x, t.txn id = some x → x.scope = 0 →
        exec (.txnPrepare r id) s = .next (if t.writesLocked x.writes = true then t.status r stLocked
          else if x.state ≠ txOpen then t.status r stBusy
          else (t.setTxn { x with refused := t.checkWrites x.writes }).reply r stOk (le 4 (t.checkWrites x.writes))) ∧
        (∀ imm k, exec (.txnCommit r id imm k) s = .next (
          if t.checkWrites x.writes ≠ 0 ∨ (imm = false ∧ t.on TB_STAT_TICK_RUN = true ∧
            t.ticksAhead k (t.get TXN_CFG_LEAD) = false) then t.status r stBadParam
          else if t.writesLocked x.writes = true then t.status r stLocked
          else if x.state ≠ txOpen then t.status r stBusy
          else if imm = true then (t.applyTxn x).status r stOk
          else if t.on TB_STAT_TICK_RUN = false then t.status r stBusy
          else (t.setTxn { x with state := txCommitted, tick := k % 2 ^ 32 }).status r stOk)) ∧
        exec (.txnRollback r id) s = .next (if x.state = txCommitted then t.status r stBusy
          else ((t.closeTxn x txRolledBack).count TXN_ROLLBACKS).status r stOk)) ∧
      (∀ id x p y z k, t.txn id = some x → x.scope = 1 → p = sprepPacket x 0 → z = sabortPacket x →
        y = { x with state := txCommitted, tick := k % 2 ^ 32, got := [], req := some r } →
        exec (.txnPrepare r id) s = .next (if t.relayCheck x.target p = stBadParam then t.status r stBadParam
          else if x.state = txFailed ∨ x.state = txCommitted then t.status r stBusy
          else if t.relayCheck x.target p ≠ stOk then t.status r (t.relayCheck x.target p)
          else t.relayStart (some r) (.sprep id 1) x.target p) ∧
        exec (.txnCommit r id true k) s = .next (t.status r stBadParam) ∧
        exec (.txnCommit r id false k) s = .next (
          if (t.on TB_STAT_TICK_RUN = true ∧ t.ticksAhead k (t.get TXN_CFG_SLEAD) = false) ∨
            t.relayCheck x.target (scommitPacket y) = stBadParam then t.status r stBadParam
          else if x.state ≠ txPrepared ∨ t.on TB_STAT_TICK_RUN = false then t.status r stBusy
          else if t.relayCheck x.target (scommitPacket y) ≠ stOk then
            t.status r (t.relayCheck x.target (scommitPacket y))
          else (t.setTxn y).relayStart none (.scommit x.id) x.target (scommitPacket y)) ∧
        exec (.txnRollback r id) s = .next (if t.relayCheck x.target z = stBadParam then t.status r stBadParam
          else if x.state = txCommitted then t.status r stBusy
          else if t.relayCheck x.target z ≠ stOk then t.status r (t.relayCheck x.target z)
          else ((t.closeTxn x txRolledBack).count TXN_ROLLBACKS).relayStart (some r) (.sabort id) x.target z))) ∧
    (s.role = .datum →
      (∀ id, s.txn id = none → exec (.txnIdleExpiry id) s = .next s) ∧
      (∀ id x, s.txn id = some x → exec (.txnIdleExpiry id) s = .next (if x.state = txCommitted then s
        else if x.scope = 0 then (s.closeTxn x txRolledBack).count TXN_EXPIRED
        else ((s.closeTxn x txRolledBack).count TXN_EXPIRED).relayStart none (.sabort id) x.target (sabortPacket x))) ∧
      (s.on TB_STAT_TICK_RUN = true → s.tb.started = true →
        (s.tb.cutDone = true → exec .txnTickApply s = .next ((s.mg.txns.filter fun t => t.scope = 0 &&
          t.state = txCommitted && t.tick = (s.tb.tick + 1) % 2 ^ 32 && !t.loopDone).foldl
            (fun s t => (s.loopWrites t.writes).setTxn { t with loopDone := true }) s)) ∧
        (s.tb.cutDone = false → exec .txnTickApply s = .next s) ∧
        exec .txnCommitComplete s = .next ((s.mg.txns.filter fun t => t.scope = 1 && t.state = txCommitted &&
          s.reached t.tick).foldl (fun s t => s.commitEnd (s.gatherCommit t)) s)) ∧
      (s.on TB_STAT_TICK_RUN = false ∨ s.tb.started = false →
        exec .txnTickApply s = .next s ∧ exec .txnCommitComplete s = .next s))

/-- Transactions in a Stake: prepare, commit, abort, the tick, the timeout. A Datum answers the three messages
NOT_IN_ROLE. In a Stake where Thoka starts the request outside recovery, on the state with the cycle's records
entered: a prepare while another transaction is prepared is BUSY, one of the prepared transaction again is OK with the
number of its writes if that agrees, else BUSY; with a write that is not legal, not configuration or locked the first
such status is the answer and nothing is held; a further part of what is not held is BUSY; else the writes are kept,
and with the last part BAD_PARAM if a group would refuse them, else prepared. A commit of what is not prepared is
BUSY, a second commit OK for its own tick and BUSY for another, one for a tick ahead is taken, and one too late drops
the writes with 195 and is BAD_PARAM. An abort before a commit drops them, else it is BUSY. At its tick the writes
that no lock forbids by then apply, shadow writes that landed later left to the next strobe, with 194 if one was
refused; without TICK_LOCK they are dropped with 195; before that nothing happens. PTO ticks without commit or abort
drop them with 195 (R20, R339, R349, R360). The messages TXN_SPREP, TXN_SCOMMIT and TXN_SABORT are laid out as log
entry 51 says; the status of a commit that comes too late is the model's (log entry 64). -/
def Obligations.TransactionsOfAStakeComplete : Prop :=
  ∀ (s t : State) (r : Req), t = s.endCycle → s.starts r = true →
    (s.role = .datum → ∀ (n m : Nat) (b : Bool) (l : List (Nat × Nat)) (c : Instr),
      c ∈ [Instr.txnSprep r n m b l, .txnScommit r n m, .txnSabort r n] → exec c s = .next (s.status r stNotInRole)) ∧
    (s.mg.fw.recovery = false → s.role = .stake →
      (∀ (id total : Nat) (m : KMap Nat), t.keepPart r id total m = if m.length < total then
          ({ t with mg := { t.mg with held := some { txid := id, total := total, writes := m } } } : State).reply r stOk
            (le 4 m.length)
        else if t.checkWrites m ≠ 0 then ({ t with mg := { t.mg with held := none } } : State).status r stBadParam
        else ({ t with mg := { t.mg with
          held := some { txid := id, total := total, writes := m, ready := true, since := t.tb.tick }
            } } : State).reply r stOk (le 4 m.length)) ∧
      (∀ id total first ws, t.mg.held = none → exec (.txnSprep r id total first ws) s =
        .next (match (ws.map t.sprepStatus).find? (· ≠ stOk) with
          | some st => t.status r st
          | none => if first = true then t.keepPart r id total (ws.foldl (fun m e => kset m e.1 (e.2 % 2 ^ 32)) [])
            else t.status r stBusy)) ∧
      (∀ (id total : Nat) (first : Bool) (ws : List (Nat × Nat)) (h : Held), t.mg.held = some h → h.ready = true →
        exec (.txnSprep r id total first ws) s =
          .next (if h.txid ≠ id ∨ h.total ≠ total then t.status r stBusy else t.reply r stOk (le 4 h.writes.length))) ∧
      (∀ (id total : Nat) (first : Bool) (ws : List (Nat × Nat)) (h : Held) (u : State), t.mg.held = some h →
        h.ready = false → u = { t with mg := { t.mg with held := none } } → exec (.txnSprep r id total first ws) s =
          .next (match (ws.map t.sprepStatus).find? (· ≠ stOk) with
            | some st => u.status r st
            | none => if first = false ∧ h.txid ≠ id then u.status r stBusy
              else t.keepPart r id total
                (ws.foldl (fun m e => kset m e.1 (e.2 % 2 ^ 32)) (if first = true then [] else h.writes)))) ∧
      (∀ id k, t.mg.held = none → exec (.txnScommit r id k) s = .next (t.status r stBusy) ∧
        exec (.txnSabort r id) s = .next (t.status r stBusy)) ∧
      (∀ (id k : Nat) (h : Held) (u : State), t.mg.held = some h → u = { t with mg := { t.mg with held := none } } →
        exec (.txnScommit r id k) s = .next (if h.txid ≠ id ∨ h.ready = false then t.status r stBusy
          else if h.tick.isSome = true then t.status r (if h.tick = some (k % 2 ^ 32) then stOk else stBusy)
          else if t.ticksAhead k 1 = true then
            ({ t with mg := { t.mg with held := some { h with tick := some (k % 2 ^ 32) } } } : State).status r stOk
          else (u.raise 195).status r stBadParam) ∧
        exec (.txnSabort r id) s = .next (if h.txid = id ∧ h.tick = none then u.status r stOk else t.status r stBusy))) ∧
    (s.role = .stake →
      (∀ (h : Held) (k : Nat) (u : State), s.mg.held = some h → h.tick = some k →
        u = { s with mg := { s.mg with held := none } } → exec .txnStakeApply s =
          .next (if s.on TB_STAT_TICK_LOCK = false then u.raise 195
            else if k = s.tb.tick % 2 ^ 32 then s.atStart fun s => s.applyHeld h else s)) ∧
      (∀ (h : Held) (w u : State) (ws : KMap Nat), ws = h.writes.filter (fun e => !w.lockedWord (cfgFields e.1) e.2) →
        u = { w with mg := { w.mg with held := none } } → w.applyHeld h =
          if (u.applyWrites ws).1 ≠ 0 ∨ ws.length ≠ h.writes.length then (u.applyWrites ws).2.raise 194
          else (u.applyWrites ws).2) ∧
      (∀ h : Held, s.mg.held = some h → exec .txnPrepareTimeout s =
        .next (if h.ready = true ∧ h.tick = none ∧ s.get TXN_SCFG_PTO ≤ (s.tb.tick + 2 ^ 64 - h.since) % 2 ^ 64 then
          ({ s with mg := { s.mg with held := none } } : State).raise 195 else s)) ∧
      (∀ h : Held, s.mg.held = some h → h.tick = none → exec .txnStakeApply s = .next s) ∧
      (s.mg.held = none → exec .txnStakeApply s = .next s ∧ exec .txnPrepareTimeout s = .next s))

/-- Relays, chain scans and adoption. A Stake answers a relay, a scan and a flush NOT_IN_ROLE, and so ADOPT that is not
the message of a Datum; else ADOPT in recovery is BUSY. In a Datum where Thoka starts the request outside recovery, on
the state with the cycle's records entered: RELAY is BAD_PARAM or QUEUE_FULL by its checks, else it starts; CHAIN_SCAN
of a port asks hop 0, QUEUE_FULL without room, BAD_PARAM for no port; RELAY_FLUSH empties the queues of its ports;
ADOPT is BAD_PARAM for a place out of range, a taken index or a message that does not fit, BUSY for a slot the scan
found in use or one that breaks the order, QUEUE_FULL without room, else its relay starts. A port that has reached
ACTIVE while Thoka runs is scanned; a reply time closes the messages of its relay, and relays that have ended are
settled. In a Stake ADOPT of a place out of range is BAD_PARAM; a confirmation of what it holds shows its place and
ends manual mode, one of another is BAD_PARAM; once adopted the same place is OK and another BUSY; else it keeps and
shows the place, ends manual mode, writes the record of it and answers OK; and after each it deblocks if it may (R23,
R105, R109, R128, R184, R281, R283, R335, R339, R354, R355). The layout and opcode of the messages are the model's
(log entry 51), as are when a relay is complete (log entry 63) and the order of confirmations and the Off at the end
of manual mode (log entry 65). -/
def Obligations.RelaysAndAdoptionComplete : Prop :=
  ∀ (s t : State) (r : Req), t = s.endCycle → s.starts r = true →
    (s.role = .stake → ∀ (n : Nat) (g : Target) (k : Packet) (c : Instr),
      c ∈ [Instr.relay r g k, .chainScan r n, .relayFlush r n] → exec c s = .next (s.status r stNotInRole)) ∧
    (s.role = .stake → s.adoptWaits r = false → ∀ b p i a x m, exec (.adopt r b p i a x m) s = .next (s.status r stNotInRole)) ∧
    (s.mg.fw.recovery = true → s.role = .datum ∨ (s.role = .stake ∧ s.adoptWaits r = true) → ∀ b p i a x m, exec (.adopt r b p i a x m) s = .next (s.status r stBusy)) ∧
    (s.mg.fw.recovery = false → s.role = .datum →
      (∀ (g : Target) (k : Packet), exec (.relay r g k) s = .next (if g.portList = [] then t.status r stBadParam
        else if t.relayCheck g k.bytes ≠ stOk then t.status r (t.relayCheck g k.bytes)
        else t.relayStart (some r) .relay g k.bytes)) ∧
      (∀ p, exec (.chainScan r p) s = .next (if 16 ≤ p then t.status r stBadParam
        else if t.relayRoom p = false then t.status r stQueueFull
        else ({ t with mg := { t.mg with scans := kset t.mg.scans p [] } } : State).scanHop (some r) p 0)) ∧
      (∀ ports, exec (.relayFlush r ports) s =
        .next (((t.flushPorts ((List.range 16).filter (bitOf ports))).settleRelays).status r stOk)) ∧
      (∀ b p slot a idx m k, k = adoptPacket false p slot a idx (t.tableAt p slot) → exec (.adopt r b p slot a idx m) s =
        .next (if 16 ≤ p ∨ 64 ≤ slot ∨ 6 ≤ a ∨ 1024 ≤ idx ∨ t.indexTaken p slot a idx = true then t.status r stBadParam
          else if t.relayLimit p < 16 + k.length then t.status r stBadParam
          else if (((kget t.mg.scans p).getD []).any fun h => h.slot = slot) = true ∨ t.breaksOrder p slot m = true then
            t.status r stBusy
          else if t.relayRoom p = false then t.status r stQueueFull
          else t.relayStart (some r) (.adopt p slot a idx m) (byMonument p m) k))) ∧
    (s.role = .datum →
      (∀ p, exec (.adoptionScan p) s = .next (if p < 16 ∧ s.lstate p = lsActive then
        ({ s with mg := { s.mg with scans := kset s.mg.scans p [] } } : State).scanHop none p 0 else s)) ∧
      (∀ id, exec (.relayReplyTimeout id) s = .next (s.updRelay id s.closeSent).settleRelays)) ∧
    (s.mg.fw.recovery = false → s.role = .stake → s.adoptWaits r = true → ∀ (p slot a idx old : Nat) (u : State) (same : Bool),
      same = t.mg.mine.any (fun m => m.2 = (slot, a, idx)) →
      u = { t with mg := { t.mg with mine := some (reqDatum r, slot, a, idx) } } →
      exec (.adopt r true p slot a idx old) s =
        .next (if 16 ≤ p ∨ 64 ≤ slot ∨ 6 ≤ a ∨ 1024 ≤ idx ∨ same = false then t.status r stBadParam
          else ((t.showAdopted slot a idx).endManual).status r stOk).tryDeblock ∧
      exec (.adopt r false p slot a idx old) s =
        .next (if 16 ≤ p ∨ 64 ≤ slot ∨ 6 ≤ a ∨ 1024 ≤ idx then t.status r stBadParam
          else if t.on LVL_SIDX_ADOPTED = true then t.status r (if same = true then stOk else stBusy)
          else (((u.showAdopted slot a idx).endManual).adoptEvent u.monument old p slot a).status r stOk).tryDeblock)

/-- Images: open, data, check, activate, confirm, trial and boot. Where Thoka starts the request, in recovery too, on the
state with the cycle's records entered: IMG_OPEN of a target the role lacks or of a length below its manifest or
beyond its bank is BAD_PARAM, of a running bank, the active slot or the slot of a trial BUSY, else its image is
opened; IMG_DATA without an open image is BUSY, beyond its length BAD_PARAM, else kept; IMG_CHECK of a sound and
covering image marks it checked, and a bank IDLE_OK, else it is INCOMPATIBLE with 196 and event 5; IMG_ACTIVATE of
another target is BAD_PARAM, in a trial, with a commit waiting or unchecked BUSY, not sound or covering INCOMPATIBLE,
else OK is sent, what waits is answered BUSY, and the firmware swaps. A confirm ends a trial whose firmware runs. A
trial that crashes, or runs out outside S2, goes back with 197. At a boot after a reset the images are read: the
active slot starts, else the other with 26, else, or without a valid header, recovery with 27; a new image that does
not pass goes back. Out of these states nothing changes (R357 to R359, R373, R390). RESULT of IMG_CHECK is a free
value (log entry 8); what the spec leaves open of images and of the start of requests is in log entries 62, 74 and
133. -/
def Obligations.ImagesComplete : Prop :=
  ∀ (s t : State) (r : Req), t = s.endCycle →
    (s.starts r = true →
      (∀ target len, t.imgTarget target = none → exec (.imgOpen r target len) s = .next (t.status r stBadParam)) ∧
      (∀ (target len i : Nat) (u : State), t.imgTarget target = some i →
        u = (if 2 ≤ i then t.idleWritten else t).setImage i { len := len } → exec (.imgOpen r target len) s =
          .next (if len < 64 ∨ (2 ≤ i ∧ 64 + bankSize < len) then t.status r stBadParam
            else if t.imgBusy i = true then t.status r stBusy
            else (u.setFw { u.mg.fw with opened := some i }).status r stOk)) ∧
      (∀ ofs bs, t.mg.fw.opened = none → exec (.imgData r ofs bs) s = .next (t.status r stBusy) ∧
        exec (.imgCheck r) s = .next (t.status r stBusy)) ∧
      (∀ (ofs : Nat) (bs : List Nat) (i : Nat), t.mg.fw.opened = some i → exec (.imgData r ofs bs) s =
        .next (if (t.image i).len < ofs + bs.length then t.status r stBadParam
          else if t.imgBusy i = true then t.status r stBusy else (t.imgStore i ofs bs).status r stOk)) ∧
      (∀ (i : Nat) (u : State) (data : List Nat), t.mg.fw.opened = some i →
        u = t.used.setImage i { t.image i with checked := true } → data = (t.image i).man ++ le 4 (t.free (2 ^ 32 - 1)) →
        exec (.imgCheck r) s = .next (if t.imgBusy i = true then t.status r stBusy
          else if t.imageSound i = true ∧ t.imageCovers i = true then
            (if 2 ≤ i then u.put LE_BANK_IDLE_OK 1 else u).reply r stOk data
          else ((t.used.raise 196).event 5 (2 ^ 88)).reply r stIncompatible data)) ∧
      (∀ (target i : Nat) (u v w : State), i = 1 - t.mg.fw.active → u = t.status r stOk →
        v = u.notStarted.foldl (fun s q => s.status q stBusy) u → w = { v with mg := { v.mg with cache := [] } } →
        exec (.imgActivate r target) s = .next (if target ≠ 0 then t.status r stBadParam
          else if t.mg.fw.state = 2 ∨ t.commitWaits = true ∨ (t.image i).checked = false then t.status r stBusy
          else if t.imageSound i = false ∨ t.imageCovers i = false then
            ((t.raise 196).event 5 (2 ^ 88)).status r stIncompatible
          else ((w.setFw { w.mg.fw with
            state := 3, active := i, recovery := false, started := false, opened := none }).put
              SYS_RSTCAUSE_KIND 3).event 5 0))) ∧
    (s.running = true →
      exec .firmwareConfirm s = .next (if (s.mg.fw.state = 2 ∨ s.mg.fw.state = 3) ∧ s.thokaRuns = true then
        s.setFw { s.mg.fw with state := 1 } else s) ∧
      (∀ (crashed : Bool) (u : State), u = (s.setFw { s.mg.fw with
          state := 0, active := 1 - s.mg.fw.active, started := false, opened := none }).raise 197 →
        exec (.trialTimeout crashed) s = .next (if (s.mg.fw.state = 2 ∨ s.mg.fw.state = 3) ∧
          (crashed = true ∨ s.get SH_STAT_STAGE < 2) then u else s)) ∧
      (∀ h a b, s.mg.fw.started = true ∨ s.mg.fw.recovery = true ∨ (s.mg.fw.state ≠ 0 ∧ s.mg.fw.state ≠ 3) →
        exec (.bootImageCheck h a b) s = .next s) ∧
      (∀ (h a b : List Nat) (u : State) (i : Nat) (bytes : Nat → List Nat), s.mg.fw.started = false →
        s.mg.fw.recovery = false → bytes = (fun j => if j = 0 then a else b) →
        u = (s.setImage 0 { s.image 0 with bytes := a, len := a.length }).setImage 1
          { s.image 1 with bytes := b, len := b.length } →
        (s.mg.fw.state = 3 → i = s.mg.fw.active → exec (.bootImageCheck h a b) s =
          .next (if u.bootOk (bytes i) = true then u.startSlot i else u.revert)) ∧
        (s.mg.fw.state = 0 → i = (if s.mg.fw.load = true then h.getD 7 0 % 2 else s.mg.fw.active) →
          exec (.bootImageCheck h a b) s =
            .next (if bootHeaderOk h = false then (u.setFw { u.mg.fw with recovery := true }).raise 27
              else if u.bootOk (bytes i) = true then u.startSlot i
              else if u.bootOk (bytes (1 - i)) = true then (u.startSlot (1 - i)).raise 26
              else (u.setFw { u.mg.fw with recovery := true }).raise 27))))

/-- Cluster: TICKALIGN, loss of alignment, re-phase and variables. In a Datum: a message of a Baseline link that is not in
ACTIVE does nothing, one with a bad CRC counts CL_MSG_CRC. The TICKALIGN of a neighbour is noted, with the tick start
it gives from its arrival, TXOFS and the delay of the link; the benchmark, and a Datum for which that link leads to no
parent, take no more from it; a follower accepts that of its parent. 8 quiet ticks of an aligned follower clear
ALIGNED and raise 24. A follower's next tick start takes the phase, in 1/16 ns, and number it follows, whole ticks
later until it lies ahead, and TICKMARK precedes its frames. Variables of this tick go to their words and event 12 + d
follows; those of another tick count VAR_STALE. Else nothing changes (R43, R364 to R366, R368, R369). -/
def Obligations.ClusterCommandsComplete : Prop :=
  ∀ s : State, s.isDatum = true →
    (∀ d m at' tk ws ok, 4 ≤ d ∨ s.lstate (17 + d) ≠ lsActive →
      exec (.tickalignReceive d m at' ok) s = .next s ∧ exec (.varsReceive d tk ws ok) s = .next s) ∧
    (∀ d m at' tk ws, d < 4 → s.lstate (17 + d) = lsActive →
      exec (.tickalignReceive d m at' false) s = .next (s.count CL_MSG_CRC) ∧
      exec (.varsReceive d tk ws false) s = .next (s.count CL_MSG_CRC)) ∧
    (∀ (d : Nat) (m : TickAlign) (at' : Nat) (x : Int) (u : State), d < 4 → s.lstate (17 + d) = lsActive →
      x = (at' : Int) - m.txofs - s.get (CL_BL_LINKDLY_VAL d) →
      u = { s with cl := { s.cl with nb := kset s.cl.nb d { msg := m, start := x.toNat } } } →
      (s.clpos = 0 → exec (.tickalignReceive d m at' true) s = .next u) ∧
      (s.clpos ≠ 0 → u.parent = none → exec (.tickalignReceive d m at' true) s = .next u) ∧
      (∀ e depth good, s.clpos ≠ 0 → u.parent = some (e, depth, good) → exec (.tickalignReceive d m at' true) s =
        .next (if e = d then u.acceptAlign d depth good m x else u))) ∧
    exec .alignmentLoss s = .next (if s.clpos ≠ 0 ∧ s.on CL_STAT_ALIGNED = true ∧ 8 ≤ s.cl.quiet then
      (s.put CL_STAT_ALIGNED 0).raise 24 else s) ∧
    (∀ x start k j, s.cl.rephase = some (x, k) → start = x / 32 →
      j = (if s.now < start ∨ s.tb.period = 0 then 0 else (s.now - start) / s.tb.period + 1) →
      exec .followerRephase s = .next { s with
        cl := { s.cl with rephase := none },
        tb := { s.tb with nextStart := start + j * s.tb.period, nextSub := x % 32, nextTick := (k + j) % 2 ^ 64, markDue := true } }) ∧
    (s.cl.rephase = none → exec .followerRephase s = .next s) ∧
    (∀ (d tk : Nat) (ws : List (Nat × Nat)) (base : Nat), d < 4 → s.lstate (17 + d) = lsActive →
      base = loopDataBase + s.cfg (CL_VRX_ADDR d) / 128 * 128 → exec (.varsReceive d tk ws true) s =
        .next (if tk % 2 ^ 32 = s.tb.tick % 2 ^ 32 then
          ((ws.filter fun e => e.1 < 32).foldl (fun s e => s.setMemWord (base + 4 * e.1) e.2) s).routeEvent (12 + d)
        else s.count VAR_STALE))

/-- Resets: PORn, a failed supply, the S4 reset, and their releases. PORn at any time puts the device into reset. A supply
that fails does the same to any device that neither PORn nor the S4 reset holds, where it only lets BYPF fall, and
enters the S4 reset in S4, which is the model's reading (log entry 77). Whatever the cause, the retention tail with
its number, the fired mark, SH_S4 (in their widths), the firmware images and the adoption records stay, memory is as
after reset, and every other register, but S4_LAST after another cause than PORn, has its reset value. The release of
PORn or a supply samples the straps: role 0 starts a Stake, 1 a Datum with its safety inputs as they are, else the
device is held; retained contents that were lost are emptied with 13 first. A release in another phase changes
nothing. The S4 reset begins when its steps, its record and a firing sequence are done, counts SH_S4 and sets S4_LAST;
its release samples the straps again and raises 31 in a device that then runs; else nothing changes. The detector
notes that the retained contents are lost (R1, R2, R268, R273, R361, R372, R379, R381, R386, R404). What reset leaves
where the spec gives no value is the model's (log entries 2 and 3). -/
def Obligations.ResetsComplete : Prop :=
  ∀ s : State,
    exec .pornAssert s = .next (s.powerReset .porn) ∧
    exec .supplyReset s = .next (if s.phase = .porn ∨ s.phase = .shed then { s with gs := { s.gs with bypf := false } }
      else if s.running = true ∧ s.get SH_STAT_STAGE = 4 then ((s.count SH_S4).powerReset .shed).put SH_STAT_S4_LAST 1
      else s.powerReset .supply) ∧
    (∀ (ph : Phase) (t : State), t = s.powerReset ph → t.phase = ph ∧ t.pending = s.pending ∧ t.mem = State.reset.mem ∧
      t.fb.tail = s.fb.tail ∧ t.gs.mark = s.gs.mark ∧ t.mg.fw.image = s.mg.fw.image.filter (·.1 < 2) ∧ t.mg.fw.active = s.mg.fw.active ∧
      t.mg.table = s.mg.table ∧ t.mg.mine = s.mg.mine ∧ t.get FB_TAILHEAD_SEQ = s.get FB_TAILHEAD_SEQ % 2 ^ 32 ∧
      t.get SH_S4 = s.get SH_S4 % 2 ^ 31 ∧
      (∀ f : Fld, f.key ≠ FB_TAILHEAD_SEQ.key → f.key ≠ SH_S4.key → f.key ≠ SH_S4_OVF.key →
        f.key ≠ SH_STAT_S4_LAST.key → t.get f = f.reset) ∧
      (ph = .porn → t.get SH_STAT_S4_LAST = SH_STAT_S4_LAST.reset)) ∧
    (∀ st m i u, s.phase = .porn ∨ s.phase = .supply → u = s.takeStraps st m →
      (st % 4 = 0 → u.role = .stake ∧ exec (.resetRelease st m i) s = .next u.takeRetained.startStake) ∧
      (st % 4 = 1 → u.role = .datum ∧ exec (.resetRelease st m i) s = .next (u.takeRetained.startDatum i)) ∧
      (2 ≤ st % 4 → u.phase = .roleHold ∧ exec (.resetRelease st m i) s = .next u)) ∧
    (∀ u : State, u.takeRetained = if u.fb.tailKept = true then u.put FB_STAT_TAIL_VALID 1
      else (((((({ u with gs := { u.gs with mark := false }, fb := { u.fb with tail := [], tailKept := true } } : State).put
        FB_TAILHEAD_SEQ 0).put SH_S4 0).put SH_S4_OVF 0).put FB_STAT_TAIL_VALID 0).raise 13)) ∧
    (∀ st m i, s.phase ≠ .porn → s.phase ≠ .supply → exec (.resetRelease st m i) s = .next s) ∧
    (s.running = true → exec .shedResetEntry s = .next (
      if s.get SH_STAT_STAGE = 4 ∧ s.fb.cycle.any FbRec.ofS4 = false ∧ (s.fb.queue.any fun e => e.rcd.ofS4) = false ∧ (s.gs.byp = .idle ∨ s.gs.byp = .released) then
        ((s.count SH_S4).powerReset .shed).put SH_STAT_S4_LAST 1 else s)) ∧
    (∀ st i u, s.phase = .shed → u = s.release st s.monument i →
      exec (.shedResetRelease st i) s = .next (if u.running = true then u.raise 31 else u)) ∧
    (∀ st i, s.phase ≠ .shed → exec (.shedResetRelease st i) s = .next s) ∧
    exec .retentionDetector s = .next { s with fb := { s.fb with tailKept := false } }

/-- Supplies, temperature, shedding and the watchdog. In a running device: a rail that leaves its band sets its bit and
raises 5 to 12, if the bit was clear; its return clears the bit; another rail does nothing. A junction temperature is
shown, and asserts 14 or 15 at or above the level WARN or 122 degrees, ends it below the level by more than 2 degrees,
else leaves it. VAUXS raises the stage once for each level it lies below beyond the present stage, up to the number
the report names: S1 raises 28 and stops the recorder, S2 raises 29, S3 raises 30 and blocks a Datum or forces a Stake
Off, S4 takes its steps, each with record and count, and HOLDING is cleared. VAUXS at or above the level of the stage
plus HYST lowers it by one; S1 left lets the recorder arm again, S3 left in a Stake shows PBLK anew and lets channels
follow; else only VAUXS and HOLDING are shown, HOLDING while the level is reached (log entry 131, the model's
reading). An enabled watchdog outside S2 that has not expired sets WD_EXP, raises 0, and resets the processor if
RST_EN; else nothing changes (R301, R377, R382 to R387, R390, R392). -/
def Obligations.SuppliesAndSheddingComplete : Prop :=
  ∀ s : State, s.running = true →
    (∀ i, exec (.railFault i) s = .next (if i < 8 ∧ bitOf (s.get SH_STAT_RAIL) i = false then
      (s.put SH_STAT_RAIL (setBitOf (s.get SH_STAT_RAIL) i)).raise (5 + i) else s)) ∧
    (∀ i, exec (.railReturn i) s =
      .next (if i < 8 then s.put SH_STAT_RAIL (clrBitOf (s.get SH_STAT_RAIL) i) else s)) ∧
    (∀ (tj : Nat) (w : Int), w = 16 * toSigned 8 (s.cfg SH_TEMP_WARN) → exec (.tjMeasure tj) s =
      .next (((s.put SH_MEAS_TJ tj).tempSource 14 (toSigned 16 tj) w).tempSource 15 (toSigned 16 tj) (16 * 122))) ∧
    (∀ (u : State) (src : Nat) (t level : Int), u.tempSource src t level =
      if level ≤ t then u.levelOn src else if t < level - 32 then u.levelOff src else u) ∧
    (∀ n mv r, r = min n (s.stageFor mv) - s.get SH_STAT_STAGE → exec (.shedStageRise ⟨n, mv⟩) s =
      .next (if r = 0 then s.showHolding mv else iter (fun u => u.nextStage mv) r s)) ∧
    (∀ (mv : Nat) (v u : State), u = v.put SH_STAT_HOLDING 0 →
      (u.get SH_STAT_STAGE = 0 → v.nextStage mv = ((u.setStage 1 mv false).raise 28).drShedRise) ∧
      (u.get SH_STAT_STAGE = 1 → v.nextStage mv = (u.setStage 2 mv false).raise 29) ∧
      (u.get SH_STAT_STAGE = 2 → v.nextStage mv = (u.setStage 3 mv false).enterS3) ∧
      (u.get SH_STAT_STAGE = 3 → v.nextStage mv = u.enterS4 mv)) ∧
    (∀ mv, s.get SH_STAT_STAGE = 0 ∨ 4 ≤ s.get SH_STAT_STAGE → exec (.shedStageFall mv) s = .next s) ∧
    (∀ (mv g : Nat) (u : State), s.get SH_STAT_STAGE = g + 1 → g < 3 → u = (s.setStage g mv false).showHolding mv →
      exec (.shedStageFall mv) s = .next (if mv < s.cfg (SH_LVL_LEVEL g) + s.cfg SH_CFG_HYST then s.showHolding mv
        else if g = 0 then u.drShedFall else if g = 2 ∧ u.role = .stake then u.updPblk.refollow else u)) ∧
    (∀ (mv g : Nat), g = s.get SH_STAT_STAGE → s.showHolding mv = (s.put SH_MEAS_VAUXS mv).putB SH_STAT_HOLDING
      (decide (0 < g) && decide (g < 4) && decide (s.cfg (SH_LVL_LEVEL (g - 1)) + s.cfg SH_CFG_HYST ≤ mv))) ∧
    (∀ u, u = (s.put FC_STAT_WD_EXP 1).raise 0 → exec .watchdogExpiry s = .next (
      if s.on WD_CFG_EN = false ∨ s.on FC_STAT_WD_EXP = true ∨ 2 ≤ s.get SH_STAT_STAGE then s
      else if u.on WD_CFG_RST_EN = true then (u.put SYS_RSTCAUSE_KIND 2).processorReset else u))
end

