-- ==== Sys2Proof/Laws/Keeps.lean ====
section
/-! SUPPORT. What every operation of the machine keeps: the queue, the straps and the phase, the canonical form of memory and
registers, the direction of the clock, and a block of a Datum's safety channels. -/

namespace Sys2Proof.Machine

/-! ### The sparse tables -/

theorem kwfFrom_mono {α : Type} : ∀ (m : KMap α) {a b : Nat}, a ≤ b → kwfFrom b m = true → kwfFrom a m = true
  | [], _, _, _, _ => rfl
  | (k, v) :: t, a, b, hab, h => by
    simp only [kwfFrom, Bool.and_eq_true, decide_eq_true_eq] at h ⊢
    exact ⟨Nat.le_trans hab h.1, h.2⟩

theorem kwfFrom_kset {α : Type} : ∀ (m : KMap α) (b k : Nat) (v : α), b ≤ k → kwfFrom b m = true →
    kwfFrom b (kset m k v) = true
  | [], b, k, v, hb, _ => by simp [kset, kwfFrom, hb]
  | (a, w) :: t, b, k, v, hb, h => by
    simp only [kwfFrom, Bool.and_eq_true, decide_eq_true_eq] at h
    unfold kset
    split
    · rename_i hk
      simp only [kwfFrom, Bool.and_eq_true, decide_eq_true_eq]
      exact ⟨hb, by omega, h.2⟩
    · split
      · rename_i hk
        subst hk
        simp only [kwfFrom, Bool.and_eq_true, decide_eq_true_eq]
        exact ⟨hb, h.2⟩
      · simp only [kwfFrom, Bool.and_eq_true, decide_eq_true_eq]
        exact ⟨h.1, kwfFrom_kset t (a + 1) k v (by omega) h.2⟩

/-- Setting a key keeps the canonical form of a table. -/
theorem kwf_kset {α : Type} (m : KMap α) (k : Nat) (v : α) (h : kwf m = true) : kwf (kset m k v) = true :=
  kwfFrom_kset m 0 k v (Nat.zero_le _) h

theorem kwf_nil {α : Type} : kwf ([] : KMap α) = true := rfl

theorem kwfFrom_filter {α : Type} (p : Nat × α → Bool) : ∀ (m : KMap α) (b : Nat), kwfFrom b m = true →
    kwfFrom b (m.filter p) = true
  | [], _, _ => rfl
  | (a, w) :: t, b, h => by
    simp only [kwfFrom, Bool.and_eq_true, decide_eq_true_eq] at h
    have ht := kwfFrom_filter p t (a + 1) h.2
    unfold List.filter
    split
    · simp only [kwfFrom, Bool.and_eq_true, decide_eq_true_eq]
      exact ⟨h.1, ht⟩
    · exact kwfFrom_mono _ (by omega) ht

/-- Filtering keeps the canonical form of a table. -/
theorem kwf_filter {α : Type} (p : Nat × α → Bool) (m : KMap α) (h : kwf m = true) : kwf (m.filter p) = true :=
  kwfFrom_filter p m 0 h

/-- A fold of settings keeps the canonical form. -/
theorem kwf_foldl {α β : Type} (f : KMap α → β → KMap α) (hf : ∀ m b, kwf m = true → kwf (f m b) = true) :
    ∀ (l : List β) (m : KMap α), kwf m = true → kwf (l.foldl f m) = true
  | [], _, h => h
  | b :: t, m, h => kwf_foldl f hf t (f m b) (hf m b h)

/-! ### The memory -/

theorem memWfFrom_mono : ∀ (m : List Host.Cell) {a b : Nat}, a ≤ b → memWfFrom b m = true → memWfFrom a m = true
  | [], _, _, _, _ => rfl
  | (k, v) :: t, a, b, hab, h => by
    simp only [memWfFrom, Bool.and_eq_true, decide_eq_true_eq] at h ⊢
    exact ⟨⟨Nat.le_trans hab h.1.1, h.1.2⟩, h.2⟩

theorem memWfFrom_erase : ∀ (m : List Host.Cell) (b k : Nat), memWfFrom b m = true → memWfFrom b (memErase m k) = true
  | [], _, _, _ => rfl
  | (a, w) :: t, b, k, h => by
    simp only [memWfFrom, Bool.and_eq_true, decide_eq_true_eq] at h
    have ht := memWfFrom_erase t (a + 1) k h.2
    unfold memErase
    split
    · exact memWfFrom_mono _ (by omega) ht
    · simp only [memWfFrom, Bool.and_eq_true, decide_eq_true_eq]
      exact ⟨h.1, ht⟩

theorem memWfFrom_insert : ∀ (m : List Host.Cell) (b k : Nat) (v : BitVec 8), b ≤ k → v ≠ memDefault →
    memWfFrom b m = true → memWfFrom b (memInsert m k v) = true
  | [], b, k, v, hb, hv, _ => by simp [memInsert, memWfFrom, hb, hv]
  | (a, w) :: t, b, k, v, hb, hv, h => by
    simp only [memWfFrom, Bool.and_eq_true, decide_eq_true_eq] at h
    unfold memInsert
    split
    · rename_i hk
      simp only [memWfFrom, Bool.and_eq_true, decide_eq_true_eq]
      exact ⟨⟨hb, hv⟩, ⟨by omega, h.1.2⟩, h.2⟩
    · split
      · rename_i hk
        subst hk
        simp only [memWfFrom, Bool.and_eq_true, decide_eq_true_eq]
        exact ⟨⟨hb, hv⟩, h.2⟩
      · simp only [memWfFrom, Bool.and_eq_true, decide_eq_true_eq]
        exact ⟨h.1, memWfFrom_insert t (a + 1) k v (by omega) hv h.2⟩

/-- Setting a byte keeps the canonical form of the memory. -/
theorem memory_wf_memSet (m : List Host.Cell) (k : Nat) (v : BitVec 8) (h : Memory.wf m = true) :
    Memory.wf (memSet m k v) = true := by
  unfold memSet
  split
  · exact memWfFrom_erase m 0 k h
  · exact memWfFrom_insert m 0 k v (Nat.zero_le _) (by assumption) h

/-- Setting bytes keeps the canonical form of the memory. -/
theorem memory_wf_memSetBytes : ∀ (bs : List Nat) (m : List Host.Cell) (a : Nat), Memory.wf m = true →
    Memory.wf (memSetBytes m a bs) = true
  | [], _, _, h => h
  | b :: t, m, a, h => memory_wf_memSetBytes t _ (a + 1) (memory_wf_memSet m a _ h)

/-! ### The relation -/

/-- What every operation keeps from state `z` on. -/
structure Keeps (ro : Bool) (z s : State) : Prop where
  /-- The commands that wait. -/
  pending : s.pending = z.pending
  /-- Phase, role and the other straps (R1). -/
  device : (s.phase, s.role, s.clpos, s.board, s.twpref, s.monument) =
    (z.phase, z.role, z.clpos, z.board, z.twpref, z.monument)
  /-- The clock does not go back. -/
  clock : z.now ≤ s.now
  /-- The canonical form of memory and registers. -/
  sound : z.sound → s.sound
  /-- Every byte of memory, where `ro` says that the operation stores none. -/
  memory : ro = true → s.mem = z.mem
  /-- A blocked channel of a Datum stays blocked (R273). -/
  blocked : z.role = .datum → (s.sf.x.permit = true → z.sf.x.permit = true) ∧ (s.sf.y.permit = true → z.sf.y.permit = true)

theorem Keeps.rfl' (ro : Bool) (s : State) : Keeps ro s s :=
  ⟨rfl, rfl, Nat.le_refl _, fun h => h, fun _ => rfl, fun _ => ⟨fun h => h, fun h => h⟩⟩

theorem Keeps.weaken {ro : Bool} {z s : State} (h : Keeps ro z s) : Keeps false z s :=
  ⟨h.pending, h.device, h.clock, h.sound, (fun x => nomatch x), h.blocked⟩

/-- The phase is the same. -/
theorem Keeps.phase {ro : Bool} {z s : State} (h : Keeps ro z s) : s.phase = z.phase := congrArg (·.1) h.device

/-- The role is the same. -/
theorem Keeps.role {ro : Bool} {z s : State} (h : Keeps ro z s) : s.role = z.role := congrArg (·.2.1) h.device

theorem Keeps.trans {ro : Bool} {a b c : State} (h : Keeps ro a b) (g : Keeps ro b c) : Keeps ro a c where
  pending := g.pending.trans h.pending
  device := g.device.trans h.device
  clock := Nat.le_trans h.clock g.clock
  sound x := g.sound (h.sound x)
  memory x := (g.memory x).trans (h.memory x)
  blocked r := by
    have l := h.blocked r
    have m := g.blocked (h.role.trans r)
    exact ⟨fun x => l.1 (m.1 x), fun x => l.2 (m.2 x)⟩

/-- A record update of the parts that the relation does not speak of. -/
theorem keeps_upd {ro : Bool} {z t : State} (time : Time) (mbad : List Nat) (out : List Out) (fresh : Nat) (tb : TbSt)
    (tev : KMap TevSt) (ptp : KMap (List PtpStamp)) (links : KMap LinkSt) (ports : KMap PortSt) (frm : FrmSt)
    (arms : KMap ArmSt) (sch : SchSt) (cf : CfSt) (tw : TwSt) (gs : GsSt) (gate : KMap GateCh) (fc : FcSt) (fb : FbSt)
    (dr : DrSt) (ad : AdSt) (aux : AuxSt) (mg : MgSt) (cl : ClSt) :
    Keeps ro z { t with
      time := time, mbad := mbad, out := out, fresh := fresh, tb := tb, tev := tev, ptp := ptp, links := links, ports := ports
      frm := frm, arms := arms, sch := sch, cf := cf, tw := tw, gs := gs, gate := gate, fc := fc, fb := fb, dr := dr, ad := ad
      aux := aux, mg := mg, cl := cl } ↔ Keeps ro z t :=
  ⟨fun h => ⟨h.pending, h.device, h.clock, h.sound, h.memory, h.blocked⟩, fun h => ⟨h.pending, h.device, h.clock, h.sound, h.memory, h.blocked⟩⟩

/-- The same with the safe block, when no channel permits that did not. -/
theorem keeps_updSf {ro : Bool} {z t : State} (h : Keeps ro z t) (sf : SfSt) (hx : sf.x.permit = true → t.sf.x.permit = true)
    (hy : sf.y.permit = true → t.sf.y.permit = true) (out : List Out) (frm : FrmSt) (gs : GsSt) :
    Keeps ro z { t with sf := sf, out := out, frm := frm, gs := gs } :=
  ⟨h.pending, h.device, h.clock, h.sound, h.memory,
    fun r => ⟨fun x => (h.blocked r).1 (hx x), fun x => (h.blocked r).2 (hy x)⟩⟩

/-- The same in a Stake, whatever the channels do. -/
theorem keeps_stakeSf {ro : Bool} {z t : State} (h : Keeps ro z t) (hr : t.role = .stake) (sf : SfSt) : Keeps ro z { t with sf := sf } :=
  ⟨h.pending, h.device, h.clock, h.sound, h.memory,
    fun r => absurd (h.role.symm.trans hr) (by rw [r]; decide)⟩

/-- The state with both channels of the safe block permitting: what a step keeps from there on leaves the channels open. -/
def State.allowed (s : State) : State :=
  { s with sf := { s.sf with x := { s.sf.x with permit := true }, y := { s.sf.y with permit := true } } }

theorem Keeps.allowed {ro : Bool} {z s : State} (h : Keeps ro z s) : Keeps ro z.allowed s :=
  ⟨h.pending, h.device, h.clock, h.sound, h.memory, fun _ => ⟨fun _ => rfl, fun _ => rfl⟩⟩

theorem keeps_allowedSf {ro : Bool} {z t : State} (h : Keeps ro z.allowed t) (sf : SfSt) : Keeps ro z.allowed { t with sf := sf } :=
  ⟨h.pending, h.device, h.clock, h.sound, h.memory, fun _ => ⟨fun _ => rfl, fun _ => rfl⟩⟩

theorem and_left {a b : Bool} (h : (a && b) = true) : a = true := by
  cases a
  · cases h
  · rfl

/-- A condition. -/
theorem keeps_ite {ro : Bool} {z a b : State} (c : Prop) [Decidable c] (ha : c → Keeps ro z a) (hb : ¬c → Keeps ro z b) :
    Keeps ro z (if c then a else b) := by
  split
  · exact ha (by assumption)
  · exact hb (by assumption)

/-- A fold over a list. -/
theorem keeps_foldl {ro : Bool} {z : State} {β : Type} {f : State → β → State} (hf : ∀ s b, Keeps ro z s → Keeps ro z (f s b)) :
    ∀ (l : List β) (s : State), Keeps ro z s → Keeps ro z (l.foldl f s)
  | [], _, h => h
  | b :: t, s, h => keeps_foldl hf t (f s b) (hf s b h)

/-- A fold that carries a value beside the state. -/
theorem keeps_foldl_snd {ro : Bool} {z : State} {β γ : Type} {f : γ × State → β → γ × State}
    (hf : ∀ r b, Keeps ro z r.2 → Keeps ro z (f r b).2) :
    ∀ (l : List β) (r : γ × State), Keeps ro z r.2 → Keeps ro z (l.foldl f r).2
  | [], _, h => h
  | b :: t, r, h => keeps_foldl_snd hf t (f r b) (hf r b h)

/-- A step made several times. -/
theorem keeps_iter {ro : Bool} {z : State} {f : State → State} (hf : ∀ s, Keeps ro z s → Keeps ro z (f s)) :
    ∀ (n : Nat) (s : State), Keeps ro z s → Keeps ro z (iter f n s)
  | 0, _, h => h
  | n + 1, s, h => keeps_iter hf n (f s) (hf s h)

/-! ### Registers, outputs, clock, memory -/

theorem State.put_keeps {ro : Bool} {z s : State} (h : Keeps ro z s) (f : Fld) (v : Nat) : Keeps ro z (s.put f v) :=
  ⟨h.pending, h.device, h.clock, fun g => ⟨(h.sound g).1, kwf_kset _ _ _ (h.sound g).2.1, (h.sound g).2.2⟩, h.memory, h.blocked⟩

theorem State.putShadow_keeps {ro : Bool} {z s : State} (h : Keeps ro z s) (f : Fld) (v : Nat) : Keeps ro z (s.putShadow f v) :=
  ⟨h.pending, h.device, h.clock,
    fun g => ⟨(h.sound g).1, (h.sound g).2.1, kwf_kset _ _ _ (h.sound g).2.2.1, (h.sound g).2.2.2⟩, h.memory, h.blocked⟩

theorem State.putCfg_keeps {ro : Bool} {z s : State} (h : Keeps ro z s) (f : Fld) (v : Nat) : Keeps ro z (s.putCfg f v) :=
  ⟨h.pending, h.device, h.clock,
    fun g => ⟨(h.sound g).1, (h.sound g).2.1, kwf_kset _ _ _ (h.sound g).2.2.1, kwf_kset _ _ _ (h.sound g).2.2.2⟩, h.memory, h.blocked⟩

theorem State.advance_keeps {ro : Bool} {z s : State} (h : Keeps ro z s) (t : Nat) : Keeps ro z (s.advance t) := by
  unfold State.advance
  split
  · exact ⟨h.pending, h.device, Nat.le_trans h.clock (Nat.le_of_lt (by assumption)), h.sound, h.memory, h.blocked⟩
  · exact h

theorem State.setMemBytes_keeps {z s : State} (h : Keeps false z s) (a : Nat) (bs : List Nat) : Keeps false z (s.setMemBytes a bs) := by
  unfold State.setMemBytes State.joinMark
  split
  · exact ⟨h.pending, h.device, h.clock, fun g => ⟨memory_wf_memSetBytes _ _ _ (h.sound g).1, (h.sound g).2⟩, (fun x => nomatch x), h.blocked⟩
  · exact ⟨h.pending, h.device, h.clock, fun g => ⟨memory_wf_memSetBytes _ _ _ (h.sound g).1, (h.sound g).2⟩, (fun x => nomatch x), h.blocked⟩

end Sys2Proof.Machine
end

