-- ==== Sys2Proof/Laws/KeepsOps.lean ====
section
/-! SUPPORT. What the operations of Machine/Ops.lean keep (Laws/Keeps.lean). -/

namespace Sys2Proof.Machine

theorem State.putB_keeps {ro : Bool} {z s : State} (h : Keeps ro z s) (f : Fld) (b : Bool) :
    Keeps ro z (State.putB s f b) := by
  unfold State.putB
  repeat' first
    | with_reducible assumption | with_reducible apply State.put_keeps | with_reducible apply keeps_ite
    | with_reducible apply keeps_foldl | with_reducible apply keeps_foldl_snd | intro _ | extract_lets
    | simp -zeta only [keeps_upd] | split | dsimp only

theorem State.countN_keeps {ro : Bool} {z s : State} (h : Keeps ro z s) (f : Fld) (n : Nat) :
    Keeps ro z (State.countN s f n) := by
  unfold State.countN
  repeat' first
    | with_reducible assumption | with_reducible apply State.put_keeps | with_reducible apply keeps_ite
    | with_reducible apply keeps_foldl | with_reducible apply keeps_foldl_snd | intro _ | extract_lets
    | simp -zeta only [keeps_upd] | split | dsimp only

theorem State.count_keeps {ro : Bool} {z s : State} (h : Keeps ro z s) (f : Fld) :
    Keeps ro z (State.count s f) := by
  unfold State.count
  repeat' first
    | with_reducible assumption | with_reducible apply State.countN_keeps | with_reducible apply keeps_ite
    | with_reducible apply keeps_foldl | with_reducible apply keeps_foldl_snd | intro _ | extract_lets
    | simp -zeta only [keeps_upd] | split | dsimp only

theorem State.emit_keeps {ro : Bool} {z s : State} (h : Keeps ro z s) (o : Out) :
    Keeps ro z (State.emit s o) := by
  unfold State.emit
  repeat' first
    | with_reducible assumption | with_reducible apply keeps_ite | with_reducible apply keeps_foldl
    | with_reducible apply keeps_foldl_snd | intro _ | extract_lets | simp -zeta only [keeps_upd] | split | dsimp only

theorem State.emits_keeps {ro : Bool} {z s : State} (h : Keeps ro z s) (os : List Out) :
    Keeps ro z (State.emits s os) := by
  unfold State.emits
  repeat' first
    | with_reducible assumption | with_reducible apply keeps_ite | with_reducible apply keeps_foldl
    | with_reducible apply keeps_foldl_snd | intro _ | extract_lets | simp -zeta only [keeps_upd] | split | dsimp only

theorem State.used_keeps {ro : Bool} {z s : State} (h : Keeps ro z s)  :
    Keeps ro z (State.used s) := by
  unfold State.used
  repeat' first
    | with_reducible assumption | with_reducible apply keeps_ite | with_reducible apply keeps_foldl
    | with_reducible apply keeps_foldl_snd | intro _ | extract_lets | simp -zeta only [keeps_upd] | split | dsimp only

theorem State.noteRow_keeps {ro : Bool} {z s : State} (h : Keeps ro z s) (t : Nat) :
    Keeps ro z (State.noteRow s t) := by
  unfold State.noteRow
  repeat' first
    | with_reducible assumption | with_reducible apply keeps_ite | with_reducible apply keeps_foldl
    | with_reducible apply keeps_foldl_snd | intro _ | extract_lets | simp -zeta only [keeps_upd] | split | dsimp only

theorem State.setLink_keeps {ro : Bool} {z s : State} (h : Keeps ro z s) (l : Nat) (v : LinkSt) :
    Keeps ro z (State.setLink s l v) := by
  unfold State.setLink
  repeat' first
    | with_reducible assumption | with_reducible apply keeps_ite | with_reducible apply keeps_foldl
    | with_reducible apply keeps_foldl_snd | intro _ | extract_lets | simp -zeta only [keeps_upd] | split | dsimp only

theorem State.setPort_keeps {ro : Bool} {z s : State} (h : Keeps ro z s) (p : Nat) (v : PortSt) :
    Keeps ro z (State.setPort s p v) := by
  unfold State.setPort
  repeat' first
    | with_reducible assumption | with_reducible apply keeps_ite | with_reducible apply keeps_foldl
    | with_reducible apply keeps_foldl_snd | intro _ | extract_lets | simp -zeta only [keeps_upd] | split | dsimp only

theorem State.setArm_keeps {ro : Bool} {z s : State} (h : Keeps ro z s) (a : Nat) (v : ArmSt) :
    Keeps ro z (State.setArm s a v) := by
  unfold State.setArm
  repeat' first
    | with_reducible assumption | with_reducible apply keeps_ite | with_reducible apply keeps_foldl
    | with_reducible apply keeps_foldl_snd | intro _ | extract_lets | simp -zeta only [keeps_upd] | split | dsimp only

theorem State.setChan_keeps {ro : Bool} {z s : State} (h : Keeps ro z s) (n : Nat) (v : GateCh) :
    Keeps ro z (State.setChan s n v) := by
  unfold State.setChan
  repeat' first
    | with_reducible assumption | with_reducible apply keeps_ite | with_reducible apply keeps_foldl
    | with_reducible apply keeps_foldl_snd | intro _ | extract_lets | simp -zeta only [keeps_upd] | split | dsimp only

theorem State.setTev_keeps {ro : Bool} {z s : State} (h : Keeps ro z s) (n : Nat) (v : TevSt) :
    Keeps ro z (State.setTev s n v) := by
  unfold State.setTev
  repeat' first
    | with_reducible assumption | with_reducible apply keeps_ite | with_reducible apply keeps_foldl
    | with_reducible apply keeps_foldl_snd | intro _ | extract_lets | simp -zeta only [keeps_upd] | split | dsimp only

theorem State.setMemWord_keeps {z s : State} (h : Keeps false z s) (a : Nat) (v : Nat) :
    Keeps false z (State.setMemWord s a v) := by
  unfold State.setMemWord
  repeat' first
    | with_reducible assumption | with_reducible apply State.setMemBytes_keeps | with_reducible apply keeps_ite
    | with_reducible apply keeps_foldl | with_reducible apply keeps_foldl_snd | intro _ | extract_lets
    | simp -zeta only [keeps_upd] | split | dsimp only

end Sys2Proof.Machine
end

