-- ==== Sys2Proof/Laws/KeepsGateBase.lean ====
section
/-! SUPPORT. What the operations of Machine/GateBase.lean keep (Laws/Keeps.lean). -/

namespace Sys2Proof.Machine

theorem State.gcmdOut_keeps {ro : Bool} {z s : State} (h : Keeps ro z s) (n : Nat) (y : Sym) (t : Nat) :
    Keeps ro z (State.gcmdOut s n y t) := by
  unfold State.gcmdOut
  repeat' first
    | with_reducible assumption | with_reducible apply State.emit_keeps | with_reducible apply keeps_ite
    | with_reducible apply keeps_foldl | with_reducible apply keeps_foldl_snd | intro _ | extract_lets
    | simp -zeta only [keeps_upd] | split | dsimp only

theorem State.schedule_keeps {ro : Bool} {z s : State} (h : Keeps ro z s) (n : Nat) (t : Nat) (y : Sym) :
    Keeps ro z (State.schedule s n t y) := by
  unfold State.schedule
  repeat' first
    | with_reducible assumption | with_reducible apply State.setChan_keeps | with_reducible apply State.gcmdOut_keeps
    | with_reducible apply keeps_ite | with_reducible apply keeps_foldl | with_reducible apply keeps_foldl_snd
    | intro _ | extract_lets | simp -zeta only [keeps_upd] | split | dsimp only

theorem State.sendNow_keeps {ro : Bool} {z s : State} (h : Keeps ro z s) (n : Nat) (y : Sym) :
    Keeps ro z (State.sendNow s n y) := by
  unfold State.sendNow
  repeat' first
    | with_reducible assumption | with_reducible apply State.setChan_keeps | with_reducible apply State.gcmdOut_keeps
    | with_reducible apply keeps_ite | with_reducible apply keeps_foldl | with_reducible apply keeps_foldl_snd
    | intro _ | extract_lets | simp -zeta only [keeps_upd] | split | dsimp only

theorem State.offChan_keeps {ro : Bool} {z s : State} (h : Keeps ro z s) (all : Bool) (n : Nat) :
    Keeps ro z (State.offChan s all n) := by
  unfold State.offChan
  repeat' first
    | with_reducible assumption | with_reducible apply State.sendNow_keeps | with_reducible apply keeps_ite
    | with_reducible apply keeps_foldl | with_reducible apply keeps_foldl_snd | intro _ | extract_lets
    | simp -zeta only [keeps_upd] | split | dsimp only

theorem State.updPblk_keeps {ro : Bool} {z s : State} (h : Keeps ro z s)  :
    Keeps ro z (State.updPblk s) := by
  unfold State.updPblk
  repeat' first
    | with_reducible assumption | with_reducible apply State.putB_keeps | with_reducible apply keeps_ite
    | with_reducible apply keeps_foldl | with_reducible apply keeps_foldl_snd | intro _ | extract_lets
    | simp -zeta only [keeps_upd] | split | dsimp only

theorem State.updRefresh_keeps {ro : Bool} {z s : State} (h : Keeps ro z s)  :
    Keeps ro z (State.updRefresh s) := by
  unfold State.updRefresh
  repeat' first
    | with_reducible assumption | with_reducible apply State.putB_keeps | with_reducible apply keeps_ite
    | with_reducible apply keeps_foldl | with_reducible apply keeps_foldl_snd | intro _ | extract_lets
    | simp -zeta only [keeps_upd] | split | dsimp only

theorem State.dropTrim_keeps {ro : Bool} {z s : State} (h : Keeps ro z s)  :
    Keeps ro z (State.dropTrim s) := by
  unfold State.dropTrim
  repeat' first
    | with_reducible assumption | with_reducible apply State.count_keeps | with_reducible apply keeps_ite
    | with_reducible apply keeps_foldl | with_reducible apply keeps_foldl_snd | intro _ | extract_lets
    | simp -zeta only [keeps_upd] | split | dsimp only

theorem State.forceOff_keeps {ro : Bool} {z s : State} (h : Keeps ro z s)  :
    Keeps ro z (State.forceOff s) := by
  unfold State.forceOff
  repeat' first
    | with_reducible assumption | with_reducible apply State.offChan_keeps | with_reducible apply State.dropTrim_keeps
    | with_reducible apply State.put_keeps | with_reducible apply State.updRefresh_keeps
    | with_reducible apply State.updPblk_keeps | with_reducible apply keeps_ite | with_reducible apply keeps_foldl
    | with_reducible apply keeps_foldl_snd | intro _ | extract_lets | simp -zeta only [keeps_upd] | split | dsimp only

theorem State.movePumps_keeps {ro : Bool} {z s : State} (h : Keeps ro z s) (o : State) :
    Keeps ro z (State.movePumps s o) := by
  unfold State.movePumps
  repeat' first
    | with_reducible assumption | with_reducible apply State.emit_keeps | with_reducible apply keeps_ite
    | with_reducible apply keeps_foldl | with_reducible apply keeps_foldl_snd | intro _ | extract_lets
    | simp -zeta only [keeps_upd] | split | dsimp only

theorem State.setDchg_keeps {ro : Bool} {z s : State} (h : Keeps ro z s) (b : Bool) :
    Keeps ro z (State.setDchg s b) := by
  unfold State.setDchg
  repeat' first
    | with_reducible assumption | with_reducible apply State.putB_keeps | with_reducible apply State.emit_keeps
    | with_reducible apply keeps_ite | with_reducible apply keeps_foldl | with_reducible apply keeps_foldl_snd
    | intro _ | extract_lets | simp -zeta only [keeps_upd] | split | dsimp only

end Sys2Proof.Machine
end

