-- ==== Sys2Proof/Laws/KeepsFlags.lean ====
section
/-! SUPPORT. What the operations of Machine/Flags.lean keep (Laws/Keeps.lean). -/

namespace Sys2Proof.Machine

theorem State.stage_keeps {ro : Bool} {z s : State} (h : Keeps ro z s) (r : FbRec) :
    Keeps ro z (State.stage s r) := by
  unfold State.stage
  repeat' first
    | with_reducible assumption | with_reducible apply keeps_ite | with_reducible apply keeps_foldl
    | with_reducible apply keeps_foldl_snd | intro _ | extract_lets | simp -zeta only [keeps_upd] | split | dsimp only

theorem State.endCycle_keeps {ro : Bool} {z s : State} (h : Keeps ro z s)  :
    Keeps ro z (State.endCycle s) := by
  unfold State.endCycle
  repeat' first
    | with_reducible assumption | with_reducible apply keeps_ite | with_reducible apply keeps_foldl
    | with_reducible apply keeps_foldl_snd | intro _ | extract_lets | simp -zeta only [keeps_upd] | split | dsimp only

theorem State.event_keeps {ro : Bool} {z s : State} (h : Keeps ro z s) (code : Nat) (data : Nat) :
    Keeps ro z (State.event s code data) := by
  unfold State.event
  repeat' first
    | with_reducible assumption | with_reducible apply State.stage_keeps | with_reducible apply keeps_ite
    | with_reducible apply keeps_foldl | with_reducible apply keeps_foldl_snd | intro _ | extract_lets
    | simp -zeta only [keeps_upd] | split | dsimp only

theorem State.abortInj_keeps {ro : Bool} {z s : State} (h : Keeps ro z s)  :
    Keeps ro z (State.abortInj s) := by
  unfold State.abortInj
  repeat' first
    | with_reducible assumption | with_reducible apply State.put_keeps | with_reducible apply State.count_keeps
    | with_reducible apply keeps_ite | with_reducible apply keeps_foldl | with_reducible apply keeps_foldl_snd
    | intro _ | extract_lets | simp -zeta only [keeps_upd] | split | dsimp only

theorem State.pairOut_keeps {ro : Bool} {z s : State} (h : Keeps ro z s) (p : Nat) :
    Keeps ro z (State.pairOut s p) := by
  unfold State.pairOut
  repeat' first
    | with_reducible assumption | with_reducible apply State.setLink_keeps | with_reducible apply State.count_keeps
    | with_reducible apply State.emit_keeps | with_reducible apply keeps_ite | with_reducible apply keeps_foldl
    | with_reducible apply keeps_foldl_snd | intro _ | extract_lets | simp -zeta only [keeps_upd] | split | dsimp only

theorem State.ownPair_keeps {ro : Bool} {z s : State} (h : Keeps ro z s) (p : Nat) :
    Keeps ro z (State.ownPair s p) := by
  unfold State.ownPair
  repeat' first
    | with_reducible assumption | with_reducible apply State.setLink_keeps | with_reducible apply State.pairOut_keeps
    | with_reducible apply keeps_ite | with_reducible apply keeps_foldl | with_reducible apply keeps_foldl_snd
    | intro _ | extract_lets | simp -zeta only [keeps_upd] | split | dsimp only

theorem State.sendBlocks_keeps {ro : Bool} {z s : State} (h : Keeps ro z s)  :
    Keeps ro z (State.sendBlocks s) := by
  unfold State.sendBlocks
  repeat' first
    | with_reducible assumption | with_reducible apply State.ownPair_keeps | with_reducible apply keeps_ite
    | with_reducible apply keeps_foldl | with_reducible apply keeps_foldl_snd | intro _ | extract_lets
    | simp -zeta only [keeps_upd] | split | dsimp only

theorem State.mirrorSafe_keeps {ro : Bool} {z s : State} (h : Keeps ro z s)  :
    Keeps ro z (State.mirrorSafe s) := by
  unfold State.mirrorSafe
  repeat' first
    | with_reducible assumption | with_reducible apply State.putB_keeps | with_reducible apply keeps_ite
    | with_reducible apply keeps_foldl | with_reducible apply keeps_foldl_snd | intro _ | extract_lets
    | simp -zeta only [keeps_upd] | split | dsimp only

theorem State.blockDatum_keeps {ro : Bool} {z s : State} (h : Keeps ro z s) (x : Bool) (y : Bool) (cause : Fld) :
    Keeps ro z (State.blockDatum s x y cause) := by
  unfold State.blockDatum
  repeat' first
    | (with_reducible exact fun h => h) | (with_reducible exact fun h => and_left h) | with_reducible assumption
    | with_reducible apply State.put_keeps | with_reducible apply State.count_keeps
    | with_reducible apply State.mirrorSafe_keeps | with_reducible apply State.sendBlocks_keeps
    | with_reducible apply State.abortInj_keeps | with_reducible apply keeps_ite | with_reducible apply keeps_foldl
    | with_reducible apply keeps_foldl_snd | intro _ | extract_lets | simp -zeta only [keeps_upd]
    | with_reducible refine keeps_updSf ?_ _ ?_ ?_ _ _ _ | split | dsimp only

theorem State.blockStake_keeps {ro : Bool} {z s : State} (h : Keeps ro z s) (x : Bool) (y : Bool) (causes : List Fld) :
    Keeps ro z (State.blockStake s x y causes) := by
  unfold State.blockStake
  repeat' first
    | (with_reducible exact fun h => h) | (with_reducible exact fun h => and_left h) | with_reducible assumption
    | with_reducible apply State.put_keeps | with_reducible apply State.mirrorSafe_keeps
    | with_reducible apply State.forceOff_keeps | with_reducible apply keeps_ite | with_reducible apply keeps_foldl
    | with_reducible apply keeps_foldl_snd | intro _ | extract_lets | simp -zeta only [keeps_upd]
    | with_reducible refine keeps_updSf ?_ _ ?_ ?_ _ _ _ | split | dsimp only

theorem State.noteFirst_keeps {ro : Bool} {z s : State} (h : Keeps ro z s) (src : Nat) :
    Keeps ro z (State.noteFirst s src) := by
  unfold State.noteFirst
  repeat' first
    | with_reducible assumption | with_reducible apply State.put_keeps | with_reducible apply keeps_ite
    | with_reducible apply keeps_foldl | with_reducible apply keeps_foldl_snd | intro _ | extract_lets
    | simp -zeta only [keeps_upd] | split | dsimp only

theorem State.blockClass_keeps {ro : Bool} {z s : State} (h : Keeps ro z s) (src : Nat) (cls : Nat) :
    Keeps ro z (State.blockClass s src cls) := by
  unfold State.blockClass
  repeat' first
    | (with_reducible exact fun h => h) | (with_reducible exact fun h => and_left h) | with_reducible assumption
    | with_reducible apply State.noteFirst_keeps | with_reducible apply State.put_keeps
    | with_reducible apply State.blockDatum_keeps | with_reducible apply State.sendBlocks_keeps
    | with_reducible apply State.abortInj_keeps | with_reducible apply State.blockStake_keeps
    | with_reducible apply keeps_ite | with_reducible apply keeps_foldl | with_reducible apply keeps_foldl_snd
    | intro _ | extract_lets | simp -zeta only [keeps_upd] | with_reducible refine keeps_updSf ?_ _ ?_ ?_ _ _ _
    | split | dsimp only

theorem State.drEvent_keeps {ro : Bool} {z s : State} (h : Keeps ro z s)  :
    Keeps ro z (State.drEvent s).2 := by
  unfold State.drEvent
  repeat' first
    | with_reducible assumption | with_reducible apply State.count_keeps | with_reducible apply keeps_ite
    | with_reducible apply keeps_foldl | with_reducible apply keeps_foldl_snd | intro _ | extract_lets
    | simp -zeta only [keeps_upd] | split | dsimp only

theorem State.drFault_keeps {ro : Bool} {z s : State} (h : Keeps ro z s) (src : Nat) (c : Nat) :
    Keeps ro z (State.drFault s src c) := by
  unfold State.drFault
  repeat' first
    | with_reducible assumption | with_reducible apply State.drEvent_keeps | with_reducible apply keeps_ite
    | with_reducible apply keeps_foldl | with_reducible apply keeps_foldl_snd | intro _ | extract_lets
    | simp -zeta only [keeps_upd] | split | dsimp only

theorem State.keepClass_keeps {ro : Bool} {z s : State} (h : Keeps ro z s) (src : Nat) (c : Nat) :
    Keeps ro z (State.keepClass s src c) := by
  unfold State.keepClass
  repeat' first
    | with_reducible assumption | with_reducible apply keeps_ite | with_reducible apply keeps_foldl
    | with_reducible apply keeps_foldl_snd | intro _ | extract_lets | simp -zeta only [keeps_upd] | split | dsimp only

theorem State.assertSrc_keeps {ro : Bool} {z s : State} (h : Keeps ro z s) (src : Nat) (data : Nat) (forced : Bool) :
    Keeps ro z (State.assertSrc s src data forced) := by
  unfold State.assertSrc
  repeat' first
    | with_reducible assumption | with_reducible apply State.keepClass_keeps | with_reducible apply State.put_keeps
    | with_reducible apply State.stage_keeps | with_reducible apply State.emit_keeps
    | with_reducible apply State.drFault_keeps | with_reducible apply State.blockClass_keeps
    | with_reducible apply keeps_ite | with_reducible apply keeps_foldl | with_reducible apply keeps_foldl_snd
    | intro _ | extract_lets | simp -zeta only [keeps_upd] | split | dsimp only

theorem State.raiseWith_keeps {ro : Bool} {z s : State} (h : Keeps ro z s) (src : Nat) (data : Nat) :
    Keeps ro z (State.raiseWith s src data) := by
  unfold State.raiseWith
  repeat' first
    | with_reducible assumption | with_reducible apply State.assertSrc_keeps | with_reducible apply keeps_ite
    | with_reducible apply keeps_foldl | with_reducible apply keeps_foldl_snd | intro _ | extract_lets
    | simp -zeta only [keeps_upd] | split | dsimp only

theorem State.raise_keeps {ro : Bool} {z s : State} (h : Keeps ro z s) (src : Nat) :
    Keeps ro z (State.raise s src) := by
  unfold State.raise
  repeat' first
    | with_reducible assumption | with_reducible apply State.raiseWith_keeps | with_reducible apply keeps_ite
    | with_reducible apply keeps_foldl | with_reducible apply keeps_foldl_snd | intro _ | extract_lets
    | simp -zeta only [keeps_upd] | split | dsimp only

theorem State.raiseAll_keeps {ro : Bool} {z s : State} (h : Keeps ro z s) (srcs : List Nat) :
    Keeps ro z (State.raiseAll s srcs) := by
  unfold State.raiseAll
  repeat' first
    | with_reducible assumption | with_reducible apply State.raise_keeps | with_reducible apply keeps_ite
    | with_reducible apply keeps_foldl | with_reducible apply keeps_foldl_snd | intro _ | extract_lets
    | simp -zeta only [keeps_upd] | split | dsimp only

theorem State.beginAssert_keeps {ro : Bool} {z s : State} (h : Keeps ro z s) (src : Nat) (forced : Bool) :
    Keeps ro z (State.beginAssert s src forced) := by
  unfold State.beginAssert
  repeat' first
    | with_reducible assumption | with_reducible apply State.assertSrc_keeps | with_reducible apply keeps_ite
    | with_reducible apply keeps_foldl | with_reducible apply keeps_foldl_snd | intro _ | extract_lets
    | simp -zeta only [keeps_upd] | split | dsimp only

theorem State.levelOn_keeps {ro : Bool} {z s : State} (h : Keeps ro z s) (src : Nat) :
    Keeps ro z (State.levelOn s src) := by
  unfold State.levelOn
  repeat' first
    | with_reducible assumption | with_reducible apply State.beginAssert_keeps | with_reducible apply keeps_ite
    | with_reducible apply keeps_foldl | with_reducible apply keeps_foldl_snd | intro _ | extract_lets
    | simp -zeta only [keeps_upd] | split | dsimp only

theorem State.settle_keeps {ro : Bool} {z s : State} (h : Keeps ro z s) (src : Nat) :
    Keeps ro z (State.settle s src) := by
  unfold State.settle
  repeat' first
    | with_reducible assumption | with_reducible apply keeps_ite | with_reducible apply keeps_foldl
    | with_reducible apply keeps_foldl_snd | intro _ | extract_lets | simp -zeta only [keeps_upd] | split | dsimp only

theorem State.levelOff_keeps {ro : Bool} {z s : State} (h : Keeps ro z s) (src : Nat) :
    Keeps ro z (State.levelOff s src) := by
  unfold State.levelOff
  repeat' first
    | with_reducible assumption | with_reducible apply State.settle_keeps | with_reducible apply keeps_ite
    | with_reducible apply keeps_foldl | with_reducible apply keeps_foldl_snd | intro _ | extract_lets
    | simp -zeta only [keeps_upd] | split | dsimp only

end Sys2Proof.Machine
end

