-- ==== Sys2Proof/Laws/KeepsStakeSafe.lean ====
section
/-! SUPPORT. What the operations of Machine/StakeSafe.lean keep (Laws/Keeps.lean). -/

namespace Sys2Proof.Machine

theorem State.clearFhold_keeps {ro : Bool} {z s : State} (h : Keeps ro z s)  :
    Keeps ro z (State.clearFhold s) := by
  unfold State.clearFhold
  repeat' first
    | with_reducible assumption | with_reducible apply State.put_keeps | with_reducible apply keeps_ite
    | with_reducible apply keeps_foldl | with_reducible apply keeps_foldl_snd | intro _ | extract_lets
    | simp -zeta only [keeps_upd] | split | dsimp only

theorem State.deblocked_keeps {ro : Bool} {z s : State} (h : Keeps ro z s)  :
    Keeps ro z (State.deblocked s) := by
  unfold State.deblocked
  repeat' first
    | (with_reducible exact fun h => h) | (with_reducible exact fun h => and_left h) | with_reducible assumption
    | with_reducible apply State.clearFhold_keeps | with_reducible apply State.mirrorSafe_keeps
    | with_reducible apply State.put_keeps | with_reducible apply State.count_keeps | with_reducible apply keeps_ite
    | with_reducible apply keeps_foldl | with_reducible apply keeps_foldl_snd | intro _ | extract_lets
    | simp -zeta only [keeps_upd] | with_reducible refine keeps_updSf ?_ _ ?_ ?_ _ _ _ | split | dsimp only

theorem State.tryDeblock_keeps {ro : Bool} {z s : State} (h : Keeps ro z s)  :
    Keeps ro z (State.tryDeblock s) := by
  unfold State.tryDeblock
  split
  · rename_i c
    simp only [Bool.and_eq_true, decide_eq_true_eq] at c
    have hr := c.1.1.1
    extract_lets px py sf1 x1 y1 s1
    have h1 : Keeps ro z s1 := keeps_stakeSf h hr _
    clear_value s1
    split
    · split
      · exact State.deblocked_keeps h1
      · exact State.mirrorSafe_keeps h1
    · exact h
  · exact h

theorem State.seeArmBlocked_keeps {ro : Bool} {z s : State} (h : Keeps ro z s)  :
    Keeps ro z (State.seeArmBlocked s) := by
  unfold State.seeArmBlocked
  repeat' first
    | (with_reducible exact fun h => h) | (with_reducible exact fun h => and_left h) | with_reducible assumption
    | with_reducible apply keeps_ite | with_reducible apply keeps_foldl | with_reducible apply keeps_foldl_snd
    | intro _ | extract_lets | simp -zeta only [keeps_upd] | with_reducible refine keeps_updSf ?_ _ ?_ ?_ _ _ _
    | split | dsimp only

theorem State.takePdu_keeps {ro : Bool} {z s : State} (h : Keeps ro z s) (q : Nat) (y : Bool) (sender : Nat) (p : Pdu) :
    Keeps ro z (State.takePdu s q y sender p).2 := by
  unfold State.takePdu
  repeat' first
    | (with_reducible exact fun h => h) | (with_reducible exact fun h => and_left h) | with_reducible assumption
    | with_reducible apply State.count_keeps | with_reducible apply State.blockStake_keeps
    | with_reducible apply State.raise_keeps | with_reducible apply State.seeArmBlocked_keeps
    | with_reducible apply keeps_ite | with_reducible apply keeps_foldl | with_reducible apply keeps_foldl_snd
    | intro _ | extract_lets | simp -zeta only [keeps_upd] | split | dsimp only
    | with_reducible refine keeps_updSf ?_ _ ?_ ?_ _ _ _

theorem State.safetyRegion_keeps {ro : Bool} {z s : State} (h : Keeps ro z s) (q : Nat) (sof : Nat) (f : Frame) :
    Keeps ro z (State.safetyRegion s q sof f) := by
  unfold State.safetyRegion
  repeat' first
    | (with_reducible exact fun h => h) | (with_reducible exact fun h => and_left h) | with_reducible assumption
    | with_reducible apply State.takePdu_keeps | with_reducible apply State.tryDeblock_keeps
    | with_reducible apply keeps_ite | with_reducible apply keeps_foldl | with_reducible apply keeps_foldl_snd
    | intro _ | extract_lets | simp -zeta only [keeps_upd] | with_reducible refine keeps_updSf ?_ _ ?_ ?_ _ _ _
    | split | dsimp only

theorem State.permitLookback_keeps {ro : Bool} {z s : State} (h : Keeps ro z s)  :
    Keeps ro z (State.permitLookback s) := by
  unfold State.permitLookback
  repeat' first
    | (with_reducible exact fun h => h) | (with_reducible exact fun h => and_left h) | with_reducible assumption
    | with_reducible apply keeps_ite | with_reducible apply keeps_foldl | with_reducible apply keeps_foldl_snd
    | intro _ | extract_lets | simp -zeta only [keeps_upd] | with_reducible refine keeps_updSf ?_ _ ?_ ?_ _ _ _
    | split | dsimp only

end Sys2Proof.Machine
end

