-- ==== Sys2Proof/Laws/KeepsGateOps.lean ====
section
/-! SUPPORT. What the operations of Machine/GateOps.lean keep (Laws/Keeps.lean). -/

namespace Sys2Proof.Machine

theorem State.refuseLeg_keeps {ro : Bool} {z s : State} (h : Keeps ro z s) (n : Nat) :
    Keeps ro z (State.refuseLeg s n) := by
  unfold State.refuseLeg
  repeat' first
    | with_reducible assumption | with_reducible apply State.offChan_keeps | with_reducible apply State.count_keeps
    | with_reducible apply State.raise_keeps | with_reducible apply keeps_ite | with_reducible apply keeps_foldl
    | with_reducible apply keeps_foldl_snd | intro _ | extract_lets | simp -zeta only [keeps_upd] | split | dsimp only

theorem State.turnOn_keeps {ro : Bool} {z s : State} (h : Keeps ro z s) (n : Nat) (t : Nat) :
    Keeps ro z (State.turnOn s n t) := by
  unfold State.turnOn
  repeat' first
    | with_reducible assumption | with_reducible apply State.refuseLeg_keeps
    | with_reducible apply State.schedule_keeps | with_reducible apply keeps_ite | with_reducible apply keeps_foldl
    | with_reducible apply keeps_foldl_snd | intro _ | extract_lets | simp -zeta only [keeps_upd] | split | dsimp only

theorem State.turnOff_keeps {ro : Bool} {z s : State} (h : Keeps ro z s) (n : Nat) (t : Nat) :
    Keeps ro z (State.turnOff s n t) := by
  unfold State.turnOff
  repeat' first
    | with_reducible assumption | with_reducible apply State.schedule_keeps | with_reducible apply keeps_ite
    | with_reducible apply keeps_foldl | with_reducible apply keeps_foldl_snd | intro _ | extract_lets
    | simp -zeta only [keeps_upd] | split | dsimp only

theorem State.makeCell_keeps {ro : Bool} {z s : State} (h : Keeps ro z s) (c : Cell) (t : Nat) :
    Keeps ro z (State.makeCell s c t) := by
  unfold State.makeCell
  repeat' first
    | with_reducible assumption | with_reducible apply State.turnOff_keeps | with_reducible apply State.turnOn_keeps
    | with_reducible apply State.put_keeps | with_reducible apply keeps_ite | with_reducible apply keeps_foldl
    | with_reducible apply keeps_foldl_snd | intro _ | extract_lets | simp -zeta only [keeps_upd] | split | dsimp only

theorem State.countSupp_keeps {ro : Bool} {z s : State} (h : Keeps ro z s) (c : Cell) :
    Keeps ro z (State.countSupp s c) := by
  unfold State.countSupp
  extract_lets a b
  clear_value a b
  split <;> first | exact h | exact State.count_keeps h _

theorem State.changeCell_keeps {ro : Bool} {z s : State} (h : Keeps ro z s) (c : Cell) (t : Nat) (interval : Nat) :
    Keeps ro z (State.changeCell s c t interval).2 := by
  unfold State.changeCell
  repeat' first
    | with_reducible assumption | with_reducible apply State.countSupp_keeps
    | with_reducible apply State.makeCell_keeps | with_reducible apply keeps_ite | with_reducible apply keeps_foldl
    | with_reducible apply keeps_foldl_snd | intro _ | extract_lets | simp -zeta only [keeps_upd] | split | dsimp only

theorem State.tripState_keeps {ro : Bool} {z s : State} (h : Keeps ro z s) (n : Nat) :
    Keeps ro z (State.tripState s n) := by
  unfold State.tripState
  repeat' first
    | with_reducible assumption | with_reducible apply State.used_keeps | with_reducible apply State.put_keeps
    | with_reducible apply State.updPblk_keeps | with_reducible apply State.raise_keeps
    | with_reducible apply keeps_ite | with_reducible apply keeps_foldl | with_reducible apply keeps_foldl_snd
    | intro _ | extract_lets | simp -zeta only [keeps_upd] | split | dsimp only

theorem State.blockAtApply_keeps {ro : Bool} {z s : State} (h : Keeps ro z s)  :
    Keeps ro z (State.blockAtApply s) := by
  unfold State.blockAtApply
  repeat' first
    | with_reducible assumption | with_reducible apply keeps_ite | with_reducible apply keeps_foldl
    | with_reducible apply keeps_foldl_snd | intro _ | extract_lets | simp -zeta only [keeps_upd] | split | dsimp only

theorem State.trip_keeps {ro : Bool} {z s : State} (h : Keeps ro z s) (n : Nat) :
    Keeps ro z (State.trip s n) := by
  unfold State.trip
  repeat' first
    | with_reducible assumption | with_reducible apply State.sendNow_keeps | with_reducible apply State.count_keeps
    | with_reducible apply State.tripState_keeps | with_reducible apply State.blockAtApply_keeps
    | with_reducible apply keeps_ite | with_reducible apply keeps_foldl | with_reducible apply keeps_foldl_snd
    | intro _ | extract_lets | simp -zeta only [keeps_upd] | split | dsimp only

theorem State.feedbackFault_keeps {ro : Bool} {z s : State} (h : Keeps ro z s) (n : Nat) :
    Keeps ro z (State.feedbackFault s n) := by
  unfold State.feedbackFault
  repeat' first
    | with_reducible assumption | with_reducible apply State.sendNow_keeps | with_reducible apply State.count_keeps
    | with_reducible apply State.tripState_keeps | with_reducible apply State.blockAtApply_keeps
    | with_reducible apply State.raise_keeps | with_reducible apply keeps_ite | with_reducible apply keeps_foldl
    | with_reducible apply keeps_foldl_snd | intro _ | extract_lets | simp -zeta only [keeps_upd] | split | dsimp only

theorem State.dueSets_keeps {ro : Bool} {z s : State} (h : Keeps ro z s) (n : Nat) (reg : Nat) :
    Keeps ro z (State.dueSets s n reg) := by
  unfold State.dueSets
  repeat' first
    | with_reducible assumption | with_reducible apply State.setChan_keeps | with_reducible apply keeps_ite
    | with_reducible apply keeps_foldl | with_reducible apply keeps_foldl_snd | intro _ | extract_lets
    | simp -zeta only [keeps_upd] | split | dsimp only

theorem State.initCodes_keeps {ro : Bool} {z s : State} (h : Keeps ro z s) (n : Nat) :
    Keeps ro z (State.initCodes s n) := by
  unfold State.initCodes
  repeat' first
    | with_reducible assumption | with_reducible apply State.put_keeps | with_reducible apply State.dueSets_keeps
    | with_reducible apply keeps_ite | with_reducible apply keeps_foldl | with_reducible apply keeps_foldl_snd
    | intro _ | extract_lets | simp -zeta only [keeps_upd] | split | dsimp only

theorem State.enterNotReady_keeps {ro : Bool} {z s : State} (h : Keeps ro z s) (n : Nat) :
    Keeps ro z (State.enterNotReady s n) := by
  unfold State.enterNotReady
  repeat' first
    | with_reducible assumption | with_reducible apply State.put_keeps | with_reducible apply State.initCodes_keeps
    | with_reducible apply State.setChan_keeps | with_reducible apply State.updPblk_keeps
    | with_reducible apply keeps_ite | with_reducible apply keeps_foldl | with_reducible apply keeps_foldl_snd
    | intro _ | extract_lets | simp -zeta only [keeps_upd] | split | dsimp only

theorem State.manualApply_keeps {ro : Bool} {z s : State} (h : Keeps ro z s) (n : Nat) :
    Keeps ro z (State.manualApply s n) := by
  unfold State.manualApply
  repeat' first
    | with_reducible assumption | with_reducible apply State.turnOn_keeps | with_reducible apply State.sendNow_keeps
    | with_reducible apply keeps_ite | with_reducible apply keeps_foldl | with_reducible apply keeps_foldl_snd
    | intro _ | extract_lets | simp -zeta only [keeps_upd] | split | dsimp only

theorem State.manualLeg_keeps {ro : Bool} {z s : State} (h : Keeps ro z s) (n : Nat) :
    Keeps ro z (State.manualLeg s n) := by
  unfold State.manualLeg
  repeat' first
    | with_reducible assumption | with_reducible apply State.refuseLeg_keeps
    | with_reducible apply State.manualApply_keeps | with_reducible apply keeps_ite | with_reducible apply keeps_foldl
    | with_reducible apply keeps_foldl_snd | intro _ | extract_lets | simp -zeta only [keeps_upd] | split | dsimp only

theorem State.refollow_keeps {ro : Bool} {z s : State} (h : Keeps ro z s)  :
    Keeps ro z (State.refollow s) := by
  unfold State.refollow
  repeat' first
    | with_reducible assumption | with_reducible apply State.manualApply_keeps | with_reducible apply keeps_ite
    | with_reducible apply keeps_foldl | with_reducible apply keeps_foldl_snd | intro _ | extract_lets
    | simp -zeta only [keeps_upd] | split | dsimp only

theorem State.tryReady_keeps {ro : Bool} {z s : State} (h : Keeps ro z s) (n : Nat) :
    Keeps ro z (State.tryReady s n) := by
  unfold State.tryReady
  repeat' first
    | with_reducible assumption | with_reducible apply State.put_keeps | with_reducible apply State.updPblk_keeps
    | with_reducible apply State.refollow_keeps | with_reducible apply keeps_ite | with_reducible apply keeps_foldl
    | with_reducible apply keeps_foldl_snd | intro _ | extract_lets | simp -zeta only [keeps_upd] | split | dsimp only

theorem State.ov1_keeps {ro : Bool} {z s : State} (h : Keeps ro z s) (v : Nat) :
    Keeps ro z (State.ov1 s v) := by
  unfold State.ov1
  repeat' first
    | with_reducible assumption | with_reducible apply State.setDchg_keeps | with_reducible apply State.raise_keeps
    | with_reducible apply keeps_ite | with_reducible apply keeps_foldl | with_reducible apply keeps_foldl_snd
    | intro _ | extract_lets | simp -zeta only [keeps_upd] | split | dsimp only

theorem State.lowerCause_keeps {ro : Bool} {z s : State} (h : Keeps ro z s) (cause : Nat) :
    Keeps ro z (State.lowerCause s cause) := by
  unfold State.lowerCause
  repeat' first
    | with_reducible assumption | with_reducible apply keeps_ite | with_reducible apply keeps_foldl
    | with_reducible apply keeps_foldl_snd | intro _ | extract_lets | simp -zeta only [keeps_upd] | split | dsimp only

theorem State.bypass_keeps {ro : Bool} {z s : State} (h : Keeps ro z s) (cause : Nat) :
    Keeps ro z (State.bypass s cause) := by
  unfold State.bypass
  repeat' first
    | with_reducible assumption | with_reducible apply State.lowerCause_keeps
    | with_reducible apply State.forceOff_keeps | with_reducible apply State.setDchg_keeps
    | with_reducible apply State.put_keeps | with_reducible apply State.raiseWith_keeps
    | with_reducible apply keeps_ite | with_reducible apply keeps_foldl | with_reducible apply keeps_foldl_snd
    | intro _ | extract_lets | simp -zeta only [keeps_upd] | split | dsimp only

theorem State.unuse_keeps {ro : Bool} {z s : State} (h : Keeps ro z s) (n : Nat) :
    Keeps ro z (State.unuse s n) := by
  unfold State.unuse
  repeat' first
    | with_reducible assumption | with_reducible apply State.setChan_keeps | with_reducible apply State.put_keeps
    | with_reducible apply State.emit_keeps | with_reducible apply keeps_ite | with_reducible apply keeps_foldl
    | with_reducible apply keeps_foldl_snd | intro _ | extract_lets | simp -zeta only [keeps_upd] | split | dsimp only

theorem State.topoStrobed_keeps {ro : Bool} {z s : State} (h : Keeps ro z s) (o : State) :
    Keeps ro z (State.topoStrobed s o) := by
  unfold State.topoStrobed
  repeat' first
    | with_reducible assumption | with_reducible apply State.unuse_keeps | with_reducible apply State.forceOff_keeps
    | with_reducible apply keeps_ite | with_reducible apply keeps_foldl | with_reducible apply keeps_foldl_snd
    | intro _ | extract_lets | simp -zeta only [keeps_upd] | split | dsimp only

theorem State.gsStrobed_keeps {ro : Bool} {z s : State} (h : Keeps ro z s) (o : State) :
    Keeps ro z (State.gsStrobed s o) := by
  unfold State.gsStrobed
  repeat' first
    | with_reducible assumption | with_reducible apply State.initCodes_keeps | with_reducible apply State.put_keeps
    | with_reducible apply State.dueSets_keeps | with_reducible apply State.enterNotReady_keeps
    | with_reducible apply State.topoStrobed_keeps | with_reducible apply State.movePumps_keeps
    | with_reducible apply State.forceOff_keeps | with_reducible apply State.updPblk_keeps
    | with_reducible apply State.refollow_keeps | with_reducible apply keeps_ite | with_reducible apply keeps_foldl
    | with_reducible apply keeps_foldl_snd | intro _ | extract_lets | simp -zeta only [keeps_upd] | split | dsimp only

end Sys2Proof.Machine
end

