-- ==== Sys2Proof/Laws/KeepsTwinMsg.lean ====
section
/-! SUPPORT. What the operations of Machine/TwinMsg.lean keep (Laws/Keeps.lean). -/

namespace Sys2Proof.Machine

theorem State.twinFlow_keeps {ro : Bool} {z s : State} (h : Keeps ro z s)  :
    Keeps ro z (State.twinFlow s) := by
  unfold State.twinFlow
  repeat' first
    | with_reducible assumption | with_reducible apply keeps_ite | with_reducible apply keeps_foldl
    | with_reducible apply keeps_foldl_snd | intro _ | extract_lets | simp -zeta only [keeps_upd] | split | dsimp only

theorem State.twinSend_keeps {ro : Bool} {z s : State} (h : Keeps ro z s) (o : Out) :
    Keeps ro z (State.twinSend s o) := by
  unfold State.twinSend
  repeat' first
    | with_reducible assumption | with_reducible apply State.twinFlow_keeps | with_reducible apply State.emit_keeps
    | with_reducible apply keeps_ite | with_reducible apply keeps_foldl | with_reducible apply keeps_foldl_snd
    | intro _ | extract_lets | simp -zeta only [keeps_upd] | split | dsimp only

theorem State.baseSend_keeps {ro : Bool} {z s : State} (h : Keeps ro z s) (d : Nat) (kind : Nat) (payload : List Nat) (o : Out) :
    Keeps ro z (State.baseSend s d kind payload o) := by
  unfold State.baseSend
  repeat' first
    | with_reducible assumption | with_reducible apply State.emit_keeps | with_reducible apply keeps_ite
    | with_reducible apply keeps_foldl | with_reducible apply keeps_foldl_snd | intro _ | extract_lets
    | simp -zeta only [keeps_upd] | split | dsimp only

end Sys2Proof.Machine
end

