-- ==== Sys2Proof/Laws/KeepsTimebase.lean ====
section
/-! SUPPORT. What the operations of Machine/Timebase.lean keep (Laws/Keeps.lean). -/

namespace Sys2Proof.Machine

theorem State.placeFirst_keeps {ro : Bool} {z s : State} (h : Keeps ro z s)  :
    Keeps ro z (State.placeFirst s) := by
  unfold State.placeFirst
  repeat' first
    | with_reducible assumption | with_reducible apply keeps_ite | with_reducible apply keeps_foldl
    | with_reducible apply keeps_foldl_snd | intro _ | extract_lets | simp -zeta only [keeps_upd] | split | dsimp only

theorem State.tickEnable_keeps {ro : Bool} {z s0 : State} (h : Keeps ro z s0)  :
    Keeps ro z (State.tickEnable s0) := by
  unfold State.tickEnable
  repeat' first
    | with_reducible assumption | with_reducible apply State.put_keeps | with_reducible apply State.placeFirst_keeps
    | with_reducible apply keeps_ite | with_reducible apply keeps_foldl | with_reducible apply keeps_foldl_snd
    | intro _ | extract_lets | simp -zeta only [keeps_upd] | split | dsimp only

theorem State.ownTick_keeps {ro : Bool} {z s : State} (h : Keeps ro z s)  :
    Keeps ro z (State.ownTick s) := by
  unfold State.ownTick
  repeat' first
    | with_reducible assumption | with_reducible apply State.placeFirst_keeps | with_reducible apply keeps_ite
    | with_reducible apply keeps_foldl | with_reducible apply keeps_foldl_snd | intro _ | extract_lets
    | simp -zeta only [keeps_upd] | split | dsimp only

theorem State.tickStop_keeps {ro : Bool} {z s : State} (h : Keeps ro z s)  :
    Keeps ro z (State.tickStop s) := by
  unfold State.tickStop
  repeat' first
    | with_reducible assumption | with_reducible apply State.put_keeps | with_reducible apply State.sendBlocks_keeps
    | with_reducible apply keeps_ite | with_reducible apply keeps_foldl | with_reducible apply keeps_foldl_snd
    | intro _ | extract_lets | simp -zeta only [keeps_upd] | split | dsimp only

theorem State.tickDisable_keeps {ro : Bool} {z s : State} (h : Keeps ro z s)  :
    Keeps ro z (State.tickDisable s) := by
  unfold State.tickDisable
  repeat' first
    | with_reducible assumption | with_reducible apply State.tickStop_keeps | with_reducible apply keeps_ite
    | with_reducible apply keeps_foldl | with_reducible apply keeps_foldl_snd | intro _ | extract_lets
    | simp -zeta only [keeps_upd] | split | dsimp only

theorem State.placeNext_keeps {ro : Bool} {z s : State} (h : Keeps ro z s)  :
    Keeps ro z (State.placeNext s) := by
  unfold State.placeNext
  repeat' first
    | with_reducible assumption | with_reducible apply keeps_ite | with_reducible apply keeps_foldl
    | with_reducible apply keeps_foldl_snd | intro _ | extract_lets | simp -zeta only [keeps_upd] | split | dsimp only

theorem State.changeGrid_keeps {ro : Bool} {z s : State} (h : Keeps ro z s) (period : Nat) (anchor : Option (Nat × Nat × Nat)) (here : Bool) :
    Keeps ro z (State.changeGrid s period anchor here) := by
  unfold State.changeGrid
  repeat' first
    | with_reducible assumption | with_reducible apply State.placeNext_keeps | with_reducible apply keeps_ite
    | with_reducible apply keeps_foldl | with_reducible apply keeps_foldl_snd | intro _ | extract_lets
    | simp -zeta only [keeps_upd] | split | dsimp only

theorem State.tickChange_keeps {ro : Bool} {z s : State} (h : Keeps ro z s) (o : State) :
    Keeps ro z (State.tickChange s o) := by
  unfold State.tickChange
  repeat' first
    | with_reducible assumption | with_reducible apply State.changeGrid_keeps | with_reducible apply keeps_ite
    | with_reducible apply keeps_foldl | with_reducible apply keeps_foldl_snd | intro _ | extract_lets
    | simp -zeta only [keeps_upd] | split | dsimp only

theorem State.tevTick_keeps {ro : Bool} {z s : State} (h : Keeps ro z s)  :
    Keeps ro z (State.tevTick s) := by
  unfold State.tevTick
  repeat' first
    | with_reducible assumption | with_reducible apply keeps_ite | with_reducible apply keeps_foldl
    | with_reducible apply keeps_foldl_snd | intro _ | extract_lets | simp -zeta only [keeps_upd] | split | dsimp only

theorem State.tickBegin_keeps {ro : Bool} {z s0 : State} (h : Keeps ro z s0)  :
    Keeps ro z (State.tickBegin s0) := by
  unfold State.tickBegin
  repeat' first
    | with_reducible assumption | with_reducible apply State.advance_keeps | with_reducible apply State.tickStop_keeps
    | with_reducible apply State.placeNext_keeps | with_reducible apply State.tevTick_keeps
    | with_reducible apply keeps_ite | with_reducible apply keeps_foldl | with_reducible apply keeps_foldl_snd
    | intro _ | extract_lets | simp -zeta only [keeps_upd] | split | dsimp only

theorem State.loseLock_keeps {ro : Bool} {z s : State} (h : Keeps ro z s)  :
    Keeps ro z (State.loseLock s) := by
  unfold State.loseLock
  repeat' first
    | with_reducible assumption | with_reducible apply State.put_keeps | with_reducible apply State.raise_keeps
    | with_reducible apply State.blockStake_keeps | with_reducible apply keeps_ite | with_reducible apply keeps_foldl
    | with_reducible apply keeps_foldl_snd | intro _ | extract_lets | simp -zeta only [keeps_upd] | split | dsimp only

theorem State.rejectComma_keeps {ro : Bool} {z s : State} (h : Keeps ro z s)  :
    Keeps ro z (State.rejectComma s) := by
  unfold State.rejectComma
  repeat' first
    | with_reducible assumption | with_reducible apply State.count_keeps | with_reducible apply keeps_ite
    | with_reducible apply keeps_foldl | with_reducible apply keeps_foldl_snd | intro _ | extract_lets
    | simp -zeta only [keeps_upd] | split | dsimp only

theorem State.countedStart_keeps {ro : Bool} {z s : State} (h : Keeps ro z s)  :
    Keeps ro z (State.countedStart s) := by
  unfold State.countedStart
  repeat' first
    | with_reducible assumption | with_reducible apply keeps_ite | with_reducible apply keeps_foldl
    | with_reducible apply keeps_foldl_snd | intro _ | extract_lets | simp -zeta only [keeps_upd] | split | dsimp only

theorem State.setStakeTime_keeps {ro : Bool} {z s : State} (h : Keeps ro z s)  :
    Keeps ro z (State.setStakeTime s) := by
  unfold State.setStakeTime
  repeat' first
    | with_reducible assumption | with_reducible apply State.countedStart_keeps | with_reducible apply keeps_ite
    | with_reducible apply keeps_foldl | with_reducible apply keeps_foldl_snd | intro _ | extract_lets
    | simp -zeta only [keeps_upd] | split | dsimp only

theorem State.tevPast_keeps {ro : Bool} {z s : State} (h : Keeps ro z s) (rs : Nat) (at' : Nat) :
    Keeps ro z (State.tevPast s rs at') := by
  unfold State.tevPast
  repeat' first
    | with_reducible assumption | with_reducible apply State.setTev_keeps | with_reducible apply keeps_ite
    | with_reducible apply keeps_foldl | with_reducible apply keeps_foldl_snd | intro _ | extract_lets
    | simp -zeta only [keeps_upd] | split | dsimp only

theorem State.turnTick_keeps {ro : Bool} {z s : State} (h : Keeps ro z s) (k : Nat) :
    Keeps ro z (State.turnTick s k) := by
  unfold State.turnTick
  repeat' first
    | with_reducible assumption | with_reducible apply keeps_ite | with_reducible apply keeps_foldl
    | with_reducible apply keeps_foldl_snd | intro _ | extract_lets | simp -zeta only [keeps_upd] | split | dsimp only

theorem State.moveTick_keeps {ro : Bool} {z s0 : State} (h : Keeps ro z s0) (at' : Nat) (rs : Nat) (tick : Nat) :
    Keeps ro z (State.moveTick s0 at' rs tick) := by
  unfold State.moveTick
  repeat' first
    | with_reducible assumption | with_reducible apply State.turnTick_keeps
    | with_reducible apply State.setStakeTime_keeps | with_reducible apply State.tevPast_keeps
    | with_reducible apply keeps_ite | with_reducible apply keeps_foldl | with_reducible apply keeps_foldl_snd
    | intro _ | extract_lets | simp -zeta only [keeps_upd] | split | dsimp only

theorem State.acquire_keeps {ro : Bool} {z s : State} (h : Keeps ro z s) (at' : Nat) (rs : Nat) (tick : Nat) :
    Keeps ro z (State.acquire s at' rs tick) := by
  unfold State.acquire
  repeat' first
    | with_reducible assumption | with_reducible apply State.put_keeps | with_reducible apply State.moveTick_keeps
    | with_reducible apply keeps_ite | with_reducible apply keeps_foldl | with_reducible apply keeps_foldl_snd
    | intro _ | extract_lets | simp -zeta only [keeps_upd] | split | dsimp only

theorem State.regularComma_keeps {ro : Bool} {z s : State} (h : Keeps ro z s) (rs : Nat) (tick : Nat) :
    Keeps ro z (State.regularComma s rs tick) := by
  unfold State.regularComma
  repeat' first
    | with_reducible assumption | with_reducible apply State.rejectComma_keeps | with_reducible apply keeps_ite
    | with_reducible apply keeps_foldl | with_reducible apply keeps_foldl_snd | intro _ | extract_lets
    | simp -zeta only [keeps_upd] | split | dsimp only

theorem State.noteMark_keeps {ro : Bool} {z s : State} (h : Keeps ro z s) (at' : Nat) :
    Keeps ro z (State.noteMark s at') := by
  unfold State.noteMark
  repeat' first
    | with_reducible assumption | with_reducible apply keeps_ite | with_reducible apply keeps_foldl
    | with_reducible apply keeps_foldl_snd | intro _ | extract_lets | simp -zeta only [keeps_upd] | split | dsimp only

theorem State.markComma_keeps {ro : Bool} {z s : State} (h : Keeps ro z s) (at' : Nat) (rs : Nat) (tick : Nat) :
    Keeps ro z (State.markComma s at' rs tick) := by
  unfold State.markComma
  repeat' first
    | with_reducible assumption | with_reducible apply State.moveTick_keeps
    | with_reducible apply State.noteMark_keeps | with_reducible apply keeps_ite | with_reducible apply keeps_foldl
    | with_reducible apply keeps_foldl_snd | intro _ | extract_lets | simp -zeta only [keeps_upd] | split | dsimp only

theorem State.lockOnMark_keeps {ro : Bool} {z s : State} (h : Keeps ro z s) (at' : Nat) (rs : Nat) (tick : Nat) :
    Keeps ro z (State.lockOnMark s at' rs tick) := by
  unfold State.lockOnMark
  repeat' first
    | with_reducible assumption | with_reducible apply State.acquire_keeps | with_reducible apply State.noteMark_keeps
    | with_reducible apply keeps_ite | with_reducible apply keeps_foldl | with_reducible apply keeps_foldl_snd
    | intro _ | extract_lets | simp -zeta only [keeps_upd] | split | dsimp only

theorem State.markedPeriod_keeps {ro : Bool} {z s : State} (h : Keeps ro z s) (r0 : Nat) (k0 : Nat) (at' : Nat) (rs : Nat) (tick : Nat) :
    Keeps ro z (State.markedPeriod s r0 k0 at' rs tick) := by
  unfold State.markedPeriod
  repeat' first
    | with_reducible assumption | with_reducible apply State.lockOnMark_keeps
    | with_reducible apply State.markComma_keeps | with_reducible apply State.count_keeps
    | with_reducible apply State.loseLock_keeps | with_reducible apply keeps_ite | with_reducible apply keeps_foldl
    | with_reducible apply keeps_foldl_snd | intro _ | extract_lets | simp -zeta only [keeps_upd] | split | dsimp only

theorem State.lockedMark_keeps {ro : Bool} {z s : State} (h : Keeps ro z s) (at' : Nat) (rs : Nat) (tick : Nat) :
    Keeps ro z (State.lockedMark s at' rs tick) := by
  unfold State.lockedMark
  repeat' first
    | with_reducible assumption | with_reducible apply State.markedPeriod_keeps
    | with_reducible apply State.markComma_keeps | with_reducible apply keeps_ite | with_reducible apply keeps_foldl
    | with_reducible apply keeps_foldl_snd | intro _ | extract_lets | simp -zeta only [keeps_upd] | split | dsimp only

theorem State.periodComma_keeps {ro : Bool} {z s : State} (h : Keeps ro z s) (r0 : Nat) (k0 : Nat) (at' : Nat) (rs : Nat) (tick : Nat) :
    Keeps ro z (State.periodComma s r0 k0 at' rs tick) := by
  unfold State.periodComma
  repeat' first
    | with_reducible assumption | with_reducible apply State.lockOnMark_keeps
    | with_reducible apply State.moveTick_keeps | with_reducible apply State.count_keeps
    | with_reducible apply State.loseLock_keeps | with_reducible apply State.rejectComma_keeps
    | with_reducible apply keeps_ite | with_reducible apply keeps_foldl | with_reducible apply keeps_foldl_snd
    | intro _ | extract_lets | simp -zeta only [keeps_upd] | split | dsimp only

theorem State.lockedComma_keeps {ro : Bool} {z s : State} (h : Keeps ro z s) (at' : Nat) (rs : Nat) (tick : Nat) :
    Keeps ro z (State.lockedComma s at' rs tick) := by
  unfold State.lockedComma
  repeat' first
    | with_reducible assumption | with_reducible apply State.periodComma_keeps
    | with_reducible apply State.regularComma_keeps | with_reducible apply keeps_ite
    | with_reducible apply keeps_foldl | with_reducible apply keeps_foldl_snd | intro _ | extract_lets
    | simp -zeta only [keeps_upd] | split | dsimp only

theorem State.freeComma_keeps {ro : Bool} {z s : State} (h : Keeps ro z s) (at' : Nat) (rs : Nat) (tick : Nat) :
    Keeps ro z (State.freeComma s at' rs tick) := by
  unfold State.freeComma
  extract_lets m wait
  have hw : Keeps ro z wait := (keeps_upd (t := s) ..).2 h
  clear_value wait
  split
  · split
    · exact State.acquire_keeps ((keeps_upd (t := s) ..).2 h) _ _ _
    · exact hw
  · exact hw

theorem State.comma_keeps {ro : Bool} {z s : State} (h : Keeps ro z s) (at' : Nat) (tick : Nat) (ok : Bool) :
    Keeps ro z (State.comma s at' tick ok) := by
  unfold State.comma
  repeat' first
    | with_reducible assumption | with_reducible apply State.rejectComma_keeps
    | with_reducible apply State.lockedMark_keeps | with_reducible apply State.lockedComma_keeps
    | with_reducible apply State.lockOnMark_keeps | with_reducible apply State.freeComma_keeps
    | with_reducible apply keeps_ite | with_reducible apply keeps_foldl | with_reducible apply keeps_foldl_snd
    | intro _ | extract_lets | simp -zeta only [keeps_upd] | split | dsimp only

theorem State.predictTick_keeps {ro : Bool} {z s0 : State} (h : Keeps ro z s0)  :
    Keeps ro z (State.predictTick s0) := by
  unfold State.predictTick
  repeat' first
    | with_reducible assumption | with_reducible apply State.advance_keeps | with_reducible apply State.count_keeps
    | with_reducible apply State.turnTick_keeps | with_reducible apply State.setStakeTime_keeps
    | with_reducible apply keeps_ite | with_reducible apply keeps_foldl | with_reducible apply keeps_foldl_snd
    | intro _ | extract_lets | simp -zeta only [keeps_upd] | split | dsimp only

theorem State.announceTime_keeps {ro : Bool} {z s : State} (h : Keeps ro z s) (sec : Nat) (ns : Nat) (frac : Nat) (tick : Nat) :
    Keeps ro z (State.announceTime s sec ns frac tick) := by
  unfold State.announceTime
  repeat' first
    | with_reducible assumption | with_reducible apply State.put_keeps | with_reducible apply keeps_ite
    | with_reducible apply keeps_foldl | with_reducible apply keeps_foldl_snd | intro _ | extract_lets
    | simp -zeta only [keeps_upd] | split | dsimp only

theorem State.setShadow_keeps {ro : Bool} {z s : State} (h : Keeps ro z s) (f : Fld) (v : Nat) :
    Keeps ro z (State.setShadow s f v) := by
  unfold State.setShadow
  repeat' first
    | with_reducible assumption | with_reducible apply State.putShadow_keeps | with_reducible apply keeps_ite
    | with_reducible apply keeps_foldl | with_reducible apply keeps_foldl_snd | intro _ | extract_lets
    | simp -zeta only [keeps_upd] | split | dsimp only

theorem wrStep_keeps {ro : Bool} {z s : State} (h : Keeps ro z s)  :
    Keeps ro z (wrStep s).2 := by
  unfold wrStep
  repeat' first
    | with_reducible assumption | with_reducible apply keeps_ite | with_reducible apply keeps_foldl
    | with_reducible apply keeps_foldl_snd | intro _ | extract_lets | simp -zeta only [keeps_upd] | split | dsimp only

theorem State.applyTrim_keeps {ro : Bool} {z s : State} (h : Keeps ro z s)  :
    Keeps ro z (State.applyTrim s) := by
  unfold State.applyTrim
  repeat' first
    | with_reducible assumption | with_reducible apply State.putB_keeps | with_reducible apply keeps_ite
    | with_reducible apply keeps_foldl | with_reducible apply keeps_foldl_snd | intro _ | extract_lets
    | simp -zeta only [keeps_upd] | split | dsimp only

theorem State.correction_keeps {ro : Bool} {z s : State} (h : Keeps ro z s) (src : Nat) :
    Keeps ro z (State.correction s src) := by
  unfold State.correction
  repeat' first
    | with_reducible assumption | with_reducible apply State.put_keeps | with_reducible apply keeps_ite
    | with_reducible apply keeps_foldl | with_reducible apply keeps_foldl_snd | intro _ | extract_lets
    | simp -zeta only [keeps_upd] | split | dsimp only

theorem wrFtrim_keeps {ro : Bool} {z s : State} (h : Keeps ro z s) (v : Nat) :
    Keeps ro z (wrFtrim v s).2 := by
  unfold wrFtrim
  repeat' first
    | with_reducible assumption | with_reducible apply State.put_keeps | with_reducible apply State.applyTrim_keeps
    | with_reducible apply State.correction_keeps | with_reducible apply keeps_ite | with_reducible apply keeps_foldl
    | with_reducible apply keeps_foldl_snd | intro _ | extract_lets | simp -zeta only [keeps_upd] | split | dsimp only

theorem State.tout_keeps {ro : Bool} {z s : State} (h : Keeps ro z s) (n : Nat) (pulse : Bool) :
    Keeps ro z (State.tout s n pulse) := by
  unfold State.tout
  repeat' first
    | with_reducible assumption | with_reducible apply State.emit_keeps | with_reducible apply keeps_ite
    | with_reducible apply keeps_foldl | with_reducible apply keeps_foldl_snd | intro _ | extract_lets
    | simp -zeta only [keeps_upd] | split | dsimp only

theorem State.tevArm_keeps {ro : Bool} {z s : State} (h : Keeps ro z s) (o : State) (n : Nat) :
    Keeps ro z (State.tevArm s o n) := by
  unfold State.tevArm
  repeat' first
    | with_reducible assumption | with_reducible apply State.setTev_keeps | with_reducible apply State.put_keeps
    | with_reducible apply keeps_ite | with_reducible apply keeps_foldl | with_reducible apply keeps_foldl_snd
    | intro _ | extract_lets | simp -zeta only [keeps_upd] | split | dsimp only

theorem State.toutMove_keeps {ro : Bool} {z s : State} (h : Keeps ro z s) (o : State) (n : Nat) :
    Keeps ro z (State.toutMove s o n) := by
  unfold State.toutMove
  repeat' first
    | with_reducible assumption | with_reducible apply State.tout_keeps | with_reducible apply keeps_ite
    | with_reducible apply keeps_foldl | with_reducible apply keeps_foldl_snd | intro _ | extract_lets
    | simp -zeta only [keeps_upd] | split | dsimp only

theorem State.tbStrobed_keeps {ro : Bool} {z s : State} (h : Keeps ro z s) (o : State) :
    Keeps ro z (State.tbStrobed s o) := by
  unfold State.tbStrobed
  repeat' first
    | with_reducible assumption | with_reducible apply State.tickEnable_keeps
    | with_reducible apply State.tickDisable_keeps | with_reducible apply State.tickChange_keeps
    | with_reducible apply State.tevArm_keeps | with_reducible apply State.toutMove_keeps
    | with_reducible apply keeps_ite | with_reducible apply keeps_foldl | with_reducible apply keeps_foldl_snd
    | intro _ | extract_lets | simp -zeta only [keeps_upd] | split | dsimp only

end Sys2Proof.Machine
end

