-- ==== Sys2Proof/Laws/KeepsLink.lean ====
section
/-! SUPPORT. What the operations of Machine/Link.lean keep (Laws/Keeps.lean). -/

namespace Sys2Proof.Machine

theorem State.sendSet_keeps {ro : Bool} {z s : State} (h : Keeps ro z s) (l : Nat) (n : Nat) (o : Out) :
    Keeps ro z (State.sendSet s l n o) := by
  unfold State.sendSet
  repeat' first
    | with_reducible assumption | with_reducible apply State.setLink_keeps | with_reducible apply State.emit_keeps
    | with_reducible apply keeps_ite | with_reducible apply keeps_foldl | with_reducible apply keeps_foldl_snd
    | intro _ | extract_lets | simp -zeta only [keeps_upd] | split | dsimp only

theorem State.sendCap_keeps {ro : Bool} {z s : State} (h : Keeps ro z s) (l : Nat) (ansReq : Bool) :
    Keeps ro z (State.sendCap s l ansReq) := by
  unfold State.sendCap
  repeat' first
    | with_reducible assumption | with_reducible apply State.setLink_keeps | with_reducible apply State.sendSet_keeps
    | with_reducible apply keeps_ite | with_reducible apply keeps_foldl | with_reducible apply keeps_foldl_snd
    | intro _ | extract_lets | simp -zeta only [keeps_upd] | split | dsimp only

theorem State.capNews_keeps {ro : Bool} {z s : State} (h : Keeps ro z s)  :
    Keeps ro z (State.capNews s) := by
  unfold State.capNews
  repeat' first
    | with_reducible assumption | with_reducible apply State.sendCap_keeps | with_reducible apply keeps_ite
    | with_reducible apply keeps_foldl | with_reducible apply keeps_foldl_snd | intro _ | extract_lets
    | simp -zeta only [keeps_upd] | split | dsimp only

theorem State.sendDm_keeps {ro : Bool} {z s : State} (h : Keeps ro z s) (l : Nat) :
    Keeps ro z (State.sendDm s l) := by
  unfold State.sendDm
  repeat' first
    | with_reducible assumption | with_reducible apply State.sendSet_keeps | with_reducible apply keeps_ite
    | with_reducible apply keeps_foldl | with_reducible apply keeps_foldl_snd | intro _ | extract_lets
    | simp -zeta only [keeps_upd] | split | dsimp only

theorem State.showTx_keeps {ro : Bool} {z s : State} (h : Keeps ro z s) (l : Nat) :
    Keeps ro z (State.showTx s l) := by
  unfold State.showTx
  repeat' first
    | with_reducible assumption | with_reducible apply State.setLink_keeps | with_reducible apply State.emit_keeps
    | with_reducible apply keeps_ite | with_reducible apply keeps_foldl | with_reducible apply keeps_foldl_snd
    | intro _ | extract_lets | simp -zeta only [keeps_upd] | split | dsimp only

theorem State.releaseHeld_keeps {ro : Bool} {z s : State} (h : Keeps ro z s) (o : Nat) :
    Keeps ro z (State.releaseHeld s o) := by
  unfold State.releaseHeld
  repeat' first
    | with_reducible assumption | with_reducible apply State.pairOut_keeps | with_reducible apply State.setLink_keeps
    | with_reducible apply keeps_ite | with_reducible apply keeps_foldl | with_reducible apply keeps_foldl_snd
    | with_reducible apply keeps_iter | intro _ | extract_lets | simp -zeta only [keeps_upd] | split | dsimp only

theorem State.breakFrame_keeps {ro : Bool} {z s : State} (h : Keeps ro z s) (q : Nat) (inFrame : Bool) :
    Keeps ro z (State.breakFrame s q inFrame) := by
  unfold State.breakFrame
  repeat' first
    | with_reducible assumption | with_reducible apply State.emit_keeps | with_reducible apply State.releaseHeld_keeps
    | with_reducible apply keeps_ite | with_reducible apply keeps_foldl | with_reducible apply keeps_foldl_snd
    | intro _ | extract_lets | simp -zeta only [keeps_upd] | split | dsimp only

theorem State.updTiming_keeps {ro : Bool} {z s : State} (h : Keeps ro z s)  :
    Keeps ro z (State.updTiming s) := by
  unfold State.updTiming
  repeat' first
    | with_reducible assumption | with_reducible apply keeps_ite | with_reducible apply keeps_foldl
    | with_reducible apply keeps_foldl_snd | intro _ | extract_lets | simp -zeta only [keeps_upd] | split | dsimp only

theorem State.uncache_keeps {ro : Bool} {z s : State} (h : Keeps ro z s) (l : Nat) :
    Keeps ro z (State.uncache s l) := by
  unfold State.uncache
  repeat' first
    | with_reducible assumption | with_reducible apply State.setLink_keeps | with_reducible apply State.put_keeps
    | with_reducible apply keeps_ite | with_reducible apply keeps_foldl | with_reducible apply keeps_foldl_snd
    | intro _ | extract_lets | simp -zeta only [keeps_upd] | split | dsimp only

theorem State.enterLink_keeps {ro : Bool} {z s : State} (h : Keeps ro z s) (l : Nat) :
    Keeps ro z (State.enterLink s l) := by
  unfold State.enterLink
  repeat' first
    | with_reducible assumption | with_reducible apply State.setLink_keeps | with_reducible apply State.sendCap_keeps
    | with_reducible apply State.sendDm_keeps | with_reducible apply State.put_keeps | with_reducible apply keeps_ite
    | with_reducible apply keeps_foldl | with_reducible apply keeps_foldl_snd | intro _ | extract_lets
    | simp -zeta only [keeps_upd] | split | dsimp only

theorem State.measureHop_keeps {ro : Bool} {z s : State} (h : Keeps ro z s) (o : Nat) :
    Keeps ro z (State.measureHop s o) := by
  unfold State.measureHop
  repeat' first
    | with_reducible assumption | with_reducible apply State.put_keeps | with_reducible apply State.used_keeps
    | with_reducible apply keeps_ite | with_reducible apply keeps_foldl | with_reducible apply keeps_foldl_snd
    | intro _ | extract_lets | simp -zeta only [keeps_upd] | split | dsimp only

theorem State.refill_keeps {ro : Bool} {z s : State} (h : Keeps ro z s) (q : Nat) :
    Keeps ro z (State.refill s q) := by
  unfold State.refill
  repeat' first
    | with_reducible assumption | with_reducible apply State.measureHop_keeps | with_reducible apply keeps_ite
    | with_reducible apply keeps_foldl | with_reducible apply keeps_foldl_snd | intro _ | extract_lets
    | simp -zeta only [keeps_upd] | split | dsimp only

theorem State.quitTest_keeps {ro : Bool} {z s : State} (h : Keeps ro z s) (l : Nat) :
    Keeps ro z (State.quitTest s l) := by
  unfold State.quitTest
  repeat' first
    | with_reducible assumption | with_reducible apply State.setLink_keeps | with_reducible apply State.put_keeps
    | with_reducible apply keeps_ite | with_reducible apply keeps_foldl | with_reducible apply keeps_foldl_snd
    | intro _ | extract_lets | simp -zeta only [keeps_upd] | split | dsimp only

theorem State.goLink_keeps {ro : Bool} {z s : State} (h : Keeps ro z s) (l : Nat) (new : Nat) (causes : List Fld) :
    Keeps ro z (State.goLink s l new causes) := by
  unfold State.goLink
  repeat' first
    | with_reducible assumption | with_reducible apply State.put_keeps | with_reducible apply State.quitTest_keeps
    | with_reducible apply State.showTx_keeps | with_reducible apply State.count_keeps
    | with_reducible apply State.setLink_keeps | with_reducible apply State.uncache_keeps
    | with_reducible apply State.refill_keeps | with_reducible apply State.enterLink_keeps
    | with_reducible apply State.updTiming_keeps | with_reducible apply State.ownTick_keeps
    | with_reducible apply State.raise_keeps | with_reducible apply keeps_ite | with_reducible apply keeps_foldl
    | with_reducible apply keeps_foldl_snd | intro _ | extract_lets | simp -zeta only [keeps_upd] | split | dsimp only

theorem State.leaveActive_keeps {ro : Bool} {z s : State} (h : Keeps ro z s) (l : Nat) (changed : Bool) :
    Keeps ro z (State.leaveActive s l changed) := by
  unfold State.leaveActive
  repeat' first
    | with_reducible assumption | with_reducible apply State.goLink_keeps | with_reducible apply keeps_ite
    | with_reducible apply keeps_foldl | with_reducible apply keeps_foldl_snd | intro _ | extract_lets
    | simp -zeta only [keeps_upd] | split | dsimp only

theorem State.updLbyp_keeps {ro : Bool} {z s : State} (h : Keeps ro z s) (p : Nat) :
    Keeps ro z (State.updLbyp s p) := by
  unfold State.updLbyp
  repeat' first
    | with_reducible assumption | with_reducible apply State.putB_keeps | with_reducible apply State.emit_keeps
    | with_reducible apply keeps_ite | with_reducible apply keeps_foldl | with_reducible apply keeps_foldl_snd
    | intro _ | extract_lets | simp -zeta only [keeps_upd] | split | dsimp only

theorem State.linkStrobed_keeps {ro : Bool} {z s : State} (h : Keeps ro z s) (l : Nat) :
    Keeps ro z (State.linkStrobed s l) := by
  unfold State.linkStrobed
  repeat' first
    | with_reducible assumption | with_reducible apply State.uncache_keeps | with_reducible apply State.goLink_keeps
    | with_reducible apply State.raise_keeps | with_reducible apply State.showTx_keeps
    | with_reducible apply State.sendCap_keeps | with_reducible apply State.put_keeps
    | with_reducible apply State.updLbyp_keeps | with_reducible apply keeps_ite | with_reducible apply keeps_foldl
    | with_reducible apply keeps_foldl_snd | intro _ | extract_lets | simp -zeta only [keeps_upd] | split | dsimp only

theorem State.notePartner_keeps {ro : Bool} {z s : State} (h : Keeps ro z s) (l : Nat) (c : Cap) :
    Keeps ro z (State.notePartner s l c) := by
  unfold State.notePartner
  repeat' first
    | with_reducible assumption | with_reducible apply State.put_keeps | with_reducible apply keeps_ite
    | with_reducible apply keeps_foldl | with_reducible apply keeps_foldl_snd | intro _ | extract_lets
    | simp -zeta only [keeps_upd] | split | dsimp only

theorem State.ackCap_keeps {ro : Bool} {z s : State} (h : Keeps ro z s) (l : Nat) :
    Keeps ro z (State.ackCap s l) := by
  unfold State.ackCap
  repeat' first
    | with_reducible assumption | with_reducible apply State.setLink_keeps | with_reducible apply State.sendCap_keeps
    | with_reducible apply keeps_ite | with_reducible apply keeps_foldl | with_reducible apply keeps_foldl_snd
    | intro _ | extract_lets | simp -zeta only [keeps_upd] | split | dsimp only

theorem State.capInCapx_keeps {ro : Bool} {z s : State} (h : Keeps ro z s) (l : Nat) (c : Cap) (same : Bool) :
    Keeps ro z (State.capInCapx s l c same) := by
  unfold State.capInCapx
  repeat' first
    | with_reducible assumption | with_reducible apply State.goLink_keeps | with_reducible apply State.setLink_keeps
    | with_reducible apply State.put_keeps | with_reducible apply State.ackCap_keeps | with_reducible apply keeps_ite
    | with_reducible apply keeps_foldl | with_reducible apply keeps_foldl_snd | intro _ | extract_lets
    | simp -zeta only [keeps_upd] | split | dsimp only

theorem State.farEnd_keeps {ro : Bool} {z s : State} (h : Keeps ro z s) (l : Nat) (c : Cap) :
    Keeps ro z (State.farEnd s l c) := by
  unfold State.farEnd
  repeat' first
    | with_reducible assumption | with_reducible apply State.goLink_keeps | with_reducible apply State.setLink_keeps
    | with_reducible apply State.showTx_keeps | with_reducible apply State.sendCap_keeps
    | with_reducible apply keeps_ite | with_reducible apply keeps_foldl | with_reducible apply keeps_foldl_snd
    | intro _ | extract_lets | simp -zeta only [keeps_upd] | split | dsimp only

theorem State.capInActive_keeps {ro : Bool} {z s : State} (h : Keeps ro z s) (l : Nat) (c : Cap) :
    Keeps ro z (State.capInActive s l c) := by
  unfold State.capInActive
  repeat' first
    | with_reducible assumption | with_reducible apply State.goLink_keeps
    | with_reducible apply State.leaveActive_keeps | with_reducible apply State.sendCap_keeps
    | with_reducible apply keeps_ite | with_reducible apply keeps_foldl | with_reducible apply keeps_foldl_snd
    | intro _ | extract_lets | simp -zeta only [keeps_upd] | split | dsimp only

theorem State.delayDone_keeps {ro : Bool} {z s : State} (h : Keeps ro z s) (l : Nat) :
    Keeps ro z (State.delayDone s l) := by
  unfold State.delayDone
  repeat' first
    | with_reducible assumption | with_reducible apply State.setLink_keeps | with_reducible apply State.sendDm_keeps
    | with_reducible apply State.put_keeps | with_reducible apply State.goLink_keeps | with_reducible apply keeps_ite
    | with_reducible apply keeps_foldl | with_reducible apply keeps_foldl_snd | intro _ | extract_lets
    | simp -zeta only [keeps_upd] | split | dsimp only

theorem State.blindGap_keeps {ro : Bool} {z s : State} (h : Keeps ro z s) (p : Nat) :
    Keeps ro z (State.blindGap s p) := by
  unfold State.blindGap
  repeat' first
    | with_reducible assumption | with_reducible apply State.sendCap_keeps | with_reducible apply keeps_ite
    | with_reducible apply keeps_foldl | with_reducible apply keeps_foldl_snd | intro _ | extract_lets
    | simp -zeta only [keeps_upd] | split | dsimp only

theorem State.absorb_keeps {ro : Bool} {z s : State} (h : Keeps ro z s) (o : Nat) (idles : Nat) :
    Keeps ro z (State.absorb s o idles) := by
  unfold State.absorb
  repeat' first
    | with_reducible assumption | with_reducible apply State.setLink_keeps | with_reducible apply State.count_keeps
    | with_reducible apply keeps_ite | with_reducible apply keeps_foldl | with_reducible apply keeps_foldl_snd
    | intro _ | extract_lets | simp -zeta only [keeps_upd] | split | dsimp only

theorem State.passOn_keeps {ro : Bool} {z s : State} (h : Keeps ro z s) (o : Nat) (f : Frame) :
    Keeps ro z (State.passOn s o f) := by
  unfold State.passOn
  repeat' first
    | with_reducible assumption | with_reducible apply State.emit_keeps | with_reducible apply State.releaseHeld_keeps
    | with_reducible apply keeps_ite | with_reducible apply keeps_foldl | with_reducible apply keeps_foldl_snd
    | intro _ | extract_lets | simp -zeta only [keeps_upd] | split | dsimp only

theorem State.takeDa_keeps {ro : Bool} {z s : State} (h : Keeps ro z s) (q : Nat) (d : Nat) :
    Keeps ro z (State.takeDa s q d) := by
  unfold State.takeDa
  repeat' first
    | with_reducible assumption | with_reducible apply State.count_keeps | with_reducible apply State.setLink_keeps
    | with_reducible apply State.put_keeps | with_reducible apply keeps_ite | with_reducible apply keeps_foldl
    | with_reducible apply keeps_foldl_snd | intro _ | extract_lets | simp -zeta only [keeps_upd] | split | dsimp only

theorem State.daOut_keeps {ro : Bool} {z s : State} (h : Keeps ro z s) (q : Nat) (d : Nat) (a : Da) :
    Keeps ro z (State.daOut s q d a) := by
  unfold State.daOut
  repeat' first
    | with_reducible assumption | with_reducible apply State.setLink_keeps
    | with_reducible apply State.releaseHeld_keeps | with_reducible apply State.emit_keeps
    | with_reducible apply keeps_ite | with_reducible apply keeps_foldl | with_reducible apply keeps_foldl_snd
    | intro _ | extract_lets | simp -zeta only [keeps_upd] | split | dsimp only

theorem State.applyMargin_keeps {ro : Bool} {z s : State} (h : Keeps ro z s) (p : Nat) (d : Nat) :
    Keeps ro z (State.applyMargin s p d) := by
  unfold State.applyMargin
  repeat' first
    | with_reducible assumption | with_reducible apply State.putB_keeps | with_reducible apply State.put_keeps
    | with_reducible apply State.raise_keeps | with_reducible apply keeps_ite | with_reducible apply keeps_foldl
    | with_reducible apply keeps_foldl_snd | intro _ | extract_lets | simp -zeta only [keeps_upd] | split | dsimp only

theorem State.daTurn_keeps {ro : Bool} {z s : State} (h : Keeps ro z s) (p : Nat) (v : Nat) (d : Da) :
    Keeps ro z (State.daTurn s p v d) := by
  unfold State.daTurn
  repeat' first
    | with_reducible assumption | with_reducible apply State.used_keeps | with_reducible apply State.emit_keeps
    | with_reducible apply keeps_ite | with_reducible apply keeps_foldl | with_reducible apply keeps_foldl_snd
    | intro _ | extract_lets | simp -zeta only [keeps_upd] | split | dsimp only

theorem wrRestart_keeps {ro : Bool} {z s : State} (h : Keeps ro z s) (p : Nat) :
    Keeps ro z (wrRestart p s).2 := by
  unfold wrRestart
  repeat' first
    | with_reducible assumption | with_reducible apply State.uncache_keeps | with_reducible apply State.goLink_keeps
    | with_reducible apply State.capNews_keeps | with_reducible apply keeps_ite | with_reducible apply keeps_foldl
    | with_reducible apply keeps_foldl_snd | intro _ | extract_lets | simp -zeta only [keeps_upd] | split | dsimp only

theorem State.injectBits_keeps {ro : Bool} {z s : State} (h : Keeps ro z s) (p : Nat) (n : Nat) :
    Keeps ro z (State.injectBits s p n) := by
  unfold State.injectBits
  repeat' first
    | with_reducible assumption | with_reducible apply State.setLink_keeps | with_reducible apply State.emit_keeps
    | with_reducible apply keeps_ite | with_reducible apply keeps_foldl | with_reducible apply keeps_foldl_snd
    | intro _ | extract_lets | simp -zeta only [keeps_upd] | split | dsimp only

theorem wrInj_keeps {ro : Bool} {z s : State} (h : Keeps ro z s) (p : Nat) (single : Bool) (burst : Bool) (clr : Bool) (len : Nat) :
    Keeps ro z (wrInj p single burst clr len s).2 := by
  unfold wrInj
  repeat' first
    | with_reducible assumption | with_reducible apply State.injectBits_keeps
    | with_reducible apply State.setLink_keeps | with_reducible apply State.put_keeps | with_reducible apply keeps_ite
    | with_reducible apply keeps_foldl | with_reducible apply keeps_foldl_snd | intro _ | extract_lets
    | simp -zeta only [keeps_upd] | split | dsimp only

theorem State.prbsCount_keeps {ro : Bool} {z s : State} (h : Keeps ro z s) (p : Nat) (bits : Nat) (errs : Nat) :
    Keeps ro z (State.prbsCount s p bits errs) := by
  unfold State.prbsCount
  repeat' first
    | with_reducible assumption | with_reducible apply State.setLink_keeps | with_reducible apply State.put_keeps
    | with_reducible apply keeps_ite | with_reducible apply keeps_foldl | with_reducible apply keeps_foldl_snd
    | intro _ | extract_lets | simp -zeta only [keeps_upd] | split | dsimp only

theorem State.prbsReport_keeps {ro : Bool} {z s : State} (h : Keeps ro z s) (p : Nat) (bits : Nat) (errs : Nat) :
    Keeps ro z (State.prbsReport s p bits errs) := by
  unfold State.prbsReport
  repeat' first
    | with_reducible assumption | with_reducible apply State.prbsCount_keeps
    | with_reducible apply State.setLink_keeps | with_reducible apply keeps_ite | with_reducible apply keeps_foldl
    | with_reducible apply keeps_foldl_snd | intro _ | extract_lets | simp -zeta only [keeps_upd] | split | dsimp only

end Sys2Proof.Machine
end

