-- ==== Sys2Proof/Laws/KeepsScheduler.lean ====
section
/-! SUPPORT. What the operations of Machine/Scheduler.lean keep (Laws/Keeps.lean). -/

namespace Sys2Proof.Machine

theorem State.setQueue_keeps {ro : Bool} {z s : State} (h : Keeps ro z s) (q : Nat) (l : List Nat) :
    Keeps ro z (State.setQueue s q l) := by
  unfold State.setQueue
  repeat' first
    | with_reducible assumption | with_reducible apply keeps_ite | with_reducible apply keeps_foldl
    | with_reducible apply keeps_foldl_snd | intro _ | extract_lets | simp -zeta only [keeps_upd] | split | dsimp only

theorem State.setLane_keeps {ro : Bool} {z s : State} (h : Keeps ro z s) (n : Nat) (l : LaneSt) :
    Keeps ro z (State.setLane s n l) := by
  unfold State.setLane
  repeat' first
    | with_reducible assumption | with_reducible apply keeps_ite | with_reducible apply keeps_foldl
    | with_reducible apply keeps_foldl_snd | intro _ | extract_lets | simp -zeta only [keeps_upd] | split | dsimp only

theorem State.showSlot_keeps {ro : Bool} {z s : State} (h : Keeps ro z s) (i : Nat) (inst : Nat) :
    Keeps ro z (State.showSlot s i inst) := by
  unfold State.showSlot
  repeat' first
    | with_reducible assumption | with_reducible apply State.put_keeps | with_reducible apply keeps_ite
    | with_reducible apply keeps_foldl | with_reducible apply keeps_foldl_snd | intro _ | extract_lets
    | simp -zeta only [keeps_upd] | split | dsimp only

theorem State.clearMask_keeps {ro : Bool} {z s : State} (h : Keeps ro z s) (i : Nat) :
    Keeps ro z (State.clearMask s i) := by
  unfold State.clearMask
  repeat' first
    | with_reducible assumption | with_reducible apply State.put_keeps | with_reducible apply keeps_ite
    | with_reducible apply keeps_foldl | with_reducible apply keeps_foldl_snd | intro _ | extract_lets
    | simp -zeta only [keeps_upd] | split | dsimp only

theorem State.clearPending_keeps {ro : Bool} {z s : State} (h : Keeps ro z s) (i : Nat) :
    Keeps ro z (State.clearPending s i) := by
  unfold State.clearPending
  repeat' first
    | with_reducible assumption | with_reducible apply keeps_ite | with_reducible apply keeps_foldl
    | with_reducible apply keeps_foldl_snd | intro _ | extract_lets | simp -zeta only [keeps_upd] | split | dsimp only

theorem State.enqueue_keeps {ro : Bool} {z s : State} (h : Keeps ro z s) (i : Nat) :
    Keeps ro z (State.enqueue s i) := by
  unfold State.enqueue
  repeat' first
    | with_reducible assumption | with_reducible apply State.setQueue_keeps
    | with_reducible apply State.showSlot_keeps | with_reducible apply State.count_keeps
    | with_reducible apply keeps_ite | with_reducible apply keeps_foldl | with_reducible apply keeps_foldl_snd
    | intro _ | extract_lets | simp -zeta only [keeps_upd] | split | dsimp only

theorem State.evalSlot_keeps {ro : Bool} {z s : State} (h : Keeps ro z s) (i : Nat) :
    Keeps ro z (State.evalSlot s i) := by
  unfold State.evalSlot
  repeat' first
    | with_reducible assumption | with_reducible apply State.showSlot_keeps
    | with_reducible apply State.clearPending_keeps | with_reducible apply State.clearMask_keeps
    | with_reducible apply State.count_keeps | with_reducible apply State.enqueue_keeps
    | with_reducible apply keeps_ite | with_reducible apply keeps_foldl | with_reducible apply keeps_foldl_snd
    | intro _ | extract_lets | simp -zeta only [keeps_upd] | split | dsimp only

theorem State.setFlags_keeps {ro : Bool} {z s : State} (h : Keeps ro z s) (l : List (Nat × Nat)) :
    Keeps ro z (State.setFlags s l) := by
  unfold State.setFlags
  repeat' first
    | with_reducible assumption | with_reducible apply State.put_keeps | with_reducible apply State.evalSlot_keeps
    | with_reducible apply keeps_ite | with_reducible apply keeps_foldl | with_reducible apply keeps_foldl_snd
    | intro _ | extract_lets | simp -zeta only [keeps_upd] | split | dsimp only

theorem State.routeEvent_keeps {ro : Bool} {z s : State} (h : Keeps ro z s) (src : Nat) :
    Keeps ro z (State.routeEvent s src) := by
  unfold State.routeEvent
  repeat' first
    | with_reducible assumption | with_reducible apply State.setFlags_keeps | with_reducible apply keeps_ite
    | with_reducible apply keeps_foldl | with_reducible apply keeps_foldl_snd | intro _ | extract_lets
    | simp -zeta only [keeps_upd] | split | dsimp only

theorem State.startOn_keeps {ro : Bool} {z s : State} (h : Keeps ro z s) (i : Nat) (n : Nat) :
    Keeps ro z (State.startOn s i n) := by
  unfold State.startOn
  repeat' first
    | with_reducible assumption | with_reducible apply State.setLane_keeps | with_reducible apply State.put_keeps
    | with_reducible apply State.count_keeps | with_reducible apply keeps_ite | with_reducible apply keeps_foldl
    | with_reducible apply keeps_foldl_snd | intro _ | extract_lets | simp -zeta only [keeps_upd] | split | dsimp only

theorem State.serveQueue_keeps {ro : Bool} {z s : State} (h : Keeps ro z s) (q : Nat) (a0 : Nat) (a1 : List Nat) :
    Keeps ro z (State.serveQueue s q a0 a1).1 := by
  induction a1 generalizing s a0 with
  | nil => cases a0 <;> exact h
  | cons i rest ih =>
    cases a0 with
    | zero => exact h
    | succ k =>
      simp only [State.serveQueue]
      split
      · exact ih (State.showSlot_keeps (State.startOn_keeps (State.setQueue_keeps (State.used_keeps h) _ _) _ _) _ _) _
      · exact h

theorem State.postOrder_keeps {ro : Bool} {z s : State} (h : Keeps ro z s) (a : Nat) :
    Keeps ro z (State.postOrder s a) := by
  unfold State.postOrder
  repeat' first
    | with_reducible assumption | with_reducible apply State.setArm_keeps | with_reducible apply State.put_keeps
    | with_reducible apply keeps_ite | with_reducible apply keeps_foldl | with_reducible apply keeps_foldl_snd
    | intro _ | extract_lets | simp -zeta only [keeps_upd] | split | dsimp only

theorem State.setOg_keeps {ro : Bool} {z s : State} (h : Keeps ro z s) (n : Nat) (c : OgSt) :
    Keeps ro z (State.setOg s n c) := by
  unfold State.setOg
  repeat' first
    | with_reducible assumption | with_reducible apply keeps_ite | with_reducible apply keeps_foldl
    | with_reducible apply keeps_foldl_snd | intro _ | extract_lets | simp -zeta only [keeps_upd] | split | dsimp only

theorem State.windowTaken_keeps {ro : Bool} {z s : State} (h : Keeps ro z s) (a0 : Window) :
    Keeps ro z (State.windowTaken s a0) := by
  unfold State.windowTaken
  repeat' first
    | with_reducible assumption | with_reducible apply State.postOrder_keeps | with_reducible apply State.setOg_keeps
    | with_reducible apply keeps_ite | with_reducible apply keeps_foldl | with_reducible apply keeps_foldl_snd
    | intro _ | extract_lets | simp -zeta only [keeps_upd] | split | dsimp only

theorem State.release1_keeps {ro : Bool} {z s : State} (h : Keeps ro z s) (addr : Nat) (v : Nat) :
    Keeps ro z (State.release1 s addr v) := by
  unfold State.release1
  repeat' first
    | with_reducible assumption | with_reducible apply State.put_keeps | with_reducible apply State.postOrder_keeps
    | with_reducible apply State.windowTaken_keeps | with_reducible apply keeps_ite | with_reducible apply keeps_foldl
    | with_reducible apply keeps_foldl_snd | intro _ | extract_lets | simp -zeta only [keeps_upd] | split | dsimp only

theorem State.sendVars_keeps {ro : Bool} {z s : State} (h : Keeps ro z s) (writes : List (Nat × Nat)) (d : Nat) :
    Keeps ro z (State.sendVars s writes d) := by
  unfold State.sendVars
  repeat' first
    | with_reducible assumption | with_reducible apply State.count_keeps | with_reducible apply State.baseSend_keeps
    | with_reducible apply keeps_ite | with_reducible apply keeps_foldl | with_reducible apply keeps_foldl_snd
    | intro _ | extract_lets | simp -zeta only [keeps_upd] | split | dsimp only

theorem State.releaseAll_keeps {ro : Bool} {z s : State} (h : Keeps ro z s) (writes : List (Nat × Nat)) :
    Keeps ro z (State.releaseAll s writes) := by
  unfold State.releaseAll
  repeat' first
    | with_reducible assumption | with_reducible apply State.release1_keeps
    | with_reducible apply State.sendVars_keeps | with_reducible apply keeps_ite | with_reducible apply keeps_foldl
    | with_reducible apply keeps_foldl_snd | intro _ | extract_lets | simp -zeta only [keeps_upd] | split | dsimp only

theorem State.freeLane_keeps {ro : Bool} {z s : State} (h : Keeps ro z s) (n : Nat) :
    Keeps ro z (State.freeLane s n) := by
  unfold State.freeLane
  repeat' first
    | with_reducible assumption | with_reducible apply State.setLane_keeps | with_reducible apply State.put_keeps
    | with_reducible apply keeps_ite | with_reducible apply keeps_foldl | with_reducible apply keeps_foldl_snd
    | intro _ | extract_lets | simp -zeta only [keeps_upd] | split | dsimp only

theorem State.abortLane_keeps {ro : Bool} {z s : State} (h : Keeps ro z s) (n : Nat) :
    Keeps ro z (State.abortLane s n) := by
  unfold State.abortLane
  repeat' first
    | with_reducible assumption | with_reducible apply State.freeLane_keeps
    | with_reducible apply State.clearPending_keeps | with_reducible apply State.showSlot_keeps
    | with_reducible apply State.evalSlot_keeps | with_reducible apply keeps_ite | with_reducible apply keeps_foldl
    | with_reducible apply keeps_foldl_snd | intro _ | extract_lets | simp -zeta only [keeps_upd] | split | dsimp only

theorem State.releaseEnd_keeps {ro : Bool} {z s : State} (h : Keeps ro z s) (n : Nat) :
    Keeps ro z (State.releaseEnd s n) := by
  unfold State.releaseEnd
  repeat' first
    | with_reducible assumption | with_reducible apply State.releaseAll_keeps | with_reducible apply State.used_keeps
    | with_reducible apply keeps_ite | with_reducible apply keeps_foldl | with_reducible apply keeps_foldl_snd
    | intro _ | extract_lets | simp -zeta only [keeps_upd] | split | dsimp only

theorem State.takeLate_keeps {ro : Bool} {z s : State} (h : Keeps ro z s)  :
    Keeps ro z (State.takeLate s) := by
  unfold State.takeLate
  repeat' first
    | with_reducible assumption | with_reducible apply State.releaseAll_keeps | with_reducible apply keeps_ite
    | with_reducible apply keeps_foldl | with_reducible apply keeps_foldl_snd | intro _ | extract_lets
    | simp -zeta only [keeps_upd] | split | dsimp only

theorem State.laneFault_keeps {ro : Bool} {z s : State} (h : Keeps ro z s) (n : Nat) (cause : Nat) :
    Keeps ro z (State.laneFault s n cause) := by
  unfold State.laneFault
  repeat' first
    | with_reducible assumption | with_reducible apply State.put_keeps | with_reducible apply State.count_keeps
    | with_reducible apply State.abortLane_keeps | with_reducible apply State.raise_keeps
    | with_reducible apply keeps_ite | with_reducible apply keeps_foldl | with_reducible apply keeps_foldl_snd
    | intro _ | extract_lets | simp -zeta only [keeps_upd] | split | dsimp only

theorem State.cancel_keeps {ro : Bool} {z s : State} (h : Keeps ro z s) (i : Nat) (ready : Bool) :
    Keeps ro z (State.cancel s i ready) := by
  unfold State.cancel
  repeat' first
    | with_reducible assumption | with_reducible apply State.clearMask_keeps | with_reducible apply State.count_keeps
    | with_reducible apply State.setQueue_keeps | with_reducible apply State.clearPending_keeps
    | with_reducible apply State.showSlot_keeps | with_reducible apply keeps_ite | with_reducible apply keeps_foldl
    | with_reducible apply keeps_foldl_snd | intro _ | extract_lets | simp -zeta only [keeps_upd] | split | dsimp only

theorem State.removed_keeps {ro : Bool} {z s : State} (h : Keeps ro z s) (i : Nat) :
    Keeps ro z (State.removed s i) := by
  unfold State.removed
  repeat' first
    | with_reducible assumption | with_reducible apply State.clearPending_keeps
    | with_reducible apply State.showSlot_keeps | with_reducible apply State.evalSlot_keeps
    | with_reducible apply keeps_ite | with_reducible apply keeps_foldl | with_reducible apply keeps_foldl_snd
    | intro _ | extract_lets | simp -zeta only [keeps_upd] | split | dsimp only

theorem State.overrun1_keeps {ro : Bool} {z s : State} (h : Keeps ro z s) (i : Nat) :
    Keeps ro z (State.overrun1 s i) := by
  unfold State.overrun1
  repeat' first
    | with_reducible assumption | with_reducible apply State.count_keeps | with_reducible apply State.put_keeps
    | with_reducible apply State.abortLane_keeps | with_reducible apply State.setQueue_keeps
    | with_reducible apply State.removed_keeps | with_reducible apply keeps_ite | with_reducible apply keeps_foldl
    | with_reducible apply keeps_foldl_snd | intro _ | extract_lets | simp -zeta only [keeps_upd] | split | dsimp only

theorem State.dueSlots_keeps {ro : Bool} {z s : State} (h : Keeps ro z s)  :
    Keeps ro z (State.dueSlots s).2 := by
  unfold State.dueSlots
  repeat' first
    | with_reducible assumption | with_reducible apply State.put_keeps | with_reducible apply State.overrun1_keeps
    | with_reducible apply State.count_keeps | with_reducible apply State.raise_keeps | with_reducible apply keeps_ite
    | with_reducible apply keeps_foldl | with_reducible apply keeps_foldl_snd | intro _ | extract_lets
    | simp -zeta only [keeps_upd] | split | dsimp only

theorem State.overrunTick_keeps {ro : Bool} {z s : State} (h : Keeps ro z s) (overrun : Bool) :
    Keeps ro z (State.overrunTick s overrun) := by
  unfold State.overrunTick
  repeat' first
    | with_reducible assumption | with_reducible apply State.put_keeps | with_reducible apply keeps_ite
    | with_reducible apply keeps_foldl | with_reducible apply keeps_foldl_snd | intro _ | extract_lets
    | simp -zeta only [keeps_upd] | split | dsimp only

theorem State.schedTick_keeps {ro : Bool} {z s : State} (h : Keeps ro z s)  :
    Keeps ro z (State.schedTick s) := by
  unfold State.schedTick
  repeat' first
    | with_reducible assumption | with_reducible apply State.put_keeps | with_reducible apply State.routeEvent_keeps
    | with_reducible apply keeps_ite | with_reducible apply keeps_foldl | with_reducible apply keeps_foldl_snd
    | intro _ | extract_lets | simp -zeta only [keeps_upd] | split | dsimp only

theorem wrSwapReq_keeps {ro : Bool} {z s : State} (h : Keeps ro z s)  :
    Keeps ro z (wrSwapReq s).2 := by
  unfold wrSwapReq
  repeat' first
    | with_reducible assumption | with_reducible apply State.put_keeps | with_reducible apply keeps_ite
    | with_reducible apply keeps_foldl | with_reducible apply keeps_foldl_snd | intro _ | extract_lets
    | simp -zeta only [keeps_upd] | split | dsimp only

theorem State.dropSwap_keeps {ro : Bool} {z s : State} (h : Keeps ro z s)  :
    Keeps ro z (State.dropSwap s) := by
  unfold State.dropSwap
  repeat' first
    | with_reducible assumption | with_reducible apply State.put_keeps | with_reducible apply State.raise_keeps
    | with_reducible apply keeps_ite | with_reducible apply keeps_foldl | with_reducible apply keeps_foldl_snd
    | intro _ | extract_lets | simp -zeta only [keeps_upd] | split | dsimp only

theorem State.idleWritten_keeps {ro : Bool} {z s : State} (h : Keeps ro z s)  :
    Keeps ro z (State.idleWritten s) := by
  unfold State.idleWritten
  repeat' first
    | with_reducible assumption | with_reducible apply State.put_keeps | with_reducible apply State.dropSwap_keeps
    | with_reducible apply keeps_ite | with_reducible apply keeps_foldl | with_reducible apply keeps_foldl_snd
    | intro _ | extract_lets | simp -zeta only [keeps_upd] | split | dsimp only

theorem State.markDirty_keeps {ro : Bool} {z s : State} (h : Keeps ro z s) (addr : Nat) :
    Keeps ro z (State.markDirty s addr) := by
  unfold State.markDirty
  repeat' first
    | with_reducible assumption | with_reducible apply keeps_ite | with_reducible apply keeps_foldl
    | with_reducible apply keeps_foldl_snd | intro _ | extract_lets | simp -zeta only [keeps_upd] | split | dsimp only

theorem State.badWords_keeps {ro : Bool} {z s : State} (h : Keeps ro z s) (addrs : List Nat) :
    Keeps ro z (State.badWords s addrs) := by
  unfold State.badWords
  repeat' first
    | with_reducible assumption | with_reducible apply State.raise_keeps | with_reducible apply keeps_ite
    | with_reducible apply keeps_foldl | with_reducible apply keeps_foldl_snd | intro _ | extract_lets
    | simp -zeta only [keeps_upd] | split | dsimp only

theorem State.takeDirty_keeps {ro : Bool} {z s : State} (h : Keeps ro z s)  :
    Keeps ro z (State.takeDirty s).2 := by
  unfold State.takeDirty
  repeat' first
    | with_reducible assumption | with_reducible apply State.badWords_keeps | with_reducible apply keeps_ite
    | with_reducible apply keeps_foldl | with_reducible apply keeps_foldl_snd | intro _ | extract_lets
    | simp -zeta only [keeps_upd] | split | dsimp only

theorem State.schedStrobed_keeps {ro : Bool} {z s : State} (h : Keeps ro z s)  :
    Keeps ro z (State.schedStrobed s) := by
  unfold State.schedStrobed
  repeat' first
    | with_reducible assumption | with_reducible apply State.evalSlot_keeps | with_reducible apply keeps_ite
    | with_reducible apply keeps_foldl | with_reducible apply keeps_foldl_snd | intro _ | extract_lets
    | simp -zeta only [keeps_upd] | split | dsimp only

end Sys2Proof.Machine
end

