-- ==== Sys2Proof/Laws/KeepsMeasurement.lean ====
section
/-! SUPPORT. What the operations of Machine/Measurement.lean keep (Laws/Keeps.lean). -/

namespace Sys2Proof.Machine

theorem State.setConv_keeps {ro : Bool} {z s : State} (h : Keeps ro z s) (n : Nat) (c : Conv) :
    Keeps ro z (State.setConv s n c) := by
  unfold State.setConv
  repeat' first
    | with_reducible assumption | with_reducible apply keeps_ite | with_reducible apply keeps_foldl
    | with_reducible apply keeps_foldl_snd | intro _ | extract_lets | simp -zeta only [keeps_upd] | split | dsimp only

theorem State.setAdPair_keeps {ro : Bool} {z s : State} (h : Keeps ro z s) (m : Nat) (p : AdPair) :
    Keeps ro z (State.setAdPair s m p) := by
  unfold State.setAdPair
  repeat' first
    | with_reducible assumption | with_reducible apply keeps_ite | with_reducible apply keeps_foldl
    | with_reducible apply keeps_foldl_snd | intro _ | extract_lets | simp -zeta only [keeps_upd] | split | dsimp only

theorem State.startPass_keeps {ro : Bool} {z s : State} (h : Keeps ro z s) (n : Nat) (j0 : Bool) :
    Keeps ro z (State.startPass s n j0) := by
  unfold State.startPass
  repeat' first
    | with_reducible assumption | with_reducible apply State.setConv_keeps | with_reducible apply State.put_keeps
    | with_reducible apply keeps_ite | with_reducible apply keeps_foldl | with_reducible apply keeps_foldl_snd
    | intro _ | extract_lets | simp -zeta only [keeps_upd] | split | dsimp only

theorem State.mergeJ0_keeps {ro : Bool} {z s : State} (h : Keeps ro z s) (n : Nat) :
    Keeps ro z (State.mergeJ0 s n) := by
  unfold State.mergeJ0
  repeat' first
    | with_reducible assumption | with_reducible apply State.setConv_keeps | with_reducible apply keeps_ite
    | with_reducible apply keeps_foldl | with_reducible apply keeps_foldl_snd | intro _ | extract_lets
    | simp -zeta only [keeps_upd] | split | dsimp only

theorem State.trigConv_keeps {ro : Bool} {z s : State} (h : Keeps ro z s) (n : Nat) (j0 : Bool) (held : Bool) :
    Keeps ro z (State.trigConv s n j0 held).2 := by
  unfold State.trigConv
  repeat' first
    | with_reducible assumption | with_reducible apply State.count_keeps | with_reducible apply State.mergeJ0_keeps
    | with_reducible apply State.startPass_keeps | with_reducible apply keeps_ite | with_reducible apply keeps_foldl
    | with_reducible apply keeps_foldl_snd | intro _ | extract_lets | simp -zeta only [keeps_upd] | split | dsimp only

theorem State.rotRejoin_keeps {ro : Bool} {z s : State} (h : Keeps ro z s) (m : Nat) :
    Keeps ro z (State.rotRejoin s m) := by
  unfold State.rotRejoin
  repeat' first
    | with_reducible assumption | with_reducible apply State.setConv_keeps
    | with_reducible apply State.setAdPair_keeps | with_reducible apply State.put_keeps
    | with_reducible apply keeps_ite | with_reducible apply keeps_foldl | with_reducible apply keeps_foldl_snd
    | intro _ | extract_lets | simp -zeta only [keeps_upd] | split | dsimp only

theorem State.adTrigger_keeps {ro : Bool} {z s0 : State} (h : Keeps ro z s0) (n : Nat) (j0 : Bool) :
    Keeps ro z (State.adTrigger s0 n j0) := by
  unfold State.adTrigger
  repeat' first
    | with_reducible assumption | with_reducible apply State.rotRejoin_keeps
    | with_reducible apply State.trigConv_keeps | with_reducible apply State.raise_keeps
    | with_reducible apply keeps_ite | with_reducible apply keeps_foldl | with_reducible apply keeps_foldl_snd
    | intro _ | extract_lets | simp -zeta only [keeps_upd] | split | dsimp only

theorem State.gridTrigger_keeps {ro : Bool} {z s : State} (h : Keeps ro z s) (n : Nat) (j0 : Bool) :
    Keeps ro z (State.gridTrigger s n j0) := by
  unfold State.gridTrigger
  repeat' first
    | with_reducible assumption | with_reducible apply State.setConv_keeps
    | with_reducible apply State.adTrigger_keeps | with_reducible apply keeps_ite | with_reducible apply keeps_foldl
    | with_reducible apply keeps_foldl_snd | intro _ | extract_lets | simp -zeta only [keeps_upd] | split | dsimp only

theorem State.calBegin_keeps {ro : Bool} {z s : State} (h : Keeps ro z s) (n : Nat) :
    Keeps ro z (State.calBegin s n) := by
  unfold State.calBegin
  repeat' first
    | with_reducible assumption | with_reducible apply State.setConv_keeps | with_reducible apply State.put_keeps
    | with_reducible apply keeps_ite | with_reducible apply keeps_foldl | with_reducible apply keeps_foldl_snd
    | intro _ | extract_lets | simp -zeta only [keeps_upd] | split | dsimp only

theorem State.endPass_keeps {ro : Bool} {z s : State} (h : Keeps ro z s) (n : Nat) (res : List Int) :
    Keeps ro z (State.endPass s n res) := by
  unfold State.endPass
  repeat' first
    | with_reducible assumption | with_reducible apply State.put_keeps | with_reducible apply State.setConv_keeps
    | with_reducible apply State.calBegin_keeps | with_reducible apply keeps_ite | with_reducible apply keeps_foldl
    | with_reducible apply keeps_foldl_snd | intro _ | extract_lets | simp -zeta only [keeps_upd] | split | dsimp only

theorem State.compareEntry_keeps {ro : Bool} {z s : State} (h : Keeps ro z s) (m : Nat) (a : Int) (b : Int) :
    Keeps ro z (State.compareEntry s m a b).2 := by
  unfold State.compareEntry
  repeat' first
    | with_reducible assumption | with_reducible apply State.setAdPair_keeps | with_reducible apply State.put_keeps
    | with_reducible apply keeps_ite | with_reducible apply keeps_foldl | with_reducible apply keeps_foldl_snd
    | intro _ | extract_lets | simp -zeta only [keeps_upd] | split | dsimp only

theorem State.rotAbort_keeps {ro : Bool} {z s : State} (h : Keeps ro z s) (m : Nat) :
    Keeps ro z (State.rotAbort s m) := by
  unfold State.rotAbort
  repeat' first
    | with_reducible assumption | with_reducible apply State.put_keeps | with_reducible apply State.raise_keeps
    | with_reducible apply keeps_ite | with_reducible apply keeps_foldl | with_reducible apply keeps_foldl_snd
    | intro _ | extract_lets | simp -zeta only [keeps_upd] | split | dsimp only

theorem State.comparePair_keeps {ro : Bool} {z s : State} (h : Keeps ro z s) (m : Nat) (a : List Int) (b : List Int) :
    Keeps ro z (State.comparePair s m a b) := by
  unfold State.comparePair
  repeat' first
    | with_reducible assumption | with_reducible apply State.compareEntry_keeps
    | with_reducible apply State.rotAbort_keeps | with_reducible apply State.setAdPair_keeps
    | with_reducible apply keeps_ite | with_reducible apply keeps_foldl | with_reducible apply keeps_foldl_snd
    | intro _ | extract_lets | simp -zeta only [keeps_upd] | split | dsimp only

theorem State.rotLeave_keeps {ro : Bool} {z s : State} (h : Keeps ro z s) (n : Nat) :
    Keeps ro z (State.rotLeave s n) := by
  unfold State.rotLeave
  repeat' first
    | with_reducible assumption | with_reducible apply State.setConv_keeps | with_reducible apply State.calBegin_keeps
    | with_reducible apply keeps_ite | with_reducible apply keeps_foldl | with_reducible apply keeps_foldl_snd
    | intro _ | extract_lets | simp -zeta only [keeps_upd] | split | dsimp only

theorem State.rotBoundary_keeps {ro : Bool} {z s : State} (h : Keeps ro z s) (m : Nat) :
    Keeps ro z (State.rotBoundary s m) := by
  unfold State.rotBoundary
  repeat' first
    | with_reducible assumption | with_reducible apply State.setAdPair_keeps
    | with_reducible apply State.rotLeave_keeps | with_reducible apply State.putCfg_keeps
    | with_reducible apply State.put_keeps | with_reducible apply keeps_ite | with_reducible apply keeps_foldl
    | with_reducible apply keeps_foldl_snd | intro _ | extract_lets | simp -zeta only [keeps_upd] | split | dsimp only

theorem State.pairLimit_keeps {ro : Bool} {z s : State} (h : Keeps ro z s) (m : Nat) (bad : Bool) :
    Keeps ro z (State.pairLimit s m bad) := by
  unfold State.pairLimit
  repeat' first
    | with_reducible assumption | with_reducible apply State.put_keeps | with_reducible apply State.raise_keeps
    | with_reducible apply keeps_ite | with_reducible apply keeps_foldl | with_reducible apply keeps_foldl_snd
    | intro _ | extract_lets | simp -zeta only [keeps_upd] | split | dsimp only

theorem State.preempt_keeps {ro : Bool} {z s : State} (h : Keeps ro z s) (n : Nat) :
    Keeps ro z (State.preempt s n) := by
  unfold State.preempt
  repeat' first
    | with_reducible assumption | with_reducible apply State.setConv_keeps | with_reducible apply keeps_ite
    | with_reducible apply keeps_foldl | with_reducible apply keeps_foldl_snd | intro _ | extract_lets
    | simp -zeta only [keeps_upd] | split | dsimp only

theorem State.injectConv_keeps {ro : Bool} {z s : State} (h : Keeps ro z s) (n : Nat) (inp : Nat) (diff : Nat) (pre : Bool) :
    Keeps ro z (State.injectConv s n inp diff pre) := by
  unfold State.injectConv
  repeat' first
    | with_reducible assumption | with_reducible apply State.count_keeps | with_reducible apply State.setConv_keeps
    | with_reducible apply State.preempt_keeps | with_reducible apply keeps_ite | with_reducible apply keeps_foldl
    | with_reducible apply keeps_foldl_snd | intro _ | extract_lets | simp -zeta only [keeps_upd] | split | dsimp only

theorem wrInject_keeps {ro : Bool} {z s : State} (h : Keeps ro z s) (n : Nat) (inp : Nat) (diff : Bool) (pre : Bool) :
    Keeps ro z (wrInject n inp diff pre s).2 := by
  unfold wrInject
  repeat' first
    | with_reducible assumption | with_reducible apply State.put_keeps | with_reducible apply State.putB_keeps
    | with_reducible apply State.setShadow_keeps | with_reducible apply State.injectConv_keeps
    | with_reducible apply keeps_ite | with_reducible apply keeps_foldl | with_reducible apply keeps_foldl_snd
    | intro _ | extract_lets | simp -zeta only [keeps_upd] | split | dsimp only

theorem State.calRequest_keeps {ro : Bool} {z s : State} (h : Keeps ro z s) (n : Nat) :
    Keeps ro z (State.calRequest s n) := by
  unfold State.calRequest
  repeat' first
    | with_reducible assumption | with_reducible apply State.setConv_keeps | with_reducible apply State.calBegin_keeps
    | with_reducible apply keeps_ite | with_reducible apply keeps_foldl | with_reducible apply keeps_foldl_snd
    | intro _ | extract_lets | simp -zeta only [keeps_upd] | split | dsimp only

theorem wrCalStart_keeps {ro : Bool} {z s : State} (h : Keeps ro z s) (mask : Nat) :
    Keeps ro z (wrCalStart mask s).2 := by
  unfold wrCalStart
  repeat' first
    | with_reducible assumption | with_reducible apply State.calRequest_keeps | with_reducible apply keeps_ite
    | with_reducible apply keeps_foldl | with_reducible apply keeps_foldl_snd | intro _ | extract_lets
    | simp -zeta only [keeps_upd] | split | dsimp only

theorem State.rotStart_keeps {ro : Bool} {z s : State} (h : Keeps ro z s) (m : Nat) :
    Keeps ro z (State.rotStart s m) := by
  unfold State.rotStart
  repeat' first
    | with_reducible assumption | with_reducible apply State.put_keeps | with_reducible apply State.setAdPair_keeps
    | with_reducible apply State.rotLeave_keeps | with_reducible apply keeps_ite | with_reducible apply keeps_foldl
    | with_reducible apply keeps_foldl_snd | intro _ | extract_lets | simp -zeta only [keeps_upd] | split | dsimp only

theorem wrRotStart_keeps {ro : Bool} {z s : State} (h : Keeps ro z s) (mask : Nat) :
    Keeps ro z (wrRotStart mask s).2 := by
  unfold wrRotStart
  repeat' first
    | with_reducible assumption | with_reducible apply State.rotStart_keeps | with_reducible apply keeps_ite
    | with_reducible apply keeps_foldl | with_reducible apply keeps_foldl_snd | intro _ | extract_lets
    | simp -zeta only [keeps_upd] | split | dsimp only

theorem State.cellResult_keeps {ro : Bool} {z s : State} (h : Keeps ro z s) (c : CellConv) (own : Nat) (ov : Nat) :
    Keeps ro z (State.cellResult s c own ov) := by
  unfold State.cellResult
  repeat' first
    | with_reducible assumption | with_reducible apply State.ov1_keeps | with_reducible apply keeps_ite
    | with_reducible apply keeps_foldl | with_reducible apply keeps_foldl_snd | intro _ | extract_lets
    | simp -zeta only [keeps_upd] | split | dsimp only

theorem State.cellTaken_keeps {ro : Bool} {z s : State} (h : Keeps ro z s) (n : Nat) :
    Keeps ro z (State.cellTaken s n) := by
  unfold State.cellTaken
  repeat' first
    | with_reducible assumption | with_reducible apply State.setConv_keeps | with_reducible apply keeps_ite
    | with_reducible apply keeps_foldl | with_reducible apply keeps_foldl_snd | intro _ | extract_lets
    | simp -zeta only [keeps_upd] | split | dsimp only

end Sys2Proof.Machine
end

