-- ==== Sys2Proof/Laws/KeepsAlign.lean ====
section
/-! SUPPORT. What the operations of Machine/Align.lean keep (Laws/Keeps.lean). -/

namespace Sys2Proof.Machine

theorem State.firstTick_keeps {ro : Bool} {z s : State} (h : Keeps ro z s) (x : Int) (k : Nat) :
    Keeps ro z (State.firstTick s x k) := by
  unfold State.firstTick
  repeat' first
    | with_reducible assumption | with_reducible apply State.put_keeps | with_reducible apply keeps_ite
    | with_reducible apply keeps_foldl | with_reducible apply keeps_foldl_snd | intro _ | extract_lets
    | simp -zeta only [keeps_upd] | split | dsimp only

theorem State.alignTo_keeps {ro : Bool} {z s : State} (h : Keeps ro z s) (x : Int) (k : Nat) (changed : Bool) :
    Keeps ro z (State.alignTo s x k changed) := by
  unfold State.alignTo
  repeat' first
    | with_reducible assumption | with_reducible apply State.firstTick_keeps | with_reducible apply State.count_keeps
    | with_reducible apply keeps_ite | with_reducible apply keeps_foldl | with_reducible apply keeps_foldl_snd
    | intro _ | extract_lets | simp -zeta only [keeps_upd] | split | dsimp only

end Sys2Proof.Machine
end

