-- ==== Sys2Proof/Laws/KeepsReply.lean ====
section
/-! SUPPORT. What the operations of Machine/Reply.lean keep (Laws/Keeps.lean). -/

namespace Sys2Proof.Machine

theorem State.waitReq_keeps {ro : Bool} {z s : State} (h : Keeps ro z s) (r : Req) :
    Keeps ro z (State.waitReq s r) := by
  unfold State.waitReq
  repeat' first
    | with_reducible assumption | with_reducible apply keeps_ite | with_reducible apply keeps_foldl
    | with_reducible apply keeps_foldl_snd | intro _ | extract_lets | simp -zeta only [keeps_upd] | split | dsimp only

theorem State.sendUdp_keeps {ro : Bool} {z s : State} (h : Keeps ro z s) (src : Nat) (c : Cached) :
    Keeps ro z (State.sendUdp s src c) := by
  unfold State.sendUdp
  repeat' first
    | with_reducible assumption | with_reducible apply State.emit_keeps | with_reducible apply State.emits_keeps
    | with_reducible apply keeps_ite | with_reducible apply keeps_foldl | with_reducible apply keeps_foldl_snd
    | intro _ | extract_lets | simp -zeta only [keeps_upd] | split | dsimp only

theorem State.remember_keeps {ro : Bool} {z s : State} (h : Keeps ro z s) (c : Cached) :
    Keeps ro z (State.remember s c) := by
  unfold State.remember
  repeat' first
    | with_reducible assumption | with_reducible apply keeps_ite | with_reducible apply keeps_foldl
    | with_reducible apply keeps_foldl_snd | intro _ | extract_lets | simp -zeta only [keeps_upd] | split | dsimp only

theorem State.setPq_keeps {ro : Bool} {z s : State} (h : Keeps ro z s) (q : Nat) (v : QueueSt) :
    Keeps ro z (State.setPq s q v) := by
  unfold State.setPq
  repeat' first
    | with_reducible assumption | with_reducible apply keeps_ite | with_reducible apply keeps_foldl
    | with_reducible apply keeps_foldl_snd | intro _ | extract_lets | simp -zeta only [keeps_upd] | split | dsimp only

theorem State.complete_keeps {ro : Bool} {z s : State} (h : Keeps ro z s) (q : Nat) (rspMax : Nat) (rspAddr : Nat) (c : Cached) :
    Keeps ro z (State.complete s q rspMax rspAddr c) := by
  unfold State.complete
  repeat' first
    | with_reducible assumption | with_reducible apply State.setPq_keeps | with_reducible apply State.emit_keeps
    | with_reducible apply keeps_ite | with_reducible apply keeps_foldl | with_reducible apply keeps_foldl_snd
    | intro _ | extract_lets | simp -zeta only [keeps_upd] | split | dsimp only

theorem State.sendMgmt_keeps {ro : Bool} {z s : State} (h : Keeps ro z s) (m : MgmtMsg) :
    Keeps ro z (State.sendMgmt s m) := by
  unfold State.sendMgmt
  repeat' first
    | with_reducible assumption | with_reducible apply State.baseSend_keeps | with_reducible apply keeps_ite
    | with_reducible apply keeps_foldl | with_reducible apply keeps_foldl_snd | intro _ | extract_lets
    | simp -zeta only [keeps_upd] | split | dsimp only

theorem State.sendUp_keeps {ro : Bool} {z s : State} (h : Keeps ro z s) (q : Nat) (msgId : Nat) (c : Cached) :
    Keeps ro z (State.sendUp s q msgId c) := by
  unfold State.sendUp
  repeat' first
    | with_reducible assumption | with_reducible apply State.setPort_keeps | with_reducible apply keeps_ite
    | with_reducible apply keeps_foldl | with_reducible apply keeps_foldl_snd | intro _ | extract_lets
    | simp -zeta only [keeps_upd] | split | dsimp only

theorem State.replyWith_keeps {ro : Bool} {z s : State} (h : Keeps ro z s) (r : Req) (status : Nat) (multi : Bool) (data : List Nat) :
    Keeps ro z (State.replyWith s r status multi data) := by
  unfold State.replyWith
  extract_lets c m s1
  have h1 : Keeps ro z s1 := (keeps_upd (t := s) ..).2 h
  clear_value s1
  split
  · exact State.remember_keeps (State.sendUdp_keeps h1 _ _) _
  · exact State.remember_keeps (State.sendMgmt_keeps h1 _) _
  · exact State.complete_keeps h1 _ _ _ _
  · exact State.sendUp_keeps h1 _ _ _

theorem State.reply_keeps {ro : Bool} {z s : State} (h : Keeps ro z s) (r : Req) (status : Nat) (data : List Nat) :
    Keeps ro z (State.reply s r status data) := by
  unfold State.reply
  repeat' first
    | with_reducible assumption | with_reducible apply State.replyWith_keeps | with_reducible apply keeps_ite
    | with_reducible apply keeps_foldl | with_reducible apply keeps_foldl_snd | intro _ | extract_lets
    | simp -zeta only [keeps_upd] | split | dsimp only

theorem State.status_keeps {ro : Bool} {z s : State} (h : Keeps ro z s) (r : Req) (st : Nat) :
    Keeps ro z (State.status s r st) := by
  unfold State.status
  repeat' first
    | with_reducible assumption | with_reducible apply State.reply_keeps | with_reducible apply keeps_ite
    | with_reducible apply keeps_foldl | with_reducible apply keeps_foldl_snd | intro _ | extract_lets
    | simp -zeta only [keeps_upd] | split | dsimp only

/-- A command that is served keeps what its effect keeps. -/
theorem State.serve_keeps {ro : Bool} {z s : State} {f : State → State} (r : Req) (a b c : Bool)
    (hf : ∀ s, Keeps ro z s → Keeps ro z (f s)) (h : Keeps ro z s) : Keeps ro z (s.serve r a b c f) :=
  keeps_ite _ (fun _ => State.status_keeps h _ _) fun _ =>
    keeps_ite _ (fun _ => State.status_keeps h _ _) fun _ => hf _ (State.endCycle_keeps h)

/-- A refusal keeps what the state and the command keep. -/
theorem State.refuseFull_keeps {ro : Bool} {z s t : State} (r : Req) (h : Keeps ro z s) (ht : Keeps ro z t) :
    Keeps ro z (s.refuseFull t r) := by
  unfold State.refuseFull
  split
  · split
    · exact State.status_keeps h _ _
    · exact ht
  · exact State.status_keeps h _ _

end Sys2Proof.Machine
end

