-- ==== Sys2Proof/Laws/KeepsRegRead.lean ====
section
/-! SUPPORT. What the operations of Machine/RegRead.lean keep (Laws/Keeps.lean). -/

namespace Sys2Proof.Machine

theorem State.clearRc_keeps {ro : Bool} {z s : State} (h : Keeps ro z s) (xs : List FSpec) :
    Keeps ro z (State.clearRc s xs) := by
  unfold State.clearRc
  repeat' first
    | with_reducible assumption | with_reducible apply State.put_keeps | with_reducible apply keeps_ite
    | with_reducible apply keeps_foldl | with_reducible apply keeps_foldl_snd | intro _ | extract_lets
    | simp -zeta only [keeps_upd] | split | dsimp only

theorem State.readWord_keeps {ro : Bool} {z s : State} (h : Keeps ro z s) (addr : Nat) :
    Keeps ro z (State.readWord s addr).2.2 := by
  unfold State.readWord
  repeat' first
    | with_reducible assumption | with_reducible apply State.clearRc_keeps | with_reducible apply keeps_ite
    | with_reducible apply keeps_foldl | with_reducible apply keeps_foldl_snd | intro _ | extract_lets
    | simp -zeta only [keeps_upd] | split | dsimp only

theorem State.readWords_keeps {ro : Bool} {z s : State} (h : Keeps ro z s) (addr : Nat) (a0 : Nat) :
    Keeps ro z (State.readWords s addr a0).2.2 := by
  induction a0 generalizing s addr with
  | zero => exact h
  | succ n ih =>
    simp only [State.readWords]
    split
    · exact ih (State.readWord_keeps h _) _
    · exact State.readWord_keeps h _

end Sys2Proof.Machine
end

