-- ==== Sys2Proof/Laws/KeepsControl.lean ====
section
/-! SUPPORT. What the operations of Machine/Control.lean keep (Laws/Keeps.lean). -/

namespace Sys2Proof.Machine

theorem State.cfOut_keeps {z s : State} (h : Keeps false z s) (ofs : Nat) (v : Nat) :
    Keeps false z (State.cfOut s ofs v) := by
  unfold State.cfOut
  repeat' first
    | with_reducible assumption | with_reducible apply State.setMemWord_keeps | with_reducible apply keeps_ite
    | with_reducible apply keeps_foldl | with_reducible apply keeps_foldl_snd | intro _ | extract_lets
    | simp -zeta only [keeps_upd] | split | dsimp only

theorem State.raiseSpare_keeps {ro : Bool} {z s : State} (h : Keeps ro z s) (f : Fld) :
    Keeps ro z (State.raiseSpare s f) := by
  unfold State.raiseSpare
  repeat' first
    | with_reducible assumption | with_reducible apply State.raise_keeps | with_reducible apply keeps_ite
    | with_reducible apply keeps_foldl | with_reducible apply keeps_foldl_snd | intro _ | extract_lets
    | simp -zeta only [keeps_upd] | split | dsimp only

theorem State.badValue_keeps {ro : Bool} {z s : State} (h : Keeps ro z s) (n : Nat) :
    Keeps ro z (State.badValue s n) := by
  unfold State.badValue
  repeat' first
    | with_reducible assumption | with_reducible apply State.count_keeps | with_reducible apply State.put_keeps
    | with_reducible apply keeps_ite | with_reducible apply keeps_foldl | with_reducible apply keeps_foldl_snd
    | intro _ | extract_lets | simp -zeta only [keeps_upd] | split | dsimp only

theorem State.ogLatch_keeps {ro : Bool} {z s : State} (h : Keeps ro z s) (n : Nat) :
    Keeps ro z (State.ogLatch s n) := by
  unfold State.ogLatch
  repeat' first
    | with_reducible assumption | with_reducible apply State.setOg_keeps | with_reducible apply State.badValue_keeps
    | with_reducible apply keeps_ite | with_reducible apply keeps_foldl | with_reducible apply keeps_foldl_snd
    | intro _ | extract_lets | simp -zeta only [keeps_upd] | split | dsimp only

theorem State.ogShow_keeps {ro : Bool} {z s : State} (h : Keeps ro z s) (n : Nat) :
    Keeps ro z (State.ogShow s n) := by
  unfold State.ogShow
  repeat' first
    | with_reducible assumption | with_reducible apply State.put_keeps | with_reducible apply State.putB_keeps
    | with_reducible apply keeps_ite | with_reducible apply keeps_foldl | with_reducible apply keeps_foldl_snd
    | intro _ | extract_lets | simp -zeta only [keeps_upd] | split | dsimp only

theorem State.ogChannel_keeps {z s0 : State} (h : Keeps false z s0) (n : Nat) :
    Keeps false z (State.ogChannel s0 n) := by
  unfold State.ogChannel
  repeat' first
    | with_reducible assumption | with_reducible apply State.ogLatch_keeps | with_reducible apply State.setOg_keeps
    | with_reducible apply State.ogShow_keeps | with_reducible apply State.cfOut_keeps
    | with_reducible apply keeps_ite | with_reducible apply keeps_foldl | with_reducible apply keeps_foldl_snd
    | intro _ | extract_lets | simp -zeta only [keeps_upd] | split | dsimp only

theorem wrOgLoad_keeps {ro : Bool} {z s : State} (h : Keeps ro z s) (n : Nat) (v : Nat) :
    Keeps ro z (wrOgLoad n v s).2 := by
  unfold wrOgLoad
  repeat' first
    | with_reducible assumption | with_reducible apply State.setOg_keeps | with_reducible apply State.ogShow_keeps
    | with_reducible apply keeps_ite | with_reducible apply keeps_foldl | with_reducible apply keeps_foldl_snd
    | intro _ | extract_lets | simp -zeta only [keeps_upd] | split | dsimp only

theorem State.setInj_keeps {ro : Bool} {z s : State} (h : Keeps ro z s) (g : Nat) (c : InjSt) :
    Keeps ro z (State.setInj s g c) := by
  unfold State.setInj
  repeat' first
    | with_reducible assumption | with_reducible apply keeps_ite | with_reducible apply keeps_foldl
    | with_reducible apply keeps_foldl_snd | intro _ | extract_lets | simp -zeta only [keeps_upd] | split | dsimp only

theorem wrInjArm_keeps {ro : Bool} {z s : State} (h : Keeps ro z s) (g : Nat) :
    Keeps ro z (wrInjArm g s).2 := by
  unfold wrInjArm
  repeat' first
    | with_reducible assumption | with_reducible apply State.setInj_keeps | with_reducible apply State.put_keeps
    | with_reducible apply keeps_ite | with_reducible apply keeps_foldl | with_reducible apply keeps_foldl_snd
    | intro _ | extract_lets | simp -zeta only [keeps_upd] | split | dsimp only

theorem State.injStep_keeps {ro : Bool} {z s : State} (h : Keeps ro z s) (g : Nat) :
    Keeps ro z (State.injStep s g) := by
  unfold State.injStep
  repeat' first
    | with_reducible assumption | with_reducible apply State.setInj_keeps | with_reducible apply State.put_keeps
    | with_reducible apply keeps_ite | with_reducible apply keeps_foldl | with_reducible apply keeps_foldl_snd
    | intro _ | extract_lets | simp -zeta only [keeps_upd] | split | dsimp only

theorem State.injector_keeps {z s : State} (h : Keeps false z s)  :
    Keeps false z (State.injector s) := by
  unfold State.injector
  repeat' first
    | with_reducible assumption | with_reducible apply State.injStep_keeps | with_reducible apply State.cfOut_keeps
    | with_reducible apply keeps_ite | with_reducible apply keeps_foldl | with_reducible apply keeps_foldl_snd
    | intro _ | extract_lets | simp -zeta only [keeps_upd] | split | dsimp only

theorem State.setRc_keeps {ro : Bool} {z s : State} (h : Keeps ro z s) (c : Nat) (v : RcSt) :
    Keeps ro z (State.setRc s c v) := by
  unfold State.setRc
  repeat' first
    | with_reducible assumption | with_reducible apply keeps_ite | with_reducible apply keeps_foldl
    | with_reducible apply keeps_foldl_snd | intro _ | extract_lets | simp -zeta only [keeps_upd] | split | dsimp only

theorem State.rcRead_keeps {z s : State} (h : Keeps false z s) (c : Nat) (i : Nat) :
    Keeps false z (State.rcRead s c i).2 := by
  unfold State.rcRead
  repeat' first
    | with_reducible assumption | with_reducible apply State.setMemWord_keeps
    | with_reducible apply State.raiseSpare_keeps | with_reducible apply keeps_ite | with_reducible apply keeps_foldl
    | with_reducible apply keeps_foldl_snd | intro _ | extract_lets | simp -zeta only [keeps_upd] | split | dsimp only

theorem State.rcInterp_keeps {z s : State} (h : Keeps false z s) (c : Nat) (old : Nat) (new : Nat) (m : Nat) :
    Keeps false z (State.rcInterp s c old new m).2 := by
  unfold State.rcInterp
  repeat' first
    | with_reducible assumption | with_reducible apply State.rcRead_keeps | with_reducible apply keeps_ite
    | with_reducible apply keeps_foldl | with_reducible apply keeps_foldl_snd | intro _ | extract_lets
    | simp -zeta only [keeps_upd] | split | dsimp only

theorem State.rcEntries_keeps {z s : State} (h : Keeps false z s) (c : Nat) (old : Nat) (new : Nat) (m : Nat) (a0 : Nat) :
    Keeps false z (State.rcEntries s c old new m a0).2 := by
  induction a0 generalizing s m with
  | zero => exact h
  | succ k ih => exact ih (State.rcInterp_keeps h _ _ _ _) _

theorem State.rcResample_keeps {z s : State} (h : Keeps false z s) (c : Nat) (new : Nat) :
    Keeps false z (State.rcResample s c new) := by
  unfold State.rcResample
  repeat' first
    | with_reducible assumption | with_reducible apply State.rcEntries_keeps
    | with_reducible apply State.setMemWord_keeps | with_reducible apply State.setRc_keeps
    | with_reducible apply State.put_keeps | with_reducible apply State.count_keeps | with_reducible apply keeps_ite
    | with_reducible apply keeps_foldl | with_reducible apply keeps_foldl_snd | intro _ | extract_lets
    | simp -zeta only [keeps_upd] | split | dsimp only

theorem State.rcAdvance_keeps {ro : Bool} {z s : State} (h : Keeps ro z s) (c : Nat) :
    Keeps ro z (State.rcAdvance s c) := by
  unfold State.rcAdvance
  repeat' first
    | with_reducible assumption | with_reducible apply State.setRc_keeps | with_reducible apply keeps_ite
    | with_reducible apply keeps_foldl | with_reducible apply keeps_foldl_snd | intro _ | extract_lets
    | simp -zeta only [keeps_upd] | split | dsimp only

theorem State.rcPut_keeps {z s : State} (h : Keeps false z s) (c : Nat) :
    Keeps false z (State.rcPut s c) := by
  unfold State.rcPut
  repeat' first
    | with_reducible assumption | with_reducible apply State.rcRead_keeps | with_reducible apply State.setRc_keeps
    | with_reducible apply State.cfOut_keeps | with_reducible apply keeps_ite | with_reducible apply keeps_foldl
    | with_reducible apply keeps_foldl_snd | intro _ | extract_lets | simp -zeta only [keeps_upd] | split | dsimp only

theorem State.rcOutput_keeps {z s : State} (h : Keeps false z s) (c : Nat) :
    Keeps false z (State.rcOutput s c) := by
  unfold State.rcOutput
  repeat' first
    | with_reducible assumption | with_reducible apply State.rcAdvance_keeps | with_reducible apply State.rcPut_keeps
    | with_reducible apply keeps_ite | with_reducible apply keeps_foldl | with_reducible apply keeps_foldl_snd
    | intro _ | extract_lets | simp -zeta only [keeps_upd] | split | dsimp only

theorem State.rcLearn_keeps {z s : State} (h : Keeps false z s) (c : Nat) :
    Keeps false z (State.rcLearn s c) := by
  unfold State.rcLearn
  repeat' first
    | with_reducible assumption | with_reducible apply State.count_keeps | with_reducible apply State.rcRead_keeps
    | with_reducible apply State.setMemWord_keeps | with_reducible apply keeps_ite | with_reducible apply keeps_foldl
    | with_reducible apply keeps_foldl_snd | intro _ | extract_lets | simp -zeta only [keeps_upd] | split | dsimp only

theorem State.rcTrack_keeps {ro : Bool} {z s : State} (h : Keeps ro z s) (c : Nat) :
    Keeps ro z (State.rcTrack s c) := by
  unfold State.rcTrack
  repeat' first
    | with_reducible assumption | with_reducible apply State.setRc_keeps | with_reducible apply keeps_ite
    | with_reducible apply keeps_foldl | with_reducible apply keeps_foldl_snd | intro _ | extract_lets
    | simp -zeta only [keeps_upd] | split | dsimp only

theorem State.rcChannel_keeps {z s : State} (h : Keeps false z s) (c : Nat) (room : Nat) :
    Keeps false z (State.rcChannel s c room).2 := by
  unfold State.rcChannel
  repeat' first
    | with_reducible assumption | with_reducible apply State.rcTrack_keeps
    | with_reducible apply State.rcAdvance_keeps | with_reducible apply State.rcResample_keeps
    | with_reducible apply State.rcPut_keeps | with_reducible apply State.count_keeps
    | with_reducible apply State.rcLearn_keeps | with_reducible apply State.rcOutput_keeps
    | with_reducible apply State.setRc_keeps | with_reducible apply keeps_ite | with_reducible apply keeps_foldl
    | with_reducible apply keeps_foldl_snd | intro _ | extract_lets | simp -zeta only [keeps_upd] | split | dsimp only

theorem State.rcIdle_keeps {z s : State} (h : Keeps false z s) (c : Nat) :
    Keeps false z (State.rcIdle s c) := by
  unfold State.rcIdle
  repeat' first
    | with_reducible assumption | with_reducible apply State.setRc_keeps | with_reducible apply State.cfOut_keeps
    | with_reducible apply keeps_ite | with_reducible apply keeps_foldl | with_reducible apply keeps_foldl_snd
    | intro _ | extract_lets | simp -zeta only [keeps_upd] | split | dsimp only

theorem State.repetitive_keeps {z s : State} (h : Keeps false z s) (overrun : Bool) :
    Keeps false z (State.repetitive s overrun) := by
  unfold State.repetitive
  repeat' first
    | with_reducible assumption | with_reducible apply State.cfOut_keeps | with_reducible apply State.rcChannel_keeps
    | with_reducible apply State.rcIdle_keeps | with_reducible apply keeps_ite | with_reducible apply keeps_foldl
    | with_reducible apply keeps_foldl_snd | intro _ | extract_lets | simp -zeta only [keeps_upd] | split | dsimp only

theorem State.setMs_keeps {ro : Bool} {z s : State} (h : Keeps ro z s) (g : Nat) (v : MsSt) :
    Keeps ro z (State.setMs s g v) := by
  unfold State.setMs
  repeat' first
    | with_reducible assumption | with_reducible apply keeps_ite | with_reducible apply keeps_foldl
    | with_reducible apply keeps_foldl_snd | intro _ | extract_lets | simp -zeta only [keeps_upd] | split | dsimp only

theorem State.msStep_keeps {ro : Bool} {z s : State} (h : Keeps ro z s) (g : Nat) :
    Keeps ro z (State.msStep s g) := by
  unfold State.msStep
  repeat' first
    | with_reducible assumption | with_reducible apply State.put_keeps | with_reducible apply State.status_keeps
    | with_reducible apply State.setMs_keeps | with_reducible apply State.putB_keeps
    | with_reducible apply State.count_keeps | with_reducible apply keeps_ite | with_reducible apply keeps_foldl
    | with_reducible apply keeps_foldl_snd | intro _ | extract_lets | simp -zeta only [keeps_upd] | split | dsimp only

theorem State.minSelect_keeps {z s : State} (h : Keeps false z s) (overrun : Bool) :
    Keeps false z (State.minSelect s overrun) := by
  unfold State.minSelect
  repeat' first
    | with_reducible assumption | with_reducible apply State.msStep_keeps | with_reducible apply State.cfOut_keeps
    | with_reducible apply State.status_keeps | with_reducible apply keeps_ite | with_reducible apply keeps_foldl
    | with_reducible apply keeps_foldl_snd | intro _ | extract_lets | simp -zeta only [keeps_upd] | split | dsimp only

theorem State.setPl_keeps {ro : Bool} {z s : State} (h : Keeps ro z s) (a : Nat) (v : PlSt) :
    Keeps ro z (State.setPl s a v) := by
  unfold State.setPl
  repeat' first
    | with_reducible assumption | with_reducible apply keeps_ite | with_reducible apply keeps_foldl
    | with_reducible apply keeps_foldl_snd | intro _ | extract_lets | simp -zeta only [keeps_upd] | split | dsimp only

theorem State.plStep_keeps {ro : Bool} {z s : State} (h : Keeps ro z s) (a : Nat) (x : PlIn) (overrun : Bool) :
    Keeps ro z (State.plStep s a x overrun) := by
  unfold State.plStep
  repeat' first
    | with_reducible assumption | with_reducible apply State.setPl_keeps | with_reducible apply State.put_keeps
    | with_reducible apply State.count_keeps | with_reducible apply keeps_ite | with_reducible apply keeps_foldl
    | with_reducible apply keeps_foldl_snd | intro _ | extract_lets | simp -zeta only [keeps_upd] | split | dsimp only

theorem State.plausibility_keeps {z s : State} (h : Keeps false z s) (x : Nat → PlIn) (overrun : Bool) :
    Keeps false z (State.plausibility s x overrun) := by
  unfold State.plausibility
  repeat' first
    | with_reducible assumption | with_reducible apply State.plStep_keeps | with_reducible apply State.setPl_keeps
    | with_reducible apply State.cfOut_keeps | with_reducible apply keeps_ite | with_reducible apply keeps_foldl
    | with_reducible apply keeps_foldl_snd | intro _ | extract_lets | simp -zeta only [keeps_upd] | split | dsimp only

theorem State.setAng_keeps {ro : Bool} {z s : State} (h : Keeps ro z s) (t : Nat) (v : AngSt) :
    Keeps ro z (State.setAng s t v) := by
  unfold State.setAng
  repeat' first
    | with_reducible assumption | with_reducible apply keeps_ite | with_reducible apply keeps_foldl
    | with_reducible apply keeps_foldl_snd | intro _ | extract_lets | simp -zeta only [keeps_upd] | split | dsimp only

theorem State.dropLock_keeps {ro : Bool} {z s : State} (h : Keeps ro z s) (t : Nat) :
    Keeps ro z (State.dropLock s t) := by
  unfold State.dropLock
  repeat' first
    | with_reducible assumption | with_reducible apply State.put_keeps | with_reducible apply State.raiseSpare_keeps
    | with_reducible apply keeps_ite | with_reducible apply keeps_foldl | with_reducible apply keeps_foldl_snd
    | intro _ | extract_lets | simp -zeta only [keeps_upd] | split | dsimp only

theorem State.angHold_keeps {ro : Bool} {z s : State} (h : Keeps ro z s) (t : Nat) (amp : Nat) :
    Keeps ro z (State.angHold s t amp) := by
  unfold State.angHold
  repeat' first
    | with_reducible assumption | with_reducible apply State.setAng_keeps | with_reducible apply State.put_keeps
    | with_reducible apply State.count_keeps | with_reducible apply State.raiseSpare_keeps
    | with_reducible apply keeps_ite | with_reducible apply keeps_foldl | with_reducible apply keeps_foldl_snd
    | intro _ | extract_lets | simp -zeta only [keeps_upd] | split | dsimp only

theorem State.angFollow_keeps {ro : Bool} {z s : State} (h : Keeps ro z s) (t : Nat) (alpha : Nat) (beta : Nat) (amp : Nat) :
    Keeps ro z (State.angFollow s t alpha beta amp) := by
  unfold State.angFollow
  repeat' first
    | with_reducible assumption | with_reducible apply State.setAng_keeps | with_reducible apply State.put_keeps
    | with_reducible apply State.putB_keeps | with_reducible apply keeps_ite | with_reducible apply keeps_foldl
    | with_reducible apply keeps_foldl_snd | intro _ | extract_lets | simp -zeta only [keeps_upd] | split | dsimp only

theorem State.angStep_keeps {ro : Bool} {z s : State} (h : Keeps ro z s) (t : Nat) (overrun : Bool) :
    Keeps ro z (State.angStep s t overrun) := by
  unfold State.angStep
  repeat' first
    | with_reducible assumption | with_reducible apply State.setAng_keeps | with_reducible apply State.angHold_keeps
    | with_reducible apply State.angFollow_keeps | with_reducible apply keeps_ite | with_reducible apply keeps_foldl
    | with_reducible apply keeps_foldl_snd | intro _ | extract_lets | simp -zeta only [keeps_upd] | split | dsimp only

theorem State.angOut_keeps {z s : State} (h : Keeps false z s) (t : Nat) :
    Keeps false z (State.angOut s t) := by
  unfold State.angOut
  repeat' first
    | with_reducible assumption | with_reducible apply State.cfOut_keeps | with_reducible apply keeps_ite
    | with_reducible apply keeps_foldl | with_reducible apply keeps_foldl_snd | intro _ | extract_lets
    | simp -zeta only [keeps_upd] | split | dsimp only

theorem State.trackers_keeps {z s : State} (h : Keeps false z s) (overrun : Bool) :
    Keeps false z (State.trackers s overrun) := by
  unfold State.trackers
  repeat' first
    | with_reducible assumption | with_reducible apply State.angStep_keeps | with_reducible apply State.angOut_keeps
    | with_reducible apply keeps_ite | with_reducible apply keeps_foldl | with_reducible apply keeps_foldl_snd
    | intro _ | extract_lets | simp -zeta only [keeps_upd] | split | dsimp only

theorem State.unitStep_keeps {z s : State} (h : Keeps false z s) (x : Nat → PlIn) (overrun : Bool) :
    Keeps false z (State.unitStep s x overrun) := by
  unfold State.unitStep
  repeat' first
    | with_reducible assumption | with_reducible apply State.ogChannel_keeps
    | with_reducible apply State.injector_keeps | with_reducible apply State.repetitive_keeps
    | with_reducible apply State.minSelect_keeps | with_reducible apply State.plausibility_keeps
    | with_reducible apply State.trackers_keeps | with_reducible apply keeps_ite | with_reducible apply keeps_foldl
    | with_reducible apply keeps_foldl_snd | intro _ | extract_lets | simp -zeta only [keeps_upd] | split | dsimp only

theorem State.msStrobed_keeps {ro : Bool} {z s : State} (h : Keeps ro z s) (o : State) (g : Nat) :
    Keeps ro z (State.msStrobed s o g) := by
  unfold State.msStrobed
  repeat' first
    | with_reducible assumption | with_reducible apply State.setMs_keeps | with_reducible apply keeps_ite
    | with_reducible apply keeps_foldl | with_reducible apply keeps_foldl_snd | intro _ | extract_lets
    | simp -zeta only [keeps_upd] | split | dsimp only

theorem State.cfStrobed_keeps {ro : Bool} {z s : State} (h : Keeps ro z s) (o : State) :
    Keeps ro z (State.cfStrobed s o) := by
  unfold State.cfStrobed
  repeat' first
    | with_reducible assumption | with_reducible apply State.setOg_keeps | with_reducible apply State.ogShow_keeps
    | with_reducible apply State.setRc_keeps | with_reducible apply State.put_keeps
    | with_reducible apply State.msStrobed_keeps | with_reducible apply State.setAng_keeps
    | with_reducible apply keeps_ite | with_reducible apply keeps_foldl | with_reducible apply keeps_foldl_snd
    | intro _ | extract_lets | simp -zeta only [keeps_upd] | split | dsimp only

end Sys2Proof.Machine
end

