-- ==== Sys2Proof/Laws/KeepsStakeLevel.lean ====
section
/-! SUPPORT. What the operations of Machine/StakeLevel.lean keep (Laws/Keeps.lean). -/

namespace Sys2Proof.Machine

theorem State.latchReport_keeps {ro : Bool} {z s : State} (h : Keeps ro z s)  :
    Keeps ro z (State.latchReport s) := by
  unfold State.latchReport
  repeat' first
    | with_reducible assumption | with_reducible apply State.updRefresh_keeps | with_reducible apply State.putB_keeps
    | with_reducible apply keeps_ite | with_reducible apply keeps_foldl | with_reducible apply keeps_foldl_snd
    | intro _ | extract_lets | simp -zeta only [keeps_upd] | split | dsimp only

theorem State.loseTrim_keeps {ro : Bool} {z s : State} (h : Keeps ro z s)  :
    Keeps ro z (State.loseTrim s) := by
  unfold State.loseTrim
  repeat' first
    | with_reducible assumption | with_reducible apply State.count_keeps | with_reducible apply keeps_ite
    | with_reducible apply keeps_foldl | with_reducible apply keeps_foldl_snd | intro _ | extract_lets
    | simp -zeta only [keeps_upd] | split | dsimp only

theorem State.hold_keeps {ro : Bool} {z s : State} (h : Keeps ro z s) (latched : Bool) :
    Keeps ro z (State.hold s latched) := by
  unfold State.hold
  repeat' first
    | with_reducible assumption | with_reducible apply State.count_keeps | with_reducible apply State.put_keeps
    | with_reducible apply State.loseTrim_keeps | with_reducible apply keeps_ite | with_reducible apply keeps_foldl
    | with_reducible apply keeps_foldl_snd | intro _ | extract_lets | simp -zeta only [keeps_upd] | split | dsimp only

theorem State.startTrim_keeps {ro : Bool} {z s : State} (h : Keeps ro z s) (frac : Nat) :
    Keeps ro z (State.startTrim s frac) := by
  unfold State.startTrim
  repeat' first
    | with_reducible assumption | with_reducible apply State.changeCell_keeps | with_reducible apply State.put_keeps
    | with_reducible apply State.count_keeps | with_reducible apply keeps_ite | with_reducible apply keeps_foldl
    | with_reducible apply keeps_foldl_snd | intro _ | extract_lets | simp -zeta only [keeps_upd] | split | dsimp only

theorem State.cutTrim_keeps {ro : Bool} {z s : State} (h : Keeps ro z s)  :
    Keeps ro z (State.cutTrim s) := by
  unfold State.cutTrim
  repeat' first
    | with_reducible assumption | with_reducible apply State.dropTrim_keeps
    | with_reducible apply State.makeCell_keeps | with_reducible apply keeps_ite | with_reducible apply keeps_foldl
    | with_reducible apply keeps_foldl_snd | intro _ | extract_lets | simp -zeta only [keeps_upd] | split | dsimp only

theorem State.applyPlan_keeps {ro : Bool} {z s0 : State} (h : Keeps ro z s0)  :
    Keeps ro z (State.applyPlan s0) := by
  unfold State.applyPlan
  extract_lets c g s
  have h1 : Keeps ro z s := (keeps_upd (t := c) ..).2 (State.cutTrim_keeps h)
  clear_value s
  repeat' first
    | with_reducible assumption | with_reducible apply State.loseTrim_keeps
    | with_reducible apply State.forceOff_keeps | with_reducible apply State.makeCell_keeps
    | with_reducible apply State.hold_keeps | with_reducible apply State.startTrim_keeps
    | with_reducible apply State.changeCell_keeps | with_reducible apply keeps_ite | intro _
    | extract_lets | simp -zeta only [keeps_upd] | split | dsimp only

end Sys2Proof.Machine
end

