-- ==== Sys2Proof/Laws/KeepsLevelling.lean ====
section
/-! SUPPORT. What the operations of Machine/Levelling.lean keep (Laws/Keeps.lean). -/

namespace Sys2Proof.Machine

theorem State.sendSummary_keeps {ro : Bool} {z s : State} (h : Keeps ro z s)  :
    Keeps ro z (State.sendSummary s) := by
  unfold State.sendSummary
  repeat' first
    | with_reducible assumption | with_reducible apply State.twinSend_keeps | with_reducible apply keeps_ite
    | with_reducible apply keeps_foldl | with_reducible apply keeps_foldl_snd | intro _ | extract_lets
    | simp -zeta only [keeps_upd] | split | dsimp only

theorem State.finishSelect_keeps {ro : Bool} {z s : State} (h : Keeps ro z s) (a : Nat) :
    Keeps ro z (State.finishSelect s a) := by
  unfold State.finishSelect
  repeat' first
    | with_reducible assumption | with_reducible apply State.setArm_keeps
    | with_reducible apply State.routeEvent_keeps | with_reducible apply State.sendSummary_keeps
    | with_reducible apply keeps_ite | with_reducible apply keeps_foldl | with_reducible apply keeps_foldl_snd
    | intro _ | extract_lets | simp -zeta only [keeps_upd] | split | dsimp only

theorem State.markAbsent_keeps {ro : Bool} {z s : State} (h : Keeps ro z s) (ms : List (Nat × Nat)) :
    Keeps ro z (State.markAbsent s ms) := by
  unfold State.markAbsent
  repeat' first
    | with_reducible assumption | with_reducible apply State.put_keeps | with_reducible apply State.raise_keeps
    | with_reducible apply keeps_ite | with_reducible apply keeps_foldl | with_reducible apply keeps_foldl_snd
    | intro _ | extract_lets | simp -zeta only [keeps_upd] | split | dsimp only

theorem State.setRest_keeps {ro : Bool} {z s : State} (h : Keeps ro z s) (a : Nat) (b : Bool) :
    Keeps ro z (State.setRest s a b) := by
  unfold State.setRest
  repeat' first
    | with_reducible assumption | with_reducible apply State.setArm_keeps | with_reducible apply State.putB_keeps
    | with_reducible apply keeps_ite | with_reducible apply keeps_foldl | with_reducible apply keeps_foldl_snd
    | intro _ | extract_lets | simp -zeta only [keeps_upd] | split | dsimp only

theorem State.restStrobed_keeps {ro : Bool} {z s : State} (h : Keeps ro z s) (o : State) :
    Keeps ro z (State.restStrobed s o) := by
  unfold State.restStrobed
  repeat' first
    | with_reducible assumption | with_reducible apply State.setArm_keeps | with_reducible apply keeps_ite
    | with_reducible apply keeps_foldl | with_reducible apply keeps_foldl_snd | intro _ | extract_lets
    | simp -zeta only [keeps_upd] | split | dsimp only

theorem State.restTick_keeps {ro : Bool} {z s : State} (h : Keeps ro z s) (a : Nat) :
    Keeps ro z (State.restTick s a) := by
  unfold State.restTick
  repeat' first
    | with_reducible assumption | with_reducible apply State.setArm_keeps | with_reducible apply State.setRest_keeps
    | with_reducible apply keeps_ite | with_reducible apply keeps_foldl | with_reducible apply keeps_foldl_snd
    | intro _ | extract_lets | simp -zeta only [keeps_upd] | split | dsimp only

theorem State.levelTick_keeps {ro : Bool} {z s : State} (h : Keeps ro z s)  :
    Keeps ro z (State.levelTick s) := by
  unfold State.levelTick
  repeat' first
    | with_reducible assumption | with_reducible apply State.setArm_keeps | with_reducible apply State.put_keeps
    | with_reducible apply State.restTick_keeps | with_reducible apply State.setPort_keeps
    | with_reducible apply keeps_ite | with_reducible apply keeps_foldl | with_reducible apply keeps_foldl_snd
    | intro _ | extract_lets | simp -zeta only [keeps_upd] | split | dsimp only

theorem State.realised_keeps {ro : Bool} {z s : State} (h : Keeps ro z s) (a : Nat) :
    Keeps ro z (State.realised s a) := by
  unfold State.realised
  repeat' first
    | with_reducible assumption | with_reducible apply State.put_keeps | with_reducible apply State.setArm_keeps
    | with_reducible apply State.count_keeps | with_reducible apply keeps_ite | with_reducible apply keeps_foldl
    | with_reducible apply keeps_foldl_snd | intro _ | extract_lets | simp -zeta only [keeps_upd] | split | dsimp only

theorem State.twinSummary_keeps {ro : Bool} {z s : State} (h : Keeps ro z s) (a : Nat) :
    Keeps ro z (State.twinSummary s a).2 := by
  unfold State.twinSummary
  repeat' first
    | with_reducible assumption | with_reducible apply State.count_keeps | with_reducible apply State.raise_keeps
    | with_reducible apply keeps_ite | with_reducible apply keeps_foldl | with_reducible apply keeps_foldl_snd
    | intro _ | extract_lets | simp -zeta only [keeps_upd] | split | dsimp only

theorem State.repeatArm_keeps {ro : Bool} {z s : State} (h : Keeps ro z s) (a : Nat) :
    Keeps ro z (State.repeatArm s a).2 := by
  unfold State.repeatArm
  repeat' first
    | with_reducible assumption | with_reducible apply State.setArm_keeps | with_reducible apply State.count_keeps
    | with_reducible apply State.put_keeps | with_reducible apply keeps_ite | with_reducible apply keeps_foldl
    | with_reducible apply keeps_foldl_snd | intro _ | extract_lets | simp -zeta only [keeps_upd] | split | dsimp only

theorem State.decideFresh_keeps {ro : Bool} {z s : State} (h : Keeps ro z s) (a : Nat) (repeats : Nat) (x : Selection) :
    Keeps ro z (State.decideFresh s a repeats x).2 := by
  unfold State.decideFresh
  repeat' first
    | with_reducible assumption | with_reducible apply State.setArm_keeps | with_reducible apply State.put_keeps
    | with_reducible apply State.putB_keeps | with_reducible apply State.count_keeps
    | with_reducible apply State.raise_keeps | with_reducible apply keeps_ite | with_reducible apply keeps_foldl
    | with_reducible apply keeps_foldl_snd | intro _ | extract_lets | simp -zeta only [keeps_upd] | split | dsimp only

theorem State.decideArm_keeps {ro : Bool} {z s : State} (h : Keeps ro z s) (a : Nat) :
    Keeps ro z (State.decideArm s a).2 := by
  unfold State.decideArm
  repeat' first
    | with_reducible assumption | with_reducible apply State.setArm_keeps | with_reducible apply State.count_keeps
    | with_reducible apply State.finishSelect_keeps | with_reducible apply State.realised_keeps
    | with_reducible apply State.countN_keeps | with_reducible apply State.put_keeps
    | with_reducible apply State.twinSummary_keeps | with_reducible apply State.decideFresh_keeps
    | with_reducible apply State.repeatArm_keeps | with_reducible apply State.markAbsent_keeps
    | with_reducible apply keeps_ite | with_reducible apply keeps_foldl | with_reducible apply keeps_foldl_snd
    | intro _ | extract_lets | simp -zeta only [keeps_upd] | split | dsimp only

theorem State.decideArms_keeps {ro : Bool} {z s : State} (h : Keeps ro z s)  :
    Keeps ro z (State.decideArms s) := by
  unfold State.decideArms
  repeat' first
    | with_reducible assumption | with_reducible apply State.decideArm_keeps | with_reducible apply keeps_ite
    | with_reducible apply keeps_foldl | with_reducible apply keeps_foldl_snd | intro _ | extract_lets
    | simp -zeta only [keeps_upd] | split | dsimp only

end Sys2Proof.Machine
end

