-- ==== Sys2Proof/Laws/KeepsTwin.lean ====
section
/-! SUPPORT. What the operations of Machine/Twin.lean keep (Laws/Keeps.lean). -/

namespace Sys2Proof.Machine

theorem State.sendHeartbeat_keeps {ro : Bool} {z s : State} (h : Keeps ro z s)  :
    Keeps ro z (State.sendHeartbeat s) := by
  unfold State.sendHeartbeat
  repeat' first
    | with_reducible assumption | with_reducible apply State.twinSend_keeps | with_reducible apply keeps_ite
    | with_reducible apply keeps_foldl | with_reducible apply keeps_foldl_snd | intro _ | extract_lets
    | simp -zeta only [keeps_upd] | split | dsimp only

theorem State.loseMatch_keeps {ro : Bool} {z s : State} (h : Keeps ro z s)  :
    Keeps ro z (State.loseMatch s) := by
  unfold State.loseMatch
  repeat' first
    | with_reducible assumption | with_reducible apply State.put_keeps | with_reducible apply State.count_keeps
    | with_reducible apply State.raise_keeps | with_reducible apply keeps_ite | with_reducible apply keeps_foldl
    | with_reducible apply keeps_foldl_snd | intro _ | extract_lets | simp -zeta only [keeps_upd] | split | dsimp only

theorem State.compareDigest_keeps {ro : Bool} {z s : State} (h : Keeps ro z s)  :
    Keeps ro z (State.compareDigest s) := by
  unfold State.compareDigest
  repeat' first
    | with_reducible assumption | with_reducible apply State.count_keeps | with_reducible apply State.loseMatch_keeps
    | with_reducible apply keeps_ite | with_reducible apply keeps_foldl | with_reducible apply keeps_foldl_snd
    | intro _ | extract_lets | simp -zeta only [keeps_upd] | split | dsimp only

theorem State.compareState_keeps {ro : Bool} {z s : State} (h : Keeps ro z s)  :
    Keeps ro z (State.compareState s) := by
  unfold State.compareState
  repeat' first
    | with_reducible assumption | with_reducible apply State.count_keeps | with_reducible apply State.loseMatch_keeps
    | with_reducible apply keeps_ite | with_reducible apply keeps_foldl | with_reducible apply keeps_foldl_snd
    | intro _ | extract_lets | simp -zeta only [keeps_upd] | split | dsimp only

theorem State.matchCutoff_keeps {ro : Bool} {z s : State} (h : Keeps ro z s)  :
    Keeps ro z (State.matchCutoff s) := by
  unfold State.matchCutoff
  repeat' first
    | with_reducible assumption | with_reducible apply State.loseMatch_keeps | with_reducible apply keeps_ite
    | with_reducible apply keeps_foldl | with_reducible apply keeps_foldl_snd | intro _ | extract_lets
    | simp -zeta only [keeps_upd] | split | dsimp only

theorem State.sendDigest_keeps {ro : Bool} {z s : State} (h : Keeps ro z s)  :
    Keeps ro z (State.sendDigest s) := by
  unfold State.sendDigest
  repeat' first
    | with_reducible assumption | with_reducible apply State.twinSend_keeps
    | with_reducible apply State.compareDigest_keeps | with_reducible apply keeps_ite
    | with_reducible apply keeps_foldl | with_reducible apply keeps_foldl_snd | intro _ | extract_lets
    | simp -zeta only [keeps_upd] | split | dsimp only

theorem State.takeUnits_keeps {ro : Bool} {z s : State} (h : Keeps ro z s) (u : CfSt × List Nat) :
    Keeps ro z (State.takeUnits s u) := by
  unfold State.takeUnits
  repeat' first
    | with_reducible assumption | with_reducible apply State.put_keeps | with_reducible apply keeps_ite
    | with_reducible apply keeps_foldl | with_reducible apply keeps_foldl_snd | intro _ | extract_lets
    | simp -zeta only [keeps_upd] | split | dsimp only

theorem State.sendState_keeps {ro : Bool} {z s : State} (h : Keeps ro z s)  :
    Keeps ro z (State.sendState s) := by
  unfold State.sendState
  repeat' first
    | with_reducible assumption | with_reducible apply State.takeDirty_keeps
    | with_reducible apply State.twinSend_keeps | with_reducible apply State.compareState_keeps
    | with_reducible apply keeps_ite | with_reducible apply keeps_foldl | with_reducible apply keeps_foldl_snd
    | intro _ | extract_lets | simp -zeta only [keeps_upd] | split | dsimp only

theorem State.putLines_keeps {z s : State} (h : Keeps false z s) (a : Nat) (bs : List Nat) :
    Keeps false z (State.putLines s a bs) := by
  unfold State.putLines
  repeat' first
    | with_reducible assumption | with_reducible apply State.setMemBytes_keeps | with_reducible apply keeps_ite
    | with_reducible apply keeps_foldl | with_reducible apply keeps_foldl_snd | intro _ | extract_lets
    | simp -zeta only [keeps_upd] | split | dsimp only

theorem State.writeState_keeps {z s : State} (h : Keeps false z s) (m : StateMsg) :
    Keeps false z (State.writeState s m) := by
  unfold State.writeState
  repeat' first
    | with_reducible assumption | with_reducible apply State.putLines_keeps | with_reducible apply State.setArm_keeps
    | with_reducible apply State.putB_keeps | with_reducible apply State.takeUnits_keeps
    | with_reducible apply keeps_ite | with_reducible apply keeps_foldl | with_reducible apply keeps_foldl_snd
    | intro _ | extract_lets | simp -zeta only [keeps_upd] | split | dsimp only

theorem State.evalQuorum_keeps {ro : Bool} {z s : State} (h : Keeps ro z s)  :
    Keeps ro z (State.evalQuorum s) := by
  unfold State.evalQuorum
  repeat' first
    | with_reducible assumption | with_reducible apply State.put_keeps | with_reducible apply State.putB_keeps
    | with_reducible apply keeps_ite | with_reducible apply keeps_foldl | with_reducible apply keeps_foldl_snd
    | intro _ | extract_lets | simp -zeta only [keeps_upd] | split | dsimp only

theorem State.enterLease_keeps {ro : Bool} {z s : State} (h : Keeps ro z s) (st : Nat) (e : Nat) :
    Keeps ro z (State.enterLease s st e) := by
  unfold State.enterLease
  repeat' first
    | with_reducible assumption | with_reducible apply State.put_keeps | with_reducible apply State.count_keeps
    | with_reducible apply keeps_ite | with_reducible apply keeps_foldl | with_reducible apply keeps_foldl_snd
    | intro _ | extract_lets | simp -zeta only [keeps_upd] | split | dsimp only

theorem State.claimNext_keeps {ro : Bool} {z s : State} (h : Keeps ro z s)  :
    Keeps ro z (State.claimNext s) := by
  unfold State.claimNext
  repeat' first
    | with_reducible assumption | with_reducible apply State.enterLease_keeps | with_reducible apply keeps_ite
    | with_reducible apply keeps_foldl | with_reducible apply keeps_foldl_snd | intro _ | extract_lets
    | simp -zeta only [keeps_upd] | split | dsimp only

theorem State.offStep_keeps {ro : Bool} {z s : State} (h : Keeps ro z s)  :
    Keeps ro z (State.offStep s) := by
  unfold State.offStep
  repeat' first
    | with_reducible assumption | with_reducible apply State.enterLease_keeps
    | with_reducible apply State.claimNext_keeps | with_reducible apply keeps_ite | with_reducible apply keeps_foldl
    | with_reducible apply keeps_foldl_snd | intro _ | extract_lets | simp -zeta only [keeps_upd] | split | dsimp only

theorem State.holdCutoff_keeps {ro : Bool} {z s : State} (h : Keeps ro z s)  :
    Keeps ro z (State.holdCutoff s) := by
  unfold State.holdCutoff
  repeat' first
    | with_reducible assumption | with_reducible apply State.enterLease_keeps | with_reducible apply State.count_keeps
    | with_reducible apply State.raise_keeps | with_reducible apply State.claimNext_keeps
    | with_reducible apply keeps_ite | with_reducible apply keeps_foldl | with_reducible apply keeps_foldl_snd
    | intro _ | extract_lets | simp -zeta only [keeps_upd] | split | dsimp only

theorem State.claimCutoff_keeps {ro : Bool} {z s : State} (h : Keeps ro z s)  :
    Keeps ro z (State.claimCutoff s) := by
  unfold State.claimCutoff
  repeat' first
    | with_reducible assumption | with_reducible apply State.count_keeps | with_reducible apply State.enterLease_keeps
    | with_reducible apply keeps_ite | with_reducible apply keeps_foldl | with_reducible apply keeps_foldl_snd
    | intro _ | extract_lets | simp -zeta only [keeps_upd] | split | dsimp only

theorem State.followCutoff_keeps {ro : Bool} {z s : State} (h : Keeps ro z s)  :
    Keeps ro z (State.followCutoff s) := by
  unfold State.followCutoff
  repeat' first
    | with_reducible assumption | with_reducible apply State.put_keeps | with_reducible apply State.claimNext_keeps
    | with_reducible apply keeps_ite | with_reducible apply keeps_foldl | with_reducible apply keeps_foldl_snd
    | intro _ | extract_lets | simp -zeta only [keeps_upd] | split | dsimp only

theorem State.offCutoff_keeps {ro : Bool} {z s : State} (h : Keeps ro z s)  :
    Keeps ro z (State.offCutoff s) := by
  unfold State.offCutoff
  repeat' first
    | with_reducible assumption | with_reducible apply State.offStep_keeps
    | with_reducible apply State.claimNext_keeps | with_reducible apply keeps_ite | with_reducible apply keeps_foldl
    | with_reducible apply keeps_foldl_snd | intro _ | extract_lets | simp -zeta only [keeps_upd] | split | dsimp only

theorem State.leaseCutoff_keeps {ro : Bool} {z s : State} (h : Keeps ro z s)  :
    Keeps ro z (State.leaseCutoff s) := by
  unfold State.leaseCutoff
  extract_lets s1 m s2
  have h1 : Keeps ro z s1 := State.evalQuorum_keeps h
  have h2 : Keeps ro z s2 := (keeps_upd (t := s1) ..).2 h1
  clear_value s1 s2
  split
  · exact h1
  · split
    · exact State.offCutoff_keeps h2
    · exact State.followCutoff_keeps h2
    · exact State.claimCutoff_keeps h2
    · exact State.holdCutoff_keeps h2

theorem State.control_keeps {ro : Bool} {z s : State} (h : Keeps ro z s) (kind : Nat) (tick : Nat) :
    Keeps ro z (State.control s kind tick) := by
  unfold State.control
  repeat' first
    | with_reducible assumption | with_reducible apply State.twinSend_keeps | with_reducible apply keeps_ite
    | with_reducible apply keeps_foldl | with_reducible apply keeps_foldl_snd | intro _ | extract_lets
    | simp -zeta only [keeps_upd] | split | dsimp only

theorem State.requestHandover_keeps {ro : Bool} {z s : State} (h : Keeps ro z s)  :
    Keeps ro z (State.requestHandover s) := by
  unfold State.requestHandover
  repeat' first
    | with_reducible assumption | with_reducible apply State.control_keeps | with_reducible apply keeps_ite
    | with_reducible apply keeps_foldl | with_reducible apply keeps_foldl_snd | intro _ | extract_lets
    | simp -zeta only [keeps_upd] | split | dsimp only

theorem wrHandover_keeps {ro : Bool} {z s : State} (h : Keeps ro z s)  :
    Keeps ro z (wrHandover s).2 := by
  unfold wrHandover
  repeat' first
    | with_reducible assumption | with_reducible apply State.requestHandover_keeps | with_reducible apply keeps_ite
    | with_reducible apply keeps_foldl | with_reducible apply keeps_foldl_snd | intro _ | extract_lets
    | simp -zeta only [keeps_upd] | split | dsimp only

theorem State.agreeHandover_keeps {ro : Bool} {z s : State} (h : Keeps ro z s) (h : Nat) :
    Keeps ro z (State.agreeHandover s h) := by
  unfold State.agreeHandover
  repeat' first
    | with_reducible assumption | with_reducible apply State.put_keeps | with_reducible apply keeps_ite
    | with_reducible apply keeps_foldl | with_reducible apply keeps_foldl_snd | intro _ | extract_lets
    | simp -zeta only [keeps_upd] | split | dsimp only

theorem State.endHandover_keeps {ro : Bool} {z s : State} (h : Keeps ro z s)  :
    Keeps ro z (State.endHandover s) := by
  unfold State.endHandover
  repeat' first
    | with_reducible assumption | with_reducible apply State.put_keeps | with_reducible apply keeps_ite
    | with_reducible apply keeps_foldl | with_reducible apply keeps_foldl_snd | intro _ | extract_lets
    | simp -zeta only [keeps_upd] | split | dsimp only

theorem State.enterJoin_keeps {ro : Bool} {z s : State} (h : Keeps ro z s)  :
    Keeps ro z (State.enterJoin s) := by
  unfold State.enterJoin
  repeat' first
    | with_reducible assumption | with_reducible apply State.put_keeps | with_reducible apply State.loseMatch_keeps
    | with_reducible apply State.control_keeps | with_reducible apply keeps_ite | with_reducible apply keeps_foldl
    | with_reducible apply keeps_foldl_snd | intro _ | extract_lets | simp -zeta only [keeps_upd] | split | dsimp only

theorem wrJoin_keeps {ro : Bool} {z s : State} (h : Keeps ro z s)  :
    Keeps ro z (wrJoin s).2 := by
  unfold wrJoin
  repeat' first
    | with_reducible assumption | with_reducible apply State.raise_keeps | with_reducible apply State.enterJoin_keeps
    | with_reducible apply keeps_ite | with_reducible apply keeps_foldl | with_reducible apply keeps_foldl_snd
    | intro _ | extract_lets | simp -zeta only [keeps_upd] | split | dsimp only

theorem State.abandonJoin_keeps {ro : Bool} {z s : State} (h : Keeps ro z s)  :
    Keeps ro z (State.abandonJoin s) := by
  unfold State.abandonJoin
  repeat' first
    | with_reducible assumption | with_reducible apply State.put_keeps | with_reducible apply State.raise_keeps
    | with_reducible apply keeps_ite | with_reducible apply keeps_foldl | with_reducible apply keeps_foldl_snd
    | intro _ | extract_lets | simp -zeta only [keeps_upd] | split | dsimp only

theorem State.joined_keeps {ro : Bool} {z s : State} (h : Keeps ro z s)  :
    Keeps ro z (State.joined s) := by
  unfold State.joined
  repeat' first
    | with_reducible assumption | with_reducible apply State.put_keeps | with_reducible apply State.enterLease_keeps
    | with_reducible apply keeps_ite | with_reducible apply keeps_foldl | with_reducible apply keeps_foldl_snd
    | intro _ | extract_lets | simp -zeta only [keeps_upd] | split | dsimp only

theorem State.joinState_keeps {ro : Bool} {z s : State} (h : Keeps ro z s) (m : StateMsg) :
    Keeps ro z (State.joinState s m) := by
  unfold State.joinState
  repeat' first
    | with_reducible assumption | with_reducible apply State.joined_keeps | with_reducible apply keeps_ite
    | with_reducible apply keeps_foldl | with_reducible apply keeps_foldl_snd | intro _ | extract_lets
    | simp -zeta only [keeps_upd] | split | dsimp only

theorem State.loseHeartbeat_keeps {ro : Bool} {z s : State} (h : Keeps ro z s)  :
    Keeps ro z (State.loseHeartbeat s) := by
  unfold State.loseHeartbeat
  repeat' first
    | with_reducible assumption | with_reducible apply State.put_keeps | with_reducible apply State.raise_keeps
    | with_reducible apply State.endHandover_keeps | with_reducible apply State.abandonJoin_keeps
    | with_reducible apply State.claimNext_keeps | with_reducible apply keeps_ite | with_reducible apply keeps_foldl
    | with_reducible apply keeps_foldl_snd | intro _ | extract_lets | simp -zeta only [keeps_upd] | split | dsimp only

theorem State.heartbeatSample_keeps {ro : Bool} {z s : State} (h : Keeps ro z s)  :
    Keeps ro z (State.heartbeatSample s) := by
  unfold State.heartbeatSample
  repeat' first
    | with_reducible assumption | with_reducible apply State.count_keeps | with_reducible apply keeps_ite
    | with_reducible apply keeps_foldl | with_reducible apply keeps_foldl_snd | intro _ | extract_lets
    | simp -zeta only [keeps_upd] | split | dsimp only

theorem State.heartbeatId_keeps {ro : Bool} {z s : State} (h : Keeps ro z s) (m : Heartbeat) :
    Keeps ro z (State.heartbeatId s m) := by
  unfold State.heartbeatId
  repeat' first
    | with_reducible assumption | with_reducible apply State.putB_keeps | with_reducible apply State.raise_keeps
    | with_reducible apply keeps_ite | with_reducible apply keeps_foldl | with_reducible apply keeps_foldl_snd
    | intro _ | extract_lets | simp -zeta only [keeps_upd] | split | dsimp only

theorem State.heartbeatLease_keeps {ro : Bool} {z s : State} (h : Keeps ro z s) (m : Heartbeat) :
    Keeps ro z (State.heartbeatLease s m) := by
  unfold State.heartbeatLease
  repeat' first
    | with_reducible assumption | with_reducible apply State.offStep_keeps | with_reducible apply State.put_keeps
    | with_reducible apply State.enterLease_keeps | with_reducible apply keeps_ite | with_reducible apply keeps_foldl
    | with_reducible apply keeps_foldl_snd | intro _ | extract_lets | simp -zeta only [keeps_upd] | split | dsimp only

theorem State.heartbeatMode_keeps {ro : Bool} {z s : State} (h : Keeps ro z s) (m : Heartbeat) :
    Keeps ro z (State.heartbeatMode s m) := by
  unfold State.heartbeatMode
  repeat' first
    | with_reducible assumption | with_reducible apply State.put_keeps | with_reducible apply keeps_ite
    | with_reducible apply keeps_foldl | with_reducible apply keeps_foldl_snd | intro _ | extract_lets
    | simp -zeta only [keeps_upd] | split | dsimp only

theorem State.heartbeatJoin_keeps {ro : Bool} {z s : State} (h : Keeps ro z s) (m : Heartbeat) :
    Keeps ro z (State.heartbeatJoin s m) := by
  unfold State.heartbeatJoin
  repeat' first
    | with_reducible assumption | with_reducible apply wrJoin_keeps | with_reducible apply keeps_ite
    | with_reducible apply keeps_foldl | with_reducible apply keeps_foldl_snd | intro _ | extract_lets
    | simp -zeta only [keeps_upd] | split | dsimp only

theorem State.twinPeriod_keeps {ro : Bool} {z s : State} (h : Keeps ro z s) (x : Nat) (k : Nat) :
    Keeps ro z (State.twinPeriod s x k).2 := by
  unfold State.twinPeriod
  repeat' first
    | with_reducible assumption | with_reducible apply keeps_ite | with_reducible apply keeps_foldl
    | with_reducible apply keeps_foldl_snd | intro _ | extract_lets | simp -zeta only [keeps_upd] | split | dsimp only

theorem State.followTwin_keeps {ro : Bool} {z s : State} (h : Keeps ro z s) (x : Nat) (k : Nat) :
    Keeps ro z (State.followTwin s x k) := by
  unfold State.followTwin
  repeat' first
    | with_reducible assumption | with_reducible apply State.twinPeriod_keeps
    | with_reducible apply State.alignTo_keeps | with_reducible apply State.put_keeps | with_reducible apply keeps_ite
    | with_reducible apply keeps_foldl | with_reducible apply keeps_foldl_snd | intro _ | extract_lets
    | simp -zeta only [keeps_upd] | split | dsimp only

theorem State.heartbeatAlign_keeps {ro : Bool} {z s0 : State} (h : Keeps ro z s0) (m : Heartbeat) (at' : Nat) :
    Keeps ro z (State.heartbeatAlign s0 m at') := by
  unfold State.heartbeatAlign
  repeat' first
    | with_reducible assumption | with_reducible apply State.correction_keeps
    | with_reducible apply State.followTwin_keeps | with_reducible apply keeps_ite | with_reducible apply keeps_foldl
    | with_reducible apply keeps_foldl_snd | intro _ | extract_lets | simp -zeta only [keeps_upd] | split | dsimp only

theorem State.copyResults_keeps {z s : State} (h : Keeps false z s) (n : Nat) (res : List Nat) :
    Keeps false z (State.copyResults s n res) := by
  unfold State.copyResults
  repeat' first
    | with_reducible assumption | with_reducible apply State.setMemBytes_keeps
    | with_reducible apply State.badWords_keeps | with_reducible apply State.setFlags_keeps
    | with_reducible apply keeps_ite | with_reducible apply keeps_foldl | with_reducible apply keeps_foldl_snd
    | intro _ | extract_lets | simp -zeta only [keeps_upd] | split | dsimp only

theorem State.twinTick_keeps {ro : Bool} {z s : State} (h : Keeps ro z s)  :
    Keeps ro z (State.twinTick s) := by
  unfold State.twinTick
  repeat' first
    | with_reducible assumption | with_reducible apply State.put_keeps | with_reducible apply keeps_ite
    | with_reducible apply keeps_foldl | with_reducible apply keeps_foldl_snd | intro _ | extract_lets
    | simp -zeta only [keeps_upd] | split | dsimp only

theorem State.leaseStrobed_keeps {ro : Bool} {z s : State} (h : Keeps ro z s) (o : State) :
    Keeps ro z (State.leaseStrobed s o) := by
  unfold State.leaseStrobed
  repeat' first
    | with_reducible assumption | with_reducible apply State.offStep_keeps
    | with_reducible apply State.endHandover_keeps | with_reducible apply State.enterLease_keeps
    | with_reducible apply keeps_ite | with_reducible apply keeps_foldl | with_reducible apply keeps_foldl_snd
    | intro _ | extract_lets | simp -zeta only [keeps_upd] | split | dsimp only

theorem State.twinStrobed_keeps {ro : Bool} {z s : State} (h : Keeps ro z s) (o : State) :
    Keeps ro z (State.twinStrobed s o) := by
  unfold State.twinStrobed
  repeat' first
    | with_reducible assumption | with_reducible apply State.leaseStrobed_keeps
    | with_reducible apply State.loseMatch_keeps | with_reducible apply keeps_ite | with_reducible apply keeps_foldl
    | with_reducible apply keeps_foldl_snd | intro _ | extract_lets | simp -zeta only [keeps_upd] | split | dsimp only

end Sys2Proof.Machine
end

