-- ==== Sys2Proof/Laws/KeepsAdcPass.lean ====
section
/-! SUPPORT. What the operations of Machine/AdcPass.lean keep (Laws/Keeps.lean). -/

namespace Sys2Proof.Machine

theorem State.deliverPass_keeps {z s : State} (h : Keeps false z s) (n : Nat) (res : List Nat) (j0 : Bool) :
    Keeps false z (State.deliverPass s n res j0) := by
  unfold State.deliverPass
  repeat' first
    | with_reducible assumption | with_reducible apply State.copyResults_keeps
    | with_reducible apply State.twinSend_keeps | with_reducible apply keeps_ite | with_reducible apply keeps_foldl
    | with_reducible apply keeps_foldl_snd | intro _ | extract_lets | simp -zeta only [keeps_upd] | split | dsimp only

theorem State.passEnd_keeps {z s : State} (h : Keeps false z s) (n : Nat) (cs : List Nat) (res : Nat → List Int) :
    Keeps false z (State.passEnd s n cs res) := by
  unfold State.passEnd
  repeat' first
    | with_reducible assumption | with_reducible apply State.endPass_keeps
    | with_reducible apply State.comparePair_keeps | with_reducible apply State.rotBoundary_keeps
    | with_reducible apply State.deliverPass_keeps | with_reducible apply keeps_ite | with_reducible apply keeps_foldl
    | with_reducible apply keeps_foldl_snd | intro _ | extract_lets | simp -zeta only [keeps_upd] | split | dsimp only

end Sys2Proof.Machine
end

