-- ==== Sys2Proof/Laws/KeepsAuxSupply.lean ====
section
/-! SUPPORT. What the operations of Machine/AuxSupply.lean keep (Laws/Keeps.lean). -/

namespace Sys2Proof.Machine

theorem State.auxPin_keeps {ro : Bool} {z s : State} (h : Keeps ro z s) (b : Bool) :
    Keeps ro z (State.auxPin s b) := by
  unfold State.auxPin
  repeat' first
    | with_reducible assumption | with_reducible apply State.putB_keeps | with_reducible apply State.emit_keeps
    | with_reducible apply keeps_ite | with_reducible apply keeps_foldl | with_reducible apply keeps_foldl_snd
    | intro _ | extract_lets | simp -zeta only [keeps_upd] | split | dsimp only

theorem State.auxCutNow_keeps {ro : Bool} {z s : State} (h : Keeps ro z s)  :
    Keeps ro z (State.auxCutNow s) := by
  unfold State.auxCutNow
  repeat' first
    | with_reducible assumption | with_reducible apply State.count_keeps | with_reducible apply State.put_keeps
    | with_reducible apply keeps_ite | with_reducible apply keeps_foldl | with_reducible apply keeps_foldl_snd
    | intro _ | extract_lets | simp -zeta only [keeps_upd] | split | dsimp only

theorem State.auxPeriodEnd_keeps {ro : Bool} {z s : State} (h : Keeps ro z s)  :
    Keeps ro z (State.auxPeriodEnd s) := by
  unfold State.auxPeriodEnd
  repeat' first
    | with_reducible assumption | with_reducible apply keeps_ite | with_reducible apply keeps_foldl
    | with_reducible apply keeps_foldl_snd | intro _ | extract_lets | simp -zeta only [keeps_upd] | split | dsimp only

theorem State.auxOff_keeps {ro : Bool} {z s : State} (h : Keeps ro z s)  :
    Keeps ro z (State.auxOff s) := by
  unfold State.auxOff
  repeat' first
    | with_reducible assumption | with_reducible apply State.auxPin_keeps | with_reducible apply keeps_ite
    | with_reducible apply keeps_foldl | with_reducible apply keeps_foldl_snd | intro _ | extract_lets
    | simp -zeta only [keeps_upd] | split | dsimp only

theorem State.auxPeriod_keeps {ro : Bool} {z s0 : State} (h : Keeps ro z s0)  :
    Keeps ro z (State.auxPeriod s0) := by
  unfold State.auxPeriod
  repeat' first
    | with_reducible assumption | with_reducible apply State.auxPeriodEnd_keeps
    | with_reducible apply State.auxCutNow_keeps | with_reducible apply State.auxPin_keeps
    | with_reducible apply State.auxOff_keeps | with_reducible apply keeps_ite | with_reducible apply keeps_foldl
    | with_reducible apply keeps_foldl_snd | intro _ | extract_lets | simp -zeta only [keeps_upd] | split | dsimp only

theorem State.acceptEdge_keeps {ro : Bool} {z s : State} (h : Keeps ro z s)  :
    Keeps ro z (State.acceptEdge s) := by
  unfold State.acceptEdge
  repeat' first
    | with_reducible assumption | with_reducible apply State.put_keeps | with_reducible apply keeps_ite
    | with_reducible apply keeps_foldl | with_reducible apply keeps_foldl_snd | intro _ | extract_lets
    | simp -zeta only [keeps_upd] | split | dsimp only

theorem State.syncPulse_keeps {ro : Bool} {z s : State} (h : Keeps ro z s)  :
    Keeps ro z (State.syncPulse s) := by
  unfold State.syncPulse
  repeat' first
    | with_reducible assumption | with_reducible apply State.auxPeriod_keeps | with_reducible apply State.count_keeps
    | with_reducible apply keeps_ite | with_reducible apply keeps_foldl | with_reducible apply keeps_foldl_snd
    | intro _ | extract_lets | simp -zeta only [keeps_upd] | split | dsimp only

theorem State.auxStart_keeps {ro : Bool} {z s : State} (h : Keeps ro z s)  :
    Keeps ro z (State.auxStart s) := by
  unfold State.auxStart
  repeat' first
    | with_reducible assumption | with_reducible apply State.put_keeps | with_reducible apply keeps_ite
    | with_reducible apply keeps_foldl | with_reducible apply keeps_foldl_snd | intro _ | extract_lets
    | simp -zeta only [keeps_upd] | split | dsimp only

theorem State.auxStrobed_keeps {ro : Bool} {z s : State} (h : Keeps ro z s)  :
    Keeps ro z (State.auxStrobed s) := by
  unfold State.auxStrobed
  repeat' first
    | with_reducible assumption | with_reducible apply State.auxStart_keeps | with_reducible apply State.put_keeps
    | with_reducible apply State.auxOff_keeps | with_reducible apply keeps_ite | with_reducible apply keeps_foldl
    | with_reducible apply keeps_foldl_snd | intro _ | extract_lets | simp -zeta only [keeps_upd] | split | dsimp only

end Sys2Proof.Machine
end

