-- ==== Sys2Proof/Laws/KeepsRelay.lean ====
section
/-! SUPPORT. What the operations of Machine/Relay.lean keep (Laws/Keeps.lean). -/

namespace Sys2Proof.Machine

theorem State.relayStart_keeps {ro : Bool} {z s : State} (h : Keeps ro z s) (r : Option Req) (kind : RelayKind) (t : Target) (packet : List Nat) :
    Keeps ro z (State.relayStart s r kind t packet) := by
  unfold State.relayStart
  repeat' first
    | with_reducible assumption | with_reducible apply State.setPort_keeps | with_reducible apply keeps_ite
    | with_reducible apply keeps_foldl | with_reducible apply keeps_foldl_snd | intro _ | extract_lets
    | simp -zeta only [keeps_upd] | split | dsimp only

theorem State.updRelay_keeps {ro : Bool} {z s : State} (h : Keeps ro z s) (id : Nat) (f : RelayReq → RelayReq) :
    Keeps ro z (State.updRelay s id f) := by
  unfold State.updRelay
  repeat' first
    | with_reducible assumption | with_reducible apply keeps_ite | with_reducible apply keeps_foldl
    | with_reducible apply keeps_foldl_snd | intro _ | extract_lets | simp -zeta only [keeps_upd] | split | dsimp only

theorem State.fillSeg_keeps {ro : Bool} {z s : State} (h : Keeps ro z s) (p : Nat) (g : RelayMsg) (rest : List RelayMsg) :
    Keeps ro z (State.fillSeg s p g rest).1 := by
  unfold State.fillSeg
  repeat' first
    | with_reducible assumption | with_reducible apply State.setPort_keeps | with_reducible apply State.updRelay_keeps
    | with_reducible apply keeps_ite | with_reducible apply keeps_foldl | with_reducible apply keeps_foldl_snd
    | intro _ | extract_lets | simp -zeta only [keeps_upd] | split | dsimp only

theorem State.fillMgmt_keeps {ro : Bool} {z s : State} (h : Keeps ro z s) (p : Nat) :
    Keeps ro z (State.fillMgmt s p).1 := by
  unfold State.fillMgmt
  repeat' first
    | with_reducible assumption | with_reducible apply State.setPort_keeps | with_reducible apply State.fillSeg_keeps
    | with_reducible apply keeps_ite | with_reducible apply keeps_foldl | with_reducible apply keeps_foldl_snd
    | intro _ | extract_lets | simp -zeta only [keeps_upd] | split | dsimp only

theorem State.relayAnswer_keeps {ro : Bool} {z s : State} (h : Keeps ro z s) (p : Nat) (src : Nat) (msgId : Nat) (bytes : List Nat) :
    Keeps ro z (State.relayAnswer s p src msgId bytes).1 := by
  unfold State.relayAnswer
  repeat' first
    | with_reducible assumption | with_reducible apply State.status_keeps | with_reducible apply State.updRelay_keeps
    | with_reducible apply keeps_ite | with_reducible apply keeps_foldl | with_reducible apply keeps_foldl_snd
    | intro _ | extract_lets | simp -zeta only [keeps_upd] | split | dsimp only

theorem State.flushPorts_keeps {ro : Bool} {z s : State} (h : Keeps ro z s) (ps : List Nat) :
    Keeps ro z (State.flushPorts s ps) := by
  unfold State.flushPorts
  repeat' first
    | with_reducible assumption | with_reducible apply State.updRelay_keeps | with_reducible apply State.setPort_keeps
    | with_reducible apply keeps_ite | with_reducible apply keeps_foldl | with_reducible apply keeps_foldl_snd
    | intro _ | extract_lets | simp -zeta only [keeps_upd] | split | dsimp only

end Sys2Proof.Machine
end

