-- ==== Sys2Proof/Laws/KeepsRecorder.lean ====
section
/-! SUPPORT. What the operations of Machine/Recorder.lean keep (Laws/Keeps.lean). -/

namespace Sys2Proof.Machine

theorem State.setSeg_keeps {ro : Bool} {z s : State} (h : Keeps ro z s) (i : Nat) (r : DrRec) :
    Keeps ro z (State.setSeg s i r) := by
  unfold State.setSeg
  repeat' first
    | with_reducible assumption | with_reducible apply keeps_ite | with_reducible apply keeps_foldl
    | with_reducible apply keeps_foldl_snd | intro _ | extract_lets | simp -zeta only [keeps_upd] | split | dsimp only

theorem State.dropSeg_keeps {ro : Bool} {z s : State} (h : Keeps ro z s) (i : Nat) :
    Keeps ro z (State.dropSeg s i) := by
  unfold State.dropSeg
  repeat' first
    | with_reducible assumption | with_reducible apply State.put_keeps | with_reducible apply keeps_ite
    | with_reducible apply keeps_foldl | with_reducible apply keeps_foldl_snd | intro _ | extract_lets
    | simp -zeta only [keeps_upd] | split | dsimp only

theorem State.armIn_keeps {ro : Bool} {z s : State} (h : Keeps ro z s) (i : Nat) :
    Keeps ro z (State.armIn s i) := by
  unfold State.armIn
  repeat' first
    | with_reducible assumption | with_reducible apply State.put_keeps | with_reducible apply State.setSeg_keeps
    | with_reducible apply keeps_ite | with_reducible apply keeps_foldl | with_reducible apply keeps_foldl_snd
    | intro _ | extract_lets | simp -zeta only [keeps_upd] | split | dsimp only

theorem State.startStream_keeps {ro : Bool} {z s : State} (h : Keeps ro z s)  :
    Keeps ro z (State.startStream s) := by
  unfold State.startStream
  repeat' first
    | with_reducible assumption | with_reducible apply State.put_keeps | with_reducible apply keeps_ite
    | with_reducible apply keeps_foldl | with_reducible apply keeps_foldl_snd | intro _ | extract_lets
    | simp -zeta only [keeps_upd] | split | dsimp only

theorem State.needSeg_keeps {ro : Bool} {z s0 : State} (h : Keeps ro z s0)  :
    Keeps ro z (State.needSeg s0) := by
  unfold State.needSeg
  repeat' first
    | with_reducible assumption | with_reducible apply State.startStream_keeps | with_reducible apply State.used_keeps
    | with_reducible apply State.armIn_keeps | with_reducible apply State.dropSeg_keeps
    | with_reducible apply State.count_keeps | with_reducible apply State.put_keeps | with_reducible apply keeps_ite
    | with_reducible apply keeps_foldl | with_reducible apply keeps_foldl_snd | intro _ | extract_lets
    | simp -zeta only [keeps_upd] | split | dsimp only

theorem State.wakeSeg_keeps {ro : Bool} {z s : State} (h : Keeps ro z s)  :
    Keeps ro z (State.wakeSeg s) := by
  unfold State.wakeSeg
  repeat' first
    | with_reducible assumption | with_reducible apply State.needSeg_keeps | with_reducible apply keeps_ite
    | with_reducible apply keeps_foldl | with_reducible apply keeps_foldl_snd | intro _ | extract_lets
    | simp -zeta only [keeps_upd] | split | dsimp only

theorem State.takeRow_keeps {ro : Bool} {z s : State} (h : Keeps ro z s) (late : List Nat) :
    Keeps ro z (State.takeRow s late) := by
  unfold State.takeRow
  repeat' first
    | with_reducible assumption | with_reducible apply State.count_keeps | with_reducible apply State.used_keeps
    | with_reducible apply keeps_ite | with_reducible apply keeps_foldl | with_reducible apply keeps_foldl_snd
    | intro _ | extract_lets | simp -zeta only [keeps_upd] | split | dsimp only

theorem State.noteViolations_keeps {ro : Bool} {z s : State} (h : Keeps ro z s) (vs : List Nat) :
    Keeps ro z (State.noteViolations s vs) := by
  unfold State.noteViolations
  repeat' first
    | with_reducible assumption | with_reducible apply State.countN_keeps | with_reducible apply State.put_keeps
    | with_reducible apply keeps_ite | with_reducible apply keeps_foldl | with_reducible apply keeps_foldl_snd
    | intro _ | extract_lets | simp -zeta only [keeps_upd] | split | dsimp only

theorem State.closeRecord_keeps {ro : Bool} {z s : State} (h : Keeps ro z s) (trunc : Bool) (shed : Bool) :
    Keeps ro z (State.closeRecord s trunc shed) := by
  unfold State.closeRecord
  repeat' first
    | with_reducible assumption | with_reducible apply State.used_keeps | with_reducible apply State.setSeg_keeps
    | with_reducible apply State.put_keeps | with_reducible apply State.startStream_keeps
    | with_reducible apply keeps_ite | with_reducible apply keeps_foldl | with_reducible apply keeps_foldl_snd
    | intro _ | extract_lets | simp -zeta only [keeps_upd] | split | dsimp only

theorem State.endRearm_keeps {ro : Bool} {z s : State} (h : Keeps ro z s)  :
    Keeps ro z (State.endRearm s) := by
  unfold State.endRearm
  repeat' first
    | with_reducible assumption | with_reducible apply State.needSeg_keeps | with_reducible apply keeps_ite
    | with_reducible apply keeps_foldl | with_reducible apply keeps_foldl_snd | intro _ | extract_lets
    | simp -zeta only [keeps_upd] | split | dsimp only

theorem State.endPost_keeps {ro : Bool} {z s : State} (h : Keeps ro z s)  :
    Keeps ro z (State.endPost s) := by
  unfold State.endPost
  repeat' first
    | with_reducible assumption | with_reducible apply State.closeRecord_keeps | with_reducible apply State.put_keeps
    | with_reducible apply State.endRearm_keeps | with_reducible apply keeps_ite | with_reducible apply keeps_foldl
    | with_reducible apply keeps_foldl_snd | intro _ | extract_lets | simp -zeta only [keeps_upd] | split | dsimp only

theorem State.armedRow_keeps {ro : Bool} {z s : State} (h : Keeps ro z s) (row : DrLine) (hw : Option Nat) (at' : Nat) :
    Keeps ro z (State.armedRow s row hw at') := by
  unfold State.armedRow
  repeat' first
    | with_reducible assumption | with_reducible apply State.noteViolations_keeps
    | with_reducible apply State.setSeg_keeps | with_reducible apply State.put_keeps
    | with_reducible apply State.endPost_keeps | with_reducible apply keeps_ite | with_reducible apply keeps_foldl
    | with_reducible apply keeps_foldl_snd | intro _ | extract_lets | simp -zeta only [keeps_upd] | split | dsimp only

theorem State.postRow_keeps {ro : Bool} {z s : State} (h : Keeps ro z s) (row : DrLine) (hw : Option Nat) :
    Keeps ro z (State.postRow s row hw) := by
  unfold State.postRow
  repeat' first
    | with_reducible assumption | with_reducible apply State.noteViolations_keeps
    | with_reducible apply State.count_keeps | with_reducible apply State.setSeg_keeps
    | with_reducible apply State.endPost_keeps | with_reducible apply keeps_ite | with_reducible apply keeps_foldl
    | with_reducible apply keeps_foldl_snd | intro _ | extract_lets | simp -zeta only [keeps_upd] | split | dsimp only

theorem State.idleRow_keeps {ro : Bool} {z s : State} (h : Keeps ro z s) (hw : Option Nat) :
    Keeps ro z (State.idleRow s hw) := by
  unfold State.idleRow
  repeat' first
    | with_reducible assumption | with_reducible apply State.count_keeps | with_reducible apply State.endRearm_keeps
    | with_reducible apply keeps_ite | with_reducible apply keeps_foldl | with_reducible apply keeps_foldl_snd
    | intro _ | extract_lets | simp -zeta only [keeps_upd] | split | dsimp only

theorem State.rowTaken_keeps {ro : Bool} {z s : State} (h : Keeps ro z s)  :
    Keeps ro z (State.rowTaken s) := by
  unfold State.rowTaken
  repeat' first
    | with_reducible assumption | with_reducible apply keeps_ite | with_reducible apply keeps_foldl
    | with_reducible apply keeps_foldl_snd | intro _ | extract_lets | simp -zeta only [keeps_upd] | split | dsimp only

theorem State.dropRow_keeps {ro : Bool} {z s : State} (h : Keeps ro z s) (hw : Option Nat) :
    Keeps ro z (State.dropRow s hw) := by
  unfold State.dropRow
  repeat' first
    | with_reducible assumption | with_reducible apply State.setSeg_keeps | with_reducible apply State.count_keeps
    | with_reducible apply keeps_ite | with_reducible apply keeps_foldl | with_reducible apply keeps_foldl_snd
    | intro _ | extract_lets | simp -zeta only [keeps_upd] | split | dsimp only

theorem State.keepRow_keeps {ro : Bool} {z s : State} (h : Keeps ro z s) (bits : List Nat) (hw : Option Nat × Bool) :
    Keeps ro z (State.keepRow s bits hw) := by
  unfold State.keepRow
  repeat' first
    | with_reducible assumption | with_reducible apply State.armedRow_keeps | with_reducible apply State.postRow_keeps
    | with_reducible apply State.idleRow_keeps | with_reducible apply keeps_ite | with_reducible apply keeps_foldl
    | with_reducible apply keeps_foldl_snd | intro _ | extract_lets | simp -zeta only [keeps_upd] | split | dsimp only

theorem wrDrArm_keeps {ro : Bool} {z s : State} (h : Keeps ro z s)  :
    Keeps ro z (wrDrArm s).2 := by
  unfold wrDrArm
  split
  · exact h
  · extract_lets e m s1
    have h1 : Keeps ro z s1 := (keeps_upd (t := s) ..).2 h
    clear_value s1
    split
    · exact State.put_keeps h _ _
    · exact State.needSeg_keeps (State.put_keeps (State.used_keeps h1) _ _)

theorem State.drStop_keeps {ro : Bool} {z s : State} (h : Keeps ro z s) (shed : Bool) :
    Keeps ro z (State.drStop s shed) := by
  unfold State.drStop
  repeat' first
    | with_reducible assumption | with_reducible apply State.dropSeg_keeps
    | with_reducible apply State.closeRecord_keeps | with_reducible apply State.put_keeps
    | with_reducible apply keeps_ite | with_reducible apply keeps_foldl | with_reducible apply keeps_foldl_snd
    | intro _ | extract_lets | simp -zeta only [keeps_upd] | split | dsimp only

theorem wrDrStop_keeps {ro : Bool} {z s : State} (h : Keeps ro z s)  :
    Keeps ro z (wrDrStop s).2 := by
  unfold wrDrStop
  repeat' first
    | with_reducible assumption | with_reducible apply State.drStop_keeps | with_reducible apply keeps_ite
    | with_reducible apply keeps_foldl | with_reducible apply keeps_foldl_snd | intro _ | extract_lets
    | simp -zeta only [keeps_upd] | split | dsimp only

theorem wrSwTrig_keeps {ro : Bool} {z s : State} (h : Keeps ro z s)  :
    Keeps ro z (wrSwTrig s).2 := by
  unfold wrSwTrig
  repeat' first
    | with_reducible assumption | with_reducible apply State.drEvent_keeps | with_reducible apply keeps_ite
    | with_reducible apply keeps_foldl | with_reducible apply keeps_foldl_snd | intro _ | extract_lets
    | simp -zeta only [keeps_upd] | split | dsimp only

theorem wrDrCtrl_keeps {ro : Bool} {z s : State} (h : Keeps ro z s) (arm : Bool) (stop : Bool) (swtrig : Bool) :
    Keeps ro z (wrDrCtrl arm stop swtrig s).2 := by
  unfold wrDrCtrl
  extract_lets r1 r2
  have h1 : Keeps ro z r1.2 := by
    unfold r1
    split
    · exact wrDrStop_keeps h
    · exact h
  have h2 : Keeps ro z r2.2 := by
    unfold r2
    split
    · exact wrDrArm_keeps h1
    · exact h1
  clear_value r2
  split
  · exact wrSwTrig_keeps h2
  · exact h2

theorem State.drShedRise_keeps {ro : Bool} {z s : State} (h : Keeps ro z s)  :
    Keeps ro z (State.drShedRise s) := by
  unfold State.drShedRise
  repeat' first
    | with_reducible assumption | with_reducible apply State.drStop_keeps | with_reducible apply State.put_keeps
    | with_reducible apply keeps_ite | with_reducible apply keeps_foldl | with_reducible apply keeps_foldl_snd
    | intro _ | extract_lets | simp -zeta only [keeps_upd] | split | dsimp only

theorem State.drShedFall_keeps {ro : Bool} {z s : State} (h : Keeps ro z s)  :
    Keeps ro z (State.drShedFall s) := by
  unfold State.drShedFall
  repeat' first
    | with_reducible assumption | with_reducible apply State.put_keeps | with_reducible apply wrDrArm_keeps
    | with_reducible apply keeps_ite | with_reducible apply keeps_foldl | with_reducible apply keeps_foldl_snd
    | intro _ | extract_lets | simp -zeta only [keeps_upd] | split | dsimp only

theorem wrDrRelease_keeps {ro : Bool} {z s : State} (h : Keeps ro z s) (rnum : Nat) :
    Keeps ro z (wrDrRelease rnum s).2 := by
  unfold wrDrRelease
  repeat' first
    | with_reducible assumption | with_reducible apply State.dropSeg_keeps | with_reducible apply State.wakeSeg_keeps
    | with_reducible apply keeps_ite | with_reducible apply keeps_foldl | with_reducible apply keeps_foldl_snd
    | intro _ | extract_lets | simp -zeta only [keeps_upd] | split | dsimp only

theorem State.ringChunk_keeps {ro : Bool} {z s : State} (h : Keeps ro z s) (last : Bool) :
    Keeps ro z (State.ringChunk s last) := by
  unfold State.ringChunk
  repeat' first
    | with_reducible assumption | with_reducible apply State.emit_keeps | with_reducible apply keeps_ite
    | with_reducible apply keeps_foldl | with_reducible apply keeps_foldl_snd | intro _ | extract_lets
    | simp -zeta only [keeps_upd] | split | dsimp only

theorem State.streamEnd_keeps {ro : Bool} {z s : State} (h : Keeps ro z s) (i : Nat) :
    Keeps ro z (State.streamEnd s i) := by
  unfold State.streamEnd
  repeat' first
    | with_reducible assumption | with_reducible apply State.dropSeg_keeps | with_reducible apply State.setSeg_keeps
    | with_reducible apply State.put_keeps | with_reducible apply State.startStream_keeps
    | with_reducible apply State.wakeSeg_keeps | with_reducible apply keeps_ite | with_reducible apply keeps_foldl
    | with_reducible apply keeps_foldl_snd | intro _ | extract_lets | simp -zeta only [keeps_upd] | split | dsimp only

theorem State.drEcc_keeps {ro : Bool} {z s : State} (h : Keeps ro z s) (ecc : Nat) :
    Keeps ro z (State.drEcc s ecc) := by
  unfold State.drEcc
  repeat' first
    | with_reducible assumption | with_reducible apply State.countN_keeps | with_reducible apply State.raise_keeps
    | with_reducible apply keeps_ite | with_reducible apply keeps_foldl | with_reducible apply keeps_foldl_snd
    | intro _ | extract_lets | simp -zeta only [keeps_upd] | split | dsimp only

end Sys2Proof.Machine
end

