-- ==== Sys2Proof/Laws/KeepsPowerStage.lean ====
section
/-! SUPPORT. What the operations of Machine/PowerStage.lean keep (Laws/Keeps.lean). -/

namespace Sys2Proof.Machine

theorem State.emitSym_keeps {ro : Bool} {z s : State} (h : Keeps ro z s) (n : Nat) (y : Sym) :
    Keeps ro z (State.emitSym s n y) := by
  unfold State.emitSym
  repeat' first
    | with_reducible assumption | with_reducible apply State.setChan_keeps | with_reducible apply State.gcmdOut_keeps
    | with_reducible apply keeps_ite | with_reducible apply keeps_foldl | with_reducible apply keeps_foldl_snd
    | intro _ | extract_lets | simp -zeta only [keeps_upd] | split | dsimp only

theorem State.sendTest_keeps {ro : Bool} {z s : State} (h : Keeps ro z s) (n : Nat) (sel : Nat) :
    Keeps ro z (State.sendTest s n sel) := by
  unfold State.sendTest
  repeat' first
    | with_reducible assumption | with_reducible apply State.emitSym_keeps | with_reducible apply State.setChan_keeps
    | with_reducible apply keeps_ite | with_reducible apply keeps_foldl | with_reducible apply keeps_foldl_snd
    | intro _ | extract_lets | simp -zeta only [keeps_upd] | split | dsimp only

theorem State.testSees_keeps {ro : Bool} {z s : State} (h : Keeps ro z s) (n : Nat) (sel : Nat) (began : Nat) (shown : Bool) :
    Keeps ro z (State.testSees s n sel began shown) := by
  unfold State.testSees
  repeat' first
    | with_reducible assumption | with_reducible apply State.sendTest_keeps | with_reducible apply keeps_ite
    | with_reducible apply keeps_foldl | with_reducible apply keeps_foldl_snd | intro _ | extract_lets
    | simp -zeta only [keeps_upd] | split | dsimp only

theorem State.testWord_keeps {ro : Bool} {z s : State} (h : Keeps ro z s) (n : Nat) :
    Keeps ro z (State.testWord s n) := by
  unfold State.testWord
  repeat' first
    | with_reducible assumption | with_reducible apply State.testSees_keeps | with_reducible apply keeps_ite
    | with_reducible apply keeps_foldl | with_reducible apply keeps_foldl_snd | intro _ | extract_lets
    | simp -zeta only [keeps_upd] | split | dsimp only

theorem State.adapt_keeps {ro : Bool} {z s : State} (h : Keeps ro z s) (n : Nat) (t : Nat) (turnOn : Bool) :
    Keeps ro z (State.adapt s n t turnOn) := by
  unfold State.adapt
  repeat' first
    | with_reducible assumption | with_reducible apply State.turnOn_keeps | with_reducible apply State.setChan_keeps
    | with_reducible apply State.put_keeps | with_reducible apply State.dueSets_keeps | with_reducible apply keeps_ite
    | with_reducible apply keeps_foldl | with_reducible apply keeps_foldl_snd | intro _ | extract_lets
    | simp -zeta only [keeps_upd] | split | dsimp only

theorem wrUnlatch_keeps {ro : Bool} {z s : State} (h : Keeps ro z s) (n : Nat) :
    Keeps ro z (wrUnlatch n s).2 := by
  unfold wrUnlatch
  repeat' first
    | with_reducible assumption | with_reducible apply State.put_keeps
    | with_reducible apply State.enterNotReady_keeps | with_reducible apply keeps_ite
    | with_reducible apply keeps_foldl | with_reducible apply keeps_foldl_snd | intro _ | extract_lets
    | simp -zeta only [keeps_upd] | split | dsimp only

theorem wrOv2Clr_keeps {ro : Bool} {z s : State} (h : Keeps ro z s)  :
    Keeps ro z (wrOv2Clr s).2 := by
  unfold wrOv2Clr
  repeat' first
    | with_reducible assumption | with_reducible apply State.put_keeps | with_reducible apply State.updPblk_keeps
    | with_reducible apply State.refollow_keeps | with_reducible apply keeps_ite | with_reducible apply keeps_foldl
    | with_reducible apply keeps_foldl_snd | intro _ | extract_lets | simp -zeta only [keeps_upd] | split | dsimp only

theorem State.byPins_keeps {ro : Bool} {z s : State} (h : Keeps ro z s) (b : Bool) :
    Keeps ro z (State.byPins s b) := by
  unfold State.byPins
  repeat' first
    | with_reducible assumption | with_reducible apply State.emit_keeps | with_reducible apply keeps_ite
    | with_reducible apply keeps_foldl | with_reducible apply keeps_foldl_snd | intro _ | extract_lets
    | simp -zeta only [keeps_upd] | split | dsimp only

theorem wrBypArm_keeps {ro : Bool} {z s : State} (h : Keeps ro z s) (at' : Nat) :
    Keeps ro z (wrBypArm at' s).2 := by
  unfold wrBypArm
  repeat' first
    | with_reducible assumption | with_reducible apply State.advance_keeps | with_reducible apply keeps_ite
    | with_reducible apply keeps_foldl | with_reducible apply keeps_foldl_snd | intro _ | extract_lets
    | simp -zeta only [keeps_upd] | split | dsimp only

theorem wrBypFire_keeps {ro : Bool} {z s : State} (h : Keeps ro z s) (at' : Nat) :
    Keeps ro z (wrBypFire at' s).2 := by
  unfold wrBypFire
  repeat' first
    | with_reducible assumption | with_reducible apply State.advance_keeps | with_reducible apply State.bypass_keeps
    | with_reducible apply keeps_ite | with_reducible apply keeps_foldl | with_reducible apply keeps_foldl_snd
    | intro _ | extract_lets | simp -zeta only [keeps_upd] | split | dsimp only

theorem wrBypClear_keeps {ro : Bool} {z s : State} (h : Keeps ro z s)  :
    Keeps ro z (wrBypClear s).2 := by
  unfold wrBypClear
  extract_lets m s0 m' s1
  have h0 : Keeps ro z s0 := (keeps_upd (t := s) ..).2 h
  have h1 : Keeps ro z s1 := State.put_keeps ((keeps_upd (t := s0) ..).2 h0) _ _
  split
  · exact h0
  · split
    · exact h0
    · dsimp only
      split
      · exact State.refollow_keeps (State.setDchg_keeps h1 _)
      · exact State.refollow_keeps h1

theorem wrTest_keeps {ro : Bool} {z s : State} (h : Keeps ro z s) (sel : Nat) (ch : Nat) :
    Keeps ro z (wrTest sel ch s).2 := by
  unfold wrTest
  split
  · exact h
  · extract_lets m s1 s2
    have h1 : Keeps ro z s1 := (keeps_upd (t := s) ..).2 h
    have h2 : Keeps ro z s2 := State.put_keeps (State.put_keeps (State.put_keeps h1 _ _) _ _) _ _
    split
    · dsimp only
      split
      · exact (keeps_upd (t := s2.sendTest ch sel) ..).2 (State.sendTest_keeps h2 _ _)
      · split
        · exact State.setDchg_keeps h2 _
        · exact h2
    · exact State.put_keeps h _ _

theorem State.endTest_keeps {ro : Bool} {z s : State} (h : Keeps ro z s) (seen : Bool) :
    Keeps ro z (State.endTest s seen) := by
  unfold State.endTest
  repeat' first
    | with_reducible assumption | with_reducible apply State.sendTest_keeps | with_reducible apply State.put_keeps
    | with_reducible apply State.putB_keeps | with_reducible apply State.refollow_keeps
    | with_reducible apply State.raise_keeps | with_reducible apply State.event_keeps | with_reducible apply keeps_ite
    | with_reducible apply keeps_foldl | with_reducible apply keeps_foldl_snd | intro _ | extract_lets
    | simp -zeta only [keeps_upd] | split | dsimp only

theorem State.answerTest_keeps {ro : Bool} {z s : State} (h : Keeps ro z s)  :
    Keeps ro z (State.answerTest s) := by
  unfold State.answerTest
  repeat' first
    | with_reducible assumption | with_reducible apply State.reply_keeps | with_reducible apply keeps_ite
    | with_reducible apply keeps_foldl | with_reducible apply keeps_foldl_snd | intro _ | extract_lets
    | simp -zeta only [keeps_upd] | split | dsimp only

theorem State.followCell_keeps {ro : Bool} {z s : State} (h : Keeps ro z s) (n : Nat) :
    Keeps ro z (State.followCell s n) := by
  unfold State.followCell
  repeat' first
    | with_reducible assumption | with_reducible apply State.turnOn_keeps | with_reducible apply State.sendNow_keeps
    | with_reducible apply keeps_ite | with_reducible apply keeps_foldl | with_reducible apply keeps_foldl_snd
    | intro _ | extract_lets | simp -zeta only [keeps_upd] | split | dsimp only

theorem wrManual_keeps {ro : Bool} {z s : State} (h : Keeps ro z s) (n : Nat) (man : Bool) (manOn : Bool) :
    Keeps ro z (wrManual n man manOn s).2 := by
  unfold wrManual
  repeat' first
    | with_reducible assumption | with_reducible apply State.putB_keeps | with_reducible apply State.followCell_keeps
    | with_reducible apply State.manualLeg_keeps | with_reducible apply keeps_ite | with_reducible apply keeps_foldl
    | with_reducible apply keeps_foldl_snd | intro _ | extract_lets | simp -zeta only [keeps_upd] | split | dsimp only

theorem wrPulse_keeps {ro : Bool} {z s : State} (h : Keeps ro z s) (n : Nat) (width : Nat) :
    Keeps ro z (wrPulse n width s).2 := by
  unfold wrPulse
  repeat' first
    | with_reducible assumption | with_reducible apply State.count_keeps | with_reducible apply State.turnOn_keeps
    | with_reducible apply State.schedule_keeps | with_reducible apply keeps_ite | with_reducible apply keeps_foldl
    | with_reducible apply keeps_foldl_snd | intro _ | extract_lets | simp -zeta only [keeps_upd] | split | dsimp only

theorem State.closeWindow_keeps {ro : Bool} {z s : State} (h : Keeps ro z s) (n : Nat) (change : Bool) :
    Keeps ro z (State.closeWindow s n change) := by
  unfold State.closeWindow
  repeat' first
    | with_reducible assumption | with_reducible apply State.count_keeps | with_reducible apply keeps_ite
    | with_reducible apply keeps_foldl | with_reducible apply keeps_foldl_snd | intro _ | extract_lets
    | simp -zeta only [keeps_upd] | split | dsimp only

theorem State.commanded_keeps {ro : Bool} {z s0 : State} (h : Keeps ro z s0) (n : Nat) (t : Nat) (y : Sym) :
    Keeps ro z (State.commanded s0 n t y) := by
  unfold State.commanded
  repeat' first
    | with_reducible assumption | with_reducible apply State.closeWindow_keeps
    | with_reducible apply State.setChan_keeps | with_reducible apply State.putB_keeps
    | with_reducible apply keeps_ite | with_reducible apply keeps_foldl | with_reducible apply keeps_foldl_snd
    | intro _ | extract_lets | simp -zeta only [keeps_upd] | split | dsimp only

end Sys2Proof.Machine
end

