-- ==== Sys2Proof/Laws/KeepsFaults.lean ====
section
/-! SUPPORT. What the operations of Machine/Faults.lean keep (Laws/Keeps.lean). -/

namespace Sys2Proof.Machine

theorem State.fltFollow_keeps {ro : Bool} {z s : State} (h : Keeps ro z s) (n : Nat) :
    Keeps ro z (State.fltFollow s n) := by
  unfold State.fltFollow
  repeat' first
    | with_reducible assumption | with_reducible apply State.levelOn_keeps | with_reducible apply State.levelOff_keeps
    | with_reducible apply keeps_ite | with_reducible apply keeps_foldl | with_reducible apply keeps_foldl_snd
    | intro _ | extract_lets | simp -zeta only [keeps_upd] | split | dsimp only

theorem State.fltStrobed_keeps {ro : Bool} {z s : State} (h : Keeps ro z s) (o : State) :
    Keeps ro z (State.fltStrobed s o) := by
  unfold State.fltStrobed
  repeat' first
    | with_reducible assumption | with_reducible apply State.fltFollow_keeps | with_reducible apply keeps_ite
    | with_reducible apply keeps_foldl | with_reducible apply keeps_foldl_snd | intro _ | extract_lets
    | simp -zeta only [keeps_upd] | split | dsimp only

theorem State.forceOn_keeps {ro : Bool} {z s : State} (h : Keeps ro z s) (src : Nat) (was : Bool) :
    Keeps ro z (State.forceOn s src was) := by
  unfold State.forceOn
  repeat' first
    | with_reducible assumption | with_reducible apply State.beginAssert_keeps | with_reducible apply keeps_ite
    | with_reducible apply keeps_foldl | with_reducible apply keeps_foldl_snd | intro _ | extract_lets
    | simp -zeta only [keeps_upd] | split | dsimp only

theorem wrForce_keeps {ro : Bool} {z s : State} (h : Keeps ro z s) (r : Nat) (v : Nat) :
    Keeps ro z (wrForce r v s).2 := by
  unfold wrForce
  repeat' first
    | with_reducible assumption | with_reducible apply State.put_keeps | with_reducible apply State.settle_keeps
    | with_reducible apply State.forceOn_keeps | with_reducible apply keeps_ite | with_reducible apply keeps_foldl
    | with_reducible apply keeps_foldl_snd | intro _ | extract_lets | simp -zeta only [keeps_upd] | split | dsimp only

theorem wrFeed_keeps {ro : Bool} {z s : State} (h : Keeps ro z s) (key : Nat) :
    Keeps ro z (wrFeed key s).2 := by
  unfold wrFeed
  repeat' first
    | with_reducible assumption | with_reducible apply State.put_keeps | with_reducible apply State.count_keeps
    | with_reducible apply keeps_ite | with_reducible apply keeps_foldl | with_reducible apply keeps_foldl_snd
    | intro _ | extract_lets | simp -zeta only [keeps_upd] | split | dsimp only

theorem State.copyTail_keeps {ro : Bool} {z s : State} (h : Keeps ro z s) (e : FbEnt) :
    Keeps ro z (State.copyTail s e).1 := by
  unfold State.copyTail
  repeat' first
    | with_reducible assumption | with_reducible apply State.put_keeps | with_reducible apply keeps_ite
    | with_reducible apply keeps_foldl | with_reducible apply keeps_foldl_snd | intro _ | extract_lets
    | simp -zeta only [keeps_upd] | split | dsimp only

theorem State.copyTails_keeps {ro : Bool} {z s : State} (h : Keeps ro z s) (a1 : List FbEnt) :
    Keeps ro z (State.copyTails s a1).1 := by
  induction a1 generalizing s with
  | nil => exact h
  | cons e t ih => exact ih (State.copyTail_keeps h _)

theorem State.writeRing_keeps {ro : Bool} {z s : State} (h : Keeps ro z s)  :
    Keeps ro z (State.writeRing s) := by
  unfold State.writeRing
  repeat' first
    | with_reducible assumption | with_reducible apply State.put_keeps | with_reducible apply keeps_ite
    | with_reducible apply keeps_foldl | with_reducible apply keeps_foldl_snd | intro _ | extract_lets
    | simp -zeta only [keeps_upd] | split | dsimp only

theorem wrFreeze_keeps {ro : Bool} {z s : State} (h : Keeps ro z s) (b : Bool) :
    Keeps ro z (wrFreeze b s).2 := by
  unfold wrFreeze
  repeat' first
    | with_reducible assumption | with_reducible apply State.putB_keeps | with_reducible apply keeps_ite
    | with_reducible apply keeps_foldl | with_reducible apply keeps_foldl_snd | intro _ | extract_lets
    | simp -zeta only [keeps_upd] | split | dsimp only

theorem wrRingClear_keeps {ro : Bool} {z s : State} (h : Keeps ro z s)  :
    Keeps ro z (wrRingClear s).2 := by
  unfold wrRingClear
  repeat' first
    | with_reducible assumption | with_reducible apply State.event_keeps | with_reducible apply keeps_ite
    | with_reducible apply keeps_foldl | with_reducible apply keeps_foldl_snd | intro _ | extract_lets
    | simp -zeta only [keeps_upd] | split | dsimp only

theorem wrTailClear_keeps {ro : Bool} {z s : State} (h : Keeps ro z s)  :
    Keeps ro z (wrTailClear s).2 := by
  unfold wrTailClear
  repeat' first
    | with_reducible assumption | with_reducible apply State.event_keeps | with_reducible apply keeps_ite
    | with_reducible apply keeps_foldl | with_reducible apply keeps_foldl_snd | intro _ | extract_lets
    | simp -zeta only [keeps_upd] | split | dsimp only

theorem State.setAlive_keeps {ro : Bool} {z s : State} (h : Keeps ro z s) (b : Bool) :
    Keeps ro z (State.setAlive s b) := by
  unfold State.setAlive
  repeat' first
    | with_reducible assumption | with_reducible apply State.emit_keeps | with_reducible apply keeps_ite
    | with_reducible apply keeps_foldl | with_reducible apply keeps_foldl_snd | intro _ | extract_lets
    | simp -zeta only [keeps_upd] | split | dsimp only

end Sys2Proof.Machine
end

