-- ==== Sys2Proof/Laws/KeepsSafe.lean ====
section
/-! SUPPORT. What the operations of Machine/Safe.lean keep (Laws/Keeps.lean). -/

namespace Sys2Proof.Machine

/-- A channel that permits only if it did before. -/
theorem State.setSafeCh_keeps {ro : Bool} {z s : State} (h : Keeps ro z s) (y : Bool) (c : Chan)
    (hc : c.permit = true → (s.safeCh y).permit = true) : Keeps ro z (State.setSafeCh s y c) := by
  unfold State.setSafeCh
  split
  · rename_i e
    subst e
    exact keeps_updSf h { s.sf with y := c } (fun x => x) hc _ _ _
  · rename_i e
    have e := Bool.eq_false_iff.2 e
    subst e
    exact keeps_updSf h { s.sf with x := c } hc (fun x => x) _ _ _

theorem Chan.srst_permit (c : Chan) (a b : Bool) (t : Nat) : (c.srst a b t).permit = c.permit := by
  simp only [Chan.srst]
  split <;> rfl

theorem State.mirrorInputs_keeps {ro : Bool} {z s : State} (h : Keeps ro z s)  :
    Keeps ro z (State.mirrorInputs s) := by
  unfold State.mirrorInputs
  repeat' first
    | with_reducible assumption | with_reducible apply State.putB_keeps | with_reducible apply keeps_ite
    | with_reducible apply keeps_foldl | with_reducible apply keeps_foldl_snd | intro _ | extract_lets
    | simp -zeta only [keeps_upd] | split | dsimp only

theorem State.rstInfo_keeps {ro : Bool} {z s : State} (h : Keeps ro z s) (result : Nat) (ms : Nat) :
    Keeps ro z (State.rstInfo s result ms) := by
  unfold State.rstInfo
  repeat' first
    | with_reducible assumption | with_reducible apply State.put_keeps | with_reducible apply keeps_ite
    | with_reducible apply keeps_foldl | with_reducible apply keeps_foldl_snd | intro _ | extract_lets
    | simp -zeta only [keeps_upd] | split | dsimp only

theorem State.judgePress_keeps {ro : Bool} {z s : State} (h : Keeps ro z s) (y : Bool) :
    Keeps ro z (State.judgePress s y) := by
  unfold State.judgePress
  extract_lets c
  split
  · exact h
  split
  · exact State.setSafeCh_keeps h _ _ fun x => x
  · exact State.setSafeCh_keeps h _ _ fun x => x
  · exact State.rstInfo_keeps (State.setSafeCh_keeps h _ { c with pressOk := false } fun x => x) _ _

theorem State.srstIn_keeps {ro : Bool} {z s : State} (h : Keeps ro z s) (y : Bool) (a : Bool) (b : Bool) :
    Keeps ro z (State.srstIn s y a b) := by
  unfold State.srstIn
  extract_lets c s1
  have h1 : Keeps ro z s1 := State.setSafeCh_keeps h _ _ fun x => Chan.srst_permit c a b _ ▸ x
  clear_value s1
  split
  · exact State.judgePress_keeps h1 _
  · exact h1

/-- A completed reset may leave BLOCKED; it keeps all else. -/
theorem State.completeReset_keeps {ro : Bool} {z s : State} (h : Keeps ro z.allowed s) : Keeps ro z.allowed s.completeReset := by
  unfold State.completeReset
  extract_lets x y m s1 s2 s3
  have h1 : Keeps ro z.allowed s1 := State.mirrorSafe_keeps (keeps_allowedSf h _)
  have h2 : Keeps ro z.allowed s2 := State.rstInfo_keeps h1 _ _
  have h3 : Keeps ro z.allowed s3 := by
    unfold s3
    split
    · exact State.put_keeps (State.put_keeps (State.count_keeps h2 _) _ _) _ _
    · exact h2
  clear_value s3
  split
  · exact State.raise_keeps (State.count_keeps h3 _) _
  · exact h3

theorem wrSafeLock_keeps {ro : Bool} {z s : State} (h : Keeps ro z s) (agree : Bool) :
    Keeps ro z (wrSafeLock agree s).2 := by
  unfold wrSafeLock
  repeat' first
    | (with_reducible exact fun h => h) | (with_reducible exact fun h => and_left h) | with_reducible assumption
    | with_reducible apply State.used_keeps | with_reducible apply State.put_keeps
    | with_reducible apply State.putB_keeps | with_reducible apply State.raise_keeps | with_reducible apply keeps_ite
    | with_reducible apply keeps_foldl | with_reducible apply keeps_foldl_snd | intro _ | extract_lets
    | simp -zeta only [keeps_upd] | split | dsimp only | with_reducible refine keeps_updSf ?_ _ ?_ ?_ _ _ _

theorem State.gateGcmd_keeps {ro : Bool} {z s : State} (h : Keeps ro z s)  :
    Keeps ro z (State.gateGcmd s) := by
  unfold State.gateGcmd
  repeat' first
    | with_reducible assumption | with_reducible apply State.put_keeps | with_reducible apply State.emits_keeps
    | with_reducible apply keeps_ite | with_reducible apply keeps_foldl | with_reducible apply keeps_foldl_snd
    | intro _ | extract_lets | simp -zeta only [keeps_upd] | split | dsimp only

end Sys2Proof.Machine
end

