-- ==== Sys2Proof/Laws/KeepsRegs.lean ====
section
/-! SUPPORT. What the operations of Machine/Regs.lean keep (Laws/Keeps.lean). -/

namespace Sys2Proof.Machine

theorem State.refuse_keeps {ro : Bool} {z s : State} (h : Keeps ro z s) (g : Nat) :
    Keeps ro z (State.refuse s g) := by
  unfold State.refuse
  repeat' first
    | with_reducible assumption | with_reducible apply State.put_keeps | with_reducible apply State.raise_keeps
    | with_reducible apply State.raiseSpare_keeps | with_reducible apply keeps_ite | with_reducible apply keeps_foldl
    | with_reducible apply keeps_foldl_snd | intro _ | extract_lets | simp -zeta only [keeps_upd] | split | dsimp only

theorem State.moveGroup_keeps {ro : Bool} {z s : State} (h : Keeps ro z s) (g : Nat) :
    Keeps ro z (State.moveGroup s g) := ⟨h.pending, h.device, h.clock, fun g' => ⟨(h.sound g').1, (h.sound g').2.1, (h.sound g').2.2.1,
    kwf_foldl _ (fun m b hm => by
      split
      · exact kwf_kset _ _ _ hm
      · exact hm) _ _ (h.sound g').2.2.2⟩, h.memory, h.blocked⟩

theorem State.applyMargins_keeps {ro : Bool} {z s : State} (h : Keeps ro z s)  :
    Keeps ro z (State.applyMargins s) := by
  unfold State.applyMargins
  repeat' first
    | with_reducible assumption | with_reducible apply State.applyMargin_keeps | with_reducible apply keeps_ite
    | with_reducible apply keeps_foldl | with_reducible apply keeps_foldl_snd | intro _ | extract_lets
    | simp -zeta only [keeps_upd] | split | dsimp only

theorem State.linksStrobed_keeps {ro : Bool} {z s : State} (h : Keeps ro z s) (ls : List Nat) :
    Keeps ro z (State.linksStrobed s ls) := by
  unfold State.linksStrobed
  repeat' first
    | with_reducible assumption | with_reducible apply State.linkStrobed_keeps | with_reducible apply keeps_ite
    | with_reducible apply keeps_foldl | with_reducible apply keeps_foldl_snd | intro _ | extract_lets
    | simp -zeta only [keeps_upd] | split | dsimp only

theorem State.strobed_keeps {ro : Bool} {z s : State} (h : Keeps ro z s) (o : State) (g : Nat) :
    Keeps ro z (State.strobed s o g) := by
  unfold State.strobed
  repeat' first
    | with_reducible assumption | with_reducible apply State.tbStrobed_keeps
    | with_reducible apply State.linksStrobed_keeps | with_reducible apply State.applyMargins_keeps
    | with_reducible apply State.raiseSpare_keeps | with_reducible apply State.restStrobed_keeps
    | with_reducible apply State.gsStrobed_keeps | with_reducible apply State.fltStrobed_keeps
    | with_reducible apply State.auxStrobed_keeps | with_reducible apply State.schedStrobed_keeps
    | with_reducible apply State.cfStrobed_keeps | with_reducible apply State.twinStrobed_keeps
    | with_reducible apply keeps_ite | with_reducible apply keeps_foldl | with_reducible apply keeps_foldl_snd
    | intro _ | extract_lets | simp -zeta only [keeps_upd] | split | dsimp only

theorem State.strobe1_keeps {ro : Bool} {z s : State} (h : Keeps ro z s) (g : Nat) :
    Keeps ro z (State.strobe1 s g).2 := by
  unfold State.strobe1
  repeat' first
    | with_reducible assumption | with_reducible apply State.moveGroup_keeps
    | with_reducible apply State.strobed_keeps | with_reducible apply State.capNews_keeps
    | with_reducible apply State.refuse_keeps | with_reducible apply State.put_keeps | with_reducible apply keeps_ite
    | with_reducible apply keeps_foldl | with_reducible apply keeps_foldl_snd | intro _ | extract_lets
    | simp -zeta only [keeps_upd] | split | dsimp only

theorem State.strobe_keeps {ro : Bool} {z s : State} (h : Keeps ro z s) (mask : Nat) :
    Keeps ro z (State.strobe s mask).2 := by
  unfold State.strobe
  repeat' first
    | with_reducible assumption | with_reducible apply State.strobe1_keeps | with_reducible apply keeps_ite
    | with_reducible apply keeps_foldl | with_reducible apply keeps_foldl_snd | intro _ | extract_lets
    | simp -zeta only [keeps_upd] | split | dsimp only

/-- A strobe that leaves out the late writes keeps what the strobe keeps. -/
theorem State.atStart_keeps {ro : Bool} {z s : State} {f : State → State} (hf : ∀ t, Keeps ro z t → Keeps ro z (f t))
    (h : Keeps ro z s) : Keeps ro z (State.atStart s f) := by
  unfold State.atStart
  extract_lets ls r
  have h0 : Keeps ro z r := hf _ ⟨h.pending, h.device, h.clock, fun g => ⟨(h.sound g).1, (h.sound g).2.1,
    kwf_foldl _ (fun _ _ hm => kwf_kset _ _ _ hm) _ _ (h.sound g).2.2.1, (h.sound g).2.2.2⟩, h.memory, h.blocked⟩
  clear_value r
  exact ⟨h0.pending, h0.device, h0.clock, fun g => ⟨(h0.sound g).1, (h0.sound g).2.1,
    kwf_foldl _ (fun m b hm => by
      split
      · exact kwf_kset _ _ _ hm
      · exact hm) _ _ (h0.sound g).2.2.1, (h0.sound g).2.2.2⟩, h0.memory, h0.blocked⟩

theorem State.wideItem_keeps {ro : Bool} {z s : State} (h : Keeps ro z s) (item : Nat) :
    Keeps ro z (State.wideItem s item).2 := by
  unfold State.wideItem
  repeat' first
    | with_reducible assumption | with_reducible apply keeps_ite | with_reducible apply keeps_foldl
    | with_reducible apply keeps_foldl_snd | intro _ | extract_lets | simp -zeta only [keeps_upd] | split | dsimp only

theorem State.capture_keeps {ro : Bool} {z s : State} (h : Keeps ro z s) (item : Nat) :
    Keeps ro z (State.capture s item).2 := by
  unfold State.capture
  repeat' first
    | with_reducible assumption | with_reducible apply State.put_keeps | with_reducible apply State.wideItem_keeps
    | with_reducible apply keeps_ite | with_reducible apply keeps_foldl | with_reducible apply keeps_foldl_snd
    | intro _ | extract_lets | simp -zeta only [keeps_upd] | split | dsimp only

theorem State.storeField_keeps {ro : Bool} {z s : State} (h : Keeps ro z s) (x : FSpec) (w : Nat) :
    Keeps ro z (State.storeField s x w) := by
  unfold State.storeField
  repeat' first
    | with_reducible assumption | with_reducible apply State.setShadow_keeps | with_reducible apply State.put_keeps
    | with_reducible apply keeps_ite | with_reducible apply keeps_foldl | with_reducible apply keeps_foldl_snd
    | intro _ | extract_lets | simp -zeta only [keeps_upd] | split | dsimp only

theorem State.storeWord_keeps {ro : Bool} {z s : State} (h : Keeps ro z s) (addr : Nat) (xs : List FSpec) (w : Nat) :
    Keeps ro z (State.storeWord s addr xs w) := by
  unfold State.storeWord
  repeat' first
    | with_reducible assumption | with_reducible apply State.storeField_keeps | with_reducible apply keeps_ite
    | with_reducible apply keeps_foldl | with_reducible apply keeps_foldl_snd | intro _ | extract_lets
    | simp -zeta only [keeps_upd] | split | dsimp only

/-- A second action after a first keeps what both keep. -/
theorem thenWrite_keeps {ro : Bool} {z : State} {a b : Write} (ha : ∀ s, Keeps ro z s → Keeps ro z (a s).2)
    (hb : ∀ s, Keeps ro z s → Keeps ro z (b s).2) {s : State} (h : Keeps ro z s) : Keeps ro z (thenWrite a b s).2 := by
  unfold thenWrite
  dsimp only
  split
  · split
    · exact hb _ (ha _ h)
    · exact h
  · exact ha _ h

/-- A conditional action keeps what the action keeps. -/
theorem whenWrite_keeps {ro : Bool} {z : State} {a : Write} (c : Bool) (ha : ∀ s, Keeps ro z s → Keeps ro z (a s).2) {s : State}
    (h : Keeps ro z s) : Keeps ro z (whenWrite c a s).2 := by
  unfold whenWrite
  split
  · exact ha _ h
  · exact h

theorem wrLock_keeps {ro : Bool} {z s : State} (h : Keeps ro z s) (agree : Bool) (mask : Nat) :
    Keeps ro z (wrLock agree mask s).2 := by
  unfold wrLock
  repeat' first
    | with_reducible assumption | with_reducible apply State.put_keeps | with_reducible apply wrSafeLock_keeps
    | with_reducible apply keeps_ite | with_reducible apply keeps_foldl | with_reducible apply keeps_foldl_snd
    | intro _ | extract_lets | simp -zeta only [keeps_upd] | split | dsimp only

theorem wrFbCtrl_keeps {ro : Bool} {z s : State} (h : Keeps ro z s) (w : Nat) :
    Keeps ro z (wrFbCtrl w s).2 := by
  unfold wrFbCtrl
  repeat' first
    | with_reducible assumption | with_reducible apply thenWrite_keeps | with_reducible apply wrRingClear_keeps
    | with_reducible apply wrFreeze_keeps | with_reducible apply wrTailClear_keeps | with_reducible apply keeps_ite
    | with_reducible apply keeps_foldl | with_reducible apply keeps_foldl_snd | intro _ | extract_lets
    | simp -zeta only [keeps_upd] | split | dsimp only

theorem wrBypCmd_keeps {ro : Bool} {z s : State} (h : Keeps ro z s) (code : Nat) :
    Keeps ro z (wrBypCmd code s).2 := by
  unfold wrBypCmd
  repeat' first
    | with_reducible assumption | with_reducible apply wrBypArm_keeps | with_reducible apply wrBypFire_keeps
    | with_reducible apply wrBypClear_keeps | with_reducible apply keeps_ite | with_reducible apply keeps_foldl
    | with_reducible apply keeps_foldl_snd | intro _ | extract_lets | simp -zeta only [keeps_upd] | split | dsimp only

theorem wrAdInj_keeps {ro : Bool} {z s : State} (h : Keeps ro z s) (n : Nat) (addr : Nat) (xs : List FSpec) (w : Nat) :
    Keeps ro z (wrAdInj n addr xs w s).2 := by
  unfold wrAdInj
  repeat' first
    | with_reducible assumption | with_reducible apply wrInject_keeps | with_reducible apply State.storeWord_keeps
    | with_reducible apply keeps_ite | with_reducible apply keeps_foldl | with_reducible apply keeps_foldl_snd
    | intro _ | extract_lets | simp -zeta only [keeps_upd] | split | dsimp only

theorem wrSetFlag_keeps {ro : Bool} {z s : State} (h : Keeps ro z s) (w : Nat) :
    Keeps ro z (wrSetFlag w s).2 := by
  unfold wrSetFlag
  repeat' first
    | with_reducible assumption | with_reducible apply State.setFlags_keeps | with_reducible apply keeps_ite
    | with_reducible apply keeps_foldl | with_reducible apply keeps_foldl_snd | intro _ | extract_lets
    | simp -zeta only [keeps_upd] | split | dsimp only

theorem wrInjCtrl_keeps {ro : Bool} {z s : State} (h : Keeps ro z s) (g : Nat) (w : Nat) :
    Keeps ro z (wrInjCtrl g w s).2 := by
  unfold wrInjCtrl
  repeat' first
    | with_reducible assumption | with_reducible apply thenWrite_keeps | with_reducible apply whenWrite_keeps
    | with_reducible apply State.put_keeps | with_reducible apply wrInjArm_keeps | with_reducible apply keeps_ite
    | with_reducible apply keeps_foldl | with_reducible apply keeps_foldl_snd | intro _ | extract_lets
    | simp -zeta only [keeps_upd] | split | dsimp only

theorem wrStbFire_keeps {ro : Bool} {z s : State} (h : Keeps ro z s) (mask : Nat) :
    Keeps ro z (wrStbFire mask s).2 := by
  unfold wrStbFire
  repeat' first
    | with_reducible assumption | with_reducible apply State.strobe_keeps | with_reducible apply keeps_ite
    | with_reducible apply keeps_foldl | with_reducible apply keeps_foldl_snd | intro _ | extract_lets
    | simp -zeta only [keeps_upd] | split | dsimp only

theorem wrMbReq_keeps {ro : Bool} {z s : State} (h : Keeps ro z s) (item : Nat) :
    Keeps ro z (wrMbReq item s).2 := by
  unfold wrMbReq
  repeat' first
    | with_reducible assumption | with_reducible apply State.capture_keeps | with_reducible apply keeps_ite
    | with_reducible apply keeps_foldl | with_reducible apply keeps_foldl_snd | intro _ | extract_lets
    | simp -zeta only [keeps_upd] | split | dsimp only

/-- An action that may be there keeps what the relation says. -/
def Acts (ro : Bool) (z : State) (o : Option Write) : Prop := ∀ f, o = some f → ∀ s, Keeps ro z s → Keeps ro z (f s).2

theorem actsNone {ro : Bool} {z : State} : Acts ro z none := fun _ e => nomatch e

theorem actsSome {ro : Bool} {z : State} {f : Write} (h : ∀ s, Keeps ro z s → Keeps ro z (f s).2) : Acts ro z (some f) := by
  intro g e
  cases e
  exact h

theorem actsIte {ro : Bool} {z : State} (c : Prop) [Decidable c] {a b : Option Write} (ha : Acts ro z a) (hb : Acts ro z b) :
    Acts ro z (if c then a else b) := by
  split
  · exact ha
  · exact hb

theorem actsMap {ro : Bool} {z : State} {α : Type} {o : Option α} {g : α → Write} (h : ∀ x s, Keeps ro z s → Keeps ro z (g x s).2) :
    Acts ro z (o.map g) := by
  cases o with
  | none => exact actsNone
  | some x => exact actsSome (h x)

/-- The writes of the words that do more than take a value. -/
theorem specialCommon_keeps {ro : Bool} {z : State} (addr : Nat) (xs : List FSpec) (w : Nat) : Acts ro z (specialCommon addr xs w) := by
  unfold specialCommon
  extract_lets plain
  have hp : ∀ s, Keeps ro z s → Keeps ro z (plain s).2 := fun s h => State.storeWord_keeps h _ _ _
  clear_value plain
  repeat' first
    | with_reducible assumption | exact hp _ (by assumption) | with_reducible apply actsNone
    | with_reducible apply actsMap | with_reducible apply actsIte | with_reducible apply wrLock_keeps
    | with_reducible apply wrFeed_keeps | with_reducible apply wrFbCtrl_keeps | with_reducible apply thenWrite_keeps
    | with_reducible apply whenWrite_keeps | with_reducible apply wrStep_keeps | with_reducible apply wrFtrim_keeps
    | with_reducible apply State.applyTrim_keeps | with_reducible apply wrStbFire_keeps
    | with_reducible apply wrMbReq_keeps | with_reducible apply wrDrCtrl_keeps
    | with_reducible apply wrDrRelease_keeps | with_reducible apply wrCalStart_keeps
    | with_reducible apply wrRotStart_keeps | with_reducible apply wrForce_keeps
    | with_reducible apply wrRestart_keeps | with_reducible apply wrInj_keeps
    | with_reducible apply State.adTrigger_keeps | with_reducible apply wrAdInj_keeps | with_reducible apply actsSome | split
    | intro _ _ | intro _ | dsimp only

/-- Likewise in the blocks of a Stake. -/
theorem specialStake_keeps {ro : Bool} {z : State} (addr : Nat) (xs : List FSpec) (w : Nat) : Acts ro z (specialStake addr xs w) := by
  unfold specialStake
  extract_lets plain
  have hp : ∀ s, Keeps ro z s → Keeps ro z (plain s).2 := fun s h => State.storeWord_keeps h _ _ _
  clear_value plain
  repeat' first
    | with_reducible assumption | exact hp _ (by assumption) | with_reducible apply actsNone
    | with_reducible apply actsMap | with_reducible apply actsIte | with_reducible apply thenWrite_keeps
    | with_reducible apply whenWrite_keeps | with_reducible apply wrOv2Clr_keeps | with_reducible apply wrBypCmd_keeps
    | with_reducible apply wrTest_keeps | with_reducible apply wrManual_keeps | with_reducible apply wrUnlatch_keeps
    | with_reducible apply wrPulse_keeps | with_reducible apply actsSome | split | intro _ _
    | intro _ | dsimp only

/-- Likewise in the blocks of a Datum. -/
theorem specialDatum_keeps {ro : Bool} {z : State} (addr : Nat) (xs : List FSpec) (w : Nat) : Acts ro z (specialDatum addr xs w) := by
  unfold specialDatum
  extract_lets plain
  have hp : ∀ s, Keeps ro z s → Keeps ro z (plain s).2 := fun s h => State.storeWord_keeps h _ _ _
  clear_value plain
  repeat' first
    | with_reducible assumption | exact hp _ (by assumption) | with_reducible apply actsNone
    | with_reducible apply actsMap | with_reducible apply actsIte | with_reducible apply thenWrite_keeps
    | with_reducible apply whenWrite_keeps | with_reducible apply wrSetFlag_keeps
    | with_reducible apply State.cancel_keeps | with_reducible apply wrSwapReq_keeps
    | with_reducible apply State.dropSwap_keeps | with_reducible apply wrJoin_keeps
    | with_reducible apply wrHandover_keeps | with_reducible apply wrInjCtrl_keeps
    | with_reducible apply wrOgLoad_keeps | with_reducible apply State.release1_keeps | with_reducible apply actsSome | split
    | intro _ _ | intro _ | dsimp only

theorem State.takeWord_keeps {ro : Bool} {z s : State} (h : Keeps ro z s) (addr : Nat) (xs : List FSpec) (w : Nat) :
    Keeps ro z (State.takeWord s addr xs w).2 := by
  unfold State.takeWord
  extract_lets own
  have ho : Acts ro z own := by
    unfold own
    split
    · exact specialDatum_keeps _ _ _
    · exact specialStake_keeps _ _ _
  clear_value own
  split
  · exact specialCommon_keeps _ _ _ _ (by assumption) _ h
  · split
    · exact ho _ rfl _ h
    · split
      · exact h
      · exact State.storeWord_keeps h _ _ _

theorem State.writeLoopWord_keeps {z s : State} (h : Keeps false z s) (addr : Nat) (w : Nat) :
    Keeps false z (State.writeLoopWord s addr w) := by
  unfold State.writeLoopWord
  repeat' first
    | with_reducible assumption | with_reducible apply State.setMemWord_keeps
    | with_reducible apply State.markDirty_keeps | with_reducible apply keeps_ite | with_reducible apply keeps_foldl
    | with_reducible apply keeps_foldl_snd | intro _ | extract_lets | simp -zeta only [keeps_upd] | split | dsimp only

theorem State.writeMemory_keeps {z s : State} (h : Keeps false z s) (addr : Nat) (w : Nat) :
    Keeps false z (State.writeMemory s addr w).2 := by
  unfold State.writeMemory
  repeat' first
    | with_reducible assumption | with_reducible apply State.setMemWord_keeps
    | with_reducible apply State.idleWritten_keeps | with_reducible apply State.writeLoopWord_keeps
    | with_reducible apply keeps_ite | with_reducible apply keeps_foldl | with_reducible apply keeps_foldl_snd
    | intro _ | extract_lets | simp -zeta only [keeps_upd] | split | dsimp only

theorem State.writeWord_keeps {z s : State} (h : Keeps false z s) (addr : Nat) (w : Nat) :
    Keeps false z (State.writeWord s addr w).2 := by
  unfold State.writeWord
  repeat' first
    | with_reducible assumption | with_reducible apply State.writeMemory_keeps
    | with_reducible apply State.takeWord_keeps | with_reducible apply keeps_ite | with_reducible apply keeps_foldl
    | with_reducible apply keeps_foldl_snd | intro _ | extract_lets | simp -zeta only [keeps_upd] | split | dsimp only

theorem State.writeWords_keeps {z s : State} (h : Keeps false z s) (addr : Nat) (a0 : List Nat) :
    Keeps false z (State.writeWords s addr a0).2.2 := by
  induction a0 generalizing s addr with
  | nil => exact h
  | cons w t ih =>
    simp only [State.writeWords]
    split
    · exact ih (State.writeWord_keeps h _ _) _
    · exact State.writeWord_keeps h _ _

theorem State.modifyWord_keeps {z s : State} (h : Keeps false z s) (addr : Nat) (mask : Nat) (value : Nat) :
    Keeps false z (State.modifyWord s addr mask value).2.2 := by
  unfold State.modifyWord
  repeat' first
    | with_reducible assumption | with_reducible apply State.writeWord_keeps | with_reducible apply keeps_ite
    | with_reducible apply keeps_foldl | with_reducible apply keeps_foldl_snd | intro _ | extract_lets
    | simp -zeta only [keeps_upd] | split | dsimp only

end Sys2Proof.Machine
end

