-- ==== Sys2Proof/Laws/KeepsTxn.lean ====
section
/-! SUPPORT. What the operations of Machine/Txn.lean keep (Laws/Keeps.lean). -/

namespace Sys2Proof.Machine

theorem State.setTxn_keeps {ro : Bool} {z s : State} (h : Keeps ro z s) (t : Txn) :
    Keeps ro z (State.setTxn s t) := by
  unfold State.setTxn
  repeat' first
    | with_reducible assumption | with_reducible apply keeps_ite | with_reducible apply keeps_foldl
    | with_reducible apply keeps_foldl_snd | intro _ | extract_lets | simp -zeta only [keeps_upd] | split | dsimp only

theorem State.closeTxn_keeps {ro : Bool} {z s : State} (h : Keeps ro z s) (t : Txn) (st : Nat) :
    Keeps ro z (State.closeTxn s t st) := by
  unfold State.closeTxn
  repeat' first
    | with_reducible assumption | with_reducible apply keeps_ite | with_reducible apply keeps_foldl
    | with_reducible apply keeps_foldl_snd | intro _ | extract_lets | simp -zeta only [keeps_upd] | split | dsimp only

theorem State.txnWrite_keeps {ro : Bool} {z s : State} (h : Keeps ro z s) (id : Nat) (addr : Nat) (w : Nat) :
    Keeps ro z (State.txnWrite s id addr w).2 := by
  unfold State.txnWrite
  repeat' first
    | with_reducible assumption | with_reducible apply State.count_keeps | with_reducible apply State.setTxn_keeps
    | with_reducible apply keeps_ite | with_reducible apply keeps_foldl | with_reducible apply keeps_foldl_snd
    | intro _ | extract_lets | simp -zeta only [keeps_upd] | split | dsimp only

theorem State.txnWrites_keeps {ro : Bool} {z s : State} (h : Keeps ro z s) (id : Nat) (addr : Nat) (a0 : List Nat) :
    Keeps ro z (State.txnWrites s id addr a0).2.2 := by
  induction a0 generalizing s addr with
  | nil => exact h
  | cons w t ih =>
    simp only [State.txnWrites]
    split
    · exact ih (State.txnWrite_keeps h _ _ _) _
    · exact State.txnWrite_keeps h _ _ _

theorem State.txnOld_keeps {ro : Bool} {z s : State} (h : Keeps ro z s) (id : Nat) (addr : Nat) :
    Keeps ro z (State.txnOld s id addr).2 := by
  unfold State.txnOld
  repeat' first
    | with_reducible assumption | with_reducible apply State.used_keeps | with_reducible apply keeps_ite
    | with_reducible apply keeps_foldl | with_reducible apply keeps_foldl_snd | intro _ | extract_lets
    | simp -zeta only [keeps_upd] | split | dsimp only

theorem State.txnModify_keeps {ro : Bool} {z s : State} (h : Keeps ro z s) (id : Nat) (addr : Nat) (mask : Nat) (value : Nat) :
    Keeps ro z (State.txnModify s id addr mask value).2.2 := by
  unfold State.txnModify
  repeat' first
    | with_reducible assumption | with_reducible apply State.txnOld_keeps | with_reducible apply State.txnWrite_keeps
    | with_reducible apply keeps_ite | with_reducible apply keeps_foldl | with_reducible apply keeps_foldl_snd
    | intro _ | extract_lets | simp -zeta only [keeps_upd] | split | dsimp only

theorem State.withWrites_keeps {ro : Bool} {z s : State} (h : Keeps ro z s) (ws : KMap Nat) :
    Keeps ro z (State.withWrites s ws) := by
  unfold State.withWrites
  repeat' first
    | with_reducible assumption | with_reducible apply State.storeWord_keeps | with_reducible apply keeps_ite
    | with_reducible apply keeps_foldl | with_reducible apply keeps_foldl_snd | intro _ | extract_lets
    | simp -zeta only [keeps_upd] | split | dsimp only

theorem State.loopWrites_keeps {z s : State} (h : Keeps false z s) (ws : KMap Nat) :
    Keeps false z (State.loopWrites s ws) := by
  unfold State.loopWrites
  repeat' first
    | with_reducible assumption | with_reducible apply State.writeLoopWord_keeps | with_reducible apply keeps_ite
    | with_reducible apply keeps_foldl | with_reducible apply keeps_foldl_snd | intro _ | extract_lets
    | simp -zeta only [keeps_upd] | split | dsimp only

theorem State.windowWrites_keeps {ro : Bool} {z s : State} (h : Keeps ro z s) (ws : KMap Nat) :
    Keeps ro z (State.windowWrites s ws) := by
  unfold State.windowWrites
  repeat' first
    | with_reducible assumption | with_reducible apply State.release1_keeps | with_reducible apply keeps_ite
    | with_reducible apply keeps_foldl | with_reducible apply keeps_foldl_snd | intro _ | extract_lets
    | simp -zeta only [keeps_upd] | split | dsimp only

theorem State.applyWrites_keeps {ro : Bool} {z s : State} (h : Keeps ro z s) (ws : KMap Nat) :
    Keeps ro z (State.applyWrites s ws).2 := by
  unfold State.applyWrites
  repeat' first
    | with_reducible assumption | with_reducible apply State.withWrites_keeps
    | with_reducible apply State.windowWrites_keeps | with_reducible apply State.strobe_keeps
    | with_reducible apply keeps_ite | with_reducible apply keeps_foldl | with_reducible apply keeps_foldl_snd
    | intro _ | extract_lets | simp -zeta only [keeps_upd] | split | dsimp only

theorem State.applyTxn_keeps {z s : State} (h : Keeps false z s) (t : Txn) :
    Keeps false z (State.applyTxn s t) := by
  unfold State.applyTxn
  repeat' first
    | with_reducible assumption | with_reducible apply State.loopWrites_keeps
    | with_reducible apply State.applyWrites_keeps | with_reducible apply State.closeTxn_keeps
    | with_reducible apply State.count_keeps | with_reducible apply State.raise_keeps | with_reducible apply keeps_ite
    | with_reducible apply keeps_foldl | with_reducible apply keeps_foldl_snd | intro _ | extract_lets
    | simp -zeta only [keeps_upd] | split | dsimp only

theorem State.scanHop_keeps {ro : Bool} {z s : State} (h : Keeps ro z s) (r : Option Req) (p : Nat) (hop : Nat) :
    Keeps ro z (State.scanHop s r p hop) := by
  unfold State.scanHop
  repeat' first
    | with_reducible assumption | with_reducible apply State.relayStart_keeps | with_reducible apply keeps_ite
    | with_reducible apply keeps_foldl | with_reducible apply keeps_foldl_snd | intro _ | extract_lets
    | simp -zeta only [keeps_upd] | split | dsimp only

theorem State.confirmAll_keeps {ro : Bool} {z s : State} (h : Keeps ro z s) (p : Nat) (a0 : List Hop) (a1 : List Nat) :
    Keeps ro z (State.confirmAll s p a0 a1) := by
  induction a0 generalizing s a1 with
  | nil => exact h
  | cons x t ih =>
    simp only [State.confirmAll]
    split
    · exact ih h _
    · refine ih ?_ _
      split
      · exact State.relayStart_keeps h _ _ _ _
      · exact State.raise_keeps h _

theorem State.scanEnd_keeps {ro : Bool} {z s : State} (h : Keeps ro z s) (r : Option Req) (p : Nat) :
    Keeps ro z (State.scanEnd s r p) := by
  unfold State.scanEnd
  repeat' first
    | with_reducible assumption | with_reducible apply State.reply_keeps | with_reducible apply State.confirmAll_keeps
    | with_reducible apply keeps_ite | with_reducible apply keeps_foldl | with_reducible apply keeps_foldl_snd
    | intro _ | extract_lets | simp -zeta only [keeps_upd] | split | dsimp only

theorem State.scanStep_keeps {ro : Bool} {z s : State} (h : Keeps ro z s) (q : RelayReq) (p : Nat) (hop : Nat) :
    Keeps ro z (State.scanStep s q p hop) := by
  unfold State.scanStep
  repeat' first
    | with_reducible assumption | with_reducible apply State.scanHop_keeps | with_reducible apply State.scanEnd_keeps
    | with_reducible apply keeps_ite | with_reducible apply keeps_foldl | with_reducible apply keeps_foldl_snd
    | intro _ | extract_lets | simp -zeta only [keeps_upd] | split | dsimp only

theorem State.adoptEvent_keeps {ro : Bool} {z s : State} (h : Keeps ro z s) (new : Nat) (old : Nat) (p : Nat) (slot : Nat) (a : Nat) :
    Keeps ro z (State.adoptEvent s new old p slot a) := by
  unfold State.adoptEvent
  repeat' first
    | with_reducible assumption | with_reducible apply State.event_keeps | with_reducible apply keeps_ite
    | with_reducible apply keeps_foldl | with_reducible apply keeps_foldl_snd | intro _ | extract_lets
    | simp -zeta only [keeps_upd] | split | dsimp only

theorem State.noteSlot_keeps {ro : Bool} {z s : State} (h : Keeps ro z s) (p : Nat) (m : Nat) (slot : Nat) :
    Keeps ro z (State.noteSlot s p m slot) := by
  unfold State.noteSlot
  repeat' first
    | with_reducible assumption | with_reducible apply keeps_ite | with_reducible apply keeps_foldl
    | with_reducible apply keeps_foldl_snd | intro _ | extract_lets | simp -zeta only [keeps_upd] | split | dsimp only

theorem State.adopted_keeps {ro : Bool} {z s0 : State} (h : Keeps ro z s0) (r : Option Req) (p : Nat) (slot : Nat) (a : Nat) (idx : Nat) (m : Nat) :
    Keeps ro z (State.adopted s0 r p slot a idx m) := by
  unfold State.adopted
  extract_lets s old m s1 s2 s3
  have h0 : Keeps ro z s := State.noteSlot_keeps h _ _ _
  have h1 : Keeps ro z s1 := (keeps_upd (t := s) ..).2 h0
  have h2 : Keeps ro z s2 := State.setShadow_keeps (State.setShadow_keeps (State.setShadow_keeps h1 _ _) _ _) _ _
  have h3 : Keeps ro z s3 := State.adoptEvent_keeps h2 _ _ _ _ _
  clear_value s3
  split
  · exact State.reply_keeps h3 _ _ _
  · exact h3

theorem State.replyOpt_keeps {ro : Bool} {z s : State} (h : Keeps ro z s) (r : Option Req) (st : Nat) (multi : Bool) (data : List Nat) :
    Keeps ro z (State.replyOpt s r st multi data) := by
  unfold State.replyOpt
  repeat' first
    | with_reducible assumption | with_reducible apply State.replyWith_keeps | with_reducible apply keeps_ite
    | with_reducible apply keeps_foldl | with_reducible apply keeps_foldl_snd | intro _ | extract_lets
    | simp -zeta only [keeps_upd] | split | dsimp only

theorem State.sprepStep_keeps {ro : Bool} {z s : State} (h : Keeps ro z s) (q : RelayReq) (txid : Nat) (next : Nat) :
    Keeps ro z (State.sprepStep s q txid next) := by
  unfold State.sprepStep
  repeat' first
    | with_reducible assumption | with_reducible apply State.replyOpt_keeps | with_reducible apply State.setTxn_keeps
    | with_reducible apply State.relayStart_keeps | with_reducible apply keeps_ite | with_reducible apply keeps_foldl
    | with_reducible apply keeps_foldl_snd | intro _ | extract_lets | simp -zeta only [keeps_upd] | split | dsimp only

theorem State.scommitStep_keeps {ro : Bool} {z s : State} (h : Keeps ro z s) (q : RelayReq) (txid : Nat) :
    Keeps ro z (State.scommitStep s q txid) := by
  unfold State.scommitStep
  repeat' first
    | with_reducible assumption | with_reducible apply State.setTxn_keeps
    | with_reducible apply State.relayStart_keeps | with_reducible apply keeps_ite | with_reducible apply keeps_foldl
    | with_reducible apply keeps_foldl_snd | intro _ | extract_lets | simp -zeta only [keeps_upd] | split | dsimp only

theorem State.relayDone_keeps {ro : Bool} {z s : State} (h : Keeps ro z s) (q : RelayReq) :
    Keeps ro z (State.relayDone s q) := by
  unfold State.relayDone
  repeat' first
    | with_reducible assumption | with_reducible apply State.replyOpt_keeps
    | with_reducible apply State.scanStep_keeps | with_reducible apply State.sprepStep_keeps
    | with_reducible apply State.scommitStep_keeps | with_reducible apply State.status_keeps
    | with_reducible apply State.adopted_keeps | with_reducible apply State.noteSlot_keeps
    | with_reducible apply State.raise_keeps | with_reducible apply keeps_ite | with_reducible apply keeps_foldl
    | with_reducible apply keeps_foldl_snd | intro _ | extract_lets | simp -zeta only [keeps_upd] | split | dsimp only

theorem State.settleRelays_keeps {ro : Bool} {z s : State} (h : Keeps ro z s)  :
    Keeps ro z (State.settleRelays s) := by
  unfold State.settleRelays
  repeat' first
    | with_reducible assumption | with_reducible apply State.relayDone_keeps | with_reducible apply keeps_ite
    | with_reducible apply keeps_foldl | with_reducible apply keeps_foldl_snd | intro _ | extract_lets
    | simp -zeta only [keeps_upd] | split | dsimp only

theorem State.adoptDatum_keeps {ro : Bool} {z s : State} (h : Keeps ro z s) (r : Req) (p : Nat) (slot : Nat) (a : Nat) (idx : Nat) (m : Nat) :
    Keeps ro z (State.adoptDatum s r p slot a idx m) := by
  unfold State.adoptDatum
  repeat' first
    | with_reducible assumption | with_reducible apply State.status_keeps
    | with_reducible apply State.relayStart_keeps | with_reducible apply keeps_ite | with_reducible apply keeps_foldl
    | with_reducible apply keeps_foldl_snd | intro _ | extract_lets | simp -zeta only [keeps_upd] | split | dsimp only

theorem State.endUnadopted_keeps {ro : Bool} {z s : State} (h : Keeps ro z s)  :
    Keeps ro z (State.endUnadopted s) := by
  unfold State.endUnadopted
  split
  · exact h
  · exact keeps_updSf h { s.sf with x := s.sf.x.forget s.now, y := s.sf.y.forget s.now } (fun x => x) (fun x => x) _ _ _

theorem State.showAdopted_keeps {ro : Bool} {z s0 : State} (h : Keeps ro z s0) (slot : Nat) (a : Nat) (idx : Nat) :
    Keeps ro z (State.showAdopted s0 slot a idx) := by
  unfold State.showAdopted
  repeat' first
    | with_reducible assumption | with_reducible apply State.endUnadopted_keeps | with_reducible apply State.put_keeps
    | with_reducible apply State.movePumps_keeps | with_reducible apply keeps_ite | with_reducible apply keeps_foldl
    | with_reducible apply keeps_foldl_snd | intro _ | extract_lets | simp -zeta only [keeps_upd] | split | dsimp only

theorem State.endManual_keeps {ro : Bool} {z s : State} (h : Keeps ro z s)  :
    Keeps ro z (State.endManual s) := by
  unfold State.endManual
  repeat' first
    | with_reducible assumption | with_reducible apply State.put_keeps | with_reducible apply State.forceOff_keeps
    | with_reducible apply keeps_ite | with_reducible apply keeps_foldl | with_reducible apply keeps_foldl_snd
    | intro _ | extract_lets | simp -zeta only [keeps_upd] | split | dsimp only

theorem State.adoptStake_keeps {ro : Bool} {z s : State} (h : Keeps ro z s) (r : Req) (confirm : Bool) (p : Nat) (slot : Nat) (a : Nat) (idx : Nat) (old : Nat) :
    Keeps ro z (State.adoptStake s r confirm p slot a idx old) := by
  unfold State.adoptStake
  repeat' first
    | with_reducible assumption | with_reducible apply State.status_keeps
    | with_reducible apply State.showAdopted_keeps | with_reducible apply State.endManual_keeps
    | with_reducible apply State.adoptEvent_keeps | with_reducible apply keeps_ite | with_reducible apply keeps_foldl
    | with_reducible apply keeps_foldl_snd | intro _ | extract_lets | simp -zeta only [keeps_upd] | split | dsimp only

theorem State.commitLocal_keeps {z s : State} (h : Keeps false z s) (r : Req) (t : Txn) (imm : Bool) (tick : Nat) :
    Keeps false z (State.commitLocal s r t imm tick) := by
  unfold State.commitLocal
  repeat' first
    | with_reducible assumption | with_reducible apply State.status_keeps | with_reducible apply State.applyTxn_keeps
    | with_reducible apply State.setTxn_keeps | with_reducible apply keeps_ite | with_reducible apply keeps_foldl
    | with_reducible apply keeps_foldl_snd | intro _ | extract_lets | simp -zeta only [keeps_upd] | split | dsimp only

theorem State.commitStakes_keeps {ro : Bool} {z s : State} (h : Keeps ro z s) (r : Req) (t : Txn) (imm : Bool) (tick : Nat) :
    Keeps ro z (State.commitStakes s r t imm tick) := by
  unfold State.commitStakes
  repeat' first
    | with_reducible assumption | with_reducible apply State.status_keeps | with_reducible apply State.setTxn_keeps
    | with_reducible apply State.relayStart_keeps | with_reducible apply keeps_ite | with_reducible apply keeps_foldl
    | with_reducible apply keeps_foldl_snd | intro _ | extract_lets | simp -zeta only [keeps_upd] | split | dsimp only

theorem State.applyDue_keeps {z s : State} (h : Keeps false z s)  :
    Keeps false z (State.applyDue s) := by
  unfold State.applyDue
  repeat' first
    | with_reducible assumption | with_reducible apply State.atStart_keeps | with_reducible apply State.applyTxn_keeps
    | with_reducible apply keeps_ite | with_reducible apply keeps_foldl | with_reducible apply keeps_foldl_snd
    | intro _ | extract_lets | simp -zeta only [keeps_upd] | split | dsimp only

theorem State.commitEnd_keeps {ro : Bool} {z s : State} (h : Keeps ro z s) (t : Txn) :
    Keeps ro z (State.commitEnd s t) := by
  unfold State.commitEnd
  repeat' first
    | with_reducible assumption | with_reducible apply State.closeTxn_keeps | with_reducible apply State.count_keeps
    | with_reducible apply State.replyOpt_keeps | with_reducible apply State.countN_keeps
    | with_reducible apply State.raise_keeps | with_reducible apply keeps_ite | with_reducible apply keeps_foldl
    | with_reducible apply keeps_foldl_snd | intro _ | extract_lets | simp -zeta only [keeps_upd] | split | dsimp only

theorem State.dropHeld_keeps {ro : Bool} {z s : State} (h : Keeps ro z s)  :
    Keeps ro z (State.dropHeld s) := by
  unfold State.dropHeld
  repeat' first
    | with_reducible assumption | with_reducible apply keeps_ite | with_reducible apply keeps_foldl
    | with_reducible apply keeps_foldl_snd | intro _ | extract_lets | simp -zeta only [keeps_upd] | split | dsimp only

theorem State.keepPart_keeps {ro : Bool} {z s : State} (h : Keeps ro z s) (r : Req) (txid : Nat) (total : Nat) (ws : KMap Nat) :
    Keeps ro z (State.keepPart s r txid total ws) := by
  unfold State.keepPart
  repeat' first
    | with_reducible assumption | with_reducible apply State.reply_keeps | with_reducible apply State.dropHeld_keeps
    | with_reducible apply State.status_keeps | with_reducible apply keeps_ite | with_reducible apply keeps_foldl
    | with_reducible apply keeps_foldl_snd | intro _ | extract_lets | simp -zeta only [keeps_upd] | split | dsimp only

theorem State.sprep_keeps {ro : Bool} {z s : State} (h : Keeps ro z s) (r : Req) (txid : Nat) (total : Nat) (first : Bool) (writes : List (Nat × Nat)) :
    Keeps ro z (State.sprep s r txid total first writes) := by
  unfold State.sprep
  repeat' first
    | with_reducible assumption | with_reducible apply State.count_keeps | with_reducible apply State.status_keeps
    | with_reducible apply State.reply_keeps | with_reducible apply State.dropHeld_keeps
    | with_reducible apply State.keepPart_keeps | with_reducible apply keeps_ite | with_reducible apply keeps_foldl
    | with_reducible apply keeps_foldl_snd | intro _ | extract_lets | simp -zeta only [keeps_upd] | split | dsimp only

theorem State.applyHeld_keeps {ro : Bool} {z s : State} (h : Keeps ro z s) (h : Held) :
    Keeps ro z (State.applyHeld s h) := by
  unfold State.applyHeld
  repeat' first
    | with_reducible assumption | with_reducible apply State.dropHeld_keeps
    | with_reducible apply State.applyWrites_keeps | with_reducible apply State.raise_keeps
    | with_reducible apply keeps_ite | with_reducible apply keeps_foldl | with_reducible apply keeps_foldl_snd
    | intro _ | extract_lets | simp -zeta only [keeps_upd] | split | dsimp only

end Sys2Proof.Machine
end

