-- ==== Sys2Proof/Laws/KeepsFrames.lean ====
section
/-! SUPPORT. What the operations of Machine/Frames.lean keep (Laws/Keeps.lean). -/

namespace Sys2Proof.Machine

theorem State.issueFirst_keeps {ro : Bool} {z s : State} (h : Keeps ro z s)  :
    Keeps ro z (State.issueFirst s) := by
  unfold State.issueFirst
  repeat' first
    | with_reducible assumption | with_reducible apply State.setArm_keeps | with_reducible apply keeps_ite
    | with_reducible apply keeps_foldl | with_reducible apply keeps_foldl_snd | intro _ | extract_lets
    | simp -zeta only [keeps_upd] | split | dsimp only

theorem State.startFrame_keeps {ro : Bool} {z s : State} (h : Keeps ro z s) (p : Nat) (n : Nat) :
    Keeps ro z (State.startFrame s p n) := by
  unfold State.startFrame
  repeat' first
    | with_reducible assumption | with_reducible apply State.absorb_keeps | with_reducible apply State.setLink_keeps
    | with_reducible apply keeps_ite | with_reducible apply keeps_foldl | with_reducible apply keeps_foldl_snd
    | intro _ | extract_lets | simp -zeta only [keeps_upd] | split | dsimp only

theorem State.markOut_keeps {ro : Bool} {z s : State} (h : Keeps ro z s) (p : Nat) :
    Keeps ro z (State.markOut s p) := by
  unfold State.markOut
  repeat' first
    | with_reducible assumption | with_reducible apply State.count_keeps | with_reducible apply State.sendSet_keeps
    | with_reducible apply keeps_ite | with_reducible apply keeps_foldl | with_reducible apply keeps_foldl_snd
    | intro _ | extract_lets | simp -zeta only [keeps_upd] | split | dsimp only

theorem State.announceDelay_keeps {ro : Bool} {z s : State} (h : Keeps ro z s) (p : Nat) :
    Keeps ro z (State.announceDelay s p) := by
  unfold State.announceDelay
  repeat' first
    | with_reducible assumption | with_reducible apply State.sendSet_keeps | with_reducible apply keeps_ite
    | with_reducible apply keeps_foldl | with_reducible apply keeps_foldl_snd | intro _ | extract_lets
    | simp -zeta only [keeps_upd] | split | dsimp only

theorem State.sendFrame_keeps {ro : Bool} {z s0 : State} (h : Keeps ro z s0) (mark : Bool) (blocked : List Nat) (p : Nat) :
    Keeps ro z (State.sendFrame s0 mark blocked p) := by
  unfold State.sendFrame
  repeat' first
    | with_reducible assumption | with_reducible apply State.markOut_keeps | with_reducible apply State.fillMgmt_keeps
    | with_reducible apply State.setPort_keeps | with_reducible apply State.startFrame_keeps
    | with_reducible apply State.emit_keeps | with_reducible apply State.ownPair_keeps
    | with_reducible apply State.announceDelay_keeps | with_reducible apply State.blindGap_keeps
    | with_reducible apply keeps_ite | with_reducible apply keeps_foldl | with_reducible apply keeps_foldl_snd
    | intro _ | extract_lets | simp -zeta only [keeps_upd] | split | dsimp only

theorem State.countMiss_keeps {ro : Bool} {z s : State} (h : Keeps ro z s)  :
    Keeps ro z (State.countMiss s) := by
  unfold State.countMiss
  repeat' first
    | with_reducible assumption | with_reducible apply State.countN_keeps | with_reducible apply keeps_ite
    | with_reducible apply keeps_foldl | with_reducible apply keeps_foldl_snd | intro _ | extract_lets
    | simp -zeta only [keeps_upd] | split | dsimp only

theorem State.sendFrames_keeps {ro : Bool} {z s0 : State} (h : Keeps ro z s0)  :
    Keeps ro z (State.sendFrames s0) := by
  unfold State.sendFrames
  extract_lets m s m1 m2 s1 ps m3 s3 s4 m4 s5 b
  have h0 : Keeps ro z s := (keeps_upd (t := s0) ..).2 h
  have h1 : Keeps ro z s1 :=
    keeps_updSf h0 { s.sf with cntX := (s.sf.cntX + 1) % 2 ^ 32, cntY := (s.sf.cntY + 1) % 2 ^ 32 } (fun x => x) (fun x => x) _ _ _
  have h3 : Keeps ro z s3 := by
    unfold s3
    split
    · exact (keeps_upd (t := s1) ..).2 h1
    · exact h1
  have h5 : Keeps ro z s5 := State.putB_keeps ((keeps_upd (t := s4) ..).2 (State.issueFirst_keeps (State.countMiss_keeps h3))) _ _
  clear_value b s5 s1 s
  split
  · split
    · exact State.sendBlocks_keeps h1
    · exact h1
  · exact keeps_foldl (fun _ _ hs => State.sendFrame_keeps hs _ _ _) _ _ h5

theorem State.portsTick_keeps {ro : Bool} {z s : State} (h : Keeps ro z s)  :
    Keeps ro z (State.portsTick s) := by
  unfold State.portsTick
  repeat' first
    | with_reducible assumption | with_reducible apply State.setPort_keeps | with_reducible apply keeps_ite
    | with_reducible apply keeps_foldl | with_reducible apply keeps_foldl_snd | intro _ | extract_lets
    | simp -zeta only [keeps_upd] | split | dsimp only

theorem State.closed_keeps {ro : Bool} {z s : State} (h : Keeps ro z s) (p : Nat) (causes : List Nat) :
    Keeps ro z (State.closed s p causes) := by
  unfold State.closed
  repeat' first
    | with_reducible assumption | with_reducible apply State.setPort_keeps | with_reducible apply State.putB_keeps
    | with_reducible apply State.count_keeps | with_reducible apply State.put_keeps
    | with_reducible apply State.routeEvent_keeps | with_reducible apply keeps_ite | with_reducible apply keeps_foldl
    | with_reducible apply keeps_foldl_snd | intro _ | extract_lets | simp -zeta only [keeps_upd] | split | dsimp only

theorem State.closeMissing_keeps {ro : Bool} {z s : State} (h : Keeps ro z s)  :
    Keeps ro z (State.closeMissing s) := by
  unfold State.closeMissing
  repeat' first
    | with_reducible assumption | with_reducible apply State.count_keeps | with_reducible apply State.closed_keeps
    | with_reducible apply keeps_ite | with_reducible apply keeps_foldl | with_reducible apply keeps_foldl_snd
    | intro _ | extract_lets | simp -zeta only [keeps_upd] | split | dsimp only

theorem State.snapshot_keeps {ro : Bool} {z s : State} (h : Keeps ro z s) (p : Nat) (f : Frame) (causes : List Nat) :
    Keeps ro z (State.snapshot s p f causes) := by
  unfold State.snapshot
  repeat' first
    | with_reducible assumption | with_reducible apply State.setPort_keeps | with_reducible apply keeps_ite
    | with_reducible apply keeps_foldl | with_reducible apply keeps_foldl_snd | intro _ | extract_lets
    | simp -zeta only [keeps_upd] | split | dsimp only

theorem State.countErrors_keeps {ro : Bool} {z s : State} (h : Keeps ro z s) (p : Nat) (f : Frame) :
    Keeps ro z (State.countErrors s p f) := by
  unfold State.countErrors
  repeat' first
    | with_reducible assumption | with_reducible apply State.countN_keeps | with_reducible apply State.count_keeps
    | with_reducible apply keeps_ite | with_reducible apply keeps_foldl | with_reducible apply keeps_foldl_snd
    | intro _ | extract_lets | simp -zeta only [keeps_upd] | split | dsimp only

theorem State.showFrame_keeps {ro : Bool} {z s : State} (h : Keeps ro z s) (p : Nat) (f : Frame) (at' : Nat) :
    Keeps ro z (State.showFrame s p f at') := by
  unfold State.showFrame
  repeat' first
    | with_reducible assumption | with_reducible apply State.putB_keeps | with_reducible apply State.put_keeps
    | with_reducible apply keeps_ite | with_reducible apply keeps_foldl | with_reducible apply keeps_foldl_snd
    | intro _ | extract_lets | simp -zeta only [keeps_upd] | split | dsimp only

theorem State.compareArms_keeps {ro : Bool} {z s : State} (h : Keeps ro z s) (p : Nat) (f : Frame) :
    Keeps ro z (State.compareArms s p f) := by
  unfold State.compareArms
  repeat' first
    | with_reducible assumption | with_reducible apply State.put_keeps | with_reducible apply State.loseMatch_keeps
    | with_reducible apply keeps_ite | with_reducible apply keeps_foldl | with_reducible apply keeps_foldl_snd
    | intro _ | extract_lets | simp -zeta only [keeps_upd] | split | dsimp only

theorem State.twinFrame_keeps {ro : Bool} {z s : State} (h : Keeps ro z s) (p : Nat) (f : Frame) :
    Keeps ro z (State.twinFrame s p f) := by
  unfold State.twinFrame
  repeat' first
    | with_reducible assumption | with_reducible apply State.put_keeps | with_reducible apply State.compareArms_keeps
    | with_reducible apply keeps_ite | with_reducible apply keeps_foldl | with_reducible apply keeps_foldl_snd
    | intro _ | extract_lets | simp -zeta only [keeps_upd] | split | dsimp only

theorem State.request_keeps {ro : Bool} {z s : State} (h : Keeps ro z s) (p : Nat) (k : Nat) (asked : Bool) :
    Keeps ro z (State.request s p k asked) := by
  unfold State.request
  repeat' first
    | with_reducible assumption | with_reducible apply State.setPort_keeps | with_reducible apply State.raise_keeps
    | with_reducible apply keeps_ite | with_reducible apply keeps_foldl | with_reducible apply keeps_foldl_snd
    | intro _ | extract_lets | simp -zeta only [keeps_upd] | split | dsimp only

theorem State.takeCopy_keeps {ro : Bool} {z s0 : State} (h : Keeps ro z s0) (p : Nat) (j : Nat) (t : TeleSlot) :
    Keeps ro z (State.takeCopy s0 p j t) := by
  unfold State.takeCopy
  repeat' first
    | with_reducible assumption | with_reducible apply State.setPort_keeps | with_reducible apply State.put_keeps
    | with_reducible apply State.setArm_keeps | with_reducible apply State.request_keeps
    | with_reducible apply keeps_ite | with_reducible apply keeps_foldl | with_reducible apply keeps_foldl_snd
    | intro _ | extract_lets | simp -zeta only [keeps_upd] | split | dsimp only

theorem State.takeSlot_keeps {ro : Bool} {z s : State} (h : Keeps ro z s) (p : Nat) (j : Nat) (t : TeleSlot) :
    Keeps ro z (State.takeSlot s p j t) := by
  unfold State.takeSlot
  repeat' first
    | with_reducible assumption | with_reducible apply State.count_keeps | with_reducible apply State.takeCopy_keeps
    | with_reducible apply keeps_ite | with_reducible apply keeps_foldl | with_reducible apply keeps_foldl_snd
    | intro _ | extract_lets | simp -zeta only [keeps_upd] | split | dsimp only

theorem State.takeSlots_keeps {ro : Bool} {z s : State} (h : Keeps ro z s) (p : Nat) (f : Frame) :
    Keeps ro z (State.takeSlots s p f) := by
  unfold State.takeSlots
  repeat' first
    | with_reducible assumption | with_reducible apply State.takeSlot_keeps | with_reducible apply keeps_ite
    | with_reducible apply keeps_foldl | with_reducible apply keeps_foldl_snd | intro _ | extract_lets
    | simp -zeta only [keeps_upd] | split | dsimp only

theorem State.takeAck_keeps {ro : Bool} {z s : State} (h : Keeps ro z s) (p : Nat) (u : UpRec) :
    Keeps ro z (State.takeAck s p u) := by
  unfold State.takeAck
  repeat' first
    | with_reducible assumption | with_reducible apply State.count_keeps | with_reducible apply keeps_ite
    | with_reducible apply keeps_foldl | with_reducible apply keeps_foldl_snd | intro _ | extract_lets
    | simp -zeta only [keeps_upd] | split | dsimp only

theorem State.takeReply_keeps {ro : Bool} {z s : State} (h : Keeps ro z s) (p : Nat) (u : UpRec) :
    Keeps ro z (State.takeReply s p u) := by
  unfold State.takeReply
  extract_lets o mine cur rest next
  clear_value next rest
  split
  · exact State.setPort_keeps h _ _
  · split
    · exact State.settleRelays_keeps (State.relayAnswer_keeps (State.setPort_keeps h _ _) _ _ _ _)
    · exact State.setPort_keeps h _ _

theorem State.takeUp_keeps {ro : Bool} {z s : State} (h : Keeps ro z s) (p : Nat) (f : Frame) :
    Keeps ro z (State.takeUp s p f) := by
  unfold State.takeUp
  repeat' first
    | with_reducible assumption | with_reducible apply State.used_keeps | with_reducible apply State.takeAck_keeps
    | with_reducible apply State.takeReply_keeps | with_reducible apply keeps_ite | with_reducible apply keeps_foldl
    | with_reducible apply keeps_foldl_snd | intro _ | extract_lets | simp -zeta only [keeps_upd] | split | dsimp only

theorem State.receiveFrame_keeps {ro : Bool} {z s : State} (h : Keeps ro z s) (p : Nat) (f : Frame) (at' : Nat) :
    Keeps ro z (State.receiveFrame s p f at') := by
  unfold State.receiveFrame
  repeat' first
    | with_reducible assumption | with_reducible apply State.count_keeps | with_reducible apply State.closed_keeps
    | with_reducible apply State.countErrors_keeps | with_reducible apply State.showFrame_keeps
    | with_reducible apply State.twinFrame_keeps | with_reducible apply State.takeSlots_keeps
    | with_reducible apply State.snapshot_keeps | with_reducible apply State.loseMatch_keeps
    | with_reducible apply State.takeUp_keeps | with_reducible apply keeps_ite | with_reducible apply keeps_foldl
    | with_reducible apply keeps_foldl_snd | intro _ | extract_lets | simp -zeta only [keeps_upd] | split | dsimp only

end Sys2Proof.Machine
end

