-- ==== Sys2Proof/Laws/KeepsTransport.lean ====
section
/-! SUPPORT. What the operations of Machine/Transport.lean keep (Laws/Keeps.lean). -/

namespace Sys2Proof.Machine

theorem State.resend_keeps {ro : Bool} {z s : State} (h : Keeps ro z s) (c : Cached) :
    Keeps ro z (State.resend s c) := by
  unfold State.resend
  repeat' first
    | with_reducible assumption | with_reducible apply State.sendUdp_keeps | with_reducible apply State.sendMgmt_keeps
    | with_reducible apply State.reply_keeps | with_reducible apply State.status_keeps
    | with_reducible apply keeps_ite | with_reducible apply keeps_foldl | with_reducible apply keeps_foldl_snd
    | intro _ | extract_lets | simp -zeta only [keeps_upd] | split | dsimp only

theorem State.acceptUdp_keeps {ro : Bool} {z s : State} (h : Keeps ro z s) (r : Req) (k : Packet) :
    Keeps ro z (State.acceptUdp s r k) := by
  unfold State.acceptUdp
  repeat' first
    | with_reducible assumption | with_reducible apply State.resend_keeps | with_reducible apply State.status_keeps
    | with_reducible apply State.waitReq_keeps | with_reducible apply keeps_ite | with_reducible apply keeps_foldl
    | with_reducible apply keeps_foldl_snd | intro _ | extract_lets | simp -zeta only [keeps_upd] | split | dsimp only

theorem State.forward_keeps {ro : Bool} {z s : State} (h : Keeps ro z s) (src : Nat) (c : Nat) (k : Packet) :
    Keeps ro z (State.forward s src c k) := by
  unfold State.forward
  repeat' first
    | with_reducible assumption | with_reducible apply State.count_keeps | with_reducible apply State.sendMgmt_keeps
    | with_reducible apply State.request_keeps | with_reducible apply keeps_ite | with_reducible apply keeps_foldl
    | with_reducible apply keeps_foldl_snd | intro _ | extract_lets | simp -zeta only [keeps_upd] | split | dsimp only

theorem State.forwarded_keeps {ro : Bool} {z s : State} (h : Keeps ro z s) (key : Nat) (r : Reply) :
    Keeps ro z (State.forwarded s key r) := by
  unfold State.forwarded
  repeat' first
    | with_reducible assumption | with_reducible apply State.sendUdp_keeps | with_reducible apply State.status_keeps
    | with_reducible apply keeps_ite | with_reducible apply keeps_foldl | with_reducible apply keeps_foldl_snd
    | intro _ | extract_lets | simp -zeta only [keeps_upd] | split | dsimp only

theorem State.acceptPcie_keeps {ro : Bool} {z s : State} (h : Keeps ro z s) (q : Nat) (e : Nat × Nat × Packet) :
    Keeps ro z (State.acceptPcie s q e) := by
  unfold State.acceptPcie
  repeat' first
    | with_reducible assumption | with_reducible apply State.status_keeps | with_reducible apply State.waitReq_keeps
    | with_reducible apply keeps_ite | with_reducible apply keeps_foldl | with_reducible apply keeps_foldl_snd
    | intro _ | extract_lets | simp -zeta only [keeps_upd] | split | dsimp only

theorem State.wrQcfg_keeps {ro : Bool} {z s : State} (h : Keeps ro z s) (q : Nat) (v : Nat) :
    Keeps ro z (State.wrQcfg s q v) := by
  unfold State.wrQcfg
  repeat' first
    | with_reducible assumption | with_reducible apply State.setPq_keeps | with_reducible apply keeps_ite
    | with_reducible apply keeps_foldl | with_reducible apply keeps_foldl_snd | intro _ | extract_lets
    | simp -zeta only [keeps_upd] | split | dsimp only

theorem State.wrStrCfg_keeps {ro : Bool} {z s : State} (h : Keeps ro z s) (v : Nat) :
    Keeps ro z (State.wrStrCfg s v) := by
  unfold State.wrStrCfg
  repeat' first
    | with_reducible assumption | with_reducible apply keeps_ite | with_reducible apply keeps_foldl
    | with_reducible apply keeps_foldl_snd | intro _ | extract_lets | simp -zeta only [keeps_upd] | split | dsimp only

end Sys2Proof.Machine
end

