-- ==== Sys2Proof/Laws/KeepsManage.lean ====
section
/-! SUPPORT. What the operations of Machine/Manage.lean keep (Laws/Keeps.lean). -/

namespace Sys2Proof.Machine

theorem State.loadAdoption_keeps {ro : Bool} {z s : State} (h : Keeps ro z s) (a : AdoptStore) :
    Keeps ro z (State.loadAdoption s a) := by
  unfold State.loadAdoption
  repeat' first
    | with_reducible assumption | with_reducible apply keeps_ite | with_reducible apply keeps_foldl
    | with_reducible apply keeps_foldl_snd | intro _ | extract_lets | simp -zeta only [keeps_upd] | split | dsimp only

/-- A write by its own row keeps what the write keeps. -/
theorem State.viaWrite_keeps {ro : Bool} {z s : State} (r : Req) {w : Write} (hw : ∀ s, Keeps ro z s → Keeps ro z (w s).2) (h : Keeps ro z s) :
    Keeps ro z (s.viaWrite r w) := State.status_keeps (hw s h) _ _

end Sys2Proof.Machine
end

