-- ==== Sys2Proof/Laws/KeepsImageLoad.lean ====
section
/-! SUPPORT. What the operations of Machine/ImageLoad.lean keep (Laws/Keeps.lean). -/

namespace Sys2Proof.Machine

theorem State.setImage_keeps {ro : Bool} {z s : State} (h : Keeps ro z s) (i : Nat) (m : Image) :
    Keeps ro z (State.setImage s i m) := by
  unfold State.setImage
  repeat' first
    | with_reducible assumption | with_reducible apply keeps_ite | with_reducible apply keeps_foldl
    | with_reducible apply keeps_foldl_snd | intro _ | extract_lets | simp -zeta only [keeps_upd] | split | dsimp only

theorem State.setFw_keeps {ro : Bool} {z s : State} (h : Keeps ro z s) (f : FwSt) :
    Keeps ro z (State.setFw s f) := by
  unfold State.setFw
  repeat' first
    | with_reducible assumption | with_reducible apply keeps_ite | with_reducible apply keeps_foldl
    | with_reducible apply keeps_foldl_snd | intro _ | extract_lets | simp -zeta only [keeps_upd] | split | dsimp only

theorem State.refuseImage_keeps {ro : Bool} {z s : State} (h : Keeps ro z s)  :
    Keeps ro z (State.refuseImage s) := by
  unfold State.refuseImage
  repeat' first
    | with_reducible assumption | with_reducible apply State.raise_keeps | with_reducible apply State.event_keeps
    | with_reducible apply keeps_ite | with_reducible apply keeps_foldl | with_reducible apply keeps_foldl_snd
    | intro _ | extract_lets | simp -zeta only [keeps_upd] | split | dsimp only

theorem State.imgStore_keeps {z s : State} (h : Keeps false z s) (i : Nat) (ofs : Nat) (bytes : List Nat) :
    Keeps false z (State.imgStore s i ofs bytes) := by
  unfold State.imgStore
  repeat' first
    | with_reducible assumption | with_reducible apply State.setImage_keeps
    | with_reducible apply State.setMemBytes_keeps | with_reducible apply State.idleWritten_keeps
    | with_reducible apply keeps_ite | with_reducible apply keeps_foldl | with_reducible apply keeps_foldl_snd
    | intro _ | extract_lets | simp -zeta only [keeps_upd] | split | dsimp only

theorem State.revert_keeps {ro : Bool} {z s : State} (h : Keeps ro z s)  :
    Keeps ro z (State.revert s) := by
  unfold State.revert
  repeat' first
    | with_reducible assumption | with_reducible apply State.setFw_keeps | with_reducible apply State.raise_keeps
    | with_reducible apply keeps_ite | with_reducible apply keeps_foldl | with_reducible apply keeps_foldl_snd
    | intro _ | extract_lets | simp -zeta only [keeps_upd] | split | dsimp only

theorem State.processorReset_keeps {ro : Bool} {z s : State} (h : Keeps ro z s)  :
    Keeps ro z (State.processorReset s) := by
  unfold State.processorReset
  repeat' first
    | with_reducible assumption | with_reducible apply State.revert_keeps | with_reducible apply State.setFw_keeps
    | with_reducible apply keeps_ite | with_reducible apply keeps_foldl | with_reducible apply keeps_foldl_snd
    | intro _ | extract_lets | simp -zeta only [keeps_upd] | split | dsimp only

theorem State.startSlot_keeps {ro : Bool} {z s : State} (h : Keeps ro z s) (i : Nat) :
    Keeps ro z (State.startSlot s i) := by
  unfold State.startSlot
  repeat' first
    | with_reducible assumption | with_reducible apply State.setFw_keeps | with_reducible apply keeps_ite
    | with_reducible apply keeps_foldl | with_reducible apply keeps_foldl_snd | intro _ | extract_lets
    | simp -zeta only [keeps_upd] | split | dsimp only

end Sys2Proof.Machine
end

