-- ==== Sys2Proof/Laws/KeepsCluster.lean ====
section
/-! SUPPORT. What the operations of Machine/Cluster.lean keep (Laws/Keeps.lean). -/

namespace Sys2Proof.Machine

theorem State.showParent_keeps {ro : Bool} {z s0 : State} (h : Keeps ro z s0) (d : Nat) (depth : Nat) (good : Bool) :
    Keeps ro z (State.showParent s0 d depth good) := by
  unfold State.showParent
  repeat' first
    | with_reducible assumption | with_reducible apply State.put_keeps | with_reducible apply State.raise_keeps
    | with_reducible apply keeps_ite | with_reducible apply keeps_foldl | with_reducible apply keeps_foldl_snd
    | intro _ | extract_lets | simp -zeta only [keeps_upd] | split | dsimp only

theorem State.followGrid_keeps {ro : Bool} {z s : State} (h : Keeps ro z s) (m : TickAlign) :
    Keeps ro z (State.followGrid s m) := by
  unfold State.followGrid
  repeat' first
    | with_reducible assumption | with_reducible apply State.changeGrid_keeps | with_reducible apply keeps_ite
    | with_reducible apply keeps_foldl | with_reducible apply keeps_foldl_snd | intro _ | extract_lets
    | simp -zeta only [keeps_upd] | split | dsimp only

theorem State.takeGrid_keeps {ro : Bool} {z s : State} (h : Keeps ro z s) (m : TickAlign) :
    Keeps ro z (State.takeGrid s m) := by
  unfold State.takeGrid
  repeat' first
    | with_reducible assumption | with_reducible apply State.followGrid_keeps | with_reducible apply State.raise_keeps
    | with_reducible apply keeps_ite | with_reducible apply keeps_foldl | with_reducible apply keeps_foldl_snd
    | intro _ | extract_lets | simp -zeta only [keeps_upd] | split | dsimp only

theorem State.acceptAlign_keeps {ro : Bool} {z s : State} (h : Keeps ro z s) (d : Nat) (depth : Nat) (good : Bool) (m : TickAlign) (x : Int) :
    Keeps ro z (State.acceptAlign s d depth good m x) := by
  unfold State.acceptAlign
  repeat' first
    | with_reducible assumption | with_reducible apply State.showParent_keeps
    | with_reducible apply State.takeGrid_keeps | with_reducible apply State.correction_keeps
    | with_reducible apply State.put_keeps | with_reducible apply State.alignTo_keeps | with_reducible apply keeps_ite
    | with_reducible apply keeps_foldl | with_reducible apply keeps_foldl_snd | intro _ | extract_lets
    | simp -zeta only [keeps_upd] | split | dsimp only

theorem State.alignTick_keeps {ro : Bool} {z s : State} (h : Keeps ro z s)  :
    Keeps ro z (State.alignTick s) := by
  unfold State.alignTick
  repeat' first
    | with_reducible assumption | with_reducible apply keeps_ite | with_reducible apply keeps_foldl
    | with_reducible apply keeps_foldl_snd | intro _ | extract_lets | simp -zeta only [keeps_upd] | split | dsimp only

theorem State.sendAlign_keeps {ro : Bool} {z s : State} (h : Keeps ro z s)  :
    Keeps ro z (State.sendAlign s) := by
  unfold State.sendAlign
  repeat' first
    | with_reducible assumption | with_reducible apply State.used_keeps | with_reducible apply State.baseSend_keeps
    | with_reducible apply keeps_ite | with_reducible apply keeps_foldl | with_reducible apply keeps_foldl_snd
    | intro _ | extract_lets | simp -zeta only [keeps_upd] | split | dsimp only

end Sys2Proof.Machine
end

