-- ==== Sys2Proof/Laws/KeepsPower.lean ====
section
/-! SUPPORT. What the operations of Machine/Power.lean keep (Laws/Keeps.lean). -/

namespace Sys2Proof.Machine

theorem State.dropPins_keeps {ro : Bool} {z s : State} (h : Keeps ro z s)  :
    Keeps ro z (State.dropPins s) := by
  unfold State.dropPins
  repeat' first
    | with_reducible assumption | with_reducible apply State.emits_keeps | with_reducible apply State.emit_keeps
    | with_reducible apply keeps_ite | with_reducible apply keeps_foldl | with_reducible apply keeps_foldl_snd
    | intro _ | extract_lets | simp -zeta only [keeps_upd] | split | dsimp only

theorem State.keep_keeps {ro : Bool} {z s : State} (h : Keeps ro z s) (o : State) (f : Fld) :
    Keeps ro z (State.keep s o f) := by
  unfold State.keep
  repeat' first
    | with_reducible assumption | with_reducible apply State.put_keeps | with_reducible apply keeps_ite
    | with_reducible apply keeps_foldl | with_reducible apply keeps_foldl_snd | intro _ | extract_lets
    | simp -zeta only [keeps_upd] | split | dsimp only

theorem State.takeRetained_keeps {ro : Bool} {z s : State} (h : Keeps ro z s)  :
    Keeps ro z (State.takeRetained s) := by
  unfold State.takeRetained
  repeat' first
    | with_reducible assumption | with_reducible apply State.put_keeps | with_reducible apply State.raise_keeps
    | with_reducible apply keeps_ite | with_reducible apply keeps_foldl | with_reducible apply keeps_foldl_snd
    | intro _ | extract_lets | simp -zeta only [keeps_upd] | split | dsimp only

theorem State.startDatum_keeps {ro : Bool} {z s : State} (h : Keeps ro z s) (inputs : Nat) :
    Keeps ro z (State.startDatum s inputs) := by
  unfold State.startDatum
  extract_lets a b ch m s1 s2 s3 s4
  have h1 : Keeps ro z s1 :=
    keeps_updSf h { s.sf with x := ch s.sf.x, y := ch s.sf.y } (fun x => x) (fun x => x) _ _ _
  have h2 : Keeps ro z s2 := State.put_keeps (State.putB_keeps (State.put_keeps (State.mirrorInputs_keeps h1) _ _) _ _) _ _
  have h3 : Keeps ro z s3 := keeps_foldl (fun _ _ hs => State.putCfg_keeps hs _ _) _ _ h2
  have h4 : Keeps ro z s4 := by
    unfold s4
    split
    · exact State.raise_keeps (State.blockDatum_keeps h3 _ _ _) _
    · exact h3
  clear_value s1 s2 s3 s4
  split
  · exact State.raise_keeps (State.rstInfo_keeps h4 _ _) _
  · exact h4

theorem State.startStake_keeps {ro : Bool} {z s : State} (h : Keeps ro z s)  :
    Keeps ro z (State.startStake s) := by
  unfold State.startStake
  repeat' first
    | with_reducible assumption | with_reducible apply State.putCfg_keeps
    | with_reducible apply State.linkStrobed_keeps | with_reducible apply State.byPins_keeps
    | with_reducible apply State.emits_keeps | with_reducible apply State.auxStart_keeps
    | with_reducible apply State.put_keeps | with_reducible apply State.initCodes_keeps
    | with_reducible apply State.setDchg_keeps | with_reducible apply State.updPblk_keeps
    | with_reducible apply State.movePumps_keeps | with_reducible apply keeps_ite | with_reducible apply keeps_foldl
    | with_reducible apply keeps_foldl_snd | intro _ | extract_lets | simp -zeta only [keeps_upd] | split | dsimp only

theorem State.tempSource_keeps {ro : Bool} {z s : State} (h : Keeps ro z s) (src : Nat) (t : Int) (level : Int) :
    Keeps ro z (State.tempSource s src t level) := by
  unfold State.tempSource
  repeat' first
    | with_reducible assumption | with_reducible apply State.levelOn_keeps | with_reducible apply State.levelOff_keeps
    | with_reducible apply keeps_ite | with_reducible apply keeps_foldl | with_reducible apply keeps_foldl_snd
    | intro _ | extract_lets | simp -zeta only [keeps_upd] | split | dsimp only

theorem State.setStage_keeps {ro : Bool} {z s : State} (h : Keeps ro z s) (new : Nat) (mv : Nat) (tail : Bool) :
    Keeps ro z (State.setStage s new mv tail) := by
  unfold State.setStage
  repeat' first
    | with_reducible assumption | with_reducible apply State.put_keeps | with_reducible apply State.count_keeps
    | with_reducible apply State.stage_keeps | with_reducible apply keeps_ite | with_reducible apply keeps_foldl
    | with_reducible apply keeps_foldl_snd | intro _ | extract_lets | simp -zeta only [keeps_upd] | split | dsimp only

theorem State.enterS3_keeps {ro : Bool} {z s : State} (h : Keeps ro z s)  :
    Keeps ro z (State.enterS3 s) := by
  unfold State.enterS3
  repeat' first
    | with_reducible assumption | with_reducible apply State.raise_keeps | with_reducible apply State.blockClass_keeps
    | with_reducible apply State.forceOff_keeps | with_reducible apply keeps_ite | with_reducible apply keeps_foldl
    | with_reducible apply keeps_foldl_snd | intro _ | extract_lets | simp -zeta only [keeps_upd] | split | dsimp only

theorem State.enterS4_keeps {ro : Bool} {z s : State} (h : Keeps ro z s) (mv : Nat) :
    Keeps ro z (State.enterS4 s mv) := by
  unfold State.enterS4
  repeat' first
    | with_reducible assumption | with_reducible apply State.forceOff_keeps | with_reducible apply State.bypass_keeps
    | with_reducible apply State.setStage_keeps | with_reducible apply State.movePumps_keeps
    | with_reducible apply State.updLbyp_keeps | with_reducible apply State.auxPin_keeps
    | with_reducible apply State.put_keeps | with_reducible apply keeps_ite | with_reducible apply keeps_foldl
    | with_reducible apply keeps_foldl_snd | intro _ | extract_lets | simp -zeta only [keeps_upd] | split | dsimp only

theorem State.nextStage_keeps {ro : Bool} {z s0 : State} (h : Keeps ro z s0) (mv : Nat) :
    Keeps ro z (State.nextStage s0 mv) := by
  unfold State.nextStage
  repeat' first
    | with_reducible assumption | with_reducible apply State.put_keeps | with_reducible apply State.setStage_keeps
    | with_reducible apply State.raise_keeps | with_reducible apply State.drShedRise_keeps
    | with_reducible apply State.enterS3_keeps | with_reducible apply State.enterS4_keeps
    | with_reducible apply keeps_ite | with_reducible apply keeps_foldl | with_reducible apply keeps_foldl_snd
    | intro _ | extract_lets | simp -zeta only [keeps_upd] | split | dsimp only

theorem State.showHolding_keeps {ro : Bool} {z s : State} (h : Keeps ro z s) (mv : Nat) :
    Keeps ro z (State.showHolding s mv) := by
  unfold State.showHolding
  repeat' first
    | with_reducible assumption | with_reducible apply State.put_keeps | with_reducible apply State.putB_keeps
    | with_reducible apply keeps_ite | with_reducible apply keeps_foldl | with_reducible apply keeps_foldl_snd
    | intro _ | extract_lets | simp -zeta only [keeps_upd] | split | dsimp only

theorem State.warmReset_keeps {ro : Bool} {z s : State} (h : Keeps ro z s)  :
    Keeps ro z (State.warmReset s) := by
  unfold State.warmReset
  repeat' first
    | with_reducible assumption | with_reducible apply State.closeTxn_keeps | with_reducible apply State.count_keeps
    | with_reducible apply State.setPort_keeps | with_reducible apply State.put_keeps
    | with_reducible apply State.processorReset_keeps | with_reducible apply keeps_ite
    | with_reducible apply keeps_foldl | with_reducible apply keeps_foldl_snd | intro _ | extract_lets
    | simp -zeta only [keeps_upd] | split | dsimp only

end Sys2Proof.Machine
end

