-- ==== Sys2Proof/Laws/KeepsStakeFrame.lean ====
section
/-! SUPPORT. What the operations of Machine/StakeFrame.lean keep (Laws/Keeps.lean). -/

namespace Sys2Proof.Machine

theorem State.ackBoth_keeps {ro : Bool} {z s : State} (h : Keeps ro z s)  :
    Keeps ro z (State.ackBoth s) := by
  unfold State.ackBoth
  repeat' first
    | with_reducible assumption | with_reducible apply keeps_ite | with_reducible apply keeps_foldl
    | with_reducible apply keeps_foldl_snd | intro _ | extract_lets | simp -zeta only [keeps_upd] | split | dsimp only

theorem State.leaseProcess_keeps {ro : Bool} {z s : State} (h : Keeps ro z s) (h : Header) :
    Keeps ro z (State.leaseProcess s h) := by
  unfold State.leaseProcess
  repeat' first
    | with_reducible assumption | with_reducible apply State.put_keeps | with_reducible apply State.count_keeps
    | with_reducible apply State.ackBoth_keeps | with_reducible apply keeps_ite | with_reducible apply keeps_foldl
    | with_reducible apply keeps_foldl_snd | intro _ | extract_lets | simp -zeta only [keeps_upd] | split | dsimp only

theorem State.leaseOnce_keeps {ro : Bool} {z s : State} (h : Keeps ro z s) (h : Header) :
    Keeps ro z (State.leaseOnce s h) := by
  unfold State.leaseOnce
  repeat' first
    | with_reducible assumption | with_reducible apply State.leaseProcess_keeps | with_reducible apply keeps_ite
    | with_reducible apply keeps_foldl | with_reducible apply keeps_foldl_snd | intro _ | extract_lets
    | simp -zeta only [keeps_upd] | split | dsimp only

theorem State.leaseTick_keeps {ro : Bool} {z s : State} (h : Keeps ro z s)  :
    Keeps ro z (State.leaseTick s) := by
  unfold State.leaseTick
  repeat' first
    | with_reducible assumption | with_reducible apply State.put_keeps | with_reducible apply keeps_ite
    | with_reducible apply keeps_foldl | with_reducible apply keeps_foldl_snd | intro _ | extract_lets
    | simp -zeta only [keeps_upd] | split | dsimp only

theorem State.ackTick_keeps {ro : Bool} {z s : State} (h : Keeps ro z s)  :
    Keeps ro z (State.ackTick s) := by
  unfold State.ackTick
  repeat' first
    | with_reducible assumption | with_reducible apply State.ackBoth_keeps | with_reducible apply keeps_ite
    | with_reducible apply keeps_foldl | with_reducible apply keeps_foldl_snd | intro _ | extract_lets
    | simp -zeta only [keeps_upd] | split | dsimp only

theorem State.actOn_keeps {ro : Bool} {z s : State} (h : Keeps ro z s) (h : Header) (e : ArmEntry) :
    Keeps ro z (State.actOn s h e) := by
  unfold State.actOn
  repeat' first
    | with_reducible assumption | with_reducible apply keeps_ite | with_reducible apply keeps_foldl
    | with_reducible apply keeps_foldl_snd | intro _ | extract_lets | simp -zeta only [keeps_upd] | split | dsimp only

theorem State.dupDiscard_keeps {ro : Bool} {z s : State} (h : Keeps ro z s) (q : Nat) (f : Frame) :
    Keeps ro z (State.dupDiscard s q f) := by
  unfold State.dupDiscard
  repeat' first
    | with_reducible assumption | with_reducible apply State.count_keeps | with_reducible apply State.put_keeps
    | with_reducible apply State.raise_keeps | with_reducible apply State.countN_keeps
    | with_reducible apply State.actOn_keeps | with_reducible apply keeps_ite | with_reducible apply keeps_foldl
    | with_reducible apply keeps_foldl_snd | intro _ | extract_lets | simp -zeta only [keeps_upd] | split | dsimp only

theorem State.dropReasm_keeps {ro : Bool} {z s : State} (h : Keeps ro z s) (q : Nat) :
    Keeps ro z (State.dropReasm s q) := by
  unfold State.dropReasm
  repeat' first
    | with_reducible assumption | with_reducible apply State.setPort_keeps | with_reducible apply State.count_keeps
    | with_reducible apply keeps_ite | with_reducible apply keeps_foldl | with_reducible apply keeps_foldl_snd
    | intro _ | extract_lets | simp -zeta only [keeps_upd] | split | dsimp only

theorem State.acceptRelay_keeps {ro : Bool} {z s : State} (h : Keeps ro z s) (q : Nat) (m : Reasm) :
    Keeps ro z (State.acceptRelay s q m) := by
  unfold State.acceptRelay
  repeat' first
    | with_reducible assumption | with_reducible apply State.status_keeps | with_reducible apply State.waitReq_keeps
    | with_reducible apply keeps_ite | with_reducible apply keeps_foldl | with_reducible apply keeps_foldl_snd
    | intro _ | extract_lets | simp -zeta only [keeps_upd] | split | dsimp only

theorem State.putReasm_keeps {ro : Bool} {z s : State} (h : Keeps ro z s) (q : Nat) (r : Reasm) (last : Bool) :
    Keeps ro z (State.putReasm s q r last) := by
  unfold State.putReasm
  repeat' first
    | with_reducible assumption | with_reducible apply State.setPort_keeps | with_reducible apply State.emit_keeps
    | with_reducible apply State.acceptRelay_keeps | with_reducible apply keeps_ite | with_reducible apply keeps_foldl
    | with_reducible apply keeps_foldl_snd | intro _ | extract_lets | simp -zeta only [keeps_upd] | split | dsimp only

theorem State.downSegment_keeps {ro : Bool} {z s : State} (h : Keeps ro z s) (q : Nat) (h : Header) (g : Seg) :
    Keeps ro z (State.downSegment s q h g) := by
  unfold State.downSegment
  repeat' first
    | with_reducible assumption | with_reducible apply State.dropReasm_keeps
    | with_reducible apply State.putReasm_keeps | with_reducible apply keeps_ite | with_reducible apply keeps_foldl
    | with_reducible apply keeps_foldl_snd | intro _ | extract_lets | simp -zeta only [keeps_upd] | split | dsimp only

theorem State.takeMgmt_keeps {ro : Bool} {z s : State} (h : Keeps ro z s) (q : Nat) (f : Frame) :
    Keeps ro z (State.takeMgmt s q f).1 := by
  unfold State.takeMgmt
  extract_lets g key m s1
  have h1 : Keeps ro z s1 := (keeps_upd (t := s) ..).2 h
  clear_value s1
  split
  · exact State.dropReasm_keeps h _
  split
  · exact State.announceTime_keeps (State.dropReasm_keeps h1 _) _ _ _ _
  split
  · exact State.downSegment_keeps h1 _ _ _
  · exact State.dropReasm_keeps h1 _

theorem State.upRecord_keeps {ro : Bool} {z s : State} (h : Keeps ro z s) (o : Nat) (m : Nat) (g : MgmtSlot) (ok : Bool) :
    Keeps ro z (State.upRecord s o m g ok).1 := by
  unfold State.upRecord
  repeat' first
    | with_reducible assumption | with_reducible apply State.count_keeps | with_reducible apply State.used_keeps
    | with_reducible apply State.setPort_keeps | with_reducible apply keeps_ite | with_reducible apply keeps_foldl
    | with_reducible apply keeps_foldl_snd | intro _ | extract_lets | simp -zeta only [keeps_upd] | split | dsimp only

theorem State.writeSlot_keeps {ro : Bool} {z s : State} (h : Keeps ro z s) (f : Frame) :
    Keeps ro z (State.writeSlot s f).1 := by
  unfold State.writeSlot
  repeat' first
    | with_reducible assumption | with_reducible apply State.latchReport_keeps | with_reducible apply keeps_ite
    | with_reducible apply keeps_foldl | with_reducible apply keeps_foldl_snd | intro _ | extract_lets
    | simp -zeta only [keeps_upd] | split | dsimp only

theorem State.passFrame_keeps {ro : Bool} {z s : State} (h : Keeps ro z s) (q : Nat) (f : Frame) :
    Keeps ro z (State.passFrame s q f) := by
  unfold State.passFrame
  extract_lets okM s1 a okT
  split
  · split
    · exact State.takeMgmt_keeps h _ _
    · exact State.dropReasm_keeps h _
  · extract_lets b s2 w m
    have h1 : Keeps ro z s1 := by
      unfold s1
      split
      · exact h
      · exact State.count_keeps h _
    have ha : Keeps ro z a.1 := by
      unfold a
      split
      · exact State.takeMgmt_keeps h1 _ _
      · exact State.dropReasm_keeps h1 _
    have hb : Keeps ro z b.1 := State.upRecord_keeps ha _ _ _ _
    have h2 : Keeps ro z s2 := by
      unfold s2
      split
      · exact hb
      · exact State.count_keeps hb _
    exact State.blindGap_keeps (State.passOn_keeps (State.writeSlot_keeps h2 _) _ _) _

theorem State.passBad_keeps {ro : Bool} {z s : State} (h : Keeps ro z s) (q : Nat) (f : Frame) :
    Keeps ro z (State.passBad s q f) := by
  unfold State.passBad
  repeat' first
    | with_reducible assumption | with_reducible apply State.count_keeps | with_reducible apply State.dropReasm_keeps
    | with_reducible apply State.passOn_keeps | with_reducible apply State.blindGap_keeps
    | with_reducible apply keeps_ite | with_reducible apply keeps_foldl | with_reducible apply keeps_foldl_snd
    | intro _ | extract_lets | simp -zeta only [keeps_upd] | split | dsimp only

theorem State.noteFrame_keeps {ro : Bool} {z s0 : State} (h : Keeps ro z s0) (q : Nat) (f : Frame) :
    Keeps ro z (State.noteFrame s0 q f) := by
  unfold State.noteFrame
  repeat' first
    | with_reducible assumption | with_reducible apply State.count_keeps | with_reducible apply State.setPort_keeps
    | with_reducible apply keeps_ite | with_reducible apply keeps_foldl | with_reducible apply keeps_foldl_snd
    | intro _ | extract_lets | simp -zeta only [keeps_upd] | split | dsimp only

theorem State.leaseFrame_keeps {ro : Bool} {z s : State} (h : Keeps ro z s) (f : Frame) :
    Keeps ro z (State.leaseFrame s f) := by
  unfold State.leaseFrame
  repeat' first
    | with_reducible assumption | with_reducible apply State.leaseOnce_keeps | with_reducible apply keeps_ite
    | with_reducible apply keeps_foldl | with_reducible apply keeps_foldl_snd | intro _ | extract_lets
    | simp -zeta only [keeps_upd] | split | dsimp only

theorem State.useFrame_keeps {ro : Bool} {z s : State} (h : Keeps ro z s) (q : Nat) (sof : Nat) (f : Frame) :
    Keeps ro z (State.useFrame s q sof f) := by
  unfold State.useFrame
  repeat' first
    | with_reducible assumption | with_reducible apply State.dupDiscard_keeps
    | with_reducible apply State.safetyRegion_keeps | with_reducible apply State.passFrame_keeps
    | with_reducible apply State.passBad_keeps | with_reducible apply keeps_ite | with_reducible apply keeps_foldl
    | with_reducible apply keeps_foldl_snd | intro _ | extract_lets | simp -zeta only [keeps_upd] | split | dsimp only

theorem State.decodeFrame_keeps {ro : Bool} {z s : State} (h : Keeps ro z s) (q : Nat) (sof : Nat) (f : Frame) :
    Keeps ro z (State.decodeFrame s q sof f) := by
  unfold State.decodeFrame
  repeat' first
    | with_reducible assumption | with_reducible apply State.noteFrame_keeps
    | with_reducible apply State.leaseFrame_keeps | with_reducible apply State.useFrame_keeps
    | with_reducible apply keeps_ite | with_reducible apply keeps_foldl | with_reducible apply keeps_foldl_snd
    | intro _ | extract_lets | simp -zeta only [keeps_upd] | split | dsimp only

theorem State.decodeBoth_keeps {ro : Bool} {z s : State} (h : Keeps ro z s) (sof : Nat) (f0 : Frame) (f1 : Frame) :
    Keeps ro z (State.decodeBoth s sof f0 f1) := by
  unfold State.decodeBoth
  repeat' first
    | with_reducible assumption | with_reducible apply State.noteFrame_keeps
    | with_reducible apply State.leaseFrame_keeps | with_reducible apply State.useFrame_keeps
    | with_reducible apply keeps_ite | with_reducible apply keeps_foldl | with_reducible apply keeps_foldl_snd
    | intro _ | extract_lets | simp -zeta only [keeps_upd] | split | dsimp only

theorem State.forwardPair_keeps {ro : Bool} {z s : State} (h : Keeps ro z s) (q : Nat) (frame : Nat) :
    Keeps ro z (State.forwardPair s q frame).2 := by
  unfold State.forwardPair
  repeat' first
    | with_reducible assumption | with_reducible apply State.count_keeps | with_reducible apply State.setLink_keeps
    | with_reducible apply keeps_ite | with_reducible apply keeps_foldl | with_reducible apply keeps_foldl_snd
    | intro _ | extract_lets | simp -zeta only [keeps_upd] | split | dsimp only

theorem State.forwardBlock_keeps {ro : Bool} {z s : State} (h : Keeps ro z s) (q : Nat) (frame : Nat) :
    Keeps ro z (State.forwardBlock s q frame) := by
  unfold State.forwardBlock
  repeat' first
    | with_reducible assumption | with_reducible apply State.forwardPair_keeps
    | with_reducible apply State.markOut_keeps | with_reducible apply State.setLink_keeps
    | with_reducible apply State.count_keeps | with_reducible apply State.emit_keeps | with_reducible apply keeps_ite
    | with_reducible apply keeps_foldl | with_reducible apply keeps_foldl_snd | intro _ | extract_lets
    | simp -zeta only [keeps_upd] | split | dsimp only

theorem State.forwardMark_keeps {ro : Bool} {z s : State} (h : Keeps ro z s) (q : Nat) (frame : Nat) :
    Keeps ro z (State.forwardMark s q frame) := by
  unfold State.forwardMark
  repeat' first
    | with_reducible assumption | with_reducible apply State.forwardPair_keeps
    | with_reducible apply State.releaseHeld_keeps | with_reducible apply State.setLink_keeps
    | with_reducible apply State.markOut_keeps | with_reducible apply State.count_keeps
    | with_reducible apply State.emit_keeps | with_reducible apply keeps_ite | with_reducible apply keeps_foldl
    | with_reducible apply keeps_foldl_snd | intro _ | extract_lets | simp -zeta only [keeps_upd] | split | dsimp only

theorem State.turnPort_keeps {ro : Bool} {z s : State} (h : Keeps ro z s) (q : Nat) :
    Keeps ro z (State.turnPort s q) := by
  unfold State.turnPort
  repeat' first
    | with_reducible assumption | with_reducible apply State.setPort_keeps
    | with_reducible apply State.measureHop_keeps | with_reducible apply keeps_ite | with_reducible apply keeps_foldl
    | with_reducible apply keeps_foldl_snd | intro _ | extract_lets | simp -zeta only [keeps_upd] | split | dsimp only

end Sys2Proof.Machine
end

