-- ==== Sys2Proof/Laws/KeepsTick.lean ====
section
/-! SUPPORT. What the operations of Machine/Tick.lean keep (Laws/Keeps.lean). -/

namespace Sys2Proof.Machine

theorem State.takeSnapshots_keeps {ro : Bool} {z s : State} (h : Keeps ro z s)  :
    Keeps ro z (State.takeSnapshots s) := by
  unfold State.takeSnapshots
  repeat' first
    | with_reducible assumption | with_reducible apply State.setPort_keeps | with_reducible apply State.used_keeps
    | with_reducible apply keeps_ite | with_reducible apply keeps_foldl | with_reducible apply keeps_foldl_snd
    | intro _ | extract_lets | simp -zeta only [keeps_upd] | split | dsimp only

theorem State.tickStrobe_keeps {ro : Bool} {z s : State} (h : Keeps ro z s)  :
    Keeps ro z (State.tickStrobe s) := by
  unfold State.tickStrobe
  repeat' first
    | with_reducible assumption | with_reducible apply State.atStart_keeps | with_reducible apply State.strobe_keeps
    | with_reducible apply keeps_ite | with_reducible apply keeps_foldl | with_reducible apply keeps_foldl_snd
    | intro _ | extract_lets | simp -zeta only [keeps_upd] | split | dsimp only

theorem State.tickUnits_keeps {ro : Bool} {z s : State} (h : Keeps ro z s)  :
    Keeps ro z (State.tickUnits s) := by
  unfold State.tickUnits
  repeat' first
    | with_reducible assumption | with_reducible apply State.schedTick_keeps
    | with_reducible apply State.levelTick_keeps | with_reducible apply State.twinTick_keeps
    | with_reducible apply State.portsTick_keeps | with_reducible apply State.alignTick_keeps
    | with_reducible apply State.takeSnapshots_keeps | with_reducible apply keeps_ite
    | with_reducible apply keeps_foldl | with_reducible apply keeps_foldl_snd | intro _ | extract_lets
    | simp -zeta only [keeps_upd] | split | dsimp only

theorem State.gridSample_keeps {ro : Bool} {z s : State} (h : Keeps ro z s)  :
    Keeps ro z (State.gridSample s) := by
  unfold State.gridSample
  repeat' first
    | with_reducible assumption | with_reducible apply State.gridTrigger_keeps | with_reducible apply keeps_ite
    | with_reducible apply keeps_foldl | with_reducible apply keeps_foldl_snd | intro _ | extract_lets
    | simp -zeta only [keeps_upd] | split | dsimp only

theorem State.decideTick_keeps {ro : Bool} {z s : State} (h : Keeps ro z s)  :
    Keeps ro z (State.decideTick s).2 := by
  unfold State.decideTick
  repeat' first
    | with_reducible assumption | with_reducible apply State.dueSlots_keeps
    | with_reducible apply State.decideArms_keeps | with_reducible apply State.overrunTick_keeps
    | with_reducible apply keeps_ite | with_reducible apply keeps_foldl | with_reducible apply keeps_foldl_snd
    | intro _ | extract_lets | simp -zeta only [keeps_upd] | split | dsimp only

theorem State.sendTwin_keeps {ro : Bool} {z s : State} (h : Keeps ro z s)  :
    Keeps ro z (State.sendTwin s) := by
  unfold State.sendTwin
  repeat' first
    | with_reducible assumption | with_reducible apply State.sendDigest_keeps
    | with_reducible apply State.sendState_keeps | with_reducible apply keeps_ite | with_reducible apply keeps_foldl
    | with_reducible apply keeps_foldl_snd | intro _ | extract_lets | simp -zeta only [keeps_upd] | split | dsimp only

theorem State.stakeTick_keeps {ro : Bool} {z s : State} (h : Keeps ro z s)  :
    Keeps ro z (State.stakeTick s) := by
  unfold State.stakeTick
  repeat' first
    | with_reducible assumption | with_reducible apply State.noteRow_keeps
    | with_reducible apply State.permitLookback_keeps | with_reducible apply State.leaseTick_keeps
    | with_reducible apply State.ackTick_keeps | with_reducible apply State.tickStrobe_keeps
    | with_reducible apply State.tryDeblock_keeps | with_reducible apply keeps_ite | with_reducible apply keeps_foldl
    | with_reducible apply keeps_foldl_snd | intro _ | extract_lets | simp -zeta only [keeps_upd] | split | dsimp only

theorem State.periodCheck_keeps {ro : Bool} {z s : State} (h : Keeps ro z s) (o : State) :
    Keeps ro z (State.periodCheck s o) := by
  unfold State.periodCheck
  repeat' first
    | with_reducible assumption | with_reducible apply State.raise_keeps | with_reducible apply keeps_ite
    | with_reducible apply keeps_foldl | with_reducible apply keeps_foldl_snd | intro _ | extract_lets
    | simp -zeta only [keeps_upd] | split | dsimp only

theorem State.timingComma_keeps {ro : Bool} {z s : State} (h : Keeps ro z s) (f : Frame) (at' : Nat) :
    Keeps ro z (State.timingComma s f at') := by
  unfold State.timingComma
  repeat' first
    | with_reducible assumption | with_reducible apply State.advance_keeps | with_reducible apply State.comma_keeps
    | with_reducible apply State.periodCheck_keeps | with_reducible apply State.stakeTick_keeps
    | with_reducible apply keeps_ite | with_reducible apply keeps_foldl | with_reducible apply keeps_foldl_snd
    | intro _ | extract_lets | simp -zeta only [keeps_upd] | split | dsimp only

theorem State.absorbIdle_keeps {ro : Bool} {z s : State} (h : Keeps ro z s) (q : Nat) (idles : Nat) :
    Keeps ro z (State.absorbIdle s q idles) := by
  unfold State.absorbIdle
  repeat' first
    | with_reducible assumption | with_reducible apply State.absorb_keeps | with_reducible apply keeps_ite
    | with_reducible apply keeps_foldl | with_reducible apply keeps_foldl_snd | intro _ | extract_lets
    | simp -zeta only [keeps_upd] | split | dsimp only

theorem State.pairDecode_keeps {ro : Bool} {z s0 : State} (h : Keeps ro z s0) (q : Nat) (at' : Nat) (idles : Nat) (f : Frame) (g : Frame) (t : Nat) (n : Nat) :
    Keeps ro z (State.pairDecode s0 q at' idles f g t n) := by
  unfold State.pairDecode
  repeat' first
    | with_reducible assumption | with_reducible apply State.timingComma_keeps
    | with_reducible apply State.advance_keeps | with_reducible apply State.absorbIdle_keeps
    | with_reducible apply State.decodeBoth_keeps | with_reducible apply State.tryDeblock_keeps
    | with_reducible apply keeps_ite | with_reducible apply keeps_foldl | with_reducible apply keeps_foldl_snd
    | intro _ | extract_lets | simp -zeta only [keeps_upd] | split | dsimp only

end Sys2Proof.Machine
end

