-- ==== Sys2Proof/Laws/Answers.lean ====
section
/-! SUPPORT. The shapes of the commands' meanings: each answers a next state that keeps what its effect keeps. -/

namespace Sys2Proof.Machine

/-- A meaning answers a next state that keeps what the relation says. -/
def Answers (ro : Bool) (z : State) (r : Result) : Prop := ∃ t, r = .next t ∧ Keeps ro z t

theorem answers_next {ro : Bool} {z t : State} (h : Keeps ro z t) : Answers ro z (.next t) := ⟨t, rfl, h⟩

theorem State.inStake_answers {ro : Bool} {z s : State} {f : State → State} (hf : ∀ s, Keeps ro z s → Keeps ro z (f s)) (h : Keeps ro z s) :
    Answers ro z (s.inStake f) := answers_next (keeps_ite _ (fun _ => hf s h) fun _ => h)

theorem State.inDatum_answers {ro : Bool} {z s : State} {f : State → State} (hf : ∀ s, Keeps ro z s → Keeps ro z (f s)) (h : Keeps ro z s) :
    Answers ro z (s.inDatum f) := answers_next (keeps_ite _ (fun _ => hf s h) fun _ => h)

theorem State.inRun_answers {ro : Bool} {z s : State} {f : State → State} (hf : ∀ s, Keeps ro z s → Keeps ro z (f s)) (h : Keeps ro z s) :
    Answers ro z (s.inRun f) := answers_next (keeps_ite _ (fun _ => hf s h) fun _ => h)

theorem State.written_answers {ro : Bool} {z s : State} {w : Write} (starts b : Bool)
    (hw : ∀ s, Keeps ro z s → Keeps ro z (w s).2) (h : Keeps ro z s) : Answers ro z (s.written starts b w) := by
  unfold State.written
  split
  · exact answers_next h
  · split
    · exact answers_next (State.emit_keeps h _)
    · exact answers_next (State.emit_keeps (hw s h) _)

theorem State.byWrite_answers {ro : Bool} {z s : State} {w : Write} (b : Bool) (hw : ∀ s, Keeps ro z s → Keeps ro z (w s).2)
    (h : Keeps ro z s) : Answers ro z (s.byWrite b w) := State.written_answers _ b hw h

theorem State.onLink_answers {ro : Bool} {z s : State} {f : State → State} (l : Nat) (hf : ∀ s, Keeps ro z s → Keeps ro z (f s))
    (h : Keeps ro z s) : Answers ro z (s.onLink l f) :=
  State.inRun_answers (fun s h => keeps_ite _ (fun _ => State.tryDeblock_keeps (State.capNews_keeps (hf s h)))
    fun _ => h) h

theorem State.onPort_answers {ro : Bool} {z s : State} {f : State → State} (p : Nat) (hf : ∀ s, Keeps ro z s → Keeps ro z (f s))
    (h : Keeps ro z s) : Answers ro z (s.onPort p f) :=
  State.onLink_answers p (fun s h => keeps_ite _ (fun _ => hf s h) fun _ => h) h

theorem State.command_answers {ro : Bool} {z s : State} {f : State → State} (r : Req) (a b c : Bool)
    (hf : ∀ s, Keeps ro z s → Keeps ro z (f s)) (h : Keeps ro z s) : Answers ro z (s.command r a b c f) :=
  have hs := State.serve_keeps r a b c hf h
  answers_next (keeps_ite _ (fun _ => hs) fun _ => keeps_ite _ (fun _ => State.refuseFull_keeps r h hs) fun _ => h)

theorem State.twinMsg_answers {ro : Bool} {z s : State} {f : State → State} (ok : Bool) (hf : ∀ s, Keeps ro z s → Keeps ro z (f s))
    (h : Keeps ro z s) : Answers ro z (s.twinMsg ok f) :=
  State.inDatum_answers (fun s h => keeps_ite _ (fun _ => h) fun _ => keeps_ite _ (fun _ => hf s h) fun _ =>
    State.count_keeps h _) h

theorem State.onAux_answers {ro : Bool} {z s : State} {f : State → State} (hf : ∀ s, Keeps ro z s → Keeps ro z (f s)) (h : Keeps ro z s) :
    Answers ro z (s.onAux f) :=
  State.inStake_answers (fun s h => keeps_ite _ (fun _ => hf s h) fun _ => h) h

theorem State.onTxn_answers {ro : Bool} {z s : State} {f : State → Txn → State} (r : Req) (id : Nat)
    (hf : ∀ s t, Keeps ro z s → Keeps ro z (f s t)) (h : Keeps ro z s) : Answers ro z (s.onTxn r id f) := by
  refine State.command_answers r _ _ _ (fun s h => ?_) h
  split
  · exact hf s _ h
  · exact State.status_keeps h _ _

end Sys2Proof.Machine
end

