-- ==== Sys2Proof/Laws/State.lean ====
section
/-! SUPPORT. What the plain updates of the state do to each of its fields and to the ways of reading it, true by unfolding once. -/

namespace Sys2Proof.Machine

/-! ### The sparse tables -/

theorem kget_kset_self {α : Type} : ∀ (m : KMap α) (k : Nat) (v : α), kget (kset m k v) k = some v
  | [], k, v => by simp [kset, kget]
  | (a, w) :: t, k, v => by
    unfold kset
    split
    · simp [kget]
    · split
      · simp [kget]
      · rename_i h1 h2
        have : a ≠ k := fun h => h2 h.symm
        simp [kget, this, kget_kset_self t k v]

theorem kget_kset_ne {α : Type} : ∀ (m : KMap α) (k j : Nat) (v : α), j ≠ k → kget (kset m k v) j = kget m j
  | [], k, j, v, h => by simp [kset, kget, Ne.symm h]
  | (a, w) :: t, k, j, v, h => by
    unfold kset
    split
    · simp [kget, Ne.symm h]
    · split
      · rename_i h2
        subst h2
        simp [kget, Ne.symm h]
      · simp only [kget]
        rw [kget_kset_ne t k j v h]

/-- Of two settings of one key the later one stays. -/
theorem kset_kset {α : Type} : ∀ (m : KMap α) (k : Nat) (v w : α), kset (kset m k v) k w = kset m k w
  | [], k, v, w => by simp [kset]
  | (a, u) :: t, k, v, w => by
    by_cases h1 : k < a
    · simp [kset, h1]
    · by_cases h2 : k = a
      · simp [kset, h2]
      · simp [kset, h1, h2, kset_kset t k v w]

@[simp] theorem State.setChan_setChan_self (s : State) (j : Nat) (v w : GateCh) :
    (s.setChan j v).setChan j w = s.setChan j w := by
  simp [State.setChan, kset_kset]

/-! ### put -/

@[simp] theorem State.put_pending (s : State) (f : Fld) (v : Nat) : (s.put f v).pending = s.pending := rfl
@[simp] theorem State.put_phase (s : State) (f : Fld) (v : Nat) : (s.put f v).phase = s.phase := rfl
@[simp] theorem State.put_role (s : State) (f : Fld) (v : Nat) : (s.put f v).role = s.role := rfl
@[simp] theorem State.put_clpos (s : State) (f : Fld) (v : Nat) : (s.put f v).clpos = s.clpos := rfl
@[simp] theorem State.put_board (s : State) (f : Fld) (v : Nat) : (s.put f v).board = s.board := rfl
@[simp] theorem State.put_twpref (s : State) (f : Fld) (v : Nat) : (s.put f v).twpref = s.twpref := rfl
@[simp] theorem State.put_monument (s : State) (f : Fld) (v : Nat) : (s.put f v).monument = s.monument := rfl
@[simp] theorem State.put_now (s : State) (f : Fld) (v : Nat) : (s.put f v).now = s.now := rfl
@[simp] theorem State.put_time (s : State) (f : Fld) (v : Nat) : (s.put f v).time = s.time := rfl
@[simp] theorem State.put_live (s : State) (f : Fld) (v : Nat) : (s.put f v).live = kset s.live f.key (v % 2 ^ f.width) := rfl
@[simp] theorem State.put_shd (s : State) (f : Fld) (v : Nat) : (s.put f v).shd = s.shd := rfl
@[simp] theorem State.put_act (s : State) (f : Fld) (v : Nat) : (s.put f v).act = s.act := rfl
@[simp] theorem State.put_mem (s : State) (f : Fld) (v : Nat) : (s.put f v).mem = s.mem := rfl
@[simp] theorem State.put_mbad (s : State) (f : Fld) (v : Nat) : (s.put f v).mbad = s.mbad := rfl
@[simp] theorem State.put_out (s : State) (f : Fld) (v : Nat) : (s.put f v).out = s.out := rfl
@[simp] theorem State.put_fresh (s : State) (f : Fld) (v : Nat) : (s.put f v).fresh = s.fresh := rfl
@[simp] theorem State.put_tb (s : State) (f : Fld) (v : Nat) : (s.put f v).tb = s.tb := rfl
@[simp] theorem State.put_tev (s : State) (f : Fld) (v : Nat) : (s.put f v).tev = s.tev := rfl
@[simp] theorem State.put_ptp (s : State) (f : Fld) (v : Nat) : (s.put f v).ptp = s.ptp := rfl
@[simp] theorem State.put_links (s : State) (f : Fld) (v : Nat) : (s.put f v).links = s.links := rfl
@[simp] theorem State.put_ports (s : State) (f : Fld) (v : Nat) : (s.put f v).ports = s.ports := rfl
@[simp] theorem State.put_frm (s : State) (f : Fld) (v : Nat) : (s.put f v).frm = s.frm := rfl
@[simp] theorem State.put_arms (s : State) (f : Fld) (v : Nat) : (s.put f v).arms = s.arms := rfl
@[simp] theorem State.put_sch (s : State) (f : Fld) (v : Nat) : (s.put f v).sch = s.sch := rfl
@[simp] theorem State.put_cf (s : State) (f : Fld) (v : Nat) : (s.put f v).cf = s.cf := rfl
@[simp] theorem State.put_tw (s : State) (f : Fld) (v : Nat) : (s.put f v).tw = s.tw := rfl
@[simp] theorem State.put_gs (s : State) (f : Fld) (v : Nat) : (s.put f v).gs = s.gs := rfl
@[simp] theorem State.put_gate (s : State) (f : Fld) (v : Nat) : (s.put f v).gate = s.gate := rfl
@[simp] theorem State.put_sf (s : State) (f : Fld) (v : Nat) : (s.put f v).sf = s.sf := rfl
@[simp] theorem State.put_fc (s : State) (f : Fld) (v : Nat) : (s.put f v).fc = s.fc := rfl
@[simp] theorem State.put_fb (s : State) (f : Fld) (v : Nat) : (s.put f v).fb = s.fb := rfl
@[simp] theorem State.put_dr (s : State) (f : Fld) (v : Nat) : (s.put f v).dr = s.dr := rfl
@[simp] theorem State.put_ad (s : State) (f : Fld) (v : Nat) : (s.put f v).ad = s.ad := rfl
@[simp] theorem State.put_aux (s : State) (f : Fld) (v : Nat) : (s.put f v).aux = s.aux := rfl
@[simp] theorem State.put_mg (s : State) (f : Fld) (v : Nat) : (s.put f v).mg = s.mg := rfl
@[simp] theorem State.put_cl (s : State) (f : Fld) (v : Nat) : (s.put f v).cl = s.cl := rfl
@[simp] theorem State.put_cfg' (s : State) (f : Fld) (v : Nat) (g : Fld) : (s.put f v).cfg g = s.cfg g := rfl
@[simp] theorem State.put_cfgOn' (s : State) (f : Fld) (v : Nat) (g : Fld) : (s.put f v).cfgOn g = s.cfgOn g := rfl
@[simp] theorem State.put_shadow' (s : State) (f : Fld) (v : Nat) (g : Fld) : (s.put f v).shadow g = s.shadow g := rfl
@[simp] theorem State.put_link' (s : State) (f : Fld) (v : Nat) (j : Nat) : (s.put f v).link j = s.link j := rfl
@[simp] theorem State.put_port' (s : State) (f : Fld) (v : Nat) (j : Nat) : (s.put f v).port j = s.port j := rfl
@[simp] theorem State.put_armSt' (s : State) (f : Fld) (v : Nat) (j : Nat) : (s.put f v).armSt j = s.armSt j := rfl
@[simp] theorem State.put_chan' (s : State) (f : Fld) (v : Nat) (j : Nat) : (s.put f v).chan j = s.chan j := rfl
@[simp] theorem State.put_tevSt' (s : State) (f : Fld) (v : Nat) (j : Nat) : (s.put f v).tevSt j = s.tevSt j := rfl
@[simp] theorem State.put_isStake' (s : State) (f : Fld) (v : Nat)  : (s.put f v).isStake = s.isStake := rfl
@[simp] theorem State.put_isDatum' (s : State) (f : Fld) (v : Nat)  : (s.put f v).isDatum = s.isDatum := rfl
@[simp] theorem State.put_running' (s : State) (f : Fld) (v : Nat)  : (s.put f v).running = s.running := rfl

/-! ### putShadow -/

@[simp] theorem State.putShadow_pending (s : State) (f : Fld) (v : Nat) : (s.putShadow f v).pending = s.pending := rfl
@[simp] theorem State.putShadow_phase (s : State) (f : Fld) (v : Nat) : (s.putShadow f v).phase = s.phase := rfl
@[simp] theorem State.putShadow_role (s : State) (f : Fld) (v : Nat) : (s.putShadow f v).role = s.role := rfl
@[simp] theorem State.putShadow_clpos (s : State) (f : Fld) (v : Nat) : (s.putShadow f v).clpos = s.clpos := rfl
@[simp] theorem State.putShadow_board (s : State) (f : Fld) (v : Nat) : (s.putShadow f v).board = s.board := rfl
@[simp] theorem State.putShadow_twpref (s : State) (f : Fld) (v : Nat) : (s.putShadow f v).twpref = s.twpref := rfl
@[simp] theorem State.putShadow_monument (s : State) (f : Fld) (v : Nat) : (s.putShadow f v).monument = s.monument := rfl
@[simp] theorem State.putShadow_now (s : State) (f : Fld) (v : Nat) : (s.putShadow f v).now = s.now := rfl
@[simp] theorem State.putShadow_time (s : State) (f : Fld) (v : Nat) : (s.putShadow f v).time = s.time := rfl
@[simp] theorem State.putShadow_live (s : State) (f : Fld) (v : Nat) : (s.putShadow f v).live = s.live := rfl
@[simp] theorem State.putShadow_shd (s : State) (f : Fld) (v : Nat) : (s.putShadow f v).shd = kset s.shd f.key (v % 2 ^ f.width) := rfl
@[simp] theorem State.putShadow_act (s : State) (f : Fld) (v : Nat) : (s.putShadow f v).act = s.act := rfl
@[simp] theorem State.putShadow_mem (s : State) (f : Fld) (v : Nat) : (s.putShadow f v).mem = s.mem := rfl
@[simp] theorem State.putShadow_mbad (s : State) (f : Fld) (v : Nat) : (s.putShadow f v).mbad = s.mbad := rfl
@[simp] theorem State.putShadow_out (s : State) (f : Fld) (v : Nat) : (s.putShadow f v).out = s.out := rfl
@[simp] theorem State.putShadow_fresh (s : State) (f : Fld) (v : Nat) : (s.putShadow f v).fresh = s.fresh := rfl
@[simp] theorem State.putShadow_tb (s : State) (f : Fld) (v : Nat) : (s.putShadow f v).tb = s.tb := rfl
@[simp] theorem State.putShadow_tev (s : State) (f : Fld) (v : Nat) : (s.putShadow f v).tev = s.tev := rfl
@[simp] theorem State.putShadow_ptp (s : State) (f : Fld) (v : Nat) : (s.putShadow f v).ptp = s.ptp := rfl
@[simp] theorem State.putShadow_links (s : State) (f : Fld) (v : Nat) : (s.putShadow f v).links = s.links := rfl
@[simp] theorem State.putShadow_ports (s : State) (f : Fld) (v : Nat) : (s.putShadow f v).ports = s.ports := rfl
@[simp] theorem State.putShadow_frm (s : State) (f : Fld) (v : Nat) : (s.putShadow f v).frm = s.frm := rfl
@[simp] theorem State.putShadow_arms (s : State) (f : Fld) (v : Nat) : (s.putShadow f v).arms = s.arms := rfl
@[simp] theorem State.putShadow_sch (s : State) (f : Fld) (v : Nat) : (s.putShadow f v).sch = s.sch := rfl
@[simp] theorem State.putShadow_cf (s : State) (f : Fld) (v : Nat) : (s.putShadow f v).cf = s.cf := rfl
@[simp] theorem State.putShadow_tw (s : State) (f : Fld) (v : Nat) : (s.putShadow f v).tw = s.tw := rfl
@[simp] theorem State.putShadow_gs (s : State) (f : Fld) (v : Nat) : (s.putShadow f v).gs = s.gs := rfl
@[simp] theorem State.putShadow_gate (s : State) (f : Fld) (v : Nat) : (s.putShadow f v).gate = s.gate := rfl
@[simp] theorem State.putShadow_sf (s : State) (f : Fld) (v : Nat) : (s.putShadow f v).sf = s.sf := rfl
@[simp] theorem State.putShadow_fc (s : State) (f : Fld) (v : Nat) : (s.putShadow f v).fc = s.fc := rfl
@[simp] theorem State.putShadow_fb (s : State) (f : Fld) (v : Nat) : (s.putShadow f v).fb = s.fb := rfl
@[simp] theorem State.putShadow_dr (s : State) (f : Fld) (v : Nat) : (s.putShadow f v).dr = s.dr := rfl
@[simp] theorem State.putShadow_ad (s : State) (f : Fld) (v : Nat) : (s.putShadow f v).ad = s.ad := rfl
@[simp] theorem State.putShadow_aux (s : State) (f : Fld) (v : Nat) : (s.putShadow f v).aux = s.aux := rfl
@[simp] theorem State.putShadow_mg (s : State) (f : Fld) (v : Nat) : (s.putShadow f v).mg = s.mg := rfl
@[simp] theorem State.putShadow_cl (s : State) (f : Fld) (v : Nat) : (s.putShadow f v).cl = s.cl := rfl
@[simp] theorem State.putShadow_get' (s : State) (f : Fld) (v : Nat) (g : Fld) : (s.putShadow f v).get g = s.get g := rfl
@[simp] theorem State.putShadow_on' (s : State) (f : Fld) (v : Nat) (g : Fld) : (s.putShadow f v).on g = s.on g := rfl
@[simp] theorem State.putShadow_cfg' (s : State) (f : Fld) (v : Nat) (g : Fld) : (s.putShadow f v).cfg g = s.cfg g := rfl
@[simp] theorem State.putShadow_cfgOn' (s : State) (f : Fld) (v : Nat) (g : Fld) : (s.putShadow f v).cfgOn g = s.cfgOn g := rfl
@[simp] theorem State.putShadow_link' (s : State) (f : Fld) (v : Nat) (j : Nat) : (s.putShadow f v).link j = s.link j := rfl
@[simp] theorem State.putShadow_port' (s : State) (f : Fld) (v : Nat) (j : Nat) : (s.putShadow f v).port j = s.port j := rfl
@[simp] theorem State.putShadow_armSt' (s : State) (f : Fld) (v : Nat) (j : Nat) : (s.putShadow f v).armSt j = s.armSt j := rfl
@[simp] theorem State.putShadow_chan' (s : State) (f : Fld) (v : Nat) (j : Nat) : (s.putShadow f v).chan j = s.chan j := rfl
@[simp] theorem State.putShadow_tevSt' (s : State) (f : Fld) (v : Nat) (j : Nat) : (s.putShadow f v).tevSt j = s.tevSt j := rfl
@[simp] theorem State.putShadow_isStake' (s : State) (f : Fld) (v : Nat)  : (s.putShadow f v).isStake = s.isStake := rfl
@[simp] theorem State.putShadow_isDatum' (s : State) (f : Fld) (v : Nat)  : (s.putShadow f v).isDatum = s.isDatum := rfl
@[simp] theorem State.putShadow_running' (s : State) (f : Fld) (v : Nat)  : (s.putShadow f v).running = s.running := rfl

/-! ### putCfg -/

@[simp] theorem State.putCfg_pending (s : State) (f : Fld) (v : Nat) : (s.putCfg f v).pending = s.pending := rfl
@[simp] theorem State.putCfg_phase (s : State) (f : Fld) (v : Nat) : (s.putCfg f v).phase = s.phase := rfl
@[simp] theorem State.putCfg_role (s : State) (f : Fld) (v : Nat) : (s.putCfg f v).role = s.role := rfl
@[simp] theorem State.putCfg_clpos (s : State) (f : Fld) (v : Nat) : (s.putCfg f v).clpos = s.clpos := rfl
@[simp] theorem State.putCfg_board (s : State) (f : Fld) (v : Nat) : (s.putCfg f v).board = s.board := rfl
@[simp] theorem State.putCfg_twpref (s : State) (f : Fld) (v : Nat) : (s.putCfg f v).twpref = s.twpref := rfl
@[simp] theorem State.putCfg_monument (s : State) (f : Fld) (v : Nat) : (s.putCfg f v).monument = s.monument := rfl
@[simp] theorem State.putCfg_now (s : State) (f : Fld) (v : Nat) : (s.putCfg f v).now = s.now := rfl
@[simp] theorem State.putCfg_time (s : State) (f : Fld) (v : Nat) : (s.putCfg f v).time = s.time := rfl
@[simp] theorem State.putCfg_live (s : State) (f : Fld) (v : Nat) : (s.putCfg f v).live = s.live := rfl
@[simp] theorem State.putCfg_shd (s : State) (f : Fld) (v : Nat) : (s.putCfg f v).shd = kset s.shd f.key (v % 2 ^ f.width) := rfl
@[simp] theorem State.putCfg_act (s : State) (f : Fld) (v : Nat) : (s.putCfg f v).act = kset s.act f.key (v % 2 ^ f.width) := rfl
@[simp] theorem State.putCfg_mem (s : State) (f : Fld) (v : Nat) : (s.putCfg f v).mem = s.mem := rfl
@[simp] theorem State.putCfg_mbad (s : State) (f : Fld) (v : Nat) : (s.putCfg f v).mbad = s.mbad := rfl
@[simp] theorem State.putCfg_out (s : State) (f : Fld) (v : Nat) : (s.putCfg f v).out = s.out := rfl
@[simp] theorem State.putCfg_fresh (s : State) (f : Fld) (v : Nat) : (s.putCfg f v).fresh = s.fresh := rfl
@[simp] theorem State.putCfg_tb (s : State) (f : Fld) (v : Nat) : (s.putCfg f v).tb = s.tb := rfl
@[simp] theorem State.putCfg_tev (s : State) (f : Fld) (v : Nat) : (s.putCfg f v).tev = s.tev := rfl
@[simp] theorem State.putCfg_ptp (s : State) (f : Fld) (v : Nat) : (s.putCfg f v).ptp = s.ptp := rfl
@[simp] theorem State.putCfg_links (s : State) (f : Fld) (v : Nat) : (s.putCfg f v).links = s.links := rfl
@[simp] theorem State.putCfg_ports (s : State) (f : Fld) (v : Nat) : (s.putCfg f v).ports = s.ports := rfl
@[simp] theorem State.putCfg_frm (s : State) (f : Fld) (v : Nat) : (s.putCfg f v).frm = s.frm := rfl
@[simp] theorem State.putCfg_arms (s : State) (f : Fld) (v : Nat) : (s.putCfg f v).arms = s.arms := rfl
@[simp] theorem State.putCfg_sch (s : State) (f : Fld) (v : Nat) : (s.putCfg f v).sch = s.sch := rfl
@[simp] theorem State.putCfg_cf (s : State) (f : Fld) (v : Nat) : (s.putCfg f v).cf = s.cf := rfl
@[simp] theorem State.putCfg_tw (s : State) (f : Fld) (v : Nat) : (s.putCfg f v).tw = s.tw := rfl
@[simp] theorem State.putCfg_gs (s : State) (f : Fld) (v : Nat) : (s.putCfg f v).gs = s.gs := rfl
@[simp] theorem State.putCfg_gate (s : State) (f : Fld) (v : Nat) : (s.putCfg f v).gate = s.gate := rfl
@[simp] theorem State.putCfg_sf (s : State) (f : Fld) (v : Nat) : (s.putCfg f v).sf = s.sf := rfl
@[simp] theorem State.putCfg_fc (s : State) (f : Fld) (v : Nat) : (s.putCfg f v).fc = s.fc := rfl
@[simp] theorem State.putCfg_fb (s : State) (f : Fld) (v : Nat) : (s.putCfg f v).fb = s.fb := rfl
@[simp] theorem State.putCfg_dr (s : State) (f : Fld) (v : Nat) : (s.putCfg f v).dr = s.dr := rfl
@[simp] theorem State.putCfg_ad (s : State) (f : Fld) (v : Nat) : (s.putCfg f v).ad = s.ad := rfl
@[simp] theorem State.putCfg_aux (s : State) (f : Fld) (v : Nat) : (s.putCfg f v).aux = s.aux := rfl
@[simp] theorem State.putCfg_mg (s : State) (f : Fld) (v : Nat) : (s.putCfg f v).mg = s.mg := rfl
@[simp] theorem State.putCfg_cl (s : State) (f : Fld) (v : Nat) : (s.putCfg f v).cl = s.cl := rfl
@[simp] theorem State.putCfg_get' (s : State) (f : Fld) (v : Nat) (g : Fld) : (s.putCfg f v).get g = s.get g := rfl
@[simp] theorem State.putCfg_on' (s : State) (f : Fld) (v : Nat) (g : Fld) : (s.putCfg f v).on g = s.on g := rfl
@[simp] theorem State.putCfg_link' (s : State) (f : Fld) (v : Nat) (j : Nat) : (s.putCfg f v).link j = s.link j := rfl
@[simp] theorem State.putCfg_port' (s : State) (f : Fld) (v : Nat) (j : Nat) : (s.putCfg f v).port j = s.port j := rfl
@[simp] theorem State.putCfg_armSt' (s : State) (f : Fld) (v : Nat) (j : Nat) : (s.putCfg f v).armSt j = s.armSt j := rfl
@[simp] theorem State.putCfg_chan' (s : State) (f : Fld) (v : Nat) (j : Nat) : (s.putCfg f v).chan j = s.chan j := rfl
@[simp] theorem State.putCfg_tevSt' (s : State) (f : Fld) (v : Nat) (j : Nat) : (s.putCfg f v).tevSt j = s.tevSt j := rfl
@[simp] theorem State.putCfg_isStake' (s : State) (f : Fld) (v : Nat)  : (s.putCfg f v).isStake = s.isStake := rfl
@[simp] theorem State.putCfg_isDatum' (s : State) (f : Fld) (v : Nat)  : (s.putCfg f v).isDatum = s.isDatum := rfl
@[simp] theorem State.putCfg_running' (s : State) (f : Fld) (v : Nat)  : (s.putCfg f v).running = s.running := rfl

/-! ### putB -/

@[simp] theorem State.putB_pending (s : State) (f : Fld) (b : Bool) : (s.putB f b).pending = s.pending := rfl
@[simp] theorem State.putB_phase (s : State) (f : Fld) (b : Bool) : (s.putB f b).phase = s.phase := rfl
@[simp] theorem State.putB_role (s : State) (f : Fld) (b : Bool) : (s.putB f b).role = s.role := rfl
@[simp] theorem State.putB_clpos (s : State) (f : Fld) (b : Bool) : (s.putB f b).clpos = s.clpos := rfl
@[simp] theorem State.putB_board (s : State) (f : Fld) (b : Bool) : (s.putB f b).board = s.board := rfl
@[simp] theorem State.putB_twpref (s : State) (f : Fld) (b : Bool) : (s.putB f b).twpref = s.twpref := rfl
@[simp] theorem State.putB_monument (s : State) (f : Fld) (b : Bool) : (s.putB f b).monument = s.monument := rfl
@[simp] theorem State.putB_now (s : State) (f : Fld) (b : Bool) : (s.putB f b).now = s.now := rfl
@[simp] theorem State.putB_time (s : State) (f : Fld) (b : Bool) : (s.putB f b).time = s.time := rfl
@[simp] theorem State.putB_live (s : State) (f : Fld) (b : Bool) : (s.putB f b).live = kset s.live f.key (b.toNat % 2 ^ f.width) := rfl
@[simp] theorem State.putB_shd (s : State) (f : Fld) (b : Bool) : (s.putB f b).shd = s.shd := rfl
@[simp] theorem State.putB_act (s : State) (f : Fld) (b : Bool) : (s.putB f b).act = s.act := rfl
@[simp] theorem State.putB_mem (s : State) (f : Fld) (b : Bool) : (s.putB f b).mem = s.mem := rfl
@[simp] theorem State.putB_mbad (s : State) (f : Fld) (b : Bool) : (s.putB f b).mbad = s.mbad := rfl
@[simp] theorem State.putB_out (s : State) (f : Fld) (b : Bool) : (s.putB f b).out = s.out := rfl
@[simp] theorem State.putB_fresh (s : State) (f : Fld) (b : Bool) : (s.putB f b).fresh = s.fresh := rfl
@[simp] theorem State.putB_tb (s : State) (f : Fld) (b : Bool) : (s.putB f b).tb = s.tb := rfl
@[simp] theorem State.putB_tev (s : State) (f : Fld) (b : Bool) : (s.putB f b).tev = s.tev := rfl
@[simp] theorem State.putB_ptp (s : State) (f : Fld) (b : Bool) : (s.putB f b).ptp = s.ptp := rfl
@[simp] theorem State.putB_links (s : State) (f : Fld) (b : Bool) : (s.putB f b).links = s.links := rfl
@[simp] theorem State.putB_ports (s : State) (f : Fld) (b : Bool) : (s.putB f b).ports = s.ports := rfl
@[simp] theorem State.putB_frm (s : State) (f : Fld) (b : Bool) : (s.putB f b).frm = s.frm := rfl
@[simp] theorem State.putB_arms (s : State) (f : Fld) (b : Bool) : (s.putB f b).arms = s.arms := rfl
@[simp] theorem State.putB_sch (s : State) (f : Fld) (b : Bool) : (s.putB f b).sch = s.sch := rfl
@[simp] theorem State.putB_cf (s : State) (f : Fld) (b : Bool) : (s.putB f b).cf = s.cf := rfl
@[simp] theorem State.putB_tw (s : State) (f : Fld) (b : Bool) : (s.putB f b).tw = s.tw := rfl
@[simp] theorem State.putB_gs (s : State) (f : Fld) (b : Bool) : (s.putB f b).gs = s.gs := rfl
@[simp] theorem State.putB_gate (s : State) (f : Fld) (b : Bool) : (s.putB f b).gate = s.gate := rfl
@[simp] theorem State.putB_sf (s : State) (f : Fld) (b : Bool) : (s.putB f b).sf = s.sf := rfl
@[simp] theorem State.putB_fc (s : State) (f : Fld) (b : Bool) : (s.putB f b).fc = s.fc := rfl
@[simp] theorem State.putB_fb (s : State) (f : Fld) (b : Bool) : (s.putB f b).fb = s.fb := rfl
@[simp] theorem State.putB_dr (s : State) (f : Fld) (b : Bool) : (s.putB f b).dr = s.dr := rfl
@[simp] theorem State.putB_ad (s : State) (f : Fld) (b : Bool) : (s.putB f b).ad = s.ad := rfl
@[simp] theorem State.putB_aux (s : State) (f : Fld) (b : Bool) : (s.putB f b).aux = s.aux := rfl
@[simp] theorem State.putB_mg (s : State) (f : Fld) (b : Bool) : (s.putB f b).mg = s.mg := rfl
@[simp] theorem State.putB_cl (s : State) (f : Fld) (b : Bool) : (s.putB f b).cl = s.cl := rfl
@[simp] theorem State.putB_cfg' (s : State) (f : Fld) (b : Bool) (g : Fld) : (s.putB f b).cfg g = s.cfg g := rfl
@[simp] theorem State.putB_cfgOn' (s : State) (f : Fld) (b : Bool) (g : Fld) : (s.putB f b).cfgOn g = s.cfgOn g := rfl
@[simp] theorem State.putB_shadow' (s : State) (f : Fld) (b : Bool) (g : Fld) : (s.putB f b).shadow g = s.shadow g := rfl
@[simp] theorem State.putB_link' (s : State) (f : Fld) (b : Bool) (j : Nat) : (s.putB f b).link j = s.link j := rfl
@[simp] theorem State.putB_port' (s : State) (f : Fld) (b : Bool) (j : Nat) : (s.putB f b).port j = s.port j := rfl
@[simp] theorem State.putB_armSt' (s : State) (f : Fld) (b : Bool) (j : Nat) : (s.putB f b).armSt j = s.armSt j := rfl
@[simp] theorem State.putB_chan' (s : State) (f : Fld) (b : Bool) (j : Nat) : (s.putB f b).chan j = s.chan j := rfl
@[simp] theorem State.putB_tevSt' (s : State) (f : Fld) (b : Bool) (j : Nat) : (s.putB f b).tevSt j = s.tevSt j := rfl
@[simp] theorem State.putB_isStake' (s : State) (f : Fld) (b : Bool)  : (s.putB f b).isStake = s.isStake := rfl
@[simp] theorem State.putB_isDatum' (s : State) (f : Fld) (b : Bool)  : (s.putB f b).isDatum = s.isDatum := rfl
@[simp] theorem State.putB_running' (s : State) (f : Fld) (b : Bool)  : (s.putB f b).running = s.running := rfl

/-! ### emit -/

@[simp] theorem State.emit_pending (s : State) (o : Out) : (s.emit o).pending = s.pending := rfl
@[simp] theorem State.emit_phase (s : State) (o : Out) : (s.emit o).phase = s.phase := rfl
@[simp] theorem State.emit_role (s : State) (o : Out) : (s.emit o).role = s.role := rfl
@[simp] theorem State.emit_clpos (s : State) (o : Out) : (s.emit o).clpos = s.clpos := rfl
@[simp] theorem State.emit_board (s : State) (o : Out) : (s.emit o).board = s.board := rfl
@[simp] theorem State.emit_twpref (s : State) (o : Out) : (s.emit o).twpref = s.twpref := rfl
@[simp] theorem State.emit_monument (s : State) (o : Out) : (s.emit o).monument = s.monument := rfl
@[simp] theorem State.emit_now (s : State) (o : Out) : (s.emit o).now = s.now := rfl
@[simp] theorem State.emit_time (s : State) (o : Out) : (s.emit o).time = s.time := rfl
@[simp] theorem State.emit_live (s : State) (o : Out) : (s.emit o).live = s.live := rfl
@[simp] theorem State.emit_shd (s : State) (o : Out) : (s.emit o).shd = s.shd := rfl
@[simp] theorem State.emit_act (s : State) (o : Out) : (s.emit o).act = s.act := rfl
@[simp] theorem State.emit_mem (s : State) (o : Out) : (s.emit o).mem = s.mem := rfl
@[simp] theorem State.emit_mbad (s : State) (o : Out) : (s.emit o).mbad = s.mbad := rfl
@[simp] theorem State.emit_out (s : State) (o : Out) : (s.emit o).out = s.out ++ [o] := rfl
@[simp] theorem State.emit_fresh (s : State) (o : Out) : (s.emit o).fresh = s.fresh := rfl
@[simp] theorem State.emit_tb (s : State) (o : Out) : (s.emit o).tb = s.tb := rfl
@[simp] theorem State.emit_tev (s : State) (o : Out) : (s.emit o).tev = s.tev := rfl
@[simp] theorem State.emit_ptp (s : State) (o : Out) : (s.emit o).ptp = s.ptp := rfl
@[simp] theorem State.emit_links (s : State) (o : Out) : (s.emit o).links = s.links := rfl
@[simp] theorem State.emit_ports (s : State) (o : Out) : (s.emit o).ports = s.ports := rfl
@[simp] theorem State.emit_frm (s : State) (o : Out) : (s.emit o).frm = s.frm := rfl
@[simp] theorem State.emit_arms (s : State) (o : Out) : (s.emit o).arms = s.arms := rfl
@[simp] theorem State.emit_sch (s : State) (o : Out) : (s.emit o).sch = s.sch := rfl
@[simp] theorem State.emit_cf (s : State) (o : Out) : (s.emit o).cf = s.cf := rfl
@[simp] theorem State.emit_tw (s : State) (o : Out) : (s.emit o).tw = s.tw := rfl
@[simp] theorem State.emit_gs (s : State) (o : Out) : (s.emit o).gs = s.gs := rfl
@[simp] theorem State.emit_gate (s : State) (o : Out) : (s.emit o).gate = s.gate := rfl
@[simp] theorem State.emit_sf (s : State) (o : Out) : (s.emit o).sf = s.sf := rfl
@[simp] theorem State.emit_fc (s : State) (o : Out) : (s.emit o).fc = s.fc := rfl
@[simp] theorem State.emit_fb (s : State) (o : Out) : (s.emit o).fb = s.fb := rfl
@[simp] theorem State.emit_dr (s : State) (o : Out) : (s.emit o).dr = s.dr := rfl
@[simp] theorem State.emit_ad (s : State) (o : Out) : (s.emit o).ad = s.ad := rfl
@[simp] theorem State.emit_aux (s : State) (o : Out) : (s.emit o).aux = s.aux := rfl
@[simp] theorem State.emit_mg (s : State) (o : Out) : (s.emit o).mg = s.mg := rfl
@[simp] theorem State.emit_cl (s : State) (o : Out) : (s.emit o).cl = s.cl := rfl
@[simp] theorem State.emit_get' (s : State) (o : Out) (g : Fld) : (s.emit o).get g = s.get g := rfl
@[simp] theorem State.emit_on' (s : State) (o : Out) (g : Fld) : (s.emit o).on g = s.on g := rfl
@[simp] theorem State.emit_cfg' (s : State) (o : Out) (g : Fld) : (s.emit o).cfg g = s.cfg g := rfl
@[simp] theorem State.emit_cfgOn' (s : State) (o : Out) (g : Fld) : (s.emit o).cfgOn g = s.cfgOn g := rfl
@[simp] theorem State.emit_shadow' (s : State) (o : Out) (g : Fld) : (s.emit o).shadow g = s.shadow g := rfl
@[simp] theorem State.emit_link' (s : State) (o : Out) (j : Nat) : (s.emit o).link j = s.link j := rfl
@[simp] theorem State.emit_port' (s : State) (o : Out) (j : Nat) : (s.emit o).port j = s.port j := rfl
@[simp] theorem State.emit_armSt' (s : State) (o : Out) (j : Nat) : (s.emit o).armSt j = s.armSt j := rfl
@[simp] theorem State.emit_chan' (s : State) (o : Out) (j : Nat) : (s.emit o).chan j = s.chan j := rfl
@[simp] theorem State.emit_tevSt' (s : State) (o : Out) (j : Nat) : (s.emit o).tevSt j = s.tevSt j := rfl
@[simp] theorem State.emit_isStake' (s : State) (o : Out)  : (s.emit o).isStake = s.isStake := rfl
@[simp] theorem State.emit_isDatum' (s : State) (o : Out)  : (s.emit o).isDatum = s.isDatum := rfl
@[simp] theorem State.emit_running' (s : State) (o : Out)  : (s.emit o).running = s.running := rfl

/-! ### emits -/

@[simp] theorem State.emits_pending (s : State) (os : List Out) : (s.emits os).pending = s.pending := rfl
@[simp] theorem State.emits_phase (s : State) (os : List Out) : (s.emits os).phase = s.phase := rfl
@[simp] theorem State.emits_role (s : State) (os : List Out) : (s.emits os).role = s.role := rfl
@[simp] theorem State.emits_clpos (s : State) (os : List Out) : (s.emits os).clpos = s.clpos := rfl
@[simp] theorem State.emits_board (s : State) (os : List Out) : (s.emits os).board = s.board := rfl
@[simp] theorem State.emits_twpref (s : State) (os : List Out) : (s.emits os).twpref = s.twpref := rfl
@[simp] theorem State.emits_monument (s : State) (os : List Out) : (s.emits os).monument = s.monument := rfl
@[simp] theorem State.emits_now (s : State) (os : List Out) : (s.emits os).now = s.now := rfl
@[simp] theorem State.emits_time (s : State) (os : List Out) : (s.emits os).time = s.time := rfl
@[simp] theorem State.emits_live (s : State) (os : List Out) : (s.emits os).live = s.live := rfl
@[simp] theorem State.emits_shd (s : State) (os : List Out) : (s.emits os).shd = s.shd := rfl
@[simp] theorem State.emits_act (s : State) (os : List Out) : (s.emits os).act = s.act := rfl
@[simp] theorem State.emits_mem (s : State) (os : List Out) : (s.emits os).mem = s.mem := rfl
@[simp] theorem State.emits_mbad (s : State) (os : List Out) : (s.emits os).mbad = s.mbad := rfl
@[simp] theorem State.emits_out (s : State) (os : List Out) : (s.emits os).out = s.out ++ os := rfl
@[simp] theorem State.emits_fresh (s : State) (os : List Out) : (s.emits os).fresh = s.fresh := rfl
@[simp] theorem State.emits_tb (s : State) (os : List Out) : (s.emits os).tb = s.tb := rfl
@[simp] theorem State.emits_tev (s : State) (os : List Out) : (s.emits os).tev = s.tev := rfl
@[simp] theorem State.emits_ptp (s : State) (os : List Out) : (s.emits os).ptp = s.ptp := rfl
@[simp] theorem State.emits_links (s : State) (os : List Out) : (s.emits os).links = s.links := rfl
@[simp] theorem State.emits_ports (s : State) (os : List Out) : (s.emits os).ports = s.ports := rfl
@[simp] theorem State.emits_frm (s : State) (os : List Out) : (s.emits os).frm = s.frm := rfl
@[simp] theorem State.emits_arms (s : State) (os : List Out) : (s.emits os).arms = s.arms := rfl
@[simp] theorem State.emits_sch (s : State) (os : List Out) : (s.emits os).sch = s.sch := rfl
@[simp] theorem State.emits_cf (s : State) (os : List Out) : (s.emits os).cf = s.cf := rfl
@[simp] theorem State.emits_tw (s : State) (os : List Out) : (s.emits os).tw = s.tw := rfl
@[simp] theorem State.emits_gs (s : State) (os : List Out) : (s.emits os).gs = s.gs := rfl
@[simp] theorem State.emits_gate (s : State) (os : List Out) : (s.emits os).gate = s.gate := rfl
@[simp] theorem State.emits_sf (s : State) (os : List Out) : (s.emits os).sf = s.sf := rfl
@[simp] theorem State.emits_fc (s : State) (os : List Out) : (s.emits os).fc = s.fc := rfl
@[simp] theorem State.emits_fb (s : State) (os : List Out) : (s.emits os).fb = s.fb := rfl
@[simp] theorem State.emits_dr (s : State) (os : List Out) : (s.emits os).dr = s.dr := rfl
@[simp] theorem State.emits_ad (s : State) (os : List Out) : (s.emits os).ad = s.ad := rfl
@[simp] theorem State.emits_aux (s : State) (os : List Out) : (s.emits os).aux = s.aux := rfl
@[simp] theorem State.emits_mg (s : State) (os : List Out) : (s.emits os).mg = s.mg := rfl
@[simp] theorem State.emits_cl (s : State) (os : List Out) : (s.emits os).cl = s.cl := rfl
@[simp] theorem State.emits_get' (s : State) (os : List Out) (g : Fld) : (s.emits os).get g = s.get g := rfl
@[simp] theorem State.emits_on' (s : State) (os : List Out) (g : Fld) : (s.emits os).on g = s.on g := rfl
@[simp] theorem State.emits_cfg' (s : State) (os : List Out) (g : Fld) : (s.emits os).cfg g = s.cfg g := rfl
@[simp] theorem State.emits_cfgOn' (s : State) (os : List Out) (g : Fld) : (s.emits os).cfgOn g = s.cfgOn g := rfl
@[simp] theorem State.emits_shadow' (s : State) (os : List Out) (g : Fld) : (s.emits os).shadow g = s.shadow g := rfl
@[simp] theorem State.emits_link' (s : State) (os : List Out) (j : Nat) : (s.emits os).link j = s.link j := rfl
@[simp] theorem State.emits_port' (s : State) (os : List Out) (j : Nat) : (s.emits os).port j = s.port j := rfl
@[simp] theorem State.emits_armSt' (s : State) (os : List Out) (j : Nat) : (s.emits os).armSt j = s.armSt j := rfl
@[simp] theorem State.emits_chan' (s : State) (os : List Out) (j : Nat) : (s.emits os).chan j = s.chan j := rfl
@[simp] theorem State.emits_tevSt' (s : State) (os : List Out) (j : Nat) : (s.emits os).tevSt j = s.tevSt j := rfl
@[simp] theorem State.emits_isStake' (s : State) (os : List Out)  : (s.emits os).isStake = s.isStake := rfl
@[simp] theorem State.emits_isDatum' (s : State) (os : List Out)  : (s.emits os).isDatum = s.isDatum := rfl
@[simp] theorem State.emits_running' (s : State) (os : List Out)  : (s.emits os).running = s.running := rfl

/-! ### used -/

@[simp] theorem State.used_pending (s : State)  : (s.used).pending = s.pending := rfl
@[simp] theorem State.used_phase (s : State)  : (s.used).phase = s.phase := rfl
@[simp] theorem State.used_role (s : State)  : (s.used).role = s.role := rfl
@[simp] theorem State.used_clpos (s : State)  : (s.used).clpos = s.clpos := rfl
@[simp] theorem State.used_board (s : State)  : (s.used).board = s.board := rfl
@[simp] theorem State.used_twpref (s : State)  : (s.used).twpref = s.twpref := rfl
@[simp] theorem State.used_monument (s : State)  : (s.used).monument = s.monument := rfl
@[simp] theorem State.used_now (s : State)  : (s.used).now = s.now := rfl
@[simp] theorem State.used_time (s : State)  : (s.used).time = s.time := rfl
@[simp] theorem State.used_live (s : State)  : (s.used).live = s.live := rfl
@[simp] theorem State.used_shd (s : State)  : (s.used).shd = s.shd := rfl
@[simp] theorem State.used_act (s : State)  : (s.used).act = s.act := rfl
@[simp] theorem State.used_mem (s : State)  : (s.used).mem = s.mem := rfl
@[simp] theorem State.used_mbad (s : State)  : (s.used).mbad = s.mbad := rfl
@[simp] theorem State.used_out (s : State)  : (s.used).out = s.out := rfl
@[simp] theorem State.used_fresh (s : State)  : (s.used).fresh = s.fresh + 1 := rfl
@[simp] theorem State.used_tb (s : State)  : (s.used).tb = s.tb := rfl
@[simp] theorem State.used_tev (s : State)  : (s.used).tev = s.tev := rfl
@[simp] theorem State.used_ptp (s : State)  : (s.used).ptp = s.ptp := rfl
@[simp] theorem State.used_links (s : State)  : (s.used).links = s.links := rfl
@[simp] theorem State.used_ports (s : State)  : (s.used).ports = s.ports := rfl
@[simp] theorem State.used_frm (s : State)  : (s.used).frm = s.frm := rfl
@[simp] theorem State.used_arms (s : State)  : (s.used).arms = s.arms := rfl
@[simp] theorem State.used_sch (s : State)  : (s.used).sch = s.sch := rfl
@[simp] theorem State.used_cf (s : State)  : (s.used).cf = s.cf := rfl
@[simp] theorem State.used_tw (s : State)  : (s.used).tw = s.tw := rfl
@[simp] theorem State.used_gs (s : State)  : (s.used).gs = s.gs := rfl
@[simp] theorem State.used_gate (s : State)  : (s.used).gate = s.gate := rfl
@[simp] theorem State.used_sf (s : State)  : (s.used).sf = s.sf := rfl
@[simp] theorem State.used_fc (s : State)  : (s.used).fc = s.fc := rfl
@[simp] theorem State.used_fb (s : State)  : (s.used).fb = s.fb := rfl
@[simp] theorem State.used_dr (s : State)  : (s.used).dr = s.dr := rfl
@[simp] theorem State.used_ad (s : State)  : (s.used).ad = s.ad := rfl
@[simp] theorem State.used_aux (s : State)  : (s.used).aux = s.aux := rfl
@[simp] theorem State.used_mg (s : State)  : (s.used).mg = s.mg := rfl
@[simp] theorem State.used_cl (s : State)  : (s.used).cl = s.cl := rfl
@[simp] theorem State.used_get' (s : State)  (g : Fld) : (s.used).get g = s.get g := rfl
@[simp] theorem State.used_on' (s : State)  (g : Fld) : (s.used).on g = s.on g := rfl
@[simp] theorem State.used_cfg' (s : State)  (g : Fld) : (s.used).cfg g = s.cfg g := rfl
@[simp] theorem State.used_cfgOn' (s : State)  (g : Fld) : (s.used).cfgOn g = s.cfgOn g := rfl
@[simp] theorem State.used_shadow' (s : State)  (g : Fld) : (s.used).shadow g = s.shadow g := rfl
@[simp] theorem State.used_link' (s : State)  (j : Nat) : (s.used).link j = s.link j := rfl
@[simp] theorem State.used_port' (s : State)  (j : Nat) : (s.used).port j = s.port j := rfl
@[simp] theorem State.used_armSt' (s : State)  (j : Nat) : (s.used).armSt j = s.armSt j := rfl
@[simp] theorem State.used_chan' (s : State)  (j : Nat) : (s.used).chan j = s.chan j := rfl
@[simp] theorem State.used_tevSt' (s : State)  (j : Nat) : (s.used).tevSt j = s.tevSt j := rfl
@[simp] theorem State.used_isStake' (s : State)   : (s.used).isStake = s.isStake := rfl
@[simp] theorem State.used_isDatum' (s : State)   : (s.used).isDatum = s.isDatum := rfl
@[simp] theorem State.used_running' (s : State)   : (s.used).running = s.running := rfl

/-! ### setLink -/

@[simp] theorem State.setLink_pending (s : State) (l : Nat) (v : LinkSt) : (s.setLink l v).pending = s.pending := rfl
@[simp] theorem State.setLink_phase (s : State) (l : Nat) (v : LinkSt) : (s.setLink l v).phase = s.phase := rfl
@[simp] theorem State.setLink_role (s : State) (l : Nat) (v : LinkSt) : (s.setLink l v).role = s.role := rfl
@[simp] theorem State.setLink_clpos (s : State) (l : Nat) (v : LinkSt) : (s.setLink l v).clpos = s.clpos := rfl
@[simp] theorem State.setLink_board (s : State) (l : Nat) (v : LinkSt) : (s.setLink l v).board = s.board := rfl
@[simp] theorem State.setLink_twpref (s : State) (l : Nat) (v : LinkSt) : (s.setLink l v).twpref = s.twpref := rfl
@[simp] theorem State.setLink_monument (s : State) (l : Nat) (v : LinkSt) : (s.setLink l v).monument = s.monument := rfl
@[simp] theorem State.setLink_now (s : State) (l : Nat) (v : LinkSt) : (s.setLink l v).now = s.now := rfl
@[simp] theorem State.setLink_time (s : State) (l : Nat) (v : LinkSt) : (s.setLink l v).time = s.time := rfl
@[simp] theorem State.setLink_live (s : State) (l : Nat) (v : LinkSt) : (s.setLink l v).live = s.live := rfl
@[simp] theorem State.setLink_shd (s : State) (l : Nat) (v : LinkSt) : (s.setLink l v).shd = s.shd := rfl
@[simp] theorem State.setLink_act (s : State) (l : Nat) (v : LinkSt) : (s.setLink l v).act = s.act := rfl
@[simp] theorem State.setLink_mem (s : State) (l : Nat) (v : LinkSt) : (s.setLink l v).mem = s.mem := rfl
@[simp] theorem State.setLink_mbad (s : State) (l : Nat) (v : LinkSt) : (s.setLink l v).mbad = s.mbad := rfl
@[simp] theorem State.setLink_out (s : State) (l : Nat) (v : LinkSt) : (s.setLink l v).out = s.out := rfl
@[simp] theorem State.setLink_fresh (s : State) (l : Nat) (v : LinkSt) : (s.setLink l v).fresh = s.fresh := rfl
@[simp] theorem State.setLink_tb (s : State) (l : Nat) (v : LinkSt) : (s.setLink l v).tb = s.tb := rfl
@[simp] theorem State.setLink_tev (s : State) (l : Nat) (v : LinkSt) : (s.setLink l v).tev = s.tev := rfl
@[simp] theorem State.setLink_ptp (s : State) (l : Nat) (v : LinkSt) : (s.setLink l v).ptp = s.ptp := rfl
@[simp] theorem State.setLink_links (s : State) (l : Nat) (v : LinkSt) : (s.setLink l v).links = kset s.links l v := rfl
@[simp] theorem State.setLink_ports (s : State) (l : Nat) (v : LinkSt) : (s.setLink l v).ports = s.ports := rfl
@[simp] theorem State.setLink_frm (s : State) (l : Nat) (v : LinkSt) : (s.setLink l v).frm = s.frm := rfl
@[simp] theorem State.setLink_arms (s : State) (l : Nat) (v : LinkSt) : (s.setLink l v).arms = s.arms := rfl
@[simp] theorem State.setLink_sch (s : State) (l : Nat) (v : LinkSt) : (s.setLink l v).sch = s.sch := rfl
@[simp] theorem State.setLink_cf (s : State) (l : Nat) (v : LinkSt) : (s.setLink l v).cf = s.cf := rfl
@[simp] theorem State.setLink_tw (s : State) (l : Nat) (v : LinkSt) : (s.setLink l v).tw = s.tw := rfl
@[simp] theorem State.setLink_gs (s : State) (l : Nat) (v : LinkSt) : (s.setLink l v).gs = s.gs := rfl
@[simp] theorem State.setLink_gate (s : State) (l : Nat) (v : LinkSt) : (s.setLink l v).gate = s.gate := rfl
@[simp] theorem State.setLink_sf (s : State) (l : Nat) (v : LinkSt) : (s.setLink l v).sf = s.sf := rfl
@[simp] theorem State.setLink_fc (s : State) (l : Nat) (v : LinkSt) : (s.setLink l v).fc = s.fc := rfl
@[simp] theorem State.setLink_fb (s : State) (l : Nat) (v : LinkSt) : (s.setLink l v).fb = s.fb := rfl
@[simp] theorem State.setLink_dr (s : State) (l : Nat) (v : LinkSt) : (s.setLink l v).dr = s.dr := rfl
@[simp] theorem State.setLink_ad (s : State) (l : Nat) (v : LinkSt) : (s.setLink l v).ad = s.ad := rfl
@[simp] theorem State.setLink_aux (s : State) (l : Nat) (v : LinkSt) : (s.setLink l v).aux = s.aux := rfl
@[simp] theorem State.setLink_mg (s : State) (l : Nat) (v : LinkSt) : (s.setLink l v).mg = s.mg := rfl
@[simp] theorem State.setLink_cl (s : State) (l : Nat) (v : LinkSt) : (s.setLink l v).cl = s.cl := rfl
@[simp] theorem State.setLink_get' (s : State) (l : Nat) (v : LinkSt) (g : Fld) : (s.setLink l v).get g = s.get g := rfl
@[simp] theorem State.setLink_on' (s : State) (l : Nat) (v : LinkSt) (g : Fld) : (s.setLink l v).on g = s.on g := rfl
@[simp] theorem State.setLink_cfg' (s : State) (l : Nat) (v : LinkSt) (g : Fld) : (s.setLink l v).cfg g = s.cfg g := rfl
@[simp] theorem State.setLink_cfgOn' (s : State) (l : Nat) (v : LinkSt) (g : Fld) : (s.setLink l v).cfgOn g = s.cfgOn g := rfl
@[simp] theorem State.setLink_shadow' (s : State) (l : Nat) (v : LinkSt) (g : Fld) : (s.setLink l v).shadow g = s.shadow g := rfl
@[simp] theorem State.setLink_port' (s : State) (l : Nat) (v : LinkSt) (j : Nat) : (s.setLink l v).port j = s.port j := rfl
@[simp] theorem State.setLink_armSt' (s : State) (l : Nat) (v : LinkSt) (j : Nat) : (s.setLink l v).armSt j = s.armSt j := rfl
@[simp] theorem State.setLink_chan' (s : State) (l : Nat) (v : LinkSt) (j : Nat) : (s.setLink l v).chan j = s.chan j := rfl
@[simp] theorem State.setLink_tevSt' (s : State) (l : Nat) (v : LinkSt) (j : Nat) : (s.setLink l v).tevSt j = s.tevSt j := rfl
@[simp] theorem State.setLink_isStake' (s : State) (l : Nat) (v : LinkSt)  : (s.setLink l v).isStake = s.isStake := rfl
@[simp] theorem State.setLink_isDatum' (s : State) (l : Nat) (v : LinkSt)  : (s.setLink l v).isDatum = s.isDatum := rfl
@[simp] theorem State.setLink_running' (s : State) (l : Nat) (v : LinkSt)  : (s.setLink l v).running = s.running := rfl

/-! ### setPort -/

@[simp] theorem State.setPort_pending (s : State) (p : Nat) (v : PortSt) : (s.setPort p v).pending = s.pending := rfl
@[simp] theorem State.setPort_phase (s : State) (p : Nat) (v : PortSt) : (s.setPort p v).phase = s.phase := rfl
@[simp] theorem State.setPort_role (s : State) (p : Nat) (v : PortSt) : (s.setPort p v).role = s.role := rfl
@[simp] theorem State.setPort_clpos (s : State) (p : Nat) (v : PortSt) : (s.setPort p v).clpos = s.clpos := rfl
@[simp] theorem State.setPort_board (s : State) (p : Nat) (v : PortSt) : (s.setPort p v).board = s.board := rfl
@[simp] theorem State.setPort_twpref (s : State) (p : Nat) (v : PortSt) : (s.setPort p v).twpref = s.twpref := rfl
@[simp] theorem State.setPort_monument (s : State) (p : Nat) (v : PortSt) : (s.setPort p v).monument = s.monument := rfl
@[simp] theorem State.setPort_now (s : State) (p : Nat) (v : PortSt) : (s.setPort p v).now = s.now := rfl
@[simp] theorem State.setPort_time (s : State) (p : Nat) (v : PortSt) : (s.setPort p v).time = s.time := rfl
@[simp] theorem State.setPort_live (s : State) (p : Nat) (v : PortSt) : (s.setPort p v).live = s.live := rfl
@[simp] theorem State.setPort_shd (s : State) (p : Nat) (v : PortSt) : (s.setPort p v).shd = s.shd := rfl
@[simp] theorem State.setPort_act (s : State) (p : Nat) (v : PortSt) : (s.setPort p v).act = s.act := rfl
@[simp] theorem State.setPort_mem (s : State) (p : Nat) (v : PortSt) : (s.setPort p v).mem = s.mem := rfl
@[simp] theorem State.setPort_mbad (s : State) (p : Nat) (v : PortSt) : (s.setPort p v).mbad = s.mbad := rfl
@[simp] theorem State.setPort_out (s : State) (p : Nat) (v : PortSt) : (s.setPort p v).out = s.out := rfl
@[simp] theorem State.setPort_fresh (s : State) (p : Nat) (v : PortSt) : (s.setPort p v).fresh = s.fresh := rfl
@[simp] theorem State.setPort_tb (s : State) (p : Nat) (v : PortSt) : (s.setPort p v).tb = s.tb := rfl
@[simp] theorem State.setPort_tev (s : State) (p : Nat) (v : PortSt) : (s.setPort p v).tev = s.tev := rfl
@[simp] theorem State.setPort_ptp (s : State) (p : Nat) (v : PortSt) : (s.setPort p v).ptp = s.ptp := rfl
@[simp] theorem State.setPort_links (s : State) (p : Nat) (v : PortSt) : (s.setPort p v).links = s.links := rfl
@[simp] theorem State.setPort_ports (s : State) (p : Nat) (v : PortSt) : (s.setPort p v).ports = kset s.ports p v := rfl
@[simp] theorem State.setPort_frm (s : State) (p : Nat) (v : PortSt) : (s.setPort p v).frm = s.frm := rfl
@[simp] theorem State.setPort_arms (s : State) (p : Nat) (v : PortSt) : (s.setPort p v).arms = s.arms := rfl
@[simp] theorem State.setPort_sch (s : State) (p : Nat) (v : PortSt) : (s.setPort p v).sch = s.sch := rfl
@[simp] theorem State.setPort_cf (s : State) (p : Nat) (v : PortSt) : (s.setPort p v).cf = s.cf := rfl
@[simp] theorem State.setPort_tw (s : State) (p : Nat) (v : PortSt) : (s.setPort p v).tw = s.tw := rfl
@[simp] theorem State.setPort_gs (s : State) (p : Nat) (v : PortSt) : (s.setPort p v).gs = s.gs := rfl
@[simp] theorem State.setPort_gate (s : State) (p : Nat) (v : PortSt) : (s.setPort p v).gate = s.gate := rfl
@[simp] theorem State.setPort_sf (s : State) (p : Nat) (v : PortSt) : (s.setPort p v).sf = s.sf := rfl
@[simp] theorem State.setPort_fc (s : State) (p : Nat) (v : PortSt) : (s.setPort p v).fc = s.fc := rfl
@[simp] theorem State.setPort_fb (s : State) (p : Nat) (v : PortSt) : (s.setPort p v).fb = s.fb := rfl
@[simp] theorem State.setPort_dr (s : State) (p : Nat) (v : PortSt) : (s.setPort p v).dr = s.dr := rfl
@[simp] theorem State.setPort_ad (s : State) (p : Nat) (v : PortSt) : (s.setPort p v).ad = s.ad := rfl
@[simp] theorem State.setPort_aux (s : State) (p : Nat) (v : PortSt) : (s.setPort p v).aux = s.aux := rfl
@[simp] theorem State.setPort_mg (s : State) (p : Nat) (v : PortSt) : (s.setPort p v).mg = s.mg := rfl
@[simp] theorem State.setPort_cl (s : State) (p : Nat) (v : PortSt) : (s.setPort p v).cl = s.cl := rfl
@[simp] theorem State.setPort_get' (s : State) (p : Nat) (v : PortSt) (g : Fld) : (s.setPort p v).get g = s.get g := rfl
@[simp] theorem State.setPort_on' (s : State) (p : Nat) (v : PortSt) (g : Fld) : (s.setPort p v).on g = s.on g := rfl
@[simp] theorem State.setPort_cfg' (s : State) (p : Nat) (v : PortSt) (g : Fld) : (s.setPort p v).cfg g = s.cfg g := rfl
@[simp] theorem State.setPort_cfgOn' (s : State) (p : Nat) (v : PortSt) (g : Fld) : (s.setPort p v).cfgOn g = s.cfgOn g := rfl
@[simp] theorem State.setPort_shadow' (s : State) (p : Nat) (v : PortSt) (g : Fld) : (s.setPort p v).shadow g = s.shadow g := rfl
@[simp] theorem State.setPort_link' (s : State) (p : Nat) (v : PortSt) (j : Nat) : (s.setPort p v).link j = s.link j := rfl
@[simp] theorem State.setPort_armSt' (s : State) (p : Nat) (v : PortSt) (j : Nat) : (s.setPort p v).armSt j = s.armSt j := rfl
@[simp] theorem State.setPort_chan' (s : State) (p : Nat) (v : PortSt) (j : Nat) : (s.setPort p v).chan j = s.chan j := rfl
@[simp] theorem State.setPort_tevSt' (s : State) (p : Nat) (v : PortSt) (j : Nat) : (s.setPort p v).tevSt j = s.tevSt j := rfl
@[simp] theorem State.setPort_isStake' (s : State) (p : Nat) (v : PortSt)  : (s.setPort p v).isStake = s.isStake := rfl
@[simp] theorem State.setPort_isDatum' (s : State) (p : Nat) (v : PortSt)  : (s.setPort p v).isDatum = s.isDatum := rfl
@[simp] theorem State.setPort_running' (s : State) (p : Nat) (v : PortSt)  : (s.setPort p v).running = s.running := rfl

/-! ### setArm -/

@[simp] theorem State.setArm_pending (s : State) (a : Nat) (v : ArmSt) : (s.setArm a v).pending = s.pending := rfl
@[simp] theorem State.setArm_phase (s : State) (a : Nat) (v : ArmSt) : (s.setArm a v).phase = s.phase := rfl
@[simp] theorem State.setArm_role (s : State) (a : Nat) (v : ArmSt) : (s.setArm a v).role = s.role := rfl
@[simp] theorem State.setArm_clpos (s : State) (a : Nat) (v : ArmSt) : (s.setArm a v).clpos = s.clpos := rfl
@[simp] theorem State.setArm_board (s : State) (a : Nat) (v : ArmSt) : (s.setArm a v).board = s.board := rfl
@[simp] theorem State.setArm_twpref (s : State) (a : Nat) (v : ArmSt) : (s.setArm a v).twpref = s.twpref := rfl
@[simp] theorem State.setArm_monument (s : State) (a : Nat) (v : ArmSt) : (s.setArm a v).monument = s.monument := rfl
@[simp] theorem State.setArm_now (s : State) (a : Nat) (v : ArmSt) : (s.setArm a v).now = s.now := rfl
@[simp] theorem State.setArm_time (s : State) (a : Nat) (v : ArmSt) : (s.setArm a v).time = s.time := rfl
@[simp] theorem State.setArm_live (s : State) (a : Nat) (v : ArmSt) : (s.setArm a v).live = s.live := rfl
@[simp] theorem State.setArm_shd (s : State) (a : Nat) (v : ArmSt) : (s.setArm a v).shd = s.shd := rfl
@[simp] theorem State.setArm_act (s : State) (a : Nat) (v : ArmSt) : (s.setArm a v).act = s.act := rfl
@[simp] theorem State.setArm_mem (s : State) (a : Nat) (v : ArmSt) : (s.setArm a v).mem = s.mem := rfl
@[simp] theorem State.setArm_mbad (s : State) (a : Nat) (v : ArmSt) : (s.setArm a v).mbad = s.mbad := rfl
@[simp] theorem State.setArm_out (s : State) (a : Nat) (v : ArmSt) : (s.setArm a v).out = s.out := rfl
@[simp] theorem State.setArm_fresh (s : State) (a : Nat) (v : ArmSt) : (s.setArm a v).fresh = s.fresh := rfl
@[simp] theorem State.setArm_tb (s : State) (a : Nat) (v : ArmSt) : (s.setArm a v).tb = s.tb := rfl
@[simp] theorem State.setArm_tev (s : State) (a : Nat) (v : ArmSt) : (s.setArm a v).tev = s.tev := rfl
@[simp] theorem State.setArm_ptp (s : State) (a : Nat) (v : ArmSt) : (s.setArm a v).ptp = s.ptp := rfl
@[simp] theorem State.setArm_links (s : State) (a : Nat) (v : ArmSt) : (s.setArm a v).links = s.links := rfl
@[simp] theorem State.setArm_ports (s : State) (a : Nat) (v : ArmSt) : (s.setArm a v).ports = s.ports := rfl
@[simp] theorem State.setArm_frm (s : State) (a : Nat) (v : ArmSt) : (s.setArm a v).frm = s.frm := rfl
@[simp] theorem State.setArm_arms (s : State) (a : Nat) (v : ArmSt) : (s.setArm a v).arms = kset s.arms a v := rfl
@[simp] theorem State.setArm_sch (s : State) (a : Nat) (v : ArmSt) : (s.setArm a v).sch = s.sch := rfl
@[simp] theorem State.setArm_cf (s : State) (a : Nat) (v : ArmSt) : (s.setArm a v).cf = s.cf := rfl
@[simp] theorem State.setArm_tw (s : State) (a : Nat) (v : ArmSt) : (s.setArm a v).tw = s.tw := rfl
@[simp] theorem State.setArm_gs (s : State) (a : Nat) (v : ArmSt) : (s.setArm a v).gs = s.gs := rfl
@[simp] theorem State.setArm_gate (s : State) (a : Nat) (v : ArmSt) : (s.setArm a v).gate = s.gate := rfl
@[simp] theorem State.setArm_sf (s : State) (a : Nat) (v : ArmSt) : (s.setArm a v).sf = s.sf := rfl
@[simp] theorem State.setArm_fc (s : State) (a : Nat) (v : ArmSt) : (s.setArm a v).fc = s.fc := rfl
@[simp] theorem State.setArm_fb (s : State) (a : Nat) (v : ArmSt) : (s.setArm a v).fb = s.fb := rfl
@[simp] theorem State.setArm_dr (s : State) (a : Nat) (v : ArmSt) : (s.setArm a v).dr = s.dr := rfl
@[simp] theorem State.setArm_ad (s : State) (a : Nat) (v : ArmSt) : (s.setArm a v).ad = s.ad := rfl
@[simp] theorem State.setArm_aux (s : State) (a : Nat) (v : ArmSt) : (s.setArm a v).aux = s.aux := rfl
@[simp] theorem State.setArm_mg (s : State) (a : Nat) (v : ArmSt) : (s.setArm a v).mg = s.mg := rfl
@[simp] theorem State.setArm_cl (s : State) (a : Nat) (v : ArmSt) : (s.setArm a v).cl = s.cl := rfl
@[simp] theorem State.setArm_get' (s : State) (a : Nat) (v : ArmSt) (g : Fld) : (s.setArm a v).get g = s.get g := rfl
@[simp] theorem State.setArm_on' (s : State) (a : Nat) (v : ArmSt) (g : Fld) : (s.setArm a v).on g = s.on g := rfl
@[simp] theorem State.setArm_cfg' (s : State) (a : Nat) (v : ArmSt) (g : Fld) : (s.setArm a v).cfg g = s.cfg g := rfl
@[simp] theorem State.setArm_cfgOn' (s : State) (a : Nat) (v : ArmSt) (g : Fld) : (s.setArm a v).cfgOn g = s.cfgOn g := rfl
@[simp] theorem State.setArm_shadow' (s : State) (a : Nat) (v : ArmSt) (g : Fld) : (s.setArm a v).shadow g = s.shadow g := rfl
@[simp] theorem State.setArm_link' (s : State) (a : Nat) (v : ArmSt) (j : Nat) : (s.setArm a v).link j = s.link j := rfl
@[simp] theorem State.setArm_port' (s : State) (a : Nat) (v : ArmSt) (j : Nat) : (s.setArm a v).port j = s.port j := rfl
@[simp] theorem State.setArm_chan' (s : State) (a : Nat) (v : ArmSt) (j : Nat) : (s.setArm a v).chan j = s.chan j := rfl
@[simp] theorem State.setArm_tevSt' (s : State) (a : Nat) (v : ArmSt) (j : Nat) : (s.setArm a v).tevSt j = s.tevSt j := rfl
@[simp] theorem State.setArm_isStake' (s : State) (a : Nat) (v : ArmSt)  : (s.setArm a v).isStake = s.isStake := rfl
@[simp] theorem State.setArm_isDatum' (s : State) (a : Nat) (v : ArmSt)  : (s.setArm a v).isDatum = s.isDatum := rfl
@[simp] theorem State.setArm_running' (s : State) (a : Nat) (v : ArmSt)  : (s.setArm a v).running = s.running := rfl

/-! ### setChan -/

@[simp] theorem State.setChan_pending (s : State) (n : Nat) (v : GateCh) : (s.setChan n v).pending = s.pending := rfl
@[simp] theorem State.setChan_phase (s : State) (n : Nat) (v : GateCh) : (s.setChan n v).phase = s.phase := rfl
@[simp] theorem State.setChan_role (s : State) (n : Nat) (v : GateCh) : (s.setChan n v).role = s.role := rfl
@[simp] theorem State.setChan_clpos (s : State) (n : Nat) (v : GateCh) : (s.setChan n v).clpos = s.clpos := rfl
@[simp] theorem State.setChan_board (s : State) (n : Nat) (v : GateCh) : (s.setChan n v).board = s.board := rfl
@[simp] theorem State.setChan_twpref (s : State) (n : Nat) (v : GateCh) : (s.setChan n v).twpref = s.twpref := rfl
@[simp] theorem State.setChan_monument (s : State) (n : Nat) (v : GateCh) : (s.setChan n v).monument = s.monument := rfl
@[simp] theorem State.setChan_now (s : State) (n : Nat) (v : GateCh) : (s.setChan n v).now = s.now := rfl
@[simp] theorem State.setChan_time (s : State) (n : Nat) (v : GateCh) : (s.setChan n v).time = s.time := rfl
@[simp] theorem State.setChan_live (s : State) (n : Nat) (v : GateCh) : (s.setChan n v).live = s.live := rfl
@[simp] theorem State.setChan_shd (s : State) (n : Nat) (v : GateCh) : (s.setChan n v).shd = s.shd := rfl
@[simp] theorem State.setChan_act (s : State) (n : Nat) (v : GateCh) : (s.setChan n v).act = s.act := rfl
@[simp] theorem State.setChan_mem (s : State) (n : Nat) (v : GateCh) : (s.setChan n v).mem = s.mem := rfl
@[simp] theorem State.setChan_mbad (s : State) (n : Nat) (v : GateCh) : (s.setChan n v).mbad = s.mbad := rfl
@[simp] theorem State.setChan_out (s : State) (n : Nat) (v : GateCh) : (s.setChan n v).out = s.out := rfl
@[simp] theorem State.setChan_fresh (s : State) (n : Nat) (v : GateCh) : (s.setChan n v).fresh = s.fresh := rfl
@[simp] theorem State.setChan_tb (s : State) (n : Nat) (v : GateCh) : (s.setChan n v).tb = s.tb := rfl
@[simp] theorem State.setChan_tev (s : State) (n : Nat) (v : GateCh) : (s.setChan n v).tev = s.tev := rfl
@[simp] theorem State.setChan_ptp (s : State) (n : Nat) (v : GateCh) : (s.setChan n v).ptp = s.ptp := rfl
@[simp] theorem State.setChan_links (s : State) (n : Nat) (v : GateCh) : (s.setChan n v).links = s.links := rfl
@[simp] theorem State.setChan_ports (s : State) (n : Nat) (v : GateCh) : (s.setChan n v).ports = s.ports := rfl
@[simp] theorem State.setChan_frm (s : State) (n : Nat) (v : GateCh) : (s.setChan n v).frm = s.frm := rfl
@[simp] theorem State.setChan_arms (s : State) (n : Nat) (v : GateCh) : (s.setChan n v).arms = s.arms := rfl
@[simp] theorem State.setChan_sch (s : State) (n : Nat) (v : GateCh) : (s.setChan n v).sch = s.sch := rfl
@[simp] theorem State.setChan_cf (s : State) (n : Nat) (v : GateCh) : (s.setChan n v).cf = s.cf := rfl
@[simp] theorem State.setChan_tw (s : State) (n : Nat) (v : GateCh) : (s.setChan n v).tw = s.tw := rfl
@[simp] theorem State.setChan_gs (s : State) (n : Nat) (v : GateCh) : (s.setChan n v).gs = s.gs := rfl
@[simp] theorem State.setChan_gate (s : State) (n : Nat) (v : GateCh) : (s.setChan n v).gate = kset s.gate n v := rfl
@[simp] theorem State.setChan_sf (s : State) (n : Nat) (v : GateCh) : (s.setChan n v).sf = s.sf := rfl
@[simp] theorem State.setChan_fc (s : State) (n : Nat) (v : GateCh) : (s.setChan n v).fc = s.fc := rfl
@[simp] theorem State.setChan_fb (s : State) (n : Nat) (v : GateCh) : (s.setChan n v).fb = s.fb := rfl
@[simp] theorem State.setChan_dr (s : State) (n : Nat) (v : GateCh) : (s.setChan n v).dr = s.dr := rfl
@[simp] theorem State.setChan_ad (s : State) (n : Nat) (v : GateCh) : (s.setChan n v).ad = s.ad := rfl
@[simp] theorem State.setChan_aux (s : State) (n : Nat) (v : GateCh) : (s.setChan n v).aux = s.aux := rfl
@[simp] theorem State.setChan_mg (s : State) (n : Nat) (v : GateCh) : (s.setChan n v).mg = s.mg := rfl
@[simp] theorem State.setChan_cl (s : State) (n : Nat) (v : GateCh) : (s.setChan n v).cl = s.cl := rfl
@[simp] theorem State.setChan_get' (s : State) (n : Nat) (v : GateCh) (g : Fld) : (s.setChan n v).get g = s.get g := rfl
@[simp] theorem State.setChan_on' (s : State) (n : Nat) (v : GateCh) (g : Fld) : (s.setChan n v).on g = s.on g := rfl
@[simp] theorem State.setChan_cfg' (s : State) (n : Nat) (v : GateCh) (g : Fld) : (s.setChan n v).cfg g = s.cfg g := rfl
@[simp] theorem State.setChan_cfgOn' (s : State) (n : Nat) (v : GateCh) (g : Fld) : (s.setChan n v).cfgOn g = s.cfgOn g := rfl
@[simp] theorem State.setChan_shadow' (s : State) (n : Nat) (v : GateCh) (g : Fld) : (s.setChan n v).shadow g = s.shadow g := rfl
@[simp] theorem State.setChan_link' (s : State) (n : Nat) (v : GateCh) (j : Nat) : (s.setChan n v).link j = s.link j := rfl
@[simp] theorem State.setChan_port' (s : State) (n : Nat) (v : GateCh) (j : Nat) : (s.setChan n v).port j = s.port j := rfl
@[simp] theorem State.setChan_armSt' (s : State) (n : Nat) (v : GateCh) (j : Nat) : (s.setChan n v).armSt j = s.armSt j := rfl
@[simp] theorem State.setChan_tevSt' (s : State) (n : Nat) (v : GateCh) (j : Nat) : (s.setChan n v).tevSt j = s.tevSt j := rfl
@[simp] theorem State.setChan_isStake' (s : State) (n : Nat) (v : GateCh)  : (s.setChan n v).isStake = s.isStake := rfl
@[simp] theorem State.setChan_isDatum' (s : State) (n : Nat) (v : GateCh)  : (s.setChan n v).isDatum = s.isDatum := rfl
@[simp] theorem State.setChan_running' (s : State) (n : Nat) (v : GateCh)  : (s.setChan n v).running = s.running := rfl

/-! ### setTev -/

@[simp] theorem State.setTev_pending (s : State) (n : Nat) (v : TevSt) : (s.setTev n v).pending = s.pending := rfl
@[simp] theorem State.setTev_phase (s : State) (n : Nat) (v : TevSt) : (s.setTev n v).phase = s.phase := rfl
@[simp] theorem State.setTev_role (s : State) (n : Nat) (v : TevSt) : (s.setTev n v).role = s.role := rfl
@[simp] theorem State.setTev_clpos (s : State) (n : Nat) (v : TevSt) : (s.setTev n v).clpos = s.clpos := rfl
@[simp] theorem State.setTev_board (s : State) (n : Nat) (v : TevSt) : (s.setTev n v).board = s.board := rfl
@[simp] theorem State.setTev_twpref (s : State) (n : Nat) (v : TevSt) : (s.setTev n v).twpref = s.twpref := rfl
@[simp] theorem State.setTev_monument (s : State) (n : Nat) (v : TevSt) : (s.setTev n v).monument = s.monument := rfl
@[simp] theorem State.setTev_now (s : State) (n : Nat) (v : TevSt) : (s.setTev n v).now = s.now := rfl
@[simp] theorem State.setTev_time (s : State) (n : Nat) (v : TevSt) : (s.setTev n v).time = s.time := rfl
@[simp] theorem State.setTev_live (s : State) (n : Nat) (v : TevSt) : (s.setTev n v).live = s.live := rfl
@[simp] theorem State.setTev_shd (s : State) (n : Nat) (v : TevSt) : (s.setTev n v).shd = s.shd := rfl
@[simp] theorem State.setTev_act (s : State) (n : Nat) (v : TevSt) : (s.setTev n v).act = s.act := rfl
@[simp] theorem State.setTev_mem (s : State) (n : Nat) (v : TevSt) : (s.setTev n v).mem = s.mem := rfl
@[simp] theorem State.setTev_mbad (s : State) (n : Nat) (v : TevSt) : (s.setTev n v).mbad = s.mbad := rfl
@[simp] theorem State.setTev_out (s : State) (n : Nat) (v : TevSt) : (s.setTev n v).out = s.out := rfl
@[simp] theorem State.setTev_fresh (s : State) (n : Nat) (v : TevSt) : (s.setTev n v).fresh = s.fresh := rfl
@[simp] theorem State.setTev_tb (s : State) (n : Nat) (v : TevSt) : (s.setTev n v).tb = s.tb := rfl
@[simp] theorem State.setTev_tev (s : State) (n : Nat) (v : TevSt) : (s.setTev n v).tev = kset s.tev n v := rfl
@[simp] theorem State.setTev_ptp (s : State) (n : Nat) (v : TevSt) : (s.setTev n v).ptp = s.ptp := rfl
@[simp] theorem State.setTev_links (s : State) (n : Nat) (v : TevSt) : (s.setTev n v).links = s.links := rfl
@[simp] theorem State.setTev_ports (s : State) (n : Nat) (v : TevSt) : (s.setTev n v).ports = s.ports := rfl
@[simp] theorem State.setTev_frm (s : State) (n : Nat) (v : TevSt) : (s.setTev n v).frm = s.frm := rfl
@[simp] theorem State.setTev_arms (s : State) (n : Nat) (v : TevSt) : (s.setTev n v).arms = s.arms := rfl
@[simp] theorem State.setTev_sch (s : State) (n : Nat) (v : TevSt) : (s.setTev n v).sch = s.sch := rfl
@[simp] theorem State.setTev_cf (s : State) (n : Nat) (v : TevSt) : (s.setTev n v).cf = s.cf := rfl
@[simp] theorem State.setTev_tw (s : State) (n : Nat) (v : TevSt) : (s.setTev n v).tw = s.tw := rfl
@[simp] theorem State.setTev_gs (s : State) (n : Nat) (v : TevSt) : (s.setTev n v).gs = s.gs := rfl
@[simp] theorem State.setTev_gate (s : State) (n : Nat) (v : TevSt) : (s.setTev n v).gate = s.gate := rfl
@[simp] theorem State.setTev_sf (s : State) (n : Nat) (v : TevSt) : (s.setTev n v).sf = s.sf := rfl
@[simp] theorem State.setTev_fc (s : State) (n : Nat) (v : TevSt) : (s.setTev n v).fc = s.fc := rfl
@[simp] theorem State.setTev_fb (s : State) (n : Nat) (v : TevSt) : (s.setTev n v).fb = s.fb := rfl
@[simp] theorem State.setTev_dr (s : State) (n : Nat) (v : TevSt) : (s.setTev n v).dr = s.dr := rfl
@[simp] theorem State.setTev_ad (s : State) (n : Nat) (v : TevSt) : (s.setTev n v).ad = s.ad := rfl
@[simp] theorem State.setTev_aux (s : State) (n : Nat) (v : TevSt) : (s.setTev n v).aux = s.aux := rfl
@[simp] theorem State.setTev_mg (s : State) (n : Nat) (v : TevSt) : (s.setTev n v).mg = s.mg := rfl
@[simp] theorem State.setTev_cl (s : State) (n : Nat) (v : TevSt) : (s.setTev n v).cl = s.cl := rfl
@[simp] theorem State.setTev_get' (s : State) (n : Nat) (v : TevSt) (g : Fld) : (s.setTev n v).get g = s.get g := rfl
@[simp] theorem State.setTev_on' (s : State) (n : Nat) (v : TevSt) (g : Fld) : (s.setTev n v).on g = s.on g := rfl
@[simp] theorem State.setTev_cfg' (s : State) (n : Nat) (v : TevSt) (g : Fld) : (s.setTev n v).cfg g = s.cfg g := rfl
@[simp] theorem State.setTev_cfgOn' (s : State) (n : Nat) (v : TevSt) (g : Fld) : (s.setTev n v).cfgOn g = s.cfgOn g := rfl
@[simp] theorem State.setTev_shadow' (s : State) (n : Nat) (v : TevSt) (g : Fld) : (s.setTev n v).shadow g = s.shadow g := rfl
@[simp] theorem State.setTev_link' (s : State) (n : Nat) (v : TevSt) (j : Nat) : (s.setTev n v).link j = s.link j := rfl
@[simp] theorem State.setTev_port' (s : State) (n : Nat) (v : TevSt) (j : Nat) : (s.setTev n v).port j = s.port j := rfl
@[simp] theorem State.setTev_armSt' (s : State) (n : Nat) (v : TevSt) (j : Nat) : (s.setTev n v).armSt j = s.armSt j := rfl
@[simp] theorem State.setTev_chan' (s : State) (n : Nat) (v : TevSt) (j : Nat) : (s.setTev n v).chan j = s.chan j := rfl
@[simp] theorem State.setTev_isStake' (s : State) (n : Nat) (v : TevSt)  : (s.setTev n v).isStake = s.isStake := rfl
@[simp] theorem State.setTev_isDatum' (s : State) (n : Nat) (v : TevSt)  : (s.setTev n v).isDatum = s.isDatum := rfl
@[simp] theorem State.setTev_running' (s : State) (n : Nat) (v : TevSt)  : (s.setTev n v).running = s.running := rfl

/-! ### Reading what has just been written -/

@[simp] theorem State.get_put_self (s : State) (f : Fld) (v : Nat) : (s.put f v).get f = v % 2 ^ f.width := by
  simp [State.get, kget_kset_self]

theorem State.get_put_key (s : State) (f g : Fld) (v : Nat) (h : g.key = f.key) : (s.put f v).get g = v % 2 ^ f.width := by
  simp [State.get, h, kget_kset_self]

theorem State.get_put_ne (s : State) (f g : Fld) (v : Nat) (h : g.key ≠ f.key) : (s.put f v).get g = s.get g := by
  simp [State.get, kget_kset_ne _ _ _ _ h]

theorem State.on_put_ne (s : State) (f g : Fld) (v : Nat) (h : g.key ≠ f.key) : (s.put f v).on g = s.on g := by
  simp [State.on, State.get_put_ne _ _ _ _ h]

@[simp] theorem State.on_put_self (s : State) (f : Fld) (v : Nat) : (s.put f v).on f = decide (v % 2 ^ f.width = 1) := by
  simp [State.on]

@[simp] theorem State.shadow_putShadow_self (s : State) (f : Fld) (v : Nat) :
    (s.putShadow f v).shadow f = v % 2 ^ f.width := by
  simp [State.shadow, kget_kset_self]

theorem State.shadow_putShadow_ne (s : State) (f g : Fld) (v : Nat) (h : g.key ≠ f.key) :
    (s.putShadow f v).shadow g = s.shadow g := by
  simp [State.shadow, kget_kset_ne _ _ _ _ h]

@[simp] theorem State.cfg_putCfg_self (s : State) (f : Fld) (v : Nat) : (s.putCfg f v).cfg f = v % 2 ^ f.width := by
  simp [State.cfg, kget_kset_self]

theorem State.cfg_putCfg_ne (s : State) (f g : Fld) (v : Nat) (h : g.key ≠ f.key) : (s.putCfg f v).cfg g = s.cfg g := by
  simp [State.cfg, kget_kset_ne _ _ _ _ h]

@[simp] theorem State.link_setLink_self (s : State) (j : Nat) (v : LinkSt) : (s.setLink j v).link j = v := by
  simp [State.link, kget_kset_self]

theorem State.link_setLink_ne (s : State) (j k : Nat) (v : LinkSt) (h : k ≠ j) : (s.setLink j v).link k = s.link k := by
  simp [State.link, kget_kset_ne _ _ _ _ h]

@[simp] theorem State.port_setPort_self (s : State) (j : Nat) (v : PortSt) : (s.setPort j v).port j = v := by
  simp [State.port, kget_kset_self]

theorem State.port_setPort_ne (s : State) (j k : Nat) (v : PortSt) (h : k ≠ j) : (s.setPort j v).port k = s.port k := by
  simp [State.port, kget_kset_ne _ _ _ _ h]

@[simp] theorem State.armSt_setArm_self (s : State) (j : Nat) (v : ArmSt) : (s.setArm j v).armSt j = v := by
  simp [State.armSt, kget_kset_self]

theorem State.armSt_setArm_ne (s : State) (j k : Nat) (v : ArmSt) (h : k ≠ j) : (s.setArm j v).armSt k = s.armSt k := by
  simp [State.armSt, kget_kset_ne _ _ _ _ h]

@[simp] theorem State.chan_setChan_self (s : State) (j : Nat) (v : GateCh) : (s.setChan j v).chan j = v := by
  simp [State.chan, kget_kset_self]

theorem State.chan_setChan_ne (s : State) (j k : Nat) (v : GateCh) (h : k ≠ j) : (s.setChan j v).chan k = s.chan k := by
  simp [State.chan, kget_kset_ne _ _ _ _ h]

@[simp] theorem State.tevSt_setTev_self (s : State) (j : Nat) (v : TevSt) : (s.setTev j v).tevSt j = v := by
  simp [State.tevSt, kget_kset_self]

theorem State.tevSt_setTev_ne (s : State) (j k : Nat) (v : TevSt) (h : k ≠ j) : (s.setTev j v).tevSt k = s.tevSt k := by
  simp [State.tevSt, kget_kset_ne _ _ _ _ h]

/-! ### Outputs -/

theorem State.emit_emit (s : State) (a b : Out) : (s.emit a).emit b = s.emits [a, b] := by
  simp [State.emit, State.emits]

theorem State.emits_emit (s : State) (l : List Out) (b : Out) : (s.emits l).emit b = s.emits (l ++ [b]) := by
  simp [State.emit, State.emits]

/-! ### The clock -/

@[simp] theorem State.advance_now (s : State) (t : Nat) : (s.advance t).now = max s.now t := by
  unfold State.advance
  split <;> (try dsimp only) <;> omega

theorem State.advance_le (s : State) (t : Nat) (h : t ≤ s.now) : s.advance t = s := by
  unfold State.advance
  simp [Nat.not_lt.mpr h]

@[simp] theorem State.advance_pending (s : State) (t : Nat) : (s.advance t).pending = s.pending := by unfold State.advance; split <;> rfl
@[simp] theorem State.advance_phase (s : State) (t : Nat) : (s.advance t).phase = s.phase := by unfold State.advance; split <;> rfl
@[simp] theorem State.advance_role (s : State) (t : Nat) : (s.advance t).role = s.role := by unfold State.advance; split <;> rfl
@[simp] theorem State.advance_clpos (s : State) (t : Nat) : (s.advance t).clpos = s.clpos := by unfold State.advance; split <;> rfl
@[simp] theorem State.advance_board (s : State) (t : Nat) : (s.advance t).board = s.board := by unfold State.advance; split <;> rfl
@[simp] theorem State.advance_twpref (s : State) (t : Nat) : (s.advance t).twpref = s.twpref := by unfold State.advance; split <;> rfl
@[simp] theorem State.advance_monument (s : State) (t : Nat) : (s.advance t).monument = s.monument := by unfold State.advance; split <;> rfl
@[simp] theorem State.advance_live (s : State) (t : Nat) : (s.advance t).live = s.live := by unfold State.advance; split <;> rfl
@[simp] theorem State.advance_shd (s : State) (t : Nat) : (s.advance t).shd = s.shd := by unfold State.advance; split <;> rfl
@[simp] theorem State.advance_act (s : State) (t : Nat) : (s.advance t).act = s.act := by unfold State.advance; split <;> rfl
@[simp] theorem State.advance_mem (s : State) (t : Nat) : (s.advance t).mem = s.mem := by unfold State.advance; split <;> rfl
@[simp] theorem State.advance_mbad (s : State) (t : Nat) : (s.advance t).mbad = s.mbad := by unfold State.advance; split <;> rfl
@[simp] theorem State.advance_out (s : State) (t : Nat) : (s.advance t).out = s.out := by unfold State.advance; split <;> rfl
@[simp] theorem State.advance_fresh (s : State) (t : Nat) : (s.advance t).fresh = s.fresh := by unfold State.advance; split <;> rfl
@[simp] theorem State.advance_tb (s : State) (t : Nat) : (s.advance t).tb = s.tb := by unfold State.advance; split <;> rfl
@[simp] theorem State.advance_tev (s : State) (t : Nat) : (s.advance t).tev = s.tev := by unfold State.advance; split <;> rfl
@[simp] theorem State.advance_ptp (s : State) (t : Nat) : (s.advance t).ptp = s.ptp := by unfold State.advance; split <;> rfl
@[simp] theorem State.advance_links (s : State) (t : Nat) : (s.advance t).links = s.links := by unfold State.advance; split <;> rfl
@[simp] theorem State.advance_ports (s : State) (t : Nat) : (s.advance t).ports = s.ports := by unfold State.advance; split <;> rfl
@[simp] theorem State.advance_frm (s : State) (t : Nat) : (s.advance t).frm = s.frm := by unfold State.advance; split <;> rfl
@[simp] theorem State.advance_arms (s : State) (t : Nat) : (s.advance t).arms = s.arms := by unfold State.advance; split <;> rfl
@[simp] theorem State.advance_sch (s : State) (t : Nat) : (s.advance t).sch = s.sch := by unfold State.advance; split <;> rfl
@[simp] theorem State.advance_cf (s : State) (t : Nat) : (s.advance t).cf = s.cf := by unfold State.advance; split <;> rfl
@[simp] theorem State.advance_tw (s : State) (t : Nat) : (s.advance t).tw = s.tw := by unfold State.advance; split <;> rfl
@[simp] theorem State.advance_gs (s : State) (t : Nat) : (s.advance t).gs = s.gs := by unfold State.advance; split <;> rfl
@[simp] theorem State.advance_gate (s : State) (t : Nat) : (s.advance t).gate = s.gate := by unfold State.advance; split <;> rfl
@[simp] theorem State.advance_sf (s : State) (t : Nat) : (s.advance t).sf = s.sf := by unfold State.advance; split <;> rfl
@[simp] theorem State.advance_fc (s : State) (t : Nat) : (s.advance t).fc = s.fc := by unfold State.advance; split <;> rfl
@[simp] theorem State.advance_dr (s : State) (t : Nat) : (s.advance t).dr = s.dr := by unfold State.advance; split <;> rfl
@[simp] theorem State.advance_ad (s : State) (t : Nat) : (s.advance t).ad = s.ad := by unfold State.advance; split <;> rfl
@[simp] theorem State.advance_aux (s : State) (t : Nat) : (s.advance t).aux = s.aux := by unfold State.advance; split <;> rfl
@[simp] theorem State.advance_mg (s : State) (t : Nat) : (s.advance t).mg = s.mg := by unfold State.advance; split <;> rfl
@[simp] theorem State.advance_cl (s : State) (t : Nat) : (s.advance t).cl = s.cl := by unfold State.advance; split <;> rfl
@[simp] theorem State.advance_get' (s : State) (t : Nat) (g : Fld) : (s.advance t).get g = s.get g := by unfold State.advance; split <;> rfl
@[simp] theorem State.advance_on' (s : State) (t : Nat) (g : Fld) : (s.advance t).on g = s.on g := by unfold State.advance; split <;> rfl
@[simp] theorem State.advance_cfg' (s : State) (t : Nat) (g : Fld) : (s.advance t).cfg g = s.cfg g := by unfold State.advance; split <;> rfl
@[simp] theorem State.advance_cfgOn' (s : State) (t : Nat) (g : Fld) : (s.advance t).cfgOn g = s.cfgOn g := by unfold State.advance; split <;> rfl
@[simp] theorem State.advance_shadow' (s : State) (t : Nat) (g : Fld) : (s.advance t).shadow g = s.shadow g := by unfold State.advance; split <;> rfl
@[simp] theorem State.advance_link' (s : State) (t : Nat) (j : Nat) : (s.advance t).link j = s.link j := by unfold State.advance; split <;> rfl
@[simp] theorem State.advance_port' (s : State) (t : Nat) (j : Nat) : (s.advance t).port j = s.port j := by unfold State.advance; split <;> rfl
@[simp] theorem State.advance_armSt' (s : State) (t : Nat) (j : Nat) : (s.advance t).armSt j = s.armSt j := by unfold State.advance; split <;> rfl
@[simp] theorem State.advance_chan' (s : State) (t : Nat) (j : Nat) : (s.advance t).chan j = s.chan j := by unfold State.advance; split <;> rfl
@[simp] theorem State.advance_tevSt' (s : State) (t : Nat) (j : Nat) : (s.advance t).tevSt j = s.tevSt j := by unfold State.advance; split <;> rfl
@[simp] theorem State.advance_isStake' (s : State) (t : Nat)  : (s.advance t).isStake = s.isStake := by unfold State.advance; split <;> rfl
@[simp] theorem State.advance_isDatum' (s : State) (t : Nat)  : (s.advance t).isDatum = s.isDatum := by unfold State.advance; split <;> rfl
@[simp] theorem State.advance_running' (s : State) (t : Nat)  : (s.advance t).running = s.running := by unfold State.advance; split <;> rfl

/-! ### Memory -/

theorem memGet_memErase_self : ∀ (m : List Host.Cell) (k : Nat), memGet (memErase m k) k = memDefault
  | [], _ => rfl
  | (a, b) :: t, k => by
    unfold memErase
    split
    · exact memGet_memErase_self t k
    · rename_i h
      simp [memGet, h, memGet_memErase_self t k]

theorem memGet_memErase_ne : ∀ (m : List Host.Cell) (k j : Nat), j ≠ k → memGet (memErase m k) j = memGet m j
  | [], _, _, _ => rfl
  | (a, b) :: t, k, j, h => by
    unfold memErase
    split
    · rename_i hk
      subst hk
      rw [memGet_memErase_ne t a j h]
      simp [memGet, Ne.symm h]
    · simp only [memGet]
      rw [memGet_memErase_ne t k j h]

theorem memGet_memInsert_self : ∀ (m : List Host.Cell) (k : Nat) (v : BitVec 8), memGet (memInsert m k v) k = v
  | [], k, v => by simp [memInsert, memGet]
  | (a, b) :: t, k, v => by
    unfold memInsert
    split
    · simp [memGet]
    · split
      · simp [memGet]
      · rename_i h1 h2
        have : a ≠ k := fun h => h2 h.symm
        simp [memGet, this, memGet_memInsert_self t k v]

theorem memGet_memInsert_ne : ∀ (m : List Host.Cell) (k j : Nat) (v : BitVec 8), j ≠ k →
    memGet (memInsert m k v) j = memGet m j
  | [], k, j, v, h => by simp [memInsert, memGet, Ne.symm h]
  | (a, b) :: t, k, j, v, h => by
    unfold memInsert
    split
    · simp [memGet, Ne.symm h]
    · split
      · rename_i h2
        subst h2
        simp [memGet, Ne.symm h]
      · simp only [memGet]
        rw [memGet_memInsert_ne t k j v h]

/-- Reading the byte just written. -/
theorem memGet_memSet_self (m : List Host.Cell) (k : Nat) (v : BitVec 8) : memGet (memSet m k v) k = v := by
  unfold memSet
  split
  · rename_i h
    rw [memGet_memErase_self, h]
  · exact memGet_memInsert_self m k v

/-- A write leaves every other byte. -/
theorem memGet_memSet_ne (m : List Host.Cell) (k j : Nat) (v : BitVec 8) (h : j ≠ k) :
    memGet (memSet m k v) j = memGet m j := by
  unfold memSet
  split
  · exact memGet_memErase_ne m k j h
  · exact memGet_memInsert_ne m k j v h

theorem memGet_memSetBytes_out : ∀ (bs : List Nat) (m : List Host.Cell) (a j : Nat), j < a ∨ a + bs.length ≤ j →
    memGet (memSetBytes m a bs) j = memGet m j
  | [], _, _, _, _ => rfl
  | b :: t, m, a, j, h => by
    simp only [List.length_cons] at h
    unfold memSetBytes
    rw [memGet_memSetBytes_out t _ (a + 1) j (by omega)]
    exact memGet_memSet_ne m a j _ (by omega)

end Sys2Proof.Machine
end

