-- ==== Sys2Proof/Laws/Exec.lean ====
section
/-! SUPPORT. `exec` command by command, and the shapes of a meaning that a device in the right role and phase takes. -/

namespace Sys2Proof.Machine

theorem State.inStake_eq {s : State} (h : s.isStake = true) (f : State → State) : s.inStake f = .next (f s) := by
  simp [State.inStake, h]

theorem State.inDatum_eq {s : State} (h : s.isDatum = true) (f : State → State) : s.inDatum f = .next (f s) := by
  simp [State.inDatum, h]

theorem State.inRun_eq {s : State} (h : s.running = true) (f : State → State) : s.inRun f = .next (f s) := by
  simp [State.inRun, h]

theorem State.byWrite_eq {s : State} (h : s.takesWrites = true) (w : Write) :
    s.byWrite true w = .next ((w s).2.emit (.done (w s).1)) := by
  simp [State.byWrite, State.written, h]

/-! ### A write of a shadow field: what it leaves -/

@[simp] theorem State.setShadow_now (s : State) (f : Fld) (v : Nat) : (s.setShadow f v).now = s.now := rfl
@[simp] theorem State.setShadow_out (s : State) (f : Fld) (v : Nat) : (s.setShadow f v).out = s.out := rfl
@[simp] theorem State.setShadow_mem (s : State) (f : Fld) (v : Nat) : (s.setShadow f v).mem = s.mem := rfl
@[simp] theorem State.setShadow_tb (s : State) (f : Fld) (v : Nat) : (s.setShadow f v).tb = s.tb := rfl
@[simp] theorem State.setShadow_ad (s : State) (f : Fld) (v : Nat) : (s.setShadow f v).ad = s.ad := rfl
@[simp] theorem State.setShadow_live (s : State) (f : Fld) (v : Nat) : (s.setShadow f v).live = s.live := rfl
@[simp] theorem State.setShadow_act (s : State) (f : Fld) (v : Nat) : (s.setShadow f v).act = s.act := rfl
@[simp] theorem State.setShadow_links (s : State) (f : Fld) (v : Nat) : (s.setShadow f v).links = s.links := rfl
@[simp] theorem State.setShadow_gs (s : State) (f : Fld) (v : Nat) : (s.setShadow f v).gs = s.gs := rfl
@[simp] theorem State.setShadow_sf (s : State) (f : Fld) (v : Nat) : (s.setShadow f v).sf = s.sf := rfl
@[simp] theorem State.setShadow_get' (s : State) (f : Fld) (v : Nat) (g : Fld) : (s.setShadow f v).get g = s.get g := rfl
@[simp] theorem State.setShadow_on' (s : State) (f : Fld) (v : Nat) (g : Fld) : (s.setShadow f v).on g = s.on g := rfl
@[simp] theorem State.setShadow_cfg' (s : State) (f : Fld) (v : Nat) (g : Fld) : (s.setShadow f v).cfg g = s.cfg g := rfl
@[simp] theorem State.setShadow_cfgOn' (s : State) (f : Fld) (v : Nat) (g : Fld) : (s.setShadow f v).cfgOn g = s.cfgOn g := rfl
@[simp] theorem State.setShadow_conv' (s : State) (f : Fld) (v j : Nat) : (s.setShadow f v).conv j = s.conv j := rfl

theorem State.isStake_running {s : State} (h : s.isStake = true) : s.running = true := by
  simp [State.isStake, State.running] at *
  exact h.1

theorem State.isDatum_running {s : State} (h : s.isDatum = true) : s.running = true := by
  simp [State.isDatum, State.running] at *
  exact h.1

theorem State.isDatum_role {s : State} (h : s.isDatum = true) : s.role = .datum := by
  simp [State.isDatum] at h
  exact h.2

theorem State.isStake_role {s : State} (h : s.isStake = true) : s.role = .stake := by
  simp [State.isStake] at h
  exact h.2

theorem State.get_of_on {s : State} {f : Fld} (h : s.on f = true) : s.get f = 1 := by
  simpa [State.on] using h

theorem State.get_of_off {s : State} {f : Fld} (h : s.on f = false) : ¬ s.get f = 1 := by
  simpa [State.on] using h

theorem step_cons (c : Instr) (s : State) : step { s with pending := c :: s.pending } = exec c s := rfl


@[simp] theorem exec_pornAssert (s : State) : exec .pornAssert s = execPornAssert s := rfl
@[simp] theorem exec_resetRelease (straps) (monument) (inputs) (s : State) : exec (.resetRelease straps monument inputs) s = execResetRelease straps monument inputs s := rfl
@[simp] theorem exec_supplyReset (s : State) : exec .supplyReset s = execSupplyReset s := rfl
@[simp] theorem exec_clockFault (clk) (s : State) : exec (.clockFault clk) s = execClockFault clk s := rfl
@[simp] theorem exec_railFault (j) (s : State) : exec (.railFault j) s = execRailFault j s := rfl
@[simp] theorem exec_tjMeasure (tj) (s : State) : exec (.tjMeasure tj) s = execTjMeasure tj s := rfl
@[simp] theorem exec_gtimeMove (s : State) : exec .gtimeMove s = execGtimeMove s := rfl
@[simp] theorem exec_tickStart (missX) (missY) (s : State) : exec (.tickStart missX missY) s = execTickStart missX missY s := rfl
@[simp] theorem exec_sampleInstant (s : State) : exec .sampleInstant s = execSampleInstant s := rfl
@[simp] theorem exec_frameBuildCutoff (s : State) : exec .frameBuildCutoff s = execFrameBuildCutoff s := rfl
@[simp] theorem exec_datumFrameReceive (p) (f) (at') (idles) (s : State) : exec (.datumFrameReceive p f at' idles) s = execDatumFrameReceive p f at' idles s := rfl
@[simp] theorem exec_stakeFrameDecode (q) (f) (at') (idles) (s : State) : exec (.stakeFrameDecode q f at' idles) s = execStakeFrameDecode q f at' idles s := rfl
@[simp] theorem exec_daSetReceive (p) (d) (s : State) : exec (.daSetReceive p d) s = execDaSetReceive p d s := rfl
@[simp] theorem exec_stakeTickStart (s : State) : exec .stakeTickStart s = execStakeTickStart s := rfl
@[simp] theorem exec_permitLoss (s : State) : exec .permitLoss s = execPermitLoss s := rfl
@[simp] theorem exec_leaseExpiry (s : State) : exec .leaseExpiry s = execLeaseExpiry s := rfl
@[simp] theorem exec_tickLockLoss (s : State) : exec .tickLockLoss s = execTickLockLoss s := rfl
@[simp] theorem exec_holdoverExpiry (s : State) : exec .holdoverExpiry s = execHoldoverExpiry s := rfl
@[simp] theorem exec_periodFrameTimeout (s : State) : exec .periodFrameTimeout s = execPeriodFrameTimeout s := rfl
@[simp] theorem exec_tickmarkReceive (q) (frame) (at') (s : State) : exec (.tickmarkReceive q frame at') s = execTickmarkReceive q frame at' s := rfl
@[simp] theorem exec_applyInstant (s : State) : exec .applyInstant s = execApplyInstant s := rfl
@[simp] theorem exec_trimEnd (s : State) : exec .trimEnd s = execTrimEnd s := rfl
@[simp] theorem exec_blockPairReceive (q) (frame) (at') (s : State) : exec (.blockPairReceive q frame at') s = execBlockPairReceive q frame at' s := rfl
@[simp] theorem exec_blockPairDatum (p) (frame) (s : State) : exec (.blockPairDatum p frame) s = execBlockPairDatum p frame s := rfl
@[simp] theorem exec_isolatedUrgent (p) (s : State) : exec (.isolatedUrgent p) s = execIsolatedUrgent p s := rfl
@[simp] theorem exec_codeViolation (l) (sym) (inFrame) (s : State) : exec (.codeViolation l sym inFrame) s = execCodeViolation l sym inFrame s := rfl
@[simp] theorem exec_commaRealign (l) (inFrame) (s : State) : exec (.commaRealign l inFrame) s = execCommaRealign l inFrame s := rfl
@[simp] theorem exec_rxcDetect (l) (s : State) : exec (.rxcDetect l) s = execRxcDetect l s := rfl
@[simp] theorem exec_bitLock (l) (phase) (s : State) : exec (.bitLock l phase) s = execBitLock l phase s := rfl
@[simp] theorem exec_symbolLock (l) (align) (s : State) : exec (.symbolLock l align) s = execSymbolLock l align s := rfl
@[simp] theorem exec_capSetReceive (l) (c) (s : State) : exec (.capSetReceive l c) s = execCapSetReceive l c s := rfl
@[simp] theorem exec_farEndEchoEnd (p) (s : State) : exec (.farEndEchoEnd p) s = execFarEndEchoEnd p s := rfl
@[simp] theorem exec_capSetPeriodic (l) (s : State) : exec (.capSetPeriodic l) s = execCapSetPeriodic l s := rfl
@[simp] theorem exec_dmSetReceive (l) (d) (sent) (got) (s : State) : exec (.dmSetReceive l d sent got) s = execDmSetReceive l d sent got s := rfl
@[simp] theorem exec_bringupTimeout (l) (s : State) : exec (.bringupTimeout l) s = execBringupTimeout l s := rfl
@[simp] theorem exec_rxcLoss (l) (inFrame) (s : State) : exec (.rxcLoss l inFrame) s = execRxcLoss l inFrame s := rfl
@[simp] theorem exec_blindRelock (p) (s : State) : exec (.blindRelock p) s = execBlindRelock p s := rfl
@[simp] theorem exec_blindTimeout (p) (s : State) : exec (.blindTimeout p) s = execBlindTimeout p s := rfl
@[simp] theorem exec_waitExpiry (l) (s : State) : exec (.waitExpiry l) s = execWaitExpiry l s := rfl
@[simp] theorem exec_bringupRetryLimit (p) (s : State) : exec (.bringupRetryLimit p) s = execBringupRetryLimit p s := rfl
@[simp] theorem exec_portRestart (p) (s : State) : exec (.portRestart p) s = execPortRestart p s := rfl
@[simp] theorem exec_injectSingle (p) (s : State) : exec (.injectSingle p) s = execInjectSingle p s := rfl
@[simp] theorem exec_injectBurst (p) (len) (s : State) : exec (.injectBurst p len) s = execInjectBurst p len s := rfl
@[simp] theorem exec_prbsClear (p) (s : State) : exec (.prbsClear p) s = execPrbsClear p s := rfl
@[simp] theorem exec_prbsCheckerLock (p) (bits) (errs) (s : State) : exec (.prbsCheckerLock p bits errs) s = execPrbsCheckerLock p bits errs s := rfl
@[simp] theorem exec_prbsLockLoss (p) (bits) (errs) (s : State) : exec (.prbsLockLoss p bits errs) s = execPrbsLockLoss p bits errs s := rfl
@[simp] theorem exec_turnChange (s : State) : exec .turnChange s = execTurnChange s := rfl
@[simp] theorem exec_closurePersistFault (p) (s : State) : exec (.closurePersistFault p) s = execClosurePersistFault p s := rfl
@[simp] theorem exec_relayReplyTimeout (id) (s : State) : exec (.relayReplyTimeout id) s = execRelayReplyTimeout id s := rfl
@[simp] theorem exec_orderPost (a) (n) (dir) (frac) (s : State) : exec (.orderPost a n dir frac) s = execOrderPost a n dir frac s := rfl
@[simp] theorem exec_levellingSelectDone (a) (s : State) : exec (.levellingSelectDone a) s = execLevellingSelectDone a s := rfl
@[simp] theorem exec_absentMark (s : State) : exec .absentMark s = execAbsentMark s := rfl
@[simp] theorem exec_deviationPersist (s : State) : exec .deviationPersist s = execDeviationPersist s := rfl
@[simp] theorem exec_unrankedLimit (s : State) : exec .unrankedLimit s = execUnrankedLimit s := rfl
@[simp] theorem exec_restBandEntry (s : State) : exec .restBandEntry s = execRestBandEntry s := rfl
@[simp] theorem exec_gcmdRefresh (n) (s : State) : exec (.gcmdRefresh n) s = execGcmdRefresh n s := rfl
@[simp] theorem exec_setsSend (n) (reg) (s : State) : exec (.setsSend n reg) s = execSetsSend n reg s := rfl
@[simp] theorem exec_gfbStatusWord (n) (chips) (s : State) : exec (.gfbStatusWord n chips) s = execGfbStatusWord n chips s := rfl
@[simp] theorem exec_wordLockChange (n) (s : State) : exec (.wordLockChange n) s = execWordLockChange n s := rfl
@[simp] theorem exec_edgeHold (n) (ns) (len) (s : State) : exec (.edgeHold n ns len) s = execEdgeHold n ns len s := rfl
@[simp] theorem exec_strengthLimitFault (n) (s : State) : exec (.strengthLimitFault n) s = execStrengthLimitFault n s := rfl
@[simp] theorem exec_markerWindowExpiry (n) (s : State) : exec (.markerWindowExpiry n) s = execMarkerWindowExpiry n s := rfl
@[simp] theorem exec_desatTrip (n) (s : State) : exec (.desatTrip n) s = execDesatTrip n s := rfl
@[simp] theorem exec_desatGlitch (n) (len) (s : State) : exec (.desatGlitch n len) s = execDesatGlitch n len s := rfl
@[simp] theorem exec_lossHold (n) (len) (s : State) : exec (.lossHold n len) s = execLossHold n len s := rfl
@[simp] theorem exec_feedbackFault (n) (s : State) : exec (.feedbackFault n) s = execFeedbackFault n s := rfl
@[simp] theorem exec_tripWaitExpiry (n) (s : State) : exec (.tripWaitExpiry n) s = execTripWaitExpiry n s := rfl
@[simp] theorem exec_cleanExpiry (n) (s : State) : exec (.cleanExpiry n) s = execCleanExpiry n s := rfl
@[simp] theorem exec_notreadyTimeout (n) (s : State) : exec (.notreadyTimeout n) s = execNotreadyTimeout n s := rfl
@[simp] theorem exec_unlatch (n) (s : State) : exec (.unlatch n) s = execUnlatch n s := rfl
@[simp] theorem exec_cellVoltageResult (raw) (rawB) (s : State) : exec (.cellVoltageResult raw rawB) s = execCellVoltageResult raw rawB s := rfl
@[simp] theorem exec_ov2Block (s : State) : exec .ov2Block s = execOv2Block s := rfl
@[simp] theorem exec_ov2Clr (s : State) : exec .ov2Clr s = execOv2Clr s := rfl
@[simp] theorem exec_ov3Trigger (s : State) : exec .ov3Trigger s = execOv3Trigger s := rfl
@[simp] theorem exec_bypassFireDrive (s : State) : exec .bypassFireDrive s = execBypassFireDrive s := rfl
@[simp] theorem exec_bypassReadbackFail (path) (s : State) : exec (.bypassReadbackFail path) s = execBypassReadbackFail path s := rfl
@[simp] theorem exec_bypassFireRelease (s : State) : exec .bypassFireRelease s = execBypassFireRelease s := rfl
@[simp] theorem exec_bypassCmdArm (at') (s : State) : exec (.bypassCmdArm at') s = execBypassCmdArm at' s := rfl
@[simp] theorem exec_bypassCmdFire (at') (s : State) : exec (.bypassCmdFire at') s = execBypassCmdFire at' s := rfl
@[simp] theorem exec_bypassMarkClear (s : State) : exec .bypassMarkClear s = execBypassMarkClear s := rfl
@[simp] theorem exec_bypassArmTimeout (s : State) : exec .bypassArmTimeout s = execBypassArmTimeout s := rfl
@[simp] theorem exec_selfTestStart (sel) (ch) (s : State) : exec (.selfTestStart sel ch) s = execSelfTestStart sel ch s := rfl
@[simp] theorem exec_selfTestEnd (pass) (s : State) : exec (.selfTestEnd pass) s = execSelfTestEnd pass s := rfl
@[simp] theorem exec_manualModeWrite (n) (man) (manOn) (s : State) : exec (.manualModeWrite n man manOn) s = execManualModeWrite n man manOn s := rfl
@[simp] theorem exec_manualPulse (n) (width) (s : State) : exec (.manualPulse n width) s = execManualPulse n width s := rfl
@[simp] theorem exec_adcGridTrigger (n) (at') (s : State) : exec (.adcGridTrigger n at') s = execAdcGridTrigger n at' s := rfl
@[simp] theorem exec_adcSwStart (n) (s : State) : exec (.adcSwStart n) s = execAdcSwStart n s := rfl
@[simp] theorem exec_tevFire (n) (s : State) : exec (.tevFire n) s = execTevFire n s := rfl
@[simp] theorem exec_adcPassEnd (n) (raw) (rawB) (s : State) : exec (.adcPassEnd n raw rawB) s = execAdcPassEnd n raw rawB s := rfl
@[simp] theorem exec_pairMismatch (m) (s : State) : exec (.pairMismatch m) s = execPairMismatch m s := rfl
@[simp] theorem exec_adcInject (n) (inp) (diff) (preempt) (s : State) : exec (.adcInject n inp diff preempt) s = execAdcInject n inp diff preempt s := rfl
@[simp] theorem exec_adcInjectResult (n) (raw) (s : State) : exec (.adcInjectResult n raw) s = execAdcInjectResult n raw s := rfl
@[simp] theorem exec_adcCalStart (mask) (s : State) : exec (.adcCalStart mask) s = execAdcCalStart mask s := rfl
@[simp] theorem exec_adcCalDone (n) (gain) (ofs) (s : State) : exec (.adcCalDone n gain ofs) s = execAdcCalDone n gain ofs s := rfl
@[simp] theorem exec_rotCalStart (mask) (s : State) : exec (.rotCalStart mask) s = execRotCalStart mask s := rfl
@[simp] theorem exec_rotCalAbort (m) (s : State) : exec (.rotCalAbort m) s = execRotCalAbort m s := rfl
@[simp] theorem exec_auxPulseStart (s : State) : exec .auxPulseStart s = execAuxPulseStart s := rfl
@[simp] theorem exec_auxPulseEnd (s : State) : exec .auxPulseEnd s = execAuxPulseEnd s := rfl
@[simp] theorem exec_auxfltCut (at') (s : State) : exec (.auxfltCut at') s = execAuxfltCut at' s := rfl
@[simp] theorem exec_auxCutLimit (s : State) : exec .auxCutLimit s = execAuxCutLimit s := rfl
@[simp] theorem exec_auxdemChange (high) (s : State) : exec (.auxdemChange high) s = execAuxdemChange high s := rfl
@[simp] theorem exec_fltinChange (n) (high) (s : State) : exec (.fltinChange n high) s = execFltinChange n high s := rfl
@[simp] theorem exec_auxsyncEdge (at') (s : State) : exec (.auxsyncEdge at') s = execAuxsyncEdge at' s := rfl
@[simp] theorem exec_syncInstant (s : State) : exec .syncInstant s = execSyncInstant s := rfl
@[simp] theorem exec_syncLoss (s : State) : exec .syncLoss s = execSyncLoss s := rfl
@[simp] theorem exec_taskDispatch (s : State) : exec .taskDispatch s = execTaskDispatch s := rfl
@[simp] theorem exec_taskEnd (n) (s : State) : exec (.taskEnd n) s = execTaskEnd n s := rfl
@[simp] theorem exec_outputWindowWrite (n) (addr) (v) (s : State) : exec (.outputWindowWrite n addr v) s = execOutputWindowWrite n addr v s := rfl
@[simp] theorem exec_signalInstruction (n) (j) (flag) (s : State) : exec (.signalInstruction n j flag) s = execSignalInstruction n j flag s := rfl
@[simp] theorem exec_cancelInstruction (n) (j) (ready) (s : State) : exec (.cancelInstruction n j ready) s = execCancelInstruction n j ready s := rfl
@[simp] theorem exec_laneFault (n) (cause) (s : State) : exec (.laneFault n cause) s = execLaneFault n cause s := rfl
@[simp] theorem exec_nanResult (n) (s : State) : exec (.nanResult n) s = execNanResult n s := rfl
@[simp] theorem exec_dataEccError (kind) (ofs) (n) (s : State) : exec (.dataEccError kind ofs n) s = execDataEccError kind ofs n s := rfl
@[simp] theorem exec_programEccError (n) (corrected) (s : State) : exec (.programEccError n corrected) s = execProgramEccError n corrected s := rfl
@[simp] theorem exec_setFlag (j) (flag) (s : State) : exec (.setFlag j flag) s = execSetFlag j flag s := rfl
@[simp] theorem exec_slotCancel (j) (ready) (s : State) : exec (.slotCancel j ready) s = execSlotCancel j ready s := rfl
@[simp] theorem exec_heldInstanceEnqueue (s : State) : exec .heldInstanceEnqueue s = execHeldInstanceEnqueue s := rfl
@[simp] theorem exec_overrunLimit (s : State) : exec .overrunLimit s = execOverrunLimit s := rfl
@[simp] theorem exec_swapRequest (s : State) : exec .swapRequest s = execSwapRequest s := rfl
@[simp] theorem exec_swapWithdraw (s : State) : exec .swapWithdraw s = execSwapWithdraw s := rfl
@[simp] theorem exec_bankSwap (s : State) : exec .bankSwap s = execBankSwap s := rfl
@[simp] theorem exec_ogLoad (n) (v) (s : State) : exec (.ogLoad n v) s = execOgLoad n v s := rfl
@[simp] theorem exec_injArm (g) (s : State) : exec (.injArm g) s = execInjArm g s := rfl
@[simp] theorem exec_injStop (g) (s : State) : exec (.injStop g) s = execInjStop g s := rfl
@[simp] theorem exec_injRunStart (s : State) : exec .injRunStart s = execInjRunStart s := rfl
@[simp] theorem exec_injRunEnd (s : State) : exec .injRunEnd s = execInjRunEnd s := rfl
@[simp] theorem exec_rcPeriodChange (s : State) : exec .rcPeriodChange s = execRcPeriodChange s := rfl
@[simp] theorem exec_plausibilityFail (s : State) : exec .plausibilityFail s = execPlausibilityFail s := rfl
@[simp] theorem exec_trackerLockChange (s : State) : exec .trackerLockChange s = execTrackerLockChange s := rfl
@[simp] theorem exec_heartbeatReceive (m) (at') (ok) (s : State) : exec (.heartbeatReceive m at' ok) s = execHeartbeatReceive m at' ok s := rfl
@[simp] theorem exec_shareReceive (m) (ok) (s : State) : exec (.shareReceive m ok) s = execShareReceive m ok s := rfl
@[simp] theorem exec_shareTimeout (n) (s : State) : exec (.shareTimeout n) s = execShareTimeout n s := rfl
@[simp] theorem exec_digestReceive (m) (ok) (s : State) : exec (.digestReceive m ok) s = execDigestReceive m ok s := rfl
@[simp] theorem exec_summaryReceive (tick) (arms) (ok) (s : State) : exec (.summaryReceive tick arms ok) s = execSummaryReceive tick arms ok s := rfl
@[simp] theorem exec_controlReceive (m) (ok) (s : State) : exec (.controlReceive m ok) s = execControlReceive m ok s := rfl
@[simp] theorem exec_stateReceive (m) (ok) (s : State) : exec (.stateReceive m ok) s = execStateReceive m ok s := rfl
@[simp] theorem exec_sweepReceive (addr) (bytes) (ok) (s : State) : exec (.sweepReceive addr bytes ok) s = execSweepReceive addr bytes ok s := rfl
@[simp] theorem exec_sweepSend (s : State) : exec .sweepSend s = execSweepSend s := rfl
@[simp] theorem exec_heartbeatLoss (s : State) : exec .heartbeatLoss s = execHeartbeatLoss s := rfl
@[simp] theorem exec_matchWindowExpiry (s : State) : exec .matchWindowExpiry s = execMatchWindowExpiry s := rfl
@[simp] theorem exec_matchAcquire (s : State) : exec .matchAcquire s = execMatchAcquire s := rfl
@[simp] theorem exec_twinSilence (s : State) : exec .twinSilence s = execTwinSilence s := rfl
@[simp] theorem exec_claimTimeout (s : State) : exec .claimTimeout s = execClaimTimeout s := rfl
@[simp] theorem exec_handoverWrite (s : State) : exec .handoverWrite s = execHandoverWrite s := rfl
@[simp] theorem exec_revertHoldExpiry (s : State) : exec .revertHoldExpiry s = execRevertHoldExpiry s := rfl
@[simp] theorem exec_handoverRelease (s : State) : exec .handoverRelease s = execHandoverRelease s := rfl
@[simp] theorem exec_handoverClaim (s : State) : exec .handoverClaim s = execHandoverClaim s := rfl
@[simp] theorem exec_joinWrite (s : State) : exec .joinWrite s = execJoinWrite s := rfl
@[simp] theorem exec_joinComplete (s : State) : exec .joinComplete s = execJoinComplete s := rfl
@[simp] theorem exec_joinTimeout (s : State) : exec .joinTimeout s = execJoinTimeout s := rfl
@[simp] theorem exec_sblkChange (x) (y) (a) (b) (at') (s : State) : exec (.sblkChange x y a b at') s = execSblkChange x y a b at' s := rfl
@[simp] theorem exec_srstChange (x) (y) (a) (b) (at') (s : State) : exec (.srstChange x y a b at') s = execSrstChange x y a b at' s := rfl
@[simp] theorem exec_resetComplete (s : State) : exec .resetComplete s = execResetComplete s := rfl
@[simp] theorem exec_discrepancyTimeout (srst) (y) (s : State) : exec (.discrepancyTimeout srst y) s = execDiscrepancyTimeout srst y s := rfl
@[simp] theorem exec_proofOpen (y) (s : State) : exec (.proofOpen y) s = execProofOpen y s := rfl
@[simp] theorem exec_resetStuck (y) (s : State) : exec (.resetStuck y) s = execResetStuck y s := rfl
@[simp] theorem exec_xlinkHeartbeat (s : State) : exec .xlinkHeartbeat s = execXlinkHeartbeat s := rfl
@[simp] theorem exec_xlinkTimeout (s : State) : exec .xlinkTimeout s = execXlinkTimeout s := rfl
@[simp] theorem exec_channelDisagree (s : State) : exec .channelDisagree s = execChannelDisagree s := rfl
@[simp] theorem exec_safeLock (agree) (s : State) : exec (.safeLock agree) s = execSafeLock agree s := rfl
@[simp] theorem exec_safeConfigCrc (s : State) : exec .safeConfigCrc s = execSafeConfigCrc s := rfl
@[simp] theorem exec_gcmdGate (s : State) : exec .gcmdGate s = execGcmdGate s := rfl
@[simp] theorem exec_faultForce (r) (v) (s : State) : exec (.faultForce r v) s = execFaultForce r v s := rfl
@[simp] theorem exec_watchdogFeed (key) (s : State) : exec (.watchdogFeed key) s = execWatchdogFeed key s := rfl
@[simp] theorem exec_watchdogExpiry (s : State) : exec .watchdogExpiry s = execWatchdogExpiry s := rfl
@[simp] theorem exec_recordWrite (s : State) : exec .recordWrite s = execRecordWrite s := rfl
@[simp] theorem exec_freeze (freeze) (s : State) : exec (.freeze freeze) s = execFreeze freeze s := rfl
@[simp] theorem exec_freezeExpiry (s : State) : exec .freezeExpiry s = execFreezeExpiry s := rfl
@[simp] theorem exec_ringClear (s : State) : exec .ringClear s = execRingClear s := rfl
@[simp] theorem exec_tailClear (s : State) : exec .tailClear s = execTailClear s := rfl
@[simp] theorem exec_drRow (dropped) (late) (s : State) : exec (.drRow dropped late) s = execDrRow dropped late s := rfl
@[simp] theorem exec_drArm (s : State) : exec .drArm s = execDrArm s := rfl
@[simp] theorem exec_drStop (s : State) : exec .drStop s = execDrStop s := rfl
@[simp] theorem exec_drSwtrig (s : State) : exec .drSwtrig s = execDrSwtrig s := rfl
@[simp] theorem exec_drRelease (rnum) (s : State) : exec (.drRelease rnum) s = execDrRelease rnum s := rfl
@[simp] theorem exec_streamChunk (ecc) (s : State) : exec (.streamChunk ecc) s = execStreamChunk ecc s := rfl
@[simp] theorem exec_udpRequest (port) (src) (k) (s : State) : exec (.udpRequest port src k) s = execUdpRequest port src k s := rfl
@[simp] theorem exec_sqTailDoorbell (q) (tail) (entries) (s : State) : exec (.sqTailDoorbell q tail entries) s = execSqTailDoorbell q tail entries s := rfl
@[simp] theorem exec_cqHeadDoorbell (q) (head) (s : State) : exec (.cqHeadDoorbell q head) s = execCqHeadDoorbell q head s := rfl
@[simp] theorem exec_streamReadIndex (j) (s : State) : exec (.streamReadIndex j) s = execStreamReadIndex j s := rfl
@[simp] theorem exec_barQueueConfig (ofs) (v) (s : State) : exec (.barQueueConfig ofs v) s = execBarQueueConfig ofs v s := rfl
@[simp] theorem exec_nop (r) (s : State) : exec (.nop r) s = execNop r s := rfl
@[simp] theorem exec_read (r) (addr) (count) (s : State) : exec (.read r addr count) s = execRead r addr count s := rfl
@[simp] theorem exec_write (r) (txid) (addr) (words) (s : State) : exec (.write r txid addr words) s = execWrite r txid addr words s := rfl
@[simp] theorem exec_modify (r) (txid) (addr) (mask) (value) (s : State) : exec (.modify r txid addr mask value) s = execModify r txid addr mask value s := rfl
@[simp] theorem exec_readWide (r) (item) (s : State) : exec (.readWide r item) s = execReadWide r item s := rfl
@[simp] theorem exec_mbReqWrite (item) (s : State) : exec (.mbReqWrite item) s = execMbReqWrite item s := rfl
@[simp] theorem exec_platRead (r) (ofs) (len) (s : State) : exec (.platRead r ofs len) s = execPlatRead r ofs len s := rfl
@[simp] theorem exec_resetWarm (r) (key) (s : State) : exec (.resetWarm r key) s = execResetWarm r key s := rfl
@[simp] theorem exec_strobe (r) (groups) (s : State) : exec (.strobe r groups) s = execStrobe r groups s := rfl
@[simp] theorem exec_strobeFire (groups) (s : State) : exec (.strobeFire groups) s = execStrobeFire groups s := rfl
@[simp] theorem exec_netcfg (r) (sel) (data) (s : State) : exec (.netcfg r sel data) s = execNetcfg r sel data s := rfl
@[simp] theorem exec_txnBegin (r) (scope) (t) (s : State) : exec (.txnBegin r scope t) s = execTxnBegin r scope t s := rfl
@[simp] theorem exec_txnPrepare (r) (txid) (s : State) : exec (.txnPrepare r txid) s = execTxnPrepare r txid s := rfl
@[simp] theorem exec_txnCommit (r) (txid) (imm) (tick) (s : State) : exec (.txnCommit r txid imm tick) s = execTxnCommit r txid imm tick s := rfl
@[simp] theorem exec_txnRollback (r) (txid) (s : State) : exec (.txnRollback r txid) s = execTxnRollback r txid s := rfl
@[simp] theorem exec_txnStatus (r) (txid) (s : State) : exec (.txnStatus r txid) s = execTxnStatus r txid s := rfl
@[simp] theorem exec_txnSprep (r) (txid) (total) (first) (writes) (s : State) : exec (.txnSprep r txid total first writes) s = execTxnSprep r txid total first writes s := rfl
@[simp] theorem exec_txnScommit (r) (txid) (tick) (s : State) : exec (.txnScommit r txid tick) s = execTxnScommit r txid tick s := rfl
@[simp] theorem exec_txnSabort (r) (txid) (s : State) : exec (.txnSabort r txid) s = execTxnSabort r txid s := rfl
@[simp] theorem exec_txnIdleExpiry (txid) (s : State) : exec (.txnIdleExpiry txid) s = execTxnIdleExpiry txid s := rfl
@[simp] theorem exec_txnTickApply (s : State) : exec .txnTickApply s = execTxnTickApply s := rfl
@[simp] theorem exec_txnStakeApply (s : State) : exec .txnStakeApply s = execTxnStakeApply s := rfl
@[simp] theorem exec_txnPrepareTimeout (s : State) : exec .txnPrepareTimeout s = execTxnPrepareTimeout s := rfl
@[simp] theorem exec_txnCommitComplete (s : State) : exec .txnCommitComplete s = execTxnCommitComplete s := rfl
@[simp] theorem exec_relay (r) (t) (k) (s : State) : exec (.relay r t k) s = execRelay r t k s := rfl
@[simp] theorem exec_chainScan (r) (p) (s : State) : exec (.chainScan r p) s = execChainScan r p s := rfl
@[simp] theorem exec_relayFlush (r) (ports) (s : State) : exec (.relayFlush r ports) s = execRelayFlush r ports s := rfl
@[simp] theorem exec_loopSwap (r) (tick) (s : State) : exec (.loopSwap r tick) s = execLoopSwap r tick s := rfl
@[simp] theorem exec_armStatus (r) (a) (s : State) : exec (.armStatus r a) s = execArmStatus r a s := rfl
@[simp] theorem exec_fbRead (r) (space) (count) (first) (s : State) : exec (.fbRead r space count first) s = execFbRead r space count first s := rfl
@[simp] theorem exec_fbFreeze (r) (on) (s : State) : exec (.fbFreeze r on) s = execFbFreeze r on s := rfl
@[simp] theorem exec_drList (r) (s : State) : exec (.drList r) s = execDrList r s := rfl
@[simp] theorem exec_drRead (r) (rnum) (ofs) (len) (ecc) (s : State) : exec (.drRead r rnum ofs len ecc) s = execDrRead r rnum ofs len ecc s := rfl
@[simp] theorem exec_adcCal (r) (cal) (rot) (s : State) : exec (.adcCal r cal rot) s = execAdcCal r cal rot s := rfl
@[simp] theorem exec_gateTest (r) (sel) (ch) (s : State) : exec (.gateTest r sel ch) s = execGateTest r sel ch s := rfl
@[simp] theorem exec_bypassFire (r) (code) (s : State) : exec (.bypassFire r code) s = execBypassFire r code s := rfl
@[simp] theorem exec_leaseStatus (r) (s : State) : exec (.leaseStatus r) s = execLeaseStatus r s := rfl
@[simp] theorem exec_handover (r) (s : State) : exec (.handover r) s = execHandover r s := rfl
@[simp] theorem exec_join (r) (s : State) : exec (.join r) s = execJoin r s := rfl
@[simp] theorem exec_safeStatus (r) (s : State) : exec (.safeStatus r) s = execSafeStatus r s := rfl
@[simp] theorem exec_ident (r) (s : State) : exec (.ident r) s = execIdent r s := rfl
@[simp] theorem exec_attest (r) (nonce) (s : State) : exec (.attest r nonce) s = execAttest r nonce s := rfl
@[simp] theorem exec_adopt (r) (confirm) (p) (slot) (a) (idx) (monument) (s : State) : exec (.adopt r confirm p slot a idx monument) s = execAdopt r confirm p slot a idx monument s := rfl
@[simp] theorem exec_adoptionScan (p) (s : State) : exec (.adoptionScan p) s = execAdoptionScan p s := rfl
@[simp] theorem exec_imgOpen (r) (target) (len) (s : State) : exec (.imgOpen r target len) s = execImgOpen r target len s := rfl
@[simp] theorem exec_imgData (r) (ofs) (bytes) (s : State) : exec (.imgData r ofs bytes) s = execImgData r ofs bytes s := rfl
@[simp] theorem exec_imgCheck (r) (s : State) : exec (.imgCheck r) s = execImgCheck r s := rfl
@[simp] theorem exec_imgActivate (r) (target) (s : State) : exec (.imgActivate r target) s = execImgActivate r target s := rfl
@[simp] theorem exec_imgStatus (r) (s : State) : exec (.imgStatus r) s = execImgStatus r s := rfl
@[simp] theorem exec_firmwareConfirm (s : State) : exec .firmwareConfirm s = execFirmwareConfirm s := rfl
@[simp] theorem exec_trialTimeout (crashed) (s : State) : exec (.trialTimeout crashed) s = execTrialTimeout crashed s := rfl
@[simp] theorem exec_bootImageCheck (hdr) (slot0) (slot1) (s : State) : exec (.bootImageCheck hdr slot0 slot1) s = execBootImageCheck hdr slot0 slot1 s := rfl
@[simp] theorem exec_configLoad (writes) (locks) (store) (s : State) : exec (.configLoad writes locks store) s = execConfigLoad writes locks store s := rfl
@[simp] theorem exec_configParityScrub (addr) (shadow) (s : State) : exec (.configParityScrub addr shadow) s = execConfigParityScrub addr shadow s := rfl
@[simp] theorem exec_lockSet (mask) (s : State) : exec (.lockSet mask) s = execLockSet mask s := rfl
@[simp] theorem exec_timeStep (s : State) : exec .timeStep s = execTimeStep s := rfl
@[simp] theorem exec_ftrimWrite (v) (s : State) : exec (.ftrimWrite v) s = execFtrimWrite v s := rfl
@[simp] theorem exec_disciplineHoldover (s : State) : exec .disciplineHoldover s = execDisciplineHoldover s := rfl
@[simp] theorem exec_ptpTxStamp (n) (seqId) (msgType) (corr) (frac) (s : State) : exec (.ptpTxStamp n seqId msgType corr frac) s = execPtpTxStamp n seqId msgType corr frac s := rfl
@[simp] theorem exec_ptpRxStamp (n) (frac) (s : State) : exec (.ptpRxStamp n frac) s = execPtpRxStamp n frac s := rfl
@[simp] theorem exec_tickalignReceive (d) (m) (at') (ok) (s : State) : exec (.tickalignReceive d m at' ok) s = execTickalignReceive d m at' ok s := rfl
@[simp] theorem exec_alignmentLoss (s : State) : exec .alignmentLoss s = execAlignmentLoss s := rfl
@[simp] theorem exec_followerRephase (s : State) : exec .followerRephase s = execFollowerRephase s := rfl
@[simp] theorem exec_varsReceive (d) (tick) (words) (ok) (s : State) : exec (.varsReceive d tick words ok) s = execVarsReceive d tick words ok s := rfl
@[simp] theorem exec_mgmtForward (d) (m) (ok) (s : State) : exec (.mgmtForward d m ok) s = execMgmtForward d m ok s := rfl
@[simp] theorem exec_forwardTimeout (key) (tag) (s : State) : exec (.forwardTimeout key tag) s = execForwardTimeout key tag s := rfl
@[simp] theorem exec_shedStageRise (v) (s : State) : exec (.shedStageRise v) s = execShedStageRise v s := rfl
@[simp] theorem exec_shedStageFall (mv) (s : State) : exec (.shedStageFall mv) s = execShedStageFall mv s := rfl
@[simp] theorem exec_shedResetEntry (s : State) : exec .shedResetEntry s = execShedResetEntry s := rfl
@[simp] theorem exec_shedResetRelease (straps) (inputs) (s : State) : exec (.shedResetRelease straps inputs) s = execShedResetRelease straps inputs s := rfl
@[simp] theorem exec_haltRxcAbsent (l) (s : State) : exec (.haltRxcAbsent l) s = execHaltRxcAbsent l s := rfl
@[simp] theorem exec_resetStuckClear (y) (s : State) : exec (.resetStuckClear y) s = execResetStuckClear y s := rfl
@[simp] theorem exec_aliveEdge (s : State) : exec .aliveEdge s = execAliveEdge s := rfl
@[simp] theorem exec_effectiveInstant (n) (s : State) : exec (.effectiveInstant n) s = execEffectiveInstant n s := rfl
@[simp] theorem exec_tevPulseEnd (n) (s : State) : exec (.tevPulseEnd n) s = execTevPulseEnd n s := rfl
@[simp] theorem exec_railReturn (j) (s : State) : exec (.railReturn j) s = execRailReturn j s := rfl
@[simp] theorem exec_retentionDetector (s : State) : exec .retentionDetector s = execRetentionDetector s := rfl
@[simp] theorem exec_auxfltFall (s : State) : exec .auxfltFall s = execAuxfltFall s := rfl
@[simp] theorem exec_replyCacheExpiry (r) (s : State) : exec (.replyCacheExpiry r) s = execReplyCacheExpiry r s := rfl

end Sys2Proof.Machine
end

