-- ==== Sys2Proof/Laws/Execs.lean ====
section
/-! SUPPORT. Command by command: each meaning answers a next state, which keeps what `Keeps` says; and what the resets keep. -/

namespace Sys2Proof.Machine

set_option Elab.async false

theorem keeps_foldl_fst {ro : Bool} {z : State} {β γ : Type} {f : State × γ → β → State × γ}
    (hf : ∀ r b, Keeps ro z r.1 → Keeps ro z (f r b).1) :
    ∀ (l : List β) (r : State × γ), Keeps ro z r.1 → Keeps ro z (l.foldl f r).1
  | [], _, h => h
  | b :: t, r, h => keeps_foldl_fst hf t (f r b) (hf r b h)

theorem execTaskDispatch_answers {ro : Bool} {z s : State} (h : Keeps ro z s) : Answers ro z (execTaskDispatch s) :=
  State.inDatum_answers (fun _ h => keeps_ite _ (fun _ => keeps_foldl_fst
    (fun _ b h => State.serveQueue_keeps h b _ _) _ _ h) fun _ => h) h

theorem execApplyInstant_answers {ro : Bool} {z s : State} (h : Keeps ro z s) : Answers ro z (execApplyInstant s) := by
  refine State.inStake_answers (fun s h => keeps_ite _ (fun _ => h) fun _ => ?_) h
  extract_lets s1 fr g s2 s3 gs
  have h1 : Keeps ro z s1 := by
    simp only [s1]
    split
    · exact keeps_ite _ (fun _ => State.advance_keeps h _) fun _ => h
    · exact State.count_keeps h _
  have h2 : Keeps ro z s2 := State.put_keeps ((keeps_upd ..).2 h1) _ _
  have h3 : Keeps ro z s3 := State.applyPlan_keeps (State.put_keeps h2 _ _)
  clear_value s1 s2 s3 gs
  exact State.updRefresh_keeps ((keeps_upd ..).2 h3)

theorem Chan.sblk_permit (c : Chan) (a b : Bool) (t : Nat) : (c.sblk a b t).permit = true → c.permit = true := by
  unfold Chan.sblk
  exact fun h => by simpa using h

theorem execSblkChange_answers {ro : Bool} {z s : State} (h : Keeps ro z s) (x y a b : Bool) (at' : Nat) :
    Answers ro z (execSblkChange x y a b at' s) := by
  refine State.inDatum_answers (fun s h => ?_) h
  extract_lets s0 had sf s1 s2
  have h0 : Keeps ro z s0 := State.advance_keeps h _
  have h1 : Keeps ro z s1 := by
    refine State.mirrorInputs_keeps (keeps_updSf h0 _ ?_ ?_ s0.out s0.frm s0.gs)
    · show (if x then s0.sf.x.sblk a b s0.now else s0.sf.x).permit = true → _
      split
      · exact Chan.sblk_permit _ _ _ _
      · exact id
    · show (if y then s0.sf.y.sblk a b s0.now else s0.sf.y).permit = true → _
      split
      · exact Chan.sblk_permit _ _ _ _
      · exact id
  refine keeps_ite _ (fun _ => ?_) fun _ => h1
  have h2 : Keeps ro z s2 := State.blockDatum_keeps h1 _ _ _
  exact keeps_ite _ (fun _ => h2) fun _ => State.raise_keeps h2 _

/-- A channel of the Safe block that the clock has moved past, with a part changed that leaves its state. -/
theorem State.setSafeCh_later {ro : Bool} {z s : State} (h : Keeps ro z s) (t : Nat) (y : Bool) (c : Chan)
    (hc : c.permit = (s.safeCh y).permit) : Keeps ro z ((s.advance t).setSafeCh y c) := by
  refine State.setSafeCh_keeps (State.advance_keeps h _) _ _ fun x => ?_
  rw [hc] at x
  unfold State.safeCh at x ⊢
  rwa [State.advance_sf]

theorem execProofOpen_answers {ro : Bool} {z s : State} (h : Keeps ro z s) (y : Bool) : Answers ro z (execProofOpen y s) := by
  refine State.inDatum_answers (fun s h => ?_) h
  extract_lets c
  split
  · exact keeps_ite _ (fun _ => State.mirrorInputs_keeps (State.setSafeCh_later h _ _ _ rfl)) fun _ => h
  · exact h

theorem execDiscrepancyTimeout_answers {ro : Bool} {z s : State} (h : Keeps ro z s) (srst y : Bool) :
    Answers ro z (execDiscrepancyTimeout srst y s) := by
  refine State.inDatum_answers (fun s h => ?_) h
  extract_lets c found
  split
  · refine keeps_ite _ (fun _ => h) fun _ => ?_
    extract_lets s1 s2
    have h2 : Keeps ro z s2 := State.put_keeps (State.mirrorInputs_keeps (State.setSafeCh_later h _ _ _
      (by unfold Chan.discrepant; split <;> rfl))) _ _
    exact keeps_ite _ (fun _ => h2) fun _ => State.raise_keeps (State.count_keeps h2 _) _
  · exact h

theorem execResetStuck_answers {ro : Bool} {z s : State} (h : Keeps ro z s) (y : Bool) : Answers ro z (execResetStuck y s) := by
  refine State.inDatum_answers (fun s h => ?_) h
  extract_lets c
  split
  · refine keeps_ite _ (fun _ => h) fun _ => ?_
    extract_lets s1 s2
    have h2 : Keeps ro z s2 := State.mirrorInputs_keeps (State.setSafeCh_later h _ _ _ rfl)
    exact keeps_ite _ (fun _ => h2) fun _ => State.raise_keeps (State.rstInfo_keeps h2 _ _) _
  · exact h

theorem execResetStuckClear_answers {ro : Bool} {z s : State} (h : Keeps ro z s) (y : Bool) :
    Answers ro z (execResetStuckClear y s) :=
  State.inDatum_answers (fun _ h => keeps_ite _ (fun _ => h) fun _ =>
    State.mirrorInputs_keeps (State.setSafeCh_later h _ _ _ rfl)) h

theorem execShedStageRise_answers {ro : Bool} {z s : State} (h : Keeps ro z s) (v : VauxReport) :
    Answers ro z (execShedStageRise v s) :=
  State.inRun_answers (fun _ h => keeps_ite _ (fun _ => State.showHolding_keeps h _) fun _ =>
    keeps_iter (fun _ h => State.nextStage_keeps h _) _ _ h) h

theorem execClockFault_answers {ro : Bool} {z s : State} (h : Keeps ro z s) (clk : Nat) : Answers ro z (execClockFault clk s) := by
  unfold execClockFault
  repeat' first
    | first | with_reducible assumption | with_reducible apply State.inRun_answers | with_reducible apply State.raise_keeps
    | with_reducible apply answers_next | with_reducible apply keeps_ite | with_reducible apply keeps_foldl
    | with_reducible apply keeps_foldl_snd | intro _ | extract_lets | simp -zeta only [keeps_upd] | split | dsimp only

theorem execGtimeMove_answers {ro : Bool} {z s : State} (h : Keeps ro z s) : Answers ro z (execGtimeMove s) := by
  unfold execGtimeMove
  repeat' first
    | first | with_reducible assumption | with_reducible apply State.inStake_answers | with_reducible apply State.event_keeps
    | with_reducible apply answers_next | with_reducible apply keeps_ite | with_reducible apply keeps_foldl
    | with_reducible apply keeps_foldl_snd | intro _ | extract_lets | simp -zeta only [keeps_upd] | split | dsimp only

theorem execTickLockLoss_answers {ro : Bool} {z s : State} (h : Keeps ro z s) : Answers ro z (execTickLockLoss s) := by
  unfold execTickLockLoss
  repeat' first
    | first | with_reducible assumption | with_reducible apply State.inStake_answers
    | with_reducible apply State.loseLock_keeps | with_reducible apply answers_next | with_reducible apply keeps_ite
    | with_reducible apply keeps_foldl | with_reducible apply keeps_foldl_snd | intro _ | extract_lets
    | simp -zeta only [keeps_upd] | split | dsimp only

theorem execHoldoverExpiry_answers {ro : Bool} {z s : State} (h : Keeps ro z s) : Answers ro z (execHoldoverExpiry s) := by
  unfold execHoldoverExpiry
  repeat' first
    | first | with_reducible assumption | with_reducible apply State.inStake_answers
    | with_reducible apply State.loseLock_keeps | with_reducible apply answers_next | with_reducible apply keeps_ite
    | with_reducible apply keeps_foldl | with_reducible apply keeps_foldl_snd | intro _ | extract_lets
    | simp -zeta only [keeps_upd] | split | dsimp only

theorem execPeriodFrameTimeout_answers {ro : Bool} {z s : State} (h : Keeps ro z s) : Answers ro z (execPeriodFrameTimeout s) := by
  unfold execPeriodFrameTimeout
  repeat' first
    | first | with_reducible assumption | with_reducible apply State.inStake_answers
    | with_reducible apply State.lockOnMark_keeps | with_reducible apply State.loseLock_keeps
    | with_reducible apply answers_next | with_reducible apply keeps_ite | with_reducible apply keeps_foldl
    | with_reducible apply keeps_foldl_snd | intro _ | extract_lets | simp -zeta only [keeps_upd] | split | dsimp only

theorem execTimeStep_answers {ro : Bool} {z s : State} (h : Keeps ro z s) : Answers ro z (execTimeStep s) := by
  unfold execTimeStep
  repeat' first
    | first | with_reducible assumption | with_reducible apply State.byWrite_answers | with_reducible apply wrStep_keeps
    | with_reducible apply answers_next | with_reducible apply keeps_ite | with_reducible apply keeps_foldl
    | with_reducible apply keeps_foldl_snd | intro _ | extract_lets | simp -zeta only [keeps_upd] | split | dsimp only

theorem execFtrimWrite_answers {ro : Bool} {z s : State} (h : Keeps ro z s) (v : Nat) : Answers ro z (execFtrimWrite v s) := by
  unfold execFtrimWrite
  repeat' first
    | first | with_reducible assumption | with_reducible apply State.byWrite_answers | with_reducible apply wrFtrim_keeps
    | with_reducible apply answers_next | with_reducible apply keeps_ite | with_reducible apply keeps_foldl
    | with_reducible apply keeps_foldl_snd | intro _ | extract_lets | simp -zeta only [keeps_upd] | split | dsimp only

theorem execDisciplineHoldover_answers {ro : Bool} {z s : State} (h : Keeps ro z s) : Answers ro z (execDisciplineHoldover s) := by
  unfold execDisciplineHoldover
  repeat' first
    | first | with_reducible assumption | with_reducible apply State.inDatum_answers | with_reducible apply State.put_keeps
    | with_reducible apply State.raise_keeps | with_reducible apply answers_next | with_reducible apply keeps_ite
    | with_reducible apply keeps_foldl | with_reducible apply keeps_foldl_snd | intro _ | extract_lets
    | simp -zeta only [keeps_upd] | split | dsimp only

theorem execPtpTxStamp_answers {ro : Bool} {z s : State} (h : Keeps ro z s) (n : Nat) (seqId : Nat) (msgType : Nat) (corr : Nat) (frac : Nat) : Answers ro z (execPtpTxStamp n seqId msgType corr frac s) := by
  unfold execPtpTxStamp
  repeat' first
    | first | with_reducible assumption | with_reducible apply State.inDatum_answers | with_reducible apply State.emit_keeps
    | with_reducible apply State.count_keeps | with_reducible apply answers_next | with_reducible apply keeps_ite
    | with_reducible apply keeps_foldl | with_reducible apply keeps_foldl_snd | intro _ | extract_lets
    | simp -zeta only [keeps_upd] | split | dsimp only

theorem execPtpRxStamp_answers {ro : Bool} {z s : State} (h : Keeps ro z s) (n : Nat) (frac : Nat) : Answers ro z (execPtpRxStamp n frac s) := by
  unfold execPtpRxStamp
  repeat' first
    | first | with_reducible assumption | with_reducible apply State.inDatum_answers | with_reducible apply State.emit_keeps
    | with_reducible apply answers_next | with_reducible apply keeps_ite | with_reducible apply keeps_foldl
    | with_reducible apply keeps_foldl_snd | intro _ | extract_lets | simp -zeta only [keeps_upd] | split | dsimp only

theorem execTevPulseEnd_answers {ro : Bool} {z s : State} (h : Keeps ro z s) (n : Nat) : Answers ro z (execTevPulseEnd n s) := by
  unfold execTevPulseEnd
  repeat' first
    | first | with_reducible assumption | with_reducible apply State.inRun_answers | with_reducible apply State.advance_keeps
    | with_reducible apply State.setTev_keeps | with_reducible apply State.tout_keeps | with_reducible apply answers_next
    | with_reducible apply keeps_ite | with_reducible apply keeps_foldl | with_reducible apply keeps_foldl_snd | intro _
    | extract_lets | simp -zeta only [keeps_upd] | split | dsimp only

theorem execRxcDetect_answers {ro : Bool} {z s : State} (h : Keeps ro z s) (l : Nat) : Answers ro z (execRxcDetect l s) := by
  unfold execRxcDetect
  repeat' first
    | first | with_reducible assumption | with_reducible apply State.onLink_answers | with_reducible apply State.goLink_keeps
    | with_reducible apply answers_next | with_reducible apply keeps_ite | with_reducible apply keeps_foldl
    | with_reducible apply keeps_foldl_snd | intro _ | extract_lets | simp -zeta only [keeps_upd] | split | dsimp only

theorem execBitLock_answers {ro : Bool} {z s : State} (h : Keeps ro z s) (l : Nat) (phase : Nat) : Answers ro z (execBitLock l phase s) := by
  unfold execBitLock
  repeat' first
    | first | with_reducible assumption | with_reducible apply State.onLink_answers | with_reducible apply State.setLink_keeps
    | with_reducible apply State.goLink_keeps | with_reducible apply answers_next | with_reducible apply keeps_ite
    | with_reducible apply keeps_foldl | with_reducible apply keeps_foldl_snd | intro _ | extract_lets
    | simp -zeta only [keeps_upd] | split | dsimp only

theorem execSymbolLock_answers {ro : Bool} {z s : State} (h : Keeps ro z s) (l : Nat) (align : Nat) : Answers ro z (execSymbolLock l align s) := by
  unfold execSymbolLock
  repeat' first
    | first | with_reducible assumption | with_reducible apply State.onLink_answers | with_reducible apply State.setLink_keeps
    | with_reducible apply State.goLink_keeps | with_reducible apply answers_next | with_reducible apply keeps_ite
    | with_reducible apply keeps_foldl | with_reducible apply keeps_foldl_snd | intro _ | extract_lets
    | simp -zeta only [keeps_upd] | split | dsimp only

theorem execCapSetReceive_answers {ro : Bool} {z s : State} (h : Keeps ro z s) (l : Nat) (c : Cap) : Answers ro z (execCapSetReceive l c s) := by
  unfold execCapSetReceive
  repeat' first
    | first | with_reducible assumption | with_reducible apply State.onLink_answers | with_reducible apply State.emit_keeps
    | with_reducible apply State.put_keeps | with_reducible apply State.setLink_keeps
    | with_reducible apply State.notePartner_keeps | with_reducible apply State.farEnd_keeps
    | with_reducible apply State.capInCapx_keeps | with_reducible apply State.capInActive_keeps
    | with_reducible apply State.goLink_keeps | with_reducible apply State.count_keeps
    | with_reducible apply State.sendCap_keeps | with_reducible apply answers_next | with_reducible apply keeps_ite
    | with_reducible apply keeps_foldl | with_reducible apply keeps_foldl_snd | intro _ | extract_lets
    | simp -zeta only [keeps_upd] | split | dsimp only

theorem execCapSetPeriodic_answers {ro : Bool} {z s : State} (h : Keeps ro z s) (l : Nat) : Answers ro z (execCapSetPeriodic l s) := by
  unfold execCapSetPeriodic
  repeat' first
    | first | with_reducible assumption | with_reducible apply State.onLink_answers | with_reducible apply State.sendCap_keeps
    | with_reducible apply answers_next | with_reducible apply keeps_ite | with_reducible apply keeps_foldl
    | with_reducible apply keeps_foldl_snd | intro _ | extract_lets | simp -zeta only [keeps_upd] | split | dsimp only

theorem execFarEndEchoEnd_answers {ro : Bool} {z s : State} (h : Keeps ro z s) (p : Nat) : Answers ro z (execFarEndEchoEnd p s) := by
  unfold execFarEndEchoEnd
  repeat' first
    | first | with_reducible assumption | with_reducible apply State.onPort_answers | with_reducible apply State.setLink_keeps
    | with_reducible apply State.goLink_keeps | with_reducible apply answers_next | with_reducible apply keeps_ite
    | with_reducible apply keeps_foldl | with_reducible apply keeps_foldl_snd | intro _ | extract_lets
    | simp -zeta only [keeps_upd] | split | dsimp only

theorem execDmSetReceive_answers {ro : Bool} {z s : State} (h : Keeps ro z s) (l : Nat) (d : Dm) (sent : Nat) (got : Nat) : Answers ro z (execDmSetReceive l d sent got s) := by
  unfold execDmSetReceive
  repeat' first
    | first | with_reducible assumption | with_reducible apply State.onLink_answers | with_reducible apply State.emit_keeps
    | with_reducible apply State.sendSet_keeps | with_reducible apply State.setLink_keeps
    | with_reducible apply State.delayDone_keeps | with_reducible apply State.sendDm_keeps | with_reducible apply answers_next
    | with_reducible apply keeps_ite | with_reducible apply keeps_foldl | with_reducible apply keeps_foldl_snd | intro _
    | extract_lets | simp -zeta only [keeps_upd] | split | dsimp only

theorem execBringupTimeout_answers {ro : Bool} {z s : State} (h : Keeps ro z s) (l : Nat) : Answers ro z (execBringupTimeout l s) := by
  unfold execBringupTimeout
  repeat' first
    | first | with_reducible assumption | with_reducible apply State.onLink_answers | with_reducible apply State.goLink_keeps
    | with_reducible apply answers_next | with_reducible apply keeps_ite | with_reducible apply keeps_foldl
    | with_reducible apply keeps_foldl_snd | intro _ | extract_lets | simp -zeta only [keeps_upd] | split | dsimp only

theorem execRxcLoss_answers {ro : Bool} {z s : State} (h : Keeps ro z s) (l : Nat) (inFrame : Bool) : Answers ro z (execRxcLoss l inFrame s) := by
  unfold execRxcLoss
  repeat' first
    | first | with_reducible assumption | with_reducible apply State.onLink_answers | with_reducible apply State.goLink_keeps
    | with_reducible apply State.breakFrame_keeps | with_reducible apply State.leaveActive_keeps
    | with_reducible apply State.setLink_keeps | with_reducible apply answers_next | with_reducible apply keeps_ite
    | with_reducible apply keeps_foldl | with_reducible apply keeps_foldl_snd | intro _ | extract_lets
    | simp -zeta only [keeps_upd] | split | dsimp only

theorem execCodeViolation_answers {ro : Bool} {z s : State} (h : Keeps ro z s) (l : Nat) (sym : Nat) (inFrame : Bool) : Answers ro z (execCodeViolation l sym inFrame s) := by
  unfold execCodeViolation
  repeat' first
    | first | with_reducible assumption | with_reducible apply State.onLink_answers | with_reducible apply State.emit_keeps
    | with_reducible apply State.releaseHeld_keeps | with_reducible apply State.count_keeps
    | with_reducible apply State.setLink_keeps | with_reducible apply State.breakFrame_keeps
    | with_reducible apply State.leaveActive_keeps | with_reducible apply answers_next | with_reducible apply keeps_ite
    | with_reducible apply keeps_foldl | with_reducible apply keeps_foldl_snd | intro _ | extract_lets
    | simp -zeta only [keeps_upd] | split | dsimp only

theorem execCommaRealign_answers {ro : Bool} {z s : State} (h : Keeps ro z s) (l : Nat) (inFrame : Bool) : Answers ro z (execCommaRealign l inFrame s) := by
  unfold execCommaRealign
  repeat' first
    | first | with_reducible assumption | with_reducible apply State.onLink_answers | with_reducible apply State.count_keeps
    | with_reducible apply State.breakFrame_keeps | with_reducible apply State.leaveActive_keeps
    | with_reducible apply answers_next | with_reducible apply keeps_ite | with_reducible apply keeps_foldl
    | with_reducible apply keeps_foldl_snd | intro _ | extract_lets | simp -zeta only [keeps_upd] | split | dsimp only

theorem execIsolatedUrgent_answers {ro : Bool} {z s : State} (h : Keeps ro z s) (p : Nat) : Answers ro z (execIsolatedUrgent p s) := by
  unfold execIsolatedUrgent
  repeat' first
    | first | with_reducible assumption | with_reducible apply State.onPort_answers | with_reducible apply State.count_keeps
    | with_reducible apply answers_next | with_reducible apply keeps_ite | with_reducible apply keeps_foldl
    | with_reducible apply keeps_foldl_snd | intro _ | extract_lets | simp -zeta only [keeps_upd] | split | dsimp only

theorem execBlindRelock_answers {ro : Bool} {z s : State} (h : Keeps ro z s) (p : Nat) : Answers ro z (execBlindRelock p s) := by
  unfold execBlindRelock
  repeat' first
    | first | with_reducible assumption | with_reducible apply State.onPort_answers | with_reducible apply State.setLink_keeps
    | with_reducible apply State.sendCap_keeps | with_reducible apply answers_next | with_reducible apply keeps_ite
    | with_reducible apply keeps_foldl | with_reducible apply keeps_foldl_snd | intro _ | extract_lets
    | simp -zeta only [keeps_upd] | split | dsimp only

theorem execBlindTimeout_answers {ro : Bool} {z s : State} (h : Keeps ro z s) (p : Nat) : Answers ro z (execBlindTimeout p s) := by
  unfold execBlindTimeout
  repeat' first
    | first | with_reducible assumption | with_reducible apply State.onPort_answers | with_reducible apply State.goLink_keeps
    | with_reducible apply answers_next | with_reducible apply keeps_ite | with_reducible apply keeps_foldl
    | with_reducible apply keeps_foldl_snd | intro _ | extract_lets | simp -zeta only [keeps_upd] | split | dsimp only

theorem execWaitExpiry_answers {ro : Bool} {z s : State} (h : Keeps ro z s) (l : Nat) : Answers ro z (execWaitExpiry l s) := by
  unfold execWaitExpiry
  repeat' first
    | first | with_reducible assumption | with_reducible apply State.onLink_answers | with_reducible apply State.goLink_keeps
    | with_reducible apply answers_next | with_reducible apply keeps_ite | with_reducible apply keeps_foldl
    | with_reducible apply keeps_foldl_snd | intro _ | extract_lets | simp -zeta only [keeps_upd] | split | dsimp only

theorem execHaltRxcAbsent_answers {ro : Bool} {z s : State} (h : Keeps ro z s) (l : Nat) : Answers ro z (execHaltRxcAbsent l s) := by
  unfold execHaltRxcAbsent
  repeat' first
    | first | with_reducible assumption | with_reducible apply State.onLink_answers | with_reducible apply State.goLink_keeps
    | with_reducible apply answers_next | with_reducible apply keeps_ite | with_reducible apply keeps_foldl
    | with_reducible apply keeps_foldl_snd | intro _ | extract_lets | simp -zeta only [keeps_upd] | split | dsimp only

theorem execBringupRetryLimit_answers {ro : Bool} {z s : State} (h : Keeps ro z s) (p : Nat) : Answers ro z (execBringupRetryLimit p s) := by
  unfold execBringupRetryLimit
  repeat' first
    | first | with_reducible assumption | with_reducible apply State.onPort_answers | with_reducible apply State.setLink_keeps
    | with_reducible apply State.raise_keeps | with_reducible apply answers_next | with_reducible apply keeps_ite
    | with_reducible apply keeps_foldl | with_reducible apply keeps_foldl_snd | intro _ | extract_lets
    | simp -zeta only [keeps_upd] | split | dsimp only

theorem execDaSetReceive_answers {ro : Bool} {z s : State} (h : Keeps ro z s) (p : Nat) (d : Da) : Answers ro z (execDaSetReceive p d s) := by
  unfold execDaSetReceive
  repeat' first
    | first | with_reducible assumption | with_reducible apply State.onPort_answers | with_reducible apply State.emit_keeps
    | with_reducible apply State.count_keeps | with_reducible apply State.takeDa_keeps | with_reducible apply State.putB_keeps
    | with_reducible apply State.daOut_keeps | with_reducible apply State.put_keeps
    | with_reducible apply State.applyMargin_keeps | with_reducible apply State.daTurn_keeps
    | with_reducible apply answers_next | with_reducible apply keeps_ite | with_reducible apply keeps_foldl
    | with_reducible apply keeps_foldl_snd | intro _ | extract_lets | simp -zeta only [keeps_upd] | split | dsimp only

theorem execPortRestart_answers {ro : Bool} {z s : State} (h : Keeps ro z s) (p : Nat) : Answers ro z (execPortRestart p s) := by
  unfold execPortRestart
  repeat' first
    | first | with_reducible assumption | with_reducible apply State.byWrite_answers | with_reducible apply wrRestart_keeps
    | with_reducible apply answers_next | with_reducible apply keeps_ite | with_reducible apply keeps_foldl
    | with_reducible apply keeps_foldl_snd | intro _ | extract_lets | simp -zeta only [keeps_upd] | split | dsimp only

theorem execInjectSingle_answers {ro : Bool} {z s : State} (h : Keeps ro z s) (p : Nat) : Answers ro z (execInjectSingle p s) := by
  unfold execInjectSingle
  repeat' first
    | first | with_reducible assumption | with_reducible apply State.byWrite_answers | with_reducible apply wrInj_keeps
    | with_reducible apply answers_next | with_reducible apply keeps_ite | with_reducible apply keeps_foldl
    | with_reducible apply keeps_foldl_snd | intro _ | extract_lets | simp -zeta only [keeps_upd] | split | dsimp only

theorem execInjectBurst_answers {ro : Bool} {z s : State} (h : Keeps ro z s) (p : Nat) (len : Nat) : Answers ro z (execInjectBurst p len s) := by
  unfold execInjectBurst
  repeat' first
    | first | with_reducible assumption | with_reducible apply State.byWrite_answers | with_reducible apply wrInj_keeps
    | with_reducible apply answers_next | with_reducible apply keeps_ite | with_reducible apply keeps_foldl
    | with_reducible apply keeps_foldl_snd | intro _ | extract_lets | simp -zeta only [keeps_upd] | split | dsimp only

theorem execPrbsClear_answers {ro : Bool} {z s : State} (h : Keeps ro z s) (p : Nat) : Answers ro z (execPrbsClear p s) := by
  unfold execPrbsClear
  repeat' first
    | first | with_reducible assumption | with_reducible apply State.byWrite_answers | with_reducible apply wrInj_keeps
    | with_reducible apply answers_next | with_reducible apply keeps_ite | with_reducible apply keeps_foldl
    | with_reducible apply keeps_foldl_snd | intro _ | extract_lets | simp -zeta only [keeps_upd] | split | dsimp only

theorem execPrbsCheckerLock_answers {ro : Bool} {z s : State} (h : Keeps ro z s) (p : Nat) (bits : Nat) (errs : Nat) : Answers ro z (execPrbsCheckerLock p bits errs s) := by
  unfold execPrbsCheckerLock
  repeat' first
    | first | with_reducible assumption | with_reducible apply State.onPort_answers
    | with_reducible apply State.prbsReport_keeps | with_reducible apply State.setLink_keeps
    | with_reducible apply State.put_keeps | with_reducible apply answers_next | with_reducible apply keeps_ite
    | with_reducible apply keeps_foldl | with_reducible apply keeps_foldl_snd | intro _ | extract_lets
    | simp -zeta only [keeps_upd] | split | dsimp only

theorem execPrbsLockLoss_answers {ro : Bool} {z s : State} (h : Keeps ro z s) (p : Nat) (bits : Nat) (errs : Nat) : Answers ro z (execPrbsLockLoss p bits errs s) := by
  unfold execPrbsLockLoss
  repeat' first
    | first | with_reducible assumption | with_reducible apply State.onPort_answers
    | with_reducible apply State.prbsReport_keeps | with_reducible apply State.put_keeps | with_reducible apply answers_next
    | with_reducible apply keeps_ite | with_reducible apply keeps_foldl | with_reducible apply keeps_foldl_snd | intro _
    | extract_lets | simp -zeta only [keeps_upd] | split | dsimp only

theorem execHeldInstanceEnqueue_answers {ro : Bool} {z s : State} (h : Keeps ro z s) : Answers ro z (execHeldInstanceEnqueue s) := by
  unfold execHeldInstanceEnqueue
  repeat' first
    | first | with_reducible assumption | with_reducible apply State.inDatum_answers
    | with_reducible apply State.setQueue_keeps | with_reducible apply State.showSlot_keeps
    | with_reducible apply answers_next | with_reducible apply keeps_ite | with_reducible apply keeps_foldl
    | with_reducible apply keeps_foldl_snd | intro _ | extract_lets | simp -zeta only [keeps_upd] | split | dsimp only

theorem execTaskEnd_answers {ro : Bool} {z s : State} (h : Keeps ro z s) (n : Nat) : Answers ro z (execTaskEnd n s) := by
  unfold execTaskEnd
  repeat' first
    | first | with_reducible assumption | with_reducible apply State.inDatum_answers
    | with_reducible apply State.releaseEnd_keeps | with_reducible apply State.put_keeps
    | with_reducible apply State.freeLane_keeps | with_reducible apply State.clearPending_keeps
    | with_reducible apply State.showSlot_keeps | with_reducible apply State.setFlags_keeps
    | with_reducible apply State.evalSlot_keeps | with_reducible apply answers_next | with_reducible apply keeps_ite
    | with_reducible apply keeps_foldl | with_reducible apply keeps_foldl_snd | intro _ | extract_lets
    | simp -zeta only [keeps_upd] | split | dsimp only

theorem execOutputWindowWrite_answers {ro : Bool} {z s : State} (h : Keeps ro z s) (n : Nat) (addr : Nat) (v : Nat) : Answers ro z (execOutputWindowWrite n addr v s) := by
  unfold execOutputWindowWrite
  repeat' first
    | first | with_reducible assumption | with_reducible apply State.inDatum_answers
    | with_reducible apply State.laneFault_keeps | with_reducible apply State.setLane_keeps
    | with_reducible apply State.count_keeps | with_reducible apply State.abortLane_keeps
    | with_reducible apply State.raise_keeps | with_reducible apply answers_next | with_reducible apply keeps_ite
    | with_reducible apply keeps_foldl | with_reducible apply keeps_foldl_snd | intro _ | extract_lets
    | simp -zeta only [keeps_upd] | split | dsimp only

theorem execSignalInstruction_answers {ro : Bool} {z s : State} (h : Keeps ro z s) (n : Nat) (i : Nat) (flag : Nat) : Answers ro z (execSignalInstruction n i flag s) := by
  unfold execSignalInstruction
  repeat' first
    | first | with_reducible assumption | with_reducible apply State.inDatum_answers
    | with_reducible apply State.setFlags_keeps | with_reducible apply answers_next | with_reducible apply keeps_ite
    | with_reducible apply keeps_foldl | with_reducible apply keeps_foldl_snd | intro _ | extract_lets
    | simp -zeta only [keeps_upd] | split | dsimp only

theorem execCancelInstruction_answers {ro : Bool} {z s : State} (h : Keeps ro z s) (n : Nat) (i : Nat) (ready : Bool) : Answers ro z (execCancelInstruction n i ready s) := by
  unfold execCancelInstruction
  repeat' first
    | first | with_reducible assumption | with_reducible apply State.inDatum_answers | with_reducible apply State.cancel_keeps
    | with_reducible apply answers_next | with_reducible apply keeps_ite | with_reducible apply keeps_foldl
    | with_reducible apply keeps_foldl_snd | intro _ | extract_lets | simp -zeta only [keeps_upd] | split | dsimp only

theorem execSlotCancel_answers {ro : Bool} {z s : State} (h : Keeps ro z s) (i : Nat) (ready : Bool) : Answers ro z (execSlotCancel i ready s) := by
  unfold execSlotCancel
  repeat' first
    | first | with_reducible assumption | with_reducible apply State.byWrite_answers | with_reducible apply State.cancel_keeps
    | with_reducible apply answers_next | with_reducible apply keeps_ite | with_reducible apply keeps_foldl
    | with_reducible apply keeps_foldl_snd | intro _ | extract_lets | simp -zeta only [keeps_upd] | split | dsimp only

theorem execSetFlag_answers {ro : Bool} {z s : State} (h : Keeps ro z s) (i : Nat) (flag : Nat) : Answers ro z (execSetFlag i flag s) := by
  unfold execSetFlag
  repeat' first
    | first | with_reducible assumption | with_reducible apply State.byWrite_answers
    | with_reducible apply State.setFlags_keeps | with_reducible apply answers_next | with_reducible apply keeps_ite
    | with_reducible apply keeps_foldl | with_reducible apply keeps_foldl_snd | intro _ | extract_lets
    | simp -zeta only [keeps_upd] | split | dsimp only

theorem execLaneFault_answers {ro : Bool} {z s : State} (h : Keeps ro z s) (n : Nat) (cause : Nat) : Answers ro z (execLaneFault n cause s) := by
  unfold execLaneFault
  repeat' first
    | first | with_reducible assumption | with_reducible apply State.inDatum_answers
    | with_reducible apply State.laneFault_keeps | with_reducible apply answers_next | with_reducible apply keeps_ite
    | with_reducible apply keeps_foldl | with_reducible apply keeps_foldl_snd | intro _ | extract_lets
    | simp -zeta only [keeps_upd] | split | dsimp only

theorem execNanResult_answers {ro : Bool} {z s : State} (h : Keeps ro z s) (n : Nat) : Answers ro z (execNanResult n s) := by
  unfold execNanResult
  repeat' first
    | first | with_reducible assumption | with_reducible apply State.inDatum_answers | with_reducible apply State.put_keeps
    | with_reducible apply State.count_keeps | with_reducible apply State.setLane_keeps
    | with_reducible apply State.raise_keeps | with_reducible apply answers_next | with_reducible apply keeps_ite
    | with_reducible apply keeps_foldl | with_reducible apply keeps_foldl_snd | intro _ | extract_lets
    | simp -zeta only [keeps_upd] | split | dsimp only

theorem execDataEccError_answers {ro : Bool} {z s : State} (h : Keeps ro z s) (kind : Nat) (ofs : Nat) (n : Nat) : Answers ro z (execDataEccError kind ofs n s) := by
  unfold execDataEccError
  repeat' first
    | first | with_reducible assumption | with_reducible apply State.inDatum_answers | with_reducible apply State.count_keeps
    | with_reducible apply State.raise_keeps | with_reducible apply State.put_keeps
    | with_reducible apply State.abortLane_keeps | with_reducible apply answers_next | with_reducible apply keeps_ite
    | with_reducible apply keeps_foldl | with_reducible apply keeps_foldl_snd | intro _ | extract_lets
    | simp -zeta only [keeps_upd] | split | dsimp only

theorem execProgramEccError_answers {ro : Bool} {z s : State} (h : Keeps ro z s) (n : Nat) (corrected : Bool) : Answers ro z (execProgramEccError n corrected s) := by
  unfold execProgramEccError
  repeat' first
    | first | with_reducible assumption | with_reducible apply State.inDatum_answers | with_reducible apply State.count_keeps
    | with_reducible apply State.abortLane_keeps | with_reducible apply State.raise_keeps | with_reducible apply answers_next
    | with_reducible apply keeps_ite | with_reducible apply keeps_foldl | with_reducible apply keeps_foldl_snd | intro _
    | extract_lets | simp -zeta only [keeps_upd] | split | dsimp only

theorem execOverrunLimit_answers {ro : Bool} {z s : State} (h : Keeps ro z s) : Answers ro z (execOverrunLimit s) := by
  unfold execOverrunLimit
  repeat' first
    | first | with_reducible assumption | with_reducible apply State.inDatum_answers | with_reducible apply State.raise_keeps
    | with_reducible apply answers_next | with_reducible apply keeps_ite | with_reducible apply keeps_foldl
    | with_reducible apply keeps_foldl_snd | intro _ | extract_lets | simp -zeta only [keeps_upd] | split | dsimp only

theorem execSwapRequest_answers {ro : Bool} {z s : State} (h : Keeps ro z s) : Answers ro z (execSwapRequest s) := by
  unfold execSwapRequest
  repeat' first
    | first | with_reducible assumption | with_reducible apply State.byWrite_answers | with_reducible apply wrSwapReq_keeps
    | with_reducible apply answers_next | with_reducible apply keeps_ite | with_reducible apply keeps_foldl
    | with_reducible apply keeps_foldl_snd | intro _ | extract_lets | simp -zeta only [keeps_upd] | split | dsimp only

theorem execSwapWithdraw_answers {ro : Bool} {z s : State} (h : Keeps ro z s) : Answers ro z (execSwapWithdraw s) := by
  unfold execSwapWithdraw
  repeat' first
    | first | with_reducible assumption | with_reducible apply State.byWrite_answers
    | with_reducible apply State.dropSwap_keeps | with_reducible apply answers_next | with_reducible apply keeps_ite
    | with_reducible apply keeps_foldl | with_reducible apply keeps_foldl_snd | intro _ | extract_lets
    | simp -zeta only [keeps_upd] | split | dsimp only

theorem execBankSwap_answers {ro : Bool} {z s : State} (h : Keeps ro z s) : Answers ro z (execBankSwap s) := by
  unfold execBankSwap
  repeat' first
    | first | with_reducible assumption | with_reducible apply State.inDatum_answers | with_reducible apply State.count_keeps
    | with_reducible apply State.abortLane_keeps | with_reducible apply State.put_keeps | with_reducible apply answers_next
    | with_reducible apply keeps_ite | with_reducible apply keeps_foldl | with_reducible apply keeps_foldl_snd | intro _
    | extract_lets | simp -zeta only [keeps_upd] | split | dsimp only

theorem execAdcGridTrigger_answers {ro : Bool} {z s : State} (h : Keeps ro z s) (n : Nat) (at' : Nat) : Answers ro z (execAdcGridTrigger n at' s) := by
  unfold execAdcGridTrigger
  repeat' first
    | first | with_reducible assumption | with_reducible apply State.inRun_answers | with_reducible apply State.advance_keeps
    | with_reducible apply State.gridTrigger_keeps | with_reducible apply answers_next | with_reducible apply keeps_ite
    | with_reducible apply keeps_foldl | with_reducible apply keeps_foldl_snd | intro _ | extract_lets
    | simp -zeta only [keeps_upd] | split | dsimp only

theorem execAdcSwStart_answers {ro : Bool} {z s : State} (h : Keeps ro z s) (n : Nat) : Answers ro z (execAdcSwStart n s) := by
  unfold execAdcSwStart
  repeat' first
    | first | with_reducible assumption | with_reducible apply State.byWrite_answers
    | with_reducible apply State.adTrigger_keeps | with_reducible apply answers_next | with_reducible apply keeps_ite
    | with_reducible apply keeps_foldl | with_reducible apply keeps_foldl_snd | intro _ | extract_lets
    | simp -zeta only [keeps_upd] | split | dsimp only

theorem execTevFire_answers {ro : Bool} {z s : State} (h : Keeps ro z s) (n : Nat) : Answers ro z (execTevFire n s) := by
  unfold execTevFire
  repeat' first
    | first | with_reducible assumption | with_reducible apply State.inRun_answers | with_reducible apply State.advance_keeps
    | with_reducible apply State.setTev_keeps | with_reducible apply State.put_keeps | with_reducible apply State.tout_keeps
    | with_reducible apply State.adTrigger_keeps | with_reducible apply State.routeEvent_keeps
    | with_reducible apply answers_next | with_reducible apply keeps_ite | with_reducible apply keeps_foldl
    | with_reducible apply keeps_foldl_snd | intro _ | extract_lets | simp -zeta only [keeps_upd] | split | dsimp only

theorem execPairMismatch_answers {ro : Bool} {z s : State} (h : Keeps ro z s) (m : Nat) : Answers ro z (execPairMismatch m s) := by
  unfold execPairMismatch
  repeat' first
    | first | with_reducible assumption | with_reducible apply State.inRun_answers
    | with_reducible apply State.pairLimit_keeps | with_reducible apply State.setAdPair_keeps
    | with_reducible apply answers_next | with_reducible apply keeps_ite | with_reducible apply keeps_foldl
    | with_reducible apply keeps_foldl_snd | intro _ | extract_lets | simp -zeta only [keeps_upd] | split | dsimp only

theorem execAdcInject_answers {ro : Bool} {z s : State} (h : Keeps ro z s) (n : Nat) (inp : Nat) (diff : Bool) (preempt : Bool) : Answers ro z (execAdcInject n inp diff preempt s) := by
  unfold execAdcInject
  repeat' first
    | first | with_reducible assumption | with_reducible apply State.byWrite_answers | with_reducible apply wrInject_keeps
    | with_reducible apply State.preempt_keeps | with_reducible apply answers_next | with_reducible apply keeps_ite
    | with_reducible apply keeps_foldl | with_reducible apply keeps_foldl_snd | intro _ | extract_lets
    | simp -zeta only [keeps_upd] | split | dsimp only

theorem execAdcInjectResult_answers {ro : Bool} {z s : State} (h : Keeps ro z s) (n : Nat) (raw : Nat) : Answers ro z (execAdcInjectResult n raw s) := by
  unfold execAdcInjectResult
  repeat' first
    | first | with_reducible assumption | with_reducible apply State.inRun_answers | with_reducible apply State.advance_keeps
    | with_reducible apply State.setConv_keeps | with_reducible apply State.put_keeps | with_reducible apply answers_next
    | with_reducible apply keeps_ite | with_reducible apply keeps_foldl | with_reducible apply keeps_foldl_snd | intro _
    | extract_lets | simp -zeta only [keeps_upd] | split | dsimp only

theorem execAdcCalStart_answers {ro : Bool} {z s : State} (h : Keeps ro z s) (mask : Nat) : Answers ro z (execAdcCalStart mask s) := by
  unfold execAdcCalStart
  repeat' first
    | first | with_reducible assumption | with_reducible apply State.byWrite_answers | with_reducible apply wrCalStart_keeps
    | with_reducible apply answers_next | with_reducible apply keeps_ite | with_reducible apply keeps_foldl
    | with_reducible apply keeps_foldl_snd | intro _ | extract_lets | simp -zeta only [keeps_upd] | split | dsimp only

theorem execAdcCalDone_answers {ro : Bool} {z s : State} (h : Keeps ro z s) (n : Nat) (gain : Nat) (ofs : Nat) : Answers ro z (execAdcCalDone n gain ofs s) := by
  unfold execAdcCalDone
  repeat' first
    | first | with_reducible assumption | with_reducible apply State.inRun_answers | with_reducible apply State.put_keeps
    | with_reducible apply State.raise_keeps | with_reducible apply answers_next | with_reducible apply keeps_ite
    | with_reducible apply keeps_foldl | with_reducible apply keeps_foldl_snd | intro _ | extract_lets
    | simp -zeta only [keeps_upd] | split | dsimp only

theorem execRotCalStart_answers {ro : Bool} {z s : State} (h : Keeps ro z s) (mask : Nat) : Answers ro z (execRotCalStart mask s) := by
  unfold execRotCalStart
  repeat' first
    | first | with_reducible assumption | with_reducible apply State.byWrite_answers | with_reducible apply wrRotStart_keeps
    | with_reducible apply answers_next | with_reducible apply keeps_ite | with_reducible apply keeps_foldl
    | with_reducible apply keeps_foldl_snd | intro _ | extract_lets | simp -zeta only [keeps_upd] | split | dsimp only

theorem execRotCalAbort_answers {ro : Bool} {z s : State} (h : Keeps ro z s) (m : Nat) : Answers ro z (execRotCalAbort m s) := by
  unfold execRotCalAbort
  repeat' first
    | first | with_reducible assumption | with_reducible apply State.inRun_answers | with_reducible apply State.rotAbort_keeps
    | with_reducible apply answers_next | with_reducible apply keeps_ite | with_reducible apply keeps_foldl
    | with_reducible apply keeps_foldl_snd | intro _ | extract_lets | simp -zeta only [keeps_upd] | split | dsimp only

theorem execCellVoltageResult_answers {ro : Bool} {z s : State} (h : Keeps ro z s) (raw : Nat) (rawB : Nat) : Answers ro z (execCellVoltageResult raw rawB s) := by
  unfold execCellVoltageResult
  repeat' first
    | first | with_reducible assumption | with_reducible apply State.inStake_answers
    | with_reducible apply State.cellTaken_keeps | with_reducible apply State.advance_keeps
    | with_reducible apply State.hold_keeps | with_reducible apply State.cellResult_keeps | with_reducible apply answers_next
    | with_reducible apply keeps_ite | with_reducible apply keeps_foldl | with_reducible apply keeps_foldl_snd | intro _
    | extract_lets | simp -zeta only [keeps_upd] | split | dsimp only

theorem execOgLoad_answers {ro : Bool} {z s : State} (h : Keeps ro z s) (n : Nat) (v : Nat) : Answers ro z (execOgLoad n v s) := by
  unfold execOgLoad
  repeat' first
    | first | with_reducible assumption | with_reducible apply State.byWrite_answers | with_reducible apply wrOgLoad_keeps
    | with_reducible apply answers_next | with_reducible apply keeps_ite | with_reducible apply keeps_foldl
    | with_reducible apply keeps_foldl_snd | intro _ | extract_lets | simp -zeta only [keeps_upd] | split | dsimp only

theorem execInjArm_answers {ro : Bool} {z s : State} (h : Keeps ro z s) (g : Nat) : Answers ro z (execInjArm g s) := by
  unfold execInjArm
  repeat' first
    | first | with_reducible assumption | with_reducible apply State.byWrite_answers | with_reducible apply wrInjArm_keeps
    | with_reducible apply answers_next | with_reducible apply keeps_ite | with_reducible apply keeps_foldl
    | with_reducible apply keeps_foldl_snd | intro _ | extract_lets | simp -zeta only [keeps_upd] | split | dsimp only

theorem execInjStop_answers {ro : Bool} {z s : State} (h : Keeps ro z s) (g : Nat) : Answers ro z (execInjStop g s) := by
  unfold execInjStop
  repeat' first
    | first | with_reducible assumption | with_reducible apply State.byWrite_answers | with_reducible apply State.put_keeps
    | with_reducible apply answers_next | with_reducible apply keeps_ite | with_reducible apply keeps_foldl
    | with_reducible apply keeps_foldl_snd | intro _ | extract_lets | simp -zeta only [keeps_upd] | split | dsimp only

theorem execInjRunStart_answers {ro : Bool} {z s : State} (h : Keeps ro z s) : Answers ro z (execInjRunStart s) := by
  unfold execInjRunStart
  repeat' first
    | first | with_reducible assumption | with_reducible apply State.inDatum_answers | with_reducible apply State.put_keeps
    | with_reducible apply State.count_keeps | with_reducible apply answers_next | with_reducible apply keeps_ite
    | with_reducible apply keeps_foldl | with_reducible apply keeps_foldl_snd | intro _ | extract_lets
    | simp -zeta only [keeps_upd] | split | dsimp only

theorem execInjRunEnd_answers {ro : Bool} {z s : State} (h : Keeps ro z s) : Answers ro z (execInjRunEnd s) := by
  unfold execInjRunEnd
  repeat' first
    | first | with_reducible assumption | with_reducible apply State.inDatum_answers | with_reducible apply State.put_keeps
    | with_reducible apply answers_next | with_reducible apply keeps_ite | with_reducible apply keeps_foldl
    | with_reducible apply keeps_foldl_snd | intro _ | extract_lets | simp -zeta only [keeps_upd] | split | dsimp only

theorem execRcPeriodChange_answers {z s : State} (h : Keeps false z s) : Answers false z (execRcPeriodChange s) := by
  unfold execRcPeriodChange
  repeat' first
    | first | with_reducible assumption | with_reducible apply State.inDatum_answers
    | with_reducible apply State.rcResample_keeps | with_reducible apply State.rcPut_keeps | with_reducible apply answers_next
    | with_reducible apply keeps_ite | with_reducible apply keeps_foldl | with_reducible apply keeps_foldl_snd | intro _
    | extract_lets | simp -zeta only [keeps_upd] | split | dsimp only

theorem execPlausibilityFail_answers {ro : Bool} {z s : State} (h : Keeps ro z s) : Answers ro z (execPlausibilityFail s) := by
  unfold execPlausibilityFail
  repeat' first
    | first | with_reducible assumption | with_reducible apply State.inDatum_answers | with_reducible apply State.put_keeps
    | with_reducible apply State.raiseSpare_keeps | with_reducible apply answers_next | with_reducible apply keeps_ite
    | with_reducible apply keeps_foldl | with_reducible apply keeps_foldl_snd | intro _ | extract_lets
    | simp -zeta only [keeps_upd] | split | dsimp only

theorem execTrackerLockChange_answers {ro : Bool} {z s : State} (h : Keeps ro z s) : Answers ro z (execTrackerLockChange s) := by
  unfold execTrackerLockChange
  repeat' first
    | first | with_reducible assumption | with_reducible apply State.inDatum_answers | with_reducible apply State.put_keeps
    | with_reducible apply State.dropLock_keeps | with_reducible apply answers_next | with_reducible apply keeps_ite
    | with_reducible apply keeps_foldl | with_reducible apply keeps_foldl_snd | intro _ | extract_lets
    | simp -zeta only [keeps_upd] | split | dsimp only

theorem execUnrankedLimit_answers {ro : Bool} {z s : State} (h : Keeps ro z s) : Answers ro z (execUnrankedLimit s) := by
  unfold execUnrankedLimit
  repeat' first
    | first | with_reducible assumption | with_reducible apply State.inStake_answers | with_reducible apply State.raise_keeps
    | with_reducible apply answers_next | with_reducible apply keeps_ite | with_reducible apply keeps_foldl
    | with_reducible apply keeps_foldl_snd | intro _ | extract_lets | simp -zeta only [keeps_upd] | split | dsimp only

theorem execTrimEnd_answers {ro : Bool} {z s : State} (h : Keeps ro z s) : Answers ro z (execTrimEnd s) := by
  unfold execTrimEnd
  repeat' first
    | first | with_reducible assumption | with_reducible apply State.inStake_answers
    | with_reducible apply State.advance_keeps | with_reducible apply State.count_keeps
    | with_reducible apply State.changeCell_keeps | with_reducible apply answers_next | with_reducible apply keeps_ite
    | with_reducible apply keeps_foldl | with_reducible apply keeps_foldl_snd | intro _ | extract_lets
    | simp -zeta only [keeps_upd] | split | dsimp only

theorem execLevellingSelectDone_answers {ro : Bool} {z s : State} (h : Keeps ro z s) (a : Nat) : Answers ro z (execLevellingSelectDone a s) := by
  unfold execLevellingSelectDone
  repeat' first
    | first | with_reducible assumption | with_reducible apply State.inDatum_answers
    | with_reducible apply State.finishSelect_keeps | with_reducible apply answers_next | with_reducible apply keeps_ite
    | with_reducible apply keeps_foldl | with_reducible apply keeps_foldl_snd | intro _ | extract_lets
    | simp -zeta only [keeps_upd] | split | dsimp only

theorem execOrderPost_answers {ro : Bool} {z s : State} (h : Keeps ro z s) (a : Nat) (n : Nat) (dir : Bool) (frac : Nat) : Answers ro z (execOrderPost a n dir frac s) := by
  unfold execOrderPost
  repeat' first
    | first | with_reducible assumption | with_reducible apply State.written_answers
    | with_reducible apply State.release1_keeps | with_reducible apply answers_next | with_reducible apply keeps_ite
    | with_reducible apply keeps_foldl | with_reducible apply keeps_foldl_snd | intro _ | extract_lets
    | simp -zeta only [keeps_upd] | split | dsimp only

theorem execAbsentMark_answers {ro : Bool} {z s : State} (h : Keeps ro z s) : Answers ro z (execAbsentMark s) := by
  unfold execAbsentMark
  repeat' first
    | first | with_reducible assumption | with_reducible apply State.inDatum_answers
    | with_reducible apply State.finishSelect_keeps | with_reducible apply State.setArm_keeps
    | with_reducible apply State.markAbsent_keeps | with_reducible apply answers_next | with_reducible apply keeps_ite
    | with_reducible apply keeps_foldl | with_reducible apply keeps_foldl_snd | intro _ | extract_lets
    | simp -zeta only [keeps_upd] | split | dsimp only

theorem execRestBandEntry_answers {ro : Bool} {z s : State} (h : Keeps ro z s) : Answers ro z (execRestBandEntry s) := by
  unfold execRestBandEntry
  repeat' first
    | first | with_reducible assumption | with_reducible apply State.inDatum_answers
    | with_reducible apply State.setRest_keeps | with_reducible apply answers_next | with_reducible apply keeps_ite
    | with_reducible apply keeps_foldl | with_reducible apply keeps_foldl_snd | intro _ | extract_lets
    | simp -zeta only [keeps_upd] | split | dsimp only

theorem execDeviationPersist_answers {ro : Bool} {z s : State} (h : Keeps ro z s) : Answers ro z (execDeviationPersist s) := by
  unfold execDeviationPersist
  repeat' first
    | first | with_reducible assumption | with_reducible apply State.inDatum_answers | with_reducible apply State.setArm_keeps
    | with_reducible apply State.raise_keeps | with_reducible apply answers_next | with_reducible apply keeps_ite
    | with_reducible apply keeps_foldl | with_reducible apply keeps_foldl_snd | intro _ | extract_lets
    | simp -zeta only [keeps_upd] | split | dsimp only

theorem execMatchWindowExpiry_answers {ro : Bool} {z s : State} (h : Keeps ro z s) : Answers ro z (execMatchWindowExpiry s) := by
  unfold execMatchWindowExpiry
  repeat' first
    | first | with_reducible assumption | with_reducible apply State.inDatum_answers
    | with_reducible apply State.loseMatch_keeps | with_reducible apply answers_next | with_reducible apply keeps_ite
    | with_reducible apply keeps_foldl | with_reducible apply keeps_foldl_snd | intro _ | extract_lets
    | simp -zeta only [keeps_upd] | split | dsimp only

theorem execMatchAcquire_answers {ro : Bool} {z s : State} (h : Keeps ro z s) : Answers ro z (execMatchAcquire s) := by
  unfold execMatchAcquire
  repeat' first
    | first | with_reducible assumption | with_reducible apply State.inDatum_answers | with_reducible apply State.put_keeps
    | with_reducible apply answers_next | with_reducible apply keeps_ite | with_reducible apply keeps_foldl
    | with_reducible apply keeps_foldl_snd | intro _ | extract_lets | simp -zeta only [keeps_upd] | split | dsimp only

theorem execDigestReceive_answers {ro : Bool} {z s : State} (h : Keeps ro z s) (m : Digest) (ok : Bool) : Answers ro z (execDigestReceive m ok s) := by
  unfold execDigestReceive
  repeat' first
    | first | with_reducible assumption | with_reducible apply State.twinMsg_answers | with_reducible apply State.count_keeps
    | with_reducible apply State.compareDigest_keeps | with_reducible apply answers_next | with_reducible apply keeps_ite
    | with_reducible apply keeps_foldl | with_reducible apply keeps_foldl_snd | intro _ | extract_lets
    | simp -zeta only [keeps_upd] | split | dsimp only

theorem execSummaryReceive_answers {ro : Bool} {z s : State} (h : Keeps ro z s) (tick : Nat) (arms : List Summary) (ok : Bool) : Answers ro z (execSummaryReceive tick arms ok s) := by
  unfold execSummaryReceive
  repeat' first
    | first | with_reducible assumption | with_reducible apply State.twinMsg_answers | with_reducible apply State.setArm_keeps
    | with_reducible apply State.routeEvent_keeps | with_reducible apply answers_next | with_reducible apply keeps_ite
    | with_reducible apply keeps_foldl | with_reducible apply keeps_foldl_snd | intro _ | extract_lets
    | simp -zeta only [keeps_upd] | split | dsimp only

theorem execTwinSilence_answers {ro : Bool} {z s : State} (h : Keeps ro z s) : Answers ro z (execTwinSilence s) := by
  unfold execTwinSilence
  repeat' first
    | first | with_reducible assumption | with_reducible apply State.inDatum_answers
    | with_reducible apply State.claimNext_keeps | with_reducible apply answers_next | with_reducible apply keeps_ite
    | with_reducible apply keeps_foldl | with_reducible apply keeps_foldl_snd | intro _ | extract_lets
    | simp -zeta only [keeps_upd] | split | dsimp only

theorem execClaimTimeout_answers {ro : Bool} {z s : State} (h : Keeps ro z s) : Answers ro z (execClaimTimeout s) := by
  unfold execClaimTimeout
  repeat' first
    | first | with_reducible assumption | with_reducible apply State.inDatum_answers | with_reducible apply State.raise_keeps
    | with_reducible apply answers_next | with_reducible apply keeps_ite | with_reducible apply keeps_foldl
    | with_reducible apply keeps_foldl_snd | intro _ | extract_lets | simp -zeta only [keeps_upd] | split | dsimp only

theorem execHandoverWrite_answers {ro : Bool} {z s : State} (h : Keeps ro z s) : Answers ro z (execHandoverWrite s) := by
  unfold execHandoverWrite
  repeat' first
    | first | with_reducible assumption | with_reducible apply State.byWrite_answers | with_reducible apply wrHandover_keeps
    | with_reducible apply answers_next | with_reducible apply keeps_ite | with_reducible apply keeps_foldl
    | with_reducible apply keeps_foldl_snd | intro _ | extract_lets | simp -zeta only [keeps_upd] | split | dsimp only

theorem execRevertHoldExpiry_answers {ro : Bool} {z s : State} (h : Keeps ro z s) : Answers ro z (execRevertHoldExpiry s) := by
  unfold execRevertHoldExpiry
  repeat' first
    | first | with_reducible assumption | with_reducible apply State.inDatum_answers
    | with_reducible apply State.requestHandover_keeps | with_reducible apply answers_next | with_reducible apply keeps_ite
    | with_reducible apply keeps_foldl | with_reducible apply keeps_foldl_snd | intro _ | extract_lets
    | simp -zeta only [keeps_upd] | split | dsimp only

theorem execHandoverRelease_answers {ro : Bool} {z s : State} (h : Keeps ro z s) : Answers ro z (execHandoverRelease s) := by
  unfold execHandoverRelease
  repeat' first
    | first | with_reducible assumption | with_reducible apply State.inDatum_answers
    | with_reducible apply State.endHandover_keeps | with_reducible apply State.enterLease_keeps
    | with_reducible apply answers_next | with_reducible apply keeps_ite | with_reducible apply keeps_foldl
    | with_reducible apply keeps_foldl_snd | intro _ | extract_lets | simp -zeta only [keeps_upd] | split | dsimp only

theorem execHandoverClaim_answers {ro : Bool} {z s : State} (h : Keeps ro z s) : Answers ro z (execHandoverClaim s) := by
  unfold execHandoverClaim
  repeat' first
    | first | with_reducible assumption | with_reducible apply State.inDatum_answers
    | with_reducible apply State.endHandover_keeps | with_reducible apply State.enterLease_keeps
    | with_reducible apply answers_next | with_reducible apply keeps_ite | with_reducible apply keeps_foldl
    | with_reducible apply keeps_foldl_snd | intro _ | extract_lets | simp -zeta only [keeps_upd] | split | dsimp only

theorem execJoinWrite_answers {ro : Bool} {z s : State} (h : Keeps ro z s) : Answers ro z (execJoinWrite s) := by
  unfold execJoinWrite
  repeat' first
    | first | with_reducible assumption | with_reducible apply State.byWrite_answers | with_reducible apply wrJoin_keeps
    | with_reducible apply answers_next | with_reducible apply keeps_ite | with_reducible apply keeps_foldl
    | with_reducible apply keeps_foldl_snd | intro _ | extract_lets | simp -zeta only [keeps_upd] | split | dsimp only

theorem execJoinTimeout_answers {ro : Bool} {z s : State} (h : Keeps ro z s) : Answers ro z (execJoinTimeout s) := by
  unfold execJoinTimeout
  repeat' first
    | first | with_reducible assumption | with_reducible apply State.inDatum_answers
    | with_reducible apply State.abandonJoin_keeps | with_reducible apply answers_next | with_reducible apply keeps_ite
    | with_reducible apply keeps_foldl | with_reducible apply keeps_foldl_snd | intro _ | extract_lets
    | simp -zeta only [keeps_upd] | split | dsimp only

theorem execJoinComplete_answers {ro : Bool} {z s : State} (h : Keeps ro z s) : Answers ro z (execJoinComplete s) := by
  unfold execJoinComplete
  repeat' first
    | first | with_reducible assumption | with_reducible apply State.inDatum_answers | with_reducible apply State.joined_keeps
    | with_reducible apply answers_next | with_reducible apply keeps_ite | with_reducible apply keeps_foldl
    | with_reducible apply keeps_foldl_snd | intro _ | extract_lets | simp -zeta only [keeps_upd] | split | dsimp only

theorem execStateReceive_answers {z s : State} (h : Keeps false z s) (m : StateMsg) (ok : Bool) : Answers false z (execStateReceive m ok s) := by
  unfold execStateReceive
  repeat' first
    | first | with_reducible assumption | with_reducible apply State.twinMsg_answers
    | with_reducible apply State.writeState_keeps | with_reducible apply State.joinState_keeps
    | with_reducible apply State.compareState_keeps | with_reducible apply answers_next | with_reducible apply keeps_ite
    | with_reducible apply keeps_foldl | with_reducible apply keeps_foldl_snd | intro _ | extract_lets
    | simp -zeta only [keeps_upd] | split | dsimp only

theorem execSweepSend_answers {ro : Bool} {z s : State} (h : Keeps ro z s) : Answers ro z (execSweepSend s) := by
  unfold execSweepSend
  repeat' first
    | first | with_reducible assumption | with_reducible apply State.inDatum_answers
    | with_reducible apply State.twinSend_keeps | with_reducible apply State.badWords_keeps
    | with_reducible apply answers_next | with_reducible apply keeps_ite | with_reducible apply keeps_foldl
    | with_reducible apply keeps_foldl_snd | intro _ | extract_lets | simp -zeta only [keeps_upd] | split | dsimp only

theorem execSweepReceive_answers {z s : State} (h : Keeps false z s) (addr : Nat) (bytes : List Nat) (ok : Bool) : Answers false z (execSweepReceive addr bytes ok s) := by
  unfold execSweepReceive
  repeat' first
    | first | with_reducible assumption | with_reducible apply State.twinMsg_answers
    | with_reducible apply State.putLines_keeps | with_reducible apply answers_next | with_reducible apply keeps_ite
    | with_reducible apply keeps_foldl | with_reducible apply keeps_foldl_snd | intro _ | extract_lets
    | simp -zeta only [keeps_upd] | split | dsimp only

theorem execControlReceive_answers {ro : Bool} {z s : State} (h : Keeps ro z s) (m : Control) (ok : Bool) : Answers ro z (execControlReceive m ok s) := by
  unfold execControlReceive
  repeat' first
    | first | with_reducible assumption | with_reducible apply State.twinMsg_answers
    | with_reducible apply State.agreeHandover_keeps | with_reducible apply State.control_keeps
    | with_reducible apply State.put_keeps | with_reducible apply answers_next | with_reducible apply keeps_ite
    | with_reducible apply keeps_foldl | with_reducible apply keeps_foldl_snd | intro _ | extract_lets
    | simp -zeta only [keeps_upd] | split | dsimp only

theorem execHeartbeatLoss_answers {ro : Bool} {z s : State} (h : Keeps ro z s) : Answers ro z (execHeartbeatLoss s) := by
  unfold execHeartbeatLoss
  repeat' first
    | first | with_reducible assumption | with_reducible apply State.inDatum_answers
    | with_reducible apply State.loseHeartbeat_keeps | with_reducible apply answers_next | with_reducible apply keeps_ite
    | with_reducible apply keeps_foldl | with_reducible apply keeps_foldl_snd | intro _ | extract_lets
    | simp -zeta only [keeps_upd] | split | dsimp only

theorem execHeartbeatReceive_answers {ro : Bool} {z s : State} (h : Keeps ro z s) (m : Heartbeat) (at' : Nat) (ok : Bool) : Answers ro z (execHeartbeatReceive m at' ok s) := by
  unfold execHeartbeatReceive
  repeat' first
    | first | with_reducible assumption | with_reducible apply State.twinMsg_answers
    | with_reducible apply State.heartbeatId_keeps | with_reducible apply State.put_keeps
    | with_reducible apply State.putB_keeps | with_reducible apply State.heartbeatLease_keeps
    | with_reducible apply State.heartbeatMode_keeps | with_reducible apply State.heartbeatJoin_keeps
    | with_reducible apply State.heartbeatAlign_keeps | with_reducible apply answers_next | with_reducible apply keeps_ite
    | with_reducible apply keeps_foldl | with_reducible apply keeps_foldl_snd | intro _ | extract_lets
    | simp -zeta only [keeps_upd] | split | dsimp only

theorem execShareReceive_answers {z s : State} (h : Keeps false z s) (m : Share) (ok : Bool) : Answers false z (execShareReceive m ok s) := by
  unfold execShareReceive
  repeat' first
    | first | with_reducible assumption | with_reducible apply State.twinMsg_answers
    | with_reducible apply State.copyResults_keeps | with_reducible apply State.routeEvent_keeps
    | with_reducible apply answers_next | with_reducible apply keeps_ite | with_reducible apply keeps_foldl
    | with_reducible apply keeps_foldl_snd | intro _ | extract_lets | simp -zeta only [keeps_upd] | split | dsimp only

theorem execShareTimeout_answers {z s : State} (h : Keeps false z s) (n : Nat) : Answers false z (execShareTimeout n s) := by
  unfold execShareTimeout
  repeat' first
    | first | with_reducible assumption | with_reducible apply State.inDatum_answers
    | with_reducible apply State.advance_keeps | with_reducible apply State.count_keeps
    | with_reducible apply State.copyResults_keeps | with_reducible apply answers_next | with_reducible apply keeps_ite
    | with_reducible apply keeps_foldl | with_reducible apply keeps_foldl_snd | intro _ | extract_lets
    | simp -zeta only [keeps_upd] | split | dsimp only

theorem execAdcPassEnd_answers {z s : State} (h : Keeps false z s) (n : Nat) (raw : List Nat) (rawB : List Nat) : Answers false z (execAdcPassEnd n raw rawB s) := by
  unfold execAdcPassEnd
  repeat' first
    | first | with_reducible assumption | with_reducible apply State.inRun_answers | with_reducible apply State.advance_keeps
    | with_reducible apply State.passEnd_keeps | with_reducible apply answers_next | with_reducible apply keeps_ite
    | with_reducible apply keeps_foldl | with_reducible apply keeps_foldl_snd | intro _ | extract_lets
    | simp -zeta only [keeps_upd] | split | dsimp only

theorem execAuxPulseStart_answers {ro : Bool} {z s : State} (h : Keeps ro z s) : Answers ro z (execAuxPulseStart s) := by
  unfold execAuxPulseStart
  repeat' first
    | first | with_reducible assumption | with_reducible apply State.onAux_answers | with_reducible apply State.advance_keeps
    | with_reducible apply State.auxPeriod_keeps | with_reducible apply answers_next | with_reducible apply keeps_ite
    | with_reducible apply keeps_foldl | with_reducible apply keeps_foldl_snd | intro _ | extract_lets
    | simp -zeta only [keeps_upd] | split | dsimp only

theorem execAuxPulseEnd_answers {ro : Bool} {z s : State} (h : Keeps ro z s) : Answers ro z (execAuxPulseEnd s) := by
  unfold execAuxPulseEnd
  repeat' first
    | first | with_reducible assumption | with_reducible apply State.onAux_answers | with_reducible apply State.advance_keeps
    | with_reducible apply State.auxOff_keeps | with_reducible apply answers_next | with_reducible apply keeps_ite
    | with_reducible apply keeps_foldl | with_reducible apply keeps_foldl_snd | intro _ | extract_lets
    | simp -zeta only [keeps_upd] | split | dsimp only

theorem execAuxfltCut_answers {ro : Bool} {z s : State} (h : Keeps ro z s) (at' : Nat) : Answers ro z (execAuxfltCut at' s) := by
  unfold execAuxfltCut
  repeat' first
    | first | with_reducible assumption | with_reducible apply State.inStake_answers
    | with_reducible apply State.advance_keeps | with_reducible apply State.put_keeps
    | with_reducible apply State.auxOff_keeps | with_reducible apply State.auxCutNow_keeps | with_reducible apply answers_next
    | with_reducible apply keeps_ite | with_reducible apply keeps_foldl | with_reducible apply keeps_foldl_snd | intro _
    | extract_lets | simp -zeta only [keeps_upd] | split | dsimp only

theorem execAuxfltFall_answers {ro : Bool} {z s : State} (h : Keeps ro z s) : Answers ro z (execAuxfltFall s) := by
  unfold execAuxfltFall
  repeat' first
    | first | with_reducible assumption | with_reducible apply State.inStake_answers | with_reducible apply State.put_keeps
    | with_reducible apply answers_next | with_reducible apply keeps_ite | with_reducible apply keeps_foldl
    | with_reducible apply keeps_foldl_snd | intro _ | extract_lets | simp -zeta only [keeps_upd] | split | dsimp only

theorem execAuxCutLimit_answers {ro : Bool} {z s : State} (h : Keeps ro z s) : Answers ro z (execAuxCutLimit s) := by
  unfold execAuxCutLimit
  repeat' first
    | first | with_reducible assumption | with_reducible apply State.inStake_answers | with_reducible apply State.raise_keeps
    | with_reducible apply answers_next | with_reducible apply keeps_ite | with_reducible apply keeps_foldl
    | with_reducible apply keeps_foldl_snd | intro _ | extract_lets | simp -zeta only [keeps_upd] | split | dsimp only

theorem execAuxdemChange_answers {ro : Bool} {z s : State} (h : Keeps ro z s) (high : Bool) : Answers ro z (execAuxdemChange high s) := by
  unfold execAuxdemChange
  repeat' first
    | first | with_reducible assumption | with_reducible apply State.inStake_answers | with_reducible apply State.putB_keeps
    | with_reducible apply answers_next | with_reducible apply keeps_ite | with_reducible apply keeps_foldl
    | with_reducible apply keeps_foldl_snd | intro _ | extract_lets | simp -zeta only [keeps_upd] | split | dsimp only

theorem execAuxsyncEdge_answers {ro : Bool} {z s : State} (h : Keeps ro z s) (at' : Nat) : Answers ro z (execAuxsyncEdge at' s) := by
  unfold execAuxsyncEdge
  repeat' first
    | first | with_reducible assumption | with_reducible apply State.onAux_answers | with_reducible apply State.advance_keeps
    | with_reducible apply State.acceptEdge_keeps | with_reducible apply State.count_keeps | with_reducible apply answers_next
    | with_reducible apply keeps_ite | with_reducible apply keeps_foldl | with_reducible apply keeps_foldl_snd | intro _
    | extract_lets | simp -zeta only [keeps_upd] | split | dsimp only

theorem execSyncInstant_answers {ro : Bool} {z s : State} (h : Keeps ro z s) : Answers ro z (execSyncInstant s) := by
  unfold execSyncInstant
  repeat' first
    | first | with_reducible assumption | with_reducible apply State.onAux_answers | with_reducible apply State.advance_keeps
    | with_reducible apply State.emit_keeps | with_reducible apply State.syncPulse_keeps | with_reducible apply answers_next
    | with_reducible apply keeps_ite | with_reducible apply keeps_foldl | with_reducible apply keeps_foldl_snd | intro _
    | extract_lets | simp -zeta only [keeps_upd] | split | dsimp only

theorem execSyncLoss_answers {ro : Bool} {z s : State} (h : Keeps ro z s) : Answers ro z (execSyncLoss s) := by
  unfold execSyncLoss
  repeat' first
    | first | with_reducible assumption | with_reducible apply State.onAux_answers | with_reducible apply State.advance_keeps
    | with_reducible apply State.put_keeps | with_reducible apply State.count_keeps | with_reducible apply State.raise_keeps
    | with_reducible apply answers_next | with_reducible apply keeps_ite | with_reducible apply keeps_foldl
    | with_reducible apply keeps_foldl_snd | intro _ | extract_lets | simp -zeta only [keeps_upd] | split | dsimp only

theorem execDrRow_answers {ro : Bool} {z s : State} (h : Keeps ro z s) (dropped : Bool) (late : List Nat) : Answers ro z (execDrRow dropped late s) := by
  unfold execDrRow
  repeat' first
    | first | with_reducible assumption | with_reducible apply State.inRun_answers | with_reducible apply State.rowTaken_keeps
    | with_reducible apply State.takeRow_keeps | with_reducible apply State.dropRow_keeps
    | with_reducible apply State.keepRow_keeps | with_reducible apply answers_next | with_reducible apply keeps_ite
    | with_reducible apply keeps_foldl | with_reducible apply keeps_foldl_snd | intro _ | extract_lets
    | simp -zeta only [keeps_upd] | split | dsimp only

theorem execDrArm_answers {ro : Bool} {z s : State} (h : Keeps ro z s) : Answers ro z (execDrArm s) := by
  unfold execDrArm
  repeat' first
    | first | with_reducible assumption | with_reducible apply State.byWrite_answers | with_reducible apply wrDrArm_keeps
    | with_reducible apply answers_next | with_reducible apply keeps_ite | with_reducible apply keeps_foldl
    | with_reducible apply keeps_foldl_snd | intro _ | extract_lets | simp -zeta only [keeps_upd] | split | dsimp only

theorem execDrStop_answers {ro : Bool} {z s : State} (h : Keeps ro z s) : Answers ro z (execDrStop s) := by
  unfold execDrStop
  repeat' first
    | first | with_reducible assumption | with_reducible apply State.byWrite_answers | with_reducible apply wrDrStop_keeps
    | with_reducible apply answers_next | with_reducible apply keeps_ite | with_reducible apply keeps_foldl
    | with_reducible apply keeps_foldl_snd | intro _ | extract_lets | simp -zeta only [keeps_upd] | split | dsimp only

theorem execDrSwtrig_answers {ro : Bool} {z s : State} (h : Keeps ro z s) : Answers ro z (execDrSwtrig s) := by
  unfold execDrSwtrig
  repeat' first
    | first | with_reducible assumption | with_reducible apply State.byWrite_answers | with_reducible apply wrSwTrig_keeps
    | with_reducible apply answers_next | with_reducible apply keeps_ite | with_reducible apply keeps_foldl
    | with_reducible apply keeps_foldl_snd | intro _ | extract_lets | simp -zeta only [keeps_upd] | split | dsimp only

theorem execDrRelease_answers {ro : Bool} {z s : State} (h : Keeps ro z s) (rnum : Nat) : Answers ro z (execDrRelease rnum s) := by
  unfold execDrRelease
  repeat' first
    | first | with_reducible assumption | with_reducible apply State.byWrite_answers | with_reducible apply wrDrRelease_keeps
    | with_reducible apply answers_next | with_reducible apply keeps_ite | with_reducible apply keeps_foldl
    | with_reducible apply keeps_foldl_snd | intro _ | extract_lets | simp -zeta only [keeps_upd] | split | dsimp only

theorem execStreamChunk_answers {ro : Bool} {z s : State} (h : Keeps ro z s) (ecc : Nat) : Answers ro z (execStreamChunk ecc s) := by
  unfold execStreamChunk
  repeat' first
    | first | with_reducible assumption | with_reducible apply State.inDatum_answers | with_reducible apply State.put_keeps
    | with_reducible apply State.emit_keeps | with_reducible apply State.ringChunk_keeps
    | with_reducible apply State.drEcc_keeps | with_reducible apply State.streamEnd_keeps | with_reducible apply answers_next
    | with_reducible apply keeps_ite | with_reducible apply keeps_foldl | with_reducible apply keeps_foldl_snd | intro _
    | extract_lets | simp -zeta only [keeps_upd] | split | dsimp only

theorem execGcmdRefresh_answers {ro : Bool} {z s : State} (h : Keeps ro z s) (n : Nat) : Answers ro z (execGcmdRefresh n s) := by
  unfold execGcmdRefresh
  repeat' first
    | first | with_reducible assumption | with_reducible apply State.inStake_answers
    | with_reducible apply State.advance_keeps | with_reducible apply State.setChan_keeps
    | with_reducible apply State.emitSym_keeps | with_reducible apply answers_next | with_reducible apply keeps_ite
    | with_reducible apply keeps_foldl | with_reducible apply keeps_foldl_snd | intro _ | extract_lets
    | simp -zeta only [keeps_upd] | split | dsimp only

theorem execSetsSend_answers {ro : Bool} {z s : State} (h : Keeps ro z s) (n : Nat) (reg : Nat) : Answers ro z (execSetsSend n reg s) := by
  unfold execSetsSend
  repeat' first
    | first | with_reducible assumption | with_reducible apply State.inStake_answers
    | with_reducible apply State.setChan_keeps | with_reducible apply State.emitSym_keeps
    | with_reducible apply State.tryReady_keeps | with_reducible apply answers_next | with_reducible apply keeps_ite
    | with_reducible apply keeps_foldl | with_reducible apply keeps_foldl_snd | intro _ | extract_lets
    | simp -zeta only [keeps_upd] | split | dsimp only

theorem execGfbStatusWord_answers {ro : Bool} {z s : State} (h : Keeps ro z s) (n : Nat) (chips : Nat) : Answers ro z (execGfbStatusWord n chips s) := by
  unfold execGfbStatusWord
  repeat' first
    | first | with_reducible assumption | with_reducible apply State.inStake_answers
    | with_reducible apply State.setChan_keeps | with_reducible apply State.put_keeps
    | with_reducible apply State.testWord_keeps | with_reducible apply State.tryReady_keeps
    | with_reducible apply State.count_keeps | with_reducible apply answers_next | with_reducible apply keeps_ite
    | with_reducible apply keeps_foldl | with_reducible apply keeps_foldl_snd | intro _ | extract_lets
    | simp -zeta only [keeps_upd] | split | dsimp only

theorem execWordLockChange_answers {ro : Bool} {z s : State} (h : Keeps ro z s) (n : Nat) : Answers ro z (execWordLockChange n s) := by
  unfold execWordLockChange
  repeat' first
    | first | with_reducible assumption | with_reducible apply State.inStake_answers | with_reducible apply State.put_keeps
    | with_reducible apply State.tryReady_keeps | with_reducible apply State.feedbackFault_keeps
    | with_reducible apply answers_next | with_reducible apply keeps_ite | with_reducible apply keeps_foldl
    | with_reducible apply keeps_foldl_snd | intro _ | extract_lets | simp -zeta only [keeps_upd] | split | dsimp only

theorem execEdgeHold_answers {ro : Bool} {z s : State} (h : Keeps ro z s) (n : Nat) (ns : Nat) (len : Nat) : Answers ro z (execEdgeHold n ns len s) := by
  unfold execEdgeHold
  repeat' first
    | first | with_reducible assumption | with_reducible apply State.inStake_answers
    | with_reducible apply State.setChan_keeps | with_reducible apply State.put_keeps | with_reducible apply State.adapt_keeps
    | with_reducible apply answers_next | with_reducible apply keeps_ite | with_reducible apply keeps_foldl
    | with_reducible apply keeps_foldl_snd | intro _ | extract_lets | simp -zeta only [keeps_upd] | split | dsimp only

theorem execStrengthLimitFault_answers {ro : Bool} {z s : State} (h : Keeps ro z s) (n : Nat) : Answers ro z (execStrengthLimitFault n s) := by
  unfold execStrengthLimitFault
  repeat' first
    | first | with_reducible assumption | with_reducible apply State.inStake_answers
    | with_reducible apply State.setChan_keeps | with_reducible apply State.raise_keeps | with_reducible apply answers_next
    | with_reducible apply keeps_ite | with_reducible apply keeps_foldl | with_reducible apply keeps_foldl_snd | intro _
    | extract_lets | simp -zeta only [keeps_upd] | split | dsimp only

theorem execMarkerWindowExpiry_answers {ro : Bool} {z s : State} (h : Keeps ro z s) (n : Nat) : Answers ro z (execMarkerWindowExpiry n s) := by
  unfold execMarkerWindowExpiry
  repeat' first
    | first | with_reducible assumption | with_reducible apply State.inStake_answers
    | with_reducible apply State.setChan_keeps | with_reducible apply State.count_keeps | with_reducible apply answers_next
    | with_reducible apply keeps_ite | with_reducible apply keeps_foldl | with_reducible apply keeps_foldl_snd | intro _
    | extract_lets | simp -zeta only [keeps_upd] | split | dsimp only

theorem execDesatTrip_answers {ro : Bool} {z s : State} (h : Keeps ro z s) (n : Nat) : Answers ro z (execDesatTrip n s) := by
  unfold execDesatTrip
  repeat' first
    | first | with_reducible assumption | with_reducible apply State.inStake_answers
    | with_reducible apply State.testSees_keeps | with_reducible apply State.trip_keeps | with_reducible apply answers_next
    | with_reducible apply keeps_ite | with_reducible apply keeps_foldl | with_reducible apply keeps_foldl_snd | intro _
    | extract_lets | simp -zeta only [keeps_upd] | split | dsimp only

theorem execDesatGlitch_answers {ro : Bool} {z s : State} (h : Keeps ro z s) (n : Nat) (len : Nat) : Answers ro z (execDesatGlitch n len s) := by
  unfold execDesatGlitch
  repeat' first
    | first | with_reducible assumption | with_reducible apply State.inStake_answers
    | with_reducible apply State.testSees_keeps | with_reducible apply State.count_keeps | with_reducible apply answers_next
    | with_reducible apply keeps_ite | with_reducible apply keeps_foldl | with_reducible apply keeps_foldl_snd | intro _
    | extract_lets | simp -zeta only [keeps_upd] | split | dsimp only

theorem execLossHold_answers {ro : Bool} {z s : State} (h : Keeps ro z s) (n : Nat) (len : Nat) : Answers ro z (execLossHold n len s) := by
  unfold execLossHold
  repeat' first
    | first | with_reducible assumption | with_reducible apply State.inStake_answers
    | with_reducible apply State.setChan_keeps | with_reducible apply State.put_keeps
    | with_reducible apply State.feedbackFault_keeps | with_reducible apply answers_next | with_reducible apply keeps_ite
    | with_reducible apply keeps_foldl | with_reducible apply keeps_foldl_snd | intro _ | extract_lets
    | simp -zeta only [keeps_upd] | split | dsimp only

theorem execFeedbackFault_answers {ro : Bool} {z s : State} (h : Keeps ro z s) (n : Nat) : Answers ro z (execFeedbackFault n s) := by
  unfold execFeedbackFault
  repeat' first
    | first | with_reducible assumption | with_reducible apply State.inStake_answers
    | with_reducible apply State.feedbackFault_keeps | with_reducible apply answers_next | with_reducible apply keeps_ite
    | with_reducible apply keeps_foldl | with_reducible apply keeps_foldl_snd | intro _ | extract_lets
    | simp -zeta only [keeps_upd] | split | dsimp only

theorem execTripWaitExpiry_answers {ro : Bool} {z s : State} (h : Keeps ro z s) (n : Nat) : Answers ro z (execTripWaitExpiry n s) := by
  unfold execTripWaitExpiry
  repeat' first
    | first | with_reducible assumption | with_reducible apply State.inStake_answers | with_reducible apply State.put_keeps
    | with_reducible apply State.updPblk_keeps | with_reducible apply State.refollow_keeps | with_reducible apply answers_next
    | with_reducible apply keeps_ite | with_reducible apply keeps_foldl | with_reducible apply keeps_foldl_snd | intro _
    | extract_lets | simp -zeta only [keeps_upd] | split | dsimp only

theorem execCleanExpiry_answers {ro : Bool} {z s : State} (h : Keeps ro z s) (n : Nat) : Answers ro z (execCleanExpiry n s) := by
  unfold execCleanExpiry
  repeat' first
    | first | with_reducible assumption | with_reducible apply State.inStake_answers | with_reducible apply State.put_keeps
    | with_reducible apply answers_next | with_reducible apply keeps_ite | with_reducible apply keeps_foldl
    | with_reducible apply keeps_foldl_snd | intro _ | extract_lets | simp -zeta only [keeps_upd] | split | dsimp only

theorem execNotreadyTimeout_answers {ro : Bool} {z s : State} (h : Keeps ro z s) (n : Nat) : Answers ro z (execNotreadyTimeout n s) := by
  unfold execNotreadyTimeout
  repeat' first
    | first | with_reducible assumption | with_reducible apply State.inStake_answers
    | with_reducible apply State.setChan_keeps | with_reducible apply State.raise_keeps | with_reducible apply answers_next
    | with_reducible apply keeps_ite | with_reducible apply keeps_foldl | with_reducible apply keeps_foldl_snd | intro _
    | extract_lets | simp -zeta only [keeps_upd] | split | dsimp only

theorem execUnlatch_answers {ro : Bool} {z s : State} (h : Keeps ro z s) (n : Nat) : Answers ro z (execUnlatch n s) := by
  unfold execUnlatch
  repeat' first
    | first | with_reducible assumption | with_reducible apply State.byWrite_answers | with_reducible apply wrUnlatch_keeps
    | with_reducible apply answers_next | with_reducible apply keeps_ite | with_reducible apply keeps_foldl
    | with_reducible apply keeps_foldl_snd | intro _ | extract_lets | simp -zeta only [keeps_upd] | split | dsimp only

theorem execOv2Block_answers {ro : Bool} {z s : State} (h : Keeps ro z s) : Answers ro z (execOv2Block s) := by
  unfold execOv2Block
  repeat' first
    | first | with_reducible assumption | with_reducible apply State.inStake_answers | with_reducible apply State.put_keeps
    | with_reducible apply State.forceOff_keeps | with_reducible apply State.raise_keeps | with_reducible apply answers_next
    | with_reducible apply keeps_ite | with_reducible apply keeps_foldl | with_reducible apply keeps_foldl_snd | intro _
    | extract_lets | simp -zeta only [keeps_upd] | split | dsimp only

theorem execOv2Clr_answers {ro : Bool} {z s : State} (h : Keeps ro z s) : Answers ro z (execOv2Clr s) := by
  unfold execOv2Clr
  repeat' first
    | first | with_reducible assumption | with_reducible apply State.byWrite_answers | with_reducible apply wrOv2Clr_keeps
    | with_reducible apply answers_next | with_reducible apply keeps_ite | with_reducible apply keeps_foldl
    | with_reducible apply keeps_foldl_snd | intro _ | extract_lets | simp -zeta only [keeps_upd] | split | dsimp only

theorem execOv3Trigger_answers {ro : Bool} {z s : State} (h : Keeps ro z s) : Answers ro z (execOv3Trigger s) := by
  unfold execOv3Trigger
  repeat' first
    | first | with_reducible assumption | with_reducible apply State.inStake_answers | with_reducible apply State.bypass_keeps
    | with_reducible apply answers_next | with_reducible apply keeps_ite | with_reducible apply keeps_foldl
    | with_reducible apply keeps_foldl_snd | intro _ | extract_lets | simp -zeta only [keeps_upd] | split | dsimp only

theorem execBypassFireDrive_answers {ro : Bool} {z s : State} (h : Keeps ro z s) : Answers ro z (execBypassFireDrive s) := by
  unfold execBypassFireDrive
  repeat' first
    | first | with_reducible assumption | with_reducible apply State.inStake_answers
    | with_reducible apply State.advance_keeps | with_reducible apply State.byPins_keeps | with_reducible apply answers_next
    | with_reducible apply keeps_ite | with_reducible apply keeps_foldl | with_reducible apply keeps_foldl_snd | intro _
    | extract_lets | simp -zeta only [keeps_upd] | split | dsimp only

theorem execBypassReadbackFail_answers {ro : Bool} {z s : State} (h : Keeps ro z s) (path : Nat) : Answers ro z (execBypassReadbackFail path s) := by
  unfold execBypassReadbackFail
  repeat' first
    | first | with_reducible assumption | with_reducible apply State.inStake_answers | with_reducible apply State.event_keeps
    | with_reducible apply answers_next | with_reducible apply keeps_ite | with_reducible apply keeps_foldl
    | with_reducible apply keeps_foldl_snd | intro _ | extract_lets | simp -zeta only [keeps_upd] | split | dsimp only

theorem execBypassFireRelease_answers {ro : Bool} {z s : State} (h : Keeps ro z s) : Answers ro z (execBypassFireRelease s) := by
  unfold execBypassFireRelease
  repeat' first
    | first | with_reducible assumption | with_reducible apply State.inStake_answers
    | with_reducible apply State.advance_keeps | with_reducible apply State.byPins_keeps | with_reducible apply answers_next
    | with_reducible apply keeps_ite | with_reducible apply keeps_foldl | with_reducible apply keeps_foldl_snd | intro _
    | extract_lets | simp -zeta only [keeps_upd] | split | dsimp only

theorem execBypassCmdArm_answers {ro : Bool} {z s : State} (h : Keeps ro z s) (at' : Nat) : Answers ro z (execBypassCmdArm at' s) := by
  unfold execBypassCmdArm
  repeat' first
    | first | with_reducible assumption | with_reducible apply State.byWrite_answers | with_reducible apply wrBypArm_keeps
    | with_reducible apply answers_next | with_reducible apply keeps_ite | with_reducible apply keeps_foldl
    | with_reducible apply keeps_foldl_snd | intro _ | extract_lets | simp -zeta only [keeps_upd] | split | dsimp only

theorem execBypassCmdFire_answers {ro : Bool} {z s : State} (h : Keeps ro z s) (at' : Nat) : Answers ro z (execBypassCmdFire at' s) := by
  unfold execBypassCmdFire
  repeat' first
    | first | with_reducible assumption | with_reducible apply State.byWrite_answers | with_reducible apply wrBypFire_keeps
    | with_reducible apply answers_next | with_reducible apply keeps_ite | with_reducible apply keeps_foldl
    | with_reducible apply keeps_foldl_snd | intro _ | extract_lets | simp -zeta only [keeps_upd] | split | dsimp only

theorem execBypassMarkClear_answers {ro : Bool} {z s : State} (h : Keeps ro z s) : Answers ro z (execBypassMarkClear s) := by
  unfold execBypassMarkClear
  repeat' first
    | first | with_reducible assumption | with_reducible apply State.byWrite_answers | with_reducible apply wrBypClear_keeps
    | with_reducible apply answers_next | with_reducible apply keeps_ite | with_reducible apply keeps_foldl
    | with_reducible apply keeps_foldl_snd | intro _ | extract_lets | simp -zeta only [keeps_upd] | split | dsimp only

theorem execBypassArmTimeout_answers {ro : Bool} {z s : State} (h : Keeps ro z s) : Answers ro z (execBypassArmTimeout s) := by
  unfold execBypassArmTimeout
  repeat' first
    | first | with_reducible assumption | with_reducible apply State.inStake_answers | with_reducible apply answers_next
    | with_reducible apply keeps_ite | with_reducible apply keeps_foldl | with_reducible apply keeps_foldl_snd | intro _
    | extract_lets | simp -zeta only [keeps_upd] | split | dsimp only

theorem execSelfTestStart_answers {ro : Bool} {z s : State} (h : Keeps ro z s) (sel : Nat) (ch : Nat) : Answers ro z (execSelfTestStart sel ch s) := by
  unfold execSelfTestStart
  repeat' first
    | first | with_reducible assumption | with_reducible apply State.byWrite_answers | with_reducible apply wrTest_keeps
    | with_reducible apply answers_next | with_reducible apply keeps_ite | with_reducible apply keeps_foldl
    | with_reducible apply keeps_foldl_snd | intro _ | extract_lets | simp -zeta only [keeps_upd] | split | dsimp only

theorem execSelfTestEnd_answers {ro : Bool} {z s : State} (h : Keeps ro z s) (seen : Bool) : Answers ro z (execSelfTestEnd seen s) := by
  unfold execSelfTestEnd
  repeat' first
    | first | with_reducible assumption | with_reducible apply State.inStake_answers
    | with_reducible apply State.endTest_keeps | with_reducible apply State.answerTest_keeps
    | with_reducible apply answers_next | with_reducible apply keeps_ite | with_reducible apply keeps_foldl
    | with_reducible apply keeps_foldl_snd | intro _ | extract_lets | simp -zeta only [keeps_upd] | split | dsimp only

theorem execManualModeWrite_answers {ro : Bool} {z s : State} (h : Keeps ro z s) (n : Nat) (man : Bool) (manOn : Bool) : Answers ro z (execManualModeWrite n man manOn s) := by
  unfold execManualModeWrite
  repeat' first
    | first | with_reducible assumption | with_reducible apply State.byWrite_answers | with_reducible apply wrManual_keeps
    | with_reducible apply answers_next | with_reducible apply keeps_ite | with_reducible apply keeps_foldl
    | with_reducible apply keeps_foldl_snd | intro _ | extract_lets | simp -zeta only [keeps_upd] | split | dsimp only

theorem execManualPulse_answers {ro : Bool} {z s : State} (h : Keeps ro z s) (n : Nat) (width : Nat) : Answers ro z (execManualPulse n width s) := by
  unfold execManualPulse
  repeat' first
    | first | with_reducible assumption | with_reducible apply State.byWrite_answers | with_reducible apply wrPulse_keeps
    | with_reducible apply answers_next | with_reducible apply keeps_ite | with_reducible apply keeps_foldl
    | with_reducible apply keeps_foldl_snd | intro _ | extract_lets | simp -zeta only [keeps_upd] | split | dsimp only

theorem execEffectiveInstant_answers {ro : Bool} {z s : State} (h : Keeps ro z s) (n : Nat) : Answers ro z (execEffectiveInstant n s) := by
  unfold execEffectiveInstant
  repeat' first
    | first | with_reducible assumption | with_reducible apply State.inStake_answers
    | with_reducible apply State.advance_keeps | with_reducible apply State.setChan_keeps
    | with_reducible apply State.refuseLeg_keeps | with_reducible apply State.commanded_keeps
    | with_reducible apply answers_next | with_reducible apply keeps_ite | with_reducible apply keeps_foldl
    | with_reducible apply keeps_foldl_snd | intro _ | extract_lets | simp -zeta only [keeps_upd] | split | dsimp only

theorem execFltinChange_answers {ro : Bool} {z s : State} (h : Keeps ro z s) (n : Nat) (high : Bool) : Answers ro z (execFltinChange n high s) := by
  unfold execFltinChange
  repeat' first
    | first | with_reducible assumption | with_reducible apply State.inRun_answers
    | with_reducible apply State.fltFollow_keeps | with_reducible apply answers_next | with_reducible apply keeps_ite
    | with_reducible apply keeps_foldl | with_reducible apply keeps_foldl_snd | intro _ | extract_lets
    | simp -zeta only [keeps_upd] | split | dsimp only

theorem execFaultForce_answers {ro : Bool} {z s : State} (h : Keeps ro z s) (r : Nat) (v : Nat) : Answers ro z (execFaultForce r v s) := by
  unfold execFaultForce
  repeat' first
    | first | with_reducible assumption | with_reducible apply State.byWrite_answers | with_reducible apply wrForce_keeps
    | with_reducible apply answers_next | with_reducible apply keeps_ite | with_reducible apply keeps_foldl
    | with_reducible apply keeps_foldl_snd | intro _ | extract_lets | simp -zeta only [keeps_upd] | split | dsimp only

theorem execWatchdogFeed_answers {ro : Bool} {z s : State} (h : Keeps ro z s) (key : Nat) : Answers ro z (execWatchdogFeed key s) := by
  unfold execWatchdogFeed
  repeat' first
    | first | with_reducible assumption | with_reducible apply State.byWrite_answers | with_reducible apply wrFeed_keeps
    | with_reducible apply answers_next | with_reducible apply keeps_ite | with_reducible apply keeps_foldl
    | with_reducible apply keeps_foldl_snd | intro _ | extract_lets | simp -zeta only [keeps_upd] | split | dsimp only

theorem execRecordWrite_answers {ro : Bool} {z s : State} (h : Keeps ro z s) : Answers ro z (execRecordWrite s) := by
  unfold execRecordWrite
  repeat' first
    | first | with_reducible assumption | with_reducible apply State.inRun_answers | with_reducible apply State.endCycle_keeps
    | with_reducible apply State.copyTails_keeps | with_reducible apply State.writeRing_keeps
    | with_reducible apply answers_next | with_reducible apply keeps_ite | with_reducible apply keeps_foldl
    | with_reducible apply keeps_foldl_snd | intro _ | extract_lets | simp -zeta only [keeps_upd] | split | dsimp only

theorem execFreeze_answers {ro : Bool} {z s : State} (h : Keeps ro z s) (freeze : Bool) : Answers ro z (execFreeze freeze s) := by
  unfold execFreeze
  repeat' first
    | first | with_reducible assumption | with_reducible apply State.byWrite_answers | with_reducible apply wrFreeze_keeps
    | with_reducible apply answers_next | with_reducible apply keeps_ite | with_reducible apply keeps_foldl
    | with_reducible apply keeps_foldl_snd | intro _ | extract_lets | simp -zeta only [keeps_upd] | split | dsimp only

theorem execFreezeExpiry_answers {ro : Bool} {z s : State} (h : Keeps ro z s) : Answers ro z (execFreezeExpiry s) := by
  unfold execFreezeExpiry
  repeat' first
    | first | with_reducible assumption | with_reducible apply State.inRun_answers | with_reducible apply State.put_keeps
    | with_reducible apply State.event_keeps | with_reducible apply answers_next | with_reducible apply keeps_ite
    | with_reducible apply keeps_foldl | with_reducible apply keeps_foldl_snd | intro _ | extract_lets
    | simp -zeta only [keeps_upd] | split | dsimp only

theorem execRingClear_answers {ro : Bool} {z s : State} (h : Keeps ro z s) : Answers ro z (execRingClear s) := by
  unfold execRingClear
  repeat' first
    | first | with_reducible assumption | with_reducible apply State.byWrite_answers | with_reducible apply wrRingClear_keeps
    | with_reducible apply answers_next | with_reducible apply keeps_ite | with_reducible apply keeps_foldl
    | with_reducible apply keeps_foldl_snd | intro _ | extract_lets | simp -zeta only [keeps_upd] | split | dsimp only

theorem execTailClear_answers {ro : Bool} {z s : State} (h : Keeps ro z s) : Answers ro z (execTailClear s) := by
  unfold execTailClear
  repeat' first
    | first | with_reducible assumption | with_reducible apply State.byWrite_answers | with_reducible apply wrTailClear_keeps
    | with_reducible apply answers_next | with_reducible apply keeps_ite | with_reducible apply keeps_foldl
    | with_reducible apply keeps_foldl_snd | intro _ | extract_lets | simp -zeta only [keeps_upd] | split | dsimp only

theorem execAliveEdge_answers {ro : Bool} {z s : State} (h : Keeps ro z s) : Answers ro z (execAliveEdge s) := by
  unfold execAliveEdge
  repeat' first
    | first | with_reducible assumption | with_reducible apply State.inRun_answers | with_reducible apply State.put_keeps
    | with_reducible apply State.setAlive_keeps | with_reducible apply answers_next | with_reducible apply keeps_ite
    | with_reducible apply keeps_foldl | with_reducible apply keeps_foldl_snd | intro _ | extract_lets
    | simp -zeta only [keeps_upd] | split | dsimp only

theorem execSrstChange_answers {ro : Bool} {z s : State} (h : Keeps ro z s) (x : Bool) (y : Bool) (a : Bool) (b : Bool) (at' : Nat) : Answers ro z (execSrstChange x y a b at' s) := by
  unfold execSrstChange
  repeat' first
    | first | with_reducible assumption | with_reducible apply State.inDatum_answers
    | with_reducible apply State.advance_keeps | with_reducible apply State.srstIn_keeps
    | with_reducible apply State.mirrorInputs_keeps | with_reducible apply answers_next | with_reducible apply keeps_ite
    | with_reducible apply keeps_foldl | with_reducible apply keeps_foldl_snd | intro _ | extract_lets
    | simp -zeta only [keeps_upd] | split | dsimp only

theorem execXlinkHeartbeat_answers {ro : Bool} {z s : State} (h : Keeps ro z s) : Answers ro z (execXlinkHeartbeat s) := by
  unfold execXlinkHeartbeat
  repeat' first
    | first | (with_reducible exact fun h => h) | (with_reducible exact fun h => and_left h) | with_reducible assumption
    | with_reducible apply State.inRun_answers | with_reducible apply State.levelOff_keeps
    | with_reducible apply State.put_keeps | with_reducible apply State.tryDeblock_keeps | with_reducible apply answers_next
    | with_reducible apply keeps_ite | with_reducible apply keeps_foldl | with_reducible apply keeps_foldl_snd | intro _
    | extract_lets | simp -zeta only [keeps_upd] | with_reducible refine keeps_updSf ?_ _ ?_ ?_ _ _ _ | split | dsimp only

theorem execXlinkTimeout_answers {ro : Bool} {z s : State} (h : Keeps ro z s) : Answers ro z (execXlinkTimeout s) := by
  unfold execXlinkTimeout
  repeat' first
    | first | (with_reducible exact fun h => h) | (with_reducible exact fun h => and_left h) | with_reducible assumption
    | with_reducible apply State.inRun_answers | with_reducible apply State.put_keeps
    | with_reducible apply State.levelOn_keeps | with_reducible apply answers_next | with_reducible apply keeps_ite
    | with_reducible apply keeps_foldl | with_reducible apply keeps_foldl_snd | intro _ | extract_lets
    | simp -zeta only [keeps_upd] | with_reducible refine keeps_updSf ?_ _ ?_ ?_ _ _ _ | split | dsimp only

theorem execChannelDisagree_answers {ro : Bool} {z s : State} (h : Keeps ro z s) : Answers ro z (execChannelDisagree s) := by
  unfold execChannelDisagree
  repeat' first
    | first | (with_reducible exact fun h => h) | (with_reducible exact fun h => and_left h) | with_reducible assumption
    | with_reducible apply State.inRun_answers | with_reducible apply State.levelOn_keeps | with_reducible apply answers_next
    | with_reducible apply keeps_ite | with_reducible apply keeps_foldl | with_reducible apply keeps_foldl_snd | intro _
    | extract_lets | simp -zeta only [keeps_upd] | with_reducible refine keeps_updSf ?_ _ ?_ ?_ _ _ _ | split | dsimp only

theorem execSafeLock_answers {ro : Bool} {z s : State} (h : Keeps ro z s) (agree : Bool) : Answers ro z (execSafeLock agree s) := by
  unfold execSafeLock
  repeat' first
    | first | with_reducible assumption | with_reducible apply State.byWrite_answers | with_reducible apply wrSafeLock_keeps
    | with_reducible apply answers_next | with_reducible apply keeps_ite | with_reducible apply keeps_foldl
    | with_reducible apply keeps_foldl_snd | intro _ | extract_lets | simp -zeta only [keeps_upd] | split | dsimp only

theorem execSafeConfigCrc_answers {ro : Bool} {z s : State} (h : Keeps ro z s) : Answers ro z (execSafeConfigCrc s) := by
  unfold execSafeConfigCrc
  repeat' first
    | first | (with_reducible exact fun h => h) | (with_reducible exact fun h => and_left h) | with_reducible assumption
    | with_reducible apply State.inRun_answers | with_reducible apply State.levelOn_keeps | with_reducible apply answers_next
    | with_reducible apply keeps_ite | with_reducible apply keeps_foldl | with_reducible apply keeps_foldl_snd | intro _
    | extract_lets | simp -zeta only [keeps_upd] | with_reducible refine keeps_updSf ?_ _ ?_ ?_ _ _ _ | split | dsimp only

theorem execGcmdGate_answers {ro : Bool} {z s : State} (h : Keeps ro z s) : Answers ro z (execGcmdGate s) := by
  unfold execGcmdGate
  repeat' first
    | first | with_reducible assumption | with_reducible apply State.inStake_answers
    | with_reducible apply State.gateGcmd_keeps | with_reducible apply answers_next | with_reducible apply keeps_ite
    | with_reducible apply keeps_foldl | with_reducible apply keeps_foldl_snd | intro _ | extract_lets
    | simp -zeta only [keeps_upd] | split | dsimp only

theorem execPermitLoss_answers {ro : Bool} {z s : State} (h : Keeps ro z s) : Answers ro z (execPermitLoss s) := by
  unfold execPermitLoss
  repeat' first
    | first | (with_reducible exact fun h => h) | (with_reducible exact fun h => and_left h) | with_reducible assumption
    | with_reducible apply State.inStake_answers | with_reducible apply State.blockStake_keeps
    | with_reducible apply State.count_keeps | with_reducible apply State.raise_keeps | with_reducible apply answers_next
    | with_reducible apply keeps_ite | with_reducible apply keeps_foldl | with_reducible apply keeps_foldl_snd | intro _
    | extract_lets | simp -zeta only [keeps_upd] | with_reducible refine keeps_updSf ?_ _ ?_ ?_ _ _ _ | split | dsimp only

theorem execRelayReplyTimeout_answers {ro : Bool} {z s : State} (h : Keeps ro z s) (id : Nat) : Answers ro z (execRelayReplyTimeout id s) := by
  unfold execRelayReplyTimeout
  repeat' first
    | first | with_reducible assumption | with_reducible apply State.inDatum_answers
    | with_reducible apply State.updRelay_keeps | with_reducible apply State.settleRelays_keeps
    | with_reducible apply answers_next | with_reducible apply keeps_ite | with_reducible apply keeps_foldl
    | with_reducible apply keeps_foldl_snd | intro _ | extract_lets | simp -zeta only [keeps_upd] | split | dsimp only

theorem execRelay_answers {ro : Bool} {z s : State} (h : Keeps ro z s) (r : Req) (t : Target) (k : Packet) : Answers ro z (execRelay r t k s) := by
  unfold execRelay
  repeat' first
    | first | with_reducible assumption | with_reducible apply State.command_answers | with_reducible apply State.status_keeps
    | with_reducible apply State.relayStart_keeps | with_reducible apply answers_next | with_reducible apply keeps_ite
    | with_reducible apply keeps_foldl | with_reducible apply keeps_foldl_snd | intro _ | extract_lets
    | simp -zeta only [keeps_upd] | split | dsimp only

theorem execChainScan_answers {ro : Bool} {z s : State} (h : Keeps ro z s) (r : Req) (p : Nat) : Answers ro z (execChainScan r p s) := by
  unfold execChainScan
  repeat' first
    | first | with_reducible assumption | with_reducible apply State.command_answers | with_reducible apply State.status_keeps
    | with_reducible apply State.scanHop_keeps | with_reducible apply answers_next | with_reducible apply keeps_ite
    | with_reducible apply keeps_foldl | with_reducible apply keeps_foldl_snd | intro _ | extract_lets
    | simp -zeta only [keeps_upd] | split | dsimp only

theorem execRelayFlush_answers {ro : Bool} {z s : State} (h : Keeps ro z s) (r : Req) (ports : Nat) : Answers ro z (execRelayFlush r ports s) := by
  unfold execRelayFlush
  repeat' first
    | first | with_reducible assumption | with_reducible apply State.command_answers
    | with_reducible apply State.flushPorts_keeps | with_reducible apply State.settleRelays_keeps
    | with_reducible apply State.status_keeps | with_reducible apply answers_next | with_reducible apply keeps_ite
    | with_reducible apply keeps_foldl | with_reducible apply keeps_foldl_snd | intro _ | extract_lets
    | simp -zeta only [keeps_upd] | split | dsimp only

theorem execAdoptionScan_answers {ro : Bool} {z s : State} (h : Keeps ro z s) (p : Nat) : Answers ro z (execAdoptionScan p s) := by
  unfold execAdoptionScan
  repeat' first
    | first | with_reducible assumption | with_reducible apply State.inDatum_answers
    | with_reducible apply State.scanHop_keeps | with_reducible apply answers_next | with_reducible apply keeps_ite
    | with_reducible apply keeps_foldl | with_reducible apply keeps_foldl_snd | intro _ | extract_lets
    | simp -zeta only [keeps_upd] | split | dsimp only

theorem execAdopt_answers {ro : Bool} {z s : State} (h : Keeps ro z s) (r : Req) (confirm : Bool) (p : Nat) (slot : Nat) (a : Nat) (idx : Nat) (monument : Nat) : Answers ro z (execAdopt r confirm p slot a idx monument s) := by
  unfold execAdopt
  repeat' first
    | first | with_reducible assumption | with_reducible apply State.command_answers
    | with_reducible apply State.adoptDatum_keeps | with_reducible apply State.adoptStake_keeps
    | with_reducible apply State.tryDeblock_keeps | with_reducible apply answers_next | with_reducible apply keeps_ite
    | with_reducible apply keeps_foldl | with_reducible apply keeps_foldl_snd | intro _ | extract_lets
    | simp -zeta only [keeps_upd] | split | dsimp only

theorem execTxnBegin_answers {ro : Bool} {z s : State} (h : Keeps ro z s) (r : Req) (scope : Nat) (t : Target) : Answers ro z (execTxnBegin r scope t s) := by
  unfold execTxnBegin
  repeat' first
    | first | with_reducible assumption | with_reducible apply State.command_answers | with_reducible apply State.status_keeps
    | with_reducible apply State.reply_keeps | with_reducible apply answers_next | with_reducible apply keeps_ite
    | with_reducible apply keeps_foldl | with_reducible apply keeps_foldl_snd | intro _ | extract_lets
    | simp -zeta only [keeps_upd] | split | dsimp only

theorem execTxnPrepare_answers {ro : Bool} {z s : State} (h : Keeps ro z s) (r : Req) (txid : Nat) : Answers ro z (execTxnPrepare r txid s) := by
  unfold execTxnPrepare
  repeat' first
    | first | with_reducible assumption | with_reducible apply State.onTxn_answers | with_reducible apply State.status_keeps
    | with_reducible apply State.setTxn_keeps | with_reducible apply State.reply_keeps
    | with_reducible apply State.relayStart_keeps | with_reducible apply State.sprep_keeps | with_reducible apply answers_next
    | with_reducible apply keeps_ite | with_reducible apply keeps_foldl | with_reducible apply keeps_foldl_snd | intro _
    | extract_lets | simp -zeta only [keeps_upd] | split | dsimp only

theorem execTxnCommit_answers {z s : State} (h : Keeps false z s) (r : Req) (txid : Nat) (imm : Bool) (tick : Nat) : Answers false z (execTxnCommit r txid imm tick s) := by
  unfold execTxnCommit
  repeat' first
    | first | with_reducible assumption | with_reducible apply State.onTxn_answers
    | with_reducible apply State.commitLocal_keeps | with_reducible apply State.commitStakes_keeps
    | with_reducible apply answers_next | with_reducible apply keeps_ite | with_reducible apply keeps_foldl
    | with_reducible apply keeps_foldl_snd | intro _ | extract_lets | simp -zeta only [keeps_upd] | split | dsimp only

theorem execTxnRollback_answers {ro : Bool} {z s : State} (h : Keeps ro z s) (r : Req) (txid : Nat) : Answers ro z (execTxnRollback r txid s) := by
  unfold execTxnRollback
  repeat' first
    | first | with_reducible assumption | with_reducible apply State.onTxn_answers | with_reducible apply State.status_keeps
    | with_reducible apply State.closeTxn_keeps | with_reducible apply State.count_keeps
    | with_reducible apply State.relayStart_keeps | with_reducible apply answers_next | with_reducible apply keeps_ite
    | with_reducible apply keeps_foldl | with_reducible apply keeps_foldl_snd | intro _ | extract_lets
    | simp -zeta only [keeps_upd] | split | dsimp only

theorem execTxnStatus_answers {ro : Bool} {z s : State} (h : Keeps ro z s) (r : Req) (txid : Nat) : Answers ro z (execTxnStatus r txid s) := by
  unfold execTxnStatus
  repeat' first
    | first | with_reducible assumption | with_reducible apply State.command_answers | with_reducible apply State.closed_keeps
    | with_reducible apply State.reply_keeps | with_reducible apply State.status_keeps | with_reducible apply answers_next
    | with_reducible apply keeps_ite | with_reducible apply keeps_foldl | with_reducible apply keeps_foldl_snd | intro _
    | extract_lets | simp -zeta only [keeps_upd] | split | dsimp only

theorem execTxnIdleExpiry_answers {ro : Bool} {z s : State} (h : Keeps ro z s) (txid : Nat) : Answers ro z (execTxnIdleExpiry txid s) := by
  unfold execTxnIdleExpiry
  repeat' first
    | first | with_reducible assumption | with_reducible apply State.inDatum_answers
    | with_reducible apply State.closeTxn_keeps | with_reducible apply State.count_keeps
    | with_reducible apply State.relayStart_keeps | with_reducible apply answers_next | with_reducible apply keeps_ite
    | with_reducible apply keeps_foldl | with_reducible apply keeps_foldl_snd | intro _ | extract_lets
    | simp -zeta only [keeps_upd] | split | dsimp only

theorem execTxnTickApply_answers {z s : State} (h : Keeps false z s) : Answers false z (execTxnTickApply s) := by
  unfold execTxnTickApply
  repeat' first
    | first | with_reducible assumption | with_reducible apply State.inDatum_answers
    | with_reducible apply State.loopWrites_keeps | with_reducible apply State.setTxn_keeps
    | with_reducible apply answers_next | with_reducible apply keeps_ite | with_reducible apply keeps_foldl
    | with_reducible apply keeps_foldl_snd | intro _ | extract_lets | simp -zeta only [keeps_upd] | split | dsimp only

theorem execTxnCommitComplete_answers {ro : Bool} {z s : State} (h : Keeps ro z s) : Answers ro z (execTxnCommitComplete s) := by
  unfold execTxnCommitComplete
  repeat' first
    | first | with_reducible assumption | with_reducible apply State.inDatum_answers
    | with_reducible apply State.commitEnd_keeps | with_reducible apply answers_next | with_reducible apply keeps_ite
    | with_reducible apply keeps_foldl | with_reducible apply keeps_foldl_snd | intro _ | extract_lets
    | simp -zeta only [keeps_upd] | split | dsimp only

theorem execTxnSprep_answers {ro : Bool} {z s : State} (h : Keeps ro z s) (r : Req) (txid : Nat) (total : Nat) (first : Bool) (writes : List (Nat × Nat)) : Answers ro z (execTxnSprep r txid total first writes s) := by
  unfold execTxnSprep
  repeat' first
    | first | with_reducible assumption | with_reducible apply State.command_answers | with_reducible apply State.sprep_keeps
    | with_reducible apply answers_next | with_reducible apply keeps_ite | with_reducible apply keeps_foldl
    | with_reducible apply keeps_foldl_snd | intro _ | extract_lets | simp -zeta only [keeps_upd] | split | dsimp only

theorem execTxnScommit_answers {ro : Bool} {z s : State} (h : Keeps ro z s) (r : Req) (txid : Nat) (tick : Nat) : Answers ro z (execTxnScommit r txid tick s) := by
  unfold execTxnScommit
  repeat' first
    | first | with_reducible assumption | with_reducible apply State.command_answers | with_reducible apply State.status_keeps
    | with_reducible apply State.dropHeld_keeps | with_reducible apply State.raise_keeps | with_reducible apply answers_next
    | with_reducible apply keeps_ite | with_reducible apply keeps_foldl | with_reducible apply keeps_foldl_snd | intro _
    | extract_lets | simp -zeta only [keeps_upd] | split | dsimp only

theorem execTxnSabort_answers {ro : Bool} {z s : State} (h : Keeps ro z s) (r : Req) (txid : Nat) : Answers ro z (execTxnSabort r txid s) := by
  unfold execTxnSabort
  repeat' first
    | first | with_reducible assumption | with_reducible apply State.command_answers
    | with_reducible apply State.dropHeld_keeps | with_reducible apply State.status_keeps | with_reducible apply answers_next
    | with_reducible apply keeps_ite | with_reducible apply keeps_foldl | with_reducible apply keeps_foldl_snd | intro _
    | extract_lets | simp -zeta only [keeps_upd] | split | dsimp only

theorem execTxnStakeApply_answers {ro : Bool} {z s : State} (h : Keeps ro z s) : Answers ro z (execTxnStakeApply s) := by
  unfold execTxnStakeApply
  repeat' first
    | first | with_reducible assumption | with_reducible apply State.inStake_answers
    | with_reducible apply State.dropHeld_keeps | with_reducible apply State.raise_keeps
    | with_reducible apply State.atStart_keeps | with_reducible apply State.applyHeld_keeps
    | with_reducible apply answers_next | with_reducible apply keeps_ite | with_reducible apply keeps_foldl
    | with_reducible apply keeps_foldl_snd | intro _ | extract_lets | simp -zeta only [keeps_upd] | split | dsimp only

theorem execTxnPrepareTimeout_answers {ro : Bool} {z s : State} (h : Keeps ro z s) : Answers ro z (execTxnPrepareTimeout s) := by
  unfold execTxnPrepareTimeout
  repeat' first
    | first | with_reducible assumption | with_reducible apply State.inStake_answers
    | with_reducible apply State.dropHeld_keeps | with_reducible apply State.raise_keeps | with_reducible apply answers_next
    | with_reducible apply keeps_ite | with_reducible apply keeps_foldl | with_reducible apply keeps_foldl_snd | intro _
    | extract_lets | simp -zeta only [keeps_upd] | split | dsimp only

theorem execClosurePersistFault_answers {ro : Bool} {z s : State} (h : Keeps ro z s) (p : Nat) : Answers ro z (execClosurePersistFault p s) := by
  unfold execClosurePersistFault
  repeat' first
    | first | with_reducible assumption | with_reducible apply State.inDatum_answers
    | with_reducible apply State.setPort_keeps | with_reducible apply State.raise_keeps | with_reducible apply answers_next
    | with_reducible apply keeps_ite | with_reducible apply keeps_foldl | with_reducible apply keeps_foldl_snd | intro _
    | extract_lets | simp -zeta only [keeps_upd] | split | dsimp only

theorem execDatumFrameReceive_answers {ro : Bool} {z s : State} (h : Keeps ro z s) (p : Nat) (f : Frame) (at' : Nat) (idles : Nat) : Answers ro z (execDatumFrameReceive p f at' idles s) := by
  unfold execDatumFrameReceive
  repeat' first
    | first | with_reducible assumption | with_reducible apply State.inDatum_answers | with_reducible apply State.emit_keeps
    | with_reducible apply State.advance_keeps | with_reducible apply State.absorb_keeps
    | with_reducible apply State.passOn_keeps | with_reducible apply State.count_keeps
    | with_reducible apply State.takeUp_keeps | with_reducible apply State.receiveFrame_keeps
    | with_reducible apply answers_next | with_reducible apply keeps_ite | with_reducible apply keeps_foldl
    | with_reducible apply keeps_foldl_snd | intro _ | extract_lets | simp -zeta only [keeps_upd] | split | dsimp only

theorem execUdpRequest_answers {ro : Bool} {z s : State} (h : Keeps ro z s) (port : Nat) (src : Nat) (k : Packet) : Answers ro z (execUdpRequest port src k s) := by
  unfold execUdpRequest
  repeat' first
    | first | with_reducible assumption | with_reducible apply State.inDatum_answers
    | with_reducible apply State.acceptUdp_keeps | with_reducible apply State.count_keeps
    | with_reducible apply State.forward_keeps | with_reducible apply answers_next | with_reducible apply keeps_ite
    | with_reducible apply keeps_foldl | with_reducible apply keeps_foldl_snd | intro _ | extract_lets
    | simp -zeta only [keeps_upd] | split | dsimp only

theorem execReplyCacheExpiry_answers {ro : Bool} {z s : State} (h : Keeps ro z s) (r : Req) : Answers ro z (execReplyCacheExpiry r s) := by
  unfold execReplyCacheExpiry
  repeat' first
    | first | with_reducible assumption | with_reducible apply State.inDatum_answers | with_reducible apply answers_next
    | with_reducible apply keeps_ite | with_reducible apply keeps_foldl | with_reducible apply keeps_foldl_snd | intro _
    | extract_lets | simp -zeta only [keeps_upd] | split | dsimp only

theorem execMgmtForward_answers {ro : Bool} {z s : State} (h : Keeps ro z s) (d : Nat) (m : MgmtMsg) (ok : Bool) : Answers ro z (execMgmtForward d m ok s) := by
  unfold execMgmtForward
  repeat' first
    | first | with_reducible assumption | with_reducible apply State.inDatum_answers | with_reducible apply State.count_keeps
    | with_reducible apply State.sendMgmt_keeps | with_reducible apply State.request_keeps
    | with_reducible apply State.acceptUdp_keeps | with_reducible apply State.reply_keeps
    | with_reducible apply State.forwarded_keeps | with_reducible apply answers_next | with_reducible apply keeps_ite
    | with_reducible apply keeps_foldl | with_reducible apply keeps_foldl_snd | intro _ | extract_lets
    | simp -zeta only [keeps_upd] | split | dsimp only

theorem execForwardTimeout_answers {ro : Bool} {z s : State} (h : Keeps ro z s) (key : Nat) (tag : Nat) : Answers ro z (execForwardTimeout key tag s) := by
  unfold execForwardTimeout
  repeat' first
    | first | with_reducible assumption | with_reducible apply State.inDatum_answers
    | with_reducible apply State.forwarded_keeps | with_reducible apply State.status_keeps
    | with_reducible apply State.count_keeps | with_reducible apply answers_next | with_reducible apply keeps_ite
    | with_reducible apply keeps_foldl | with_reducible apply keeps_foldl_snd | intro _ | extract_lets
    | simp -zeta only [keeps_upd] | split | dsimp only

theorem execSqTailDoorbell_answers {ro : Bool} {z s : State} (h : Keeps ro z s) (q : Nat) (tail : Nat) (entries : List (Nat × Nat × Packet)) : Answers ro z (execSqTailDoorbell q tail entries s) := by
  unfold execSqTailDoorbell
  repeat' first
    | first | with_reducible assumption | with_reducible apply State.inDatum_answers
    | with_reducible apply State.acceptPcie_keeps | with_reducible apply State.setPq_keeps | with_reducible apply answers_next
    | with_reducible apply keeps_ite | with_reducible apply keeps_foldl | with_reducible apply keeps_foldl_snd | intro _
    | extract_lets | simp -zeta only [keeps_upd] | split | dsimp only

theorem execCqHeadDoorbell_answers {ro : Bool} {z s : State} (h : Keeps ro z s) (q : Nat) (head : Nat) : Answers ro z (execCqHeadDoorbell q head s) := by
  unfold execCqHeadDoorbell
  repeat' first
    | first | with_reducible assumption | with_reducible apply State.inDatum_answers
    | with_reducible apply State.complete_keeps | with_reducible apply State.setPq_keeps | with_reducible apply answers_next
    | with_reducible apply keeps_ite | with_reducible apply keeps_foldl | with_reducible apply keeps_foldl_snd | intro _
    | extract_lets | simp -zeta only [keeps_upd] | split | dsimp only

theorem execStreamReadIndex_answers {ro : Bool} {z s : State} (h : Keeps ro z s) (i : Nat) : Answers ro z (execStreamReadIndex i s) := by
  unfold execStreamReadIndex
  repeat' first
    | first | with_reducible assumption | with_reducible apply State.inDatum_answers | with_reducible apply answers_next
    | with_reducible apply keeps_ite | with_reducible apply keeps_foldl | with_reducible apply keeps_foldl_snd | intro _
    | extract_lets | simp -zeta only [keeps_upd] | split | dsimp only

theorem execBarQueueConfig_answers {ro : Bool} {z s : State} (h : Keeps ro z s) (ofs : Nat) (v : Nat) : Answers ro z (execBarQueueConfig ofs v s) := by
  unfold execBarQueueConfig
  repeat' first
    | first | with_reducible assumption | with_reducible apply State.inDatum_answers | with_reducible apply State.wrQcfg_keeps
    | with_reducible apply State.setPq_keeps | with_reducible apply State.wrStrCfg_keeps | with_reducible apply answers_next
    | with_reducible apply keeps_ite | with_reducible apply keeps_foldl | with_reducible apply keeps_foldl_snd | intro _
    | extract_lets | simp -zeta only [keeps_upd] | split | dsimp only

theorem execNop_answers {ro : Bool} {z s : State} (h : Keeps ro z s) (r : Req) : Answers ro z (execNop r s) := by
  unfold execNop
  repeat' first
    | first | with_reducible assumption | with_reducible apply State.command_answers | with_reducible apply State.status_keeps
    | with_reducible apply answers_next | with_reducible apply keeps_ite | with_reducible apply keeps_foldl
    | with_reducible apply keeps_foldl_snd | intro _ | extract_lets | simp -zeta only [keeps_upd] | split | dsimp only

theorem execRead_answers {ro : Bool} {z s : State} (h : Keeps ro z s) (r : Req) (addr : Nat) (count : Nat) : Answers ro z (execRead r addr count s) := by
  unfold execRead
  repeat' first
    | first | with_reducible assumption | with_reducible apply State.command_answers | with_reducible apply State.count_keeps
    | with_reducible apply State.status_keeps | with_reducible apply State.readWords_keeps
    | with_reducible apply State.reply_keeps | with_reducible apply answers_next | with_reducible apply keeps_ite
    | with_reducible apply keeps_foldl | with_reducible apply keeps_foldl_snd | intro _ | extract_lets
    | simp -zeta only [keeps_upd] | split | dsimp only

theorem execWrite_answers {z s : State} (h : Keeps false z s) (r : Req) (txid : Option Nat) (addr : Nat) (words : List Nat) : Answers false z (execWrite r txid addr words s) := by
  unfold execWrite
  repeat' first
    | first | with_reducible assumption | with_reducible apply State.command_answers | with_reducible apply State.status_keeps
    | with_reducible apply State.txnWrites_keeps | with_reducible apply State.writeWords_keeps
    | with_reducible apply State.reply_keeps | with_reducible apply answers_next | with_reducible apply keeps_ite
    | with_reducible apply keeps_foldl | with_reducible apply keeps_foldl_snd | intro _ | extract_lets
    | simp -zeta only [keeps_upd] | split | dsimp only

theorem execModify_answers {z s : State} (h : Keeps false z s) (r : Req) (txid : Option Nat) (addr : Nat) (mask : Nat) (value : Nat) : Answers false z (execModify r txid addr mask value s) := by
  unfold execModify
  repeat' first
    | first | with_reducible assumption | with_reducible apply State.command_answers | with_reducible apply State.status_keeps
    | with_reducible apply State.txnModify_keeps | with_reducible apply State.modifyWord_keeps
    | with_reducible apply State.reply_keeps | with_reducible apply answers_next | with_reducible apply keeps_ite
    | with_reducible apply keeps_foldl | with_reducible apply keeps_foldl_snd | intro _ | extract_lets
    | simp -zeta only [keeps_upd] | split | dsimp only

theorem execReadWide_answers {ro : Bool} {z s : State} (h : Keeps ro z s) (r : Req) (item : Nat) : Answers ro z (execReadWide r item s) := by
  unfold execReadWide
  repeat' first
    | first | with_reducible assumption | with_reducible apply State.command_answers
    | with_reducible apply State.capture_keeps | with_reducible apply State.reply_keeps
    | with_reducible apply State.status_keeps | with_reducible apply answers_next | with_reducible apply keeps_ite
    | with_reducible apply keeps_foldl | with_reducible apply keeps_foldl_snd | intro _ | extract_lets
    | simp -zeta only [keeps_upd] | split | dsimp only

theorem execMbReqWrite_answers {ro : Bool} {z s : State} (h : Keeps ro z s) (item : Nat) : Answers ro z (execMbReqWrite item s) := by
  unfold execMbReqWrite
  repeat' first
    | first | with_reducible assumption | with_reducible apply State.byWrite_answers | with_reducible apply wrMbReq_keeps
    | with_reducible apply answers_next | with_reducible apply keeps_ite | with_reducible apply keeps_foldl
    | with_reducible apply keeps_foldl_snd | intro _ | extract_lets | simp -zeta only [keeps_upd] | split | dsimp only

theorem execPlatRead_answers {ro : Bool} {z s : State} (h : Keeps ro z s) (r : Req) (ofs : Nat) (len : Nat) : Answers ro z (execPlatRead r ofs len s) := by
  unfold execPlatRead
  repeat' first
    | first | with_reducible assumption | with_reducible apply State.command_answers | with_reducible apply State.status_keeps
    | with_reducible apply State.reply_keeps | with_reducible apply answers_next | with_reducible apply keeps_ite
    | with_reducible apply keeps_foldl | with_reducible apply keeps_foldl_snd | intro _ | extract_lets
    | simp -zeta only [keeps_upd] | split | dsimp only

theorem execStrobe_answers {ro : Bool} {z s : State} (h : Keeps ro z s) (r : Req) (groups : Nat) : Answers ro z (execStrobe r groups s) := by
  unfold execStrobe
  repeat' first
    | first | with_reducible assumption | with_reducible apply State.command_answers | with_reducible apply State.status_keeps
    | with_reducible apply State.strobe_keeps | with_reducible apply State.reply_keeps | with_reducible apply answers_next
    | with_reducible apply keeps_ite | with_reducible apply keeps_foldl | with_reducible apply keeps_foldl_snd | intro _
    | extract_lets | simp -zeta only [keeps_upd] | split | dsimp only

theorem execStrobeFire_answers {ro : Bool} {z s : State} (h : Keeps ro z s) (groups : Nat) : Answers ro z (execStrobeFire groups s) := by
  unfold execStrobeFire
  repeat' first
    | first | with_reducible assumption | with_reducible apply State.byWrite_answers | with_reducible apply wrStbFire_keeps
    | with_reducible apply answers_next | with_reducible apply keeps_ite | with_reducible apply keeps_foldl
    | with_reducible apply keeps_foldl_snd | intro _ | extract_lets | simp -zeta only [keeps_upd] | split | dsimp only

theorem execLockSet_answers {ro : Bool} {z s : State} (h : Keeps ro z s) (mask : Nat) : Answers ro z (execLockSet mask s) := by
  unfold execLockSet
  repeat' first
    | first | with_reducible assumption | with_reducible apply State.byWrite_answers | with_reducible apply wrLock_keeps
    | with_reducible apply answers_next | with_reducible apply keeps_ite | with_reducible apply keeps_foldl
    | with_reducible apply keeps_foldl_snd | intro _ | extract_lets | simp -zeta only [keeps_upd] | split | dsimp only

theorem execConfigParityScrub_answers {ro : Bool} {z s : State} (h : Keeps ro z s) (addr : Nat) (shadow : Bool) : Answers ro z (execConfigParityScrub addr shadow s) := by
  unfold execConfigParityScrub
  repeat' first
    | first | with_reducible assumption | with_reducible apply State.inRun_answers | with_reducible apply State.put_keeps
    | with_reducible apply State.putB_keeps | with_reducible apply State.raise_keeps | with_reducible apply answers_next
    | with_reducible apply keeps_ite | with_reducible apply keeps_foldl | with_reducible apply keeps_foldl_snd | intro _
    | extract_lets | simp -zeta only [keeps_upd] | split | dsimp only

theorem execNetcfg_answers {ro : Bool} {z s : State} (h : Keeps ro z s) (r : Req) (sel : Nat) (data : List Nat) : Answers ro z (execNetcfg r sel data s) := by
  unfold execNetcfg
  repeat' first
    | first | with_reducible assumption | with_reducible apply State.command_answers | with_reducible apply State.reply_keeps
    | with_reducible apply answers_next | with_reducible apply keeps_ite | with_reducible apply keeps_foldl
    | with_reducible apply keeps_foldl_snd | intro _ | extract_lets | simp -zeta only [keeps_upd] | split | dsimp only

theorem execConfigLoad_answers {z s : State} (h : Keeps false z s) (writes : List (Nat × Nat)) (locks : Nat) (store : AdoptStore) : Answers false z (execConfigLoad writes locks store s) := by
  unfold execConfigLoad
  repeat' first
    | first | with_reducible assumption | with_reducible apply State.inRun_answers | with_reducible apply State.put_keeps
    | with_reducible apply State.writeWord_keeps | with_reducible apply State.strobe_keeps
    | with_reducible apply State.loadAdoption_keeps | with_reducible apply wrLock_keeps | with_reducible apply answers_next
    | with_reducible apply keeps_ite | with_reducible apply keeps_foldl | with_reducible apply keeps_foldl_snd | intro _
    | extract_lets | simp -zeta only [keeps_upd] | split | dsimp only

theorem execLoopSwap_answers {ro : Bool} {z s : State} (h : Keeps ro z s) (r : Req) (tick : Nat) : Answers ro z (execLoopSwap r tick s) := by
  unfold execLoopSwap
  repeat' first
    | first | with_reducible assumption | with_reducible apply State.command_answers
    | with_reducible apply State.viaWrite_keeps | with_reducible apply thenWrite_keeps | with_reducible apply State.put_keeps
    | with_reducible apply wrSwapReq_keeps | with_reducible apply answers_next | with_reducible apply keeps_ite
    | with_reducible apply keeps_foldl | with_reducible apply keeps_foldl_snd | intro _ | extract_lets
    | simp -zeta only [keeps_upd] | split | dsimp only

theorem execArmStatus_answers {ro : Bool} {z s : State} (h : Keeps ro z s) (r : Req) (a : Nat) : Answers ro z (execArmStatus r a s) := by
  unfold execArmStatus
  repeat' first
    | first | with_reducible assumption | with_reducible apply State.command_answers | with_reducible apply State.status_keeps
    | with_reducible apply State.reply_keeps | with_reducible apply answers_next | with_reducible apply keeps_ite
    | with_reducible apply keeps_foldl | with_reducible apply keeps_foldl_snd | intro _ | extract_lets
    | simp -zeta only [keeps_upd] | split | dsimp only

theorem execFbRead_answers {ro : Bool} {z s : State} (h : Keeps ro z s) (r : Req) (space : Nat) (count : Nat) (first : Nat) : Answers ro z (execFbRead r space count first s) := by
  unfold execFbRead
  repeat' first
    | first | with_reducible assumption | with_reducible apply State.command_answers | with_reducible apply State.count_keeps
    | with_reducible apply State.status_keeps | with_reducible apply State.reply_keeps | with_reducible apply answers_next
    | with_reducible apply keeps_ite | with_reducible apply keeps_foldl | with_reducible apply keeps_foldl_snd | intro _
    | extract_lets | simp -zeta only [keeps_upd] | split | dsimp only

theorem execFbFreeze_answers {ro : Bool} {z s : State} (h : Keeps ro z s) (r : Req) (on : Nat) : Answers ro z (execFbFreeze r on s) := by
  unfold execFbFreeze
  repeat' first
    | first | with_reducible assumption | with_reducible apply State.command_answers | with_reducible apply State.status_keeps
    | with_reducible apply State.viaWrite_keeps | with_reducible apply wrFreeze_keeps | with_reducible apply answers_next
    | with_reducible apply keeps_ite | with_reducible apply keeps_foldl | with_reducible apply keeps_foldl_snd | intro _
    | extract_lets | simp -zeta only [keeps_upd] | split | dsimp only

theorem execDrList_answers {ro : Bool} {z s : State} (h : Keeps ro z s) (r : Req) : Answers ro z (execDrList r s) := by
  unfold execDrList
  repeat' first
    | first | with_reducible assumption | with_reducible apply State.command_answers | with_reducible apply State.reply_keeps
    | with_reducible apply answers_next | with_reducible apply keeps_ite | with_reducible apply keeps_foldl
    | with_reducible apply keeps_foldl_snd | intro _ | extract_lets | simp -zeta only [keeps_upd] | split | dsimp only

theorem execDrRead_answers {ro : Bool} {z s : State} (h : Keeps ro z s) (r : Req) (rnum : Nat) (ofs : Nat) (len : Nat) (ecc : Nat) : Answers ro z (execDrRead r rnum ofs len ecc s) := by
  unfold execDrRead
  repeat' first
    | first | with_reducible assumption | with_reducible apply State.command_answers | with_reducible apply State.status_keeps
    | with_reducible apply State.drEcc_keeps | with_reducible apply State.reply_keeps | with_reducible apply answers_next
    | with_reducible apply keeps_ite | with_reducible apply keeps_foldl | with_reducible apply keeps_foldl_snd | intro _
    | extract_lets | simp -zeta only [keeps_upd] | split | dsimp only

theorem execAdcCal_answers {ro : Bool} {z s : State} (h : Keeps ro z s) (r : Req) (cal : Nat) (rot : Nat) : Answers ro z (execAdcCal r cal rot s) := by
  unfold execAdcCal
  repeat' first
    | first | with_reducible assumption | with_reducible apply State.command_answers | with_reducible apply State.status_keeps
    | with_reducible apply State.viaWrite_keeps | with_reducible apply thenWrite_keeps | with_reducible apply wrCalStart_keeps
    | with_reducible apply wrRotStart_keeps | with_reducible apply answers_next | with_reducible apply keeps_ite
    | with_reducible apply keeps_foldl | with_reducible apply keeps_foldl_snd | intro _ | extract_lets
    | simp -zeta only [keeps_upd] | split | dsimp only

theorem execGateTest_answers {ro : Bool} {z s : State} (h : Keeps ro z s) (r : Req) (sel : Nat) (ch : Nat) : Answers ro z (execGateTest r sel ch s) := by
  unfold execGateTest
  repeat' first
    | first | with_reducible assumption | with_reducible apply State.command_answers | with_reducible apply wrTest_keeps
    | with_reducible apply State.status_keeps | with_reducible apply answers_next | with_reducible apply keeps_ite
    | with_reducible apply keeps_foldl | with_reducible apply keeps_foldl_snd | intro _ | extract_lets
    | simp -zeta only [keeps_upd] | split | dsimp only

theorem execBypassFire_answers {ro : Bool} {z s : State} (h : Keeps ro z s) (r : Req) (code : Nat) : Answers ro z (execBypassFire r code s) := by
  unfold execBypassFire
  repeat' first
    | first | with_reducible assumption | with_reducible apply State.command_answers | with_reducible apply State.status_keeps
    | with_reducible apply State.viaWrite_keeps | with_reducible apply thenWrite_keeps | with_reducible apply wrBypArm_keeps
    | with_reducible apply wrBypFire_keeps | with_reducible apply answers_next | with_reducible apply keeps_ite
    | with_reducible apply keeps_foldl | with_reducible apply keeps_foldl_snd | intro _ | extract_lets
    | simp -zeta only [keeps_upd] | split | dsimp only

theorem execLeaseStatus_answers {ro : Bool} {z s : State} (h : Keeps ro z s) (r : Req) : Answers ro z (execLeaseStatus r s) := by
  unfold execLeaseStatus
  repeat' first
    | first | with_reducible assumption | with_reducible apply State.command_answers | with_reducible apply State.reply_keeps
    | with_reducible apply answers_next | with_reducible apply keeps_ite | with_reducible apply keeps_foldl
    | with_reducible apply keeps_foldl_snd | intro _ | extract_lets | simp -zeta only [keeps_upd] | split | dsimp only

theorem execHandover_answers {ro : Bool} {z s : State} (h : Keeps ro z s) (r : Req) : Answers ro z (execHandover r s) := by
  unfold execHandover
  repeat' first
    | first | with_reducible assumption | with_reducible apply State.command_answers
    | with_reducible apply State.viaWrite_keeps | with_reducible apply wrHandover_keeps | with_reducible apply answers_next
    | with_reducible apply keeps_ite | with_reducible apply keeps_foldl | with_reducible apply keeps_foldl_snd | intro _
    | extract_lets | simp -zeta only [keeps_upd] | split | dsimp only

theorem execJoin_answers {ro : Bool} {z s : State} (h : Keeps ro z s) (r : Req) : Answers ro z (execJoin r s) := by
  unfold execJoin
  repeat' first
    | first | with_reducible assumption | with_reducible apply State.command_answers
    | with_reducible apply State.viaWrite_keeps | with_reducible apply wrJoin_keeps | with_reducible apply answers_next
    | with_reducible apply keeps_ite | with_reducible apply keeps_foldl | with_reducible apply keeps_foldl_snd | intro _
    | extract_lets | simp -zeta only [keeps_upd] | split | dsimp only

theorem execSafeStatus_answers {ro : Bool} {z s : State} (h : Keeps ro z s) (r : Req) : Answers ro z (execSafeStatus r s) := by
  unfold execSafeStatus
  repeat' first
    | first | with_reducible assumption | with_reducible apply State.command_answers | with_reducible apply State.reply_keeps
    | with_reducible apply answers_next | with_reducible apply keeps_ite | with_reducible apply keeps_foldl
    | with_reducible apply keeps_foldl_snd | intro _ | extract_lets | simp -zeta only [keeps_upd] | split | dsimp only

theorem execIdent_answers {ro : Bool} {z s : State} (h : Keeps ro z s) (r : Req) : Answers ro z (execIdent r s) := by
  unfold execIdent
  repeat' first
    | first | with_reducible assumption | with_reducible apply State.command_answers | with_reducible apply State.reply_keeps
    | with_reducible apply answers_next | with_reducible apply keeps_ite | with_reducible apply keeps_foldl
    | with_reducible apply keeps_foldl_snd | intro _ | extract_lets | simp -zeta only [keeps_upd] | split | dsimp only

theorem execAttest_answers {ro : Bool} {z s : State} (h : Keeps ro z s) (r : Req) (nonce : List Nat) : Answers ro z (execAttest r nonce s) := by
  unfold execAttest
  repeat' first
    | first | with_reducible assumption | with_reducible apply State.command_answers | with_reducible apply State.status_keeps
    | with_reducible apply State.reply_keeps | with_reducible apply answers_next | with_reducible apply keeps_ite
    | with_reducible apply keeps_foldl | with_reducible apply keeps_foldl_snd | intro _ | extract_lets
    | simp -zeta only [keeps_upd] | split | dsimp only

theorem execImgOpen_answers {ro : Bool} {z s : State} (h : Keeps ro z s) (r : Req) (target : Nat) (len : Nat) : Answers ro z (execImgOpen r target len s) := by
  unfold execImgOpen
  repeat' first
    | first | with_reducible assumption | with_reducible apply State.command_answers | with_reducible apply State.status_keeps
    | with_reducible apply State.idleWritten_keeps | with_reducible apply State.setImage_keeps
    | with_reducible apply State.setFw_keeps | with_reducible apply answers_next | with_reducible apply keeps_ite
    | with_reducible apply keeps_foldl | with_reducible apply keeps_foldl_snd | intro _ | extract_lets
    | simp -zeta only [keeps_upd] | split | dsimp only

theorem execImgData_answers {z s : State} (h : Keeps false z s) (r : Req) (ofs : Nat) (bytes : List Nat) : Answers false z (execImgData r ofs bytes s) := by
  unfold execImgData
  repeat' first
    | first | with_reducible assumption | with_reducible apply State.command_answers | with_reducible apply State.status_keeps
    | with_reducible apply State.imgStore_keeps | with_reducible apply answers_next | with_reducible apply keeps_ite
    | with_reducible apply keeps_foldl | with_reducible apply keeps_foldl_snd | intro _ | extract_lets
    | simp -zeta only [keeps_upd] | split | dsimp only

theorem execImgCheck_answers {ro : Bool} {z s : State} (h : Keeps ro z s) (r : Req) : Answers ro z (execImgCheck r s) := by
  unfold execImgCheck
  repeat' first
    | first | with_reducible assumption | with_reducible apply State.command_answers | with_reducible apply State.status_keeps
    | with_reducible apply State.used_keeps | with_reducible apply State.setImage_keeps | with_reducible apply State.put_keeps
    | with_reducible apply State.reply_keeps | with_reducible apply State.refuseImage_keeps
    | with_reducible apply answers_next | with_reducible apply keeps_ite | with_reducible apply keeps_foldl
    | with_reducible apply keeps_foldl_snd | intro _ | extract_lets | simp -zeta only [keeps_upd] | split | dsimp only

theorem execImgActivate_answers {ro : Bool} {z s : State} (h : Keeps ro z s) (r : Req) (target : Nat) : Answers ro z (execImgActivate r target s) := by
  unfold execImgActivate
  repeat' first
    | first | with_reducible assumption | with_reducible apply State.command_answers | with_reducible apply State.status_keeps
    | with_reducible apply State.refuseImage_keeps | with_reducible apply State.setFw_keeps
    | with_reducible apply State.put_keeps | with_reducible apply State.event_keeps | with_reducible apply answers_next
    | with_reducible apply keeps_ite | with_reducible apply keeps_foldl | with_reducible apply keeps_foldl_snd | intro _
    | extract_lets | simp -zeta only [keeps_upd] | split | dsimp only

theorem execImgStatus_answers {ro : Bool} {z s : State} (h : Keeps ro z s) (r : Req) : Answers ro z (execImgStatus r s) := by
  unfold execImgStatus
  repeat' first
    | first | with_reducible assumption | with_reducible apply State.command_answers | with_reducible apply State.reply_keeps
    | with_reducible apply answers_next | with_reducible apply keeps_ite | with_reducible apply keeps_foldl
    | with_reducible apply keeps_foldl_snd | intro _ | extract_lets | simp -zeta only [keeps_upd] | split | dsimp only

theorem execFirmwareConfirm_answers {ro : Bool} {z s : State} (h : Keeps ro z s) : Answers ro z (execFirmwareConfirm s) := by
  unfold execFirmwareConfirm
  repeat' first
    | first | with_reducible assumption | with_reducible apply State.inRun_answers | with_reducible apply State.setFw_keeps
    | with_reducible apply answers_next | with_reducible apply keeps_ite | with_reducible apply keeps_foldl
    | with_reducible apply keeps_foldl_snd | intro _ | extract_lets | simp -zeta only [keeps_upd] | split | dsimp only

theorem execTrialTimeout_answers {ro : Bool} {z s : State} (h : Keeps ro z s) (crashed : Bool) : Answers ro z (execTrialTimeout crashed s) := by
  unfold execTrialTimeout
  repeat' first
    | first | with_reducible assumption | with_reducible apply State.inRun_answers | with_reducible apply State.revert_keeps
    | with_reducible apply answers_next | with_reducible apply keeps_ite | with_reducible apply keeps_foldl
    | with_reducible apply keeps_foldl_snd | intro _ | extract_lets | simp -zeta only [keeps_upd] | split | dsimp only

theorem execBootImageCheck_answers {ro : Bool} {z s : State} (h : Keeps ro z s) (hdr : List Nat) (slot0 : List Nat) (slot1 : List Nat) : Answers ro z (execBootImageCheck hdr slot0 slot1 s) := by
  unfold execBootImageCheck
  repeat' first
    | first | with_reducible assumption | with_reducible apply State.inRun_answers | with_reducible apply State.setImage_keeps
    | with_reducible apply State.startSlot_keeps | with_reducible apply State.revert_keeps
    | with_reducible apply State.setFw_keeps | with_reducible apply State.raise_keeps | with_reducible apply answers_next
    | with_reducible apply keeps_ite | with_reducible apply keeps_foldl | with_reducible apply keeps_foldl_snd | intro _
    | extract_lets | simp -zeta only [keeps_upd] | split | dsimp only

theorem execTickalignReceive_answers {ro : Bool} {z s : State} (h : Keeps ro z s) (d : Nat) (m : TickAlign) (at' : Nat) (ok : Bool) : Answers ro z (execTickalignReceive d m at' ok s) := by
  unfold execTickalignReceive
  repeat' first
    | first | with_reducible assumption | with_reducible apply State.inDatum_answers | with_reducible apply State.count_keeps
    | with_reducible apply State.acceptAlign_keeps | with_reducible apply answers_next | with_reducible apply keeps_ite
    | with_reducible apply keeps_foldl | with_reducible apply keeps_foldl_snd | intro _ | extract_lets
    | simp -zeta only [keeps_upd] | split | dsimp only

theorem execAlignmentLoss_answers {ro : Bool} {z s : State} (h : Keeps ro z s) : Answers ro z (execAlignmentLoss s) := by
  unfold execAlignmentLoss
  repeat' first
    | first | with_reducible assumption | with_reducible apply State.inDatum_answers | with_reducible apply State.put_keeps
    | with_reducible apply State.raise_keeps | with_reducible apply answers_next | with_reducible apply keeps_ite
    | with_reducible apply keeps_foldl | with_reducible apply keeps_foldl_snd | intro _ | extract_lets
    | simp -zeta only [keeps_upd] | split | dsimp only

theorem execFollowerRephase_answers {ro : Bool} {z s : State} (h : Keeps ro z s) : Answers ro z (execFollowerRephase s) := by
  unfold execFollowerRephase
  repeat' first
    | first | with_reducible assumption | with_reducible apply State.inDatum_answers | with_reducible apply answers_next
    | with_reducible apply keeps_ite | with_reducible apply keeps_foldl | with_reducible apply keeps_foldl_snd | intro _
    | extract_lets | simp -zeta only [keeps_upd] | split | dsimp only

theorem execVarsReceive_answers {z s : State} (h : Keeps false z s) (d : Nat) (tick : Nat) (words : List (Nat × Nat)) (ok : Bool) : Answers false z (execVarsReceive d tick words ok s) := by
  unfold execVarsReceive
  repeat' first
    | first | with_reducible assumption | with_reducible apply State.inDatum_answers | with_reducible apply State.count_keeps
    | with_reducible apply State.setMemWord_keeps | with_reducible apply State.routeEvent_keeps
    | with_reducible apply answers_next | with_reducible apply keeps_ite | with_reducible apply keeps_foldl
    | with_reducible apply keeps_foldl_snd | intro _ | extract_lets | simp -zeta only [keeps_upd] | split | dsimp only

theorem execRailFault_answers {ro : Bool} {z s : State} (h : Keeps ro z s) (i : Nat) : Answers ro z (execRailFault i s) := by
  unfold execRailFault
  repeat' first
    | first | with_reducible assumption | with_reducible apply State.inRun_answers | with_reducible apply State.put_keeps
    | with_reducible apply State.raise_keeps | with_reducible apply answers_next | with_reducible apply keeps_ite
    | with_reducible apply keeps_foldl | with_reducible apply keeps_foldl_snd | intro _ | extract_lets
    | simp -zeta only [keeps_upd] | split | dsimp only

theorem execRailReturn_answers {ro : Bool} {z s : State} (h : Keeps ro z s) (i : Nat) : Answers ro z (execRailReturn i s) := by
  unfold execRailReturn
  repeat' first
    | first | with_reducible assumption | with_reducible apply State.inRun_answers | with_reducible apply State.put_keeps
    | with_reducible apply answers_next | with_reducible apply keeps_ite | with_reducible apply keeps_foldl
    | with_reducible apply keeps_foldl_snd | intro _ | extract_lets | simp -zeta only [keeps_upd] | split | dsimp only

theorem execRetentionDetector_answers {ro : Bool} {z s : State} (h : Keeps ro z s) : Answers ro z (execRetentionDetector s) := by
  unfold execRetentionDetector
  repeat' first
    | first | with_reducible assumption | with_reducible apply answers_next | with_reducible apply keeps_ite
    | with_reducible apply keeps_foldl | with_reducible apply keeps_foldl_snd | intro _ | extract_lets
    | simp -zeta only [keeps_upd] | split | dsimp only

theorem execTjMeasure_answers {ro : Bool} {z s : State} (h : Keeps ro z s) (tj : Nat) : Answers ro z (execTjMeasure tj s) := by
  unfold execTjMeasure
  repeat' first
    | first | with_reducible assumption | with_reducible apply State.inRun_answers | with_reducible apply State.put_keeps
    | with_reducible apply State.tempSource_keeps | with_reducible apply answers_next | with_reducible apply keeps_ite
    | with_reducible apply keeps_foldl | with_reducible apply keeps_foldl_snd | intro _ | extract_lets
    | simp -zeta only [keeps_upd] | split | dsimp only

theorem execShedStageFall_answers {ro : Bool} {z s : State} (h : Keeps ro z s) (mv : Nat) : Answers ro z (execShedStageFall mv s) := by
  unfold execShedStageFall
  repeat' first
    | first | with_reducible assumption | with_reducible apply State.inRun_answers
    | with_reducible apply State.showHolding_keeps | with_reducible apply State.setStage_keeps
    | with_reducible apply State.drShedFall_keeps | with_reducible apply State.updPblk_keeps
    | with_reducible apply State.refollow_keeps | with_reducible apply answers_next | with_reducible apply keeps_ite
    | with_reducible apply keeps_foldl | with_reducible apply keeps_foldl_snd | intro _ | extract_lets
    | simp -zeta only [keeps_upd] | split | dsimp only

theorem execWatchdogExpiry_answers {ro : Bool} {z s : State} (h : Keeps ro z s) : Answers ro z (execWatchdogExpiry s) := by
  unfold execWatchdogExpiry
  repeat' first
    | first | with_reducible assumption | with_reducible apply State.inRun_answers | with_reducible apply State.put_keeps
    | with_reducible apply State.raise_keeps | with_reducible apply State.processorReset_keeps
    | with_reducible apply answers_next | with_reducible apply keeps_ite | with_reducible apply keeps_foldl
    | with_reducible apply keeps_foldl_snd | intro _ | extract_lets | simp -zeta only [keeps_upd] | split | dsimp only

theorem execResetWarm_answers {ro : Bool} {z s : State} (h : Keeps ro z s) (r : Req) (key : Nat) : Answers ro z (execResetWarm r key s) := by
  unfold execResetWarm
  repeat' first
    | first | with_reducible assumption | with_reducible apply State.command_answers | with_reducible apply State.status_keeps
    | with_reducible apply State.warmReset_keeps | with_reducible apply answers_next | with_reducible apply keeps_ite
    | with_reducible apply keeps_foldl | with_reducible apply keeps_foldl_snd | intro _ | extract_lets
    | simp -zeta only [keeps_upd] | split | dsimp only

theorem execLeaseExpiry_answers {ro : Bool} {z s : State} (h : Keeps ro z s) : Answers ro z (execLeaseExpiry s) := by
  unfold execLeaseExpiry
  repeat' first
    | first | with_reducible assumption | with_reducible apply State.inStake_answers | with_reducible apply State.count_keeps
    | with_reducible apply State.raise_keeps | with_reducible apply answers_next | with_reducible apply keeps_ite
    | with_reducible apply keeps_foldl | with_reducible apply keeps_foldl_snd | intro _ | extract_lets
    | simp -zeta only [keeps_upd] | split | dsimp only

theorem execBlockPairReceive_answers {ro : Bool} {z s : State} (h : Keeps ro z s) (q : Nat) (frame : Nat) (at' : Nat) : Answers ro z (execBlockPairReceive q frame at' s) := by
  unfold execBlockPairReceive
  repeat' first
    | first | with_reducible assumption | with_reducible apply State.inStake_answers | with_reducible apply State.emit_keeps
    | with_reducible apply State.advance_keeps | with_reducible apply State.forwardBlock_keeps
    | with_reducible apply State.blockStake_keeps | with_reducible apply State.seeArmBlocked_keeps
    | with_reducible apply answers_next | with_reducible apply keeps_ite | with_reducible apply keeps_foldl
    | with_reducible apply keeps_foldl_snd | intro _ | extract_lets | simp -zeta only [keeps_upd] | split | dsimp only

theorem execBlockPairDatum_answers {ro : Bool} {z s : State} (h : Keeps ro z s) (p : Nat) (frame : Nat) : Answers ro z (execBlockPairDatum p frame s) := by
  unfold execBlockPairDatum
  repeat' first
    | first | with_reducible assumption | with_reducible apply State.inDatum_answers | with_reducible apply State.emit_keeps
    | with_reducible apply State.count_keeps | with_reducible apply State.put_keeps | with_reducible apply State.raise_keeps
    | with_reducible apply State.forwardBlock_keeps | with_reducible apply answers_next | with_reducible apply keeps_ite
    | with_reducible apply keeps_foldl | with_reducible apply keeps_foldl_snd | intro _ | extract_lets
    | simp -zeta only [keeps_upd] | split | dsimp only

theorem execTickmarkReceive_answers {ro : Bool} {z s : State} (h : Keeps ro z s) (q : Nat) (frame : Nat) (at' : Nat) : Answers ro z (execTickmarkReceive q frame at' s) := by
  unfold execTickmarkReceive
  repeat' first
    | first | with_reducible assumption | with_reducible apply State.inRun_answers | with_reducible apply State.emit_keeps
    | with_reducible apply State.advance_keeps | with_reducible apply State.forwardMark_keeps
    | with_reducible apply answers_next | with_reducible apply keeps_ite | with_reducible apply keeps_foldl
    | with_reducible apply keeps_foldl_snd | intro _ | extract_lets | simp -zeta only [keeps_upd] | split | dsimp only

theorem execTurnChange_answers {ro : Bool} {z s : State} (h : Keeps ro z s) : Answers ro z (execTurnChange s) := by
  unfold execTurnChange
  repeat' first
    | first | with_reducible assumption | with_reducible apply State.inRun_answers | with_reducible apply State.turnPort_keeps
    | with_reducible apply answers_next | with_reducible apply keeps_ite | with_reducible apply keeps_foldl
    | with_reducible apply keeps_foldl_snd | intro _ | extract_lets | simp -zeta only [keeps_upd] | split | dsimp only

theorem execTickStart_answers {z s : State} (h : Keeps false z s) (missX : Bool) (missY : Bool) : Answers false z (execTickStart missX missY s) := by
  unfold execTickStart
  repeat' first
    | first | (with_reducible exact fun h => h) | (with_reducible exact fun h => and_left h) | with_reducible assumption
    | with_reducible apply State.inDatum_answers | with_reducible apply State.tickBegin_keeps
    | with_reducible apply State.tickUnits_keeps | with_reducible apply State.applyDue_keeps
    | with_reducible apply State.tickStrobe_keeps | with_reducible apply State.sendFrames_keeps
    | with_reducible apply State.sendHeartbeat_keeps | with_reducible apply State.sendAlign_keeps
    | with_reducible apply answers_next | with_reducible apply keeps_ite | with_reducible apply keeps_foldl
    | with_reducible apply keeps_foldl_snd | intro _ | extract_lets | simp -zeta only [keeps_upd]
    | with_reducible refine keeps_updSf ?_ _ ?_ ?_ _ _ _ | split | dsimp only

theorem execSampleInstant_answers {ro : Bool} {z s : State} (h : Keeps ro z s) : Answers ro z (execSampleInstant s) := by
  unfold execSampleInstant
  repeat' first
    | first | with_reducible assumption | with_reducible apply State.inRun_answers | with_reducible apply State.advance_keeps
    | with_reducible apply State.gridSample_keeps | with_reducible apply State.heartbeatSample_keeps
    | with_reducible apply State.routeEvent_keeps | with_reducible apply answers_next | with_reducible apply keeps_ite
    | with_reducible apply keeps_foldl | with_reducible apply keeps_foldl_snd | intro _ | extract_lets
    | simp -zeta only [keeps_upd] | split | dsimp only

theorem execFrameBuildCutoff_answers {z s : State} (h : Keeps false z s) : Answers false z (execFrameBuildCutoff s) := by
  unfold execFrameBuildCutoff
  repeat' first
    | first | with_reducible assumption | with_reducible apply State.inDatum_answers
    | with_reducible apply State.advance_keeps | with_reducible apply State.noteRow_keeps
    | with_reducible apply State.decideTick_keeps | with_reducible apply State.unitStep_keeps
    | with_reducible apply State.closeMissing_keeps | with_reducible apply State.matchCutoff_keeps
    | with_reducible apply State.leaseCutoff_keeps | with_reducible apply State.sendTwin_keeps
    | with_reducible apply State.routeEvent_keeps | with_reducible apply State.takeLate_keeps
    | with_reducible apply answers_next | with_reducible apply keeps_ite | with_reducible apply keeps_foldl
    | with_reducible apply keeps_foldl_snd | intro _ | extract_lets | simp -zeta only [keeps_upd] | split | dsimp only

theorem execStakeTickStart_answers {ro : Bool} {z s : State} (h : Keeps ro z s) : Answers ro z (execStakeTickStart s) := by
  unfold execStakeTickStart
  repeat' first
    | first | with_reducible assumption | with_reducible apply State.inStake_answers
    | with_reducible apply State.predictTick_keeps | with_reducible apply State.releaseHeld_keeps
    | with_reducible apply State.stakeTick_keeps | with_reducible apply answers_next | with_reducible apply keeps_ite
    | with_reducible apply keeps_foldl | with_reducible apply keeps_foldl_snd | intro _ | extract_lets
    | simp -zeta only [keeps_upd] | split | dsimp only

theorem execStakeFrameDecode_answers {ro : Bool} {z s : State} (h : Keeps ro z s) (q : Nat) (f : Frame) (at' : Nat) (idles : Nat) : Answers ro z (execStakeFrameDecode q f at' idles s) := by
  unfold execStakeFrameDecode
  repeat' first
    | first | with_reducible assumption | with_reducible apply State.inStake_answers | with_reducible apply State.emit_keeps
    | with_reducible apply State.pairDecode_keeps | with_reducible apply State.timingComma_keeps
    | with_reducible apply State.advance_keeps | with_reducible apply State.absorbIdle_keeps
    | with_reducible apply State.decodeFrame_keeps | with_reducible apply State.tryDeblock_keeps
    | with_reducible apply answers_next | with_reducible apply keeps_ite | with_reducible apply keeps_foldl
    | with_reducible apply keeps_foldl_snd | intro _ | extract_lets | simp -zeta only [keeps_upd] | split | dsimp only

/-! ### Resets -/

/-- What a reset keeps: the queue, the direction of the clock and the canonical forms. -/
structure Steady (z s : State) : Prop where
  pending : s.pending = z.pending
  clock : z.now ≤ s.now
  sound : z.sound → s.sound

theorem Steady.rfl' (s : State) : Steady s s := ⟨rfl, Nat.le_refl _, fun h => h⟩

theorem Steady.trans {a b c : State} (h : Steady a b) (g : Steady b c) : Steady a c :=
  ⟨g.pending.trans h.pending, Nat.le_trans h.clock g.clock, fun x => g.sound (h.sound x)⟩

theorem Keeps.steady {ro : Bool} {z s : State} (h : Keeps ro z s) : Steady z s := ⟨h.pending, h.clock, h.sound⟩

/-- A reset state with some registers kept is sound. -/
theorem reset_sound : State.reset.sound := ⟨rfl, rfl, rfl, rfl⟩

/-- A power reset starts from the registers and the memory of reset. -/
theorem powerReset_base (s0 : State) (ph : Phase) : ∃ s1 : State, s1.pending = s0.pending ∧ s0.now ≤ s1.now ∧
    s1.mem = [] ∧ s1.live = [] ∧ s1.shd = [] ∧ s1.act = [] ∧ s1.phase = ph ∧
    s1.sf.x.permit = false ∧ s1.sf.y.permit = false ∧ Keeps true s1 (s0.powerReset ph) := by
  have hd : Keeps true s0 s0.dropPins := State.dropPins_keeps (Keeps.rfl' _ _)
  unfold State.powerReset
  extract_lets s r g f m w s1 s2
  refine ⟨s1, hd.pending, hd.clock, rfl, rfl, rfl, rfl, rfl, rfl, rfl, ?_⟩
  have h2 : Keeps true s1 s2 :=
    State.keep_keeps (State.keep_keeps (State.keep_keeps (Keeps.rfl' _ _) _ _) _ _) _ _
  exact keeps_ite _ (fun _ => h2) fun _ => State.keep_keeps h2 _ _

theorem State.powerReset_steady (s : State) (ph : Phase) : Steady s (s.powerReset ph) := by
  obtain ⟨s1, hp, hn, hm, hl, hs, ha, -, -, -, hk⟩ := powerReset_base s ph
  refine ⟨hk.pending.trans hp, Nat.le_trans hn hk.clock, fun _ => hk.sound ?_⟩
  exact ⟨by rw [hm]; rfl, by rw [hl]; rfl, by rw [hs]; rfl, by rw [ha]; rfl⟩

theorem State.shedReset_steady (s : State) : Steady s s.shedReset :=
  Steady.trans (Keeps.steady (State.count_keeps (Keeps.rfl' true _) _))
    (Steady.trans (State.powerReset_steady _ _) (Keeps.steady (State.put_keeps (Keeps.rfl' true _) _ _)))

theorem State.takeStraps_steady (s : State) (straps m : Nat) : Steady s (s.takeStraps straps m) := by
  unfold State.takeStraps
  extract_lets role datum s1
  have h1 : Steady s s1 := ⟨rfl, Nat.le_refl _, fun h => h⟩
  exact Steady.trans h1 (Keeps.steady (State.put_keeps (State.put_keeps (State.put_keeps (State.put_keeps
    (Keeps.rfl' true _) _ _) _ _) _ _) _ _))

theorem State.release_steady (s : State) (straps m i : Nat) : Steady s (s.release straps m i) := by
  unfold State.release
  extract_lets s1
  have h1 : Steady s s1 := State.takeStraps_steady s straps m
  split
  · exact h1
  · exact Steady.trans h1 (Keeps.steady (State.startDatum_keeps (State.takeRetained_keeps (Keeps.rfl' true _)) _))
  · exact Steady.trans h1 (Keeps.steady (State.startStake_keeps (State.takeRetained_keeps (Keeps.rfl' true _))))

/-- A meaning answers a next state with the same queue, no earlier, and sound if it was. -/
def Goes (z : State) (r : Result) : Prop := ∃ t, r = .next t ∧ Steady z t

theorem goes_ite {z a b : State} (c : Prop) [Decidable c] (ha : Steady z a) (hb : Steady z b) :
    Goes z (.next (if c then a else b)) := by
  split
  · exact ⟨_, rfl, ha⟩
  · exact ⟨_, rfl, hb⟩

theorem Answers.goes {ro : Bool} {z : State} {r : Result} (h : Answers ro z r) : Goes z r :=
  let ⟨t, e, k⟩ := h
  ⟨t, e, k.steady⟩

theorem Answers.goes_allowed {ro : Bool} {z : State} {r : Result} (h : Answers ro z.allowed r) : Goes z r :=
  let ⟨t, e, k⟩ := h
  ⟨t, e, ⟨k.pending, k.clock, k.sound⟩⟩

theorem execPornAssert_goes (s : State) : Goes s (execPornAssert s) := ⟨_, rfl, State.powerReset_steady s _⟩

theorem execSupplyReset_goes (s : State) : Goes s (execSupplyReset s) := by
  unfold execSupplyReset
  split
  · exact ⟨_, rfl, rfl, Nat.le_refl _, fun h => h⟩
  · exact goes_ite _ (State.shedReset_steady _) (State.powerReset_steady _ _)

theorem execResetRelease_goes (s : State) (straps m i : Nat) : Goes s (execResetRelease straps m i s) :=
  goes_ite _ (State.release_steady _ _ _ _) (Steady.rfl' _)

theorem execShedResetEntry_goes (s : State) : Goes s (execShedResetEntry s) := by
  unfold execShedResetEntry State.inRun
  split
  · exact goes_ite _ (State.shedReset_steady _) (Steady.rfl' _)
  · exact ⟨_, rfl, Steady.rfl' _⟩

theorem execShedResetRelease_goes (s : State) (straps i : Nat) : Goes s (execShedResetRelease straps i s) := by
  unfold execShedResetRelease
  split
  · extract_lets s1
    have h1 : Steady s s1 := State.release_steady _ _ _ _
    exact goes_ite _ (Steady.trans h1 (Keeps.steady (State.raise_keeps (Keeps.rfl' true _) _))) h1
  · exact ⟨_, rfl, Steady.rfl' _⟩

theorem execResetComplete_answers {ro : Bool} {z s : State} (h : Keeps ro z.allowed s) :
    Answers ro z.allowed (execResetComplete s) :=
  State.inDatum_answers (fun _ h => keeps_ite _ (fun _ => State.completeReset_keeps (State.advance_keeps h _)) fun _ => h) h

end Sys2Proof.Machine
end

