-- ==== Sys2Proof/Laws/Gate.lean ====
section
/-! SUPPORT. What the line-bit grid of GCMD guarantees (R150). -/
namespace Sys2Proof.Machine

/-- The grid point is at or after the cycle it is taken for. -/
theorem State.gridPoint_ge (s : State) (t : Nat) : t ≤ s.gridPoint t := by
  unfold State.gridPoint
  generalize (if s.tb.havePeriod = true then s.tb.period16 / 32 else 0) = p
  generalize s.tb.tickStart = k
  split
  · omega
  · rename_i h
    have h0 : (t - k) / p * p ≤ t - k := Nat.div_mul_le_self _ _
    have h1 := Nat.div_add_mod (t - k) p
    have h2 : 0 < p → (t - k) % p < p := fun h => Nat.mod_lt _ h
    rw [Nat.mul_comm] at h1
    dsimp only
    generalize (t - k) / p * p = m at *
    have e1 : t - (k + m) = (t - k) % p := by omega
    rw [e1]
    split
    · rename_i hc
      have := h2 (by omega)
      omega
    · omega

/-- A grid point is its own grid point. -/
theorem State.gridPoint_idem (s : State) (t : Nat) : s.gridPoint (s.gridPoint t) = s.gridPoint t := by
  unfold State.gridPoint
  generalize (if s.tb.havePeriod = true then s.tb.period16 / 32 else 0) = p
  generalize s.tb.tickStart = k
  by_cases h : t < k
  · simp only [h, if_true]
    by_cases h' : t + (k - t) % 2 < k
    · simp only [h', if_true]; omega
    · have e : t + (k - t) % 2 = k := by omega
      simp only [e, Nat.lt_irrefl, if_false, Nat.sub_self, Nat.zero_div, Nat.zero_mul, Nat.add_zero]
      simp
  · simp only [h, if_false]
    have h1 := Nat.div_add_mod (t - k) p
    have h2 : 0 < p → (t - k) % p < p := fun h => Nat.mod_lt _ h
    by_cases hp : p = 0
    · subst hp; simp; omega
    have hp' : 0 < p := Nat.pos_of_ne_zero hp
    have h2' := h2 hp'
    have hq : (t - k) / p * p + (t - k) % p = t - k := by rw [Nat.mul_comm]; exact h1
    generalize hmm : (t - k) / p = q at *
    generalize (t - k) % p = r at *
    have e1 : t - (k + q * p) = r := by omega
    rw [e1]
    clear h1 h2 hmm
    by_cases hc : p % 2 = 1 ∧ 0 < (r + 1) / 2 * 2 ∧ p ≤ (r + 1) / 2 * 2 + 1
    · rw [if_pos hc]
      have e2 : k + q * p + p - k = (q + 1) * p := by rw [Nat.succ_mul]; omega
      have n1 : ¬ k + q * p + p < k := by omega
      rw [if_neg n1, e2, Nat.mul_div_cancel _ hp', Nat.succ_mul]
      have e3 : k + q * p + p - (k + (q * p + p)) = 0 := by rw [Nat.add_assoc, Nat.sub_self]
      rw [e3]
      rw [if_neg (by omega)]
      omega
    · rw [if_neg hc]
      have n1 : ¬ k + q * p + (r + 1) / 2 * 2 < k := by omega
      rw [if_neg n1]
      have e2 : k + q * p + (r + 1) / 2 * 2 - k = (r + 1) / 2 * 2 + p * q := by rw [Nat.mul_comm p]; omega
      rw [e2, Nat.add_mul_div_left _ _ hp']
      by_cases hr : (r + 1) / 2 * 2 < p
      · rw [Nat.div_eq_of_lt hr, Nat.zero_add]
        have e3 : k + q * p + (r + 1) / 2 * 2 - (k + q * p) = (r + 1) / 2 * 2 := by omega
        rw [e3, if_neg (by omega)]; omega
      · have e3 : (r + 1) / 2 * 2 = p := by omega
        rw [e3, Nat.div_self hp', Nat.add_mul, Nat.one_mul]
        have e4 : k + q * p + p - (k + (p + q * p)) = 0 := by omega
        rw [e4, if_neg (by omega)]; omega
end Sys2Proof.Machine
end

