-- ==== Sys2Proof/Tests/Slice0.lean ====
section
/-! SUPPORT. Tests: values that the spec works out, single steps, ill-formed terms that the checks refuse, and for every
statement a state and operands that meet its hypotheses. -/

namespace Sys2Proof.Tests

set_option Elab.async false

open Sys2Proof Sys2Proof.Machine

/-! ### States and operands -/

/-- A Stake that runs. -/
def stk : State := { State.reset with phase := .run, now := 1000 }

/-- A Datum that runs. -/
def dat : State := { stk with role := .datum }

/-- A Stake whose converters have ended their calibration after PORn. -/
def idle : State := { stk.put AD_STAT_CAL_BUSY 0 with mg := { fw := { state := 1 } } }

/-- A valid CAP set of a Datum that the test port accepts. -/
def capA : Cap := Cap.sealed
  { role := 1, stepping := 0xB0, verMin := 1, verMax := 2, monument := 5, feed := 0x8001, ack := true, feReq := false,
    feRefused := false, ansReq := false, crc := 0 }

/-- A CAP set of a Stake without ACK and without a valid FEED. -/
def capB : Cap := Cap.sealed { capA with role := 0, feed := 5, ack := false, crc := 0 }

/-- A response to delay request 0. -/
def dmA : Dm := Dm.sealed { response := true, seq := 0, turn := 3, crc := 0 }


/-- A Datum whose Twin link is in ACTIVE. -/
def twd : State := dat.put (lstateFld twinLink) lsActive

/-- A heartbeat of a holder. -/
def hbA : Heartbeat :=
  { tick := 0, seq := 0, epoch := 9, state := 3, mode := 2, m := false, pref := true, fault := false, idcrc := 0, cfgcrc := 0 }

/-- A Datum that hears its twin. -/
def hears : State := { dat.put TW_STAT_HB_OK 1 with mg := { fw := { state := 1 } } }

/-- A Datum that hears a holder with the same images may ask to join. -/
theorem hears_join (s : State) (hd : s.isDatum = true) (hw : s.takesWrites = true) (h1 : s.on TW_STAT_HB_OK = true)
    (h2 : s.mode ≠ twJoin) :
    ∃ (t : State) (h : Heartbeat), t.isDatum = true ∧ t.takesWrites = true ∧ t.on TW_STAT_HB_OK = true ∧
      t.tw.hb = some h ∧ h.idcrc = t.idCrc ∧
      h.state = lsHold ∧ t.mode ≠ twJoin :=
  ⟨{ s with tw := { hb := some { hbA with idcrc := s.idCrc } } }, { hbA with idcrc := s.idCrc }, hd, hw, h1, rfl, rfl,
    rfl, h2⟩

/-- A Datum in ACTIVE that holds may grant a join to a twin of the same images. -/
theorem hears_same (s : State) (hd : s.isDatum = true) (h1 : s.twinUp = true) (h2 : s.lease = lsHold) :
    ∃ (t : State) (h : Heartbeat), t.isDatum = true ∧ t.twinUp = true ∧ t.lease = lsHold ∧ t.tw.hb = some h ∧
      h.idcrc = t.idCrc :=
  ⟨{ s with tw := { s.tw with hb := some { hbA with idcrc := s.idCrc } } }, { hbA with idcrc := s.idCrc }, hd, h1, h2,
    rfl, rfl⟩

/-- A Datum may hear a twin of other images. -/
theorem hears_other (s : State) (hd : s.isDatum = true) (hw : s.takesWrites = true) (h1 : s.on TW_STAT_HB_OK = true) :
    ∃ (t : State) (h : Heartbeat), t.isDatum = true ∧ t.takesWrites = true ∧ t.on TW_STAT_HB_OK = true ∧
      t.tw.hb = some h ∧ h.idcrc ≠ t.idCrc :=
  ⟨{ s with tw := { hb := some { hbA with idcrc := s.idCrc + 1 } } }, { hbA with idcrc := s.idCrc + 1 }, hd, hw, h1, rfl,
    Nat.succ_ne_self _⟩

/-- A Datum may hear a twin of the same images that does not hold. -/
theorem hears_free (s : State) (hd : s.isDatum = true) (hw : s.takesWrites = true) :
    ∃ (t : State) (h : Heartbeat), t.isDatum = true ∧ t.takesWrites = true ∧ t.tw.hb = some h ∧ h.idcrc = t.idCrc ∧
      (h.state ≠ lsHold ∨ t.mode = twJoin) :=
  ⟨{ s with tw := { hb := some { hbA with idcrc := s.idCrc, state := 0 } } }, { hbA with idcrc := s.idCrc, state := 0 },
    hd, hw, rfl,
    rfl, .inl (Nat.zero_ne_add_one 2)⟩

/-- A Stake whose firmware runs. -/
def mgs : State := { stk with mg := { fw := { state := 1 } } }

/-- A Stake whose recorder may be armed: rows after each pass of converter 0, of two channels. -/
def armable : State :=
  ((((mgs.put DR_CFG_CLK 1).putCfg (AD_SEQ_CFG_GRID_EN 0) 1).putCfg (AD_SEQ_CFG_PER 0) 5000).put (DR_CH_SRC_TYPE 0) 1).put
    (DR_CH_SRC_TYPE 63) 4

/-- A Stake whose recorder is armed at the tick start of tick 1. -/
def rowStk : State := { stk.put DR_STAT_STATE 1 with dr := { ticks := 1 } }

/-- A Datum that streams a record by UDP. -/
def streams : State :=
  (((dat.setSeg 0 { post := List.replicate 100 { time := 0, vals := [1, 2] } }).put (DR_SEG_STAT_STATE 0) 2).put
    DR_STREAM_EN 1).put DR_STREAM_PORT 1

/-- A NOP request. -/
def pkA : Packet := Packet.make 0 5 []

/-- A Datum whose firmware runs. -/
def mgd : State := { dat with mg := { fw := { state := 1 } } }

/-- A Datum with a PCI Express queue whose tail is at its end. -/
def qd : State := { mgd with mg := { mgd.mg with queues := [(3, { en := true, depth := 128, sqTail := 127 })] } }

/-- A Datum with a complete record. -/
def mgdRec : State := (mgd.setSeg 0 { rnum := 0xFFFFFFFF }).put (DR_SEG_STAT_STATE 0) 2

/-- All Stakes of port 15. -/
def tgA : Target := { ports := 0x8000, mode := 0, addr := 0, monument := 0 }

/-- A Datum with a local transaction that is open. -/
def mgdTxn : State := { mgd with mg := { mgd.mg with txns := [{ id := 1, scope := 0, target := tgA }] } }

/-- A Datum that hears a holder with the same images serves JOIN. -/
theorem serves_join (s : State) (ht : s.thokaRuns = true) (hv : s.mg.fw.recovery = false) (hd : s.role = .datum)
    (h1 : s.on TW_STAT_HB_OK = true) (h2 : s.mode ≠ twJoin) :
    ∃ (t : State) (h : Heartbeat), t.thokaRuns = true ∧ t.mg.fw.recovery = false ∧ t.role = .datum ∧
      t.on TW_STAT_HB_OK = true ∧ t.tw.hb = some h ∧ h.idcrc = t.idCrc ∧ h.state = lsHold ∧ t.mode ≠ twJoin :=
  ⟨{ s with tw := { hb := some { hbA with idcrc := s.idCrc } } }, { hbA with idcrc := s.idCrc }, ht, hv, hd, h1, rfl, rfl,
    rfl, h2⟩

/-- A Datum with a Stake-scope transaction in a state. -/
def mgdStk (st : Nat) : State :=
  { mgd with mg := { mgd.mg with txns := [{ id := 1, scope := 1, target := tgA, state := st }] } }

/-- A Datum in tick 7 with a transaction of a scope that is committed for it. -/
def tickStk (scope : Nat) : State :=
  { mgd.put TB_STAT_TICK_RUN 1 with
    mg := { mgd.mg with txns := [{ id := 1, scope := scope, target := tgA, state := txCommitted, tick := 7 }] }
    tb := { tick := 7, started := true } }

/-- A Stake that holds a prepared transaction. -/
def heldStk (k : Option Nat) : State :=
  { mgs with mg := { mgs.mg with held := some { txid := 1, total := 0, ready := true, tick := k } } }

/-- An image of a kind with an empty body. -/
def imgA (kind : Nat) : List Nat :=
  let m := [0x4E, 0x4C, 0x49, 0x4D, kind, 0, 0, 255] ++ List.replicate 12 0 ++ sha256 [] ++ List.replicate 8 0
  m ++ le 4 (crc32 m)

/-- A boot header that names slot 0. -/
def bootA : List Nat :=
  let h := [0x4E, 0x4C, 0x42, 0x48, 1, 0, 5, 0] ++ List.replicate 52 0
  h ++ le 4 (crc32 h)

/-- A Datum with an image open in firmware slot 1. -/
def checkable : State :=
  { mgd with mg := { fw := { state := 1, opened := some 1, image := [(1, { bytes := imgA 0, len := 64 })] } } }

/-- A Datum with a checked image in firmware slot 1. -/
def activable : State :=
  { mgd with mg := { fw := { state := 1, image := [(1, { bytes := imgA 0, len := 64, checked := true })] } } }

/-- A TICKALIGN of the benchmark. -/
def taA : TickAlign := { tick := 7, period := 5000, sec := 0, ofs := 0, depth := 0, aligned := true, txofs := 32 }

/-- A follower with a neighbour in ACTIVE. -/
def follows : State := { dat.put (CL_BL_STAT_VAL 3) lsActive with clpos := 8 }

/-- A VAUXS that lies below level `n` of the reset levels alone and those above it. -/
def levelWit (n : Nat) : Nat := stk.cfg (SH_LVL_LEVEL n) - 1

/-- A blocked Datum whose reset may complete. -/
def resettable : State :=
  { ((((dat.put SF_STAT_PROOF 1).put SF_STAT_CFG_LOCKED 1).put SF_STAT_CFG_MATCH 1).put SF_STAT_XLINK_OK 1) with
    sf := { x := { proof := true, pressOk := true, relAllAt := some 900 }, y := { proof := true, pressOk := true, relAllAt := some 900 } } }

/-- A report of an inserted Stake. -/
def slotA : TeleSlot := { vs := 5 + 2 ^ 22, temp := 0, fsum := 0, epoch := 0, crc := 0, wr := 0xA5 }

/-- A header of a holder on board B. -/
def hdrA : Header :=
  { seq := 7, tick := 0, sender := 0x8100, fmt := 2, flags := 4, epoch := 1, slots := 0, msize := 8, hcrc := 0 }

/-- A frame whose header names a holder on board A and whose entries are in use. -/
def frameA : Frame :=
  { hdr := { hdrA with sender := 0x8000 }
    arms := List.replicate 6 (ArmEntry.sealed { n := 3, aflags := 1, apply := 500 })
    pduX := {}, pduY := {}, mgmt := {}, slots := [], wcount := 0, rcrc := 0 }

/-- A Stake that acts on `frameA`. -/
def acts : State :=
  { (((stk.put TB_STAT_TICK_LOCK 1).put LS_SREC_VALID 1).put LS_SEPOCH_EPOCH 1) with tb := { tickStart := 900 } }

/-- A blocked Stake that meets the conditions of deblock on T0. -/
def deblocks : State :=
  { (((stk.put TB_STAT_TICK_LOCK 1).put LVL_SIDX_ADOPTED 1).put (TRV_STAT_STATE 0) 6) with
    sf := { x := { permTick := [(0, 0)] }, y := { permTick := [(0, 0)] } } }

/-- A Datum whose tick ends with the next cycle, before a new grid. -/
def ending : State :=
  { dat.put TB_STAT_TICK_RUN 1 with tb := { placed := true, newGrid := true, nextStart := 1001 } }

/-- A DA set. -/
def daA : Da := Da.sealed { acc := 16, far := 0, accValid := true, farValid := false, crc := 0 }

/-- An arm entry. -/
def entryA : ArmEntry := ArmEntry.sealed { n := 3, aflags := 1, apply := 500 }

/-- A PERMIT PDU of channel X. -/
def pduA : Pdu := { chan := 0x58, cmd := 0xA5, arms := 1, src := 0x8000 }

/-- A free management slot. -/
def mslotA : MgmtSlot := {}

/-- A SHARE. -/
def shA : Share := { conv := 3, pass := 1, tick := 0, res := [0xFFFF] }

/-- A DIGEST. -/
def dgA : Digest := { seq := 0, tick := 0, crc := 0 }

/-- A CONTROL. -/
def ctA : Control := { kind := 1, tick := 0 }

/-- A STATE with one line. -/
def stA : StateMsg :=
  { tick := 0, lines := [(0, List.replicate 64 255)], arms := List.replicate 6 { last := {}, repeats := 0, zeroRun := 0 }
    absent := [1023], og := List.replicate 16 {}, units := none, last := true }

/-- A request origin. -/
def rqA : Req := { origin := .udp 0, tag := 0xFFFF }

/-- A reply. -/
def rpA : Reply := { tag := 0, status := 0, rflags := 0, data := [], rcrc := 0 }

/-- A forwarded request. -/
def msgA : MgmtMsg := { entry := 0, dest := 3, key := 0, body := .request pkA }

/-- An empty adoption store. -/
def adA : AdoptStore := { table := [(1023, 1)], mine := some (0xFFFF, 63, 5, 1023) }

/-- A report of VAUXS below all levels. -/
def vrA : VauxReport := { below := 4, mv := 0xFFFF }

/-! ### Values of the spec -/

/-- The CRC-16, CRC-8 and CRC-32 of "123456789" (R94, R102, R403). -/
theorem test_crcs : crc16 [49, 50, 51, 52, 53, 54, 55, 56, 57] = 0x29B1 ∧ crc8 [49, 50, 51, 52, 53, 54, 55, 56, 57] = 0xF4 ∧
    crc32 [49, 50, 51, 52, 53, 54, 55, 56, 57] = 0xCBF43926 := by decide +kernel

/-- The SHA-256 of no bytes and of "abc" begins as published (R353). -/
theorem test_sha256 : (sha256 []).take 4 = [0xE3, 0xB0, 0xC4, 0x42] ∧ (sha256 [97, 98, 99]).take 4 = [0xBA, 0x78, 0x16,
  0xBF] := by
  decide +kernel

/-- The keys of a table of (index, VCODE, INS) with HOLD = 4000 mV. -/
def exampleKeys (dir : Bool) (rows : List (Nat × Nat × Nat)) : List Nat :=
  sortNat (rows.map fun r => keyOf { slotA with vs := r.2.1 + 2 ^ 22 * r.2.2 } dir 4000 r.1)

/-- The decision of epoch e in the worked example of 05_levelling.md. -/
theorem test_levelling_charging :
    threshold (exampleKeys false [(0, 2201500, 1), (1, 2196200, 0), (2, 2203800, 0), (3, 2199100, 1), (4, 2194700, 0),
      (5, 2205300, 1), (6, 2198000, 0), (7, 2200400, 0), (8, 2197600, 1), (9, 2202900, 0), (10, 2199900, 1),
      (11, 2206200, 0)]) 6 false = (0x8627C006, some 0x8627C006) := by decide +kernel

/-- The decision of epoch e + 1: T is (2198200, 6). -/
theorem test_levelling_held :
    threshold (exampleKeys false [(0, 2199200, 1), (1, 2197000, 1), (2, 2203800, 0), (4, 2195500, 1), (5, 2205300, 0),
      (6, 2198200, 0), (7, 2200400, 0), (8, 2198400, 1), (10, 2200700, 1), (11, 2206200, 0)]) 5 false =
      (2198200 * 1024 + 6, some (2198200 * 1024 + 6)) := by decide +kernel

/-- The decision of epoch e + 2, discharging: T is 0x86619000, and the trim Stake is index 10. -/
theorem test_levelling_discharging :
    threshold (exampleKeys true [(0, 2197700, 1), (1, 2197800, 1), (2, 2203800, 0), (3, 2199600, 1), (4, 2196300, 1),
      (5, 2205300, 0), (6, 2198800, 0), (7, 2200400, 0), (8, 2199200, 1), (10, 2197500, 1), (11, 2206200, 0)]) 7 true =
      (0x86619000, some (2201500 * 1024 + 10)) := by decide +kernel

/-- A Stake with the voltage scale of the worked example of 07_measurement_and_aux_supply.md. -/
def kelvath : State := (stk.putCfg AD_VSCALE_MUL 4000000).putCfg AD_VOFS_OFS 0

/-- VCODE of the worked example: 2200 V, 2800 V, the first code at or above the level of OV2, and full scale. -/
theorem test_vcode : kelvath.vcodeOf 36045 = 2200012 ∧ kelvath.vcodeOf 45875 = 2799987 ∧ kelvath.vcodeOf 45876 = 2800048 ∧
    kelvath.vcodeOf 65535 = 3999938 := by decide +kernel

/-! ### Single steps -/

/-- ROLE[1:0] = 1 makes a Datum whose ports turn the stream (R1, R122); ROLE[1:0] = 0 a Stake with TURN = 2 (R121). -/
theorem test_release :
    (∃ t, execResetRelease 1 5 0 State.reset = .next t ∧ t.role = .datum ∧ t.monument = 5 ∧ t.cfg (TRV_FCFG_DTURN 15) = 1 ∧
      t.on TB_STAT_TIME_VALID = true) ∧
    (∃ t, execResetRelease 0 5 0 State.reset = .next t ∧ t.role = .stake ∧ t.cfg (TRV_FCFG_TURN 0) = 2 ∧
      t.cfgOn (TRV_CTRL_EN 1) = true) :=
  ⟨⟨_, rfl, by decide +kernel, by decide +kernel, by decide +kernel, by decide +kernel⟩,
    ⟨_, rfl, by decide +kernel, by decide +kernel, by decide +kernel⟩⟩

/-- The queue is first in, first out: the first command takes a Datum out of reset, the second is left to wait. -/
theorem test_queue :
    ∃ t, step { State.reset with pending := [.resetRelease 1 0 0, .pornAssert] } = .next t ∧ t.pending = [.pornAssert] ∧
      t.role = .datum := ⟨_, rfl, by decide +kernel, by decide +kernel⟩

/-- The table gives no row any bits. -/
theorem test_decode : decodeTableWord 32 0 = none ∧ decodeTableWord 0 0 = none := by decide +kernel

/-- A value of TB_FTRIM beyond 100 ppm completes BAD_PARAM and one of 100 ppm is taken (R46). -/
theorem test_ftrim : (wrFtrim 6553601 dat).1 = stBadParam ∧ (wrFtrim 6553600 dat).1 = stOk ∧
    (wrFtrim (2 ^ 32 - 6553600) dat).1 = stOk := by decide +kernel

/-- R150: in an odd tick of 5001 cycles the last line bit before the next tick start is 6 ns long; otherwise an odd
cycle is rounded up to the next line bit. -/
theorem test_line_bit_grid :
    (let s : State := { stk with tb := { stk.tb with tickStart := 1000, havePeriod := true, period16 := 5001 * 32 } }
     [s.gridPoint 1000, s.gridPoint 1001, s.gridPoint 5998, s.gridPoint 5999, s.gridPoint 6001, s.gridPoint 6002]) =
      [1000, 1002, 5998, 6001, 6001, 6003] := by decide +kernel

/-! ### Words of the spec's tables -/

/-- The byte values of R61. -/
theorem test_control_symbols :
    [Ctl.sof, .idle, .eof, .block, .tickmark, .da, .dm, .cap, .ts, .err].map ctlByte =
      [0xBC, 0x3C, 0xFD, 0x5C, 0x7C, 0x9C, 0xDC, 0xFB, 0x1C, 0xFE] := by decide +kernel

/-- The line bits of OFF, ON and SOFTOFF, and the lengths of SETS and TEST (R152). -/
theorem test_gate_symbols :
    ([Sym.off, .on, .softoff].map fun y => (symLine y).map Bool.toNat) =
      [[0, 0, 0, 1, 0, 1, 0, 1, 0, 1], [0, 0, 1, 1, 0, 1, 0, 1, 1, 1], [0, 0, 0, 1, 1, 1, 0, 1, 1, 1]] ∧
    (Sym.sets 2 63).bits = 26 ∧ (Sym.test 3).bits = 16 := by decide +kernel

/-- PRBS7 repeats after 127 bits, and not after 63 (R90). -/
theorem test_prbs7 : let h := true :: List.replicate 6 false
    prbsRun 7 6 h 127 = h ∧ prbsRun 7 6 h 63 ≠ h := by decide +kernel

/-- The bytes of a completion entry (R336): TAG 0x1234, status 6, phase 1, a reply of 300 bytes, head 5 of queue 3. -/
theorem test_completion_entry :
    completionEntry 0x1234 6 300 5 3 true = [0x34, 0x12, 6, 1, 0x2C, 1, 0, 0, 5, 0, 3, 0, 0, 0, 0, 0] := by decide +kernel

/-- The head of a chunk with LAST (R326): record 7, offset 1024, two bytes. -/
theorem test_chunk_bytes : (chunkBytes 7 1024 1 [9, 8]).length = 22 ∧
    (chunkBytes 7 1024 1 [9, 8]).take 18 = [7, 0, 0, 0, 0, 4, 0, 0, 0, 0, 0, 0, 2, 0, 1, 0, 9, 8] := by decide +kernel

/-- The submission entry names a 64-bit address (R336). -/
theorem test_sq_address : (Instr.sqTailDoorbell 1 1 [(64, 2 ^ 64, pkA)]).wellFormed = false ∧
    (Instr.sqTailDoorbell 1 1 [(64, 2 ^ 64 - 1, pkA)]).wellFormed = true := by decide +kernel

/-- The row of a tick start is due once (R314). -/
theorem test_row_once : rowStk.rowDue = true ∧ rowStk.rowTaken.rowDue = false := by decide +kernel

/-- The second command of a source does not start before the first (R333). -/
theorem test_started_in_order :
    let a : Req := { origin := .udp 1, tag := 1 }
    let b : Req := { origin := .udp 1, tag := 2 }
    let s : State := { mgs with mg := { mgs.mg with reqs := [a, b] } }
    s.starts a = true ∧ s.starts b = false := by decide +kernel

/-! ### Well-formedness -/

/-- A Cap with one field out of range is refused, for each of its fields. -/
theorem test_cap_fits : capA.fits = true ∧
    ([{ capA with role := 256 }, { capA with stepping := 256 }, { capA with verMin := 256 }, { capA with verMax := 256 },
      { capA with monument := 2 ^ 128 }, { capA with feed := 65536 },
        { capA with crc := 65536 }] : List Cap).all (!·.fits) = true := by decide +kernel

/-- A Dm with one field out of range is refused, for each of its fields. -/
theorem test_dm_fits : dmA.fits = true ∧
    ([{ dmA with seq := 256 }, { dmA with turn := 2 ^ 32 }, { dmA with crc := 256 }] : List Dm).all (!·.fits) = true :=
      by decide +kernel

/-- A Da with one field out of range is refused, for each of its fields. -/
theorem test_da_fits : daA.fits = true ∧
    ([{ daA with acc := 2 ^ 32 }, { daA with far := 2 ^ 32 }, { daA with crc := 256 }] : List Da).all (!·.fits) = true :=
      by decide +kernel

/-- A Header with one field out of range is refused, for each of its fields. -/
theorem test_header_fits : hdrA.fits = true ∧
    ([{ hdrA with seq := 2 ^ 32 }, { hdrA with tick := 2 ^ 32 }, { hdrA with sender := 65536 }, { hdrA with fmt := 256 },
      { hdrA with flags := 256 }, { hdrA with epoch := 2 ^ 32 }, { hdrA with slots := 256 }, { hdrA with msize := 256 },
      { hdrA with hcrc := 2 ^ 32 }] : List Header).all (!·.fits) = true := by decide +kernel

/-- A ArmEntry with one field out of range is refused, for each of its fields. -/
theorem test_armEntry_fits : entryA.fits = true ∧
    ([{ entryA with n := 65536 }, { entryA with aflags := 65536 }, { entryA with t := 2 ^ 32 },
      { entryA with frac := 65536 }, { entryA with trim := 65536 }, { entryA with hold := 65536 },
      { entryA with apply := 65536 }, { entryA with epoch := 2 ^ 32 },
        { entryA with acrc := 2 ^ 32 }] : List ArmEntry).all (!·.fits) = true := by decide +kernel

/-- A Pdu with one field out of range is refused, for each of its fields. -/
theorem test_pdu_fits : pduA.fits = true ∧
    ([{ pduA with chan := 256 }, { pduA with cmd := 256 }, { pduA with arms := 256 }, { pduA with rsv3 := 256 },
      { pduA with cnt := 2 ^ 32 }, { pduA with src := 65536 }, { pduA with rsv10 := 65536 },
        { pduA with scrc := 2 ^ 32 }] : List Pdu).all (!·.fits) = true := by decide +kernel

/-- A MgmtSlot with one field out of range is refused, for each of its fields. -/
theorem test_mgmtSlot_fits : mslotA.fits = true ∧
    ([{ mslotA with kind := 256 }, { mslotA with used := 65536 }, { mslotA with area := [256] },
      { mslotA with mcrc := 2 ^ 32 }] : List MgmtSlot).all (!·.fits) = true := by decide +kernel

/-- A TeleSlot with one field out of range is refused, for each of its fields. -/
theorem test_teleSlot_fits : slotA.fits = true ∧
    ([{ slotA with vs := 2 ^ 32 }, { slotA with temp := 65536 }, { slotA with fsum := 65536 },
      { slotA with epoch := 2 ^ 32 }, { slotA with wr := 256 },
        { slotA with crc := 65536 }] : List TeleSlot).all (!·.fits) = true := by decide +kernel

/-- A Frame with one field out of range is refused, for each of its fields. -/
theorem test_frame_fits : frameA.fits = true ∧
    ([{ frameA with hdr := { hdrA with seq := 2 ^ 32 } }, { frameA with arms := [] },
      { frameA with arms := List.replicate 6 { n := 65536 } }, { frameA with pduX := { chan := 256 } },
      { frameA with pduY := { chan := 256 } }, { frameA with mgmt := { kind := 256 } },
      { frameA with mgmt := { area := List.replicate 121 0 } }, { frameA with slots := [slotA] },
      { frameA with wcount := 65536 }, { frameA with rcrc := 2 ^ 32 }] : List Frame).all (!·.fits) = true :=
        by decide +kernel

/-- A Heartbeat with one field out of range is refused, for each of its fields. -/
theorem test_heartbeat_fits : hbA.fits = true ∧
    ([{ hbA with tick := 2 ^ 64 }, { hbA with seq := 2 ^ 32 }, { hbA with epoch := 2 ^ 32 }, { hbA with state := 4 },
      { hbA with mode := 4 }, { hbA with idcrc := 2 ^ 32 },
        { hbA with cfgcrc := 2 ^ 32 }] : List Heartbeat).all (!·.fits) = true := by decide +kernel

/-- A Share with one field out of range is refused, for each of its fields. -/
theorem test_share_fits : shA.fits = true ∧
    ([{ shA with conv := 4 }, { shA with pass := 256 }, { shA with tick := 2 ^ 32 },
      { shA with res := [65536] }] : List Share).all (!·.fits) = true := by decide +kernel

/-- A Digest with one field out of range is refused, for each of its fields. -/
theorem test_digest_fits : dgA.fits = true ∧
    ([{ dgA with seq := 2 ^ 32 }, { dgA with tick := 2 ^ 32 },
      { dgA with crc := 2 ^ 32 }] : List Digest).all (!·.fits) = true := by decide +kernel

/-- A Control with one field out of range is refused, for each of its fields. -/
theorem test_control_fits : ctA.fits = true ∧
    ([{ ctA with kind := 256 }, { ctA with tick := 2 ^ 32 }] : List Control).all (!·.fits) = true := by decide +kernel

/-- A StateMsg with one field out of range is refused, for each of its fields. -/
theorem test_stateMsg_fits : stA.fits = true ∧
    ([{ stA with tick := 2 ^ 64 }, { stA with lines := [(0, [])] }, { stA with lines := [(0, List.replicate 64 256)] },
      { stA with lines := [(2 ^ 32, List.replicate 64 0)] }, { stA with arms := [] },
      { stA with arms := List.replicate 6 { last := { n := 65536 }, repeats := 0, zeroRun := 0 } },
      { stA with absent := [1024] }, { stA with og := [] }] : List StateMsg).all (!·.fits) = true := by decide +kernel

/-- A TickAlign with one field out of range is refused, for each of its fields. -/
theorem test_tickAlign_fits : taA.fits = true ∧
    ([{ taA with tick := 2 ^ 64 }, { taA with period := 65536 }, { taA with sec := 2 ^ 64 }, { taA with ofs := 2 ^ 32 },
      { taA with depth := 256 }, { taA with txofs := 2 ^ 32 }] : List TickAlign).all (!·.fits) = true := by decide +kernel

/-- A Packet with one field out of range is refused, for each of its fields. -/
theorem test_packet_fits : pkA.fits = true ∧
    ([{ pkA with opcode := 65536 }, { pkA with tag := 65536 }, { pkA with len := 65536 }, { pkA with flags := 65536 },
      { pkA with txid := 65536 }, { pkA with params := [256] },
        { pkA with pcrc := 2 ^ 32 }] : List Packet).all (!·.fits) = true := by decide +kernel

/-- A Reply with one field out of range is refused, for each of its fields. -/
theorem test_reply_fits : rpA.fits = true ∧
    ([{ rpA with tag := 65536 }, { rpA with status := 256 }, { rpA with rflags := 256 }, { rpA with data := [256] },
      { rpA with rcrc := 65536 }] : List Reply).all (!·.fits) = true := by decide +kernel

/-- A MgmtMsg with one field out of range is refused, for each of its fields. -/
theorem test_mgmtMsg_fits : msgA.fits = true ∧
    ([{ msgA with entry := 256 }, { msgA with dest := 256 }, { msgA with key := 2 ^ 160 },
      { msgA with body := .request { pkA with tag := 65536 } },
        { msgA with body := .reply { rpA with tag := 65536 } }] : List MgmtMsg).all (!·.fits) = true := by decide +kernel

/-- A Target with one field out of range is refused, for each of its fields. -/
theorem test_target_fits : tgA.fits = true ∧
    ([{ tgA with ports := 65536 }, { tgA with mode := 256 }, { tgA with addr := 65536 },
      { tgA with monument := 2 ^ 128 }] : List Target).all (!·.fits) = true := by decide +kernel

/-- A AdoptStore with one field out of range is refused, for each of its fields. -/
theorem test_adoptStore_fits : adA.fits = true ∧
    ([{ adA with table := [(1024, 0)] }, { adA with table := [(0, 2 ^ 128)] },
      { adA with mine := some (65536, 0, 0, 0) }, { adA with mine := some (0, 64, 0, 0) },
      { adA with mine := some (0, 0, 6, 0) },
        { adA with mine := some (0, 0, 0, 1024) }] : List AdoptStore).all (!·.fits) = true := by decide +kernel

/-- A VauxReport with one field out of range is refused, for each of its fields. -/
theorem test_vauxReport_fits : vrA.fits = true ∧
    ([{ vrA with below := 5 }, { vrA with mv := 2 ^ 16 }] : List VauxReport).all (!·.fits) = true := by decide +kernel

/-- Commands with operands in range are well-formed. -/
theorem test_wellFormed_1 :
    ([.resetRelease 1 1 1, .clockFault 1, .railFault 1, .tjMeasure 1, .tickStart true true,
      .datumFrameReceive 1 frameA 1 1, .stakeFrameDecode 1 frameA 1 1, .daSetReceive 1 daA, .tickmarkReceive 1 1 1,
      .blockPairReceive 1 1 1, .blockPairDatum 1 1, .isolatedUrgent 1, .codeViolation 1 1 true, .commaRealign 1 true,
      .rxcDetect 1, .bitLock 1 1, .symbolLock 1 1, .capSetReceive 1 capA, .farEndEchoEnd 1, .capSetPeriodic 1,
      .dmSetReceive 1 dmA 1 1, .bringupTimeout 1, .rxcLoss 1 true, .blindRelock 1, .blindTimeout 1, .waitExpiry 1,
      .bringupRetryLimit 1, .portRestart 1, .injectSingle 1, .injectBurst 1 1, .prbsClear 1, .prbsCheckerLock 1 1 1,
      .prbsLockLoss 1 1 1, .closurePersistFault 1, .relayReplyTimeout 1, .orderPost 1 1 true 1, .levellingSelectDone 1,
      .gcmdRefresh 1, .setsSend 1 1, .gfbStatusWord 1 1, .wordLockChange 1, .edgeHold 1 1 1, .strengthLimitFault 1,
      .markerWindowExpiry 1, .desatTrip 1, .desatGlitch 1 1, .lossHold 1 1,
        .feedbackFault 1] : List Instr).all Instr.wellFormed = true := by decide +kernel

/-- Commands with operands in range are well-formed. -/
theorem test_wellFormed_2 :
    ([.tripWaitExpiry 1, .cleanExpiry 1, .notreadyTimeout 1, .unlatch 1, .cellVoltageResult 1 1, .bypassReadbackFail 1,
      .bypassCmdArm 1, .bypassCmdFire 1, .selfTestStart 1 1, .selfTestEnd true, .manualModeWrite 1 true true,
      .manualPulse 1 1, .adcGridTrigger 1 1, .adcSwStart 1, .tevFire 1, .adcPassEnd 1 [] [], .pairMismatch 1,
      .adcInject 1 1 true true, .adcInjectResult 1 1, .adcCalStart 1, .adcCalDone 1 1 1, .rotCalStart 1, .rotCalAbort 1,
      .auxfltCut 1, .auxdemChange true, .fltinChange 1 true, .auxsyncEdge 1, .taskEnd 1, .outputWindowWrite 1 1 1,
      .signalInstruction 1 1 1, .cancelInstruction 1 1 true, .laneFault 1 1, .nanResult 1, .dataEccError 1 1 1,
      .programEccError 1 true, .setFlag 1 1, .slotCancel 1 true, .ogLoad 1 1, .injArm 1, .injStop 1,
      .heartbeatReceive hbA 1 true, .shareReceive shA true, .shareTimeout 1, .digestReceive dgA true,
      .summaryReceive 1 (List.replicate 6 {}) true, .controlReceive ctA true, .stateReceive stA true,
      .sweepReceive 1 [] true] : List Instr).all Instr.wellFormed = true := by decide +kernel

/-- Commands with operands in range are well-formed. -/
theorem test_wellFormed_3 :
    ([.sblkChange true true true true 1, .srstChange true true true true 1, .discrepancyTimeout true true,
      .proofOpen true, .resetStuck true, .safeLock true, .faultForce 1 1, .watchdogFeed 1, .freeze true, .drRow true [],
      .drRelease 1, .streamChunk 1, .udpRequest 1 1 pkA, .sqTailDoorbell 1 1 [], .cqHeadDoorbell 1 1, .streamReadIndex 1,
      .barQueueConfig 1 1, .nop rqA, .read rqA 1 1, .write rqA none 1 [], .modify rqA none 1 1 1, .readWide rqA 1,
      .mbReqWrite 1, .platRead rqA 1 1, .resetWarm rqA 1, .strobe rqA 1, .strobeFire 1, .netcfg rqA 1 [],
      .txnBegin rqA 1 tgA, .txnPrepare rqA 1, .txnCommit rqA 1 true 1, .txnRollback rqA 1, .txnStatus rqA 1,
      .txnSprep rqA 1 1 true [], .txnScommit rqA 1 1, .txnSabort rqA 1, .txnIdleExpiry 1, .relay rqA tgA pkA,
      .chainScan rqA 1, .relayFlush rqA 1, .loopSwap rqA 1, .armStatus rqA 1, .fbRead rqA 1 1 1, .fbFreeze rqA 1,
      .drList rqA, .drRead rqA 1 1 1 1, .adcCal rqA 1 1, .gateTest rqA 1 1] : List Instr).all Instr.wellFormed = true :=
        by decide +kernel

/-- Commands with operands in range are well-formed. -/
theorem test_wellFormed_4 :
    ([.bypassFire rqA 1, .leaseStatus rqA, .handover rqA, .join rqA, .safeStatus rqA, .ident rqA,
      .attest rqA (List.replicate 16 0), .adopt rqA true 1 1 1 1 1, .adoptionScan 1, .imgOpen rqA 1 1, .imgData rqA 1 [],
      .imgCheck rqA, .imgActivate rqA 1, .imgStatus rqA, .trialTimeout true, .bootImageCheck [] [] [],
      .configLoad [] 1 adA, .configParityScrub 1 true, .lockSet 1, .ftrimWrite 1, .ptpTxStamp 1 1 1 1 1, .ptpRxStamp 1 1,
      .tickalignReceive 1 taA 1 true, .varsReceive 1 1 [] true, .mgmtForward 1 msgA true, .forwardTimeout 1 1,
      .shedStageRise vrA, .shedStageFall 1, .shedResetRelease 1 1, .haltRxcAbsent 1, .resetStuckClear true,
      .effectiveInstant 1, .tevPulseEnd 1, .railReturn 1,
        .replyCacheExpiry rqA] : List Instr).all Instr.wellFormed = true := by decide +kernel

/-- Commands with one operand out of range are refused. -/
theorem test_illFormed_1 :
    ([.resetRelease (2 ^ 16) 1 1, .resetRelease 1 (2 ^ 128) 1, .resetRelease 1 1 16, .clockFault 0, .clockFault 5,
      .railFault 8, .tjMeasure (2 ^ 16), .datumFrameReceive 16 frameA 1 1,
      .datumFrameReceive 1 { frameA with rcrc := 2 ^ 32 } 1 1, .stakeFrameDecode 2 frameA 1 1,
      .stakeFrameDecode 1 { frameA with rcrc := 2 ^ 32 } 1 1, .daSetReceive 16 daA,
      .daSetReceive 1 { daA with crc := 256 }, .tickmarkReceive 2 1 1, .blockPairReceive 2 1 1, .blockPairDatum 16 1,
      .isolatedUrgent 16, .codeViolation 21 1 true, .codeViolation 1 (2 ^ 10) true, .commaRealign 21 true, .rxcDetect 21,
      .bitLock 21 1, .symbolLock 21 1, .symbolLock 1 10, .capSetReceive 21 capA,
      .capSetReceive 1 { capA with role := 256 }, .farEndEchoEnd 16, .capSetPeriodic 21, .dmSetReceive 21 dmA 1 1,
      .dmSetReceive 1 { dmA with seq := 256 } 1 1, .bringupTimeout 21, .rxcLoss 21 true, .blindRelock 16,
      .blindTimeout 16, .waitExpiry 21, .bringupRetryLimit 16] : List Instr).all (!·.wellFormed) = true := by decide +kernel

/-- Commands with one operand out of range are refused. -/
theorem test_illFormed_2 :
    ([.portRestart 16, .injectSingle 16, .injectBurst 16 1, .injectBurst 1 (2 ^ 8), .prbsClear 16,
      .prbsCheckerLock 16 1 1, .prbsLockLoss 16 1 1, .closurePersistFault 16, .orderPost 6 1 true 1,
      .orderPost 1 (2 ^ 16) true 1, .orderPost 1 1 true (2 ^ 16), .levellingSelectDone 6, .gcmdRefresh 4, .setsSend 4 1,
      .setsSend 1 3, .gfbStatusWord 4 1, .gfbStatusWord 1 (2 ^ 32), .wordLockChange 4, .edgeHold 4 1 1,
      .strengthLimitFault 4, .markerWindowExpiry 4, .desatTrip 4, .desatGlitch 4 1, .lossHold 4 1, .feedbackFault 4,
      .tripWaitExpiry 4, .cleanExpiry 4, .notreadyTimeout 4, .unlatch 4, .cellVoltageResult (2 ^ 16) 1,
      .cellVoltageResult 1 (2 ^ 16), .bypassReadbackFail 2, .selfTestStart 4 1, .selfTestStart 1 4,
      .manualModeWrite 4 true true, .manualPulse 4 1] : List Instr).all (!·.wellFormed) = true := by decide +kernel

/-- Commands with one operand out of range are refused. -/
theorem test_illFormed_3 :
    ([.manualPulse 1 (2 ^ 16), .adcGridTrigger 4 1, .adcSwStart 4, .tevFire 4, .adcPassEnd 4 [] [],
      .adcPassEnd 1 [65536] [], .adcPassEnd 1 [] [65536], .pairMismatch 2, .adcInject 4 1 true true,
      .adcInject 1 16 true true, .adcInjectResult 4 1, .adcInjectResult 1 (2 ^ 16), .adcCalStart 16, .adcCalDone 4 1 1,
      .adcCalDone 1 (2 ^ 18) 1, .adcCalDone 1 1 (2 ^ 16), .rotCalStart 4, .rotCalAbort 2, .fltinChange 8 true,
      .taskEnd 16, .outputWindowWrite 16 1 1, .outputWindowWrite 1 (2 ^ 32) 1, .outputWindowWrite 1 1 (2 ^ 32),
      .signalInstruction 16 1 1, .signalInstruction 1 128 1, .signalInstruction 1 1 32, .cancelInstruction 16 1 true,
      .cancelInstruction 1 128 true, .laneFault 16 1, .laneFault 1 0, .laneFault 1 5, .nanResult 16, .dataEccError 5 1 1,
      .dataEccError 1 2097152 1, .dataEccError 1 1 17,
        .programEccError 16 true] : List Instr).all (!·.wellFormed) = true := by decide +kernel

/-- Commands with one operand out of range are refused. -/
theorem test_illFormed_4 :
    ([.setFlag 128 1, .setFlag 1 32, .slotCancel 128 true, .ogLoad 16 1, .ogLoad 1 (2 ^ 32), .injArm 4, .injStop 4,
      .heartbeatReceive { hbA with mode := 4 } 1 true, .shareReceive { shA with conv := 4 } true, .shareTimeout 4,
      .digestReceive { dgA with crc := 2 ^ 32 } true, .summaryReceive (2 ^ 32) (List.replicate 6 {}) true,
      .summaryReceive 1 [] true, .controlReceive { ctA with kind := 256 } true, .stateReceive { stA with og := [] } true,
      .sweepReceive (2 ^ 32) [] true, .sweepReceive 1 [256] true, .faultForce 8 1, .faultForce 1 (2 ^ 32),
      .watchdogFeed (2 ^ 16), .drRow true [64], .drRelease (2 ^ 32), .streamChunk (2 ^ 32), .udpRequest 65536 1 pkA,
      .udpRequest 1 (2 ^ 144) pkA, .udpRequest 1 1 { pkA with tag := 65536 }, .sqTailDoorbell 4 1 [],
      .sqTailDoorbell 1 (2 ^ 16) [], .sqTailDoorbell 1 1 [(2 ^ 32, 1, pkA)], .cqHeadDoorbell 4 1,
      .cqHeadDoorbell 1 (2 ^ 16), .streamReadIndex (2 ^ 32), .barQueueConfig 1048576 1, .barQueueConfig 1 (2 ^ 32),
      .nop { rqA with tag := 65536 }, .read { rqA with tag := 65536 } 1 1] : List Instr).all (!·.wellFormed) = true :=
        by decide +kernel

/-- Commands with one operand out of range are refused. -/
theorem test_illFormed_5 :
    ([.read rqA (2 ^ 32) 1, .read rqA 1 (2 ^ 16), .write { rqA with tag := 65536 } none 1 [],
      .write rqA (some 65536) 1 [], .write rqA none (2 ^ 32) [], .write rqA none 1 [2 ^ 32],
      .modify { rqA with tag := 65536 } none 1 1 1, .modify rqA (some 65536) 1 1 1, .modify rqA none (2 ^ 32) 1 1,
      .modify rqA none 1 (2 ^ 32) 1, .modify rqA none 1 1 (2 ^ 32), .readWide { rqA with tag := 65536 } 1,
      .readWide rqA (2 ^ 32), .mbReqWrite (2 ^ 16), .platRead { rqA with tag := 65536 } 1 1, .platRead rqA (2 ^ 32) 1,
      .platRead rqA 1 (2 ^ 32), .resetWarm { rqA with tag := 65536 } 1, .resetWarm rqA (2 ^ 32),
      .strobe { rqA with tag := 65536 } 1, .strobe rqA (2 ^ 32), .strobeFire (2 ^ 8),
      .netcfg { rqA with tag := 65536 } 1 [], .netcfg rqA (2 ^ 32) [], .netcfg rqA 1 [256],
      .txnBegin { rqA with tag := 65536 } 1 tgA, .txnBegin rqA (2 ^ 32) tgA, .txnBegin rqA 1 { tgA with mode := 256 },
      .txnPrepare { rqA with tag := 65536 } 1, .txnPrepare rqA (2 ^ 16), .txnCommit { rqA with tag := 65536 } 1 true 1,
      .txnCommit rqA (2 ^ 16) true 1, .txnCommit rqA 1 true (2 ^ 64), .txnRollback { rqA with tag := 65536 } 1,
      .txnRollback rqA (2 ^ 16), .txnStatus { rqA with tag := 65536 } 1] : List Instr).all (!·.wellFormed) = true :=
        by decide +kernel

/-- Commands with one operand out of range are refused. -/
theorem test_illFormed_6 :
    ([.txnStatus rqA (2 ^ 16), .txnSprep { rqA with tag := 65536 } 1 1 true [], .txnSprep rqA (2 ^ 16) 1 true [],
      .txnSprep rqA 1 (2 ^ 16) true [], .txnSprep rqA 1 1 true [(2 ^ 32, 0)], .txnScommit { rqA with tag := 65536 } 1 1,
      .txnScommit rqA (2 ^ 16) 1, .txnScommit rqA 1 (2 ^ 64), .txnSabort { rqA with tag := 65536 } 1,
      .txnSabort rqA (2 ^ 16), .txnIdleExpiry (2 ^ 16), .relay { rqA with tag := 65536 } tgA pkA,
      .relay rqA { tgA with mode := 256 } pkA, .relay rqA tgA { pkA with tag := 65536 },
      .chainScan { rqA with tag := 65536 } 1, .chainScan rqA (2 ^ 32), .relayFlush { rqA with tag := 65536 } 1,
      .relayFlush rqA (2 ^ 16), .loopSwap { rqA with tag := 65536 } 1, .loopSwap rqA (2 ^ 32),
      .armStatus { rqA with tag := 65536 } 1, .armStatus rqA (2 ^ 32), .fbRead { rqA with tag := 65536 } 1 1 1,
      .fbRead rqA (2 ^ 32) 1 1, .fbRead rqA 1 (2 ^ 32) 1, .fbRead rqA 1 1 (2 ^ 32),
      .fbFreeze { rqA with tag := 65536 } 1, .fbFreeze rqA (2 ^ 32), .drList { rqA with tag := 65536 },
      .drRead { rqA with tag := 65536 } 1 1 1 1, .drRead rqA (2 ^ 32) 1 1 1, .drRead rqA 1 (2 ^ 32) 1 1,
      .drRead rqA 1 1 (2 ^ 32) 1, .drRead rqA 1 1 1 3, .adcCal { rqA with tag := 65536 } 1 1,
        .adcCal rqA (2 ^ 32) 1] : List Instr).all (!·.wellFormed) = true := by decide +kernel

/-- Commands with one operand out of range are refused. -/
theorem test_illFormed_7 :
    ([.adcCal rqA 1 (2 ^ 32), .gateTest { rqA with tag := 65536 } 1 1, .gateTest rqA (2 ^ 32) 1, .gateTest rqA 1 (2 ^ 32),
      .bypassFire { rqA with tag := 65536 } 1, .bypassFire rqA (2 ^ 32), .leaseStatus { rqA with tag := 65536 },
      .handover { rqA with tag := 65536 }, .join { rqA with tag := 65536 }, .safeStatus { rqA with tag := 65536 },
      .ident { rqA with tag := 65536 }, .attest { rqA with tag := 65536 } (List.replicate 16 0), .attest rqA [],
      .attest rqA (List.replicate 16 256), .adopt { rqA with tag := 65536 } true 1 1 1 1 1,
      .adopt rqA true (2 ^ 32) 1 1 1 1, .adopt rqA true 1 (2 ^ 32) 1 1 1, .adopt rqA true 1 1 (2 ^ 32) 1 1,
      .adopt rqA true 1 1 1 (2 ^ 32) 1, .adopt rqA true 1 1 1 1 (2 ^ 128), .adoptionScan 16,
      .imgOpen { rqA with tag := 65536 } 1 1, .imgOpen rqA (2 ^ 32) 1, .imgOpen rqA 1 (2 ^ 32),
      .imgData { rqA with tag := 65536 } 1 [], .imgData rqA (2 ^ 32) [], .imgData rqA 1 [256],
      .imgCheck { rqA with tag := 65536 }, .imgActivate { rqA with tag := 65536 } 1, .imgActivate rqA (2 ^ 32),
      .imgStatus { rqA with tag := 65536 }, .bootImageCheck [256] [] [], .bootImageCheck [] [256] [],
      .bootImageCheck [] [] [256], .configLoad [(2 ^ 32, 0)] 1 adA,
        .configLoad [] (2 ^ 32) adA] : List Instr).all (!·.wellFormed) = true := by decide +kernel

/-- Commands with one operand out of range are refused. -/
theorem test_illFormed_8 :
    ([.configLoad [] 1 { adA with table := [(1024, 0)] }, .configParityScrub (2 ^ 32) true, .lockSet (2 ^ 32),
      .ftrimWrite (2 ^ 32), .ptpTxStamp 4 1 1 1 1, .ptpTxStamp 1 (2 ^ 16) 1 1 1, .ptpTxStamp 1 1 16 1 1,
      .ptpTxStamp 1 1 1 (2 ^ 64) 1, .ptpTxStamp 1 1 1 1 (2 ^ 16), .ptpRxStamp 4 1, .ptpRxStamp 1 (2 ^ 16),
      .tickalignReceive 4 taA 1 true, .tickalignReceive 1 { taA with depth := 256 } 1 true, .varsReceive 4 1 [] true,
      .varsReceive 1 (2 ^ 32) [] true, .varsReceive 1 1 [(2 ^ 32, 0)] true, .mgmtForward 4 msgA true,
      .mgmtForward 1 { msgA with dest := 256 } true, .forwardTimeout 1 (2 ^ 16), .shedStageRise { vrA with below := 5 },
      .shedStageFall (2 ^ 16), .shedResetRelease (2 ^ 16) 1, .shedResetRelease 1 16, .haltRxcAbsent 21,
      .effectiveInstant 4, .tevPulseEnd 4, .railReturn 8,
        .replyCacheExpiry { rqA with tag := 65536 }] : List Instr).all (!·.wellFormed) = true := by decide +kernel

/-! ### The hypotheses of the statements -/

/-- The hypotheses of Obligations.IdleStepPassesOneCycle, clause by clause, are met together. -/
theorem test_witness_IdleStepPassesOneCycle :
    (∃ (s : State), s.pending = []) :=
  ⟨dat, by decide +kernel⟩

/-- The hypotheses of Obligations.EveryStepKeepsSound, clause by clause, are met together. -/
theorem test_witness_EveryStepKeepsSound :
    (∃ (s : State) (t : State), s.sound ∧ step s = .next t) :=
  ⟨State.reset, State.reset.idle, ⟨rfl, rfl, rfl, rfl⟩, rfl⟩

/-- The hypotheses of Obligations.RoleFixedUntilReset, clause by clause, are met together. -/
theorem test_witness_RoleFixedUntilReset :
    (∃ (c : Instr) (s : State) (t : State), (s.running = true ∧ c.mayReset = false) ∧ exec c s = .next t) ∧
    (∃ (s : State) (u : State) (t : State) (straps : Nat) (m : Nat) (i : Nat), exec .pornAssert s = .next u ∧
      exec (.resetRelease straps m i) u = .next t) ∧
    (∃ (s : State) (u : State) (t : State) (straps : Nat) (m : Nat) (i : Nat), (s.running = true ∧
      s.get SH_STAT_STAGE ≠ 4) ∧ exec .supplyReset s = .next u ∧ exec (.resetRelease straps m i) u = .next t) ∧
    (∃ (s : State) (u : State) (t : State) (straps : Nat) (i : Nat), (s.running = true ∧ s.get SH_STAT_STAGE = 4) ∧
      exec .supplyReset s = .next u ∧ exec (.shedResetRelease straps i) u = .next t) ∧
    (∃ (s : State) (u : State) (t : State) (straps : Nat) (i : Nat), s.running = true ∧
      exec .shedResetEntry s = .next u ∧ u.phase ≠ s.phase ∧ exec (.shedResetRelease straps i) u = .next t) :=
  ⟨⟨.nop { origin := .udp 0, tag := 0 }, dat, dat, by decide +kernel, rfl⟩,
   ⟨dat, _, _, 0, 0, 0, rfl, rfl⟩,
   ⟨dat, _, _, 0, 0, 0, by decide +kernel, rfl, rfl⟩,
   ⟨dat.put SH_STAT_STAGE 4, _, _, 0, 0, by decide +kernel, rfl, rfl⟩,
   ⟨dat.put SH_STAT_STAGE 4, _, _, 0, 0, by decide +kernel, rfl, by decide +kernel, rfl⟩⟩

/-- The hypotheses of Obligations.OnlyStoresChangeMemory, clause by clause, are met together. -/
theorem test_witness_OnlyStoresChangeMemory :
    (∃ (c : Instr) (s : State) (t : State), (c.mayStore = false ∧ c.mayReset = false) ∧ exec c s = .next t) :=
  ⟨.nop { origin := .udp 0, tag := 0 }, dat, dat, by decide +kernel, rfl⟩

/-- The hypotheses of Obligations.BlockedDatumStaysBlocked, clause by clause, are met together. -/
theorem test_witness_BlockedDatumStaysBlocked :
    (∃ (n : Nat) (s : State) (t : State), s.role = .datum ∧ s.bothBlocked ∧ ((∀ c ∈ s.pending, c ≠ .resetComplete ∧
      c.mayReset = false)) ∧ steps n s = some t) :=
  ⟨0, dat, dat, by decide +kernel, ⟨by decide +kernel, by decide +kernel⟩, by decide +kernel, rfl⟩

/-- The hypotheses of Obligations.ClockNeverGoesBack, clause by clause, are met together. -/
theorem test_witness_ClockNeverGoesBack :
    (∃ (s : State) (t : State), step s = .next t) :=
  ⟨State.reset, State.reset.idle, rfl⟩

/-- The hypotheses of Obligations.DeviceInResetDoesNothing, clause by clause, are met together. -/
theorem test_witness_DeviceInResetDoesNothing :
    (∃ (c : Instr) (s : State), s.running = false ∧ c.mayReset = false ∧ c ≠ .retentionDetector) :=
  ⟨.nop { origin := .udp 0, tag := 0 }, State.reset, by decide +kernel⟩

/-- The hypotheses of Obligations.MemoryReadsWhatWasStored, clause by clause, are met together. -/
theorem test_witness_MemoryReadsWhatWasStored :
    (∃ (s : State), Memory.wf s.mem = true) :=
  ⟨State.reset, by decide +kernel⟩

/-- The hypotheses of Obligations.SerialArithmetic, clause by clause, are met together. -/
theorem test_witness_SerialArithmetic :
    (∃ (w : Nat) (a : Nat) (b : Nat) (d : Nat), 1 ≤ w ∧ a < 2 ^ w ∧ b < 2 ^ w ∧ d = (b + 2 ^ w - a) % 2 ^ w) ∧
    (∃ (w : Nat) (a : Nat) (b : Nat) (d : Nat), 1 ≤ w ∧ a < 2 ^ w ∧ b < 2 ^ w ∧ d = (b + 2 ^ w - a) % 2 ^ w ∧
      d = 2 ^ (w - 1)) ∧
    (∃ (w : Nat) (a : Nat) (b : Nat) (d : Nat), 1 ≤ w ∧ a < 2 ^ w ∧ b < 2 ^ w ∧ d = (b + 2 ^ w - a) % 2 ^ w ∧
      isNewer w b a = true) :=
  ⟨⟨32, 0xFFFFFFFF, 0, 1, by decide +kernel⟩,
   ⟨1, 0, 1, 1, by decide +kernel⟩,
   ⟨32, 0, 0x7FFFFFFF, 0x7FFFFFFF, by decide +kernel⟩⟩

/-- The hypotheses of Obligations.CountersSaturateAndClear, clause by clause, are met together. -/
theorem test_witness_CountersSaturateAndClear :
    (∃ (s : State) (f : Fld), f.lo = 0 ∧ f.width = 31 ∧ s.get f < 2 ^ 31 ∧ s.get f < 0x7FFFFFFE) ∧
    (∃ (s : State) (f : Fld), f.lo = 0 ∧ f.width = 31 ∧ s.get f < 2 ^ 31 ∧ 0x7FFFFFFE ≤ s.get f) ∧
    (∃ (s : State) (f : Fld), f.lo = 0 ∧ f.width = 31 ∧ s.get f < 2 ^ 31 ∧ s.get (ovfOf f) = 1) ∧
    (∃ (s : State) (f : Fld) (u : _), (f.lo = 0 ∧ f.width = 31 ∧ s.get f < 2 ^ 31 ∧ ¬ (0x20100 ≤ f.addr ∧
      f.addr < 0x20120) ∧ f.addr ≠ FB_MERGED.addr ∧ f.addr ≠ FB_LOST.addr) ∧ u = s.clearRc [⟨f, .rc, false, []⟩,
      ⟨ovfOf f, .rc, false, []⟩]) ∧
    (∃ (s : State) (f : Fld) (u : _) (v : _), (f.lo = 0 ∧ f.width = 31 ∧ s.get f < 2 ^ 31) ∧ u = s.clearRc [⟨FB_MERGED,
      .rc, false, []⟩, ⟨FB_MERGED_OVF, .rc, false, []⟩] ∧ v = s.clearRc [⟨FB_LOST, .rc, false, []⟩, ⟨FB_LOST_OVF, .rc,
      false, []⟩]) :=
  ⟨⟨dat, TW_MSG_CRC, by decide +kernel⟩,
   ⟨dat.put TW_MSG_CRC 0x7FFFFFFE, TW_MSG_CRC, by decide +kernel⟩,
   ⟨(dat.put TW_MSG_CRC 0x7FFFFFFF).put TW_MSG_CRC_OVF 1, TW_MSG_CRC, by decide +kernel⟩,
   ⟨dat, TW_MSG_CRC, _, by decide +kernel, rfl⟩,
   ⟨dat, TW_MSG_CRC, _, _, by decide +kernel, rfl, rfl⟩⟩

/-- The hypotheses of Obligations.RoleFromStraps, clause by clause, are met together. -/
theorem test_witness_RoleFromStraps :
    (∃ (s : State), (s.phase = .porn ∨ s.phase = .supply)) ∧
    (∃ (s : State), s.phase = .shed) :=
  ⟨⟨State.reset, by decide +kernel⟩,
   ⟨{ State.reset with phase := .shed }, by decide +kernel⟩⟩

/-- The hypotheses of Obligations.LeaseCheckOfAFrame, clause by clause, are met together. -/
theorem test_witness_LeaseCheckOfAFrame :
    (∃ (s : State) (h : Header) (e : Nat) (next : Nat) (b : Nat), e = s.get LS_SEPOCH_EPOCH ∧ next = (e + 1) % 2 ^ 32 ∧
      b = h.sender / 2 ^ 8 % 2) :=
  ⟨stk, { seq := 0, tick := 0, sender := 0x8000, fmt := 1, flags := 0, epoch := 0, slots := 0, msize := 0, hcrc := 0 },
    _, _, _, rfl, rfl, rfl⟩

/-- The hypotheses of Obligations.CorrectionOfResults, clause by clause, are met together. -/
theorem test_witness_CorrectionOfResults :
    (∃ (s : State) (n : Nat) (raw : Nat) (v : Int),
      v = ((raw % 65536 : Nat) - toSigned 16 (s.get (AD_CAL_OFS_OFS n))) * (s.get (AD_CAL_GAIN_GAIN n) : Int)) ∧
    (∃ (s : State) (n : Nat) (raw : Nat) (v : Int),
      v = (toSigned 16 raw - toSigned 16 (s.get (AD_CAL_OFS_OFS n))) * (s.get (AD_CAL_GAIN_GAIN n) : Int)) ∧
    (∃ (s : State) (n : Nat), s.get (AD_CAL_GAIN_GAIN n) = 0x20000 ∧ s.get (AD_CAL_OFS_OFS n) = 0) ∧
    (∃ (s : State) (n : Nat), s.get (AD_CAL_GAIN_GAIN n) = 0x10000 ∧ s.get (AD_CAL_OFS_OFS n) = 0) ∧
    (∃ (s : State) (n : Nat), s.get (AD_CAL_GAIN_GAIN n) = 0x10000 ∧ s.get (AD_CAL_OFS_OFS n) = 0) :=
  ⟨⟨dat, 0, 0xFFFF, _, rfl⟩,
   ⟨dat, 0, 0x8000, _, rfl⟩,
   ⟨dat, 3, by decide +kernel⟩,
   ⟨dat.put (AD_CAL_GAIN_GAIN 3) 0x10000, 3, by decide +kernel⟩,
   ⟨dat.put (AD_CAL_GAIN_GAIN 3) 0x10000, 3, by decide +kernel⟩⟩

/-- The hypotheses of Obligations.DatumBlocksAtS3, clause by clause, are met together. -/
theorem test_witness_DatumBlocksAtS3 :
    (∃ (s : State) (n : Nat) (mv : Nat), s.isDatum = true ∧ s.get SH_STAT_STAGE ≤ 2 ∧ min n (s.stageFor mv) = 3) ∧
    (∃ (s : State) (n : Nat) (mv : Nat), s.isDatum = true ∧ s.get SH_STAT_STAGE ≤ 2 ∧ min n (s.stageFor mv) = 3 ∧
      s.tb.sofDue = none ∧ s.markSending = false) ∧
    (∃ (s : State) (n : Nat) (mv : Nat), s.isDatum = true ∧ s.get SH_STAT_STAGE ≤ 2 ∧ min n (s.stageFor mv) = 3 ∧
      s.tb.sofDue.isSome = true) ∧
    (∃ (s : State) (n : Nat) (mv : Nat), s.isDatum = true ∧ s.get SH_STAT_STAGE ≤ 2 ∧ min n (s.stageFor mv) = 3 ∧
      s.tb.sofDue = none ∧ s.markSending = true) ∧
    (∃ (s : State), s.isDatum = true) ∧
    (∃ (s : State), (s.isDatum = true ∧ s.bothBlocked ∧ s.sf.x.resetDue = true ∧ s.sf.y.resetDue = true ∧
      s.resetOk s.sf.x = true ∧ s.resetOk s.sf.y = true) ∧ ((∀ x y a b u, Instr.sblkChange x y a b u ∉ s.pending))) :=
  ⟨⟨dat.put SH_STAT_STAGE 2, 3, levelWit 2, by decide +kernel⟩,
   ⟨dat, 3, levelWit 2, by decide +kernel⟩,
   ⟨{ dat with tb := { sofDue := some false } }, 3, levelWit 2, by decide +kernel⟩,
   ⟨ending, 3, levelWit 2, by decide +kernel⟩,
   ⟨dat, by decide +kernel⟩,
   ⟨resettable, by decide +kernel, fun _ _ _ _ _ h => nomatch h⟩⟩

/-- The hypotheses of Obligations.ThresholdSelectsExactlyN, clause by clause, are met together. -/
theorem test_witness_ThresholdSelectsExactlyN :
    (∃ (ks : List Nat) (n : Nat), ks.Pairwise (· < ·) ∧ ((∀ k ∈ ks, k < 0xFFFFFFFF)) ∧ n ≤ ks.length) ∧
    (∃ (ks : List Nat) (n : Nat) (k : _), ks.Pairwise (· < ·) ∧ ((∀ k ∈ ks, k < 0xFFFFFFFF)) ∧ n ≤ ks.length ∧
      (threshold ks n false).2 = some k) ∧
    (∃ (ks : List Nat) (n : Nat) (k : _) (j : Nat), ks.Pairwise (· < ·) ∧ ((∀ k ∈ ks, k < 0xFFFFFFFF)) ∧ n ≤ ks.length ∧
      (threshold ks n false).2 = some k ∧ j ∈ ks ∧ (threshold ks n false).1 ≤ j) ∧
    (∃ (ks : List Nat) (n : Nat) (k : _), ks.Pairwise (· < ·) ∧ ((∀ k ∈ ks, k < 0xFFFFFFFF)) ∧ n ≤ ks.length ∧
      (threshold ks n true).2 = some k) ∧
    (∃ (ks : List Nat) (n : Nat) (k : _) (j : Nat), ks.Pairwise (· < ·) ∧ ((∀ k ∈ ks, k < 0xFFFFFFFF)) ∧ n ≤ ks.length ∧
      (threshold ks n true).2 = some k ∧ j ∈ ks ∧ j < (threshold ks n true).1) :=
  ⟨⟨[1024, 2049, 0xFFFFFBFF], 2, by decide +kernel⟩,
   ⟨[1024, 2049, 0xFFFFFBFF], 2, 0xFFFFFBFF, by decide +kernel⟩,
   ⟨[1024, 2049, 0xFFFFFBFF], 2, 0xFFFFFBFF, 0xFFFFFBFF, by decide +kernel⟩,
   ⟨[1024, 2049, 0xFFFFFBFF], 2, 1024, by decide +kernel⟩,
   ⟨[1024, 2049, 0xFFFFFBFF], 2, 1024, 1024, by decide +kernel⟩⟩

/-- The hypotheses of Obligations.KeysOfReports, clause by clause, are met together. -/
theorem test_witness_KeysOfReports :
    (∃ (r : TeleSlot) (hold : Nat), r.ins = true ∧ r.vcode < hold) ∧
    (∃ (r : TeleSlot) (hold : Nat), r.ins = true ∧ hold ≤ r.vcode) ∧
    (∃ (r : TeleSlot), r.ins = true) ∧
    (∃ (r : TeleSlot), r.ins = false) ∧
    (∃ (i : Nat) (j : Nat), i < 1024 ∧ j < 1024) ∧
    (∃ (i : Nat) (j : Nat), i < 1024 ∧ j < 1024) ∧
    (∃ (i : Nat) (j : Nat), i < 1024 ∧ j < 1024) ∧
    (∃ (i : Nat) (j : Nat), i < 1024 ∧ j < 1024 ∧ i ≠ j) :=
  ⟨⟨slotA, 0xFFFF, by decide +kernel⟩,
   ⟨slotA, 0, by decide +kernel⟩,
   ⟨slotA, by decide +kernel⟩,
   ⟨{ slotA with vs := 5 }, by decide +kernel⟩,
   ⟨1023, 0, by decide +kernel⟩,
   ⟨1023, 0, by decide +kernel⟩,
   ⟨1023, 0, by decide +kernel⟩,
   ⟨1023, 0, by decide +kernel⟩⟩

/-- The hypotheses of Obligations.Class3And4Block, clause by clause, are met together. -/
theorem test_witness_Class3And4Block :
    (∃ (s : State) (src : Nat), src < 256 ∧ s.enabled src = false) ∧
    (∃ (s : State) (src : Nat), src < 256 ∧ s.enabled src = true ∧ 3 ≤ s.classOf src ∧ s.role = .datum) ∧
    (∃ (s : State) (src : Nat), src < 256 ∧ s.enabled src = true ∧ 3 ≤ s.classOf src ∧ s.role = .stake) ∧
    (∃ (s : State) (src : Nat), src < 256 ∧ s.enabled src = true ∧ s.classOf src = 4) ∧
    (∃ (s : State) (src : Nat), src < 256 ∧ s.enabled src = true ∧ s.classOf src < 3) ∧
    (∃ (s : State) (src : Nat), src < 256 ∧ s.enabled src = true ∧ s.classOf src = 2) ∧
    (∃ (s : State) (src : Nat), src < 256 ∧ s.enabled src = true ∧ 1 ≤ s.classOf src) ∧
    (∃ (s : State) (src : Nat), src < 256 ∧ s.enabled src = true) :=
  ⟨⟨dat.put (FC_EN_SRC 7) 0, 255, by decide +kernel⟩,
   ⟨dat, 176, by decide +kernel⟩,
   ⟨stk, 177, by decide +kernel⟩,
   ⟨dat, 111, by decide +kernel⟩,
   ⟨(dat.put (FC_EN_SRC 2) 0xFFFFFFFF).put (FC_SRC_CLASS 70) 0, 70, by decide +kernel⟩,
   ⟨(dat.put (FC_EN_SRC 2) 0xFFFFFFFF).put (FC_SRC_CLASS 70) 2, 70, by decide +kernel⟩,
   ⟨(dat.put (FC_EN_SRC 2) 0xFFFFFFFF).put (FC_SRC_CLASS 70) 1, 70, by decide +kernel⟩,
   ⟨dat, 176, by decide +kernel⟩⟩

/-- The hypotheses of Obligations.LeaseRecordMovesForward, clause by clause, are met together. -/
theorem test_witness_LeaseRecordMovesForward :
    (∃ (s : State) (t : State) (h : Header), t = s.leaseProcess h ∧ (h.epoch < 2 ^ 32 ∧ h.sender < 2 ^ 16 ∧
      (t.get LS_SEPOCH_EPOCH ≠ s.get LS_SEPOCH_EPOCH ∨ t.get LS_SREC_BOARD ≠ s.get LS_SREC_BOARD))) ∧
    (∃ (s : State) (t : State) (h : Header), t = s.leaseProcess h ∧ (h.epoch < 2 ^ 32 ∧ h.sender < 2 ^ 16 ∧
      (t.get LS_SEPOCH_EPOCH ≠ s.get LS_SEPOCH_EPOCH ∨ t.get LS_SREC_BOARD ≠ s.get LS_SREC_BOARD) ∧
      s.on LS_SREC_VALID = true)) :=
  ⟨⟨stk, _, hdrA, rfl, by decide +kernel⟩,
   ⟨stk.put LS_SREC_VALID 1, _, { hdrA with sender := 0x8000 }, rfl, by decide +kernel⟩⟩

/-- The hypotheses of Obligations.SameFrameActsOnce, clause by clause, are met together. -/
theorem test_witness_SameFrameActsOnce :
    (∃ (s : State) (t : State) (q : Nat) (f : Frame), t = s.dupDiscard q f ∧ (q < 2 ∧ f.hdr.seq < 2 ^ 32 ∧
      s.frm.actedSeq < 2 ^ 32 ∧ s.frm.actedValid = true ∧ f.hdr.seq = s.frm.actedSeq)) ∧
    (∃ (s : State) (t : State) (q : Nat) (f : Frame), t = s.dupDiscard q f ∧ (q < 2 ∧ f.hdr.seq < 2 ^ 32 ∧
      s.frm.actedSeq < 2 ^ 32) ∧ (t.frm.actedSeq ≠ s.frm.actedSeq ∨ t.frm.actedValid ≠ s.frm.actedValid)) ∧
    (∃ (s : State) (t : State) (q : Nat) (f : Frame), t = s.dupDiscard q f ∧ (q < 2 ∧ f.hdr.seq < 2 ^ 32 ∧
      s.frm.actedSeq < 2 ^ 32) ∧ (t.frm.actedSeq ≠ s.frm.actedSeq ∨ t.frm.actedValid ≠ s.frm.actedValid) ∧
      ((f.arm (s.get LVL_SIDX_ARM)).used = true ∨ (f.arm (s.get LVL_SIDX_ARM)).apply ≠ 0)) :=
  ⟨⟨{ acts with frm := { actedValid := true, actedSeq := 7 } }, _, 0, frameA, rfl, by decide +kernel⟩,
   ⟨acts, _, 0, frameA, rfl, by decide +kernel, .inl (by decide +kernel)⟩,
   ⟨acts, _, 0, frameA, rfl, by decide +kernel, .inl (by decide +kernel), .inl (by decide +kernel)⟩⟩

/-- The hypotheses of Obligations.StakeDeblocksUnderItsConditions, clause by clause, are met together. -/
theorem test_witness_StakeDeblocksUnderItsConditions :
    (∃ (s : State) (t : State) (y : Bool), t = s.tryDeblock ∧ ((s.safeCh y).permit = false ∧ (t.safeCh y).permit = true)) ∧
    (∃ (s : State) (t : State) (y : Bool) (q : Nat), t = s.tryDeblock ∧ ((s.safeCh y).permit = false ∧
      (t.safeCh y).permit = true ∧ q < 2 ∧ s.livePort q = true)) ∧
    (∃ (s : State) (t : State), t = s.tryDeblock ∧ ((s.sf.x.permit = false ∨ s.sf.y.permit = false) ∧
      t.sf.x.permit = true ∧ t.sf.y.permit = true)) ∧
    (∃ (s : State) (t : State), t = s.tryDeblock ∧ ((s.sf.x.permit = false ∨ s.sf.y.permit = false) ∧
      t.sf.x.permit = true ∧ t.sf.y.permit = true ∧ s.get SF_DEBLOCK < 0x7FFFFFFF)) ∧
    (∃ (s : State) (t : State) (y : Bool), t = s.tryDeblock ∧ (s.role = .stake ∧ s.running = true ∧
      (s.safeCh y).permit = false ∧ s.on TB_STAT_TICK_LOCK = true ∧ s.on LVL_SIDX_ADOPTED = true ∧
      (s.livePort 0 = true ∨ s.livePort 1 = true) ∧ ((∀ q : Nat,
      q < 2 → s.livePort q = true → s.permitOn (s.safeCh y) q = true)) ∧
      (s.on SF_SSTAT_FHOLD = false ∨ s.sf.fholdSeen = true) ∧ s.sf.beatLost = false ∧ s.sf.diff = false ∧
      (s.safeCh y).permitLost = false) ∧ ((∀ q b u, Instr.blockPairReceive q b u ∉ s.pending))) :=
  ⟨⟨deblocks, _, true, rfl, by decide +kernel⟩,
   ⟨deblocks, _, true, 0, rfl, by decide +kernel⟩,
   ⟨deblocks, _, rfl, by decide +kernel⟩,
   ⟨deblocks, _, rfl, by decide +kernel⟩,
   ⟨deblocks, _, false, rfl, by decide +kernel, fun _ _ _ h => nomatch h⟩⟩

/-- The hypotheses of Obligations.TickOfADatumCompletes, clause by clause, are met together. -/
theorem test_witness_TickOfADatumCompletes :
    (∃ (s : State), s.isDatum = true ∧ s.on TB_STAT_TICK_RUN = true ∧ s.tb.placed = true ∧ s.tb.endTick = false) ∧
    (∃ (s : State) (x : Bool) (y : Bool) (u : State), (s.isDatum = true ∧ s.on TB_STAT_TICK_RUN = true ∧
      s.tb.placed = true ∧ s.tb.endTick = true) ∧
      u = (({ s.advance s.tb.nextStart with tb := { s.tb with started := false, endTick := false, placed := false, held := false }, sf := { s.sf with missX := x, missY := y } } : State).put TB_STAT_TICK_RUN 0)) ∧
    (∃ (s : State) (u : _), (s.isDatum = true ∧ s.on TB_STAT_TICK_RUN = true ∧ s.tb.started = true ∧
      s.tb.sampled = false) ∧ u = (s.advance (s.tb.tickStart + s.cfg TB_SAMPLE_S)).gridSample) ∧
    (∃ (s : State) (u : _) (v : _) (w : _), (s.isDatum = true ∧ s.tb.started = true ∧ s.tb.cutDone = false) ∧
      u = (s.advance (s.tb.nextStart - s.cfg TB_CUTOFF_LEAD)).noteRow (s.tb.nextStart - s.cfg TB_CUTOFF_LEAD) ∧
      v = u.decideTick ∧ w = (v.2.unitStep u.plIn v.1).closeMissing.matchCutoff.leaseCutoff.sendTwin.routeEvent 2) ∧
    (∃ (s : State), s.isDatum = true ∧ s.tb.sampled = true) ∧
    (∃ (s : State), s.isDatum = true ∧ s.tb.cutDone = true) :=
  ⟨⟨{ dat.put TB_STAT_TICK_RUN 1 with tb := { nextStart := 5000, nextTick := 7, placed := true } }, by decide +kernel⟩,
   ⟨{ dat.put TB_STAT_TICK_RUN 1 with tb := { endTick := true, placed := true, held := true } }, false, false, _,
     by decide +kernel, rfl⟩,
   ⟨{ dat.put TB_STAT_TICK_RUN 1 with tb := { started := true } }, _, by decide +kernel, rfl⟩,
   ⟨{ dat.put TB_STAT_TICK_RUN 1 with tb := { started := true } }, _, _, _, by decide +kernel, rfl, rfl, rfl⟩,
   ⟨{ dat with tb := { sampled := true } }, by decide +kernel⟩,
   ⟨{ dat with tb := { cutDone := true } }, by decide +kernel⟩⟩

/-- The hypotheses of Obligations.TickOfAStakeCompletes, clause by clause, are met together. -/
theorem test_witness_TickOfAStakeCompletes :
    (∃ (s : State) (t : _), (s.isStake = true ∧ s.on TB_STAT_TICK_LOCK = true ∧ s.tb.havePeriod = true) ∧
      t = (s.predictTick.releaseHeld 0).releaseHeld 1) ∧
    (∃ (s : State) (u : _), (s.isStake = true ∧ s.on TB_STAT_TICK_LOCK = true ∧ s.tb.started = true ∧
      s.tb.sampled = false) ∧ u = (s.advance (s.tb.tickStart + s.cfg TB_SAMPLE_S)).gridSample) ∧
    (∃ (s : State), s.isStake = true ∧ 4 ≤ s.tb.rejRun) ∧
    (∃ (s : State), s.isStake = true ∧ 8 ≤ s.tb.holdRun) ∧
    (∃ (s : State), s.isStake = true ∧ s.tb.periodWait.isSome = true ∧ s.tb.lockOnMark = true) ∧
    (∃ (s : State), s.isStake = true ∧ s.tb.periodWait.isSome = true ∧ s.tb.lockOnMark = false) ∧
    (∃ (s : State) (k : Nat), s.isStake = true ∧ s.tb.moveDue = some k ∧ s.on TB_STAT_TICK_LOCK = true ∧
      k < s.tb.tickStart) :=
  ⟨⟨{ stk.put TB_STAT_TICK_LOCK 1 with tb := { havePeriod := true, period16 := 160000 } }, _, by decide +kernel, rfl⟩,
   ⟨{ stk.put TB_STAT_TICK_LOCK 1 with tb := { started := true } }, _, by decide +kernel, rfl⟩,
   ⟨{ stk with tb := { rejRun := 4 } }, by decide +kernel⟩,
   ⟨{ stk with tb := { holdRun := 8 } }, by decide +kernel⟩,
   ⟨{ stk with tb := { periodWait := some (5, 6), lockOnMark := true } }, by decide +kernel⟩,
   ⟨{ stk with tb := { periodWait := some (5, 6) } }, by decide +kernel⟩,
   ⟨{ stk.put TB_STAT_TICK_LOCK 1 with tb := { moveDue := some 900, tickStart := 901 } }, 900, by decide +kernel⟩⟩

/-- The hypotheses of Obligations.StationTimeCompletes, clause by clause, are met together. -/
theorem test_witness_StationTimeCompletes :
    (∃ (s : State) (k : _), s.running = true ∧ 1 ≤ k ∧ k ≤ 4) ∧
    (∃ (s : State), s.running = true ∧ s.takesWrites = true ∧ s.role = .datum ∧ s.on TB_STAT_TICK_RUN = false) ∧
    (∃ (s : State), s.running = true ∧ s.takesWrites = true ∧ s.role = .datum ∧ s.on TB_STAT_TICK_RUN = true) ∧
    (∃ (s : State) (v : _) (u : _), (s.running = true ∧ s.takesWrites = true ∧ toSigned 32 (v % 2 ^ 32) ≤ 6553600 ∧
      -6553600 ≤ toSigned 32 (v % 2 ^ 32)) ∧ u = ((s.put TB_FTRIM_TRIM (v % 2 ^ 32)).applyTrim).correction 1) ∧
    (∃ (s : State) (v : _), s.running = true ∧ s.takesWrites = true ∧
      (6553600 < toSigned 32 (v % 2 ^ 32) ∨ toSigned 32 (v % 2 ^ 32) < -6553600)) ∧
    (∃ (s : State), s.running = true ∧ s.role = .datum ∧ s.cfg TB_CTRL_SRC ≠ 0 ∧ s.on TB_STAT_HOLDOVER = false) ∧
    (∃ (s : State) (n : _) (f : _) (t : _), (s.running = true ∧ s.role = .datum ∧ n < 2 ∧
      s.cfgOn (PTP_CTRL_EN n) = true ∧ s.cfgOn (PTP_CTRL_ONESTEP n) = true ∧ s.cfg (PTP_CTRL_TRANSPORT n) ≠ 2) ∧
      t = s.time.addFrac (f + 4096 * s.cfg (PTP_LAT_EGRESS n))) ∧
    (∃ (s : State) (n : _), s.running = true ∧ s.role = .datum ∧ n < 2 ∧ s.cfgOn (PTP_CTRL_EN n) = true ∧
      (s.cfgOn (PTP_CTRL_ONESTEP n) = false ∨ s.cfg (PTP_CTRL_TRANSPORT n) = 2) ∧ ((kget s.ptp n).getD []).length < 16) ∧
    (∃ (s : State) (n : _), s.running = true ∧ s.role = .datum ∧ n < 2 ∧ s.cfgOn (PTP_CTRL_EN n) = true ∧
      (s.cfgOn (PTP_CTRL_ONESTEP n) = false ∨ s.cfg (PTP_CTRL_TRANSPORT n) = 2) ∧ 16 ≤ ((kget s.ptp n).getD []).length) ∧
    (∃ (s : State) (n : _), s.running = true ∧ s.role = .datum ∧ n < 2 ∧ s.cfgOn (PTP_CTRL_EN n) = true) :=
  ⟨⟨stk, 4, by decide +kernel⟩,
   ⟨mgd, by decide +kernel⟩,
   ⟨mgd.put TB_STAT_TICK_RUN 1, by decide +kernel⟩,
   ⟨mgd, 0xFF9C0000, _, by decide +kernel, rfl⟩,
   ⟨mgd, 6553601, by decide +kernel⟩,
   ⟨mgd.putCfg TB_CTRL_SRC 2, by decide +kernel⟩,
   ⟨(mgd.putCfg (PTP_CTRL_EN 1) 1).putCfg (PTP_CTRL_ONESTEP 1) 1, 1, 0, _, by decide +kernel, rfl⟩,
   ⟨mgd.putCfg (PTP_CTRL_EN 1) 1, 1, by decide +kernel⟩,
   ⟨{ mgd.putCfg (PTP_CTRL_EN 0) 1 with ptp := [(0, List.replicate 16 { seqId := 0, msgType := 0, time := {} })] }, 0,
     by decide +kernel⟩,
   ⟨mgd.putCfg (PTP_CTRL_EN 0) 1, 0, by decide +kernel⟩⟩

/-- The hypotheses of Obligations.LinkBringUpCompletes, clause by clause, are met together. -/
theorem test_witness_LinkBringUpCompletes :
    (∃ (s : State) (l : Nat), s.running = true ∧ s.hasLink l = true ∧ s.lstate l = 1) ∧
    (∃ (s : State) (l : Nat), s.running = true ∧ s.hasLink l = true ∧ s.lstate l = 2) ∧
    (∃ (s : State) (l : Nat), s.running = true ∧ s.hasLink l = true ∧ s.lstate l = 3) ∧
    (∃ (s : State) (l : Nat) (c : Cap) (u : State), (s.running = true ∧ s.hasLink l = true ∧ c.ok = true ∧
      (decide (l < 16) && c.feReq && s.cfgOn (TRV_CTRL_FE_ALLOW l)) = false ∧ s.lstate l = 4) ∧
      u = ((s.setLink l { s.link l with lastCap := some c, partner := c.monument, feedIn := c.feed }).notePartner l c).farEnd l c ∧ u.incompat l c = true) ∧
    (∃ (s : State) (l : Nat) (c : Cap) (u : State), (s.running = true ∧ s.hasLink l = true ∧ c.ok = true ∧
      (decide (l < 16) && c.feReq && s.cfgOn (TRV_CTRL_FE_ALLOW l)) = false ∧ s.lstate l = 4) ∧
      u = ((s.setLink l { s.link l with lastCap := some c, partner := c.monument, feedIn := c.feed }).notePartner l c).farEnd l c ∧ (u.incompat l c = false ∧ l < 16 ∧ u.badFeed l c.feed = true)) ∧
    (∃ (s : State) (l : Nat) (c : Cap) (u : State), (s.running = true ∧ s.hasLink l = true ∧ c.ok = true ∧
      (decide (l < 16) && c.feReq && s.cfgOn (TRV_CTRL_FE_ALLOW l)) = false ∧ s.lstate l = 4) ∧
      u = ((s.setLink l { s.link l with lastCap := some c, partner := c.monument, feedIn := c.feed }).notePartner l c).farEnd l c ∧ (u.incompat l c = false ∧ 16 ≤ l ∧ u.badPeer l c = true)) ∧
    (∃ (s : State) (l : Nat) (c : Cap) (u : State) (run : Nat) (v : State), (s.running = true ∧ s.hasLink l = true ∧
      c.ok = true ∧ (decide (l < 16) && c.feReq && s.cfgOn (TRV_CTRL_FE_ALLOW l)) = false ∧ s.lstate l = 4) ∧
      u = ((s.setLink l { s.link l with lastCap := some c, partner := c.monument, feedIn := c.feed }).notePartner l c).farEnd l c ∧ (u.incompat l c = false ∧ ((l < 16 → u.badFeed l c.feed = false)) ∧ ((16 ≤ l → u.badPeer l c = false)) ∧ (run = (if (s.link l).lastCap = some c then (u.link l).capRun + 1 else 1))) ∧ (v = (if l < 16 then (u.setLink l { u.link l with capRun := run }).put (TRV_STAT_VER l) (min 2 c.verMax) else u.setLink l { u.link l with capRun := run })) ∧ run < 3) ∧
    (∃ (s : State) (l : Nat) (c : Cap) (u : State) (run : Nat) (v : State), (s.running = true ∧ s.hasLink l = true ∧
      c.ok = true ∧ (decide (l < 16) && c.feReq && s.cfgOn (TRV_CTRL_FE_ALLOW l)) = false ∧ s.lstate l = 4) ∧
      u = ((s.setLink l { s.link l with lastCap := some c, partner := c.monument, feedIn := c.feed }).notePartner l c).farEnd l c ∧ (u.incompat l c = false ∧ ((l < 16 → u.badFeed l c.feed = false)) ∧ ((16 ≤ l → u.badPeer l c = false)) ∧ (run = (if (s.link l).lastCap = some c then (u.link l).capRun + 1 else 1))) ∧ (v = (if l < 16 then (u.setLink l { u.link l with capRun := run }).put (TRV_STAT_VER l) (min 2 c.verMax) else u.setLink l { u.link l with capRun := run })) ∧ (3 ≤ run ∧ c.ack = false)) ∧
    (∃ (s : State) (l : Nat) (c : Cap) (u : State) (run : Nat) (v : State), (s.running = true ∧ s.hasLink l = true ∧
      c.ok = true ∧ (decide (l < 16) && c.feReq && s.cfgOn (TRV_CTRL_FE_ALLOW l)) = false ∧ s.lstate l = 4) ∧
      u = ((s.setLink l { s.link l with lastCap := some c, partner := c.monument, feedIn := c.feed }).notePartner l c).farEnd l c ∧ (u.incompat l c = false ∧ ((l < 16 → u.badFeed l c.feed = false)) ∧ ((16 ≤ l → u.badPeer l c = false)) ∧ (run = (if (s.link l).lastCap = some c then (u.link l).capRun + 1 else 1))) ∧ (v = (if l < 16 then (u.setLink l { u.link l with capRun := run }).put (TRV_STAT_VER l) (min 2 c.verMax) else u.setLink l { u.link l with capRun := run })) ∧ (3 ≤ run ∧ c.ack = true)) ∧
    (∃ (s : State) (l : Nat) (c : Cap), s.running = true ∧ s.hasLink l = true ∧ c.ok = false ∧ s.echoes l = false) ∧
    (∃ (s : State) (l : Nat) (d : Dm), s.running = true ∧ s.hasLink l = true ∧ d.ok = true ∧ d.response = false ∧
      s.symLocked l = true) ∧
    (∃ (s : State) (l : Nat) (d : Dm) (t1 : Nat) (t4 : Nat) (u : State), (s.running = true ∧ s.hasLink l = true ∧
      d.ok = true ∧ d.response = true ∧ s.lstate l = 5 ∧ d.seq = (s.link l).dmSeq) ∧
      u = s.setLink l { s.link l with dmVals := (s.link l).dmVals ++ [((t4 : Int) - t1) - d.turn + (s.link l).dmAsym], dmSeq := ((s.link l).dmSeq + 1) % 256 } ∧ (s.link l).dmVals.length < 63) ∧
    (∃ (s : State) (l : Nat) (d : Dm) (t1 : Nat) (t4 : Nat) (u : State), (s.running = true ∧ s.hasLink l = true ∧
      d.ok = true ∧ d.response = true ∧ s.lstate l = 5 ∧ d.seq = (s.link l).dmSeq) ∧
      u = s.setLink l { s.link l with dmVals := (s.link l).dmVals ++ [((t4 : Int) - t1) - d.turn + (s.link l).dmAsym], dmSeq := ((s.link l).dmSeq + 1) % 256 } ∧ 63 ≤ (s.link l).dmVals.length) ∧
    (∃ (s : State) (l : Nat), s.running = true ∧ s.hasLink l = true ∧ 2 ≤ s.lstate l ∧ s.lstate l ≤ 5) ∧
    (∃ (s : State) (l : Nat), s.running = true ∧ s.hasLink l = true ∧ s.lstate l = 8) ∧
    (∃ (s : State) (l : Nat), s.running = true ∧ s.hasLink l = true ∧ s.lstate l = 9) ∧
    (∃ (s : State) (l : Nat), s.running = true ∧ s.hasLink l = true ∧ l < 16 ∧
      s.cfg (TRV_BUCFG_RETRY l) ≤ (s.link l).attempts ∧ (s.link l).raised = false) :=
  ⟨⟨stk.put (TRV_STAT_STATE 1) 1, 1, by decide +kernel⟩,
   ⟨dat.put TW_STAT_LSTATE 2, 16, by decide +kernel⟩,
   ⟨dat.put (CL_BL_STAT_VAL 3) 3, 20, by decide +kernel⟩,
   ⟨dat.put (TRV_STAT_STATE 0) 4, 0, capA, _, by decide +kernel, rfl, by decide +kernel⟩,
   ⟨dat.put (TRV_STAT_STATE 0) 4, 0, { capB with feed := 0x8005, crc := 0 }.sealed, _, by decide +kernel, rfl,
     by decide +kernel⟩,
   ⟨dat.put TW_STAT_LSTATE 4, 16, capB, _, by decide +kernel, rfl, by decide +kernel⟩,
   ⟨stk.put (TRV_STAT_STATE 0) 4, 0, capA, _, 1, _, by decide +kernel, rfl, by decide +kernel, rfl, by decide +kernel⟩,
   ⟨(stk.put (TRV_STAT_STATE 0) 4).setLink 0 { capRun := 2, lastCap := some capB }, 0, capB, _, 3, _, by decide +kernel,
     rfl, by decide +kernel, rfl, by decide +kernel⟩,
   ⟨(stk.put (TRV_STAT_STATE 0) 4).setLink 0 { capRun := 2, lastCap := some capA }, 0, capA, _, 3, _, by decide +kernel,
     rfl, by decide +kernel, rfl, by decide +kernel⟩,
   ⟨stk, 0, { capA with crc := 0x10000 }, by decide +kernel⟩,
   ⟨stk.put (TRV_STAT_STATE 0) 7, 0, Dm.sealed { response := false, seq := 255, turn := 0, crc := 0 }, by decide +kernel⟩,
   ⟨stk.put (TRV_STAT_STATE 0) 5, 0, dmA, 0, 0, _, by decide +kernel, rfl, by decide +kernel⟩,
   ⟨(stk.put (TRV_STAT_STATE 0) 5).setLink 0 { dmVals := List.replicate 63 0 }, 0, dmA, 0, 0, _, by decide +kernel, rfl,
     by decide +kernel⟩,
   ⟨stk.put (TRV_STAT_STATE 0) 5, 0, by decide +kernel⟩,
   ⟨stk.put (TRV_STAT_STATE 0) 8, 0, by decide +kernel⟩,
   ⟨dat.put (TRV_STAT_STATE 15) 9, 15, by decide +kernel⟩,
   ⟨stk.setLink 1 { attempts := 255 }, 1, by decide +kernel⟩⟩

/-- The hypotheses of Obligations.LinkUpkeepCompletes, clause by clause, are met together. -/
theorem test_witness_LinkUpkeepCompletes :
    (∃ (s : State) (p : Nat) (c : Cap) (u : State), (s.running = true ∧ s.hasLink p = true ∧ s.echoes p = false ∧
      c.ok = true ∧ (decide (p < 16) && c.feReq && s.cfgOn (TRV_CTRL_FE_ALLOW p)) = false) ∧
      u = ((s.setLink p { s.link p with lastCap := some c, partner := c.monument, feedIn := c.feed }).notePartner p c).farEnd p c ∧ s.lstate p = 5) ∧
    (∃ (s : State) (p : Nat) (c : Cap) (u : State), (s.running = true ∧ s.hasLink p = true ∧ s.echoes p = false ∧
      c.ok = true ∧ (decide (p < 16) && c.feReq && s.cfgOn (TRV_CTRL_FE_ALLOW p)) = false) ∧
      u = ((s.setLink p { s.link p with lastCap := some c, partner := c.monument, feedIn := c.feed }).notePartner p c).farEnd p c ∧ s.lstate p = 6) ∧
    (∃ (s : State) (p : Nat) (c : Cap) (u : State), (s.running = true ∧ s.hasLink p = true ∧ s.echoes p = false ∧
      c.ok = true ∧ (decide (p < 16) && c.feReq && s.cfgOn (TRV_CTRL_FE_ALLOW p)) = false) ∧
      u = ((s.setLink p { s.link p with lastCap := some c, partner := c.monument, feedIn := c.feed }).notePartner p c).farEnd p c ∧ (s.lstate p = 7 ∧ (s.link p).cache.any (fun x => x.monument ≠ c.monument) = true)) ∧
    (∃ (s : State) (p : Nat) (c : Cap) (u : State) (v : _), (s.running = true ∧ s.hasLink p = true ∧ s.echoes p = false ∧
      c.ok = true ∧ (decide (p < 16) && c.feReq && s.cfgOn (TRV_CTRL_FE_ALLOW p)) = false) ∧
      u = ((s.setLink p { s.link p with lastCap := some c, partner := c.monument, feedIn := c.feed }).notePartner p c).farEnd p c ∧ (s.lstate p = 7 ∧ (s.link p).cache.any (fun x => x.monument ≠ c.monument) = false ∧ (s.link p).blindLock = true) ∧ v = (u.goLink p 6 []).count (BLIND_CNT p)) ∧
    (∃ (s : State) (p : Nat), s.running = true ∧ s.hasLink p = true ∧ s.echoes p = false ∧ s.lstate p = 6) ∧
    (∃ (s : State) (p : Nat), s.running = true ∧ s.hasLink p = true ∧ s.echoes p = false ∧ 2 ≤ s.lstate p ∧
      s.lstate p ≤ 5) ∧
    (∃ (s : State) (p : Nat), s.running = true ∧ s.hasLink p = true ∧ s.echoes p = false ∧ s.lstate p = 6) ∧
    (∃ (s : State) (p : Nat) (b : _) (u : _), (s.running = true ∧ s.hasLink p = true ∧ s.echoes p = false ∧
      s.lstate p = 7) ∧ u = s.breakFrame p b) ∧
    (∃ (s : State) (p : Nat) (sym : Nat) (u : State) (v : State) (w : State), (s.running = true ∧ s.hasLink p = true ∧
      s.echoes p = false ∧ s.symLocked p = true) ∧
      u = (match s.outPort p with | some o => (s.emit (.err o false)).releaseHeld o | none => s) ∧
      (w = (if p < 16 then u.count (CV_CNT p) else u)) ∧
      v = w.setLink p { w.link p with cvs := ((s.link p).cvs.filter fun n => sym < n + 64) ++ [sym] } ∧ (s.lstate p = 6 ∧
      3 ≤ ((s.link p).cvs.filter fun n => sym < n + 64).length)) ∧
    (∃ (s : State) (p : Nat) (sym : Nat) (u : State) (v : State) (w : State), (s.running = true ∧ s.hasLink p = true ∧
      s.echoes p = false ∧ s.symLocked p = true) ∧
      u = (match s.outPort p with | some o => (s.emit (.err o false)).releaseHeld o | none => s) ∧
      (w = (if p < 16 then u.count (CV_CNT p) else u)) ∧
      v = w.setLink p { w.link p with cvs := ((s.link p).cvs.filter fun n => sym < n + 64) ++ [sym] } ∧
      (s.lstate p ≠ 6 ∨ ((s.link p).cvs.filter fun n => sym < n + 64).length < 3)) ∧
    (∃ (s : State) (p : Nat) (u : State), (s.running = true ∧ s.hasLink p = true ∧ s.echoes p = false) ∧
      (u = (if p < 16 then s.count (REALIGN_CNT p) else s))) ∧
    (∃ (s : State) (p : Nat), s.running = true ∧ s.hasLink p = true ∧ s.echoes p = false ∧ p < 16 ∧ s.symLocked p = true) ∧
    (∃ (s : State) (p : Nat), s.running = true ∧ s.hasLink p = true ∧ s.echoes p = false ∧ p < 16 ∧ s.lstate p = 7 ∧
      (s.link p).blindLock = false) ∧
    (∃ (s : State) (p : Nat), s.running = true ∧ s.hasLink p = true ∧ s.echoes p = false ∧ p < 16 ∧ s.lstate p = 7) ∧
    (∃ (s : State) (p : Nat), s.running = true ∧ s.hasLink p = true ∧ s.echoes p = false ∧ p < 16 ∧
      (s.link p).echo = true) ∧
    (∃ (s : State) (p : Nat) (d : Da), s.running = true ∧ s.hasLink p = true ∧ s.echoes p = false ∧ p < 16 ∧
      s.linkUp p = true ∧ d.ok = false) ∧
    (∃ (s : State) (p : Nat) (d : Da) (v : Nat), (s.running = true ∧ s.hasLink p = true ∧ s.echoes p = false ∧ p < 16 ∧
      s.linkUp p = true ∧ d.ok = true ∧ d.accValid = true ∧ s.role = .stake) ∧
      v = (d.acc + s.get (TRV_LINKDLY_DLY p)) % 2 ^ 32) ∧
    (∃ (s : State) (p : Nat) (d : Da), s.running = true ∧ s.hasLink p = true ∧ s.echoes p = false ∧ p < 16 ∧
      s.linkUp p = true ∧ d.ok = true ∧ d.accValid = false ∧ s.role = .stake) ∧
    (∃ (s : State) (p : Nat) (d : Da) (v : Nat) (u : State), (s.running = true ∧ s.hasLink p = true ∧
      s.echoes p = false ∧ p < 16 ∧ s.linkUp p = true ∧ d.ok = true ∧ d.accValid = true ∧ s.role = .datum) ∧
      v = (d.acc + s.get (TRV_LINKDLY_DLY p)) % 2 ^ 32 ∧
      (u = (if d.farValid = true then (s.putB (TRV_STAT_FAR_VALID p) d.farValid).put (TRV_FARDLY_DLY p) d.far else s.putB (TRV_STAT_FAR_VALID p) d.farValid))) :=
  ⟨⟨stk.put (TRV_STAT_STATE 0) 5, 0, capA, _, by decide +kernel, rfl, by decide +kernel⟩,
   ⟨dat.put TW_STAT_LSTATE 6, 16, capA, _, by decide +kernel, rfl, by decide +kernel⟩,
   ⟨(stk.put (TRV_STAT_STATE 0) 7).setLink 0 { cache := some { monument := 6, dly := 0, phase := 0, align := 0, ver := 2 } }, 0, capA, _, by decide +kernel, rfl, by decide +kernel⟩,
   ⟨(stk.put (TRV_STAT_STATE 0) 7).setLink 0 { blindLock := true, cache := some { monument := 5, dly := 0, phase := 0, align := 0, ver := 2 } }, 0, capA, _, _, by decide +kernel, rfl, by decide +kernel, rfl⟩,
   ⟨stk.put (TRV_STAT_STATE 0) 6, 0, by decide +kernel⟩,
   ⟨dat.put (CL_BL_STAT_VAL 0) 2, 17, by decide +kernel⟩,
   ⟨stk.put (TRV_STAT_STATE 0) 6, 0, by decide +kernel⟩,
   ⟨stk.put (TRV_STAT_STATE 1) 7, 1, false, _, by decide +kernel, rfl⟩,
   ⟨(dat.put TW_STAT_LSTATE 6).setLink 16 { cvs := [1, 1, 1] }, 16, 64, _, _, _, by decide +kernel, rfl, rfl, rfl,
     by decide +kernel⟩,
   ⟨(stk.put (TRV_STAT_STATE 1) 6).setLink 1 { cvs := [0, 0, 0] }, 1, 64, _, _, _, by decide +kernel, rfl, rfl, rfl,
     by decide +kernel⟩,
   ⟨stk, 0, _, by decide +kernel, rfl⟩,
   ⟨stk.put (TRV_STAT_STATE 0) 4, 0, by decide +kernel⟩,
   ⟨stk.put (TRV_STAT_STATE 0) 7, 0, by decide +kernel⟩,
   ⟨stk.put (TRV_STAT_STATE 0) 7, 0, by decide +kernel⟩,
   ⟨stk.setLink 0 { echo := true }, 0, by decide +kernel⟩,
   ⟨stk.put (TRV_STAT_STATE 0) 6, 0, { acc := 0, far := 0, accValid := true, farValid := false, crc := 0x10000 },
     by decide +kernel⟩,
   ⟨stk.put (TRV_STAT_STATE 0) 6, 0,
     Da.sealed { acc := 0xFFFFFFFF, far := 0, accValid := true, farValid := false, crc := 0 }, _, by decide +kernel, rfl⟩,
   ⟨stk.put (TRV_STAT_STATE 0) 6, 0, Da.sealed { acc := 0, far := 0, accValid := false, farValid := false, crc := 0 },
     by decide +kernel⟩,
   ⟨dat.put (TRV_STAT_STATE 0) 6, 0,
     Da.sealed { acc := 0xFFFFFFFF, far := 7, accValid := true, farValid := true, crc := 0 }, _, _, by decide +kernel,
     rfl, rfl⟩⟩

/-- The hypotheses of Obligations.PortRegistersComplete, clause by clause, are met together. -/
theorem test_witness_PortRegistersComplete :
    (∃ (s : State) (p : Nat), s.running = true ∧ p < s.nPorts ∧ s.takesWrites = true ∧ s.lstate p ≠ 0) ∧
    (∃ (s : State) (p : Nat), s.running = true ∧ p < s.nPorts ∧ s.takesWrites = true ∧ s.lstate p = 0) ∧
    (∃ (s : State) (p : Nat), s.running = true ∧ p < s.nPorts ∧ s.takesWrites = true ∧ s.on SYS_LOCK_TRVTEST = false) ∧
    (∃ (s : State) (p : Nat) (n : _), s.running = true ∧ p < s.nPorts ∧ s.takesWrites = true ∧
      s.on SYS_LOCK_TRVTEST = false ∧ 1 ≤ n ∧ n < 256) ∧
    (∃ (s : State) (p : Nat), s.running = true ∧ p < s.nPorts ∧ s.takesWrites = true ∧ s.on SYS_LOCK_TRVTEST = false) ∧
    (∃ (s : State) (p : Nat), s.running = true ∧ p < s.nPorts ∧ s.takesWrites = true ∧ s.on SYS_LOCK_TRVTEST = false) ∧
    (∃ (s : State) (p : Nat), s.running = true ∧ p < s.nPorts ∧ s.takesWrites = true ∧ s.on SYS_LOCK_TRVTEST = true) ∧
    (∃ (s : State) (p : Nat), s.running = true ∧ p < s.nPorts ∧ s.takesWrites = true ∧ s.on SYS_LOCK_TRVTEST = true) ∧
    (∃ (s : State) (p : Nat), s.running = true ∧ p < s.nPorts ∧ s.takesWrites = true ∧ s.on SYS_LOCK_TRVTEST = true) ∧
    (∃ (s : State) (p : Nat), s.running = true ∧ p < s.nPorts ∧ s.hasLink p = true ∧ p < 16 ∧ s.checks p = true ∧
      s.on (TRV_PRBS_STAT_CHK_LOCK p) = false) ∧
    (∃ (s : State) (p : Nat), s.running = true ∧ p < s.nPorts ∧ s.hasLink p = true ∧ p < 16 ∧ s.checks p = true ∧
      s.on (TRV_PRBS_STAT_CHK_LOCK p) = true) ∧
    (∃ (s : State) (p : Nat), s.running = true ∧ p < s.nPorts ∧ s.hasLink p = true ∧ p < 16 ∧
      s.on (TRV_PRBS_STAT_CHK_LOCK p) = true) ∧
    (∃ (s : State) (p : Nat) (c : Cap) (u : State), (s.running = true ∧ p < s.nPorts ∧ s.hasLink p = true ∧
      s.echoes p = true) ∧ u = s.emit (.cap p c)) :=
  ⟨⟨mgd.put (TRV_STAT_STATE 15) 6, 15, by decide +kernel⟩,
   ⟨mgs, 1, by decide +kernel⟩,
   ⟨mgs, 1, by decide +kernel⟩,
   ⟨mgs, 0, 255, by decide +kernel⟩,
   ⟨mgs, 0, by decide +kernel⟩,
   ⟨mgs, 1, by decide +kernel⟩,
   ⟨mgs.put SYS_LOCK_TRVTEST 1, 1, by decide +kernel⟩,
   ⟨mgs.put SYS_LOCK_TRVTEST 1, 1, by decide +kernel⟩,
   ⟨mgs.put SYS_LOCK_TRVTEST 1, 1, by decide +kernel⟩,
   ⟨(dat.put (TRV_STAT_STATE 15) 10).putCfg (TRV_TEST_CHK 15) 1, 15, by decide +kernel⟩,
   ⟨((dat.put (TRV_STAT_STATE 15) 10).putCfg (TRV_TEST_CHK 15) 1).put (TRV_PRBS_STAT_CHK_LOCK 15) 1, 15, by decide +kernel⟩,
   ⟨dat.put (TRV_PRBS_STAT_CHK_LOCK 15) 1, 15, by decide +kernel⟩,
   ⟨(dat.put (TRV_STAT_STATE 15) 10).setLink 15 { echo := true }, 15, capA, _, by decide +kernel, rfl⟩⟩

/-- The hypotheses of Obligations.FramesAndPairsComplete, clause by clause, are met together. -/
theorem test_witness_FramesAndPairsComplete :
    (∃ (s : State) (p : Nat) (f : Frame) (c : Nat) (i : Nat) (u : State) (v : State), (s.isDatum = true ∧
      s.echoes p = false ∧ p < 16 ∧ s.portUp p = true) ∧ u = s.advance (c / 32 + frameCycles f) ∧
      v = (match u.outPort p with | some o => (u.absorb o i).passOn o f | none => u) ∧ v.tb.started = false) ∧
    (∃ (s : State) (p : Nat) (f : Frame) (c : Nat) (i : Nat) (u : State) (v : State), (s.isDatum = true ∧
      s.echoes p = false ∧ p < 16 ∧ s.portUp p = true) ∧ u = s.advance (c / 32 + frameCycles f) ∧
      v = (match u.outPort p with | some o => (u.absorb o i).passOn o f | none => u) ∧ (v.tb.started = true ∧
      v.tb.cutDone = true)) ∧
    (∃ (s : State) (p : Nat) (f : Frame) (c : Nat) (i : Nat) (u : State) (v : State), (s.isDatum = true ∧
      s.echoes p = false ∧ p < 16 ∧ s.portUp p = true) ∧ u = s.advance (c / 32 + frameCycles f) ∧
      v = (match u.outPort p with | some o => (u.absorb o i).passOn o f | none => u) ∧ (v.tb.started = true ∧
      v.tb.cutDone = false)) ∧
    (∃ (s : State) (p : Nat), s.isDatum = true ∧ p < 16 ∧ s.cfg (TRV_CLOSE_PERSIST p) ≤ (s.port p).failRun ∧
      (s.port p).closeRaised = false) ∧
    (∃ (s : State) (q : Nat) (f : Frame) (c : Nat) (u : State), (s.isStake = true ∧ q < 2 ∧ s.frm.decoded.contains (q,
      c) = false ∧ s.echoes q = false ∧ s.linkUp q = true ∧ (s.linkUp (1 - q) = false ∨ s.sameCycle q c = none)) ∧
      (u = (if q = s.timingPort then s.timingComma f c else s))) ∧
    (∃ (s : State) (q : Nat) (g : Frame) (c : Nat) (t : Nat) (n : Nat), s.isStake = true ∧ q < 2 ∧
      s.frm.decoded.contains (q, c) = false ∧ s.echoes q = false ∧ s.echoes (1 - q) = false ∧ s.linkUp q = true ∧
      s.linkUp (1 - q) = true ∧ s.sameCycle q c = some (g, t, n)) ∧
    (∃ (s : State) (q : Nat) (c : Nat), s.isStake = true ∧ s.frm.decoded.contains (q, c) = true) ∧
    (∃ (s : State) (q : Nat), s.running = true ∧ s.echoes q = true ∧ s.role = .datum) ∧
    (∃ (s : State) (q : Nat) (c : Nat), s.running = true ∧ s.echoes q = true ∧ s.role = .stake ∧
      s.frm.decoded.contains (q, c) = false) ∧
    (∃ (s : State) (q : Nat), s.running = true ∧ s.echoes q = true ∧ s.role = .stake) ∧
    (∃ (s : State) (q : Nat), s.running = true ∧ s.echoes q = true ∧ s.role = .datum) ∧
    (∃ (s : State) (q : Nat), s.running = true ∧ s.echoes q = true) ∧
    (∃ (s : State) (q : Nat), s.isStake = true ∧ q < 2 ∧ s.echoes q = false ∧ s.symLocked q = true) ∧
    (∃ (s : State) (p : Nat), s.isDatum = true ∧ p < 16 ∧ s.echoes p = false ∧ s.symLocked p = true) ∧
    (∃ (s : State) (q : Nat) (c : Nat) (u : State), (s.running = true ∧ s.echoes q = false ∧ s.hasLink q = true ∧
      q < 16 ∧ s.symLocked q = true) ∧ u = s.advance (c / 32)) ∧
    (∃ (s : State), s.running = true) ∧
    (∃ (s : State), s.isStake = true ∧ s.frm.leaseDue = true) :=
  ⟨⟨dat.put (TRV_STAT_STATE 3) 6, 3, frameA, 0, 5, _, _, by decide +kernel, rfl, rfl, by decide +kernel⟩,
   ⟨{ dat.put (TRV_STAT_STATE 3) 6 with tb := { started := true, cutDone := true } }, 3, frameA, 0, 5, _, _,
     by decide +kernel, rfl, rfl, by decide +kernel⟩,
   ⟨{ dat.put (TRV_STAT_STATE 3) 6 with tb := { started := true } }, 3, frameA, 0, 5, _, _, by decide +kernel, rfl, rfl,
     by decide +kernel⟩,
   ⟨dat.setPort 15 { failRun := 255 }, 15, by decide +kernel⟩,
   ⟨stk.put (TRV_STAT_STATE 1) 6, 1, frameA, 0, _, by decide +kernel, rfl⟩,
   ⟨{ (stk.put (TRV_STAT_STATE 0) 6).put (TRV_STAT_STATE 1) 7 with pending := [.stakeFrameDecode 1 frameA 8 0] }, 0,
     frameA, 0, 8, 0, by decide +kernel⟩,
   ⟨{ stk with frm := { decoded := [(1, 5)] } }, 1, 5, by decide +kernel⟩,
   ⟨(dat.put (TRV_STAT_STATE 3) 10).setLink 3 { echo := true }, 3, by decide +kernel⟩,
   ⟨(stk.put (TRV_STAT_STATE 1) 10).setLink 1 { echo := true }, 1, 5, by decide +kernel⟩,
   ⟨(stk.put (TRV_STAT_STATE 1) 10).setLink 1 { echo := true }, 1, by decide +kernel⟩,
   ⟨(dat.put (TRV_STAT_STATE 3) 10).setLink 3 { echo := true }, 3, by decide +kernel⟩,
   ⟨(dat.put (TRV_STAT_STATE 3) 10).setLink 3 { echo := true }, 3, by decide +kernel⟩,
   ⟨stk.put (TRV_STAT_STATE 1) 6, 1, by decide +kernel⟩,
   ⟨dat.put (TRV_STAT_STATE 15) 4, 15, by decide +kernel⟩,
   ⟨stk.put (TRV_STAT_STATE 0) 6, 0, 0, _, by decide +kernel, rfl⟩,
   ⟨stk, by decide +kernel⟩,
   ⟨{ stk with frm := { leaseDue := true } }, by decide +kernel⟩⟩

/-- The hypotheses of Obligations.LevellingOfAStakeCompletes, clause by clause, are met together. -/
theorem test_witness_LevellingOfAStakeCompletes :
    (∃ (s : State) (u : _) (v : _) (w : _), (s.isStake = true ∧ s.on TB_STAT_TICK_LOCK = true ∧ s.tb.applied = false) ∧
      (u = (match s.actedEntry with | some e => if e.hasApply = true then s.advance (s.tb.tickStart + e.apply) else s | none => s.count (NO_DEC s.timingPort))) ∧ v = ({ u with gs := { u.gs with refreshRun := false }, frm := { u.frm with held := false } } : State).put LVL_SSTAT_LATCHHOLD 0 ∧ w = (v.put LVL_SSTAT_TRIMMING 0).applyPlan) ∧
    (∃ (s : State), s.isStake = true ∧ s.tb.applied = true) ∧
    (∃ (s : State) (c : _) (u : _), (s.isStake = true ∧ s.gs.trimEnd = some c) ∧
      u = ({ s.advance c with gs := { s.gs with trimEnd := none } } : State) ∧ s.gs.offAtApply = true) ∧
    (∃ (s : State) (c : _) (u : _) (r : _), (s.isStake = true ∧ s.gs.trimEnd = some c) ∧
      u = ({ s.advance c with gs := { s.gs with trimEnd := none } } : State) ∧ s.gs.offAtApply = false ∧
      r = u.changeCell .bypassed u.now (s.gs.trimNext - u.now) ∧ r.1 = true) ∧
    (∃ (s : State) (c : _) (u : _) (r : _), (s.isStake = true ∧ s.gs.trimEnd = some c) ∧
      u = ({ s.advance c with gs := { s.gs with trimEnd := none } } : State) ∧ s.gs.offAtApply = false ∧
      r = u.changeCell .bypassed u.now (s.gs.trimNext - u.now) ∧ r.1 = false) ∧
    (∃ (s : State), s.isStake = true ∧ s.cfg LVL_SCFG_UNRK_LIM ≤ s.frm.unrankRun ∧ s.frm.unrankRaised = false) :=
  ⟨⟨stk.put TB_STAT_TICK_LOCK 1, _, _, _, by decide +kernel, rfl, rfl, rfl⟩,
   ⟨{ stk with tb := { applied := true } }, by decide +kernel⟩,
   ⟨{ stk with gs := { trimEnd := some 2000, offAtApply := true } }, 2000, _, by decide +kernel, rfl, by decide +kernel⟩,
   ⟨{ stk.put GS_STAT_CELL 1 with gs := { trimEnd := some 2000 } }, 2000, _, _, by decide +kernel, rfl,
     by decide +kernel, rfl, by decide +kernel⟩,
   ⟨{ stk.put GS_STAT_CELL 2 with gs := { trimEnd := some 2000, trimNext := 2001 } }, 2000, _, _, by decide +kernel, rfl,
     by decide +kernel, rfl, by decide +kernel⟩,
   ⟨{ stk with frm := { unrankRun := 65535 } }, by decide +kernel⟩⟩

/-- The hypotheses of Obligations.LevellingOfADatumCompletes, clause by clause, are met together. -/
theorem test_witness_LevellingOfADatumCompletes :
    (∃ (s : State) (a : _), s.isDatum = true ∧ a < 6) ∧
    (∃ (s : State) (a : _), s.isDatum = true ∧ 6 ≤ a) ∧
    (∃ (s : State) (a : _), s.isDatum = true ∧ s.armEn a = true ∧ s.on (LVL_ARM_STAT_POSTED a) = true ∧
      s.tb.started = true ∧ s.tb.cutDone = false) ∧
    (∃ (s : State), s.isDatum = true) ∧
    (∃ (s : State), s.isDatum = true) ∧
    (∃ (s : State), s.isDatum = true) ∧
    (∃ (s : State) (a : Nat), s.isDatum = true ∧ a < 6 ∧ s.cfg LVL_CTRL_DEV_PERSIST ≤ (s.armSt a).devRun ∧
      (s.armSt a).devRaised = false ∧ ((∀ b : Nat, b < 6 → b ≠ a → (s.armSt b).devRun < s.cfg LVL_CTRL_DEV_PERSIST))) ∧
    (∃ (s : State) (a : Nat), s.isDatum = true ∧ a < 6 ∧ s.cfgOn (LVL_ARM_RESTCFG_REST_EN a) = true ∧
      s.cfg (LVL_ARM_RESTCFG_DLY a) ≤ (s.armSt a).zeroRun ∧ (s.armSt a).restOn = false ∧ ((∀ b : Nat,
      b < 6 → b ≠ a → s.cfgOn (LVL_ARM_RESTCFG_REST_EN b) = false))) :=
  ⟨⟨dat, 5, by decide +kernel⟩,
   ⟨dat, 6, by decide +kernel⟩,
   ⟨{ (dat.putCfg LVL_CTRL_ARM_EN 63).put (LVL_ARM_STAT_POSTED 0) 1 with tb := { started := true } }, 0, by decide +kernel⟩,
   ⟨dat, by decide +kernel⟩,
   ⟨dat, by decide +kernel⟩,
   ⟨dat, by decide +kernel⟩,
   ⟨(dat.putCfg LVL_CTRL_DEV_PERSIST 3).setArm 5 { devRun := 3 }, 5, by decide +kernel⟩,
   ⟨(dat.putCfg (LVL_ARM_RESTCFG_REST_EN 0) 1).setArm 0 { zeroRun := 0xFFFFFF }, 0, by decide +kernel⟩⟩

/-- The hypotheses of Obligations.GateLinkCommandsComplete, clause by clause, are met together. -/
theorem test_witness_GateLinkCommandsComplete :
    (∃ (s : State) (n : Nat) (u : _) (r : _), (s.isStake = true ∧ s.isUsed n = true ∧ s.on SF_SSTAT_GCMD_GATED = false) ∧
      u = s.advance (s.busyTill n + 512) ∧ ((s.chan n).refreshes + 1) % 64 ≠ 0 ∧
      (r = (u.setChan n { s.chan n with refreshes := ((s.chan n).refreshes + 1) % 64 }).emitSym n (if s.on (GS_CH_STAT_ON n) = true then .on else .off))) ∧
    (∃ (s : State) (n : Nat) (u : _) (r : _), (s.isStake = true ∧ s.isUsed n = true ∧ s.on SF_SSTAT_GCMD_GATED = false) ∧
      u = s.advance (s.busyTill n + 512) ∧ ((s.chan n).refreshes + 1) % 64 = 0 ∧
      r = (((u.setChan n { s.chan n with refreshes := 0 }).emitSym n (.sets 0 (s.get (GS_CH_STAT_CODE_ON n)))).emitSym n (.sets 1 (s.get (GS_CH_STAT_CODE_OFF n)))).emitSym n (.sets 2 (s.cfg (GS_CH_STR_SOFT n)))) ∧
    (∃ (s : State) (n : Nat) (reg : _) (r : _), (s.isStake = true ∧ s.isUsed n = true ∧
      s.on SF_SSTAT_GCMD_GATED = false ∧ (s.chan n).setsDue.contains reg = true) ∧
      r = (s.setChan n { s.chan n with setsDue := (s.chan n).setsDue.filter (· ≠ reg), setsSent := addOnce (s.chan n).setsSent reg }).emitSym n (.sets reg (s.setsCode n reg))) ∧
    (∃ (s : State) (n : Nat), s.isStake = true ∧ s.isUsed n = true ∧ s.on SF_SSTAT_GCMD_GATED = true) ∧
    (∃ (s : State) (n : Nat) (chips : _) (w : _), s.isStake = true ∧ s.isUsed n = true ∧ manchester chips 16 = some w ∧
      wordOk w (s.chan n).wseq = true) ∧
    (∃ (s : State) (n : Nat) (chips : _) (w : _), s.isStake = true ∧ s.isUsed n = true ∧ manchester chips 16 = some w ∧
      wordOk w (s.chan n).wseq = false) ∧
    (∃ (s : State) (n : Nat) (chips : _), s.isStake = true ∧ s.isUsed n = true ∧ manchester chips 16 = none) ∧
    (∃ (s : State) (n : Nat), s.isStake = true ∧ s.isUsed n = true ∧ s.on (GS_CH_STAT_LOCK n) = false ∧
      4 ≤ (s.chan n).goodRun) ∧
    (∃ (s : State) (n : Nat), s.isStake = true ∧ s.isUsed n = true ∧ s.on (GS_CH_STAT_LOCK n) = true ∧
      2 ≤ (s.chan n).badRun) ∧
    (∃ (s : State) (n : Nat) (len : _), s.isStake = true ∧ s.isUsed n = true ∧ 100 ≤ len) :=
  ⟨⟨stk, 0, _, _, by decide +kernel, rfl, by decide +kernel, rfl⟩,
   ⟨stk.setChan 0 { refreshes := 63 }, 0, _, _, by decide +kernel, rfl, by decide +kernel, rfl⟩,
   ⟨stk.put (GS_CH_STAT_PSTATE 1) 1, 1, 2, _, by decide +kernel, rfl⟩,
   ⟨stk.put SF_SSTAT_GCMD_GATED 1, 1, by decide +kernel⟩,
   ⟨stk, 0, chipsOf (0x76 + 4096 * crc4 0x76) 16, 0x76 + 4096 * crc4 0x76, by decide +kernel⟩,
   ⟨stk, 0, chipsOf 0x76 16, 0x76, by decide +kernel⟩,
   ⟨stk, 0, 0, by decide +kernel⟩,
   ⟨stk.setChan 0 { goodRun := 4 }, 0, by decide +kernel⟩,
   ⟨(stk.put (GS_CH_STAT_LOCK 0) 1).setChan 0 { badRun := 2 }, 0, by decide +kernel⟩,
   ⟨stk, 1, 100, by decide +kernel⟩⟩

/-- The hypotheses of Obligations.GateMarkersAndStrengthComplete, clause by clause, are met together. -/
theorem test_witness_GateMarkersAndStrengthComplete :
    (∃ (s : State) (n : Nat) (ns : _) (len : _) (b : _), s.isStake = true ∧ 12 ≤ len ∧ len < 100 ∧ s.isUsed n = true ∧
      2 * (s.chan n).chgAt ≤ ns ∧ ns ≤ 2 * (s.chan n).chgAt + 2000 ∧ (s.chan n).chgOn = some b ∧ (s.chan n).edges = []) ∧
    (∃ (s : State) (n : Nat) (ns : _) (len : _) (b : _) (t0 : _) (rest : _) (u : _), (s.isStake = true ∧ 12 ≤ len ∧
      len < 100 ∧ s.isUsed n = true ∧ 2 * (s.chan n).chgAt ≤ ns ∧ ns ≤ 2 * (s.chan n).chgAt + 2000 ∧
      (s.chan n).chgOn = some b ∧ (s.chan n).edges = t0 :: rest) ∧
      (u = (s.setChan n { s.chan n with edges := [], chgOn := none }).put (if b = true then GS_CH_MEAS_TON_M n else GS_CH_MEAS_TOFF_M n) (ns - t0))) ∧
    (∃ (s : State) (n : Nat) (ns : _) (len : _), s.isStake = true ∧
      (len < 12 ∨ ns < 2 * (s.chan n).chgAt ∨ 2 * (s.chan n).chgAt + 2000 < ns ∨ (s.chan n).chgOn = none)) ∧
    (∃ (s : State) (n : Nat), s.isStake = true ∧ (s.chan n).chgOn.isSome = true) ∧
    (∃ (s : State) (n : Nat), s.isStake = true ∧ (s.chan n).chgOn = none) ∧
    (∃ (s : State) (n : Nat), s.isStake = true ∧ (s.chan n).wanted = 16) ∧
    (∃ (s : State) (n : Nat), s.isStake = true ∧ (s.chan n).wanted < 16) :=
  ⟨⟨stk.setChan 0 { chgOn := some true, chgAt := 100 }, 0, 2200, 12, true, by decide +kernel⟩,
   ⟨stk.setChan 0 { chgOn := some false, chgAt := 100, edges := [300] }, 0, 400, 99, false, 300, [], _,
     by decide +kernel, rfl⟩,
   ⟨stk, 0, 100, 11, by decide +kernel⟩,
   ⟨stk.setChan 0 { chgOn := some true }, 0, by decide +kernel⟩,
   ⟨stk, 0, by decide +kernel⟩,
   ⟨stk.setChan 1 { wanted := 16 }, 1, by decide +kernel⟩,
   ⟨stk.setChan 1 { wanted := 15 }, 1, by decide +kernel⟩⟩

/-- The hypotheses of Obligations.GateProtectionComplete, clause by clause, are met together. -/
theorem test_witness_GateProtectionComplete :
    (∃ (s : State) (n : Nat), s.isStake = true ∧ s.isUsed n = true ∧ s.testing [1] n = true) ∧
    (∃ (s : State) (n : Nat), s.isStake = true ∧ s.isUsed n = true ∧ s.testing [1] n = false ∧
      s.on (GS_CH_STAT_ON n) = true ∧ (s.chan n).soft = false) ∧
    (∃ (s : State) (n : Nat) (len : _), s.isStake = true ∧ s.isUsed n = true ∧ s.testing [1] n = false ∧
      s.on (GS_CH_STAT_ON n) = true ∧ 12 ≤ len ∧ len < 12 + 2 * s.cfg GS_PROT0_FILT) ∧
    (∃ (s : State) (n : Nat) (u : _), (s.isStake = true ∧ s.isUsed n = true ∧ s.on (GS_CH_STAT_LOCK n) = true ∧
      ((s.on (GS_CH_STAT_SUPG n) = false ∧ s.testing [3] n = false) ∨ (s.on (GS_CH_STAT_GVG n) = false ∧
      s.testing [2] n = false ∧ (s.chan n).chgAt + 1000 < s.now)) ∧ s.get (GS_CH_STAT_PSTATE n) = 1) ∧
      (u = (if s.on (GS_CH_STAT_ON n) = true then s.sendNow n .softoff else if ((s.chan n).due.any fun e => decide (e.2 = .on)) = true then s.sendNow n .off else s))) ∧
    (∃ (s : State) (n : Nat), s.isStake = true ∧ s.isUsed n = true ∧ s.get (GS_CH_STAT_PSTATE n) ≠ 1) ∧
    (∃ (s : State) (n : Nat), s.isStake = true ∧ s.isUsed n = true ∧ s.get (GS_CH_STAT_PSTATE n) = 2 ∧
      s.on (GS_CH_STAT_LOCK n) = true ∧ s.on (GS_CH_STAT_SUPG n) = true ∧ s.on (GS_CH_STAT_DSAT n) = false) ∧
    (∃ (s : State) (n : Nat), s.isStake = true ∧ s.isUsed n = true ∧
      (s.on (GS_CH_STAT_LOCK n) = false ∨ s.on (GS_CH_STAT_SUPG n) = false ∨ s.on (GS_CH_STAT_DSAT n) = true)) ∧
    (∃ (s : State) (n : Nat), s.isStake = true ∧ s.isUsed n = true ∧ s.get (GS_CH_STAT_PSTATE n) = 1) ∧
    (∃ (s : State) (n : Nat), s.isStake = true ∧ s.isUsed n = true ∧ s.get (GS_CH_STAT_PSTATE n) = 0 ∧
      (s.chan n).toldNotReady = false) ∧
    (∃ (s : State) (n : Nat), s.isStake = true ∧ s.isUsed n = true ∧ s.takesWrites = true ∧
      s.on (GS_CH_STAT_LOCK n) = true ∧ s.on (GS_CH_STAT_DSAT n) = false) ∧
    (∃ (s : State) (n : Nat), s.isStake = true ∧ s.isUsed n = true ∧ s.takesWrites = true ∧
      (s.on (GS_CH_STAT_LOCK n) = false ∨ s.on (GS_CH_STAT_DSAT n) = true)) :=
  ⟨⟨{ (stk.put GS_STAT_TEST_BUSY 1) with gs := { testSel := 1 } }, 0, by decide +kernel⟩,
   ⟨stk.put (GS_CH_STAT_ON 0) 1, 0, by decide +kernel⟩,
   ⟨stk.put (GS_CH_STAT_ON 0) 1, 0, 12, by decide +kernel⟩,
   ⟨((stk.put (GS_CH_STAT_ON 1) 1).put (GS_CH_STAT_LOCK 1) 1).put (GS_CH_STAT_PSTATE 1) 1, 1, _, by decide +kernel, rfl⟩,
   ⟨stk, 1, by decide +kernel⟩,
   ⟨((stk.put (GS_CH_STAT_SUPG 0) 1).put (GS_CH_STAT_LOCK 0) 1).put (GS_CH_STAT_PSTATE 0) 2, 0, by decide +kernel⟩,
   ⟨stk, 0, by decide +kernel⟩,
   ⟨stk.put (GS_CH_STAT_PSTATE 0) 1, 0, by decide +kernel⟩,
   ⟨stk, 0, by decide +kernel⟩,
   ⟨(mgs.put (GS_CH_STAT_PSTATE 0) 3).put (GS_CH_STAT_LOCK 0) 1, 0, by decide +kernel⟩,
   ⟨mgs.put (GS_CH_STAT_DSAT 0) 1, 0, by decide +kernel⟩⟩

/-- The hypotheses of Obligations.OvervoltageAndBypassComplete, clause by clause, are met together. -/
theorem test_witness_OvervoltageAndBypassComplete :
    (∃ (s : State), s.isStake = true ∧ s.cfg GS_OV2_CNT ≤ s.gs.ov2Run ∧ s.on GS_STAT_OV2_BLK = false ∧
      ((s.on GS_STAT_TEST_BUSY = false ∨ s.gs.testSel ≠ 5))) ∧
    (∃ (s : State), s.isStake = true ∧ s.takesWrites = true ∧ s.gs.vcode ≤ s.cfg GS_OV1_OFF_LEVEL) ∧
    (∃ (s : State), s.isStake = true ∧ s.takesWrites = true ∧ s.cfg GS_OV1_OFF_LEVEL < s.gs.vcode) ∧
    (∃ (s : State) (u : _), (s.isStake = true ∧ (s.on GS_STAT_TEST_BUSY = false ∨ s.gs.testSel ≠ 6) ∧
      s.on GS_STAT_FIRED = false ∧ s.gs.mark = false ∧ s.gs.byp = .idle) ∧ u = s.forceOff.setDchg true) ∧
    (∃ (s : State), s.isStake = true ∧ (s.on GS_STAT_TEST_BUSY = false ∨ s.gs.testSel ≠ 6) ∧ s.gs.byp = .triggered ∧
      s.gs.bypAt = s.now ∧ 1 < s.gs.bypCause) ∧
    (∃ (s : State), s.isStake = true ∧ ((s.on GS_STAT_TEST_BUSY = true ∧
      s.gs.testSel = 6) ∨ s.gs.byp = .driven ∨ s.gs.byp = .released)) ∧
    (∃ (s : State), s.isStake = true ∧ s.gs.byp = .triggered) ∧
    (∃ (s : State), s.isStake = true ∧ s.gs.byp = .driven) ∧
    (∃ (s : State), s.isStake = true ∧ s.gs.byp = .driven) ∧
    (∃ (s : State), s.isStake = true ∧ s.takesWrites = true) ∧
    (∃ (s : State) (c : _) (u : _) (v : _), (s.isStake = true ∧ s.takesWrites = true) ∧
      u = ({ s.advance c with gs := { s.gs with armed := false } } : State) ∧ v = u.forceOff.setDchg true ∧
      (s.gs.armed = true ∧ max s.now c ≤ s.gs.armAt + 500000 ∧ s.on GS_STAT_FIRED = false ∧ s.gs.mark = false ∧
      s.gs.byp = .idle)) ∧
    (∃ (s : State) (c : _), s.isStake = true ∧ s.takesWrites = true ∧
      (s.gs.armed = false ∨ s.gs.armAt + 500000 < max s.now c)) ∧
    (∃ (s : State), s.isStake = true ∧ s.takesWrites = true ∧ s.on SYS_LOCK_OV = false ∧ s.gs.mark = false) ∧
    (∃ (s : State) (u : _), (s.isStake = true ∧ s.takesWrites = true ∧ s.on SYS_LOCK_OV = false ∧ s.gs.mark = true ∧
      s.gs.pornSinceFire = true) ∧
      u = (({ s with gs := { s.gs with armed := false, mark := false, bypf := false, byp := .idle, needEntry := true } } : State).put GS_STAT_FIRED 0)) ∧
    (∃ (s : State), s.isStake = true ∧ s.takesWrites = true ∧ (s.on SYS_LOCK_OV = true ∨ (s.gs.mark = true ∧
      s.gs.pornSinceFire = false))) ∧
    (∃ (s : State), s.isStake = true) :=
  ⟨⟨{ stk with gs := { ov2Run := 255 } }, by decide +kernel⟩,
   ⟨mgs, by decide +kernel⟩,
   ⟨{ mgs with gs := { vcode := 0x3FFFFE } }, by decide +kernel⟩,
   ⟨stk, _, by decide +kernel, rfl⟩,
   ⟨{ stk with gs := { byp := .triggered, bypAt := 1000, bypCause := 2 } }, by decide +kernel⟩,
   ⟨{ stk with gs := { byp := .driven } }, by decide +kernel⟩,
   ⟨{ stk with gs := { byp := .triggered } }, by decide +kernel⟩,
   ⟨{ stk with gs := { byp := .driven } }, by decide +kernel⟩,
   ⟨{ stk with gs := { byp := .driven } }, by decide +kernel⟩,
   ⟨mgs, by decide +kernel⟩,
   ⟨{ mgs with gs := { armed := true, armAt := 1000 } }, 501000, _, _, by decide +kernel, rfl, rfl, by decide +kernel⟩,
   ⟨{ mgs with gs := { armed := true, armAt := 1000 } }, 501001, by decide +kernel⟩,
   ⟨mgs, by decide +kernel⟩,
   ⟨{ mgs with gs := { vcode := 0x3FFFFE, mark := true, pornSinceFire := true } }, _, by decide +kernel, rfl⟩,
   ⟨{ mgs with gs := { mark := true } }, by decide +kernel⟩,
   ⟨stk, by decide +kernel⟩⟩

/-- The hypotheses of Obligations.SelfTestAndManualComplete, clause by clause, are met together. -/
theorem test_witness_SelfTestAndManualComplete :
    (∃ (s : State) (sel : _) (ch : _), s.isStake = true ∧ s.takesWrites = true ∧ (sel = 0 ∨ 7 ≤ sel ∨ 4 ≤ ch)) ∧
    (∃ (s : State) (sel : _) (ch : _) (u : _), (s.isStake = true ∧ s.takesWrites = true ∧ 1 ≤ sel ∧ sel ≤ 3 ∧ ch < 4 ∧
      s.cell = .off ∧ s.isUsed ch = true ∧ s.get (GS_CH_STAT_PSTATE ch) = 1 ∧ s.on GS_STAT_TEST_BUSY = false) ∧
      u = (((({ s with gs := { s.gs with testSel := sel, testCh := ch, testPhase := .forced, testAt := s.now } } : State).put GS_STAT_TEST_BUSY 1).put GS_TEST_STAT_BUSY 1).put GS_TEST_STAT_LAST_SEL sel).sendTest ch sel) ∧
    (∃ (s : State) (sel : _) (ch : _) (u : _), (s.isStake = true ∧ s.takesWrites = true ∧ 4 ≤ sel ∧ sel ≤ 6 ∧ ch < 4 ∧
      s.cell = .off ∧ s.on GS_STAT_TEST_BUSY = false) ∧
      u = (((({ s with gs := { s.gs with testSel := sel, testCh := ch, testPhase := .forced, testAt := s.now } } : State).put GS_STAT_TEST_BUSY 1).put GS_TEST_STAT_BUSY 1).put GS_TEST_STAT_LAST_SEL sel)) ∧
    (∃ (s : State) (sel : _) (ch : _), s.isStake = true ∧ s.takesWrites = true ∧ 1 ≤ sel ∧ sel ≤ 6 ∧ ch < 4 ∧
      (s.cell ≠ .off ∨ s.on GS_STAT_TEST_BUSY = true ∨ (sel ≤ 3 ∧
      (s.isUsed ch = false ∨ s.get (GS_CH_STAT_PSTATE ch) ≠ 1)))) ∧
    (∃ (s : State), s.isStake = true ∧ s.on GS_STAT_TEST_BUSY = true) ∧
    (∃ (s : State), s.isStake = true ∧ s.on GS_STAT_TEST_BUSY = false) ∧
    (∃ (s : State) (n : _) (man : _), s.isStake = true ∧ s.takesWrites = true ∧ n < 4 ∧ s.on (GS_CH_CTRL_MAN n) ≠ man ∧
      (s.on LVL_SIDX_ADOPTED = true ∨ s.on SYS_LOCK_GATE = true)) ∧
    (∃ (s : State) (n : _) (man : _) (b : _) (u : _), (s.isStake = true ∧ s.takesWrites = true ∧ n < 4 ∧
      (s.on (GS_CH_CTRL_MAN n) = man ∨ (s.on LVL_SIDX_ADOPTED = false ∧ s.on SYS_LOCK_GATE = false))) ∧
      u = (s.putB (GS_CH_CTRL_MAN n) man).putB (GS_CH_CTRL_MAN_ON n) b) ∧
    (∃ (s : State) (n : _), s.isStake = true ∧ s.takesWrites = true ∧
      (s.on (GS_CH_CTRL_MAN n) = false ∨ s.isUsed n = false)) ∧
    (∃ (s : State) (n : _) (width : _), s.isStake = true ∧ s.takesWrites = true ∧ s.isUsed n = true ∧
      s.on (GS_CH_CTRL_MAN n) = true ∧ width < s.minp) ∧
    (∃ (s : State) (n : _) (width : _), s.isStake = true ∧ s.takesWrites = true ∧ s.isUsed n = true ∧
      s.on (GS_CH_CTRL_MAN n) = true ∧ s.minp ≤ width ∧
      (s.offCause = true ∨ s.on GS_STAT_TEST_BUSY = true ∨ s.get (GS_CH_STAT_PSTATE n) ≠ 1 ∨ s.onAt n (s.symEnd n .on) = true)) ∧
    (∃ (s : State) (n : _) (width : _) (e : _) (u : _), (s.isStake = true ∧ s.takesWrites = true ∧ s.isUsed n = true ∧
      s.on (GS_CH_CTRL_MAN n) = true ∧ s.minp ≤ width ∧ s.offCause = false ∧ s.on GS_STAT_TEST_BUSY = false ∧
      s.get (GS_CH_STAT_PSTATE n) = 1) ∧ e = s.symEnd n .on ∧ s.onAt n e = false ∧ u = s.turnOn n e) ∧
    (∃ (s : State) (n : _), s.isStake = true ∧ (s.chan n).due = []) ∧
    (∃ (s : State) (n : _) (c : _) (y : _) (rest : _) (u : _), (s.isStake = true ∧ (s.chan n).due = (c, y) :: rest) ∧
      u = (s.advance c).setChan n { s.chan n with due := rest, busy := max (s.chan n).busy c } ∧
      (u.isUsed n = false ∨ (y = .on ∧ u.get (GS_CH_STAT_PSTATE n) ≠ 1))) ∧
    (∃ (s : State) (n : _) (c : _) (y : _) (rest : _) (u : _), (s.isStake = true ∧ (s.chan n).due = (c, y) :: rest) ∧
      u = (s.advance c).setChan n { s.chan n with due := rest, busy := max (s.chan n).busy c } ∧ (u.isUsed n = true ∧
      y = .on ∧ u.get (GS_CH_STAT_PSTATE n) = 1 ∧ u.onAt (partner n) c = true)) ∧
    (∃ (s : State) (n : _) (c : _) (y : _) (rest : _) (u : _), (s.isStake = true ∧ (s.chan n).due = (c, y) :: rest) ∧
      u = (s.advance c).setChan n { s.chan n with due := rest, busy := max (s.chan n).busy c } ∧ (u.isUsed n = true ∧
      ((y = .on → u.get (GS_CH_STAT_PSTATE n) = 1 ∧ u.onAt (partner n) c = false)))) :=
  ⟨⟨mgs, 7, 0, by decide +kernel⟩,
   ⟨mgs.put (GS_CH_STAT_PSTATE 0) 1, 1, 0, _, by decide +kernel, rfl⟩,
   ⟨mgs, 4, 3, _, by decide +kernel, rfl⟩,
   ⟨mgs, 3, 0, by decide +kernel⟩,
   ⟨{ stk.put GS_STAT_TEST_BUSY 1 with gs := { testSel := 6 } }, by decide +kernel⟩,
   ⟨stk, by decide +kernel⟩,
   ⟨mgs.put SYS_LOCK_GATE 1, 3, true, by decide +kernel⟩,
   ⟨mgs, 3, true, true, _, by decide +kernel, rfl⟩,
   ⟨mgs, 0, by decide +kernel⟩,
   ⟨(mgs.put (GS_CH_CTRL_MAN 0) 1).putCfg GS_TIMING_MINP 100, 0, 99, by decide +kernel⟩,
   ⟨(mgs.put (GS_CH_CTRL_MAN 0) 1).putCfg GS_TIMING_MINP 100, 0, 0xFFFF, by decide +kernel⟩,
   ⟨{ ((mgs.put (GS_CH_CTRL_MAN 0) 1).putCfg GS_TIMING_MINP 100).put (GS_CH_STAT_PSTATE 0) 1 with sf := { x := { permit := true }, y := { permit := true } } }, 0, 0xFFFF, _, _, by decide +kernel, rfl, by decide +kernel, rfl⟩,
   ⟨stk, 0, by decide +kernel⟩,
   ⟨stk.setChan 0 { due := [(2000, .on)] }, 0, 2000, .on, [], _, by decide +kernel, rfl, by decide +kernel⟩,
   ⟨(stk.setChan 0 { due := [(2000, .on)] }).put (GS_CH_STAT_PSTATE 0) 1 |>.put (GS_CH_STAT_ON 1) 1, 0, 2000, .on, [], _,
     by decide +kernel, rfl, by decide +kernel⟩,
   ⟨stk.setChan 0 { due := [(2000, .off)] }, 0, 2000, .off, [], _, by decide +kernel, rfl, by decide +kernel⟩⟩

/-- The hypotheses of Obligations.SafeInputsComplete, clause by clause, are met together. -/
theorem test_witness_SafeInputsComplete :
    (∃ (s : State) (x : _) (y : _) (a : _) (b : _) (c : _) (u : _) (v : _), s.isDatum = true ∧ u = s.advance c ∧
      (v = ({ u with sf := { u.sf with x := if x = true then u.sf.x.sblk a b u.now else u.sf.x, y := if y = true then u.sf.y.sblk a b u.now else u.sf.y } } : State).mirrorInputs) ∧ (((a || b) && (x || y)) = true ∧ (s.sf.x.sblkA || s.sf.x.sblkB || s.sf.y.sblkA || s.sf.y.sblkB) = false)) ∧
    (∃ (s : State) (x : _) (y : _) (a : _) (b : _) (c : _) (u : _) (v : _), s.isDatum = true ∧ u = s.advance c ∧
      (v = ({ u with sf := { u.sf with x := if x = true then u.sf.x.sblk a b u.now else u.sf.x, y := if y = true then u.sf.y.sblk a b u.now else u.sf.y } } : State).mirrorInputs) ∧ (((a || b) && (x || y)) = true ∧ (s.sf.x.sblkA || s.sf.x.sblkB || s.sf.y.sblkA || s.sf.y.sblkB) = true)) ∧
    (∃ (s : State) (x : _) (y : _) (a : _) (b : _) (c : _) (u : _) (v : _), s.isDatum = true ∧ u = s.advance c ∧
      (v = ({ u with sf := { u.sf with x := if x = true then u.sf.x.sblk a b u.now else u.sf.x, y := if y = true then u.sf.y.sblk a b u.now else u.sf.y } } : State).mirrorInputs) ∧ ((a || b) && (x || y)) = false) ∧
    (∃ (s : State) (a : _) (b : _), s.isDatum = true ∧ (a || b) = true) ∧
    (∃ (s : State) (y : _) (k : _), s.isDatum = true ∧ (s.safeCh y).openAt = some k ∧ (s.safeCh y).jointDone = true) ∧
    (∃ (s : State) (y : _), s.isDatum = true ∧ ((s.safeCh y).openAt = none ∨ (s.safeCh y).jointDone = false)) ∧
    (∃ (s : State) (x : _) (a : _) (b : _) (c : _) (u : _) (v : _), s.isDatum = true ∧ u = s.advance c ∧
      (v = (if x = true then u.srstIn false a b else u))) ∧
    (∃ (s : State), s.isDatum = true ∧ s.sf.x.srstA = false ∧ s.sf.x.srstB = false) ∧
    (∃ (s : State) (srst : _) (y : _) (k : _) (u : _), (s.isDatum = true ∧
      ((if srst = true then (s.safeCh y).discSrstAt else (s.safeCh y).discSblkAt) = some k) ∧
      ((if srst = true then (s.safeCh y).discSrst else (s.safeCh y).discSblk) = false)) ∧
      u = (((s.advance (k + (s.safeCh y).disc + 1)).setSafeCh y ((s.safeCh y).discrepant srst)).mirrorInputs).put SF_CAUSE_DISC 1) ∧
    (∃ (s : State) (srst : _) (y : _), s.isDatum = true ∧
      ((if srst = true then (s.safeCh y).discSrstAt else (s.safeCh y).discSblkAt) = none ∨ (if srst = true then (s.safeCh y).discSrst else (s.safeCh y).discSblk) = true)) ∧
    (∃ (s : State) (u : _) (rx : _) (ry : _) (v : _) (w : _), (s.isDatum = true ∧
      (s.sf.x.resetDue || s.sf.y.resetDue) = true) ∧ u = s.advance (max s.sf.x.resetAt s.sf.y.resetAt) ∧
      rx = u.resetResult false ∧ ry = u.resetResult true ∧
      (v = (({ u with sf := { u.sf with x := u.sf.x.resetTaken rx, y := u.sf.y.resetTaken ry } } : State).mirrorSafe).rstInfo ((rx.or ry).getD 0) (if rx.isSome = true then s.sf.x.pressMs else s.sf.y.pressMs)) ∧ (w = (if rx = some 1 ∨ ry = some 1 then ((v.count SF_RESETS).put FC_STAT_BLOCK_ACT 0).put FC_FIRST_VALID 0 else v))) ∧
    (∃ (s : State) (y : _) (c : _), s.isDatum = true ∧ c = s.safeCh y) ∧
    (∃ (s : State), s.isDatum = true ∧ (s.sf.x.resetDue || s.sf.y.resetDue) = false) ∧
    (∃ (s : State) (y : _) (k : _) (u : _), (s.isDatum = true ∧ (s.safeCh y).pressedAt = some k ∧
      (s.safeCh y).stuck = false) ∧
      u = ((s.advance (k + 2500000001)).setSafeCh y { s.safeCh y with stuck := true, pressOk := false }).mirrorInputs) ∧
    (∃ (s : State) (y : _), s.isDatum = true ∧ ((s.safeCh y).pressedAt = none ∨ (s.safeCh y).stuck = true)) ∧
    (∃ (s : State) (y : _), s.isDatum = true ∧ (s.safeCh y).srstA = false ∧ (s.safeCh y).srstB = false ∧
      (s.safeCh y).stuck = true) ∧
    (∃ (s : State) (y : _), s.isDatum = true ∧
      ((s.safeCh y).srstA = true ∨ (s.safeCh y).srstB = true ∨ (s.safeCh y).stuck = false)) :=
  ⟨⟨dat, true, true, true, false, 1000, _, _, by decide +kernel, rfl, rfl, by decide +kernel⟩,
   ⟨{ dat with sf := { x := { sblkA := true } } }, false, true, true, false, 1000, _, _, by decide +kernel, rfl, rfl,
     by decide +kernel⟩,
   ⟨dat, true, true, false, false, 1000, _, _, by decide +kernel, rfl, rfl, by decide +kernel⟩,
   ⟨dat, false, true, by decide +kernel⟩,
   ⟨{ dat with sf := { y := { openAt := some 900, jointDone := true } } }, true, 900, by decide +kernel⟩,
   ⟨dat, false, by decide +kernel⟩,
   ⟨dat, true, true, true, 5, _, _, by decide +kernel, rfl, rfl⟩,
   ⟨dat, by decide +kernel⟩,
   ⟨{ dat with sf := { y := { discSrstAt := some 900 } } }, true, true, 900, _, by decide +kernel, rfl⟩,
   ⟨dat, false, false, by decide +kernel⟩,
   ⟨resettable, _, _, _, _, _, by decide +kernel, rfl, rfl, rfl, rfl, rfl⟩,
   ⟨resettable, true, _, by decide +kernel, rfl⟩,
   ⟨dat, by decide +kernel⟩,
   ⟨{ dat with sf := { y := { srstB := true, pressB := some 900 } } }, true, 900, _, by decide +kernel, rfl⟩,
   ⟨dat, true, by decide +kernel⟩,
   ⟨{ dat with sf := { x := { stuck := true, relA := some 800, relB := some 900 } } }, false, by decide +kernel⟩,
   ⟨dat, false, by decide +kernel⟩⟩

/-- The hypotheses of Obligations.CrossLinkAndLockComplete, clause by clause, are met together. -/
theorem test_witness_CrossLinkAndLockComplete :
    (∃ (s : State) (agree : _) (u : _) (v : _), (s.running = true ∧ agree = decide (s.sf.x.permit = s.sf.y.permit)) ∧
      u = ({ s with sf := { s.sf with beatLost := false, diff := s.sf.diff && !agree } } : State).levelOff 177 ∧
      (v = (if s.role = .datum then u.put SF_STAT_XLINK_OK 1 else u))) ∧
    (∃ (s : State), s.running = true ∧ s.role = .datum) ∧
    (∃ (s : State), s.running = true ∧ s.role = .stake) ∧
    (∃ (s : State), s.running = true ∧ s.sf.x.permit ≠ s.sf.y.permit) ∧
    (∃ (s : State), s.running = true ∧ s.sf.x.permit = s.sf.y.permit) ∧
    (∃ (s : State) (agree : _) (z : _) (u : _) (v : _), (s.running = true ∧ s.takesWrites = true ∧
      s.on SYS_LOCK_SAFE = false) ∧ (z = (if agree = true then s else s.used.used.used.used)) ∧
      (u = ({ z with sf := { z.sf with x := { z.sf.x with copy := some s.sfCfgNow }, y := { z.sf.y with copy := some (if agree = true then s.sfCfgNow else s.freeCopy) } } } : State).put SYS_LOCK_SAFE 1) ∧ (v = (if s.role = .datum then (u.put SF_STAT_CFG_LOCKED 1).put SF_STAT_CFG_MATCH agree.toNat else u))) ∧
    (∃ (s : State), s.running = true ∧ s.takesWrites = true ∧ s.on SYS_LOCK_SAFE = true) ∧
    (∃ (s : State), s.running = true) ∧
    (∃ (s : State), s.running = true ∧ s.role = .stake ∧ s.sf.y.permit = false ∧ s.cell ≠ .off) ∧
    (∃ (s : State), s.running = true ∧ s.role = .stake ∧ (s.sf.y.permit = true ∨ s.cell = .off)) ∧
    (∃ (s : State) (u : _), (s.running = true ∧ s.role = .stake ∧ (s.sf.x.permitLost || s.sf.y.permitLost) = true) ∧
      u = ({ s with sf := { s.sf with x := { s.sf.x with plDone := s.sf.x.plDone || s.sf.x.permitLost }, y := { s.sf.y with plDone := s.sf.y.plDone || s.sf.y.permitLost } } } : State)) ∧
    (∃ (s : State), s.running = true ∧ (s.sf.x.permitLost || s.sf.y.permitLost) = false) :=
  ⟨⟨dat, true, _, _, by decide +kernel, rfl, rfl⟩,
   ⟨dat, by decide +kernel⟩,
   ⟨stk, by decide +kernel⟩,
   ⟨{ dat with sf := { x := { permit := true } } }, by decide +kernel⟩,
   ⟨stk, by decide +kernel⟩,
   ⟨mgd, false, _, _, _, by decide +kernel, rfl, rfl, rfl⟩,
   ⟨mgs.put SYS_LOCK_SAFE 1, by decide +kernel⟩,
   ⟨stk, by decide +kernel⟩,
   ⟨stk.put GS_STAT_CELL 2, by decide +kernel⟩,
   ⟨stk, by decide +kernel⟩,
   ⟨{ stk with sf := { y := { plCnt := 3 } } }, _, by decide +kernel, rfl⟩,
   ⟨stk, by decide +kernel⟩⟩

/-- The hypotheses of Obligations.FaultAndFieldBookComplete, clause by clause, are met together. -/
theorem test_witness_FaultAndFieldBookComplete :
    (∃ (s : State) (n : _) (t : _), (s.running = true ∧ n < 8) ∧
      t = ({ s with fc := { s.fc with inputs := s.fc.inputs.filter (· ≠ n) ++ [n] } } : State)) ∧
    (∃ (s : State) (n : _) (t : _), (s.running = true ∧ n < 8) ∧
      t = ({ s with fc := { s.fc with inputs := s.fc.inputs.filter (· ≠ n) } } : State)) ∧
    (∃ (s : State) (n : _), s.running = true ∧ 8 ≤ n) ∧
    (∃ (s : State) (r : _) (v : _) (rises : _) (falls : _), (s.running = true ∧ s.takesWrites = true ∧ r < 8 ∧
      v < 2 ^ 32) ∧ rises = (List.range 32).filter (fun b => bitOf v b && !bitOf (s.get (FC_FORCE_SRC r)) b) ∧
      falls = (List.range 32).filter (fun b => !bitOf v b && bitOf (s.get (FC_FORCE_SRC r)) b) ∧
      (rises.any fun b => decide (s.classOf (32 * r + b) = 4)) = true) ∧
    (∃ (s : State) (r : _) (v : _) (rises : _) (falls : _), (s.running = true ∧ s.takesWrites = true ∧ r < 8 ∧
      v < 2 ^ 32) ∧ rises = (List.range 32).filter (fun b => bitOf v b && !bitOf (s.get (FC_FORCE_SRC r)) b) ∧
      falls = (List.range 32).filter (fun b => !bitOf v b && bitOf (s.get (FC_FORCE_SRC r)) b) ∧
      (rises.any fun b => decide (s.classOf (32 * r + b) = 4)) = false) ∧
    (∃ (s : State) (r : _), s.running = true ∧ s.takesWrites = true ∧ 8 ≤ r) ∧
    (∃ (s : State) (v : _), s.running = true ∧ s.takesWrites = true ∧ v % 65536 = 0x5AA5 ∧ s.fc.feedArmed = true) ∧
    (∃ (s : State) (v : _), s.running = true ∧ s.takesWrites = true ∧ v % 65536 = 0xA55A ∧ s.fc.feedArmed = false) ∧
    (∃ (s : State) (v : _), s.running = true ∧ s.takesWrites = true ∧ ((s.fc.feedArmed = true ∧
      v % 65536 ≠ 0x5AA5) ∨ (s.fc.feedArmed = false ∧ v % 65536 ≠ 0xA55A))) ∧
    (∃ (s : State) (r : _) (u : _), s.running = true ∧ r = s.endCycle.copyTails s.endCycle.fb.queue ∧
      u = ({ r.1 with fb := { r.1.fb with queue := r.2 } } : State)) ∧
    (∃ (s : State) (e : _) (rest : _), s.running = true ∧ s.fb.cycle = [] ∧ s.fb.queue = e :: rest ∧ e.rcd.tail = false ∧
      ((∀ x : FbEnt, x ∈ rest → x.rcd.tail = false)) ∧ s.on FB_STAT_FROZEN = false ∧ s.fb.lost = 0) ∧
    (∃ (s : State), s.running = true ∧ s.takesWrites = true) ∧
    (∃ (s : State), s.running = true ∧ s.on FB_CTRL_FREEZE = true) ∧
    (∃ (s : State), s.running = true ∧ s.on FB_CTRL_FREEZE = false) ∧
    (∃ (s : State), s.running = true ∧ s.takesWrites = true ∧ s.on SYS_LOCK_FB = false) ∧
    (∃ (s : State), s.running = true ∧ s.takesWrites = true ∧ s.on SYS_LOCK_FB = true) ∧
    (∃ (s : State), s.running = true ∧ s.fc.alive = false ∧ s.aliveCause = false) ∧
    (∃ (s : State), s.running = true ∧ s.fc.alive = true ∧ s.aliveCause = false) ∧
    (∃ (s : State), s.running = true ∧ s.fc.alive = true ∧ s.aliveCause = true) ∧
    (∃ (s : State), s.running = true ∧ s.fc.alive = false ∧ s.aliveCause = true) :=
  ⟨⟨dat, 7, _, by decide +kernel, rfl⟩,
   ⟨stk, 0, _, by decide +kernel, rfl⟩,
   ⟨stk, 8, by decide +kernel⟩,
   ⟨(mgd.put (FC_SRC_CLASS 5) 4), 0, 32, _, _, by decide +kernel, rfl, rfl, by decide +kernel⟩,
   ⟨{ mgd with fc := { level := [0] } }, 7, 1, _, _, by decide +kernel, rfl, rfl, by decide +kernel⟩,
   ⟨mgd, 8, by decide +kernel⟩,
   ⟨{ mgs with fc := { feedArmed := true } }, 0x5AA5, by decide +kernel⟩,
   ⟨mgd, 0x1A55A, by decide +kernel⟩,
   ⟨mgd, 0, by decide +kernel⟩,
   ⟨stk, _, _, by decide +kernel, rfl, rfl⟩,
   ⟨{ stk with fb := { queue := [{ rcd := { time := 5, src := 97 } }] } }, { rcd := { time := 5, src := 97 } }, [],
     by decide +kernel⟩,
   ⟨mgd, by decide +kernel⟩,
   ⟨dat.put FB_CTRL_FREEZE 1, by decide +kernel⟩,
   ⟨dat, by decide +kernel⟩,
   ⟨mgs, by decide +kernel⟩,
   ⟨mgs.put SYS_LOCK_FB 1, by decide +kernel⟩,
   ⟨dat, by decide +kernel⟩,
   ⟨{ stk with fc := { alive := true } }, by decide +kernel⟩,
   ⟨{ stk.put FC_STAT_TERMINAL 1 with fc := { alive := true } }, by decide +kernel⟩,
   ⟨stk.put FC_STAT_TERMINAL 1, by decide +kernel⟩⟩

/-- The hypotheses of Obligations.ConverterPassesComplete, clause by clause, are met together. -/
theorem test_witness_ConverterPassesComplete :
    (∃ (s : State) (n : _) (c : _), s.running = true ∧ n < 4 ∧ s.gridOn n = true ∧ s.gridDue n c = true) ∧
    (∃ (s : State) (n : _) (c : _), s.running = true ∧ (4 ≤ n ∨ s.gridOn n = false ∨ s.gridDue n c = false)) ∧
    (∃ (s : State) (n : _), s.running = true ∧ s.takesWrites = true ∧ n < 4) ∧
    (∃ (s : State) (n : _), s.running = true ∧ s.takesWrites = true ∧ n < 4 ∧ s.mirrored (n / 2) = false ∧
      s.calBusy n = false ∧ s.passBusy n = false ∧ s.get (AD_PAIR_STAT_ROT (n / 2)) = 0) ∧
    (∃ (s : State) (n : _), s.running = true ∧ s.takesWrites = true ∧ 4 ≤ n) ∧
    (∃ (s : State) (n : _) (u : _), (s.running = true ∧ n < 4 ∧ s.passBusy n = true) ∧ u = s.advance (s.passOver n)) ∧
    (∃ (s : State) (n : _) (u : _), (s.running = true ∧ n < 4 ∧ s.passBusy n = true ∧ s.role = .stake ∧
      (s.conv n).mir = false) ∧ u = s.advance (s.passOver n)) ∧
    (∃ (s : State) (n : _), s.running = true ∧ (4 ≤ n ∨ s.passBusy n = false)) ∧
    (∃ (s : State) (n : _) (u : _) (v : _) (w : _), (s.running = true ∧ s.tevReady n = true) ∧
      u = s.advance (s.tevDue n) ∧
      v = ((u.setTev n { s.tevSt n with fires := (s.tevSt n).fires + 1, pulse := true, fired := true, made := (s.tevSt n).made || s.cfgOn (TEV_CTRL_MODE n), firedAt := u.now, endAt := u.now + s.cfg (TEV_WID_VAL n) }).put (TEV_STAT_FIRED n) 1).tout n true ∧ w = ((List.range 4).filter (bitOf (s.cfg (TEV_CTRL_ADCSTART n)))).foldl (fun t c => t.adTrigger c false) v) ∧
    (∃ (s : State) (n : _), s.running = true ∧ s.tevReady n = false) ∧
    (∃ (s : State) (n : _), s.running = true ∧ (s.tevSt n).pulse = true) ∧
    (∃ (s : State) (n : _), s.running = true ∧ (s.tevSt n).pulse = false) ∧
    (∃ (s : State) (x : _) (cs : _) (u : _), (s.running = true ∧ s.role = .stake ∧ s.cellOpen = some (x, cs)) ∧
      u = cs.foldl State.cellTaken (s.advance ((x.hold + 203) / 4))) ∧
    (∃ (s : State), s.running = true ∧ s.cellOpen = none) :=
  ⟨⟨idle.putCfg (AD_SEQ_CFG_GRID_EN 2) 1, 2, 1000, by decide +kernel⟩,
   ⟨idle, 3, 1000, by decide +kernel⟩,
   ⟨idle, 3, by decide +kernel⟩,
   ⟨idle.putCfg (AD_PAIR_CFG_MIRROR 1) 0, 3, by decide +kernel⟩,
   ⟨idle, 4, by decide +kernel⟩,
   ⟨(stk.put (AD_SEQ_STAT_BUSY 2) 1).setConv 2 { table := [(2, 0, 0, 0)] }, 2, _, by decide +kernel, rfl⟩,
   ⟨(stk.put (AD_SEQ_STAT_BUSY 2) 1).setConv 2 { table := [(2, 0, 0, 0)] }, 2, _, by decide +kernel, rfl⟩,
   ⟨idle, 3, by decide +kernel⟩,
   ⟨{ stk.putCfg (TEV_CTRL_EN 3) 1 with tb := { timeRuns := true } }, 3, _, _, _, by decide +kernel, rfl, rfl, rfl⟩,
   ⟨stk, 3, by decide +kernel⟩,
   ⟨(stk.putCfg (TEV_CTRL_OUT_EN 0) 1).setTev 0 { pulse := true }, 0, by decide +kernel⟩,
   ⟨stk, 0, by decide +kernel⟩,
   ⟨stk.setConv 0 { cells := [{ startAt := 1000, hold := 4000, diff := 0, mir := false, j0 := none }] },
     { startAt := 1000, hold := 4000, diff := 0, mir := false, j0 := none }, [0], _, by decide +kernel, rfl⟩,
   ⟨stk, by decide +kernel⟩⟩

/-- The hypotheses of Obligations.ConverterCareComplete, clause by clause, are met together. -/
theorem test_witness_ConverterCareComplete :
    (∃ (s : State) (m : _), s.running = true ∧ m < 2) ∧
    (∃ (s : State) (m : _), s.running = true ∧ 2 ≤ m) ∧
    (∃ (s : State) (n : _) (inp : _) (diff : Bool) (pre : Bool) (u : _), (s.running = true ∧ s.takesWrites = true ∧
      n < 4) ∧ u = ((s.put (AD_INJ_IN n) inp).putB (AD_INJ_DIFF n) diff).setShadow (AD_INJ_PREEMPT n) pre.toNat) ∧
    (∃ (s : State) (n : _), s.running = true ∧ s.takesWrites = true ∧ 4 ≤ n) ∧
    (∃ (s : State) (n : _), s.running = true ∧ s.takesWrites = true ∧ n < 4 ∧ s.mirrored (n / 2) = false ∧
      s.calBusy n = false ∧ s.passBusy n = false ∧ (s.conv n).inj = none) ∧
    (∃ (s : State) (n : _) (inp : _) (diff : _) (u : _), (s.running = true ∧ (s.conv n).inj = some (inp, diff)) ∧
      u = s.advance ((s.conv n).injAt + 50)) ∧
    (∃ (s : State) (n : _), s.running = true ∧ (s.conv n).inj = none) ∧
    (∃ (s : State) (mask : _) (l : _), (s.running = true ∧ s.takesWrites = true) ∧
      l = (List.range 4).filter (bitOf mask) ∧ ((∀ n : Nat,
      n ∈ l → s.get (AD_PAIR_STAT_ROT (n / 2)) = 0 ∨ s.carrier (n / 2) ≠ n))) ∧
    (∃ (s : State) (mask : _) (n : _), s.running = true ∧ s.takesWrites = true ∧ n < 4 ∧ bitOf mask n = true ∧
      s.get (AD_PAIR_STAT_ROT (n / 2)) ≠ 0 ∧ s.carrier (n / 2) = n) ∧
    (∃ (s : State) (n : _) (gain : _) (ofs : _), s.running = true ∧ n < 4 ∧ s.calBusy n = true ∧ calOk gain ofs = true) ∧
    (∃ (s : State) (n : _) (gain : _) (ofs : _), s.running = true ∧ n < 4 ∧ s.calBusy n = true ∧ calOk gain ofs = false) ∧
    (∃ (s : State) (n : _), s.running = true ∧ (4 ≤ n ∨ s.calBusy n = false)) ∧
    (∃ (s : State) (mask : _) (l : _), (s.running = true ∧ s.takesWrites = true) ∧
      l = (List.range 2).filter (bitOf mask) ∧ ((∀ m : Nat, m ∈ l → s.mirrored m = true ∧ s.calBusy (2 * m) = false ∧
      s.calBusy (2 * m + 1) = false ∧ s.get (AD_PAIR_STAT_ROT m) = 0))) ∧
    (∃ (s : State) (mask : _) (m : _), s.running = true ∧ s.takesWrites = true ∧ m < 2 ∧ bitOf mask m = true ∧
      (s.mirrored m = false ∨ s.calBusy (2 * m) = true ∨ s.calBusy (2 * m + 1) = true ∨ s.get (AD_PAIR_STAT_ROT m) ≠ 0)) ∧
    (∃ (s : State) (m : _), s.running = true ∧ m < 2 ∧
      (s.get (AD_PAIR_STAT_ROT m) = 2 ∨ s.get (AD_PAIR_STAT_ROT m) = 4) ∧ (s.adPair m).rotRun < 16) ∧
    (∃ (s : State) (m : _), s.running = true ∧ (2 ≤ m ∨ 16 ≤ (s.adPair m).rotRun ∨ s.get (AD_PAIR_STAT_ROT m) = 0)) :=
  ⟨⟨stk.setAdPair 1 { limits := [true] }, 1, by decide +kernel⟩,
   ⟨stk, 2, by decide +kernel⟩,
   ⟨idle, 3, 15, false, true, _, by decide +kernel, rfl⟩,
   ⟨idle, 4, by decide +kernel⟩,
   ⟨idle.putCfg (AD_PAIR_CFG_MIRROR 1) 0, 3, by decide +kernel⟩,
   ⟨dat.setConv 3 { inj := some (4, 1) }, 3, 4, 1, _, by decide +kernel, rfl⟩,
   ⟨dat, 3, by decide +kernel⟩,
   ⟨idle, 8, _, by decide +kernel, rfl, by decide +kernel⟩,
   ⟨idle.put (AD_PAIR_STAT_ROT 1) 2, 4, 2, by decide +kernel⟩,
   ⟨dat, 3, 0x23333, 0xFC00, by decide +kernel⟩,
   ⟨dat, 3, 0x23334, 0, by decide +kernel⟩,
   ⟨idle, 3, by decide +kernel⟩,
   ⟨idle, 3, _, by decide +kernel, rfl, by decide +kernel⟩,
   ⟨mgd, 1, 0, by decide +kernel⟩,
   ⟨dat.put (AD_PAIR_STAT_ROT 1) 2, 1, by decide +kernel⟩,
   ⟨dat, 1, by decide +kernel⟩⟩

/-- The hypotheses of Obligations.AuxiliarySupplyComplete, clause by clause, are met together. -/
theorem test_witness_AuxiliarySupplyComplete :
    (∃ (s : State), s.isStake = true ∧ s.on AUX_STAT_RUN = true ∧ s.on AUX_STAT_ON = false ∧ s.cfgOn AUX_CTRL_MODE = true) ∧
    (∃ (s : State), s.isStake = true ∧ s.on AUX_STAT_RUN = true ∧ s.on AUX_STAT_ON = false ∧
      s.cfgOn AUX_CTRL_MODE = false ∧ s.cfgOn AUX_CTRL_SYNC_EN = false ∧ s.on AUX_STAT_DEM = true) ∧
    (∃ (s : State), s.isStake = true ∧ (s.on AUX_STAT_ON = true ∨ (s.cfgOn AUX_CTRL_MODE = false ∧
      (s.cfgOn AUX_CTRL_SYNC_EN = true ∨ s.on AUX_STAT_DEM = false)))) ∧
    (∃ (s : State) (u : _), (s.isStake = true ∧ s.on AUX_STAT_RUN = true ∧ s.on AUX_STAT_ON = true) ∧
      u = s.advance s.auxEnd) ∧
    (∃ (s : State), s.isStake = true ∧ s.on AUX_STAT_ON = false) ∧
    (∃ (s : State), s.isStake = true ∧ s.on AUX_STAT_ON = true) ∧
    (∃ (s : State), s.isStake = true) ∧
    (∃ (s : State), s.isStake = true ∧ s.cfg AUX_FILT_FLTLIM ≤ s.aux.cutRun ∧ s.aux.raised = false) ∧
    (∃ (s : State), s.isStake = true ∧ (s.aux.cutRun < s.cfg AUX_FILT_FLTLIM ∨ s.aux.raised = true)) ∧
    (∃ (s : State) (c : _) (u : _), (s.isStake = true ∧ s.on AUX_STAT_RUN = true ∧ s.cfgOn AUX_CTRL_MODE = true) ∧
      u = s.advance c) ∧
    (∃ (s : State), s.isStake = true ∧ s.on AUX_STAT_RUN = true ∧ s.cfgOn AUX_CTRL_MODE = false ∧
      s.cfgOn AUX_CTRL_SYNC_SRC = true) ∧
    (∃ (s : State) (c : _) (u : _), (s.isStake = true ∧ s.on AUX_STAT_RUN = true ∧ s.cfgOn AUX_CTRL_SYNC_SRC = false ∧
      s.cfgOn AUX_CTRL_MODE = false) ∧ u = s.advance c ∧
      (s.on AUX_STAT_SYNC_LOCK = false ∨ 8 * ((u.now - (s.aux.lastEdge + s.cfg AUX_SYNC_PER)) + ((s.aux.lastEdge + s.cfg AUX_SYNC_PER) - u.now)) ≤ s.cfg AUX_SYNC_PER)) ∧
    (∃ (s : State) (c : _) (u : _), (s.isStake = true ∧ s.on AUX_STAT_RUN = true ∧ s.cfgOn AUX_CTRL_SYNC_SRC = false ∧
      s.cfgOn AUX_CTRL_MODE = false) ∧ u = s.advance c ∧ (s.on AUX_STAT_SYNC_LOCK = true ∧
      s.cfg AUX_SYNC_PER < 8 * ((u.now - (s.aux.lastEdge + s.cfg AUX_SYNC_PER)) + ((s.aux.lastEdge + s.cfg AUX_SYNC_PER) - u.now)))) ∧
    (∃ (s : State) (t : _) (rest : _) (u : _), (s.isStake = true ∧ s.on AUX_STAT_RUN = true ∧ s.aux.syncs = t :: rest) ∧
      u = s.advance t) ∧
    (∃ (s : State), s.isStake = true ∧ s.aux.syncs = []) ∧
    (∃ (s : State) (u : _), (s.isStake = true ∧ s.on AUX_STAT_RUN = true ∧ s.cfgOn AUX_CTRL_MODE = false ∧
      s.cfgOn AUX_CTRL_SYNC_SRC = false ∧ s.aux.lost = false) ∧ u = s.advance (s.aux.lastEdge + 2 * s.cfg AUX_SYNC_PER)) ∧
    (∃ (s : State), s.isStake = true ∧
      (s.cfgOn AUX_CTRL_MODE = true ∨ s.cfgOn AUX_CTRL_SYNC_SRC = true ∨ s.aux.lost = true)) ∧
    (∃ (s : State), s.isStake = true ∧ s.on AUX_STAT_RUN = false) :=
  ⟨⟨(stk.put AUX_STAT_RUN 1).putCfg AUX_CTRL_MODE 1, by decide +kernel⟩,
   ⟨(stk.put AUX_STAT_RUN 1).put AUX_STAT_DEM 1, by decide +kernel⟩,
   ⟨stk, by decide +kernel⟩,
   ⟨(stk.put AUX_STAT_RUN 1).put AUX_STAT_ON 1, _, by decide +kernel, rfl⟩,
   ⟨stk, by decide +kernel⟩,
   ⟨stk.put AUX_STAT_ON 1, by decide +kernel⟩,
   ⟨stk, by decide +kernel⟩,
   ⟨{ stk with aux := { cutRun := 255 } }, by decide +kernel⟩,
   ⟨{ stk with aux := { raised := true } }, by decide +kernel⟩,
   ⟨(stk.put AUX_STAT_RUN 1).putCfg AUX_CTRL_MODE 1, 5, _, by decide +kernel, rfl⟩,
   ⟨(stk.put AUX_STAT_RUN 1).putCfg AUX_CTRL_SYNC_SRC 1, by decide +kernel⟩,
   ⟨stk.put AUX_STAT_RUN 1, 5, _, by decide +kernel, rfl, by decide +kernel⟩,
   ⟨(stk.put AUX_STAT_RUN 1).put AUX_STAT_SYNC_LOCK 1, 100000, _, by decide +kernel, rfl, by decide +kernel⟩,
   ⟨{ stk.put AUX_STAT_RUN 1 with aux := { syncs := [2000] } }, 2000, [], _, by decide +kernel, rfl⟩,
   ⟨stk, by decide +kernel⟩,
   ⟨stk.put AUX_STAT_RUN 1, _, by decide +kernel, rfl⟩,
   ⟨stk.putCfg AUX_CTRL_MODE 1, by decide +kernel⟩,
   ⟨stk, by decide +kernel⟩⟩

/-- The hypotheses of Obligations.SchedulerCommandsComplete, clause by clause, are met together. -/
theorem test_witness_SchedulerCommandsComplete :
    (∃ (s : State), s.isDatum = true ∧ s.takesWrites = true) ∧
    (∃ (s : State) (n : _), s.isDatum = true ∧ s.laneBusy n = true) ∧
    (∃ (s : State), s.isDatum = true ∧ s.cfgOn SCH_CTRL_EN = true) ∧
    (∃ (s : State) (i : _) (n : _) (u : _), (s.isDatum = true ∧ s.cfgOn SCH_CTRL_EN = true ∧ s.queue 0 = [i] ∧
      s.mayStart i = true ∧ s.freeLanes i = [n]) ∧ u = ((s.used.setQueue 0 []).startOn i n).showSlot i 4 ∧ ((∀ q : Nat,
      q ∈ [1, 2, 3, 4, 5, 6, 7] → u.queue q = []))) ∧
    (∃ (s : State), s.isDatum = true ∧ s.cfgOn SCH_CTRL_EN = false) ∧
    (∃ (s : State) (i : _), s.isDatum = true ∧
      ((List.range 128).find? fun i => s.instOf i = 2 && (s.queue (s.prio i)).length < s.cfg (SCH_QDEPTH_DEPTH (s.prio i))) = some i) ∧
    (∃ (s : State), s.isDatum = true ∧ ((∀ i : Nat,
      i ∈ List.range 128 → s.instOf i = 2 → s.cfg (SCH_QDEPTH_DEPTH (s.prio i)) ≤ (s.queue (s.prio i)).length))) ∧
    (∃ (s : State) (n : _) (i : _) (u : _) (v : _), (s.isDatum = true ∧ s.laneBusy n = true) ∧
      i = s.get (LE_LANE_STAT_SLOT n) ∧
      (u = (if s.releaseLate = true then ({ s with sch := { s.sch with lateOut := s.sch.lateOut ++ (s.lane n).staged } } : State) else s.releaseAll (s.lane n).staged).used) ∧ v = (((u.put (SCH_SLOT_STAT_DONE_TICK i) 1).freeLane n).clearPending i).showSlot i 0) ∧
    (∃ (s : State) (i : _) (ready : Bool) (u : _), (s.isDatum = true ∧ i < 128) ∧
      u = (match s.queueOf i with | some q => s.setQueue q ((s.queue q).filter (· ≠ i)) | none => s) ∧ (s.instOf i = 0 ∧
      ready = false)) ∧
    (∃ (s : State) (i : _) (ready : Bool) (u : _), (s.isDatum = true ∧ i < 128) ∧
      u = (match s.queueOf i with | some q => s.setQueue q ((s.queue q).filter (· ≠ i)) | none => s) ∧ (s.instOf i = 0 ∧
      ready = true)) ∧
    (∃ (s : State) (i : _) (u : _), (s.isDatum = true ∧ i < 128) ∧
      u = (match s.queueOf i with | some q => s.setQueue q ((s.queue q).filter (· ≠ i)) | none => s) ∧
      (s.instOf i = 2 ∨ s.instOf i = 3)) ∧
    (∃ (s : State) (i : _) (u : _), (s.isDatum = true ∧ i < 128) ∧
      u = (match s.queueOf i with | some q => s.setQueue q ((s.queue q).filter (· ≠ i)) | none => s) ∧ (s.instOf i = 4 ∧
      s.slotPending i = false)) ∧
    (∃ (s : State) (i : _) (u : _), (s.isDatum = true ∧ i < 128) ∧
      u = (match s.queueOf i with | some q => s.setQueue q ((s.queue q).filter (· ≠ i)) | none => s) ∧ (s.instOf i = 4 ∧
      s.slotPending i = true)) ∧
    (∃ (s : State), s.isDatum = true ∧ s.cfg LE_OVR_CFG_LIM ≤ s.get LE_STAT_OVR_RUN ∧ s.sch.ovrRaised = false) ∧
    (∃ (s : State), s.isDatum = true ∧ (s.get LE_STAT_OVR_RUN < s.cfg LE_OVR_CFG_LIM ∨ s.sch.ovrRaised = true)) ∧
    (∃ (s : State) (n : _), s.isDatum = true ∧ s.laneBusy n = false) :=
  ⟨⟨mgd, by decide +kernel⟩,
   ⟨dat.put (LE_LANE_STAT_BUSY 15) 1, 15, by decide +kernel⟩,
   ⟨dat.putCfg SCH_CTRL_EN 1, by decide +kernel⟩,
   ⟨((dat.putCfg SCH_CTRL_EN 1).putCfg (SCH_SLOT_CFG_LANEMASK 9) 2).setQueue 0 [9], 9, 1, _, by decide +kernel, rfl,
     by decide +kernel⟩,
   ⟨dat, by decide +kernel⟩,
   ⟨dat.put (SCH_SLOT_STAT_STATE 127) 2, 127, by decide +kernel⟩,
   ⟨dat, by decide +kernel⟩,
   ⟨dat.put (LE_LANE_STAT_BUSY 3) 1, 3, _, _, _, by decide +kernel, rfl, rfl, rfl⟩,
   ⟨dat, 5, false, _, by decide +kernel, rfl, by decide +kernel⟩,
   ⟨dat, 127, true, _, by decide +kernel, rfl, by decide +kernel⟩,
   ⟨dat.put (SCH_SLOT_STAT_STATE 127) 2, 127, _, by decide +kernel, rfl, by decide +kernel⟩,
   ⟨dat.put (LE_LANE_STAT_BUSY 3) 1, 0, _, by decide +kernel, rfl, by decide +kernel⟩,
   ⟨{ dat.put (LE_LANE_STAT_BUSY 3) 1 with sch := { pending := [0] } }, 0, _, by decide +kernel, rfl, by decide +kernel⟩,
   ⟨dat.put LE_STAT_OVR_RUN 255, by decide +kernel⟩,
   ⟨dat, by decide +kernel⟩,
   ⟨dat, 16, by decide +kernel⟩⟩

/-- The hypotheses of Obligations.LoopEngineCommandsComplete, clause by clause, are met together. -/
theorem test_witness_LoopEngineCommandsComplete :
    (∃ (s : State) (n : _) (addr : _), s.isDatum = true ∧ s.laneBusy n = true ∧ (windowOf addr).isSome = true ∧
      (s.lane n).staged.length < 64) ∧
    (∃ (s : State) (n : _) (addr : _), s.isDatum = true ∧ s.laneBusy n = true ∧ (windowOf addr).isSome = true ∧
      64 ≤ (s.lane n).staged.length) ∧
    (∃ (s : State) (n : _) (addr : _), s.isDatum = true ∧ s.laneBusy n = true ∧ windowOf addr = none) ∧
    (∃ (s : State) (n : _) (k : _), s.isDatum = true ∧ s.laneBusy n = true ∧ 1 ≤ k ∧ k ≤ 4) ∧
    (∃ (s : State) (n : _) (u : _), (s.isDatum = true ∧ s.laneBusy n = true) ∧
      u = (s.put (LE_LANE_STAT_NAN n) 1).count NAN_CNT) ∧
    (∃ (s : State), s.isDatum = true) ∧
    (∃ (s : State) (n : _), s.isDatum = true ∧ s.laneBusy n = true) ∧
    (∃ (s : State) (k : _), s.isDatum = true ∧ (k = 2 ∨ k = 3)) ∧
    (∃ (s : State) (n : _), s.isDatum = true ∧ s.laneBusy n = false) ∧
    (∃ (s : State), s.isDatum = true ∧ s.takesWrites = true ∧ s.on LE_BANK_IDLE_OK = false) ∧
    (∃ (s : State) (d : _), (s.isDatum = true ∧ s.takesWrites = true) ∧
      d = (s.get LE_SWAP_TICK_TICK + 2 ^ 32 - s.tb.tick % 2 ^ 32) % 2 ^ 32 ∧ (s.on LE_BANK_IDLE_OK = true ∧
      (d < 2 ∨ 2 ^ 31 ≤ d))) ∧
    (∃ (s : State) (d : _), (s.isDatum = true ∧ s.takesWrites = true) ∧
      d = (s.get LE_SWAP_TICK_TICK + 2 ^ 32 - s.tb.tick % 2 ^ 32) % 2 ^ 32 ∧ (s.on LE_BANK_IDLE_OK = true ∧ 2 ≤ d ∧
      d < 2 ^ 31)) ∧
    (∃ (s : State), s.isDatum = true ∧ s.takesWrites = true ∧ s.on LE_BANK_SWAP_PEND = true) ∧
    (∃ (s : State), s.isDatum = true ∧ s.takesWrites = true ∧ s.on LE_BANK_SWAP_PEND = false) ∧
    (∃ (s : State) (u : _), (s.isDatum = true ∧ s.on LE_BANK_SWAP_PEND = true ∧ s.on TB_STAT_TICK_RUN = true ∧
      s.tb.tick % 2 ^ 32 = s.get LE_SWAP_TICK_TICK) ∧
      u = ((List.range 16).filter fun n => s.on (LE_LANE_STAT_BUSY n)).foldl (fun t n => (t.count SWAP_ABORT).abortLane n) s) ∧
    (∃ (s : State), s.isDatum = true ∧ (s.on LE_BANK_SWAP_PEND = false ∨ s.tb.tick % 2 ^ 32 ≠ s.get LE_SWAP_TICK_TICK)) :=
  ⟨⟨dat.put (LE_LANE_STAT_BUSY 3) 1, 3, (CL_VSEND_VAL 3 31).addr, by decide +kernel⟩,
   ⟨(dat.put (LE_LANE_STAT_BUSY 3) 1).setLane 3 { staged := List.replicate 64 (0, 0) }, 3, (CL_VSEND_VAL 3 31).addr,
     by decide +kernel⟩,
   ⟨dat.put (LE_LANE_STAT_BUSY 3) 1, 3, 0, by decide +kernel⟩,
   ⟨dat.put (LE_LANE_STAT_BUSY 3) 1, 3, 4, by decide +kernel⟩,
   ⟨dat.put (LE_LANE_STAT_BUSY 3) 1, 3, _, by decide +kernel, rfl⟩,
   ⟨dat, by decide +kernel⟩,
   ⟨dat.put (LE_LANE_STAT_BUSY 0) 1, 0, by decide +kernel⟩,
   ⟨dat, 3, by decide +kernel⟩,
   ⟨dat, 15, by decide +kernel⟩,
   ⟨mgd, by decide +kernel⟩,
   ⟨{ mgd.put LE_BANK_IDLE_OK 1 with tb := { tick := 7 } }, _, by decide +kernel, rfl, by decide +kernel⟩,
   ⟨{ (mgd.put LE_BANK_IDLE_OK 1).put LE_SWAP_TICK_TICK 1 with tb := { tick := 0xFFFFFFFF } }, _, by decide +kernel, rfl,
     by decide +kernel⟩,
   ⟨mgd.put LE_BANK_SWAP_PEND 1, by decide +kernel⟩,
   ⟨mgd, by decide +kernel⟩,
   ⟨(dat.put LE_BANK_SWAP_PEND 1).put TB_STAT_TICK_RUN 1, _, by decide +kernel, rfl⟩,
   ⟨dat, by decide +kernel⟩⟩

/-- The hypotheses of Obligations.ControlUnitsComplete, clause by clause, are met together. -/
theorem test_witness_ControlUnitsComplete :
    (∃ (s : State) (n : _) (v : _), s.isDatum = true ∧ s.takesWrites = true ∧ n < 16 ∧ v < 2 ^ 32 ∧
      s.cfgOn (OG_CH_CFG_EN n) = false) ∧
    (∃ (s : State) (n : _), s.isDatum = true ∧ s.takesWrites = true ∧ n < 16 ∧ s.cfgOn (OG_CH_CFG_EN n) = true) ∧
    (∃ (s : State) (n : _), s.isDatum = true ∧ s.takesWrites = true ∧ 16 ≤ n) ∧
    (∃ (s : State) (g : _) (d : _), (s.isDatum = true ∧ s.takesWrites = true ∧ g < 4) ∧
      d = (s.get (INJ_GEN_START_VAL g) + 2 ^ 32 - s.tb.tick % 2 ^ 32) % 2 ^ 32 ∧ (d < 2 ∨ 2 ^ 31 ≤ d)) ∧
    (∃ (s : State) (g : _) (d : _), (s.isDatum = true ∧ s.takesWrites = true ∧ g < 4) ∧
      d = (s.get (INJ_GEN_START_VAL g) + 2 ^ 32 - s.tb.tick % 2 ^ 32) % 2 ^ 32 ∧ (2 ≤ d ∧ d < 2 ^ 31 ∧
      (s.on (INJ_GEN_STAT_ARMED g) = true ∨ s.on (INJ_GEN_STAT_RUN g) = true))) ∧
    (∃ (s : State) (g : _) (d : _), (s.isDatum = true ∧ s.takesWrites = true ∧ g < 4) ∧
      d = (s.get (INJ_GEN_START_VAL g) + 2 ^ 32 - s.tb.tick % 2 ^ 32) % 2 ^ 32 ∧ (2 ≤ d ∧ d < 2 ^ 31 ∧
      s.on (INJ_GEN_STAT_ARMED g) = false ∧ s.on (INJ_GEN_STAT_RUN g) = false)) ∧
    (∃ (s : State) (g : _), s.isDatum = true ∧ s.takesWrites = true ∧ g < 4) ∧
    (∃ (s : State) (g : _), s.isDatum = true ∧ s.takesWrites = true ∧ 4 ≤ g) ∧
    (∃ (s : State), s.isDatum = true) ∧
    (∃ (s : State), s.isDatum = true ∧ ((∀ g < 3, s.on (INJ_GEN_STAT_ARMED g) = false)) ∧
      s.on (INJ_GEN_STAT_ARMED 3) = true ∧ (s.injSt 3).start = s.tb.tick ∧ s.injBlocked = false) ∧
    (∃ (s : State), s.isDatum = true ∧ ((∀ g < 3, s.on (INJ_GEN_STAT_RUN g) = false)) ∧
      s.on (INJ_GEN_STAT_RUN 3) = true ∧ s.cfg (INJ_GEN_DUR_VAL 3) ≠ 0 ∧ s.cfg (INJ_GEN_DUR_VAL 3) ≤ s.injM 3 s.tb.tick) ∧
    (∃ (s : State), s.isDatum = true ∧ s.cfgOn CF_CTRL_ANG_EN = true ∧ s.cfgOn (ANG_CFG_EN 0) = false ∧
      s.cfgOn (ANG_CFG_EN 1) = true ∧ s.angLocked 1 = true ∧ s.on (ANG_STAT_LOCK 1) = false) :=
  ⟨⟨mgd, 15, 0xFFFFFFFF, by decide +kernel⟩,
   ⟨mgd.putCfg (OG_CH_CFG_EN 3) 1, 3, by decide +kernel⟩,
   ⟨mgd, 16, by decide +kernel⟩,
   ⟨mgd, 3, _, by decide +kernel, rfl, by decide +kernel⟩,
   ⟨(mgd.put (INJ_GEN_START_VAL 3) 2).put (INJ_GEN_STAT_RUN 3) 1, 3, _, by decide +kernel, rfl, by decide +kernel⟩,
   ⟨mgd.put (INJ_GEN_START_VAL 3) 2, 3, _, by decide +kernel, rfl, by decide +kernel⟩,
   ⟨mgd, 3, by decide +kernel⟩,
   ⟨mgd, 4, by decide +kernel⟩,
   ⟨dat, by decide +kernel⟩,
   ⟨{ dat.put (INJ_GEN_STAT_ARMED 3) 1 with sf := { x := { permit := true }, y := { permit := true } } },
     by decide +kernel⟩,
   ⟨{ (dat.put (INJ_GEN_STAT_RUN 3) 1).putCfg (INJ_GEN_DUR_VAL 3) 1 with tb := { tick := 1 } }, by decide +kernel⟩,
   ⟨((dat.putCfg CF_CTRL_ANG_EN 1).putCfg (ANG_CFG_EN 1) 1).setAng 1 { inRun := 65535 }, by decide +kernel⟩⟩

/-- The hypotheses of Obligations.TwinMessagesComplete, clause by clause, are met together. -/
theorem test_witness_TwinMessagesComplete :
    (∃ (s : State), s.isDatum = true ∧ s.twinUp = false) ∧
    (∃ (s : State), s.isDatum = true ∧ s.twinUp = true) ∧
    (∃ (s : State) (h : Heartbeat) (u : State) (v : State), (s.isDatum = true ∧ s.twinUp = true) ∧ u = s.heartbeatId h ∧
      v = ((({ u with tw := { u.tw with hb := some h, hbGot := u.tw.hbGot || (decide (h.tick = u.tb.tick) && u.tb.started && !u.tb.sampled), hbTold := false, enRun := none } } : State).put TW_STAT_HB_OK 1).put LS_STAT_TWIN_STATE h.state).put TW_STAT_TWIN_FAULT h.fault.toNat) ∧
    (∃ (s : State) (d : Digest) (u : State), (s.isDatum = true ∧ s.twinUp = true) ∧
      (u = (if s.tickBegun d.tick = true then s.count DIG_LATE else s))) ∧
    (∃ (s : State) (tk : _), s.isDatum = true ∧ s.twinUp = true ∧ tk = s.tb.tick % 2 ^ 32 ∧ s.tb.started = true ∧
      s.tb.cutDone = false) ∧
    (∃ (s : State) (tk : _), s.isDatum = true ∧ s.twinUp = true ∧
      (tk ≠ s.tb.tick % 2 ^ 32 ∨ s.tb.started = false ∨ s.tb.cutDone = true)) ∧
    (∃ (s : State), s.isDatum = true ∧ s.twinUp = true ∧ s.mayHandOver = true ∧ (s.lease = lsFollow ∨ s.lease = lsHold)) ∧
    (∃ (s : State), s.isDatum = true ∧ s.twinUp = true ∧ (s.mayHandOver = false ∨ s.lease = lsOff ∨ s.lease = lsClaim)) ∧
    (∃ (s : State) (k : _), s.isDatum = true ∧ s.twinUp = true ∧ s.tw.hoReq = some k) ∧
    (∃ (s : State) (k : _), s.isDatum = true ∧ s.twinUp = true ∧ s.tw.hoReq ≠ some k) ∧
    (∃ (s : State) (h : Heartbeat), s.isDatum = true ∧ s.twinUp = true ∧ s.lease = lsHold ∧ s.tw.hb = some h ∧
      h.idcrc = s.idCrc) ∧
    (∃ (s : State), s.isDatum = true ∧ s.twinUp = true ∧ s.lease ≠ lsHold) ∧
    (∃ (s : State), s.isDatum = true ∧ s.twinUp = true ∧ s.mode = twJoin) ∧
    (∃ (s : State), s.isDatum = true ∧ s.twinUp = true ∧ s.mode = twTrack) ∧
    (∃ (s : State), s.isDatum = true ∧ s.twinUp = true ∧ s.mode = twNone) ∧
    (∃ (s : State) (a : _) (bs : _) (u : _), (s.isDatum = true ∧ s.twinUp = true ∧ s.mode = twJoin) ∧ u = s.putLines a bs) ∧
    (∃ (s : State) (m : Share), s.isDatum = true ∧ s.twinUp = true ∧ s.takesShare = true ∧ m.tick = s.tb.tick % 2 ^ 32 ∧
      s.now ≤ s.tb.tickStart + s.cfg TB_SAMPLE_S + s.cfg TW_SHTO_SHTO ∧ s.cfgOn (AD_SEQ_DEST_EN m.conv) = true ∧
      s.tw.served.contains m.conv = false ∧ s.tw.late.contains m.conv = false) ∧
    (∃ (s : State) (m : Share), s.isDatum = true ∧ s.twinUp = true ∧
      (s.takesShare = false ∨ m.tick ≠ s.tb.tick % 2 ^ 32 ∨ s.tb.tickStart + s.cfg TB_SAMPLE_S + s.cfg TW_SHTO_SHTO < s.now ∨ s.cfgOn (AD_SEQ_DEST_EN m.conv) = false ∨ s.tw.served.contains m.conv = true ∨ s.tw.late.contains m.conv = true)) ∧
    (∃ (s : State) (n : _) (v : _) (u : _) (r : _), (s.isDatum = true ∧ s.takesShare = true ∧ s.tb.sampled = true ∧
      s.cfgOn (AD_SEQ_DEST_EN n) = true ∧ s.tw.served.contains n = false ∧ s.tw.late.contains n = false) ∧
      v = s.advance (s.tb.tickStart + s.cfg TB_SAMPLE_S + s.cfg TW_SHTO_SHTO) ∧
      u = ({ v with tw := { v.tw with late := addOnce v.tw.late n } } : State).count SHARE_LATE ∧
      kget s.tw.withheld n = some r) ∧
    (∃ (s : State) (n : _) (v : _) (u : _), (s.isDatum = true ∧ s.takesShare = true ∧ s.tb.sampled = true ∧
      s.cfgOn (AD_SEQ_DEST_EN n) = true ∧ s.tw.served.contains n = false ∧ s.tw.late.contains n = false) ∧
      v = s.advance (s.tb.tickStart + s.cfg TB_SAMPLE_S + s.cfg TW_SHTO_SHTO) ∧
      u = ({ v with tw := { v.tw with late := addOnce v.tw.late n } } : State).count SHARE_LATE ∧
      kget s.tw.withheld n = none) ∧
    (∃ (s : State) (n : _), s.isDatum = true ∧
      (s.takesShare = false ∨ s.tb.sampled = false ∨ s.cfgOn (AD_SEQ_DEST_EN n) = false ∨ s.tw.served.contains n = true ∨ s.tw.late.contains n = true)) :=
  ⟨⟨dat, by decide +kernel⟩,
   ⟨twd, by decide +kernel⟩,
   ⟨twd, hbA, _, _, by decide +kernel, rfl, rfl⟩,
   ⟨{ twd with tb := { started := true } }, { seq := 3, tick := 0, crc := 5 }, _, by decide +kernel, rfl⟩,
   ⟨{ twd with tb := { started := true, tick := 2 ^ 32 + 3 } }, 3, by decide +kernel⟩,
   ⟨twd, 0, by decide +kernel⟩,
   ⟨(((twd.put LS_STAT_STATE 1).put TW_STAT_MATCH 1).put TW_STAT_HB_OK 1), by decide +kernel⟩,
   ⟨twd, by decide +kernel⟩,
   ⟨{ twd with tw := { hoReq := some 5 } }, 5, by decide +kernel⟩,
   ⟨twd, 5, by decide +kernel⟩,
   hears_same (twd.put LS_STAT_STATE 3) (by decide +kernel) (by decide +kernel) (by decide +kernel),
   ⟨twd, by decide +kernel⟩,
   ⟨twd.put TW_STAT_MODE 1, by decide +kernel⟩,
   ⟨twd.put TW_STAT_MODE 2, by decide +kernel⟩,
   ⟨twd, by decide +kernel⟩,
   ⟨twd.put TW_STAT_MODE 1, 0x02000000, [1, 2], _, by decide +kernel, rfl⟩,
   ⟨{ (((twd.put TW_STAT_MODE 2).putCfg TW_CTRL_SHARE_EN 1).putCfg (AD_SEQ_DEST_EN 7) 1) with tb := { tickStart := 5000 } }, { conv := 7, pass := 0, tick := 0, res := [1] }, by decide +kernel⟩,
   ⟨twd, { conv := 7, pass := 0, tick := 1, res := [1] }, by decide +kernel⟩,
   ⟨{ (((twd.put TW_STAT_MODE 2).putCfg TW_CTRL_SHARE_EN 1).putCfg (AD_SEQ_DEST_EN 7) 1) with tb := { sampled := true }, tw := { withheld := [(7, [1])] } }, 7, _, _, [1], by decide +kernel, rfl, rfl, by decide +kernel⟩,
   ⟨{ (((twd.put TW_STAT_MODE 2).putCfg TW_CTRL_SHARE_EN 1).putCfg (AD_SEQ_DEST_EN 7) 1) with tb := { sampled := true } }, 7, _, _, by decide +kernel, rfl, rfl, by decide +kernel⟩,
   ⟨dat, 0, by decide +kernel⟩⟩

/-- The hypotheses of Obligations.LeaseCommandsComplete, clause by clause, are met together. -/
theorem test_witness_LeaseCommandsComplete :
    (∃ (s : State) (u : _) (v : _) (w : _), (s.isDatum = true ∧ s.cfg TW_CFG_HBLOSS ≤ s.tw.hbRun ∧ s.tw.hbTold = false) ∧
      u = ((s.put TW_STAT_HB_OK 0).raise 161).endHandover ∧
      (v = (if u.mode = twJoin then u.abandonJoin else u.put TW_STAT_MODE twNone)) ∧
      w = ({ v with tw := { v.tw with hbTold := true, wait := false, sweepAt := none } } : State)) ∧
    (∃ (s : State), s.isDatum = true ∧ (s.tw.hbRun < s.cfg TW_CFG_HBLOSS ∨ s.tw.hbTold = true)) ∧
    (∃ (s : State), s.isDatum = true ∧ s.cfg TW_CFG_MWIN ≤ s.tw.silent ∧ s.on TW_STAT_MATCH = true) ∧
    (∃ (s : State), s.isDatum = true ∧ s.cfg TW_CFG_MWIN ≤ s.tw.silent ∧ s.on TW_STAT_MATCH = false) ∧
    (∃ (s : State), s.isDatum = true ∧ s.tw.silent < s.cfg TW_CFG_MWIN) ∧
    (∃ (s : State), s.isDatum = true ∧ s.cfg TW_CFG_MREQ ≤ s.tw.run ∧ s.mode ≠ twJoin ∧ s.cfgOn TW_CTRL_EN = true ∧
      s.cfgOn LS_CTRL_EN = true) ∧
    (∃ (s : State), s.isDatum = true ∧
      (s.tw.run < s.cfg TW_CFG_MREQ ∨ s.mode = twJoin ∨ s.cfgOn TW_CTRL_EN = false ∨ s.cfgOn LS_CTRL_EN = false)) ∧
    (∃ (s : State), s.isDatum = true ∧ s.lease = lsFollow ∧ s.on TW_STAT_HB_OK = false ∧
      s.cfg TW_CFG_HBLOSS ≤ s.tw.noFrames) ∧
    (∃ (s : State), s.isDatum = true ∧
      (s.lease ≠ lsFollow ∨ s.on TW_STAT_HB_OK = true ∨ s.tw.noFrames < s.cfg TW_CFG_HBLOSS)) ∧
    (∃ (s : State), s.isDatum = true ∧ s.lease = lsClaim ∧ s.cfg LS_CFG_CLAIMTO ≤ s.tw.stateRun ∧ s.tw.claimTold = false) ∧
    (∃ (s : State), s.isDatum = true ∧ (s.lease ≠ lsClaim ∨ s.tw.stateRun < s.cfg LS_CFG_CLAIMTO ∨ s.tw.claimTold = true)) ∧
    (∃ (s : State), s.isDatum = true ∧ s.takesWrites = true ∧ s.lease ≠ lsHold) ∧
    (∃ (s : State), s.isDatum = true ∧ s.takesWrites = true ∧ s.lease = lsHold ∧ s.mayHandOver = false) ∧
    (∃ (s : State) (k : _), s.isDatum = true ∧ s.takesWrites = true ∧ s.lease = lsHold ∧ s.mayHandOver = true ∧
      k = (s.tb.tick + 4) % 2 ^ 32) ∧
    (∃ (s : State) (k : _), s.isDatum = true ∧ s.on LS_STAT_PREF = true ∧ s.lease = lsFollow ∧
      s.cfgOn LS_CTRL_REV_EN = true ∧ s.on TW_STAT_PREF_CONFLICT = false ∧ s.mayHandOver = true ∧
      k = (s.tb.tick + 4) % 2 ^ 32) ∧
    (∃ (s : State), s.isDatum = true ∧
      (s.on LS_STAT_PREF = false ∨ s.lease ≠ lsFollow ∨ s.cfgOn LS_CTRL_REV_EN = false ∨ s.on TW_STAT_PREF_CONFLICT = true ∨ s.mayHandOver = false)) ∧
    (∃ (s : State) (k : _), s.isDatum = true ∧ s.tw.ho = some (k, false) ∧ s.atTick k = true ∧ s.lease = lsHold) ∧
    (∃ (s : State) (k : _), s.isDatum = true ∧ s.tw.ho = some (k, false) ∧ s.atTick k = true ∧ s.lease ≠ lsHold) ∧
    (∃ (s : State), s.isDatum = true ∧ s.tw.ho = none) ∧
    (∃ (s : State) (k : _) (u : _), (s.isDatum = true ∧ s.tw.ho = some (k, true) ∧ s.atTick ((k + 1) % 2 ^ 32) = true ∧
      s.lease = lsFollow) ∧
      u = ((({ s with tw := { s.tw with hoReq := none, ho := none } } : State).put LS_STAT_HO_PEND 0).enterLease lsClaim ((s.tw.hoEpoch + 1) % 2 ^ 32))) ∧
    (∃ (s : State) (k : _), s.isDatum = true ∧ s.tw.ho = some (k, true) ∧ s.atTick ((k + 1) % 2 ^ 32) = true ∧
      s.lease ≠ lsFollow) :=
  ⟨⟨{ (((dat.putCfg TW_CTRL_EN 1).put TW_STAT_MODE 2).put LS_STAT_STATE 1) with tw := { hbRun := 255 } }, _, _, _,
    by decide +kernel, rfl, rfl, rfl⟩,
   ⟨dat, by decide +kernel⟩,
   ⟨{ (dat.put TW_STAT_MATCH 1) with tw := { silent := 65535 } }, by decide +kernel⟩,
   ⟨{ dat with tw := { silent := 65535 } }, by decide +kernel⟩,
   ⟨dat, by decide +kernel⟩,
   ⟨{ ((dat.putCfg TW_CTRL_EN 1).putCfg LS_CTRL_EN 1) with tw := { run := 65535 } }, by decide +kernel⟩,
   ⟨dat, by decide +kernel⟩,
   ⟨{ (dat.put LS_STAT_STATE 1) with tw := { noFrames := 255 } }, by decide +kernel⟩,
   ⟨dat, by decide +kernel⟩,
   ⟨{ (dat.put LS_STAT_STATE 2) with tw := { stateRun := 65535 } }, by decide +kernel⟩,
   ⟨dat, by decide +kernel⟩,
   ⟨mgd, by decide +kernel⟩,
   ⟨mgd.put LS_STAT_STATE 3, by decide +kernel⟩,
   ⟨{ (((mgd.put LS_STAT_STATE 3).put TW_STAT_MATCH 1).put TW_STAT_HB_OK 1) with tb := { tick := 0xFFFFFFFF } }, 3,
     by decide +kernel⟩,
   ⟨((((dat.put LS_STAT_STATE 1).put TW_STAT_MATCH 1).put TW_STAT_HB_OK 1).put LS_STAT_PREF 1).putCfg LS_CTRL_REV_EN 1,
     4, by decide +kernel⟩,
   ⟨dat, by decide +kernel⟩,
   ⟨{ ((dat.put LS_STAT_STATE 3).put TB_STAT_TICK_RUN 1) with tw := { ho := some (7, false) }, tb := { tick := 7, started := true, placed := true } }, 7, by decide +kernel⟩,
   ⟨{ (dat.put TB_STAT_TICK_RUN 1) with tw := { ho := some (7, false) }, tb := { tick := 7, started := true, placed := true } }, 7, by decide +kernel⟩,
   ⟨dat, by decide +kernel⟩,
   ⟨{ ((dat.put LS_STAT_STATE 1).put TB_STAT_TICK_RUN 1) with tw := { ho := some (0xFFFFFFFF, true) }, tb := { tick := 2 ^ 32, started := true, placed := true } }, 0xFFFFFFFF, _, by decide +kernel, rfl⟩,
   ⟨{ (dat.put TB_STAT_TICK_RUN 1) with tw := { ho := some (0xFFFFFFFF, true) }, tb := { tick := 2 ^ 32, started := true, placed := true } }, 0xFFFFFFFF, by decide +kernel⟩⟩

/-- The hypotheses of Obligations.JoinCommandsComplete, clause by clause, are met together. -/
theorem test_witness_JoinCommandsComplete :
    (∃ (s : State) (h : Heartbeat), s.isDatum = true ∧ s.takesWrites = true ∧ s.on TW_STAT_HB_OK = true ∧
      s.tw.hb = some h ∧ h.idcrc = s.idCrc ∧ h.state = lsHold ∧ s.mode ≠ twJoin) ∧
    (∃ (s : State) (h : Heartbeat), s.isDatum = true ∧ s.takesWrites = true ∧ s.on TW_STAT_HB_OK = true ∧
      s.tw.hb = some h ∧ h.idcrc ≠ s.idCrc) ∧
    (∃ (s : State) (h : Heartbeat), s.isDatum = true ∧ s.takesWrites = true ∧ s.tw.hb = some h ∧ h.idcrc = s.idCrc ∧
      (h.state ≠ lsHold ∨ s.mode = twJoin)) ∧
    (∃ (s : State), s.isDatum = true ∧ s.takesWrites = true ∧ (s.on TW_STAT_HB_OK = false ∨ s.tw.hb = none)) ∧
    (∃ (s : State) (n : _) (k : _) (ms : _), (s.isDatum = true ∧ s.tw.sweepAt = some n ∧ s.lease = lsHold ∧
      s.twinUp = true ∧ s.twinMode = twJoin ∧ s.tw.stateSent = true ∧
      (s.tb.cutDone = true ∨ s.now + 100 ≤ s.tb.nextStart - s.cfg TB_CUTOFF_LEAD)) ∧
      ms = s.sweepMsgs 65 n (32768 - s.tw.sweepNow) ∧ k = (ms.map fun e => sweepSpan e.2).sum) ∧
    (∃ (s : State), s.isDatum = true ∧
      (s.tw.sweepAt = none ∨ s.lease ≠ lsHold ∨ s.twinUp = false ∨ s.twinMode ≠ twJoin ∨ s.tw.stateSent = false ∨ (s.tb.cutDone = false ∧ s.tb.nextStart - s.cfg TB_CUTOFF_LEAD < s.now + 100))) ∧
    (∃ (s : State) (h : Heartbeat) (k : Nat) (u : State), (s.isDatum = true ∧ s.mode = twJoin ∧
      s.sweepTotal ≤ s.tw.sweepTo ∧ s.on TW_STAT_HB_OK = true ∧ s.tw.hb = some h ∧ s.tb.started = true ∧
      s.tb.cutDone = false ∧ s.tw.stGot = some (k, true) ∧ (k + 1) % 2 ^ 64 = s.tb.tick) ∧
      u = (s.put TW_STAT_MODE twTrack).enterLease lsFollow h.epoch) ∧
    (∃ (s : State) (k : Nat), s.isDatum = true ∧ s.sweepTotal ≤ s.tw.sweepTo ∧ s.tw.stGot = some (k, false) ∧
      (k + 1) % 2 ^ 64 = s.tb.tick) ∧
    (∃ (s : State), (s.isDatum = true ∧ s.mode = twJoin ∧ s.sweepTotal ≤ s.tw.sweepTo ∧ s.on TW_STAT_HB_OK = true ∧
      s.tb.started = true ∧ s.tb.cutDone = false) ∧ ((∀ (k : Nat) (b : Bool), s.tw.stGot = some (k,
      b) → (k + 1) % 2 ^ 64 ≠ s.tb.tick))) ∧
    (∃ (s : State), s.isDatum = true ∧
      (s.mode ≠ twJoin ∨ s.tw.sweepTo < s.sweepTotal ∨ s.on TW_STAT_HB_OK = false ∨ s.tb.started = false ∨ s.tb.cutDone = true)) ∧
    (∃ (s : State), s.isDatum = true ∧ s.mode = twJoin) ∧
    (∃ (s : State), s.isDatum = true ∧ s.mode ≠ twJoin) :=
  ⟨hears_join hears (by decide +kernel) (by decide +kernel) (by decide +kernel) (by decide +kernel),
   hears_other hears (by decide +kernel) (by decide +kernel) (by decide +kernel),
   hears_free hears (by decide +kernel) (by decide +kernel),
   ⟨mgd, by decide +kernel⟩,
   ⟨{ (((twd.put LS_STAT_STATE 3).put TW_STAT_HB_OK 1)) with tw := { sweepAt := some 0, stateSent := true, hb := some { hbA with mode := 1 } }, tb := { nextStart := 9000 } }, 0, _, _, by decide +kernel, rfl, rfl⟩,
   ⟨dat, by decide +kernel⟩,
   ⟨{ ((dat.put TW_STAT_MODE 1).put TW_STAT_HB_OK 1) with tw := { hb := some hbA, sweepTo := 2 ^ 32, stGot := some (6, true) }, tb := { started := true, tick := 7 } }, hbA, 6, _, by decide +kernel, rfl⟩,
   ⟨{ ((dat.put TW_STAT_MODE 1).put TW_STAT_HB_OK 1) with tw := { sweepTo := 2 ^ 32, stGot := some (6, false) }, tb := { started := true, tick := 7 } }, 6, by decide +kernel⟩,
   ⟨{ ((dat.put TW_STAT_MODE 1).put TW_STAT_HB_OK 1) with tw := { sweepTo := 2 ^ 32 }, tb := { started := true, tick := 7 } }, by decide +kernel, fun k b h => by simp at h⟩,
   ⟨dat, by decide +kernel⟩,
   ⟨dat.put TW_STAT_MODE 1, by decide +kernel⟩,
   ⟨dat, by decide +kernel⟩⟩

/-- The hypotheses of Obligations.RecorderCommandsComplete, clause by clause, are met together. -/
theorem test_witness_RecorderCommandsComplete :
    (∃ (s : State), s.running = true ∧ (s.drQuiet = true ∨ s.rowDue = false)) ∧
    (∃ (s : State) (late : List Nat) (u : State) (t : State), s.running = true ∧ u = s.rowTaken.takeRow late ∧
      (s.rowDue = true ∧ (s.drState = drArmed ∨ s.drState = drPost) ∧ 64 ≤ s.dr.rows) ∧
      t = (u.setSeg u.segNow { u.seg u.segNow with gap := true }).count ROW_DROP) ∧
    (∃ (s : State) (d : Bool) (late : List Nat) (u : State) (v : State) (row : DrLine) (e : Option Nat) (c : Nat),
      (s.running = true ∧ s.drQuiet = false ∧ s.rowDue = true ∧ (d = false ∨ (s.drState ≠ drArmed ∧
      s.drState ≠ drPost) ∨ s.dr.rows < 64)) ∧ u = s.rowTaken.takeRow late ∧ row = u.rowOf u.rowTime ∧
      e = (u.dr.lost.map (·.1)).or (u.hwTrigger u.condBits).1 ∧
      (c = (if s.drState = drArmed ∨ s.drState = drPost then 1 else 0)) ∧
      v = { u with dr := { u.dr with bits := u.condBits, cond := (u.hwTrigger u.condBits).2, last := true, lost := none, rows := u.dr.rows + c } }) ∧
    (∃ (s : State), s.running = true ∧ s.takesWrites = true ∧ s.drQuiet = false) ∧
    (∃ (s : State), s.running = true ∧ s.takesWrites = true ∧ s.drQuiet = true ∧ s.armError ≠ 0) ∧
    (∃ (s : State), s.running = true ∧ s.takesWrites = true ∧ s.drQuiet = true ∧ s.armError = 0) ∧
    (∃ (s : State) (u : _), (s.running = true ∧ s.takesWrites = true) ∧
      (u = (if s.drState = drArmed then s.dropSeg s.segNow else if s.drState = drPost then s.closeRecord true false else s))) ∧
    (∃ (s : State), s.running = true ∧ s.takesWrites = true ∧ s.drState = drArmed) ∧
    (∃ (s : State), s.running = true ∧ s.takesWrites = true ∧ (s.drState = drPost ∨ s.drState = drRearm)) ∧
    (∃ (s : State), s.running = true ∧ s.takesWrites = true ∧ s.drState = drWaitseg) ∧
    (∃ (s : State), s.running = true ∧ s.takesWrites = true ∧ (s.drState = drIdle ∨ s.drState = drStopped)) ∧
    (∃ (s : State) (n : _) (i : _), s.running = true ∧ s.takesWrites = true ∧ n < 2 ^ 32 ∧ s.segOfRec n = some i) ∧
    (∃ (s : State) (n : _), s.running = true ∧ s.takesWrites = true ∧ n < 2 ^ 32 ∧ s.segOfRec n = none) ∧
    (∃ (s : State) (ecc : Nat) (i : Nat) (data : List Nat) (last : Bool) (u : State), (s.running = true ∧
      s.isDatum = true ∧ s.on DR_STREAM_EN = true ∧ s.get SH_STAT_STAGE = 0 ∧ s.streamRoom = true ∧
      s.streamSeg = some i) ∧ data = ((s.seg i).bytes.drop s.dr.ofs).take s.chunkSize ∧
      last = decide ((s.seg i).bytes.length ≤ s.dr.ofs + data.length) ∧
      (u = ((((s.put (DR_SEG_STAT_STATE i) 3).emit (.chunk (s.get DR_STREAM_PORT) (chunkBytes (s.seg i).rnum s.dr.ofs (last.toNat + if ecc / 65536 = 0 then 0 else 2) data))).ringChunk last).drEcc ecc))) ∧
    (∃ (s : State), s.running = true ∧ s.isDatum = true ∧
      (s.on DR_STREAM_EN = false ∨ s.get SH_STAT_STAGE ≠ 0 ∨ s.streamRoom = false ∨ s.streamSeg = none)) :=
  ⟨⟨dat, by decide +kernel⟩,
   ⟨{ rowStk with dr := { rowStk.dr with rows := 64 } }, [63], _, _, by decide +kernel, rfl, by decide +kernel, rfl⟩,
   ⟨rowStk, false, [], _, _, _, _, _, by decide +kernel, rfl, rfl, rfl, rfl, rfl⟩,
   ⟨mgd.put DR_STAT_STATE 4, by decide +kernel⟩,
   ⟨mgd, by decide +kernel⟩,
   ⟨armable, by decide +kernel⟩,
   ⟨mgd.put DR_STAT_STATE 2, _, by decide +kernel, rfl⟩,
   ⟨mgd.put DR_STAT_STATE 1, by decide +kernel⟩,
   ⟨mgd.put DR_STAT_STATE 3, by decide +kernel⟩,
   ⟨mgd.put DR_STAT_STATE 4, by decide +kernel⟩,
   ⟨mgd, by decide +kernel⟩,
   ⟨(mgd.setSeg 0 { rnum := 0xFFFFFFFF }).put (DR_SEG_STAT_STATE 0) 2, 0xFFFFFFFF, 0, by decide +kernel⟩,
   ⟨mgd, 0xFFFFFFFF, by decide +kernel⟩,
   ⟨streams, 131073, 0, _, _, _, by decide +kernel, rfl, rfl, rfl⟩,
   ⟨dat, by decide +kernel⟩⟩

/-- The hypotheses of Obligations.TransportCommandsComplete, clause by clause, are met together. -/
theorem test_witness_TransportCommandsComplete :
    (∃ (s : State) (r : Req) (c : _), s.isDatum = true ∧ (s.mg.cache.find? fun c => c.req = r) = some c) ∧
    (∃ (s : State) (r : Req), s.isDatum = true ∧ (s.mg.cache.find? fun c => c.req = r) = none ∧
      s.mg.reqs.contains r = true) ∧
    (∃ (s : State) (r : Req) (k : Packet), s.isDatum = true ∧ (s.mg.cache.find? fun c => c.req = r) = none ∧
      s.mg.reqs.contains r = false ∧ 9120 < k.params.length) ∧
    (∃ (s : State) (r : Req) (k : Packet), s.isDatum = true ∧ (s.mg.cache.find? fun c => c.req = r) = none ∧
      s.mg.reqs.contains r = false ∧ k.params.length ≤ 9120 ∧ s.packetStatus k ≠ stOk) ∧
    (∃ (s : State) (r : Req) (k : Packet), s.isDatum = true ∧ (s.mg.cache.find? fun c => c.req = r) = none ∧
      s.mg.reqs.contains r = false ∧ k.params.length ≤ 9120 ∧ s.packetStatus k = stOk) ∧
    (∃ (s : State) (port : _), s.isDatum = true ∧ (port = 20044 ∨ (s.clpos < 16 ∧ s.cfgOn CL_CTRL_FWD_EN = true ∧
      port = 20045 + s.clpos))) ∧
    (∃ (s : State) (c : _) (src : _) (key : _) (k : _) (u : _), (s.isDatum = true ∧ c < 16 ∧ c ≠ s.clpos ∧
      s.cfgOn CL_CTRL_FWD_EN = true ∧ (s.routeTo c).isSome = true) ∧ key = src % 2 ^ 144 + 2 ^ 144 * c ∧
      u = (s.count FWD_CNT).sendMgmt { entry := s.clpos, dest := c, key := key, body := .request k }) ∧
    (∃ (s : State) (c : _), s.isDatum = true ∧ c < 16 ∧ (s.cfgOn CL_CTRL_FWD_EN = false ∨ (c ≠ s.clpos ∧
      (s.routeTo c).isNone = true))) ∧
    (∃ (s : State) (port : _), s.isDatum = true ∧ (port < 20044 ∨ 20060 < port)) ∧
    (∃ (s : State) (d : Nat), s.isDatum = true ∧ d < 4 ∧ s.lstate (17 + d) = lsActive) ∧
    (∃ (s : State) (d : Nat) (m : MgmtMsg), s.isDatum = true ∧ d < 4 ∧ s.lstate (17 + d) = lsActive ∧ m.dest ≠ s.clpos) ∧
    (∃ (s : State) (d : Nat) (m : MgmtMsg) (k : Packet), s.isDatum = true ∧ d < 4 ∧ s.lstate (17 + d) = lsActive ∧
      m.dest = s.clpos ∧ m.body = .request k) ∧
    (∃ (s : State) (d : Nat) (m : MgmtMsg) (r : Reply), s.isDatum = true ∧ d < 4 ∧ s.lstate (17 + d) = lsActive ∧
      m.dest = s.clpos ∧ m.body = .reply r) ∧
    (∃ (s : State) (d : Nat), s.isDatum = true ∧ (4 ≤ d ∨ s.lstate (17 + d) ≠ lsActive)) ∧
    (∃ (s : State) (key : _) (tag : _), s.isDatum = true ∧ s.mg.fwd.contains (key, tag) = true) ∧
    (∃ (s : State) (key : _) (tag : _), s.isDatum = true ∧ s.mg.fwd.contains (key, tag) = false) ∧
    (∃ (s : State), s.isDatum = true) ∧
    (∃ (s : State) (q : Nat) (tail : Nat) (l : List (Nat × Nat × Packet)), s.isDatum = true ∧ q < 4 ∧
      (s.pq q).en = true ∧ tail < (s.pq q).depth ∧ l.length = (tail + (s.pq q).depth - (s.pq q).sqTail) % (s.pq q).depth) ∧
    (∃ (s : State) (q : _) (head : _), s.isDatum = true ∧ q < 4 ∧ (s.pq q).en = true ∧ head < (s.pq q).depth) ∧
    (∃ (s : State) (q : Nat) (i : Nat), s.isDatum = true ∧ (4 ≤ q ∨ (s.pq q).en = false ∨ (s.pq q).depth ≤ i)) ∧
    (∃ (s : State) (q : Nat) (tail : Nat) (l : List (Nat × Nat × Packet)), s.isDatum = true ∧
      l.length ≠ (tail + (s.pq q).depth - (s.pq q).sqTail) % (s.pq q).depth) ∧
    (∃ (s : State) (q : _) (v : _) (k : _), (s.isDatum = true ∧ q < 4 ∧ v < 2 ^ 32 ∧ 2 ≤ bitsOf v 15 8 ∧
      bitsOf v 15 8 ≤ 128) ∧ k = { s.pq q with en := bitOf v 0, depth := bitsOf v 15 8, vec := bitsOf v 21 16 }) ∧
    (∃ (s : State) (q : _) (v : _), s.isDatum = true ∧ q < 4 ∧ v < 2 ^ 32 ∧ (bitsOf v 15 8 < 2 ∨ 128 < bitsOf v 15 8)) ∧
    (∃ (s : State) (q : _) (i : _) (v : _), s.isDatum = true ∧ q < 4 ∧ i < 4 ∧ v < 2 ^ 32) ∧
    (∃ (s : State) (v : _) (r : _), (s.isDatum = true ∧ v < 2 ^ 32 ∧ 2 ≤ bitsOf v 28 16 ∧ bitsOf v 28 16 ≤ 4096) ∧
      r = { s.mg.ring with cfg := bitsOf v 28 16 * 2 ^ 16 + v % 2 }) ∧
    (∃ (s : State) (v : _), s.isDatum = true ∧ v < 2 ^ 32 ∧ (bitsOf v 28 16 < 2 ∨ 4096 < bitsOf v 28 16)) ∧
    (∃ (s : State) (i : _) (v : _), s.isDatum = true ∧ i < 2 ∧ v < 2 ^ 32) ∧
    (∃ (s : State) (ofs : _), s.isDatum = true ∧ ((∀ q i, q < 4 → i ≤ 4 → ofs ≠ 0x100 + 0x20 * q + 4 * i)) ∧
      ofs ≠ 0x200 ∧ ofs ≠ 0x204 ∧ ofs ≠ 0x208 ∧ ofs ≠ 0x20C) :=
  ⟨⟨{ mgd with mg := { cache := [{ req := { origin := .udp 1, tag := 5 }, status := 0, rflags := 0, data := [] }] } },
    { origin := .udp 1, tag := 5 }, { req := { origin := .udp 1, tag := 5 }, status := 0, rflags := 0, data := [] },
    by decide +kernel⟩,
   ⟨{ mgd with mg := { reqs := [{ origin := .udp 1, tag := 5 }] } }, { origin := .udp 1, tag := 5 }, by decide +kernel⟩,
   ⟨mgd, { origin := .udp 1, tag := 5 }, { pkA with params := List.replicate 9121 0 }, by decide +kernel⟩,
   ⟨mgd, { origin := .udp 1, tag := 5 }, { pkA with flags := 4 }, by decide +kernel⟩,
   ⟨mgd, { origin := .fwd 1 2, tag := 5 }, pkA, by decide +kernel⟩,
   ⟨{ mgd.putCfg CL_CTRL_FWD_EN 1 with clpos := 15 }, 20060, by decide +kernel⟩,
   ⟨(mgd.putCfg CL_CTRL_FWD_EN 1).put (CL_BL_STAT_VAL 3) lsActive, 15, 7, _, pkA, _, by decide +kernel, rfl, rfl⟩,
   ⟨mgd, 15, by decide +kernel⟩,
   ⟨mgd, 20061, by decide +kernel⟩,
   ⟨mgd.put (CL_BL_STAT_VAL 3) lsActive, 3, by decide +kernel⟩,
   ⟨mgd.put (CL_BL_STAT_VAL 3) lsActive, 3, { entry := 0, dest := 15, key := 0, body := .request pkA }, by decide +kernel⟩,
   ⟨mgd.put (CL_BL_STAT_VAL 3) lsActive, 3, { entry := 1, dest := 0, key := 0, body := .request pkA }, pkA,
     by decide +kernel⟩,
   ⟨mgd.put (CL_BL_STAT_VAL 0) lsActive, 0,
     { entry := 1, dest := 0, key := 0, body := .reply (Reply.sealed { tag := 5, status := 0, rflags := 0, data := [], rcrc := 0 }) }, Reply.sealed { tag := 5, status := 0, rflags := 0, data := [], rcrc := 0 }, by decide +kernel⟩,
   ⟨mgd, 4, by decide +kernel⟩,
   ⟨{ dat with mg := { fwd := [(7, 5)] } }, 7, 5, by decide +kernel⟩,
   ⟨dat, 7, 5, by decide +kernel⟩,
   ⟨dat, by decide +kernel⟩,
   ⟨qd, 3, 0, [(64, 4096, pkA)], by decide +kernel⟩,
   ⟨qd, 3, 127, by decide +kernel⟩,
   ⟨mgd, 0, 0, by decide +kernel⟩,
   ⟨qd, 3, 1, [], by decide +kernel⟩,
   ⟨mgd, 3, 0x3F8001, _, by decide +kernel, rfl⟩,
   ⟨mgd, 3, 0x8101, by decide +kernel⟩,
   ⟨mgd, 3, 3, 0xFFFFFFFF, by decide +kernel⟩,
   ⟨mgd, 0x10000001, _, by decide +kernel, rfl⟩,
   ⟨mgd, 0x10010001, by decide +kernel⟩,
   ⟨mgd, 1, 0xFFFFFFFF, by decide +kernel⟩,
   ⟨mgd, 0x114, by decide +kernel, fun q i h1 h2 => by omega, by decide, by decide, by decide, by decide⟩⟩

/-- The hypotheses of Obligations.ManagementReadsComplete, clause by clause, are met together. -/
theorem test_witness_ManagementReadsComplete :
    (∃ (s : State) (t : State) (r : Req) (n : Nat) (m : Nat) (k : Nat) (e : Nat) (l : List Nat) (c : Instr),
      t = s.endCycle ∧ (s.turnOf r = false ∧ c ∈ [Instr.nop r, .read r n m, .platRead r n m, .readWide r n,
      .fbRead r n m k, .drList r, .drRead r n m k e, .safeStatus r, .ident r, .attest r l, .imgStatus r, .netcfg r n l,
      .armStatus r n, .leaseStatus r, .txnStatus r n])) ∧
    (∃ (s : State) (t : State) (r : Req) (n : Nat) (l : List Nat) (c : Instr), t = s.endCycle ∧ (s.starts r = true ∧
      s.role = .stake ∧ c ∈ [Instr.netcfg r n l, .armStatus r n, .leaseStatus r, .txnStatus r n])) ∧
    (∃ (s : State) (t : State) (r : Req) (n : Nat) (m : Nat) (k : Nat) (e : Nat) (l : List Nat) (c : Instr),
      t = s.endCycle ∧ (s.starts r = true ∧ s.mg.fw.recovery = true ∧ c ∈ [Instr.readWide r n, .fbRead r n m k,
      .drList r, .drRead r n m k e, .safeStatus r, .attest r l])) ∧
    (∃ (s : State) (t : State) (r : Req), t = s.endCycle ∧ s.starts r = true) ∧
    (∃ (s : State) (t : State) (r : Req) (src : _), t = s.endCycle ∧ (s.turnOf r = true ∧ s.mg.full.contains r = true ∧
      r.origin = .udp src ∧ (s.mg.cache.find? fun c => c.req = r) = none)) ∧
    (∃ (s : State) (t : State) (addr : Nat) (xs : List FSpec) (v : Nat), t = s.endCycle ∧ (s.addrStatus addr = stOk ∧
      0x10000 ≤ addr ∧ inMemory addr = false ∧ regFields addr = some xs) ∧
      (v = (xs.map fun x => (if x.acc = .wo ∨ s.unusedField x.fld = true then 0 else if x.cfg then s.shadow x.fld else s.view x.fld) % 2 ^ x.fld.width * 2 ^ x.fld.lo).sum)) ∧
    (∃ (s : State) (t : State) (x : FSpec), t = s.endCycle ∧ x.acc ≠ .rc) ∧
    (∃ (s : State) (t : State) (x : FSpec), t = s.endCycle ∧ (x.acc = .rc ∧ ¬ (0x20100 ≤ x.fld.addr ∧
      x.fld.addr < 0x20120) ∧ x.fld.addr ≠ FB_MERGED.addr ∧ x.fld.addr ≠ FB_LOST.addr)) ∧
    (∃ (s : State) (t : State) (item : _), t = s.endCycle ∧ (s.takesWrites = true ∧ s.running = true ∧ item < 65536)) ∧
    (∃ (s : State) (t : State) (r : Req) (item : _) (ws : _), t = s.endCycle ∧ (s.starts r = true ∧
      s.mg.fw.recovery = false ∧ item < 65536 ∧ (t.capture item).1 = some ws)) ∧
    (∃ (s : State) (t : State) (r : Req) (item : _), t = s.endCycle ∧ (s.starts r = true ∧ s.mg.fw.recovery = false ∧
      item < 65536 ∧ (t.capture item).1 = none)) ∧
    (∃ (s : State) (t : State) (r : Req) (space : _) (count : _) (first : _) (recs : _), t = s.endCycle ∧
      (s.starts r = true ∧ s.mg.fw.recovery = false) ∧ recs = (((List.range count).map fun i => ((first + i) % 2 ^ 32,
      t.fbSlot space ((first + i) % 2 ^ 32))).filter fun e => ofLe (slice e.2 8 4) = e.1 && e.2.getD 31 0 = 0xA5)) ∧
    (∃ (s : State) (t : State) (r : Req), t = s.endCycle ∧ (s.starts r = true ∧ s.mg.fw.recovery = false)) ∧
    (∃ (s : State) (t : State) (r : Req) (rnum : _) (i : _), t = s.endCycle ∧ (s.starts r = true ∧
      s.mg.fw.recovery = false ∧ rnum < 2 ^ 32 ∧ t.segOfRec rnum = some i)) ∧
    (∃ (s : State) (t : State) (r : Req) (rnum : _), t = s.endCycle ∧ (s.starts r = true ∧ s.mg.fw.recovery = false ∧
      rnum < 2 ^ 32 ∧ t.segOfRec rnum = none)) ∧
    (∃ (s : State) (t : State) (r : Req) (sel : Nat) (data : List Nat) (u : State), t = s.endCycle ∧ (s.starts r = true ∧
      s.mg.fw.recovery = false ∧ s.role = .datum) ∧
      (u = (if data = [] then t else ({ t with mg := { t.mg with net := kset t.mg.net sel data } } : State)))) ∧
    (∃ (s : State) (t : State) (r : Req), t = s.endCycle ∧ (s.starts r = true ∧ s.mg.fw.recovery = false ∧
      s.role = .datum)) ∧
    (∃ (s : State) (t : State) (r : Req) (id : _) (x : _), t = s.endCycle ∧ (s.starts r = true ∧
      s.mg.fw.recovery = false ∧ s.role = .datum ∧ ((t.mg.txns ++ t.mg.closed).find? fun t => t.id = id) = some x)) ∧
    (∃ (s : State) (t : State) (r : Req) (id : _), t = s.endCycle ∧ (s.starts r = true ∧ s.mg.fw.recovery = false ∧
      s.role = .datum ∧ ((t.mg.txns ++ t.mg.closed).find? fun t => t.id = id) = none)) :=
  ⟨⟨dat, _, { origin := .udp 0, tag := 0 }, 0, 0, 0, 0, [], .nop { origin := .udp 0, tag := 0 }, rfl, by decide +kernel⟩,
   ⟨mgs, _, { origin := .udp 0, tag := 0 }, 0, [], .leaseStatus { origin := .udp 0, tag := 0 }, rfl, by decide +kernel⟩,
   ⟨{ mgd with mg := { fw := { state := 1, recovery := true } } }, _, { origin := .udp 0, tag := 0 }, 0, 0, 0, 0, [],
     .drList { origin := .udp 0, tag := 0 }, rfl, by decide +kernel⟩,
   ⟨mgs, _, { origin := .udp 0, tag := 0 }, rfl, by decide +kernel⟩,
   ⟨{ mgd with mg := { mgd.mg with reqs := [{ origin := .udp 0, tag := 0 }], full := [{ origin := .udp 0, tag := 0 }] } }, _, { origin := .udp 0, tag := 0 }, 0, rfl, by decide +kernel⟩,
   ⟨mgd, _, 0x20000, (regFields 0x20000).getD [], _, rfl, by decide +kernel, rfl⟩,
   ⟨mgd, _, ⟨FB_MERGED, .rw, false, []⟩, rfl, by decide +kernel⟩,
   ⟨mgd, _, ⟨TW_MSG_CRC, .rc, false, []⟩, rfl, by decide +kernel⟩,
   ⟨mgs, _, 65535, rfl, by decide +kernel⟩,
   ⟨mgd, _, { origin := .udp 0, tag := 0 }, 0x0411, [0, 0, 0, 0, 0], rfl, by decide +kernel⟩,
   ⟨mgd, _, { origin := .udp 0, tag := 0 }, 65535, rfl, by decide +kernel⟩,
   ⟨mgd, _, { origin := .udp 0, tag := 0 }, 1, 64, 5, _, rfl, by decide +kernel, rfl⟩,
   ⟨mgs, _, { origin := .udp 0, tag := 0 }, rfl, by decide +kernel⟩,
   ⟨mgdRec, _, { origin := .udp 0, tag := 0 }, 0xFFFFFFFF, 0, rfl, by decide +kernel⟩,
   ⟨mgdRec, _, { origin := .udp 0, tag := 0 }, 0, rfl, by decide +kernel⟩,
   ⟨mgd, _, { origin := .udp 0, tag := 0 }, 3, [1], _, rfl, by decide +kernel, rfl⟩,
   ⟨mgd, _, { origin := .udp 0, tag := 0 }, rfl, by decide +kernel⟩,
   ⟨mgdTxn, _, { origin := .udp 0, tag := 0 }, 1, { id := 1, scope := 0, target := tgA }, rfl, by decide +kernel⟩,
   ⟨mgdTxn, _, { origin := .udp 0, tag := 0 }, 2, rfl, by decide +kernel⟩⟩

/-- The hypotheses of Obligations.ManagementWritesComplete, clause by clause, are met together. -/
theorem test_witness_ManagementWritesComplete :
    (∃ (s : State) (t : State) (r : Req) (n : Nat) (m : Nat) (k : Nat) (l : List Nat) (x : Option Nat) (c : Instr),
      t = s.endCycle ∧ (s.turnOf r = false ∧ c ∈ [Instr.write r x n l, .modify r x n m k, .strobe r n, .fbFreeze r n,
      .adcCal r n m, .gateTest r n m, .bypassFire r n, .loopSwap r n, .handover r, .join r, .resetWarm r n])) ∧
    (∃ (s : State) (t : State) (r : Req) (n : Nat) (m : Nat) (c : Instr), t = s.endCycle ∧ (s.starts r = true ∧
      ((s.role = .stake ∧ c ∈ [Instr.loopSwap r n, .handover r, .join r]) ∨ (s.role = .datum ∧ c ∈ [Instr.gateTest r n m,
      .bypassFire r n])))) ∧
    (∃ (s : State) (t : State) (r : Req) (n : Nat) (m : Nat) (k : Nat) (l : List Nat) (x : Option Nat) (c : Instr),
      t = s.endCycle ∧ (s.starts r = true ∧ s.mg.fw.recovery = true ∧ (c ∈ [Instr.write r x n l, .modify r x n m k,
      .strobe r n, .fbFreeze r n, .adcCal r n m, .resetWarm r n] ∨ (s.role = .datum ∧ c ∈ [Instr.loopSwap r n,
      .handover r, .join r]) ∨ (s.role = .stake ∧ c ∈ [Instr.gateTest r n m, .bypassFire r n])))) ∧
    (∃ (s : State) (t : State) (addr : _), t = s.endCycle ∧ addr % 4 ≠ 0) ∧
    (∃ (s : State) (t : State) (addr : _), t = s.endCycle ∧ (0x140000 ≤ addr ∧ inMemory addr = false)) ∧
    (∃ (s : State) (t : State) (addr : _), t = s.endCycle ∧ (addr % 4 = 0 ∧ 0x10000 ≤ addr ∧ addr < 0x140000 ∧
      s.hasBlock (addr / 0x10000) (addr % 0x10000) = false)) ∧
    (∃ (s : State) (t : State) (addr : Nat) (w : Nat) (xs : List FSpec) (x : FSpec) (v : Nat), t = s.endCycle ∧
      (s.addrStatus addr = stOk ∧ 0x10000 ≤ addr ∧ inMemory addr = false ∧ regFields addr = some xs ∧ x ∈ xs ∧
      x.acc ≠ .ro ∧ x.acc ≠ .rc ∧ s.ignores x = false ∧ x.legal ≠ [] ∧ v = w / 2 ^ x.fld.lo % 2 ^ x.fld.width ∧
      ((∀ p ∈ x.legal, v < p.1 ∨ p.2 < v)))) ∧
    (∃ (s : State) (t : State) (addr : Nat) (w : Nat) (xs : List FSpec) (x : FSpec) (l : Nat), t = s.endCycle ∧
      (s.addrStatus addr = stOk ∧ 0x10000 ≤ addr ∧ inMemory addr = false ∧ regFields addr = some xs ∧
      s.legalWord xs w = true ∧ x ∈ xs ∧ x.acc = .rwl l ∧ s.get ⟨SYS_LOCK_TIME.addr, l, 1, 0⟩ = 1 ∧ s.ignores x = false ∧
      (bor w (fixedBits addr) / 2 ^ x.fld.lo % 2 ^ x.fld.width ≠ (if x.cfg then s.shadow x.fld else s.get x.fld)))) ∧
    (∃ (s : State) (t : State) (addr : Nat) (w : Nat) (xs : List FSpec) (u : State), t = s.endCycle ∧
      (s.addrStatus addr = stOk ∧ 0x10000 ≤ addr ∧ inMemory addr = false ∧ regFields addr = some xs ∧
      s.legalWord xs w = true ∧ s.lockedWord xs (bor w (fixedBits addr)) = false ∧ addr / 0x10000 ≠ 0x0A ∧
      specialCommon addr xs (w % 2 ^ 32) = none ∧ specialDatum addr xs (w % 2 ^ 32) = none ∧
      specialStake addr xs (w % 2 ^ 32) = none) ∧
      u = xs.foldl (fun s x => s.storeField x (bor (w % 2 ^ 32) (fixedBits addr))) s) ∧
    (∃ (s : State) (t : State) (x : FSpec) (w : Nat) (v : Nat) (u : State), t = s.endCycle ∧ u = s.storeField x w ∧
      v = w / 2 ^ x.fld.lo % 2 ^ x.fld.width ∧ (x.acc = .ro ∨ x.acc = .rc ∨ x.acc = .wo ∨ s.ignores x = true)) ∧
    (∃ (s : State) (t : State) (x : FSpec) (w : Nat) (v : Nat) (u : State), t = s.endCycle ∧ u = s.storeField x w ∧
      v = w / 2 ^ x.fld.lo % 2 ^ x.fld.width ∧ s.ignores x = false ∧ (x.acc = .rw ∨ (∃ l, x.acc = .rwl l)) ∧
      x.cfg = false) ∧
    (∃ (s : State) (t : State) (x : FSpec) (w : Nat) (v : Nat) (u : State), t = s.endCycle ∧ u = s.storeField x w ∧
      v = w / 2 ^ x.fld.lo % 2 ^ x.fld.width ∧ s.ignores x = false ∧ (x.acc = .rw ∨ (∃ l, x.acc = .rwl l)) ∧ x.cfg = true) ∧
    (∃ (s : State) (t : State) (x : FSpec) (w : Nat) (v : Nat) (u : State), t = s.endCycle ∧ u = s.storeField x w ∧
      v = w / 2 ^ x.fld.lo % 2 ^ x.fld.width ∧ (s.ignores x = false ∧ x.cfg = false ∧ x.acc = .w1s)) ∧
    (∃ (s : State) (t : State) (x : FSpec) (w : Nat) (v : Nat) (u : State), t = s.endCycle ∧ u = s.storeField x w ∧
      v = w / 2 ^ x.fld.lo % 2 ^ x.fld.width ∧ (s.ignores x = false ∧ x.cfg = false ∧ x.acc = .w1c)) ∧
    (∃ (s : State) (t : State) (x : FSpec) (w : Nat) (v : Nat) (u : State), t = s.endCycle ∧ u = s.storeField x w ∧
      v = w / 2 ^ x.fld.lo % 2 ^ x.fld.width) ∧
    (∃ (s : State) (t : State) (x : FSpec) (w : Nat) (v : Nat) (u : State) (f : Fld), t = s.endCycle ∧
      u = s.storeField x w ∧ v = w / 2 ^ x.fld.lo % 2 ^ x.fld.width ∧ f.key ≠ x.fld.key) ∧
    (∃ (s : State) (t : State) (g : _), t = s.endCycle ∧ (g < 8 ∧ s.takesWrites = true)) ∧
    (∃ (s : State) (t : State) (g : _), t = s.endCycle ∧ s.groupOk g = true) ∧
    (∃ (s : State) (t : State) (g : _) (u : _), t = s.endCycle ∧ s.groupOk g = false ∧
      u = [(s.put TB_STAT_STROBE_REF 1).raise 17, s.raise 17, s.raise 80, (s.put GS_STAT_STROBE_REF 1).raise 114,
      (s.put AD_STAT_STROBE_REF 1).raise 138, (s.put SCH_STAT_STROBE_REF 1).raise 77,
      (s.put CF_STAT_STROBE_REF 1).raiseSpare CF_FSRC_CFG, (s.put TW_STAT_STROBE_REF 1).raise 168].getD g s) ∧
    (∃ (s : State) (t : State), t = s.endCycle ∧ kwf s.shd = true) ∧
    (∃ (s : State) (t : State) (g : Nat) (f : Fld), t = s.endCycle ∧ (kwf s.shd = true ∧ keyGroup f.key ≠ some g)) ∧
    (∃ (s : State) (t : State) (g : Nat) (f : Fld), t = s.endCycle ∧ (kwf s.shd = true ∧ keyGroup f.key = some g ∧
      (kget s.shd f.key).isSome = true)) ∧
    (∃ (s : State) (t : State) (r : Req), t = s.endCycle ∧ (s.starts r = true ∧ s.mg.fw.recovery = false)) ∧
    (∃ (s : State) (t : State) (r : Req) (addr : _) (mask : _) (v : _) (q : _), t = s.endCycle ∧ (s.starts r = true ∧
      s.mg.fw.recovery = false) ∧ q = t.modifyWord addr mask v) ∧
    (∃ (s : State) (t : State) (r : Req) (cal : _) (rot : _) (q : _) (q' : _), t = s.endCycle ∧ (s.starts r = true ∧
      s.mg.fw.recovery = false) ∧ q = wrCalStart cal t ∧ q' = wrRotStart rot q.2) ∧
    (∃ (s : State) (t : State) (r : Req) (sel : _) (ch : _) (q : _), t = s.endCycle ∧ (s.starts r = true ∧
      s.mg.fw.recovery = false ∧ s.role = .stake) ∧ q = wrTest sel ch t) ∧
    (∃ (s : State) (t : State) (r : Req) (v : State) (w : State), t = s.endCycle ∧ (s.starts r = true ∧
      s.mg.fw.recovery = false ∧ s.role = .stake) ∧
      v = ({ t with gs := { t.gs with armed := true, armAt := t.now } } : State).advance (t.now + 500) ∧
      w = { v with gs := { v.gs with armed := false } }) ∧
    (∃ (s : State) (t : State) (r : Req) (k : Nat) (a : Nat) (u : State), t = s.endCycle ∧ (s.starts r = true ∧
      s.mg.fw.recovery = false ∧ s.role = .datum) ∧ u = t.put LE_SWAP_TICK_TICK k ∧
      a = (u.get LE_SWAP_TICK_TICK + 2 ^ 32 - u.tb.tick % 2 ^ 32) % 2 ^ 32) ∧
    (∃ (s : State) (t : State) (r : Req), t = s.endCycle ∧ (s.starts r = true ∧ s.mg.fw.recovery = false ∧
      s.role = .datum)) ∧
    (∃ (s : State) (t : State) (r : Req), t = s.endCycle ∧ (s.starts r = true ∧ s.mg.fw.recovery = false ∧
      s.role = .datum ∧ (t.tw.hb = none ∨ t.on TW_STAT_HB_OK = false))) ∧
    (∃ (s : State) (t : State) (r : Req) (h : Heartbeat), t = s.endCycle ∧ (s.starts r = true ∧
      s.mg.fw.recovery = false ∧ s.role = .datum ∧ t.on TW_STAT_HB_OK = true ∧ t.tw.hb = some h)) ∧
    (∃ (s : State) (t : State) (m : _), t = s.endCycle ∧ (s.takesWrites = true ∧ m < 256)) ∧
    (∃ (s : State) (t : State) (m : _) (q : _), t = s.endCycle ∧ (s.takesWrites = true ∧ m < 2048) ∧ q = wrLock true m s) ∧
    (∃ (s : State) (t : State) (addr : Nat) (b : Bool) (u : State), t = s.endCycle ∧ s.running = true ∧
      u = { s with mg := { s.mg with parity := s.mg.parity.filter (· ≠ (addr, b)) ++ [(addr, b)] } }) ∧
    (∃ (s : State) (t : State), t = s.endCycle ∧ (s.running = true ∧
      (s.mg.fw.started = false ∨ s.mg.fw.load = false ∨ 2 ≤ s.get SH_STAT_STAGE))) ∧
    (∃ (s : State) (t : State) (ws : List (Nat × Nat)) (m : Nat) (st : AdoptStore) (a : State) (b : State) (u : State) (v : State), t = s.endCycle ∧ (s.running = true ∧ s.mg.fw.started = true ∧ s.mg.fw.load = true ∧ s.get SH_STAT_STAGE < 2 ∧ m < 2048) ∧ a = (ws.filter fun e => !s.actsLate e.1).foldl (fun s e => (s.writeWord e.1 e.2).2) (s.loadAdoption st) ∧ b = (a.strobe 255).2 ∧ u = (ws.filter fun e => s.actsLate e.1).foldl (fun s e => (s.writeWord e.1 e.2).2) b ∧ v = (wrLock true m (u.strobe 255).2).2) :=
  ⟨⟨dat, _, { origin := .udp 0, tag := 0 }, 0, 0, 0, [], none, .join { origin := .udp 0, tag := 0 }, rfl,
    by decide +kernel⟩,
   ⟨mgs, _, { origin := .udp 0, tag := 0 }, 0, 0, .join { origin := .udp 0, tag := 0 }, rfl, by decide +kernel⟩,
   ⟨{ mgd with mg := { fw := { state := 1, recovery := true } } }, _, { origin := .udp 0, tag := 0 }, 0, 0, 0, [], none,
     .strobe { origin := .udp 0, tag := 0 } 0, rfl, by decide +kernel⟩,
   ⟨mgd, _, 2, rfl, by decide +kernel⟩,
   ⟨mgd, _, 0x150000, rfl, by decide +kernel⟩,
   ⟨mgd, _, 0xB0000, rfl, by decide +kernel⟩,
   ⟨mgd, _, 0x20010, 0, (regFields 0x20010).getD [], ⟨WD_CFG_TMO, .rwl 9, false, [(1, 1000)]⟩, 0, rfl, by decide +kernel⟩,
   ⟨mgd.put SYS_LOCK_FAULT 1, _, 0x20010, 0x640001, (regFields 0x20010).getD [], ⟨WD_CFG_EN, .rwl 9, false, []⟩, 9, rfl,
     by decide +kernel⟩,
   ⟨mgd, _, 0x20000, 63, (regFields 0x20000).getD [], _, rfl, by decide +kernel, rfl⟩,
   ⟨mgd, _, ⟨FC_CTRL_VEC, .ro, false, []⟩, 63, _, _, rfl, rfl, rfl, by decide +kernel⟩,
   ⟨mgd, _, ⟨FC_CTRL_VEC, .rw, false, []⟩, 63, _, _, rfl, rfl, rfl, by decide +kernel, .inl rfl, rfl⟩,
   ⟨mgd, _, ⟨FC_CTRL_VEC, .rw, true, []⟩, 63, _, _, rfl, rfl, rfl, by decide +kernel, .inl rfl, rfl⟩,
   ⟨mgd, _, ⟨SYS_LOCK_TIME, .w1s, false, []⟩, 1, _, _, rfl, rfl, rfl, by decide +kernel⟩,
   ⟨mgd, _, ⟨SYS_LOCK_TIME, .w1c, false, []⟩, 1, _, _, rfl, rfl, rfl, by decide +kernel⟩,
   ⟨mgd, _, ⟨SYS_LOCK_TIME, .rw, false, []⟩, 1, _, _, rfl, rfl, rfl⟩,
   ⟨mgd, _, ⟨SYS_LOCK_TIME, .rw, false, []⟩, 1, _, _, FC_CTRL_VEC, rfl, rfl, rfl, by decide +kernel⟩,
   ⟨mgd, _, 7, rfl, by decide +kernel⟩,
   ⟨mgs, _, 1, rfl, by decide +kernel⟩,
   ⟨{ mgs with mg := { mgs.mg with parity := [(0x50000, true)] } }, _, 1, _, rfl, by decide +kernel, rfl⟩,
   ⟨mgd, _, rfl, by decide +kernel⟩,
   ⟨mgd, _, 7, FC_CTRL_VEC, rfl, by decide +kernel⟩,
   ⟨mgd.putShadow TB_PERIOD_PERIOD 5, _, 0, TB_PERIOD_PERIOD, rfl, by decide +kernel⟩,
   ⟨mgd, _, { origin := .udp 0, tag := 0 }, rfl, by decide +kernel⟩,
   ⟨mgd, _, { origin := .udp 0, tag := 0 }, 0xFFFFF, 1, 1, _, rfl, by decide +kernel, rfl⟩,
   ⟨mgd, _, { origin := .udp 0, tag := 0 }, 15, 3, _, _, rfl, by decide +kernel, rfl, rfl⟩,
   ⟨mgs, _, { origin := .udp 0, tag := 0 }, 6, 3, _, rfl, by decide +kernel, rfl⟩,
   ⟨mgs, _, { origin := .udp 0, tag := 0 }, _, _, rfl, by decide +kernel, rfl, rfl⟩,
   ⟨mgd, _, { origin := .udp 0, tag := 0 }, 2, _, _, rfl, by decide +kernel, rfl, rfl⟩,
   ⟨mgd, _, { origin := .udp 0, tag := 0 }, rfl, by decide +kernel⟩,
   ⟨mgd, _, { origin := .udp 0, tag := 0 }, rfl, by decide +kernel⟩,
   ⟨{ mgd.put TW_STAT_HB_OK 1 with tw := { hb := some hbA } }, _, { origin := .udp 0, tag := 0 }, hbA, rfl,
     by decide +kernel⟩,
   ⟨mgd, _, 255, rfl, by decide +kernel⟩,
   ⟨mgd, _, 2047, _, rfl, by decide +kernel, rfl⟩,
   ⟨mgd, _, 0, true, _, rfl, by decide +kernel, rfl⟩,
   ⟨mgd, _, rfl, by decide +kernel⟩,
   ⟨{ mgs with mg := { fw := { started := true } } }, _, [(0, 1)], 2047, { table := [], mine := none }, _, _, _, _, rfl,
     by decide +kernel, rfl, rfl, rfl, rfl⟩⟩

/-- The hypotheses of Obligations.TransactionsOfADatumComplete, clause by clause, are met together. -/
theorem test_witness_TransactionsOfADatumComplete :
    (∃ (s : State) (t : State) (r : Req) (n : Nat) (m : Nat) (b : Bool) (g : Target) (c : Instr), t = s.endCycle ∧
      (s.starts r = true ∧ s.role = .stake ∧ c ∈ [Instr.txnBegin r n g, .txnPrepare r n, .txnCommit r n b m,
      .txnRollback r n])) ∧
    (∃ (s : State) (t : State) (r : Req), t = s.endCycle ∧ (s.starts r = true ∧ s.mg.fw.recovery = false ∧
      s.role = .datum)) ∧
    (∃ (s : State) (t : State) (r : Req) (id : _) (addr : _) (ws : _) (q : _), t = s.endCycle ∧ (s.starts r = true ∧
      s.mg.fw.recovery = false ∧ s.role = .datum) ∧ q = t.txnWrites id addr ws) ∧
    (∃ (s : State) (t : State) (r : Req) (id : _) (addr : _) (mask : _) (v : _) (q : _), t = s.endCycle ∧
      (s.starts r = true ∧ s.mg.fw.recovery = false ∧ s.role = .datum) ∧ q = t.txnModify id addr mask v) ∧
    (∃ (s : State) (t : State) (r : Req) (id : _), t = s.endCycle ∧ (s.starts r = true ∧ s.mg.fw.recovery = false ∧
      s.role = .datum ∧ t.txn id = none)) ∧
    (∃ (s : State) (t : State) (r : Req) (id : _) (x : _), t = s.endCycle ∧ (s.starts r = true ∧
      s.mg.fw.recovery = false ∧ s.role = .datum ∧ t.txn id = some x ∧ x.scope = 0)) ∧
    (∃ (s : State) (t : State) (r : Req) (id : _) (x : _) (p : _) (y : _) (z : _) (k : _), t = s.endCycle ∧
      (s.starts r = true ∧ s.mg.fw.recovery = false ∧ s.role = .datum ∧ t.txn id = some x ∧ x.scope = 1) ∧
      p = sprepPacket x 0 ∧ z = sabortPacket x ∧
      y = { x with state := txCommitted, tick := k % 2 ^ 32, got := [], req := some r }) ∧
    (∃ (s : State) (t : State) (r : Req) (id : _), t = s.endCycle ∧ (s.starts r = true ∧ s.role = .datum ∧
      s.txn id = none)) ∧
    (∃ (s : State) (t : State) (r : Req) (id : _) (x : _), t = s.endCycle ∧ (s.starts r = true ∧ s.role = .datum ∧
      s.txn id = some x)) ∧
    (∃ (s : State) (t : State) (r : Req), t = s.endCycle ∧ (s.starts r = true ∧ s.role = .datum ∧
      s.on TB_STAT_TICK_RUN = true ∧ s.tb.started = true ∧ s.tb.cutDone = true)) ∧
    (∃ (s : State) (t : State) (r : Req), t = s.endCycle ∧ (s.starts r = true ∧ s.role = .datum ∧
      s.on TB_STAT_TICK_RUN = true ∧ s.tb.started = true ∧ s.tb.cutDone = false)) ∧
    (∃ (s : State) (t : State) (r : Req), t = s.endCycle ∧ (s.starts r = true ∧ s.role = .datum ∧
      s.on TB_STAT_TICK_RUN = true ∧ s.tb.started = true)) ∧
    (∃ (s : State) (t : State) (r : Req), t = s.endCycle ∧ (s.starts r = true ∧ s.role = .datum ∧
      (s.on TB_STAT_TICK_RUN = false ∨ s.tb.started = false))) :=
  ⟨⟨mgs, _, { origin := .udp 0, tag := 0 }, 0, 0, true, tgA, .txnCommit { origin := .udp 0, tag := 0 } 0 true 0, rfl,
    by decide +kernel⟩,
   ⟨mgd, _, { origin := .udp 0, tag := 0 }, rfl, by decide +kernel⟩,
   ⟨mgdTxn, _, { origin := .udp 0, tag := 0 }, 1, 0, [1], _, rfl, by decide +kernel, rfl⟩,
   ⟨mgdTxn, _, { origin := .udp 0, tag := 0 }, 1, 0, 1, 1, _, rfl, by decide +kernel, rfl⟩,
   ⟨mgdTxn, _, { origin := .udp 0, tag := 0 }, 2, rfl, by decide +kernel⟩,
   ⟨mgdTxn, _, { origin := .udp 0, tag := 0 }, 1, { id := 1, scope := 0, target := tgA }, rfl, by decide +kernel⟩,
   ⟨mgdStk txOpen, _, { origin := .udp 0, tag := 0 }, 1, { id := 1, scope := 1, target := tgA, state := txOpen }, _, _,
     _, 5, rfl, by decide +kernel, rfl, rfl, rfl⟩,
   ⟨mgd, _, { origin := .udp 0, tag := 0 }, 1, rfl, by decide +kernel⟩,
   ⟨mgdTxn, _, { origin := .udp 0, tag := 0 }, 1, { id := 1, scope := 0, target := tgA }, rfl, by decide +kernel⟩,
   ⟨{ tickStk 0 with tb := { (tickStk 0).tb with cutDone := true } }, _, { origin := .udp 0, tag := 0 }, rfl,
     by decide +kernel⟩,
   ⟨tickStk 0, _, { origin := .udp 0, tag := 0 }, rfl, by decide +kernel⟩,
   ⟨tickStk 0, _, { origin := .udp 0, tag := 0 }, rfl, by decide +kernel⟩,
   ⟨mgd, _, { origin := .udp 0, tag := 0 }, rfl, by decide +kernel⟩⟩

/-- The hypotheses of Obligations.TransactionsOfAStakeComplete, clause by clause, are met together. -/
theorem test_witness_TransactionsOfAStakeComplete :
    (∃ (s : State) (t : State) (r : Req) (n : Nat) (m : Nat) (b : Bool) (l : List (Nat × Nat)) (c : Instr),
      t = s.endCycle ∧ (s.starts r = true ∧ s.role = .datum ∧ c ∈ [Instr.txnSprep r n m b l, .txnScommit r n m,
      .txnSabort r n])) ∧
    (∃ (s : State) (t : State) (r : Req), t = s.endCycle ∧ (s.starts r = true ∧ s.mg.fw.recovery = false ∧
      s.role = .stake)) ∧
    (∃ (s : State) (t : State) (r : Req), t = s.endCycle ∧ (s.starts r = true ∧ s.mg.fw.recovery = false ∧
      s.role = .stake ∧ t.mg.held = none)) ∧
    (∃ (s : State) (t : State) (r : Req) (h : Held), t = s.endCycle ∧ (s.starts r = true ∧ s.mg.fw.recovery = false ∧
      s.role = .stake ∧ t.mg.held = some h ∧ h.ready = true)) ∧
    (∃ (s : State) (t : State) (r : Req) (h : Held) (u : State), t = s.endCycle ∧ (s.starts r = true ∧
      s.mg.fw.recovery = false ∧ s.role = .stake ∧ t.mg.held = some h ∧ h.ready = false) ∧
      u = { t with mg := { t.mg with held := none } }) ∧
    (∃ (s : State) (t : State) (r : Req) (h : Held) (u : State), t = s.endCycle ∧ (s.starts r = true ∧
      s.mg.fw.recovery = false ∧ s.role = .stake ∧ t.mg.held = some h) ∧ u = { t with mg := { t.mg with held := none } }) ∧
    (∃ (s : State) (t : State) (r : Req) (h : Held) (k : Nat) (u : State), t = s.endCycle ∧ (s.starts r = true ∧
      s.role = .stake ∧ s.mg.held = some h ∧ h.tick = some k) ∧ u = { s with mg := { s.mg with held := none } }) ∧
    (∃ (s : State) (t : State) (r : Req) (h : Held) (w : State) (u : State) (ws : KMap Nat), t = s.endCycle ∧
      (s.starts r = true ∧ s.role = .stake) ∧ ws = h.writes.filter (fun e => !w.lockedWord (cfgFields e.1) e.2) ∧
      u = { w with mg := { w.mg with held := none } }) ∧
    (∃ (s : State) (t : State) (r : Req) (h : Held), t = s.endCycle ∧ (s.starts r = true ∧ s.role = .stake ∧
      s.mg.held = some h)) ∧
    (∃ (s : State) (t : State) (r : Req) (h : Held), t = s.endCycle ∧ (s.starts r = true ∧ s.role = .stake ∧
      s.mg.held = some h ∧ h.tick = none)) ∧
    (∃ (s : State) (t : State) (r : Req), t = s.endCycle ∧ (s.starts r = true ∧ s.role = .stake ∧ s.mg.held = none)) :=
  ⟨⟨mgd, _, { origin := .udp 0, tag := 0 }, 0, 0, true, [], .txnSprep { origin := .udp 0, tag := 0 } 0 0 true [], rfl,
    by decide +kernel⟩,
   ⟨mgs, _, { origin := .udp 0, tag := 0 }, rfl, by decide +kernel⟩,
   ⟨mgs, _, { origin := .udp 0, tag := 0 }, rfl, by decide +kernel⟩,
   ⟨heldStk none, _, { origin := .udp 0, tag := 0 }, { txid := 1, total := 0, ready := true }, rfl, by decide +kernel⟩,
   ⟨{ mgs with mg := { mgs.mg with held := some { txid := 1, total := 2 } } }, _, { origin := .udp 0, tag := 0 },
     { txid := 1, total := 2 }, _, rfl, by decide +kernel, rfl⟩,
   ⟨heldStk none, _, { origin := .udp 0, tag := 0 }, { txid := 1, total := 0, ready := true }, _, rfl, by decide +kernel,
     rfl⟩,
   ⟨(heldStk (some 0)).put TB_STAT_TICK_LOCK 1, _, { origin := .udp 0, tag := 0 },
     { txid := 1, total := 0, ready := true, tick := some 0 }, 0, _, rfl, by decide +kernel, rfl⟩,
   ⟨mgs, _, { origin := .udp 0, tag := 0 }, { txid := 1, total := 0, ready := true, tick := some 0 }, stk, _, _, rfl,
     by decide +kernel, rfl, rfl⟩,
   ⟨heldStk none, _, { origin := .udp 0, tag := 0 }, { txid := 1, total := 0, ready := true }, rfl, by decide +kernel⟩,
   ⟨heldStk none, _, { origin := .udp 0, tag := 0 }, { txid := 1, total := 0, ready := true }, rfl, by decide +kernel⟩,
   ⟨mgs, _, { origin := .udp 0, tag := 0 }, rfl, by decide +kernel⟩⟩

/-- The hypotheses of Obligations.RelaysAndAdoptionComplete, clause by clause, are met together. -/
theorem test_witness_RelaysAndAdoptionComplete :
    (∃ (s : State) (t : State) (r : Req) (n : Nat) (g : Target) (k : Packet) (c : Instr), t = s.endCycle ∧
      (s.starts r = true ∧ s.role = .stake ∧ c ∈ [Instr.relay r g k, .chainScan r n, .relayFlush r n])) ∧
    (∃ (s : State) (t : State) (r : Req), t = s.endCycle ∧ (s.starts r = true ∧ s.role = .stake ∧ s.adoptWaits r = false)) ∧
    (∃ (s : State) (t : State) (r : Req), t = s.endCycle ∧ (s.starts r = true ∧ s.mg.fw.recovery = true ∧
      (s.role = .datum ∨ (s.role = .stake ∧ s.adoptWaits r = true)))) ∧
    (∃ (s : State) (t : State) (r : Req), t = s.endCycle ∧ (s.starts r = true ∧ s.mg.fw.recovery = false ∧
      s.role = .datum)) ∧
    (∃ (s : State) (t : State) (r : Req) (p : _) (slot : _) (a : _) (idx : _) (k : _), t = s.endCycle ∧
      (s.starts r = true ∧ s.mg.fw.recovery = false ∧ s.role = .datum) ∧
      k = adoptPacket false p slot a idx (t.tableAt p slot)) ∧
    (∃ (s : State) (t : State) (r : Req), t = s.endCycle ∧ (s.starts r = true ∧ s.role = .datum)) ∧
    (∃ (s : State) (t : State) (r : Req) (slot : Nat) (a : Nat) (idx : Nat) (u : State) (same : Bool), t = s.endCycle ∧
      (s.starts r = true ∧ s.mg.fw.recovery = false ∧ s.role = .stake ∧ s.adoptWaits r = true) ∧
      same = t.mg.mine.any (fun m => m.2 = (slot, a, idx)) ∧
      u = { t with mg := { t.mg with mine := some (reqDatum r, slot, a, idx) } }) :=
  ⟨⟨mgs, _, { origin := .udp 0, tag := 0 }, 0, tgA, pkA, .relayFlush { origin := .udp 0, tag := 0 } 0, rfl,
    by decide +kernel⟩,
   ⟨mgs, _, { origin := .udp 0, tag := 0 }, rfl, by decide +kernel⟩,
   ⟨{ mgd with mg := { fw := { state := 1, recovery := true } } }, _, { origin := .udp 0, tag := 0 }, rfl,
     by decide +kernel⟩,
   ⟨mgd, _, { origin := .udp 0, tag := 0 }, rfl, by decide +kernel⟩,
   ⟨mgd, _, { origin := .udp 0, tag := 0 }, 15, 63, 5, 1023, _, rfl, by decide +kernel, rfl⟩,
   ⟨mgd, _, { origin := .udp 0, tag := 0 }, rfl, by decide +kernel⟩,
   ⟨{ mgs with ports := [(0, { messages := [{ src := 0, msgId := 3, nextSeg := 0, sender := 0, seq := 0, bytes := adoptPacket false 0 0 0 0 0 }] })] }, _, { origin := .relay 0 0 3, tag := 0 }, 63, 5, 1023, _, _, rfl, by decide +kernel, rfl, rfl⟩⟩

/-- The hypotheses of Obligations.ImagesComplete, clause by clause, are met together. -/
theorem test_witness_ImagesComplete :
    (∃ (s : State) (t : State) (r : Req) (target : _), t = s.endCycle ∧ (s.starts r = true ∧ t.imgTarget target = none)) ∧
    (∃ (s : State) (t : State) (r : Req) (target : Nat) (len : Nat) (i : Nat) (u : State), t = s.endCycle ∧
      (s.starts r = true ∧ t.imgTarget target = some i) ∧
      (u = (if 2 ≤ i then t.idleWritten else t).setImage i { len := len })) ∧
    (∃ (s : State) (t : State) (r : Req), t = s.endCycle ∧ (s.starts r = true ∧ t.mg.fw.opened = none)) ∧
    (∃ (s : State) (t : State) (r : Req) (i : Nat), t = s.endCycle ∧ (s.starts r = true ∧ t.mg.fw.opened = some i)) ∧
    (∃ (s : State) (t : State) (r : Req) (i : Nat) (u : State) (data : List Nat), t = s.endCycle ∧ (s.starts r = true ∧
      t.mg.fw.opened = some i) ∧ u = t.used.setImage i { t.image i with checked := true } ∧
      data = (t.image i).man ++ le 4 (t.free (2 ^ 32 - 1))) ∧
    (∃ (s : State) (t : State) (r : Req) (i : Nat) (u : State) (v : State) (w : State), t = s.endCycle ∧
      s.starts r = true ∧ i = 1 - t.mg.fw.active ∧ u = t.status r stOk ∧
      v = u.notStarted.foldl (fun s q => s.status q stBusy) u ∧ w = { v with mg := { v.mg with cache := [] } }) ∧
    (∃ (s : State) (t : State), t = s.endCycle ∧ s.running = true) ∧
    (∃ (s : State) (t : State) (u : State), t = s.endCycle ∧ s.running = true ∧
      u = (s.setFw { s.mg.fw with state := 0, active := 1 - s.mg.fw.active, started := false, opened := none }).raise 197) ∧
    (∃ (s : State) (t : State), t = s.endCycle ∧ (s.running = true ∧
      (s.mg.fw.started = true ∨ s.mg.fw.recovery = true ∨ (s.mg.fw.state ≠ 0 ∧ s.mg.fw.state ≠ 3)))) ∧
    (∃ (s : State) (t : State) (a : List Nat) (b : List Nat) (u : State) (i : Nat) (bytes : Nat → List Nat),
      t = s.endCycle ∧ (s.running = true ∧ s.mg.fw.started = false ∧ s.mg.fw.recovery = false) ∧
      (bytes = (fun j => if j = 0 then a else b)) ∧
      u = (s.setImage 0 { s.image 0 with bytes := a, len := a.length }).setImage 1 { s.image 1 with bytes := b, len := b.length } ∧ (s.mg.fw.state = 3 ∧ i = s.mg.fw.active)) ∧
    (∃ (s : State) (t : State) (h : List Nat) (a : List Nat) (b : List Nat) (u : State) (i : Nat) (bytes : Nat → List Nat), t = s.endCycle ∧ (s.running = true ∧ s.mg.fw.started = false ∧ s.mg.fw.recovery = false) ∧ (bytes = (fun j => if j = 0 then a else b)) ∧ u = (s.setImage 0 { s.image 0 with bytes := a, len := a.length }).setImage 1 { s.image 1 with bytes := b, len := b.length } ∧ (s.mg.fw.state = 0 ∧ (i = (if s.mg.fw.load = true then h.getD 7 0 % 2 else s.mg.fw.active)))) :=
  ⟨⟨mgs, _, { origin := .udp 0, tag := 0 }, 1, rfl, by decide +kernel⟩,
   ⟨mgd, _, { origin := .udp 0, tag := 0 }, 1, 64 + bankSize, 3, _, rfl, by decide +kernel, rfl⟩,
   ⟨mgd, _, { origin := .udp 0, tag := 0 }, rfl, by decide +kernel⟩,
   ⟨{ mgd with mg := { fw := { state := 1, opened := some 3, image := [(3, { len := 100 })] } } }, _,
     { origin := .udp 0, tag := 0 }, 3, rfl, by decide +kernel⟩,
   ⟨{ mgd with mg := { fw := { state := 1, opened := some 3 } } }, _, { origin := .udp 0, tag := 0 }, 3, _, _, rfl,
     by decide +kernel, rfl, rfl⟩,
   ⟨mgd, _, { origin := .udp 0, tag := 0 }, _, _, _, _, rfl, by decide +kernel, rfl, rfl, rfl, rfl⟩,
   ⟨mgd, _, rfl, by decide +kernel⟩,
   ⟨mgd, _, _, rfl, by decide +kernel, rfl⟩,
   ⟨mgd, _, rfl, by decide +kernel⟩,
   ⟨{ mgd with mg := { fw := { state := 3 } } }, _, [], [], _, 0, _, rfl, by decide +kernel, rfl, rfl, by decide +kernel⟩,
   ⟨dat, _, [], [], [], _, 0, _, rfl, by decide +kernel, rfl, rfl, by decide +kernel⟩⟩

/-- The hypotheses of Obligations.ClusterCommandsComplete, clause by clause, are met together. -/
theorem test_witness_ClusterCommandsComplete :
    (∃ (s : State) (d : _), s.isDatum = true ∧ (4 ≤ d ∨ s.lstate (17 + d) ≠ lsActive)) ∧
    (∃ (s : State) (d : _), s.isDatum = true ∧ d < 4 ∧ s.lstate (17 + d) = lsActive) ∧
    (∃ (s : State) (d : Nat) (m : TickAlign) (at' : Nat) (x : Int) (u : State), (s.isDatum = true ∧ d < 4 ∧
      s.lstate (17 + d) = lsActive) ∧ x = (at' : Int) - m.txofs - s.get (CL_BL_LINKDLY_VAL d) ∧
      u = { s with cl := { s.cl with nb := kset s.cl.nb d { msg := m, start := x.toNat } } } ∧ s.clpos = 0) ∧
    (∃ (s : State) (d : Nat) (m : TickAlign) (at' : Nat) (x : Int) (u : State), (s.isDatum = true ∧ d < 4 ∧
      s.lstate (17 + d) = lsActive) ∧ x = (at' : Int) - m.txofs - s.get (CL_BL_LINKDLY_VAL d) ∧
      u = { s with cl := { s.cl with nb := kset s.cl.nb d { msg := m, start := x.toNat } } } ∧ (s.clpos ≠ 0 ∧
      u.parent = none)) ∧
    (∃ (s : State) (d : Nat) (m : TickAlign) (at' : Nat) (x : Int) (u : State) (e : _) (depth : _) (good : _),
      (s.isDatum = true ∧ d < 4 ∧ s.lstate (17 + d) = lsActive) ∧
      x = (at' : Int) - m.txofs - s.get (CL_BL_LINKDLY_VAL d) ∧
      u = { s with cl := { s.cl with nb := kset s.cl.nb d { msg := m, start := x.toNat } } } ∧ (s.clpos ≠ 0 ∧
      u.parent = some (e, depth, good))) ∧
    (∃ (s : State), s.isDatum = true) ∧
    (∃ (s : State) (x : _) (start : _) (k : _) (j : _), (s.isDatum = true ∧ s.cl.rephase = some (x, k) ∧
      start = x / 32) ∧ (j = (if s.now < start ∨ s.tb.period = 0 then 0 else (s.now - start) / s.tb.period + 1))) ∧
    (∃ (s : State), s.isDatum = true ∧ s.cl.rephase = none) ∧
    (∃ (s : State) (d : Nat) (base : Nat), (s.isDatum = true ∧ d < 4 ∧ s.lstate (17 + d) = lsActive) ∧
      base = loopDataBase + s.cfg (CL_VRX_ADDR d) / 128 * 128) :=
  ⟨⟨dat, 4, by decide +kernel⟩,
   ⟨dat.put (CL_BL_STAT_VAL 3) lsActive, 3, by decide +kernel⟩,
   ⟨dat.put (CL_BL_STAT_VAL 3) lsActive, 3, taA, 1000000, _, _, by decide +kernel, rfl, rfl, by decide +kernel⟩,
   ⟨{ follows with cl := {} }, 3, { taA with aligned := false }, 1000000, _, _, by decide +kernel, rfl, rfl,
     by decide +kernel⟩,
   ⟨follows, 3, taA, 1000000, _, _, 3, 0, true, by decide +kernel, rfl, rfl, by decide +kernel⟩,
   ⟨dat, by decide +kernel⟩,
   ⟨{ dat with cl := { rephase := some (64001, 7) } }, 64001, 2000, 7, _, by decide +kernel, rfl⟩,
   ⟨dat, by decide +kernel⟩,
   ⟨dat.put (CL_BL_STAT_VAL 3) lsActive, 3, _, by decide +kernel, rfl⟩⟩

/-- The hypotheses of Obligations.ResetsComplete, clause by clause, are met together. -/
theorem test_witness_ResetsComplete :
    (∃ (s : State) (ph : Phase) (t : State), t = s.powerReset ph) ∧
    (∃ (s : State) (ph : Phase) (t : State) (f : Fld), t = s.powerReset ph ∧ (f.key ≠ FB_TAILHEAD_SEQ.key ∧
      f.key ≠ SH_S4.key ∧ f.key ≠ SH_S4_OVF.key ∧ f.key ≠ SH_STAT_S4_LAST.key)) ∧
    (∃ (s : State) (ph : Phase) (t : State), t = s.powerReset ph ∧ ph = .porn) ∧
    (∃ (s : State) (st : _) (m : _) (u : _), (s.phase = .porn ∨ s.phase = .supply) ∧ u = s.takeStraps st m ∧ st % 4 = 0) ∧
    (∃ (s : State) (st : _) (m : _) (u : _), (s.phase = .porn ∨ s.phase = .supply) ∧ u = s.takeStraps st m ∧ st % 4 = 1) ∧
    (∃ (s : State) (st : _) (m : _) (u : _), (s.phase = .porn ∨ s.phase = .supply) ∧ u = s.takeStraps st m ∧ 2 ≤ st % 4) ∧
    (∃ (s : State), s.phase ≠ .porn ∧ s.phase ≠ .supply) ∧
    (∃ (s : State), s.running = true) ∧
    (∃ (s : State) (st : _) (i : _) (u : _), s.phase = .shed ∧ u = s.release st s.monument i) ∧
    (∃ (s : State), s.phase ≠ .shed) :=
  ⟨⟨dat, .shed, _, rfl⟩,
   ⟨dat, .shed, _, TXN_CFG_LEAD, rfl, by decide +kernel⟩,
   ⟨dat, .porn, _, rfl, by decide +kernel⟩,
   ⟨State.reset, 0, 5, _, by decide +kernel, rfl, by decide +kernel⟩,
   ⟨{ State.reset with phase := .supply }, 0x3D, 5, _, by decide +kernel, rfl, by decide +kernel⟩,
   ⟨State.reset, 3, 5, _, by decide +kernel, rfl, by decide +kernel⟩,
   ⟨dat, by decide +kernel⟩,
   ⟨stk.put SH_STAT_STAGE 4, by decide +kernel⟩,
   ⟨{ State.reset with phase := .shed }, 0, 0, _, by decide +kernel, rfl⟩,
   ⟨dat, by decide +kernel⟩⟩

/-- The hypotheses of Obligations.SuppliesAndSheddingComplete, clause by clause, are met together. -/
theorem test_witness_SuppliesAndSheddingComplete :
    (∃ (s : State), s.running = true) ∧
    (∃ (s : State) (w : Int), s.running = true ∧ w = 16 * toSigned 8 (s.cfg SH_TEMP_WARN)) ∧
    (∃ (s : State) (n : _) (mv : _) (r : _), s.running = true ∧ r = min n (s.stageFor mv) - s.get SH_STAT_STAGE) ∧
    (∃ (s : State) (v : State) (u : State), s.running = true ∧ u = v.put SH_STAT_HOLDING 0 ∧ u.get SH_STAT_STAGE = 0) ∧
    (∃ (s : State) (v : State) (u : State), s.running = true ∧ u = v.put SH_STAT_HOLDING 0 ∧ u.get SH_STAT_STAGE = 1) ∧
    (∃ (s : State) (v : State) (u : State), s.running = true ∧ u = v.put SH_STAT_HOLDING 0 ∧ u.get SH_STAT_STAGE = 2) ∧
    (∃ (s : State) (v : State) (u : State), s.running = true ∧ u = v.put SH_STAT_HOLDING 0 ∧ u.get SH_STAT_STAGE = 3) ∧
    (∃ (s : State), s.running = true ∧ (s.get SH_STAT_STAGE = 0 ∨ 4 ≤ s.get SH_STAT_STAGE)) ∧
    (∃ (s : State) (mv : Nat) (g : Nat) (u : State), (s.running = true ∧ s.get SH_STAT_STAGE = g + 1 ∧ g < 3) ∧
      u = (s.setStage g mv false).showHolding mv) ∧
    (∃ (s : State) (g : Nat), s.running = true ∧ g = s.get SH_STAT_STAGE) ∧
    (∃ (s : State) (u : _), s.running = true ∧ u = (s.put FC_STAT_WD_EXP 1).raise 0) :=
  ⟨⟨stk, by decide +kernel⟩,
   ⟨stk, _, by decide +kernel, rfl⟩,
   ⟨stk, 4, 0, _, by decide +kernel, rfl⟩,
   ⟨stk, dat, _, by decide +kernel, rfl, by decide +kernel⟩,
   ⟨stk, dat.put SH_STAT_STAGE 1, _, by decide +kernel, rfl, by decide +kernel⟩,
   ⟨stk, dat.put SH_STAT_STAGE 2, _, by decide +kernel, rfl, by decide +kernel⟩,
   ⟨stk, stk.put SH_STAT_STAGE 3, _, by decide +kernel, rfl, by decide +kernel⟩,
   ⟨stk, by decide +kernel⟩,
   ⟨stk.put SH_STAT_STAGE 3, 65535, 2, _, by decide +kernel, rfl⟩,
   ⟨stk, _, by decide +kernel, rfl⟩,
   ⟨stk, _, by decide +kernel, rfl⟩⟩

end Sys2Proof.Tests
end

section
/-! Serial arithmetic (R13): the difference of two values modulo 2^w, and when one is newer than the other. -/

namespace Sys2Proof

/-- The difference of two values below the modulus `m`: it wraps once when the subtrahend is the larger. -/
theorem add_sub_mod_eq_ite {m a b : Nat} (ha : a < m) (hb : b < m) :
    (b + m - a) % m = if a ≤ b then b - a else b + m - a := by
  split
  · have hwrap : b + m - a = b - a + m := by omega
    rw [hwrap, Nat.add_mod_right, Nat.mod_eq_of_lt (by omega)]
  · exact Nat.mod_eq_of_lt (by omega)

theorem add_sub_mod_eq_zero_iff {m a b : Nat} (ha : a < m) (hb : b < m) : (b + m - a) % m = 0 ↔ b = a := by
  rw [add_sub_mod_eq_ite ha hb]
  split <;> omega

/-- The two differences of unequal values add up to the modulus. -/
theorem add_sub_mod_add_add_sub_mod {m a b : Nat} (ha : a < m) (hb : b < m) (hne : b ≠ a) :
    (b + m - a) % m + (a + m - b) % m = m := by
  rw [add_sub_mod_eq_ite ha hb, add_sub_mod_eq_ite hb ha]
  rcases Nat.lt_or_gt_of_ne hne with h | h
  · rw [if_neg (by omega), if_pos (Nat.le_of_lt h)]; omega
  · rw [if_pos (Nat.le_of_lt h), if_neg (by omega)]; omega

/-- `isNewer` on values of its width: their difference lies strictly between 0 and half the range (R13). -/
theorem isNewer_iff {w a b : Nat} (ha : a < 2 ^ w) (hb : b < 2 ^ w) :
    isNewer w b a = true ↔ 1 ≤ (b + 2 ^ w - a) % 2 ^ w ∧ (b + 2 ^ w - a) % 2 ^ w < 2 ^ (w - 1) := by
  simp [isNewer, Nat.mod_eq_of_lt ha, Nat.mod_eq_of_lt hb]

/-- Of two values at most one is newer: the two differences add up to the range, so both cannot lie below its half. -/
theorem isNewer_asymm {w a b : Nat} (hw : 1 ≤ w) (ha : a < 2 ^ w) (hb : b < 2 ^ w) (h : isNewer w b a = true) :
    isNewer w a b = false := by
  obtain ⟨hpos, hlt⟩ := (isNewer_iff ha hb).mp h
  have hne : b ≠ a := fun e => by
    have := (add_sub_mod_eq_zero_iff ha hb).mpr e
    omega
  have hsum := add_sub_mod_add_add_sub_mod ha hb hne
  have hhalf : 2 ^ (w - 1) * 2 = 2 ^ w := Nat.two_pow_pred_mul_two hw
  rw [Bool.eq_false_iff, ne_eq, isNewer_iff hb ha]
  omega

/-- Settles O12: `isNewer` is the range of R13, the difference 2^(w-1) lies outside it, and by `isNewer_asymm` the order is
never both ways. -/
theorem serialArithmetic : Obligations.SerialArithmetic := by
  unfold Obligations.SerialArithmetic
  rintro w a b d hw ha hb rfl
  have hhalf : 0 < 2 ^ (w - 1) := Nat.two_pow_pos _
  refine ⟨?_, add_sub_mod_eq_zero_iff ha hb, ?_, isNewer_asymm hw ha hb⟩
  · rw [isNewer_iff ha hb, Nat.le_sub_one_iff_lt hhalf]
  · intro hd
    rw [Bool.eq_false_iff, ne_eq, isNewer_iff ha hb, hd]
    exact fun ⟨_, hlt⟩ => Nat.lt_irrefl _ hlt

end Sys2Proof
end

section
/-! The release of reset (R1): the straps set the role, and nothing after them in the release changes it. -/

namespace Sys2Proof.Machine

theorem State.takeStraps_role (s : State) (straps m : Nat) : (s.takeStraps straps m).role = roleOf straps := by
  simp only [State.takeStraps, State.put_role, roleOf, bitsOf]
  have h : straps % 4 = 0 ∨ straps % 4 = 1 ∨ straps % 4 = 2 ∨ straps % 4 = 3 := by omega
  rcases h with h | h | h | h <;> simp [h]

/-- The rest of a release keeps the role that the straps gave. -/
theorem State.release_role (s : State) (straps m i : Nat) : (s.release straps m i).role = roleOf straps := by
  rw [← State.takeStraps_role s straps m]
  unfold State.release
  extract_lets s1
  split
  · rfl
  · exact (State.startDatum_keeps (State.takeRetained_keeps (Keeps.rfl' true s1)) i).role
  · exact (State.startStake_keeps (State.takeRetained_keeps (Keeps.rfl' true s1))).role

/-- The three rows of the table of R1. -/
theorem roleOf_rows (straps : Nat) :
    (straps % 4 = 0 → roleOf straps = .stake) ∧ (straps % 4 = 1 → roleOf straps = .datum) ∧
      (2 ≤ straps % 4 → roleOf straps = .reserved) := by
  unfold roleOf
  refine ⟨fun h => if_pos h, fun h => ?_, fun h => ?_⟩
  · rw [if_neg (by omega), if_pos h]
  · rw [if_neg (by omega), if_neg (by omega)]

/-- A device that PORn or the reset of a failed supply holds is released with the role of its straps. -/
theorem execResetRelease_role {s : State} (h : s.phase = .porn ∨ s.phase = .supply) (straps m i : Nat) :
    ∃ t, execResetRelease straps m i s = .next t ∧ t.role = roleOf straps := by
  refine ⟨s.release straps m i, ?_, State.release_role s straps m i⟩
  simp [execResetRelease, h]

/-- The end of the S4 reset gives the role of the straps too; the event that it raises leaves the role. -/
theorem execShedResetRelease_role {s : State} (h : s.phase = .shed) (straps i : Nat) :
    ∃ t, execShedResetRelease straps i s = .next t ∧ t.role = roleOf straps := by
  refine ⟨_, rfl, ?_⟩
  have hrel := State.release_role s straps s.monument i
  rw [if_pos h]
  extract_lets s1
  split
  · exact (State.raise_keeps (Keeps.rfl' true s1) 31).role.trans hrel
  · exact hrel

/-- Settles O14: each kind of release gives the role of the straps, which is the table of R1 row by row. -/
theorem roleFromStraps : Obligations.RoleFromStraps := by
  unfold Obligations.RoleFromStraps
  intro s straps m i
  constructor
  · intro h
    obtain ⟨t, hexec, hrole⟩ := execResetRelease_role h straps m i
    exact ⟨t, by rw [exec_resetRelease, hexec], hrole ▸ roleOf_rows straps⟩
  · intro h
    obtain ⟨t, hexec, hrole⟩ := execShedResetRelease_role h straps i
    exact ⟨t, by rw [exec_shedResetRelease, hexec], hrole ▸ roleOf_rows straps⟩

end Sys2Proof.Machine
end

section
/-! The key of a report (R129, R131): the adjusted voltage code in bits 31:10, the index within the arm in bits 9:0. -/

namespace Sys2Proof

/-- An inserted Stake of a charging arm: the band counts down from its code, and the subtraction ends at 0. -/
theorem adjusted_charging {r : TeleSlot} (h : r.ins = true) (hold : Nat) :
    adjusted r false hold = min 0x3FFFFE (r.vcode - hold) := by
  simp [adjusted, h]

theorem adjusted_discharging {r : TeleSlot} (h : r.ins = true) (hold : Nat) :
    adjusted r true hold = min 0x3FFFFE (r.vcode + hold) := by
  simp [adjusted, h]

theorem adjusted_not_inserted {r : TeleSlot} (h : r.ins = false) (dir : Bool) (hold : Nat) :
    adjusted r dir hold = min 0x3FFFFE r.vcode := by
  simp [adjusted, h]

theorem adjusted_le (r : TeleSlot) (dir : Bool) (hold : Nat) : adjusted r dir hold ≤ 0x3FFFFE :=
  Nat.min_le_left _ _

/-- Bits 31:10 of a key. -/
theorem keyOf_div {i : Nat} (hi : i < 1024) (r : TeleSlot) (dir : Bool) (hold : Nat) :
    keyOf r dir hold i / 1024 = adjusted r dir hold := by
  rw [keyOf, Nat.mul_comm, Nat.mul_add_div (by decide), Nat.div_eq_of_lt hi, Nat.add_zero]

/-- Bits 9:0 of a key. -/
theorem keyOf_mod {i : Nat} (hi : i < 1024) (r : TeleSlot) (dir : Bool) (hold : Nat) :
    keyOf r dir hold i % 1024 = i :=
  Nat.mul_add_mod_of_lt hi

/-- The largest key is that of the largest code and the largest index. -/
theorem keyOf_le {i : Nat} (hi : i < 1024) (r : TeleSlot) (dir : Bool) (hold : Nat) :
    keyOf r dir hold i ≤ 0xFFFFFBFF := by
  have hcode := adjusted_le r dir hold
  rw [keyOf]
  omega

/-- Keys of different indices differ whatever the reports say, since each key's low bits are its index. -/
theorem keyOf_ne_of_index_ne {i j : Nat} (hi : i < 1024) (hj : j < 1024) (hne : i ≠ j) (r q : TeleSlot) (dir : Bool)
    (hold : Nat) : keyOf r dir hold i ≠ keyOf q dir hold j := fun heq =>
  hne <| calc
    i = keyOf r dir hold i % 1024 := (keyOf_mod hi r dir hold).symm
    _ = keyOf q dir hold j % 1024 := by rw [heq]
    _ = j := keyOf_mod hj q dir hold

/-- Settles O19: the three cases of R131, and the two fields of the key by division and remainder at 2^10. -/
theorem keysOfReports : Obligations.KeysOfReports := by
  unfold Obligations.KeysOfReports
  refine ⟨fun r hold hins hlt => ?_, fun r hold hins _ => adjusted_charging hins hold,
    fun r hold hins => adjusted_discharging hins hold, fun r dir hold hins => adjusted_not_inserted hins dir hold,
    fun r q dir hold i j hi hj => ⟨keyOf_div hi r dir hold, keyOf_mod hi r dir hold, keyOf_le hi r dir hold,
      fun hne => keyOf_ne_of_index_ne hi hj hne r q dir hold⟩⟩
  rw [adjusted_charging hins, Nat.sub_eq_zero_of_le (Nat.le_of_lt hlt), Nat.min_zero]

end Sys2Proof
end

section
/-! The correction of a raw code (R193): OFS and GAIN, rounded to nearest with halves towards plus infinity, and the clamp
to the coding range of the entry. -/

namespace Sys2Proof.Machine

/-- A single-ended entry: its raw code counts from 0. -/
theorem State.correct_unsigned (s : State) (n raw : Nat) :
    s.correct n raw 0 = max 0 (min 65535 (Int.fdiv (((raw % 65536 : Nat) - toSigned 16 (s.get (AD_CAL_OFS_OFS n))) *
      (s.get (AD_CAL_GAIN_GAIN n) : Int) + 65536) 131072)) := by
  rw [Int.fdiv_eq_ediv_of_nonneg _ (by decide)]
  rfl

/-- A differential entry: its raw code is in two's complement. -/
theorem State.correct_signed (s : State) (n raw : Nat) :
    s.correct n raw 1 = max (-32768) (min 32767 (Int.fdiv ((toSigned 16 raw - toSigned 16 (s.get (AD_CAL_OFS_OFS n))) *
      (s.get (AD_CAL_GAIN_GAIN n) : Int) + 65536) 131072)) := by
  rw [Int.fdiv_eq_ediv_of_nonneg _ (by decide)]
  rfl

/-- A GAIN of 1.0 gives every difference back: what the rounding adds stays below one step. -/
theorem fdiv_unitGain (x : Int) : Int.fdiv (x * 0x20000 + 65536) 131072 = x := by
  rw [Int.fdiv_eq_ediv_of_nonneg _ (by decide)]
  omega

/-- With GAIN 1.0 and OFS 0 a single-ended code stays as it is; it lies in the coding range, so the clamp leaves it. -/
theorem State.correct_unsigned_of_unit {s : State} {n : Nat} (hgain : s.get (AD_CAL_GAIN_GAIN n) = 0x20000)
    (hofs : s.get (AD_CAL_OFS_OFS n) = 0) (raw : Nat) : s.correct n raw 0 = (raw % 65536 : Nat) := by
  have hzero : toSigned 16 0 = 0 := by decide
  have hone : ((0x20000 : Nat) : Int) = 0x20000 := rfl
  have hrange : raw % 65536 < 65536 := Nat.mod_lt _ (by decide)
  rw [State.correct_unsigned, hgain, hofs, hzero, Int.sub_zero, hone, fdiv_unitGain]
  omega

/-- With GAIN 0.5 and OFS 0 the codes 5 and -5 are the exact halves 2.5 and -2.5, and both round upwards. -/
theorem State.correct_halves {s : State} {n : Nat} (hgain : s.get (AD_CAL_GAIN_GAIN n) = 0x10000)
    (hofs : s.get (AD_CAL_OFS_OFS n) = 0) : s.correct n 5 0 = 3 ∧ s.correct n 0xFFFB 1 = -2 := by
  rw [State.correct_unsigned, State.correct_signed, hgain, hofs]
  decide

/-- Settles O16: the formula for the two codings, then its values at GAIN 1.0 and at exact halves. -/
theorem correctionOfResults : Obligations.CorrectionOfResults := by
  unfold Obligations.CorrectionOfResults
  refine ⟨?_, ?_, fun s n raw hgain hofs => State.correct_unsigned_of_unit hgain hofs raw,
    fun s n hgain hofs => State.correct_halves hgain hofs⟩
  · rintro s n raw v rfl
    exact State.correct_unsigned s n raw
  · rintro s n raw v rfl
    exact State.correct_signed s n raw

end Sys2Proof.Machine
end

section
/-! The lease check of a Stake (R259): one rule for each of its three branches, no valid record, the recorded
board and the other board. -/

namespace Sys2Proof.Machine

/-- The board of a SENDER is its bit 8 (R96). -/
theorem boardOf_eq (sender : Nat) : boardOf sender = sender / 2 ^ 8 % 2 := rfl

/-- Without a valid record no frame passes. -/
theorem State.leaseCheck_noRecord {s : State} (hrec : ¬ s.on LS_SREC_VALID = true) (h : Header) :
    s.leaseCheck h = false := by
  simp [State.leaseCheck, hrec]

/-- A frame of the recorded board passes from the holder of the epoch, or as the release that names the next epoch. -/
theorem State.leaseCheck_sameBoard_iff {s : State} {h : Header} (hrec : s.on LS_SREC_VALID = true)
    (hboard : boardOf h.sender = s.get LS_SREC_BOARD) :
    s.leaseCheck h = true ↔
      (holderBit h = true ∧ h.epoch = s.get LS_SEPOCH_EPOCH) ∨
        (holderBit h = false ∧ h.epoch = (s.get LS_SEPOCH_EPOCH + 1) % 2 ^ 32) := by
  simp [State.leaseCheck, hrec, hboard]

/-- A frame of the other board passes only with MATCHED, as the follower of the epoch or as the claim of the next. -/
theorem State.leaseCheck_otherBoard_iff {s : State} {h : Header} (hrec : s.on LS_SREC_VALID = true)
    (hboard : boardOf h.sender ≠ s.get LS_SREC_BOARD) :
    s.leaseCheck h = true ↔ matchedBit h = true ∧
      ((holderBit h = false ∧ h.epoch = s.get LS_SEPOCH_EPOCH) ∨
        (holderBit h = true ∧ h.epoch = (s.get LS_SEPOCH_EPOCH + 1) % 2 ^ 32)) := by
  simp [State.leaseCheck, hrec, hboard]

/-- Settles O15: the branch of R259 that the record and the board of SENDER choose decides which of the two clauses stands. -/
theorem leaseCheckOfAFrame : Obligations.LeaseCheckOfAFrame := by
  unfold Obligations.LeaseCheckOfAFrame
  rintro s h e next b rfl rfl rfl
  rw [← boardOf_eq]
  by_cases hrec : s.on LS_SREC_VALID = true
  · by_cases hboard : boardOf h.sender = s.get LS_SREC_BOARD
    · simpa [hrec, hboard, holderBit] using State.leaseCheck_sameBoard_iff hrec hboard
    · simpa [hrec, hboard, holderBit, matchedBit] using State.leaseCheck_otherBoard_iff hrec hboard
  · simp [hrec, State.leaseCheck_noRecord hrec h]

end Sys2Proof.Machine
end

section
/-! What every command keeps: the lemma of each meaning, read off along the commands, and the invariants of steps and runs that
follow from it. -/

namespace Sys2Proof.Machine

open Sys2Proof

/-- A command that is no reset and completes none answers a next state that keeps what `Keeps` says, and the memory as well
where the command is none that stores. -/
theorem exec_answers (c : Instr) (s : State) (hr : c.mayReset = false) (hc : c ≠ .resetComplete) :
    Answers (!c.mayStore) s (exec c s) := by
  have h {ro : Bool} : Keeps ro s s := Keeps.rfl' ro s
  cases c with
  | pornAssert => exact absurd hr (by decide)
  | resetRelease straps monument inputs => exact absurd hr (by simp [Instr.mayReset])
  | supplyReset => exact absurd hr (by decide)
  | shedResetEntry => exact absurd hr (by decide)
  | shedResetRelease straps inputs => exact absurd hr (by simp [Instr.mayReset])
  | clockFault clk => exact execClockFault_answers h clk
  | railFault j => exact execRailFault_answers h j
  | tjMeasure tj => exact execTjMeasure_answers h tj
  | gtimeMove => exact execGtimeMove_answers h
  | tickStart missX missY => exact execTickStart_answers h missX missY
  | sampleInstant => exact execSampleInstant_answers h
  | frameBuildCutoff => exact execFrameBuildCutoff_answers h
  | datumFrameReceive p f at' idles => exact execDatumFrameReceive_answers h p f at' idles
  | stakeFrameDecode q f at' idles => exact execStakeFrameDecode_answers h q f at' idles
  | daSetReceive p d => exact execDaSetReceive_answers h p d
  | stakeTickStart => exact execStakeTickStart_answers h
  | permitLoss => exact execPermitLoss_answers h
  | leaseExpiry => exact execLeaseExpiry_answers h
  | tickLockLoss => exact execTickLockLoss_answers h
  | holdoverExpiry => exact execHoldoverExpiry_answers h
  | periodFrameTimeout => exact execPeriodFrameTimeout_answers h
  | tickmarkReceive q frame at' => exact execTickmarkReceive_answers h q frame at'
  | applyInstant => exact execApplyInstant_answers h
  | trimEnd => exact execTrimEnd_answers h
  | blockPairReceive q frame at' => exact execBlockPairReceive_answers h q frame at'
  | blockPairDatum p frame => exact execBlockPairDatum_answers h p frame
  | isolatedUrgent p => exact execIsolatedUrgent_answers h p
  | codeViolation l sym inFrame => exact execCodeViolation_answers h l sym inFrame
  | commaRealign l inFrame => exact execCommaRealign_answers h l inFrame
  | rxcDetect l => exact execRxcDetect_answers h l
  | bitLock l phase => exact execBitLock_answers h l phase
  | symbolLock l align => exact execSymbolLock_answers h l align
  | capSetReceive l c => exact execCapSetReceive_answers h l c
  | farEndEchoEnd p => exact execFarEndEchoEnd_answers h p
  | capSetPeriodic l => exact execCapSetPeriodic_answers h l
  | dmSetReceive l d sent got => exact execDmSetReceive_answers h l d sent got
  | bringupTimeout l => exact execBringupTimeout_answers h l
  | rxcLoss l inFrame => exact execRxcLoss_answers h l inFrame
  | blindRelock p => exact execBlindRelock_answers h p
  | blindTimeout p => exact execBlindTimeout_answers h p
  | waitExpiry l => exact execWaitExpiry_answers h l
  | bringupRetryLimit p => exact execBringupRetryLimit_answers h p
  | portRestart p => exact execPortRestart_answers h p
  | injectSingle p => exact execInjectSingle_answers h p
  | injectBurst p len => exact execInjectBurst_answers h p len
  | prbsClear p => exact execPrbsClear_answers h p
  | prbsCheckerLock p bits errs => exact execPrbsCheckerLock_answers h p bits errs
  | prbsLockLoss p bits errs => exact execPrbsLockLoss_answers h p bits errs
  | turnChange => exact execTurnChange_answers h
  | closurePersistFault p => exact execClosurePersistFault_answers h p
  | relayReplyTimeout id => exact execRelayReplyTimeout_answers h id
  | orderPost a n dir frac => exact execOrderPost_answers h a n dir frac
  | levellingSelectDone a => exact execLevellingSelectDone_answers h a
  | absentMark => exact execAbsentMark_answers h
  | deviationPersist => exact execDeviationPersist_answers h
  | unrankedLimit => exact execUnrankedLimit_answers h
  | restBandEntry => exact execRestBandEntry_answers h
  | gcmdRefresh n => exact execGcmdRefresh_answers h n
  | setsSend n reg => exact execSetsSend_answers h n reg
  | gfbStatusWord n chips => exact execGfbStatusWord_answers h n chips
  | wordLockChange n => exact execWordLockChange_answers h n
  | edgeHold n ns len => exact execEdgeHold_answers h n ns len
  | strengthLimitFault n => exact execStrengthLimitFault_answers h n
  | markerWindowExpiry n => exact execMarkerWindowExpiry_answers h n
  | desatTrip n => exact execDesatTrip_answers h n
  | desatGlitch n len => exact execDesatGlitch_answers h n len
  | lossHold n len => exact execLossHold_answers h n len
  | feedbackFault n => exact execFeedbackFault_answers h n
  | tripWaitExpiry n => exact execTripWaitExpiry_answers h n
  | cleanExpiry n => exact execCleanExpiry_answers h n
  | notreadyTimeout n => exact execNotreadyTimeout_answers h n
  | unlatch n => exact execUnlatch_answers h n
  | cellVoltageResult raw rawB => exact execCellVoltageResult_answers h raw rawB
  | ov2Block => exact execOv2Block_answers h
  | ov2Clr => exact execOv2Clr_answers h
  | ov3Trigger => exact execOv3Trigger_answers h
  | bypassFireDrive => exact execBypassFireDrive_answers h
  | bypassReadbackFail path => exact execBypassReadbackFail_answers h path
  | bypassFireRelease => exact execBypassFireRelease_answers h
  | bypassCmdArm at' => exact execBypassCmdArm_answers h at'
  | bypassCmdFire at' => exact execBypassCmdFire_answers h at'
  | bypassMarkClear => exact execBypassMarkClear_answers h
  | bypassArmTimeout => exact execBypassArmTimeout_answers h
  | selfTestStart sel ch => exact execSelfTestStart_answers h sel ch
  | selfTestEnd pass => exact execSelfTestEnd_answers h pass
  | manualModeWrite n man manOn => exact execManualModeWrite_answers h n man manOn
  | manualPulse n width => exact execManualPulse_answers h n width
  | adcGridTrigger n at' => exact execAdcGridTrigger_answers h n at'
  | adcSwStart n => exact execAdcSwStart_answers h n
  | tevFire n => exact execTevFire_answers h n
  | adcPassEnd n raw rawB => exact execAdcPassEnd_answers h n raw rawB
  | pairMismatch m => exact execPairMismatch_answers h m
  | adcInject n inp diff preempt => exact execAdcInject_answers h n inp diff preempt
  | adcInjectResult n raw => exact execAdcInjectResult_answers h n raw
  | adcCalStart mask => exact execAdcCalStart_answers h mask
  | adcCalDone n gain ofs => exact execAdcCalDone_answers h n gain ofs
  | rotCalStart mask => exact execRotCalStart_answers h mask
  | rotCalAbort m => exact execRotCalAbort_answers h m
  | auxPulseStart => exact execAuxPulseStart_answers h
  | auxPulseEnd => exact execAuxPulseEnd_answers h
  | auxfltCut at' => exact execAuxfltCut_answers h at'
  | auxCutLimit => exact execAuxCutLimit_answers h
  | auxdemChange high => exact execAuxdemChange_answers h high
  | fltinChange n high => exact execFltinChange_answers h n high
  | auxsyncEdge at' => exact execAuxsyncEdge_answers h at'
  | syncInstant => exact execSyncInstant_answers h
  | syncLoss => exact execSyncLoss_answers h
  | taskDispatch => exact execTaskDispatch_answers h
  | taskEnd n => exact execTaskEnd_answers h n
  | outputWindowWrite n addr v => exact execOutputWindowWrite_answers h n addr v
  | signalInstruction n j flag => exact execSignalInstruction_answers h n j flag
  | cancelInstruction n j ready => exact execCancelInstruction_answers h n j ready
  | laneFault n cause => exact execLaneFault_answers h n cause
  | nanResult n => exact execNanResult_answers h n
  | dataEccError kind ofs n => exact execDataEccError_answers h kind ofs n
  | programEccError n corrected => exact execProgramEccError_answers h n corrected
  | setFlag j flag => exact execSetFlag_answers h j flag
  | slotCancel j ready => exact execSlotCancel_answers h j ready
  | heldInstanceEnqueue => exact execHeldInstanceEnqueue_answers h
  | overrunLimit => exact execOverrunLimit_answers h
  | swapRequest => exact execSwapRequest_answers h
  | swapWithdraw => exact execSwapWithdraw_answers h
  | bankSwap => exact execBankSwap_answers h
  | ogLoad n v => exact execOgLoad_answers h n v
  | injArm g => exact execInjArm_answers h g
  | injStop g => exact execInjStop_answers h g
  | injRunStart => exact execInjRunStart_answers h
  | injRunEnd => exact execInjRunEnd_answers h
  | rcPeriodChange => exact execRcPeriodChange_answers h
  | plausibilityFail => exact execPlausibilityFail_answers h
  | trackerLockChange => exact execTrackerLockChange_answers h
  | heartbeatReceive m at' ok => exact execHeartbeatReceive_answers h m at' ok
  | shareReceive m ok => exact execShareReceive_answers h m ok
  | shareTimeout n => exact execShareTimeout_answers h n
  | digestReceive m ok => exact execDigestReceive_answers h m ok
  | summaryReceive tick arms ok => exact execSummaryReceive_answers h tick arms ok
  | controlReceive m ok => exact execControlReceive_answers h m ok
  | stateReceive m ok => exact execStateReceive_answers h m ok
  | sweepReceive addr bytes ok => exact execSweepReceive_answers h addr bytes ok
  | sweepSend => exact execSweepSend_answers h
  | heartbeatLoss => exact execHeartbeatLoss_answers h
  | matchWindowExpiry => exact execMatchWindowExpiry_answers h
  | matchAcquire => exact execMatchAcquire_answers h
  | twinSilence => exact execTwinSilence_answers h
  | claimTimeout => exact execClaimTimeout_answers h
  | handoverWrite => exact execHandoverWrite_answers h
  | revertHoldExpiry => exact execRevertHoldExpiry_answers h
  | handoverRelease => exact execHandoverRelease_answers h
  | handoverClaim => exact execHandoverClaim_answers h
  | joinWrite => exact execJoinWrite_answers h
  | joinComplete => exact execJoinComplete_answers h
  | joinTimeout => exact execJoinTimeout_answers h
  | sblkChange x y a b at' => exact execSblkChange_answers h x y a b at'
  | srstChange x y a b at' => exact execSrstChange_answers h x y a b at'
  | resetComplete => exact absurd rfl hc
  | discrepancyTimeout srst y => exact execDiscrepancyTimeout_answers h srst y
  | proofOpen y => exact execProofOpen_answers h y
  | resetStuck y => exact execResetStuck_answers h y
  | xlinkHeartbeat => exact execXlinkHeartbeat_answers h
  | xlinkTimeout => exact execXlinkTimeout_answers h
  | channelDisagree => exact execChannelDisagree_answers h
  | safeLock agree => exact execSafeLock_answers h agree
  | safeConfigCrc => exact execSafeConfigCrc_answers h
  | gcmdGate => exact execGcmdGate_answers h
  | faultForce r v => exact execFaultForce_answers h r v
  | watchdogFeed key => exact execWatchdogFeed_answers h key
  | watchdogExpiry => exact execWatchdogExpiry_answers h
  | recordWrite => exact execRecordWrite_answers h
  | freeze freeze => exact execFreeze_answers h freeze
  | freezeExpiry => exact execFreezeExpiry_answers h
  | ringClear => exact execRingClear_answers h
  | tailClear => exact execTailClear_answers h
  | drRow dropped late => exact execDrRow_answers h dropped late
  | drArm => exact execDrArm_answers h
  | drStop => exact execDrStop_answers h
  | drSwtrig => exact execDrSwtrig_answers h
  | drRelease rnum => exact execDrRelease_answers h rnum
  | streamChunk ecc => exact execStreamChunk_answers h ecc
  | udpRequest port src k => exact execUdpRequest_answers h port src k
  | sqTailDoorbell q tail entries => exact execSqTailDoorbell_answers h q tail entries
  | cqHeadDoorbell q head => exact execCqHeadDoorbell_answers h q head
  | streamReadIndex j => exact execStreamReadIndex_answers h j
  | barQueueConfig ofs v => exact execBarQueueConfig_answers h ofs v
  | nop r => exact execNop_answers h r
  | read r addr count => exact execRead_answers h r addr count
  | write r txid addr words => exact execWrite_answers h r txid addr words
  | modify r txid addr mask value => exact execModify_answers h r txid addr mask value
  | readWide r item => exact execReadWide_answers h r item
  | mbReqWrite item => exact execMbReqWrite_answers h item
  | platRead r ofs len => exact execPlatRead_answers h r ofs len
  | resetWarm r key => exact execResetWarm_answers h r key
  | strobe r groups => exact execStrobe_answers h r groups
  | strobeFire groups => exact execStrobeFire_answers h groups
  | netcfg r sel data => exact execNetcfg_answers h r sel data
  | txnBegin r scope t => exact execTxnBegin_answers h r scope t
  | txnPrepare r txid => exact execTxnPrepare_answers h r txid
  | txnCommit r txid imm tick => exact execTxnCommit_answers h r txid imm tick
  | txnRollback r txid => exact execTxnRollback_answers h r txid
  | txnStatus r txid => exact execTxnStatus_answers h r txid
  | txnSprep r txid total first writes => exact execTxnSprep_answers h r txid total first writes
  | txnScommit r txid tick => exact execTxnScommit_answers h r txid tick
  | txnSabort r txid => exact execTxnSabort_answers h r txid
  | txnIdleExpiry txid => exact execTxnIdleExpiry_answers h txid
  | txnTickApply => exact execTxnTickApply_answers h
  | txnStakeApply => exact execTxnStakeApply_answers h
  | txnPrepareTimeout => exact execTxnPrepareTimeout_answers h
  | txnCommitComplete => exact execTxnCommitComplete_answers h
  | relay r t k => exact execRelay_answers h r t k
  | chainScan r p => exact execChainScan_answers h r p
  | relayFlush r ports => exact execRelayFlush_answers h r ports
  | loopSwap r tick => exact execLoopSwap_answers h r tick
  | armStatus r a => exact execArmStatus_answers h r a
  | fbRead r space count first => exact execFbRead_answers h r space count first
  | fbFreeze r on => exact execFbFreeze_answers h r on
  | drList r => exact execDrList_answers h r
  | drRead r rnum ofs len ecc => exact execDrRead_answers h r rnum ofs len ecc
  | adcCal r cal rot => exact execAdcCal_answers h r cal rot
  | gateTest r sel ch => exact execGateTest_answers h r sel ch
  | bypassFire r code => exact execBypassFire_answers h r code
  | leaseStatus r => exact execLeaseStatus_answers h r
  | handover r => exact execHandover_answers h r
  | join r => exact execJoin_answers h r
  | safeStatus r => exact execSafeStatus_answers h r
  | ident r => exact execIdent_answers h r
  | attest r nonce => exact execAttest_answers h r nonce
  | adopt r confirm p slot a idx monument => exact execAdopt_answers h r confirm p slot a idx monument
  | adoptionScan p => exact execAdoptionScan_answers h p
  | imgOpen r target len => exact execImgOpen_answers h r target len
  | imgData r ofs bytes => exact execImgData_answers h r ofs bytes
  | imgCheck r => exact execImgCheck_answers h r
  | imgActivate r target => exact execImgActivate_answers h r target
  | imgStatus r => exact execImgStatus_answers h r
  | firmwareConfirm => exact execFirmwareConfirm_answers h
  | trialTimeout crashed => exact execTrialTimeout_answers h crashed
  | bootImageCheck hdr slot0 slot1 => exact execBootImageCheck_answers h hdr slot0 slot1
  | configLoad writes locks store => exact execConfigLoad_answers h writes locks store
  | configParityScrub addr shadow => exact execConfigParityScrub_answers h addr shadow
  | lockSet mask => exact execLockSet_answers h mask
  | timeStep => exact execTimeStep_answers h
  | ftrimWrite v => exact execFtrimWrite_answers h v
  | disciplineHoldover => exact execDisciplineHoldover_answers h
  | ptpTxStamp n seqId msgType corr frac => exact execPtpTxStamp_answers h n seqId msgType corr frac
  | ptpRxStamp n frac => exact execPtpRxStamp_answers h n frac
  | tickalignReceive d m at' ok => exact execTickalignReceive_answers h d m at' ok
  | alignmentLoss => exact execAlignmentLoss_answers h
  | followerRephase => exact execFollowerRephase_answers h
  | varsReceive d tick words ok => exact execVarsReceive_answers h d tick words ok
  | mgmtForward d m ok => exact execMgmtForward_answers h d m ok
  | forwardTimeout key tag => exact execForwardTimeout_answers h key tag
  | shedStageRise v => exact execShedStageRise_answers h v
  | shedStageFall mv => exact execShedStageFall_answers h mv
  | haltRxcAbsent l => exact execHaltRxcAbsent_answers h l
  | resetStuckClear y => exact execResetStuckClear_answers h y
  | aliveEdge => exact execAliveEdge_answers h
  | effectiveInstant n => exact execEffectiveInstant_answers h n
  | tevPulseEnd n => exact execTevPulseEnd_answers h n
  | railReturn j => exact execRailReturn_answers h j
  | retentionDetector => exact execRetentionDetector_answers h
  | auxfltFall => exact execAuxfltFall_answers h
  | replyCacheExpiry r => exact execReplyCacheExpiry_answers h r

/-! ### A device that is held -/

theorem State.isDatum_held {s : State} (h : s.running = false) : s.isDatum = false := by
  simp_all [State.isDatum, State.running]

theorem State.isStake_held {s : State} (h : s.running = false) : s.isStake = false := by
  simp_all [State.isStake, State.running]

theorem State.takesWrites_held {s : State} (h : s.running = false) : s.takesWrites = false := by
  simp [State.takesWrites, h]

theorem State.turnOf_held {s : State} (h : s.running = false) (r : Req) : s.turnOf r = false := by
  simp [State.turnOf, State.thokaRuns, h]

theorem State.inRun_held {s : State} (h : s.running = false) (f : State → State) : s.inRun f = .next s := by
  simp [State.inRun, h]

theorem State.inDatum_held {s : State} (h : s.running = false) (f : State → State) : s.inDatum f = .next s := by
  simp [State.inDatum, State.isDatum_held h]

theorem State.inStake_held {s : State} (h : s.running = false) (f : State → State) : s.inStake f = .next s := by
  simp [State.inStake, State.isStake_held h]

theorem State.onLink_held {s : State} (h : s.running = false) (l : Nat) (f : State → State) : s.onLink l f = .next s :=
  State.inRun_held h _

theorem State.onPort_held {s : State} (h : s.running = false) (p : Nat) (f : State → State) : s.onPort p f = .next s :=
  State.onLink_held h _ _

theorem State.twinMsg_held {s : State} (h : s.running = false) (ok : Bool) (f : State → State) :
    s.twinMsg ok f = .next s := State.inDatum_held h _

theorem State.onAux_held {s : State} (h : s.running = false) (f : State → State) : s.onAux f = .next s :=
  State.inStake_held h _

theorem State.written_held {s : State} (h : s.running = false) (b : Bool) (w : Write) :
    s.written s.running b w = .next s := by
  simp [State.written, h]

theorem State.byWrite_held {s : State} (h : s.running = false) (b : Bool) (w : Write) : s.byWrite b w = .next s := by
  simp [State.byWrite, State.written, State.takesWrites_held h]

theorem State.command_held {s : State} (h : s.running = false) (r : Req) (a b c : Bool) (f : State → State) :
    s.command r a b c f = .next s := by
  simp [State.command, State.starts, State.turnOf_held h]

theorem State.onTxn_held {s : State} (h : s.running = false) (r : Req) (id : Nat) (f : State → Txn → State) :
    s.onTxn r id f = .next s := State.command_held h _ _ _ _ _

/-- Settles O10: each meaning asks first whether the device runs, in one of eleven shapes. -/
theorem deviceInResetDoesNothing : Obligations.DeviceInResetDoesNothing := by
  unfold Obligations.DeviceInResetDoesNothing
  intro c s h hr hd
  unfold exec
  cases c with
  | pornAssert | resetRelease | supplyReset | shedResetEntry | shedResetRelease => simp [Instr.mayReset] at hr
  | retentionDetector => exact absurd rfl hd
  | clockFault | railFault | tjMeasure | sampleInstant | tickmarkReceive | turnChange | adcGridTrigger | tevFire
    | adcPassEnd | pairMismatch | adcInjectResult | adcCalDone | rotCalAbort | fltinChange | xlinkHeartbeat
    | xlinkTimeout | channelDisagree | safeConfigCrc | watchdogExpiry | recordWrite | freezeExpiry | drRow
    | firmwareConfirm | trialTimeout | bootImageCheck | configLoad | configParityScrub | shedStageRise
    | shedStageFall | aliveEdge | tevPulseEnd | railReturn => dsimp only; exact State.inRun_held h _
  | tickStart | frameBuildCutoff | datumFrameReceive | blockPairDatum | closurePersistFault | relayReplyTimeout
    | levellingSelectDone | absentMark | deviationPersist | restBandEntry | taskDispatch | taskEnd
    | outputWindowWrite | signalInstruction | cancelInstruction | laneFault | nanResult | dataEccError
    | programEccError | heldInstanceEnqueue | overrunLimit | bankSwap | injRunStart | injRunEnd | rcPeriodChange
    | plausibilityFail | trackerLockChange | shareTimeout | sweepSend | heartbeatLoss | matchWindowExpiry
    | matchAcquire | twinSilence | claimTimeout | revertHoldExpiry | handoverRelease | handoverClaim | joinComplete
    | joinTimeout | sblkChange | srstChange | resetComplete | discrepancyTimeout | proofOpen | resetStuck
    | streamChunk | udpRequest | sqTailDoorbell | cqHeadDoorbell | streamReadIndex | barQueueConfig | txnIdleExpiry
    | txnTickApply | txnCommitComplete | adoptionScan | disciplineHoldover | ptpTxStamp | ptpRxStamp
    | tickalignReceive | alignmentLoss | followerRephase | varsReceive | mgmtForward | forwardTimeout
    | resetStuckClear | replyCacheExpiry => dsimp only; exact State.inDatum_held h _
  | gtimeMove | stakeFrameDecode | stakeTickStart | permitLoss | leaseExpiry | tickLockLoss | holdoverExpiry
    | periodFrameTimeout | applyInstant | trimEnd | blockPairReceive | unrankedLimit | gcmdRefresh | setsSend
    | gfbStatusWord | wordLockChange | edgeHold | strengthLimitFault | markerWindowExpiry | desatTrip | desatGlitch
    | lossHold | feedbackFault | tripWaitExpiry | cleanExpiry | notreadyTimeout | cellVoltageResult | ov2Block
    | ov3Trigger | bypassFireDrive | bypassReadbackFail | bypassFireRelease | bypassArmTimeout | selfTestEnd
    | auxfltCut | auxCutLimit | auxdemChange | gcmdGate | txnStakeApply | txnPrepareTimeout | effectiveInstant
    | auxfltFall => dsimp only; exact State.inStake_held h _
  | codeViolation | commaRealign | rxcDetect | bitLock | symbolLock | capSetReceive | capSetPeriodic | dmSetReceive
    | bringupTimeout | rxcLoss | waitExpiry | haltRxcAbsent => dsimp only; exact State.onLink_held h _ _
  | daSetReceive | isolatedUrgent | farEndEchoEnd | blindRelock | blindTimeout | bringupRetryLimit | prbsCheckerLock
    | prbsLockLoss => dsimp only; exact State.onPort_held h _ _
  | heartbeatReceive | shareReceive | digestReceive | summaryReceive | controlReceive | stateReceive | sweepReceive => dsimp only; exact State.twinMsg_held h _ _
  | auxPulseStart | auxPulseEnd | auxsyncEdge | syncInstant | syncLoss => dsimp only; exact State.onAux_held h _
  | portRestart | injectSingle | injectBurst | prbsClear | unlatch | ov2Clr | bypassCmdArm | bypassCmdFire
    | bypassMarkClear | selfTestStart | manualModeWrite | manualPulse | adcSwStart | adcInject | adcCalStart
    | rotCalStart | setFlag | slotCancel | swapRequest | swapWithdraw | ogLoad | injArm | injStop | handoverWrite
    | joinWrite | safeLock | faultForce | watchdogFeed | freeze | ringClear | tailClear | drArm | drStop | drSwtrig
    | drRelease | mbReqWrite | strobeFire | lockSet | timeStep | ftrimWrite => dsimp only; exact State.byWrite_held h _ _
  | orderPost => dsimp only; exact State.written_held h _ _
  | nop | read | write | modify | readWide | platRead | resetWarm | strobe | netcfg | txnBegin | txnStatus | txnSprep
    | txnScommit | txnSabort | relay | chainScan | relayFlush | loopSwap | armStatus | fbRead | fbFreeze | drList
    | drRead | adcCal | gateTest | bypassFire | leaseStatus | handover | join | safeStatus | ident | attest | adopt
    | imgOpen | imgData | imgCheck | imgActivate | imgStatus => dsimp only; exact State.command_held h _ _ _ _ _
  | txnPrepare | txnCommit | txnRollback => dsimp only; exact State.onTxn_held h _ _ _

/-! ### Every command -/

theorem Instr.mayReset_cases {c : Instr} (h : c.mayReset = true) :
    c = .pornAssert ∨ c = .supplyReset ∨ (∃ straps m i, c = .resetRelease straps m i) ∨ c = .shedResetEntry ∨
      ∃ straps i, c = .shedResetRelease straps i := by
  unfold Instr.mayReset at h
  split at h <;> simp_all

/-- The resets too answer a next state, with the same queue, no earlier, and sound if the state was. -/
theorem exec_goes (c : Instr) (s : State) : Goes s (exec c s) := by
  cases hr : c.mayReset with
  | true =>
    obtain rfl | rfl | ⟨straps, m, i, rfl⟩ | rfl | ⟨straps, i, rfl⟩ := Instr.mayReset_cases hr
    · exact execPornAssert_goes s
    · exact execSupplyReset_goes s
    · exact execResetRelease_goes s straps m i
    · exact execShedResetEntry_goes s
    · exact execShedResetRelease_goes s straps i
  | false =>
    by_cases hc : c = .resetComplete
    · subst hc
      exact (execResetComplete_answers (Keeps.rfl' false s).allowed).goes_allowed
    · exact (exec_answers c s hr hc).goes

/-- The idle step keeps what every operation keeps. -/
theorem State.idle_keeps (s : State) : Keeps true s s.idle :=
  State.advance_keeps ((keeps_upd ..).2 (Keeps.rfl' true s)) _

theorem step_nil {s : State} (h : s.pending = []) : step s = .next s.idle := by
  unfold step
  rw [h]

theorem step_front {s : State} {c : Instr} {rest : List Instr} (h : s.pending = c :: rest) :
    step s = exec c { s with pending := rest } := by
  unfold step
  rw [h]

/-- What every step keeps: the direction of the clock and the canonical forms. -/
theorem step_goes {s t : State} (h : step s = .next t) : s.now ≤ t.now ∧ (s.sound → t.sound) := by
  cases hq : s.pending with
  | nil =>
    obtain rfl : s.idle = t := by simpa [step_nil hq] using h
    exact ⟨(State.idle_keeps s).clock, (State.idle_keeps s).sound⟩
  | cons c rest =>
    obtain ⟨u, hu, hk⟩ := exec_goes c { s with pending := rest }
    obtain rfl : u = t := by simpa [step_front hq, hu] using h
    exact ⟨hk.clock, hk.sound⟩

/-- Settles O1. -/
theorem stepRunsFrontCommand : Obligations.StepRunsFrontCommand := by
  unfold Obligations.StepRunsFrontCommand
  intro c rest s
  exact step_front rfl

/-- Settles O2: the clock moves by one, which is a move forward, and its end of the cycle touches the Field Book alone. -/
theorem idleStepPassesOneCycle : Obligations.IdleStepPassesOneCycle := by
  unfold Obligations.IdleStepPassesOneCycle
  intro s hq
  rw [step_nil hq]
  have hlt : s.now < s.now + 1 := Nat.lt_succ_self _
  simp only [State.idle, State.advance, hlt, if_true, State.endCycle, Nat.add_sub_cancel_left, Nat.mul_one]
  rfl

/-- Settles O3: the state of power-on lists no register and no byte, so that each reads as its default. -/
theorem resetStateIsSound : Obligations.ResetStateIsSound := by
  unfold Obligations.ResetStateIsSound
  exact ⟨reset_sound, rfl, rfl, rfl, fun _ => ⟨rfl, rfl, rfl⟩, fun _ => rfl, ⟨rfl, rfl⟩, rfl, rfl, rfl, rfl⟩

/-- Settles O4: the canonical forms are among what every command and the idle step keep. -/
theorem everyStepKeepsSound : Obligations.EveryStepKeepsSound := by
  unfold Obligations.EveryStepKeepsSound
  exact fun _ _ hs h => (step_goes h).2 hs

/-- Settles O5: the queue is among what every command keeps. -/
theorem everyCommandAnswers : Obligations.EveryCommandAnswers := by
  unfold Obligations.EveryCommandAnswers
  intro c s
  obtain ⟨t, ht, hk⟩ := exec_goes c s
  exact ⟨t, ht, hk.pending⟩

/-- Settles O9: the direction of the clock is among what every command and the idle step keep. -/
theorem clockNeverGoesBack : Obligations.ClockNeverGoesBack := by
  unfold Obligations.ClockNeverGoesBack
  exact fun _ _ h => (step_goes h).1

/-! ### Role and phase -/

/-- A command that is no reset, and RESET_COMPLETE as well, keeps role, phase and, where it stores nothing, the memory. -/
theorem exec_device {c : Instr} {s t : State} (hr : c.mayReset = false) (h : exec c s = .next t) :
    t.role = s.role ∧ t.phase = s.phase ∧ (c.mayStore = false → t.mem = s.mem) := by
  by_cases hc : c = .resetComplete
  · subst hc
    obtain ⟨u, hu, hk⟩ := execResetComplete_answers (Keeps.rfl' true s).allowed
    obtain rfl : u = t := by simpa [hu] using h
    exact ⟨hk.role, hk.phase, fun _ => hk.memory rfl⟩
  · obtain ⟨u, hu, hk⟩ := exec_answers c s hr hc
    obtain rfl : u = t := by simpa [hu] using h
    exact ⟨hk.role, hk.phase, fun hs => hk.memory (by rw [hs]; rfl)⟩

theorem State.powerReset_phase (s : State) (ph : Phase) : (s.powerReset ph).phase = ph := by
  obtain ⟨s1, -, -, -, -, -, -, hph, -, -, hk⟩ := powerReset_base s ph
  exact hk.phase.trans hph

theorem State.shedReset_phase (s : State) : s.shedReset.phase = .shed := State.powerReset_phase _ _

/-- Whatever release fits the phase gives the role of the straps. -/
theorem State.role_of_release {u t : State} {straps m i : Nat} (h : u.phase = .porn ∨ u.phase = .supply)
    (ht : exec (.resetRelease straps m i) u = .next t) : t.role = roleOf straps := by
  obtain ⟨v, hv, hrole⟩ := execResetRelease_role h straps m i
  obtain rfl : v = t := by simpa [hv] using ht
  exact hrole

theorem State.role_of_shedRelease {u t : State} {straps i : Nat} (h : u.phase = .shed)
    (ht : exec (.shedResetRelease straps i) u = .next t) : t.role = roleOf straps := by
  obtain ⟨v, hv, hrole⟩ := execShedResetRelease_role h straps i
  obtain rfl : v = t := by simpa [hv] using ht
  exact hrole

/-- A running device whose supply fails: the S4 reset at stage 4, the reset of the supply elsewhere (R379, R386). -/
theorem execSupplyReset_run {s : State} (h : s.running = true) :
    execSupplyReset s = .next (if s.get SH_STAT_STAGE = 4 then s.shedReset else s.powerReset .supply) := by
  have hph : s.phase = .run := by simpa [State.running] using h
  simp [execSupplyReset, h, hph]

/-- The S4 reset is all that SHED_RESET_ENTRY can do to the phase. -/
theorem execShedResetEntry_phase {s u : State} (h : execShedResetEntry s = .next u) (hne : u.phase ≠ s.phase) :
    u.phase = .shed := by
  unfold execShedResetEntry State.inRun at h
  obtain rfl := Host.Outcome.next.inj h
  revert hne
  split
  · dsimp only
    split
    · exact fun _ => State.shedReset_phase s
    · exact fun hne => absurd rfl hne
  · exact fun hne => absurd rfl hne

/-- Settles O6: what is no reset keeps role and phase; each way into reset leaves the phase in which the release that follows
samples the straps. -/
theorem roleFixedUntilReset : Obligations.RoleFixedUntilReset := by
  unfold Obligations.RoleFixedUntilReset
  refine ⟨fun c s t _ hr h => ?_, fun s u t straps m i hu ht => ?_, fun s u t straps m i hrun hst hu ht => ?_,
    fun s u t straps i hrun hst hu ht => ?_, fun s u t straps i _ hu hne ht => ?_⟩
  · obtain ⟨hrole, hphase, -⟩ := exec_device hr h
    exact ⟨hrole, hphase⟩
  · obtain rfl := Host.Outcome.next.inj hu
    exact State.role_of_release (.inl (State.powerReset_phase s _)) ht
  · rw [exec_supplyReset, execSupplyReset_run hrun, if_neg hst] at hu
    obtain rfl := Host.Outcome.next.inj hu
    exact State.role_of_release (.inr (State.powerReset_phase s _)) ht
  · rw [exec_supplyReset, execSupplyReset_run hrun, if_pos hst] at hu
    obtain rfl := Host.Outcome.next.inj hu
    exact State.role_of_shedRelease (State.shedReset_phase s) ht
  · exact State.role_of_shedRelease (execShedResetEntry_phase hu hne) ht

/-- Settles O7: a command that stores nothing leaves the memory, byte list and all. -/
theorem onlyStoresChangeMemory : Obligations.OnlyStoresChangeMemory := by
  unfold Obligations.OnlyStoresChangeMemory
  intro c s t hs hr h a
  obtain ⟨-, -, hmem⟩ := exec_device hr h
  rw [hmem hs]

/-! ### The safe block of a Datum -/

theorem Keeps.bothBlocked {ro : Bool} {s t : State} (h : Keeps ro s t) (hd : s.role = .datum) (hb : s.bothBlocked) :
    t.bothBlocked := by
  obtain ⟨hx, hy⟩ := h.blocked hd
  obtain ⟨bx, bY⟩ := hb
  simp_all [State.bothBlocked]

/-- What holds along a run: a Datum, both channels BLOCKED, and nothing in the queue that could end the block. -/
structure State.HeldBlocked (s : State) : Prop where
  datum : s.role = .datum
  blocked : s.bothBlocked
  queue : ∀ c ∈ s.pending, c ≠ .resetComplete ∧ c.mayReset = false

theorem State.HeldBlocked.step {s t : State} (h : s.HeldBlocked) (ht : step s = .next t) : t.HeldBlocked := by
  cases hq : s.pending with
  | nil =>
    obtain rfl : s.idle = t := by simpa [step_nil hq] using ht
    have hk := State.idle_keeps s
    exact ⟨hk.role.trans h.datum, hk.bothBlocked h.datum h.blocked, by rw [hk.pending]; exact h.queue⟩
  | cons c rest =>
    obtain ⟨hc, hr⟩ := h.queue c (by simp [hq])
    obtain ⟨u, hu, hk⟩ := exec_answers c { s with pending := rest } hr hc
    obtain rfl : u = t := by simpa [step_front hq, hu] using ht
    refine ⟨hk.role.trans h.datum, hk.bothBlocked h.datum h.blocked, fun d hd => h.queue d ?_⟩
    rw [hk.pending] at hd
    exact hq ▸ List.mem_cons_of_mem c hd

theorem State.HeldBlocked.steps {n : Nat} {s t : State} (h : s.HeldBlocked) (ht : Machine.steps n s = some t) :
    t.HeldBlocked := by
  induction n generalizing s with
  | zero => exact Option.some.inj ht ▸ h
  | succ n ih =>
    unfold Machine.steps at ht
    split at ht
    · exact ih (h.step ‹_›) ht
    · cases ht

/-- Settles O8: the block, the role and the harmless queue are an invariant of the step. -/
theorem blockedDatumStaysBlocked : Obligations.BlockedDatumStaysBlocked := by
  unfold Obligations.BlockedDatumStaysBlocked
  exact fun _ _ _ hd hb hq ht => (State.HeldBlocked.steps ⟨hd, hb, hq⟩ ht).blocked

end Sys2Proof.Machine
end

section
/-! Loop memory (R7): bytes stored from an address on, and a word read back. -/

namespace Sys2Proof.Machine

open Sys2Proof

/-- Storing bytes may mark lines as dirty for a join; the memory it leaves is the one stored. -/
@[simp] theorem State.setMemBytes_mem (s : State) (a : Nat) (bs : List Nat) :
    (s.setMemBytes a bs).mem = memSetBytes s.mem a bs := by
  unfold State.setMemBytes State.joinMark
  split <;> rfl

/-- Each stored byte is read at its own address. -/
theorem memGet_memSetBytes_in (bs : List Nat) (m : List Host.Cell) (a i : Nat) (hi : i < bs.length) :
    memGet (memSetBytes m a bs) (a + i) = BitVec.ofNat 8 (bs.getD i 0) := by
  induction bs generalizing m a i with
  | nil => exact absurd hi (Nat.not_lt_zero _)
  | cons b t ih =>
    unfold memSetBytes
    cases i with
    | zero =>
      rw [memGet_memSetBytes_out t _ (a + 1) (a + 0) (.inl (Nat.lt_succ_self a))]
      exact memGet_memSet_self m a _
    | succ i =>
      have hlt : i < t.length := Nat.lt_of_succ_lt_succ hi
      have hadd : a + (i + 1) = a + 1 + i := by omega
      rw [hadd]
      exact ih _ (a + 1) i hlt

theorem memBytes_eq_map (m : List Host.Cell) (a n : Nat) :
    memBytes m a n = (List.range n).map fun i => (memGet m (a + i)).toNat := by
  induction n generalizing a with
  | zero => rfl
  | succ n ih =>
    rw [memBytes, ih, List.range_succ_eq_map]
    simp [Function.comp_def, Nat.add_assoc, Nat.add_comm 1]

/-- The bytes just stored read back, each modulo 256. -/
theorem memBytes_memSetBytes (m : List Host.Cell) (a : Nat) (bs : List Nat) :
    memBytes (memSetBytes m a bs) a bs.length = bs.map (· % 256) := by
  rw [memBytes_eq_map]
  refine List.ext_getElem (by simp) fun i h1 h2 => ?_
  have hi : i < bs.length := by simpa using h2
  simp [memGet_memSetBytes_in bs m a i hi, hi]

theorem length_le (n v : Nat) : (le n v).length = n := by
  induction n generalizing v with
  | zero => rfl
  | succ n ih => simp [le, ih]

/-- Little-endian bytes, reduced to bytes once more, give the low bits of the value. -/
theorem ofLe_le_map_mod (n v : Nat) : ofLe ((le n v).map (· % 256)) = v % 256 ^ n := by
  induction n generalizing v with
  | zero => simp [le, ofLe, Nat.mod_one]
  | succ n ih =>
    simp only [le, List.map_cons, ofLe, ih, Nat.mod_mod]
    rw [Nat.pow_succ', Nat.mod_mul]

/-- Settles O11: inside the range the stored byte, outside it the old one, and the word by its four bytes. -/
theorem memoryReadsWhatWasStored : Obligations.MemoryReadsWhatWasStored := by
  unfold Obligations.MemoryReadsWhatWasStored
  intro s a bs hwf
  refine ⟨fun x => ?_, ?_, fun v => ?_⟩
  · rw [State.setMemBytes_mem]
    split
    · next hin =>
      obtain ⟨i, rfl⟩ := Nat.exists_eq_add_of_le hin.1
      rw [Nat.add_sub_cancel_left]
      exact memGet_memSetBytes_in bs s.mem a i (by omega)
    · next hout => exact memGet_memSetBytes_out bs s.mem a x (by omega)
  · rw [State.setMemBytes_mem]
    exact memory_wf_memSetBytes bs s.mem a hwf
  · have hread := memBytes_memSetBytes s.mem a (le 4 v)
    rw [length_le] at hread
    rw [State.memWord, State.setMemWord, State.setMemBytes_mem, hread]
    exact ofLe_le_map_mod 4 v

end Sys2Proof.Machine
end

section
/-! The threshold of Levelling (R138, R140): a rising list cut at one of its keys. -/

namespace Sys2Proof.Machine

/-- In a rising list the keys below its `i`-th are the first `i`. -/
theorem filter_lt_getElem {ks : List Nat} (h : ks.Pairwise (· < ·)) {i : Nat} (hi : i < ks.length) :
    ks.filter (· < ks[i]) = ks.take i := by
  have hget := List.pairwise_iff_getElem.mp h
  obtain ⟨b, hb⟩ : ∃ b, b = ks[i] := ⟨_, rfl⟩
  rw [← hb]
  conv => lhs; rw [← List.take_append_drop i ks]
  rw [List.filter_append, List.filter_eq_self.mpr, List.filter_eq_nil_iff.mpr, List.append_nil]
  · intro x hx
    obtain ⟨j, hj, rfl⟩ := List.mem_iff_getElem.mp hx
    rw [List.getElem_drop, hb]
    rcases Nat.eq_zero_or_pos j with rfl | hpos
    · simp
    · have := hget i (i + j) hi (by simp at hj; omega) (by omega)
      simp; omega
  · intro x hx
    obtain ⟨j, hj, rfl⟩ := List.mem_iff_getElem.mp hx
    simp only [List.length_take] at hj
    rw [List.getElem_take, hb]
    simpa using hget j i (by omega) hi (by omega)

/-- The others are those from it on. -/
theorem length_filter_ge_getElem {ks : List Nat} (h : ks.Pairwise (· < ·)) {i : Nat} (hi : i < ks.length) :
    (ks.filter (ks[i] ≤ ·)).length = ks.length - i := by
  have hsum := List.length_eq_countP_add_countP (l := ks) fun x => decide (x < ks[i])
  rw [List.countP_eq_length_filter, List.countP_eq_length_filter, filter_lt_getElem h hi, List.length_take,
    Nat.min_eq_left (Nat.le_of_lt hi)] at hsum
  have hge : (ks.filter fun x => decide (ks[i] ≤ x)) = ks.filter fun x => decide ¬ decide (x < ks[i]) = true := by
    refine List.filter_congr fun x _ => ?_
    rw [decide_eq_decide, decide_eq_true_eq, Nat.not_lt]
  rw [hge]
  omega

/-- A key below another of a rising list comes before it. -/
theorem index_lt_of_getElem_lt {ks : List Nat} (h : ks.Pairwise (· < ·)) {i j : Nat} (hi : i < ks.length)
    (hj : j < ks.length) (hlt : ks[i] < ks[j]) : i < j := by
  refine Nat.lt_of_not_le fun hge => ?_
  rcases Nat.eq_or_lt_of_le hge with rfl | hji
  · exact Nat.lt_irrefl _ hlt
  · have := List.pairwise_iff_getElem.mp h j i hj hi hji
    omega

theorem getElem_mono {ks : List Nat} (h : ks.Pairwise (· < ·)) {i j : Nat} (hi : i < ks.length) (hj : j < ks.length)
    (hle : i ≤ j) : ks[i] ≤ ks[j] := by
  rcases Nat.eq_or_lt_of_le hle with rfl | hlt
  · exact Nat.le_refl _
  · exact Nat.le_of_lt (List.pairwise_iff_getElem.mp h i j hi hj hlt)

/-- A charging arm: the threshold is the `n`-th key, or above them all. -/
theorem threshold_charging (ks : List Nat) (n : Nat) :
    threshold ks n false = if h : n < ks.length then (ks[n], some ks[n]) else (noKey, none) := by
  unfold threshold
  by_cases h : n < ks.length <;> simp [h]

/-- A discharging arm: the threshold is the `n`-th key from the end, and the trim key the one before it. -/
theorem threshold_discharging {ks : List Nat} {n : Nat} (hn : n ≤ ks.length) :
    threshold ks n true = (if h : 0 < n then ks[ks.length - n]'(by omega) else noKey,
      if h : n < ks.length then some (ks[ks.length - n - 1]'(by omega)) else none) := by
  unfold threshold
  rcases Nat.eq_zero_or_pos n with rfl | hpos
  · by_cases h : 0 < ks.length <;> simp [h]
  · have h1 : ks.length - n < ks.length := by omega
    by_cases h : n < ks.length
    · have h2 : ks.length - n - 1 < ks.length := by omega
      simp [h, hpos, h1, h2]
    · simp [h, hpos, h1]

/-- Settles O18: the threshold is a key of the list, or the bound above them all, and the trim key is its neighbour. -/
theorem thresholdSelectsExactlyN : Obligations.ThresholdSelectsExactlyN := by
  unfold Obligations.ThresholdSelectsExactlyN
  intro ks n hrise hmax hn
  have hbelow : ∀ k ∈ ks, k < noKey := hmax
  rw [threshold_charging, threshold_discharging hn]
  refine ⟨?_, ?_, fun k hk => ?_, fun k hk => ?_⟩
  · split
    · next h => rw [filter_lt_getElem hrise h, List.length_take, Nat.min_eq_left hn]
    · next h =>
      rw [List.filter_eq_self.mpr fun k hk => decide_eq_true (hbelow k hk)]
      omega
  · dsimp only
    split
    · next h =>
      rw [length_filter_ge_getElem hrise]
      omega
    · next h =>
      obtain rfl : n = 0 := by omega
      rw [List.filter_eq_nil_iff.mpr fun k hk => by simpa using hbelow k hk]
      rfl
  · split at hk
    · next h =>
      obtain rfl := Option.some.inj hk
      simp only [h, dif_pos]
      exact ⟨List.getElem_mem h, Nat.le_refl _, fun _ _ hj => hj⟩
    · cases hk
  · dsimp only at hk ⊢
    split at hk
    · next h =>
      obtain rfl := Option.some.inj hk
      have hlast : ks.length - n - 1 < ks.length := by omega
      refine ⟨List.getElem_mem hlast, ?_, fun j hj hlt => ?_⟩
      · split
        · exact List.pairwise_iff_getElem.mp hrise _ _ _ _ (by omega)
        · exact hbelow _ (List.getElem_mem hlast)
      · obtain ⟨i, hi, rfl⟩ := List.mem_iff_getElem.mp hj
        refine getElem_mono hrise hi hlast ?_
        split at hlt
        · have := index_lt_of_getElem_lt hrise hi _ hlt
          omega
        · omega
    · cases hk

end Sys2Proof.Machine
end

section
/-! Event counters (R11, R12): an event below saturation, the one that saturates, and the clear by a read. -/

namespace Sys2Proof.Machine

open Sys2Proof

theorem ovfOf_key_ne {f : Fld} (hlo : f.lo = 0) : (ovfOf f).key ≠ f.key := by
  simp [ovfOf, Fld.key, hlo]

theorem State.count_of_lt {s : State} {f : Fld} (h : s.get f < 0x7FFFFFFE) : s.count f = s.put f (s.get f + 1) := by
  rw [State.count, State.countN, if_pos (by omega)]

/-- The event that reaches all-ones, and every later one. -/
theorem State.count_of_ge {s : State} {f : Fld} (h : 0x7FFFFFFE ≤ s.get f) :
    s.count f = (s.put f 0x7FFFFFFF).put (ovfOf f) 1 := by
  rw [State.count, State.countN, if_neg (by omega)]

theorem State.get_count_of_lt {s : State} {f : Fld} (hw : f.width = 31) (h : s.get f < 0x7FFFFFFE) :
    (s.count f).get f = s.get f + 1 := by
  rw [State.count_of_lt h, State.get_put_self, hw, Nat.mod_eq_of_lt (by omega)]

theorem State.ovf_count_of_lt {s : State} {f : Fld} (hlo : f.lo = 0) (h : s.get f < 0x7FFFFFFE) :
    (s.count f).get (ovfOf f) = s.get (ovfOf f) := by
  rw [State.count_of_lt h, State.get_put_ne _ _ _ _ (ovfOf_key_ne hlo)]

theorem State.get_count_of_ge {s : State} {f : Fld} (hlo : f.lo = 0) (hw : f.width = 31) (h : 0x7FFFFFFE ≤ s.get f) :
    (s.count f).get f = 0x7FFFFFFF := by
  rw [State.count_of_ge h, State.get_put_ne _ _ _ _ (ovfOf_key_ne hlo).symm, State.get_put_self]
  exact congrArg (fun w => 0x7FFFFFFF % 2 ^ w) hw

theorem State.ovf_count_of_ge {s : State} {f : Fld} (h : 0x7FFFFFFE ≤ s.get f) : (s.count f).get (ovfOf f) = 1 := by
  rw [State.count_of_ge h, State.get_put_self]
  rfl

/-- A counter outside the words that FC_STATUS and the Field Book show is cleared with its OVF. -/
theorem State.clearRc_counter (s : State) {f : Fld} (hfc : ¬ (0x20100 ≤ f.addr ∧ f.addr < 0x20120))
    (hmerged : f.addr ≠ FB_MERGED.addr) (hlost : f.addr ≠ FB_LOST.addr) :
    s.clearRc [⟨f, .rc, false, []⟩, ⟨ovfOf f, .rc, false, []⟩] = (s.put f 0).put (ovfOf f) 0 := by
  have hovf : (ovfOf f).addr = f.addr := rfl
  simp only [State.clearRc, List.filter, decide_true, List.foldl, hovf, if_neg hfc, if_neg hmerged, if_neg hlost]

theorem State.clearRc_merged (s : State) :
    s.clearRc [⟨FB_MERGED, .rc, false, []⟩, ⟨FB_MERGED_OVF, .rc, false, []⟩] = { s with fb := { s.fb with merged := 0 } } :=
  rfl

theorem State.clearRc_lost (s : State) :
    s.clearRc [⟨FB_LOST, .rc, false, []⟩, ⟨FB_LOST_OVF, .rc, false, []⟩] = { s with fb := { s.fb with dropped := 0 } } :=
  rfl

/-- Settles O13: an event by the two cases of the count, a read by what it clears. -/
theorem countersSaturateAndClear : Obligations.CountersSaturateAndClear := by
  unfold Obligations.CountersSaturateAndClear
  intro s f hlo hw _
  refine ⟨fun h => ⟨State.get_count_of_lt hw h, State.ovf_count_of_lt hlo h⟩,
    fun h => ⟨State.get_count_of_ge hlo hw h, State.ovf_count_of_ge h⟩, fun hovf => ?_, ?_, ?_⟩
  · rcases Nat.lt_or_ge (s.get f) 0x7FFFFFFE with h | h
    · rw [State.ovf_count_of_lt hlo h, hovf]
    · exact State.ovf_count_of_ge h
  · rintro u hfc hmerged hlost rfl
    rw [State.clearRc_counter s hfc hmerged hlost]
    have hcnt : ((s.put f 0).put (ovfOf f) 0).get f = 0 := by
      rw [State.get_put_ne _ _ _ _ (ovfOf_key_ne hlo).symm, State.get_put_self, Nat.zero_mod]
    have hovf : ((s.put f 0).put (ovfOf f) 0).get (ovfOf f) = 0 := by rw [State.get_put_self, Nat.zero_mod]
    have hlt : ((s.put f 0).put (ovfOf f) 0).get f < 0x7FFFFFFE := by rw [hcnt]; decide
    exact ⟨hcnt, hovf, by rw [State.get_count_of_lt hw hlt, hcnt], by rw [State.ovf_count_of_lt hlo hlt, hovf]⟩
  · rintro u v rfl rfl
    rw [State.clearRc_merged, State.clearRc_lost]
    exact ⟨rfl, rfl, rfl, rfl⟩

end Sys2Proof.Machine
end

section
/-! The lease record of a Stake (R258): when a frame is accepted as that of the holder, and what each kind of frame writes. -/

namespace Sys2Proof.Machine

/-- A frame with HOLDER is taken for the record: there is none, or it is newer from the recorded board, or it is the next
epoch of the other board and the lease is free (R258). -/
def State.leaseTakes (s : State) (h : Header) : Prop :=
  s.on LS_SREC_VALID = false ∨
    (boardOf h.sender = s.get LS_SREC_BOARD ∧ isNewer 32 h.epoch (s.get LS_SEPOCH_EPOCH) = true) ∨
    (boardOf h.sender ≠ s.get LS_SREC_BOARD ∧ h.epoch = (s.get LS_SEPOCH_EPOCH + 1) % 2 ^ 32 ∧ s.leaseFree = true)

/-- The record that a frame leaves: holder, board and epoch of the frame, a full lease, not released. -/
def State.leaseGranted (s : State) (h : Header) : State :=
  (((((((s.put LS_SREC_VALID 1).put LS_SREC_BOARD (boardOf h.sender)).put LS_SREC_HOLDER h.sender).put LS_SEPOCH_EPOCH
    h.epoch).put LS_SREC_LEASE_T (s.cfg LS_SCFG_LT)).put LS_SREC_RELEASED 0).count LS_GRANT).ackBoth

@[simp] theorem State.ackBoth_get (s : State) (g : Fld) : s.ackBoth.get g = s.get g := rfl

theorem State.leaseProcess_of_takes {s : State} {h : Header} (hh : holderBit h = true) (ht : s.leaseTakes h) :
    s.leaseProcess h = s.leaseGranted h := by
  rw [State.leaseProcess, if_pos hh, if_pos]
  · rfl
  · rcases ht with ht | ⟨hb, hn⟩ | ⟨hb, hn, hf⟩
    · simp [ht]
    · simp [hb, hn]
    · simp [hb, hn, hf]

/-- A counter leaves every field of another word. -/
theorem State.get_count_ne (s : State) {f g : Fld} (hf : g.key ≠ f.key) (ho : g.key ≠ (ovfOf f).key) :
    (s.count f).get g = s.get g := by
  rw [State.count, State.countN]
  split
  · rw [State.get_put_ne _ _ _ _ hf]
  · rw [State.get_put_ne _ _ _ _ ho, State.get_put_ne _ _ _ _ hf]

/-- Any other frame leaves epoch and board. -/
theorem State.leaseProcess_of_not_takes {s : State} {h : Header} (hn : ¬ (holderBit h = true ∧ s.leaseTakes h)) :
    (s.leaseProcess h).get LS_SEPOCH_EPOCH = s.get LS_SEPOCH_EPOCH ∧
      (s.leaseProcess h).get LS_SREC_BOARD = s.get LS_SREC_BOARD := by
  unfold State.leaseProcess
  extract_lets b same next
  split
  · next hh =>
    rw [if_neg]
    · split
      · exact ⟨State.get_put_ne _ _ _ _ (by decide), State.get_put_ne _ _ _ _ (by decide)⟩
      · exact ⟨rfl, rfl⟩
    · intro hc
      refine hn ⟨hh, ?_⟩
      simpa [State.leaseTakes, same, next, b, and_assoc, or_assoc] using hc
  · split
    · constructor <;>
        simp (disch := decide) only [State.ackBoth_get, State.get_count_ne, State.get_put_ne]
    · exact ⟨rfl, rfl⟩

theorem State.leaseGranted_epoch (s : State) {h : Header} (hep : h.epoch < 2 ^ 32) :
    (s.leaseGranted h).get LS_SEPOCH_EPOCH = h.epoch := by
  simp (disch := decide) only [State.leaseGranted, State.ackBoth_get, State.get_count_ne, State.get_put_ne,
    State.get_put_self]
  exact Nat.mod_eq_of_lt hep

theorem State.leaseGranted_board (s : State) (h : Header) :
    (s.leaseGranted h).get LS_SREC_BOARD = boardOf h.sender := by
  simp (disch := decide) only [State.leaseGranted, State.ackBoth_get, State.get_count_ne, State.get_put_ne,
    State.get_put_self]
  exact Nat.mod_mod _ _

theorem State.leaseGranted_holder (s : State) {h : Header} (hsend : h.sender < 2 ^ 16) :
    (s.leaseGranted h).get LS_SREC_HOLDER = h.sender := by
  simp (disch := decide) only [State.leaseGranted, State.ackBoth_get, State.get_count_ne, State.get_put_ne,
    State.get_put_self]
  exact Nat.mod_eq_of_lt hsend

theorem State.leaseGranted_timer (s : State) (h : Header) :
    (s.leaseGranted h).get LS_SREC_LEASE_T = s.cfg LS_SCFG_LT % 2 ^ LS_SREC_LEASE_T.width := by
  simp (disch := decide) only [State.leaseGranted, State.ackBoth_get, State.get_count_ne, State.get_put_ne,
    State.get_put_self]

theorem State.leaseGranted_valid (s : State) (h : Header) : (s.leaseGranted h).on LS_SREC_VALID = true := by
  simp (disch := decide) only [State.on, State.leaseGranted, State.ackBoth_get, State.get_count_ne, State.get_put_ne,
    State.get_put_self]
  decide

theorem State.leaseGranted_released (s : State) (h : Header) : (s.leaseGranted h).on LS_SREC_RELEASED = false := by
  simp (disch := decide) only [State.on, State.leaseGranted, State.ackBoth_get, State.get_count_ne,
    State.get_put_self]
  decide

/-- Settles O21: the record changes only by a frame that `leaseTakes`, and then it is `leaseGranted`. -/
theorem leaseRecordMovesForward : Obligations.LeaseRecordMovesForward := by
  unfold Obligations.LeaseRecordMovesForward
  rintro s t h rfl hep hsend hch
  by_cases ht : holderBit h = true ∧ s.leaseTakes h
  · obtain ⟨hh, htake⟩ := ht
    rw [State.leaseProcess_of_takes hh htake]
    refine ⟨hh, s.leaseGranted_epoch hep, s.leaseGranted_holder hsend, s.leaseGranted_board h, s.leaseGranted_valid h,
      s.leaseGranted_released h, s.leaseGranted_timer h, fun hv => ?_⟩
    rcases htake with hno | hsame | ⟨hother, hnext, hfree⟩
    · exact absurd hv (by simp [hno])
    · exact .inl hsame
    · exact .inr ⟨hother, hnext, by simpa [State.leaseFree] using hfree⟩
  · obtain ⟨he, hb⟩ := State.leaseProcess_of_not_takes ht
    simp [he, hb] at hch

end Sys2Proof.Machine
end

section
/-! What an assertion of a source touches (R293 to R296): named registers, and a fixed list of parts of the state. -/

namespace Sys2Proof.Machine

open Sys2Proof

/-! ### Registers by block -/

/-- The block of a register: its address without the low 16 bits. -/
def Fld.block (f : Fld) : Nat := f.key / 2 ^ 21

/-- Of the live registers an operation writes those of the blocks named alone. -/
def WritesIn (bs : List Nat) (s t : State) : Prop := ∀ g : Fld, g.block ∉ bs → t.get g = s.get g

theorem WritesIn.refl (bs : List Nat) (s : State) : WritesIn bs s s := fun _ _ => rfl

theorem WritesIn.trans {bs : List Nat} {s t u : State} (h : WritesIn bs s t) (k : WritesIn bs t u) : WritesIn bs s u :=
  fun g hg => (k g hg).trans (h g hg)

theorem WritesIn.mono {bs cs : List Nat} {s t : State} (h : WritesIn bs s t) (hsub : bs ⊆ cs) : WritesIn cs s t :=
  fun g hg => h g fun hb => hg (hsub hb)

theorem WritesIn.on {bs : List Nat} {s t : State} (h : WritesIn bs s t) {g : Fld} (hg : g.block ∉ bs) :
    t.on g = s.on g := by
  rw [State.on, h g hg, State.on]

theorem WritesIn.ite {bs : List Nat} {s t u : State} {c : Prop} [Decidable c] (ht : WritesIn bs s t)
    (hu : WritesIn bs s u) : WritesIn bs s (if c then t else u) := by
  split
  · exact ht
  · exact hu

theorem writesIn_foldl {β : Type} {bs : List Nat} {f : State → β → State} (l : List β)
    (hf : ∀ s, ∀ b ∈ l, WritesIn bs s (f s b)) (s : State) : WritesIn bs s (l.foldl f s) := by
  induction l generalizing s with
  | nil => exact WritesIn.refl bs s
  | cons b l ih =>
    exact (hf s b List.mem_cons_self).trans (ih (fun s c hc => hf s c (List.mem_cons_of_mem b hc)) _)

theorem State.put_writesIn {bs : List Nat} {s t : State} (h : WritesIn bs s t) {f : Fld} (v : Nat) (hf : f.block ∈ bs) :
    WritesIn bs s (t.put f v) := fun g hg => by
  rw [State.get_put_ne _ _ _ _ fun e => hg (by rw [Fld.block, e]; exact hf), h g hg]

theorem State.putB_writesIn {bs : List Nat} {s t : State} (h : WritesIn bs s t) {f : Fld} (b : Bool) (hf : f.block ∈ bs) :
    WritesIn bs s (t.putB f b) := State.put_writesIn h _ hf

theorem State.count_writesIn {bs : List Nat} {s t : State} (h : WritesIn bs s t) {f : Fld} (hf : f.block ∈ bs)
    (ho : (ovfOf f).block ∈ bs) : WritesIn bs s (t.count f) := by
  rw [State.count, State.countN]
  exact WritesIn.ite (State.put_writesIn h _ hf) (State.put_writesIn (State.put_writesIn h _ hf) _ ho)

/-! ### Parts of the state -/

/-- The state without the parts that an assertion of a source, or what follows from one, may change. -/
def State.besideFaults (s : State) : State :=
  { s with live := [], out := [], links := [], tb := {}, sf := {}, gs := {}, gate := [], fc := {}, fb := {}, dr := {} }

theorem besideFaults_foldl {β : Type} {f : State → β → State} (hf : ∀ s b, (f s b).besideFaults = s.besideFaults)
    (l : List β) (s : State) : (l.foldl f s).besideFaults = s.besideFaults := by
  induction l generalizing s with
  | nil => rfl
  | cons b l ih => rw [List.foldl_cons, ih, hf]

@[simp] theorem State.put_besideFaults (s : State) (f : Fld) (v : Nat) : (s.put f v).besideFaults = s.besideFaults := rfl
@[simp] theorem State.putB_besideFaults (s : State) (f : Fld) (b : Bool) : (s.putB f b).besideFaults = s.besideFaults := rfl
@[simp] theorem State.emit_besideFaults (s : State) (o : Out) : (s.emit o).besideFaults = s.besideFaults := rfl

@[simp] theorem State.count_besideFaults (s : State) (f : Fld) : (s.count f).besideFaults = s.besideFaults := by
  rw [State.count, State.countN]
  split <;> rfl

/-! ### The operations below an assertion -/

@[simp] theorem State.sendNow_live (s : State) (n : Nat) (y : Sym) : (s.sendNow n y).live = s.live := by
  unfold State.sendNow State.gcmdOut
  dsimp only
  split <;> rfl

@[simp] theorem State.sendNow_besideFaults (s : State) (n : Nat) (y : Sym) :
    (s.sendNow n y).besideFaults = s.besideFaults := by
  unfold State.sendNow State.gcmdOut
  dsimp only
  split <;> rfl

@[simp] theorem State.sendNow_sf (s : State) (n : Nat) (y : Sym) : (s.sendNow n y).sf = s.sf := by
  unfold State.sendNow State.gcmdOut
  dsimp only
  split <;> rfl

theorem State.offChan_eq (s : State) (all : Bool) (n : Nat) : s.offChan all n = s ∨ s.offChan all n = s.sendNow n .off := by
  unfold State.offChan
  dsimp only
  split
  · exact .inl rfl
  · split
    · exact .inr rfl
    · exact .inl rfl

@[simp] theorem State.offChan_live (s : State) (all : Bool) (n : Nat) : (s.offChan all n).live = s.live := by
  rcases s.offChan_eq all n with h | h <;> simp [h]

@[simp] theorem State.offChan_besideFaults (s : State) (all : Bool) (n : Nat) :
    (s.offChan all n).besideFaults = s.besideFaults := by
  rcases s.offChan_eq all n with h | h <;> simp [h]

@[simp] theorem State.offChan_sf (s : State) (all : Bool) (n : Nat) : (s.offChan all n).sf = s.sf := by
  rcases s.offChan_eq all n with h | h <;> simp [h]

theorem State.get_of_live {s t : State} (h : t.live = s.live) (g : Fld) : t.get g = s.get g := by
  rw [State.get, h, State.get]

/-- A fold of steps that leave a part of the state leaves it. -/
theorem foldl_part {α β : Type} {π : State → α} {f : State → β → State} (hf : ∀ s b, π (f s b) = π s) (l : List β)
    (s : State) : π (l.foldl f s) = π s := by
  induction l generalizing s with
  | nil => rfl
  | cons b l ih => rw [List.foldl_cons, ih, hf]

@[simp] theorem State.count_sf (s : State) (f : Fld) : (s.count f).sf = s.sf := by
  rw [State.count, State.countN]
  split <;> rfl

theorem State.dropTrim_eq (s : State) :
    s.dropTrim = s ∨ s.dropTrim = ({ s with gs := { s.gs with trimEnd := none } } : State).count LVL_TRIMLOST := by
  unfold State.dropTrim
  split
  · exact .inr rfl
  · exact .inl rfl

/-- Forced Off writes registers of the power stage, and counts a trim in Levelling. -/
theorem State.forceOff_writesIn (s : State) : WritesIn [6, 0xB] s s.forceOff := by
  unfold State.forceOff
  extract_lets all s1 s2
  have h1 : WritesIn [6, 0xB] s s1 := fun g _ => State.get_of_live (foldl_part (fun s n => s.offChan_live all n) _ _) g
  have h2 : WritesIn [6, 0xB] s s2 := by
    refine State.put_writesIn ?_ _ (by decide)
    rcases s1.dropTrim_eq with e | e
    · rw [e]; exact h1
    · rw [e]
      have hgs : WritesIn [6, 0xB] s { s1 with gs := { s1.gs with trimEnd := none } } := h1.trans fun _ _ => rfl
      exact State.count_writesIn hgs (by decide) (by decide)
  have h3 : WritesIn [6, 0xB] s { s2 with gs := { s2.gs with
      needEntry := true, offAtApply := false, refreshDue := false, refreshRun := false } } := h2.trans fun _ _ => rfl
  exact State.putB_writesIn (State.putB_writesIn h3 _ (by decide)) _ (by decide)

@[simp] theorem State.forceOff_besideFaults (s : State) : s.forceOff.besideFaults = s.besideFaults := by
  unfold State.forceOff
  extract_lets all s1 s2
  have h1 : s1.besideFaults = s.besideFaults := besideFaults_foldl (fun s n => s.offChan_besideFaults all n) _ _
  have h2 : s2.besideFaults = s.besideFaults := by
    rcases s1.dropTrim_eq with e | e
    · rw [← h1]; simp only [s2, e, State.put_besideFaults]
    · rw [← h1]; simp only [s2, e, State.put_besideFaults, State.count_besideFaults]; rfl
  simp only [State.updPblk, State.updRefresh, State.putB_besideFaults]
  exact h2

@[simp] theorem State.forceOff_sf (s : State) : s.forceOff.sf = s.sf := by
  unfold State.forceOff
  extract_lets all s1 s2
  have h1 : s1.sf = s.sf := foldl_part (π := State.sf) (fun s n => s.offChan_sf all n) _ _
  have h2 : s2.sf = s.sf := by
    rcases s1.dropTrim_eq with e | e
    · rw [← h1]; simp only [s2, e, State.put_sf]
    · rw [← h1]; simp only [s2, e, State.put_sf, State.count_sf]
  exact h2

/-- The cell of a Stake that is forced Off is Off (R171). -/
theorem State.forceOff_cell (s : State) : s.forceOff.cell = .off := by
  have h : s.forceOff.get GS_STAT_CELL = 0 := by
    unfold State.forceOff
    extract_lets all s1 s2
    have h2 : s2.get GS_STAT_CELL = 0 := State.get_put_self _ _ _
    simp (disch := decide) only [State.updPblk, State.updRefresh, State.putB, State.get_put_ne]
    exact h2
  simp only [State.cell, h]

theorem State.mirrorSafe_writesIn (s : State) : WritesIn [0xE] s s.mirrorSafe := by
  unfold State.mirrorSafe
  extract_lets both
  have h := WritesIn.refl [0xE] s
  exact WritesIn.ite
    (State.putB_writesIn (State.putB_writesIn (State.putB_writesIn h _ (by decide)) _ (by decide)) _ (by decide))
    (State.putB_writesIn (State.putB_writesIn (State.putB_writesIn h _ (by decide)) _ (by decide)) _ (by decide))

@[simp] theorem State.mirrorSafe_besideFaults (s : State) : s.mirrorSafe.besideFaults = s.besideFaults := by
  unfold State.mirrorSafe
  dsimp only
  split <;> rfl

@[simp] theorem State.mirrorSafe_sf (s : State) : s.mirrorSafe.sf = s.sf := by
  unfold State.mirrorSafe
  dsimp only
  split <;> rfl

/-- A BLOCK pair of a Datum counts at its port. -/
theorem State.ownPair_writesIn (s : State) {p : Nat} (hp : p < 16) : WritesIn [5] s (s.ownPair p) := by
  have hblock : (BLOCK_FWD_CNT p).block = 5 ∧ (ovfOf (BLOCK_FWD_CNT p)).block = 5 := by
    simp only [Fld.block, Fld.key, BLOCK_FWD_CNT, ovfOf]
    omega
  exact State.count_writesIn (fun _ _ => rfl) (by simp [hblock]) (by simp [hblock])

@[simp] theorem State.ownPair_besideFaults (s : State) (p : Nat) : (s.ownPair p).besideFaults = s.besideFaults := by
  unfold State.ownPair State.pairOut
  simp only [State.emit_besideFaults, State.count_besideFaults]
  rfl

@[simp] theorem State.ownPair_sf (s : State) (p : Nat) : (s.ownPair p).sf = s.sf := by
  unfold State.ownPair State.pairOut
  simp only [State.emit_sf, State.count_sf]
  rfl

theorem State.sendBlocks_writesIn (s : State) : WritesIn [5] s s.sendBlocks := by
  unfold State.sendBlocks
  split
  · exact fun _ _ => rfl
  · refine WritesIn.ite (fun _ _ => rfl) (writesIn_foldl _ (fun t p hp => t.ownPair_writesIn ?_) s)
    simp only [State.blockPorts, List.mem_filter, List.mem_range] at hp
    exact hp.1

@[simp] theorem State.sendBlocks_besideFaults (s : State) : s.sendBlocks.besideFaults = s.besideFaults := by
  unfold State.sendBlocks
  split
  · rfl
  · split
    · rfl
    · exact besideFaults_foldl State.ownPair_besideFaults _ _

@[simp] theorem State.sendBlocks_sf (s : State) : s.sendBlocks.sf = s.sf := by
  unfold State.sendBlocks
  split
  · rfl
  · split
    · rfl
    · exact foldl_part (π := State.sf) State.ownPair_sf _ _

theorem State.abortInj_writesIn (s : State) : WritesIn [9] s s.abortInj := by
  refine writesIn_foldl _ (fun t g hg => ?_) s
  have hg4 : g < 4 := List.mem_range.mp hg
  have hblock : (INJ_GEN_STAT_RUN g).block ∈ [9] ∧ (INJ_GEN_STAT_ARMED g).block ∈ [9] ∧
      (INJ_GEN_STAT_ABORT g).block ∈ [9] := by
    simp only [Fld.block, Fld.key, INJ_GEN_STAT_RUN, INJ_GEN_STAT_ARMED, INJ_GEN_STAT_ABORT, List.mem_singleton]
    omega
  obtain ⟨hrun, harmed, habort⟩ := hblock
  exact WritesIn.ite (State.count_writesIn (State.put_writesIn (State.put_writesIn (State.put_writesIn
    (WritesIn.refl _ _) _ hrun) _ harmed) _ habort) (by decide) (by decide)) (WritesIn.refl _ _)

@[simp] theorem State.abortInj_besideFaults (s : State) : s.abortInj.besideFaults = s.besideFaults := by
  refine besideFaults_foldl (fun t g => ?_) _ _
  split
  · simp only [State.count_besideFaults, State.put_besideFaults]
  · rfl

@[simp] theorem State.abortInj_sf (s : State) : s.abortInj.sf = s.sf := by
  refine foldl_part (π := State.sf) (fun t g => ?_) _ _
  split
  · simp only [State.count_sf, State.put_sf]
  · rfl

/-! ### Blocks of the channels -/

/-- A block of a Datum leaves each named channel BLOCKED and the other as it was. -/
theorem State.blockDatum_permit (s : State) (x y : Bool) (f : Fld) :
    (s.blockDatum x y f).sf.x.permit = (s.sf.x.permit && !x) ∧ (s.blockDatum x y f).sf.y.permit = (s.sf.y.permit && !y) := by
  unfold State.blockDatum
  extract_lets newX newY _ _ _ sf s1 s2 s3
  have h3 : s3.sf = sf := by
    simp only [s3, s2, State.mirrorSafe_sf]
    split
    · rw [State.count_sf]; rfl
    · rfl
  split
  · rw [State.abortInj_sf, State.sendBlocks_sf, h3]; exact ⟨rfl, rfl⟩
  · rw [h3]; exact ⟨rfl, rfl⟩

theorem State.blockDatum_writesIn (s : State) (x y : Bool) {f : Fld} (hf : f.block = 0xE) :
    WritesIn [5, 9, 0xE] s (s.blockDatum x y f) := by
  unfold State.blockDatum
  extract_lets newX newY _ _ _ sf s1 s2 s3
  have h1 : WritesIn [5, 9, 0xE] s s1 := State.put_writesIn (fun _ _ => rfl) _ (by simp [hf])
  have h2 : WritesIn [5, 9, 0xE] s s2 := WritesIn.ite (State.count_writesIn h1 (by decide) (by decide)) h1
  have h3 : WritesIn [5, 9, 0xE] s s3 := h2.trans (s2.mirrorSafe_writesIn.mono (by simp))
  exact WritesIn.ite ((h3.trans (s3.sendBlocks_writesIn.mono (by simp))).trans
    (s3.sendBlocks.abortInj_writesIn.mono (by simp))) h3

@[simp] theorem State.blockDatum_besideFaults (s : State) (x y : Bool) (f : Fld) :
    (s.blockDatum x y f).besideFaults = s.besideFaults := by
  unfold State.blockDatum
  extract_lets newX newY _ _ _ sf s1 s2 s3
  have h3 : s3.besideFaults = s.besideFaults := by
    simp only [s3, s2, State.mirrorSafe_besideFaults]
    split
    · rw [State.count_besideFaults]; rfl
    · rfl
  split
  · rw [State.abortInj_besideFaults, State.sendBlocks_besideFaults, h3]
  · exact h3

/-- The causes of a block event at a Stake, put one after the other. -/
theorem putAll_sf (l : List Fld) (s : State) : (l.foldl (fun s c => s.put c 1) s).sf = s.sf :=
  foldl_part (π := State.sf) (f := fun s c => s.put c 1) (fun _ _ => rfl) l s

theorem State.blockStake_permit (s : State) (x y : Bool) (l : List Fld) :
    (s.blockStake x y l).sf.x.permit = (s.sf.x.permit && !x) ∧ (s.blockStake x y l).sf.y.permit = (s.sf.y.permit && !y) := by
  simp only [State.blockStake, State.forceOff_sf, State.mirrorSafe_sf, putAll_sf, and_self]

theorem State.blockStake_cell (s : State) (x y : Bool) (l : List Fld) : (s.blockStake x y l).cell = .off :=
  State.forceOff_cell _

theorem State.blockStake_writesIn (s : State) (x y : Bool) {l : List Fld} (hl : ∀ f ∈ l, f.block = 0xE) :
    WritesIn [6, 0xB, 0xE] s (s.blockStake x y l) := by
  unfold State.blockStake
  extract_lets _ _ _ sf s1
  have h1 : WritesIn [6, 0xB, 0xE] s s1 := WritesIn.trans (t := { s with sf := sf }) (fun _ _ => rfl)
    (writesIn_foldl l (fun t f hf => State.put_writesIn (WritesIn.refl _ _) _ (by simp [hl f hf])) _)
  exact (h1.trans (s1.mirrorSafe_writesIn.mono (by simp))).trans (s1.mirrorSafe.forceOff_writesIn.mono (by simp))

@[simp] theorem State.blockStake_besideFaults (s : State) (x y : Bool) (l : List Fld) :
    (s.blockStake x y l).besideFaults = s.besideFaults := by
  unfold State.blockStake
  extract_lets _ _ _ sf s1
  rw [State.forceOff_besideFaults, State.mirrorSafe_besideFaults]
  exact besideFaults_foldl (f := fun s c => s.put c 1) (fun _ _ => rfl) l _

/-! ### The effect of class 3 and 4 -/

theorem faultCause_block (src : Nat) : (faultCause src).block = 0xE := by
  unfold faultCause
  split
  · decide
  · split <;> decide

theorem faultCauses_block (src : Nat) : ∀ f ∈ faultCauses src, f.block = 0xE := by
  unfold faultCauses
  split <;> decide

/-- FC_FIRST and the two bits of FC_STAT are all that an assertion of class 3 or 4 writes of the collector itself. -/
def noted (s : State) (src cls : Nat) : State :=
  if cls = 4 then ((s.noteFirst src).put FC_STAT_BLOCK_ACT 1).put FC_STAT_TERMINAL 1
  else (s.noteFirst src).put FC_STAT_BLOCK_ACT 1

theorem State.noteFirst_eq (s : State) (src : Nat) : s.noteFirst src = s ∨
    s.noteFirst src = (({ s with fc := { s.fc with firstAt := some s.now } } : State).put FC_FIRST_SRC src).put FC_FIRST_VALID 1 := by
  unfold State.noteFirst
  split
  · exact .inl rfl
  · exact .inr rfl

theorem noted_besideFaults (s : State) (src cls : Nat) : (noted s src cls).besideFaults = s.besideFaults := by
  have h : (s.noteFirst src).besideFaults = s.besideFaults := by
    rcases s.noteFirst_eq src with e | e
    · rw [e]
    · rw [e]; rfl
  unfold noted
  split <;> exact h

theorem noted_sf (s : State) (src cls : Nat) : (noted s src cls).sf = s.sf := by
  have h : (s.noteFirst src).sf = s.sf := by
    rcases s.noteFirst_eq src with e | e
    · rw [e]
    · rw [e]; rfl
  unfold noted
  split <;> exact h

theorem noted_blockAct (s : State) (src cls : Nat) : (noted s src cls).on FC_STAT_BLOCK_ACT = true := by
  unfold noted
  split
  · rw [State.on_put_ne _ _ _ _ (by decide), State.on_put_self]; rfl
  · rw [State.on_put_self]; rfl

theorem noted_terminal (s : State) (src : Nat) : (noted s src 4).on FC_STAT_TERMINAL = true := by
  rw [noted, if_pos rfl, State.on_put_self]
  rfl

/-- Any other register of the collector. -/
theorem noted_get {g : Fld} (s : State) (src cls : Nat)
    (hg : g.key ∉ [FC_FIRST_SRC.key, FC_FIRST_VALID.key, FC_STAT_BLOCK_ACT.key, FC_STAT_TERMINAL.key]) :
    (noted s src cls).get g = s.get g := by
  simp only [List.mem_cons, not_or, List.not_mem_nil, not_false_eq_true, and_true] at hg
  obtain ⟨hsrc, hvalid, hact, hterm⟩ := hg
  have h : (s.noteFirst src).get g = s.get g := by
    rcases s.noteFirst_eq src with e | e
    · rw [e]
    · rw [e, State.get_put_ne _ _ _ _ hvalid, State.get_put_ne _ _ _ _ hsrc]
      rfl
  unfold noted
  split
  · rw [State.get_put_ne _ _ _ _ hterm, State.get_put_ne _ _ _ _ hact, h]
  · rw [State.get_put_ne _ _ _ _ hact, h]

theorem noted_role (s : State) (src cls : Nat) : (noted s src cls).role = s.role :=
  (congrArg State.role (noted_besideFaults s src cls) :)

theorem State.blockClass_datum {s : State} (h : s.role = .datum) (src cls : Nat) :
    s.blockClass src cls =
      if (noted s src cls).sf.x.permit || (noted s src cls).sf.y.permit then
        (noted s src cls).blockDatum true true (faultCause src)
      else ((noted s src cls).blockDatum true true (faultCause src)).sendBlocks.abortInj := by
  have hr : (noted s src cls).role = .datum := (noted_role s src cls).trans h
  unfold State.blockClass
  exact if_pos hr

/-- FHOLD of a Stake, whose arm has not been seen blocked since (R285). -/
def State.holdFault (s : State) : State := ({ s with sf := { s.sf with fholdSeen := false } } : State).put SF_SSTAT_FHOLD 1

@[simp] theorem State.holdFault_permit (s : State) :
    s.holdFault.sf.x.permit = s.sf.x.permit ∧ s.holdFault.sf.y.permit = s.sf.y.permit := ⟨rfl, rfl⟩

theorem State.holdFault_writesIn (s : State) : WritesIn [0xE] s s.holdFault :=
  State.put_writesIn (s := s) (t := { s with sf := { s.sf with fholdSeen := false } }) (fun _ _ => rfl) _ (by decide)

@[simp] theorem State.holdFault_besideFaults (s : State) : s.holdFault.besideFaults = s.besideFaults := rfl

theorem State.blockClass_stake {s : State} (h : s.role ≠ .datum) (src cls : Nat) :
    s.blockClass src cls =
      ((noted s src cls).blockStake true true (faultCauses src)).holdFault := by
  have hr : (noted s src cls).role ≠ .datum := fun hd => h ((noted_role s src cls).symm.trans hd)
  unfold State.blockClass
  exact if_neg hr

/-- Both channels are BLOCKED, in either role. -/
theorem State.blockClass_blocked (s : State) (src cls : Nat) : (s.blockClass src cls).bothBlocked := by
  by_cases h : s.role = .datum
  · obtain ⟨hx, hy⟩ := (noted s src cls).blockDatum_permit true true (faultCause src)
    rw [State.blockClass_datum h]
    split
    · exact ⟨by simpa using hx, by simpa using hy⟩
    · simp only [State.bothBlocked, State.abortInj_sf, State.sendBlocks_sf]
      exact ⟨by simpa using hx, by simpa using hy⟩
  · obtain ⟨hx, hy⟩ := (noted s src cls).blockStake_permit true true (faultCauses src)
    rw [State.blockClass_stake h, State.bothBlocked, (State.holdFault_permit _).1, (State.holdFault_permit _).2]
    exact ⟨by simpa using hx, by simpa using hy⟩

/-- Beside what is noted, a block writes counters of links, the injector, the power stage and the safe block. -/
theorem State.blockClass_writesIn (s : State) (src cls : Nat) :
    WritesIn [5, 6, 9, 0xB, 0xE] (noted s src cls) (s.blockClass src cls) := by
  by_cases h : s.role = .datum
  · rw [State.blockClass_datum h]
    have hb : WritesIn [5, 6, 9, 0xB, 0xE] (noted s src cls) ((noted s src cls).blockDatum true true (faultCause src)) :=
      (State.blockDatum_writesIn _ true true (faultCause_block src)).mono (by simp)
    exact WritesIn.ite hb ((hb.trans ((State.sendBlocks_writesIn _).mono (by simp))).trans
      ((State.abortInj_writesIn _).mono (by simp)))
  · rw [State.blockClass_stake h]
    have hb : WritesIn [5, 6, 9, 0xB, 0xE] (noted s src cls) ((noted s src cls).blockStake true true (faultCauses src)) :=
      (State.blockStake_writesIn _ true true (faultCauses_block src)).mono (by simp)
    exact hb.trans ((State.holdFault_writesIn _).mono (by simp))

@[simp] theorem State.blockClass_besideFaults (s : State) (src cls : Nat) :
    (s.blockClass src cls).besideFaults = s.besideFaults := by
  rw [← noted_besideFaults s src cls]
  by_cases h : s.role = .datum
  · rw [State.blockClass_datum h]
    split <;> simp only [State.abortInj_besideFaults, State.sendBlocks_besideFaults, State.blockDatum_besideFaults]
  · rw [State.blockClass_stake h]
    rw [State.holdFault_besideFaults, State.blockStake_besideFaults]

theorem State.blockClass_blockAct (s : State) (src cls : Nat) : (s.blockClass src cls).on FC_STAT_BLOCK_ACT = true :=
  ((s.blockClass_writesIn src cls).on (by decide)).trans (noted_blockAct s src cls)

theorem State.blockClass_terminal (s : State) (src : Nat) : (s.blockClass src 4).on FC_STAT_TERMINAL = true :=
  ((s.blockClass_writesIn src 4).on (by decide)).trans (noted_terminal s src)

theorem State.blockClass_fhold {s : State} (h : s.role = .stake) (src cls : Nat) :
    (s.blockClass src cls).on SF_SSTAT_FHOLD = true := by
  rw [State.blockClass_stake (by rw [h]; decide), State.holdFault, State.on_put_self]
  rfl

theorem State.blockClass_cell {s : State} (h : s.role = .stake) (src cls : Nat) : (s.blockClass src cls).cell = .off := by
  rw [State.blockClass_stake (by rw [h]; decide), State.cell, State.holdFault_writesIn _ _ (by decide)]
  exact State.blockStake_cell _ true true (faultCauses src)

end Sys2Proof.Machine
end

section
/-! An assertion of a source (R293): what is noted at every class, and what each class adds. -/

namespace Sys2Proof.Machine

open Sys2Proof

/-! ### What is noted before the block -/

/-- A trigger event of the recorder counts at most. -/
theorem State.drEvent_writesIn (s : State) : WritesIn [0xA] s s.drEvent.2 := by
  unfold State.drEvent
  split
  · exact WritesIn.refl _ _
  · exact State.count_writesIn (WritesIn.refl _ _) (by decide) (by decide)
  · exact State.count_writesIn (WritesIn.refl _ _) (by decide) (by decide)
  · exact State.count_writesIn (WritesIn.refl _ _) (by decide) (by decide)
  · exact WritesIn.refl _ _

theorem State.drEvent_sf (s : State) : s.drEvent.2.sf = s.sf := by
  unfold State.drEvent
  split <;> simp only [State.count_sf]

theorem State.drEvent_besideFaults (s : State) : s.drEvent.2.besideFaults = s.besideFaults := by
  unfold State.drEvent
  split <;> simp only [State.count_besideFaults]

theorem State.drFault_writesIn (s : State) (src c : Nat) : WritesIn [0xA] s (s.drFault src c) := by
  unfold State.drFault
  extract_lets r
  have hr : WritesIn [0xA] s r.2 := s.drEvent_writesIn
  exact WritesIn.ite (WritesIn.ite (hr.trans fun _ _ => rfl) hr) (WritesIn.refl _ _)

theorem State.drFault_sf (s : State) (src c : Nat) : (s.drFault src c).sf = s.sf := by
  unfold State.drFault
  dsimp only
  split
  · split
    · exact s.drEvent_sf
    · exact s.drEvent_sf
  · rfl

theorem State.drFault_besideFaults (s : State) (src c : Nat) : (s.drFault src c).besideFaults = s.besideFaults := by
  unfold State.drFault
  dsimp only
  split
  · split
    · exact s.drEvent_besideFaults
    · exact s.drEvent_besideFaults
  · rfl

/-- The status bit of a source is set, and its class kept. -/
def State.statusSet (s : State) (src : Nat) : State :=
  (s.keepClass src (s.classOf src)).put (FC_STATUS_SRC (src / 32)) (setBitOf (s.get (FC_STATUS_SRC (src / 32))) (src % 32))

/-- PENDING and the interrupt of class 1, DEGRADE of class 2 (R294, R299). -/
def State.signalled (s : State) (c : Nat) (msix : Bool) (vec : Nat) : State :=
  let s3 := if 1 ≤ c then s.put FC_STAT_PENDING 1 else s
  let s4 := if msix then s3.emit (.msix vec) else s3
  if c = 2 then s4.put FC_STAT_DEGRADE 1 else s4

/-- The state in which the effect of class 3 or 4 takes place: status bit, record and signals done. -/
def State.asserted (s : State) (src data : Nat) (forced : Bool) : State :=
  let c := s.classOf src
  let s6 := (((s.statusSet src).stage (s.faultRec src data forced)).signalled c (1 ≤ c ∧ s.role = .datum)
    (s.get FC_CTRL_VEC)).drFault src c
  if c = 4 then { s6 with fc := { s6.fc with stuck := addOnce s6.fc.stuck src } } else s6

theorem State.assertSrc_disabled {s : State} {src : Nat} (h : s.enabled src = false) (data : Nat) (forced : Bool) :
    s.assertSrc src data forced = s := by
  simp [State.assertSrc, h]

/-- An assertion of an enabled source: what is noted at every class, then the block of class 3 and 4. -/
theorem State.assertSrc_enabled {s : State} {src : Nat} (h : s.enabled src = true) (data : Nat) (forced : Bool) :
    s.assertSrc src data forced =
      if 3 ≤ s.classOf src then (s.asserted src data forced).blockClass src (s.classOf src)
      else s.asserted src data forced := by
  simp only [State.assertSrc, h, Bool.not_true, Bool.false_eq_true, if_false, State.asserted, State.statusSet,
    State.signalled, decide_eq_true_eq]

/-! ### Its parts -/

theorem State.signalled_sf (s : State) (c : Nat) (m : Bool) (vec : Nat) : (s.signalled c m vec).sf = s.sf := by
  unfold State.signalled
  dsimp only
  split <;> split <;> split <;> rfl

theorem State.signalled_besideFaults (s : State) (c : Nat) (m : Bool) (vec : Nat) :
    (s.signalled c m vec).besideFaults = s.besideFaults := by
  unfold State.signalled
  dsimp only
  split <;> split <;> split <;> rfl

/-- The signals set PENDING and DEGRADE alone. -/
theorem State.signalled_get (s : State) (c : Nat) (m : Bool) (vec : Nat) {g : Fld} (hp : g.key ≠ FC_STAT_PENDING.key)
    (hd : g.key ≠ FC_STAT_DEGRADE.key) : (s.signalled c m vec).get g = s.get g := by
  have h3 : (if 1 ≤ c then s.put FC_STAT_PENDING 1 else s).get g = s.get g := by
    split
    · exact State.get_put_ne _ _ _ _ hp
    · rfl
  unfold State.signalled
  extract_lets s3 s4
  have h4 : s4.get g = s.get g := by
    simp only [s4]
    split
    · exact h3
    · exact h3
  split
  · rw [State.get_put_ne _ _ _ _ hd, h4]
  · exact h4

theorem State.signalled_pending (s : State) {c : Nat} (hc : 1 ≤ c) (m : Bool) (vec : Nat) :
    (s.signalled c m vec).on FC_STAT_PENDING = true := by
  unfold State.signalled
  rw [if_pos hc]
  extract_lets s3 s4
  have h4 : s4.on FC_STAT_PENDING = true := by
    have h3 : s3.on FC_STAT_PENDING = true := by rw [State.on_put_self]; rfl
    simp only [s4]
    split
    · exact h3
    · exact h3
  split
  · rw [State.on_put_ne _ _ _ _ (by decide), h4]
  · exact h4

theorem State.signalled_degrade (s : State) (m : Bool) (vec : Nat) : (s.signalled 2 m vec).on FC_STAT_DEGRADE = true := by
  unfold State.signalled
  dsimp only
  rw [if_pos rfl, State.on_put_self]
  rfl

theorem State.asserted_sf (s : State) (src data : Nat) (forced : Bool) : (s.asserted src data forced).sf = s.sf := by
  unfold State.asserted
  extract_lets c s6
  have h6 : s6.sf = s.sf := by
    simp only [s6, State.drFault_sf, State.signalled_sf]
    rfl
  split <;> exact h6

theorem State.asserted_besideFaults (s : State) (src data : Nat) (forced : Bool) :
    (s.asserted src data forced).besideFaults = s.besideFaults := by
  unfold State.asserted
  extract_lets c s6
  have h6 : s6.besideFaults = s.besideFaults := by
    simp only [s6, State.drFault_besideFaults, State.signalled_besideFaults]
    rfl
  split
  · rw [← h6]; rfl
  · exact h6

theorem State.asserted_role (s : State) (src data : Nat) (forced : Bool) : (s.asserted src data forced).role = s.role :=
  (congrArg State.role (s.asserted_besideFaults src data forced) :)

/-- Beside the recorder's counts an assertion reads as its signals left it. -/
theorem State.asserted_get (s : State) (src data : Nat) (forced : Bool) {g : Fld} (hg : g.block ≠ 0xA) :
    (s.asserted src data forced).get g =
      ((s.statusSet src).signalled (s.classOf src) (1 ≤ s.classOf src ∧ s.role = .datum) (s.get FC_CTRL_VEC)).get g := by
  unfold State.asserted
  extract_lets c s6
  have h6 : s6.get g = ((s.statusSet src).signalled c (1 ≤ c ∧ s.role = .datum) (s.get FC_CTRL_VEC)).get g := by
    rw [State.drFault_writesIn _ _ _ g (by simpa using hg)]
    unfold State.signalled
    dsimp only
    split <;> split <;> split <;> rfl
  split <;> exact h6

/-! ### The status bit -/

/-- Setting a bit sets it, whatever the word held. -/
theorem bitOf_setBitOf (v b : Nat) : bitOf (setBitOf v b) b = true := by
  unfold setBitOf
  split
  · assumption
  · next h =>
    simp only [bitOf, decide_eq_true_eq] at h ⊢
    rw [Nat.add_div_right _ (Nat.two_pow_pos b)]
    omega

/-- The low 32 bits of a word have its bits below 32. -/
theorem bitOf_mod_32 {b : Nat} (hb : b < 32) (v : Nat) : bitOf (v % 2 ^ 32) b = bitOf v b := by
  have h : (v % 2 ^ 32).testBit b = v.testBit b := by
    rw [Nat.testBit_mod_two_pow, decide_eq_true hb, Bool.true_and]
  simpa [bitOf, Nat.testBit_eq_decide_div_mod_eq] using h

theorem State.statusSet_bit (s : State) (src : Nat) :
    bitOf ((s.statusSet src).get (FC_STATUS_SRC (src / 32))) (src % 32) = true := by
  rw [State.statusSet, State.get_put_self]
  exact (bitOf_mod_32 (Nat.mod_lt _ (by decide)) _).trans (bitOf_setBitOf _ _)

/-- The words of FC_STATUS are apart from FC_STAT, FC_FIRST and every other block. -/
theorem FC_STATUS_apart {r : Nat} (hr : r < 8) :
    (FC_STATUS_SRC r).block = 2 ∧ (FC_STATUS_SRC r).key ∉ [FC_FIRST_SRC.key, FC_FIRST_VALID.key, FC_STAT_BLOCK_ACT.key,
      FC_STAT_TERMINAL.key, FC_STAT_PENDING.key, FC_STAT_DEGRADE.key] := by
  simp only [Fld.block, Fld.key, FC_STATUS_SRC, FC_FIRST_SRC, FC_FIRST_VALID, FC_STAT_BLOCK_ACT, FC_STAT_TERMINAL,
    FC_STAT_PENDING, FC_STAT_DEGRADE, List.mem_cons, List.not_mem_nil, or_false]
  omega

/-! ### The whole assertion -/

/-- A register that a block does not write reads as the signals left it, at every class. -/
theorem State.assertSrc_get {s : State} {src : Nat} (h : s.enabled src = true) (data : Nat) (forced : Bool) {g : Fld}
    (hb : g.block = 2)
    (hg : g.key ∉ [FC_FIRST_SRC.key, FC_FIRST_VALID.key, FC_STAT_BLOCK_ACT.key, FC_STAT_TERMINAL.key]) :
    (s.assertSrc src data forced).get g =
      ((s.statusSet src).signalled (s.classOf src) (1 ≤ s.classOf src ∧ s.role = .datum) (s.get FC_CTRL_VEC)).get g := by
  rw [← s.asserted_get src data forced (by omega), State.assertSrc_enabled h]
  split
  · rw [State.blockClass_writesIn _ _ _ g (by rw [hb]; decide), noted_get _ _ _ hg]
  · rfl

theorem State.assertSrc_besideFaults (s : State) (src data : Nat) (forced : Bool) :
    (s.assertSrc src data forced).besideFaults = s.besideFaults := by
  cases h : s.enabled src with
  | false => rw [State.assertSrc_disabled h]
  | true =>
    rw [State.assertSrc_enabled h]
    split
    · rw [State.blockClass_besideFaults, State.asserted_besideFaults]
    · exact s.asserted_besideFaults src data forced

@[simp] theorem State.raise_besideFaults (s : State) (src : Nat) : (s.raise src).besideFaults = s.besideFaults := by
  unfold State.raise State.raiseWith
  split
  · rfl
  · exact s.assertSrc_besideFaults src 0 false

theorem State.assertSrc_of_class3 {s : State} {src : Nat} (h : s.enabled src = true) (hc : 3 ≤ s.classOf src)
    (data : Nat) (forced : Bool) :
    s.assertSrc src data forced = (s.asserted src data forced).blockClass src (s.classOf src) := by
  rw [State.assertSrc_enabled h, if_pos hc]

/-- Settles O20: class 3 and 4 end in `blockClass`, whose effects are listed once; PENDING, DEGRADE and the status bit are
registers that a block does not write. -/
theorem class3And4Block : Obligations.Class3And4Block := by
  unfold Obligations.Class3And4Block
  intro s src data forced hsrc
  refine ⟨fun h => State.assertSrc_disabled h data forced, fun h hc _ => ?_, fun h hc hr => ?_, fun h hc => ?_,
    fun h hc => ?_, fun h hc => ?_, fun h hc => ?_, fun h => ?_⟩
  · rw [State.assertSrc_of_class3 h hc]
    exact ⟨State.blockClass_blocked _ _ _, State.blockClass_blockAct _ _ _⟩
  · rw [State.assertSrc_of_class3 h hc]
    have hrole : (s.asserted src data forced).role = .stake := (s.asserted_role src data forced).trans hr
    exact ⟨State.blockClass_blocked _ _ _, State.blockClass_blockAct _ _ _, State.blockClass_fhold hrole _ _,
      State.blockClass_cell hrole _ _⟩
  · rw [State.assertSrc_of_class3 h (by omega), hc]
    exact State.blockClass_terminal _ _
  · rw [State.assertSrc_enabled h, if_neg (by omega), State.asserted_sf]
    exact ⟨rfl, rfl⟩
  · rw [State.on, State.assertSrc_get h _ _ (by decide) (by decide), hc]
    exact State.signalled_degrade _ _ _
  · rw [State.on, State.assertSrc_get h _ _ (by decide) (by decide)]
    exact State.signalled_pending _ hc _ _
  · obtain ⟨hb, hapart⟩ := FC_STATUS_apart (r := src / 32) (by omega)
    simp only [List.mem_cons, not_or, List.not_mem_nil, not_false_eq_true, and_true] at hapart
    obtain ⟨h1, h2, h3, h4, hpend, hdegr⟩ := hapart
    rw [State.assertSrc_get h _ _ hb (by simp [h1, h2, h3, h4]), State.signalled_get _ _ _ _ hpend hdegr]
    exact s.statusSet_bit src

end Sys2Proof.Machine
end

section
/-! The duplicate test of a frame (R117): the checks in their order, and the one branch in which the Stake acts. -/

namespace Sys2Proof.Machine

/-- The checks of R117 that come before the sequence number. -/
structure State.FrameAllowed (s : State) (f : Frame) : Prop where
  lock : s.on TB_STAT_TICK_LOCK = true
  fmt : 1 ≤ f.hdr.fmt ∧ f.hdr.fmt ≤ 2
  acrc : (f.arm (s.get LVL_SIDX_ARM)).ok = true
  tick : f.hdr.tick = s.tb.tick % 2 ^ 32
  apply : (f.arm (s.get LVL_SIDX_ARM)).hasApply = true → s.now < s.tb.tickStart + (f.arm (s.get LVL_SIDX_ARM)).apply
  lease : s.leaseCheck f.hdr = true

@[simp] theorem State.count_frm (s : State) (f : Fld) : (s.count f).frm = s.frm := by
  rw [State.count, State.countN]
  split <;> rfl

theorem State.raise_frm (s : State) (src : Nat) : (s.raise src).frm = s.frm :=
  (congrArg State.frm (s.raise_besideFaults src) :)

/-- The Stake acts on an allowed frame that is its first or is newer; on any other it keeps what it has acted on. -/
theorem State.dupDiscard_cases (s : State) (q : Nat) (f : Frame) :
    (s.dupDiscard q f).frm = s.frm ∨
      (s.FrameAllowed f ∧ (s.frm.actedValid = true → f.hdr.seq ≠ s.frm.actedSeq ∧
        isNewer 32 f.hdr.seq s.frm.actedSeq = true) ∧
        (s.dupDiscard q f).frm = (s.actOn f.hdr (f.arm (s.get LVL_SIDX_ARM))).frm) := by
  unfold State.dupDiscard
  extract_lets h e lost
  split
  · exact .inl rfl
  next hlock =>
  split
  · left; rw [State.raise_frm, State.put_frm, State.count_frm]
  next hfmt =>
  split
  · exact .inl (State.count_frm _ _)
  next hacrc =>
  split
  · exact .inl (State.count_frm _ _)
  next htick =>
  split
  · exact .inl (State.count_frm _ _)
  next hlease =>
  split
  · split
    · exact .inl (State.count_frm _ _)
    · left; rw [State.raise_frm, State.put_frm, State.count_frm]
  next hdup =>
  split
  · exact .inl (State.count_frm _ _)
  next hold =>
  right
  simp only [Bool.not_eq_true, Bool.not_eq_false', not_or, Nat.not_lt, Bool.or_eq_true, decide_eq_true_eq, Classical.not_not,
    Bool.and_eq_true, not_and] at hlock hfmt hacrc htick hlease hdup hold
  refine ⟨⟨by simpa using hlock, hfmt, by simpa using hacrc, htick.1, fun ha => Nat.lt_of_not_le (htick.2 ha), by simpa using hlease⟩,
    fun hv => ⟨hdup hv, by simpa using hold hv⟩, ?_⟩
  split
  · rfl
  · simp only [State.actOn, State.countN]
    split <;> rfl

/-- Settles O22: the record changes in the last branch of `dupDiscard_cases` alone, which a repeated sequence number never
reaches. -/
theorem sameFrameActsOnce : Obligations.SameFrameActsOnce := by
  unfold Obligations.SameFrameActsOnce
  rintro s t q f rfl - - -
  rcases s.dupDiscard_cases q f with hkeep | ⟨hok, hnew, hact⟩
  · rw [hkeep]
    exact ⟨fun _ _ => ⟨rfl, rfl, rfl⟩, fun h => by simp at h⟩
  · rw [hact]
    refine ⟨fun hv hseq => absurd hseq (hnew hv).1, fun _ => ⟨?_, rfl, rfl, rfl, hok.lock, hok.fmt.1, hok.fmt.2, hok.acrc,
      hok.tick, hok.lease, fun happ => hok.apply (by simpa [ArmEntry.hasApply] using happ)⟩⟩
    cases hv : s.frm.actedValid with
    | false => exact .inl rfl
    | true => exact .inr (hnew hv).2

end Sys2Proof.Machine
end

section
/-! The deblock of a Stake (R283, R285). -/

namespace Sys2Proof.Machine

open Sys2Proof

/-- A running Stake that is under safe block may deblock: FHOLD is 0, or its arm was blocked since the fault ended. -/
def State.deblockOpen (s : State) : Prop :=
  s.role = .stake ∧ s.phase = .run ∧ s.safeBlocked = true ∧ (s.on SF_SSTAT_FHOLD = false ∨ s.sf.fholdSeen = true)

/-- The channels after a deblock: each that was blocked and meets the conditions is PERMITTED. -/
def State.deblockSf (s : State) : SfSt :=
  { s.sf with
    x := { s.sf.x with permit := s.sf.x.permit || s.mayDeblock s.sf.x }
    y := { s.sf.y with permit := s.sf.y.permit || s.mayDeblock s.sf.y } }

theorem State.tryDeblock_of_not_open {s : State} (h : ¬ s.deblockOpen) : s.tryDeblock = s := by
  unfold State.tryDeblock
  rw [if_neg]
  simpa [State.deblockOpen, and_assoc] using h

theorem State.tryDeblock_of_open {s : State} (h : s.deblockOpen) :
    s.tryDeblock =
      if s.deblockSf.x.permit || s.deblockSf.y.permit then
        if s.deblockSf.x.permit && s.deblockSf.y.permit then ({ s with sf := s.deblockSf } : State).deblocked
        else ({ s with sf := s.deblockSf } : State).mirrorSafe
      else s := by
  unfold State.tryDeblock
  rw [if_pos]
  · rfl
  · simpa [State.deblockOpen, and_assoc] using h

theorem State.clearFhold_sf (s : State) : s.clearFhold.sf = s.sf := by
  unfold State.clearFhold
  split <;> rfl

theorem State.deblocked_permit (s : State) :
    s.deblocked.sf.x.permit = s.sf.x.permit ∧ s.deblocked.sf.y.permit = s.sf.y.permit := by
  simp only [State.deblocked, State.count_sf, State.put_sf, State.mirrorSafe_sf, State.clearFhold_sf, and_self]

/-- Where the deblock is open, each channel has what the conditions give it. -/
theorem State.tryDeblock_permit {s : State} (h : s.deblockOpen) :
    s.tryDeblock.sf.x.permit = (s.sf.x.permit || s.mayDeblock s.sf.x) ∧
      s.tryDeblock.sf.y.permit = (s.sf.y.permit || s.mayDeblock s.sf.y) := by
  rw [State.tryDeblock_of_open h]
  split
  · split
    · exact State.deblocked_permit _
    · rw [State.mirrorSafe_sf]; exact ⟨rfl, rfl⟩
  · next hno =>
    have hx : s.deblockSf.x.permit = (s.sf.x.permit || s.mayDeblock s.sf.x) := rfl
    have hy : s.deblockSf.y.permit = (s.sf.y.permit || s.mayDeblock s.sf.y) := rfl
    rw [hx, hy] at hno
    simp at hno
    simp [hno]

theorem State.tryDeblock_safeCh {s : State} (h : s.deblockOpen) (y : Bool) :
    (s.tryDeblock.safeCh y).permit = ((s.safeCh y).permit || s.mayDeblock (s.safeCh y)) := by
  obtain ⟨hx, hy⟩ := State.tryDeblock_permit h
  cases y
  · exact hx
  · exact hy

/-- The conditions of R283 in a channel, one by one. -/
theorem State.mayDeblock_iff (s : State) (c : Chan) : s.mayDeblock c = true ↔
    c.permitLost = false ∧ s.pairWaits = false ∧ s.on TB_STAT_TICK_LOCK = true ∧ s.on LVL_SIDX_ADOPTED = true ∧
      (s.livePort 0 = true ∨ s.livePort 1 = true) ∧ (∀ q : Nat, q < 2 → s.livePort q = true → s.permitOn c q = true) ∧
      s.sf.beatLost = false ∧ s.sf.diff = false := by
  have hports : (∀ q : Nat, q < 2 → s.livePort q = true → s.permitOn c q = true) ↔
      ((s.livePort 0 = true → s.permitOn c 0 = true) ∧ (s.livePort 1 = true → s.permitOn c 1 = true)) := by
    constructor
    · exact fun h => ⟨h 0 (by decide), h 1 (by decide)⟩
    · rintro ⟨h0, h1⟩ q hq
      obtain rfl | rfl : q = 0 ∨ q = 1 := by omega
      · exact h0
      · exact h1
  rw [hports]
  simp only [State.mayDeblock, Bool.and_eq_true, Bool.not_eq_true', Bool.or_eq_true, List.all_cons, List.all_nil, and_assoc,
    and_true]
  simp only [← Bool.not_eq_true, Decidable.imp_iff_not_or]

/-- Both channels PERMITTED by the deblock: FHOLD is 0. -/
theorem State.deblocked_fhold (s : State) : s.deblocked.on SF_SSTAT_FHOLD = false := by
  have hclear (u : State) : u.clearFhold.get SF_SSTAT_FHOLD ≠ 1 := by
    unfold State.clearFhold
    split
    · simp (disch := decide) only [State.get_put_ne, State.get_put_self]
      decide
    · next h => exact State.get_of_off (by simpa using h)
  have hmirror (u : State) : u.mirrorSafe.get SF_SSTAT_FHOLD = u.get SF_SSTAT_FHOLD := by
    unfold State.mirrorSafe
    dsimp only
    split <;> simp (disch := decide) only [State.putB, State.get_put_ne]
  simp (disch := decide) only [State.on, State.deblocked, State.get_count_ne, State.get_put_ne, hmirror]
  simpa using hclear _

/-- ... and SF_DEBLOCK counts. -/
theorem State.deblocked_count {s : State} (h : s.get SF_DEBLOCK < 0x7FFFFFFF) :
    s.deblocked.get SF_DEBLOCK = s.get SF_DEBLOCK + 1 := by
  have hclear (u : State) : u.clearFhold.get SF_DEBLOCK = u.get SF_DEBLOCK := by
    unfold State.clearFhold
    split <;> simp (disch := decide) only [State.get_put_ne]
  have hmirror (u : State) : u.mirrorSafe.get SF_DEBLOCK = u.get SF_DEBLOCK := by
    unfold State.mirrorSafe
    dsimp only
    split <;> simp (disch := decide) only [State.putB, State.get_put_ne]
  unfold State.deblocked
  extract_lets _ s1
  have hv : ((s1.clearFhold.mirrorSafe).put SF_SSTAT_GCMD_GATED 0).get SF_DEBLOCK = s.get SF_DEBLOCK := by
    simp (disch := decide) only [State.get_put_ne, hmirror, hclear]
    rfl
  rcases Nat.lt_or_ge (s.get SF_DEBLOCK) 0x7FFFFFFE with hlt | hge
  · rw [State.get_count_of_lt rfl (by rwa [hv]), hv]
  · rw [State.get_count_of_ge rfl rfl (by rwa [hv])]
    omega

theorem State.pairWaits_of_none {s : State} (h : ∀ q b u, Instr.blockPairReceive q b u ∉ s.pending) :
    s.pairWaits = false := by
  rw [State.pairWaits, List.any_eq_false]
  intro c hc
  split
  · exact absurd hc (h _ _ _)
  · simp

/-- Settles O23: a channel leaves BLOCKED exactly where the deblock is open and `mayDeblock` holds in it. -/
theorem stakeDeblocksUnderItsConditions : Obligations.StakeDeblocksUnderItsConditions := by
  unfold Obligations.StakeDeblocksUnderItsConditions
  rintro s t rfl
  refine ⟨fun y hb hp => ?_, fun hb hx hy => ?_, fun y hrole hrun hb hlock had hlive hperm hf hbeat hdiff hlost hq => ?_⟩
  · by_cases h : s.deblockOpen
    · rw [State.tryDeblock_safeCh h, hb, Bool.false_or, State.mayDeblock_iff] at hp
      obtain ⟨hlost, -, hlock, had, hlive, hperm, hbeat, hdiff⟩ := hp
      obtain ⟨hrole, hphase, -, hf⟩ := h
      exact ⟨hrole, by simp [State.running, hphase], hlock, had, hlive, hperm, hlost, hbeat, hdiff, hf⟩
    · rw [State.tryDeblock_of_not_open h, hb] at hp
      cases hp
  · by_cases h : s.deblockOpen
    · obtain ⟨px, py⟩ := State.tryDeblock_permit h
      rw [px] at hx
      rw [py] at hy
      have hboth : s.tryDeblock = ({ s with sf := s.deblockSf } : State).deblocked := by
        rw [State.tryDeblock_of_open h, if_pos, if_pos]
        · simp [State.deblockSf, hx, hy]
        · simp [State.deblockSf, hx]
      rw [hboth]
      exact ⟨State.deblocked_fhold _, fun hlt => State.deblocked_count hlt⟩
    · rw [State.tryDeblock_of_not_open h] at hx hy
      simp [hx, hy] at hb
  · have h : s.deblockOpen := by
      refine ⟨hrole, by simpa [State.running] using hrun, ?_, hf⟩
      cases y <;> simp_all [State.safeBlocked, State.safeCh]
    rw [State.tryDeblock_safeCh h, (s.mayDeblock_iff _).mpr ⟨hlost, State.pairWaits_of_none hq, hlock, had, hlive, hperm,
      hbeat, hdiff⟩, Bool.or_true]

end Sys2Proof.Machine
end

section
/-! Stage S3 of a Datum (R385), and a number of a recorder segment that no write leaves. -/

namespace Sys2Proof.Machine

open Sys2Proof

/-- A Datum whose recorder is ARMED in segment 0xBFE5. DR_STAT.SEG has six bits, so no write leaves this number, but a state may
list it; the status word of that segment would lie at the address of SH_STAT. -/
def armedBeyondSegments : State :=
  { State.reset with
    phase := .run, role := .datum, live := kset (kset [] DR_STAT_STATE.key drArmed) DR_STAT_SEG.key 0xBFE5 }

/-- The stage that an answer leaves. -/
def stageAfter : Result → Nat
  | .next t => t.get SH_STAT_STAGE
  | _ => 0

theorem DR_SEG_STAT_STATE_alias : (DR_SEG_STAT_STATE 0xBFE5).key = SH_STAT_STAGE.key := by decide

/-- The entry to S1 frees the segment and so sets the stage back to 0; the fall through three levels ends in S2. -/
theorem shedStageRise_armedBeyondSegments : stageAfter (exec (.shedStageRise ⟨3, 0⟩) armedBeyondSegments) = 2 := by
  decide +kernel

/-- Refutes O17: the statement is about every state, one with a segment number beyond DR_STAT.SEG too, and there the entry to
S1 writes SH_STAT, so that the fall of VAUXS does not reach S3. -/
theorem not_datumBlocksAtS3 : ¬ Obligations.DatumBlocksAtS3 := by
  unfold Obligations.DatumBlocksAtS3
  intro h
  obtain ⟨hblock, -⟩ := h armedBeyondSegments 3 0 (by decide +kernel)
  obtain ⟨t, ht, -, -, hstage⟩ := hblock (by decide +kernel) (by decide +kernel)
  have hafter := shedStageRise_armedBeyondSegments
  rw [ht, stageAfter, hstage] at hafter
  exact absurd hafter (by decide)

end Sys2Proof.Machine
end

section
/-! The tick of a Datum and of a Stake, station time and time stamps (02_tick_and_time.md). -/

namespace Sys2Proof.Machine

open Sys2Proof

/-! ### Laws of the tick -/

theorem State.gridSample_role (s : State) : s.gridSample.role = s.role := (State.gridSample_keeps (Keeps.rfl' false s)).role

@[simp] theorem State.placeNext_live (s : State) : s.placeNext.live = s.live := by
  unfold State.placeNext
  split <;> rfl

@[simp] theorem State.placeNext_now (s : State) : s.placeNext.now = s.now := by
  unfold State.placeNext
  split <;> rfl

@[simp] theorem State.placeNext_time (s : State) : s.placeNext.time = s.time := by
  unfold State.placeNext
  split <;> rfl

theorem TbSt.takeAnchor_eq (t : TbSt) : ∃ a b c d,
    t.takeAnchor = { t with anchorSec := a, anchorOfs := b, anchorK := c, newAnchor := d } := by
  unfold TbSt.takeAnchor
  split
  · exact ⟨_, _, _, _, rfl⟩
  · exact ⟨t.anchorSec, t.anchorOfs, t.anchorK, t.newAnchor, rfl⟩

/-- What placing the next tick start leaves of the tick in progress. -/
theorem State.placeNext_tick (s : State) :
    s.placeNext.tb.tick = s.tb.tick ∧ s.placeNext.tb.tickStart = s.tb.tickStart ∧ s.placeNext.tb.tickTime = s.tb.tickTime ∧
      s.placeNext.tb.started = s.tb.started ∧ s.placeNext.tb.sampled = s.tb.sampled ∧ s.placeNext.tb.cutDone = s.tb.cutDone := by
  obtain ⟨a, b, c, d, ht⟩ := s.tb.takeAnchor_eq
  unfold State.placeNext
  split
  · simp [ht]
  · simp

theorem State.advance_sf_set (s : State) (f : SfSt → SfSt) (t : Nat) :
    ({ s with sf := f s.sf } : State).advance t = { s.advance t with sf := f s.sf } := by
  unfold State.advance
  dsimp only
  split <;> rfl

/-- A tick that begins is the planned one, at its planned cycle, with nothing of it made (R31, R32). -/
theorem State.tickBegin_begins {s : State} (h : s.tb.endTick = false) :
    s.tickBegin.live = s.live ∧ s.tickBegin.tb.tick = s.tb.nextTick ∧ s.tickBegin.tb.tickStart = s.tb.nextStart ∧
      s.tickBegin.tb.tickTime = s.tickBegin.time ∧ s.tickBegin.tb.started = true ∧ s.tickBegin.tb.sampled = false ∧
      s.tickBegin.tb.cutDone = false ∧ s.tickBegin.now = max s.now s.tb.nextStart := by
  have hp := State.placeNext_tick
  unfold State.tickBegin
  simp [h, State.tevTick, hp]

theorem State.tickBegin_ends {s : State} (h : s.tb.endTick = true) :
    s.tickBegin = (s.advance s.tb.nextStart).tickStop := by
  unfold State.tickBegin
  simp [h]

/-- After the last tick TICK_RUN is 0 (R32). -/
theorem State.tickStop_off (s : State) : s.tickStop.on TB_STAT_TICK_RUN = false := by
  unfold State.tickStop
  dsimp only
  split
  · rw [(State.sendBlocks_writesIn _).on (by decide)]
    simp [State.on]
  · simp [State.on]

/-! ### The commands of the tick -/

/-- The tick start of a Datum whose ticks run and have a place. -/
theorem execTickStart_placed {s : State} (hd : s.isDatum = true) (hrun : s.on TB_STAT_TICK_RUN = true)
    (hplaced : s.tb.placed = true) (x y : Bool) {z : State}
    (hz : z = { s with sf := { s.sf with missX := x, missY := y } }) :
    exec (.tickStart x y) s = .next (if z.tickBegin.on TB_STAT_TICK_RUN then
      z.tickBegin.tickUnits.applyDue.tickStrobe.sendFrames.sendHeartbeat.sendAlign else z.tickBegin) := by
  subst hz
  rw [exec_tickStart, execTickStart, State.inDatum_eq hd]
  simp only [hrun, hplaced, Bool.and_true, if_true]

theorem execTickStart_begins {s : State} (hd : s.isDatum = true) (hrun : s.on TB_STAT_TICK_RUN = true)
    (hplaced : s.tb.placed = true) (hend : s.tb.endTick = false) (x y : Bool) {z : State}
    (hz : z = { s with sf := { s.sf with missX := x, missY := y } }) :
    exec (.tickStart x y) s = .next z.tickBegin.tickUnits.applyDue.tickStrobe.sendFrames.sendHeartbeat.sendAlign := by
  have hzend : z.tb.endTick = false := by rw [hz]; exact hend
  have hon : z.tickBegin.on TB_STAT_TICK_RUN = true := by
    rw [State.on, State.get_of_live (State.tickBegin_begins hzend).1, hz]
    exact hrun
  rw [execTickStart_placed hd hrun hplaced x y hz, if_pos hon]

theorem execTickStart_ends {s : State} (hd : s.isDatum = true) (hrun : s.on TB_STAT_TICK_RUN = true)
    (hplaced : s.tb.placed = true) (hend : s.tb.endTick = true) (x y : Bool) {z : State}
    (hz : z = { s with sf := { s.sf with missX := x, missY := y } }) :
    exec (.tickStart x y) s = .next (z.advance s.tb.nextStart).tickStop := by
  have hzend : z.tb.endTick = true := by rw [hz]; exact hend
  have hznext : z.tb.nextStart = s.tb.nextStart := by rw [hz]
  have hoff := State.tickStop_off (z.advance s.tb.nextStart)
  rw [execTickStart_placed hd hrun hplaced x y hz, State.tickBegin_ends hzend, hznext, if_neg (by rw [hoff]; decide)]

theorem execSampleInstant_due {s : State} (hr : s.running = true) (hdue : s.sampleDue = true) {u : State}
    (hu : u = (s.advance (s.tb.tickStart + s.cfg TB_SAMPLE_S)).gridSample) {v : State}
    (hv : v = { u with
      tb := { u.tb with sampled := true }
      ad := { u.ad with grid := some (u.now, u.now + u.tickLen) } }) :
    exec .sampleInstant s = .next (if s.role = .datum then v.heartbeatSample.routeEvent 1 else v) := by
  have hrole : u.role = s.role := by rw [hu, State.gridSample_role, State.advance_role]
  subst hv
  rw [exec_sampleInstant, execSampleInstant, State.inRun_eq hr]
  simp only [if_pos hdue, ← hu, hrole]

theorem execSampleInstant_done {s : State} (hr : s.running = true) (h : s.tb.sampled = true) :
    exec .sampleInstant s = .next s := by
  have hdue : s.sampleDue = false := by simp [State.sampleDue, h]
  rw [exec_sampleInstant, execSampleInstant, State.inRun_eq hr]
  simp only [hdue, Bool.false_eq_true, if_false]

theorem execFrameBuildCutoff_due {s : State} (hd : s.isDatum = true) (hst : s.tb.started = true)
    (hcut : s.tb.cutDone = false) {u w : State} {v : Bool × State}
    (hu : u = (s.advance (s.tb.nextStart - s.cfg TB_CUTOFF_LEAD)).noteRow (s.tb.nextStart - s.cfg TB_CUTOFF_LEAD))
    (hv : v = u.decideTick)
    (hw : w = (v.2.unitStep u.plIn v.1).closeMissing.matchCutoff.leaseCutoff.sendTwin.routeEvent 2) :
    exec .frameBuildCutoff s = .next ({ w with tb := { w.tb with cutDone := true } } : State).takeLate := by
  rw [exec_frameBuildCutoff, execFrameBuildCutoff, State.inDatum_eq hd]
  simp only [hst, hcut, Bool.not_false, Bool.and_true, if_true, ← hu, ← hv, ← hw]

theorem execFrameBuildCutoff_done {s : State} (hd : s.isDatum = true) (hcut : s.tb.cutDone = true) :
    exec .frameBuildCutoff s = .next s := by
  rw [exec_frameBuildCutoff, execFrameBuildCutoff, State.inDatum_eq hd]
  simp only [hcut, Bool.not_true, Bool.and_false, Bool.false_eq_true, if_false]

/-! ### Settled: the tick of a Datum -/

/-- Settles O24: what begins is the planned tick; each instant is made once. -/
theorem tickOfADatumCompletes : Obligations.TickOfADatumCompletes := by
  unfold Obligations.TickOfADatumCompletes
  intro s hd
  have hrun := State.isDatum_running hd
  have hrole := State.isDatum_role hd
  refine ⟨fun x y ht hplaced hend => ?_, fun x y u ht hplaced hend hu => ?_, fun u ht hst hsam hu => ?_,
    fun u v w hst hcut hu hv hw => execFrameBuildCutoff_due hd hst hcut hu hv hw,
    fun hsam => execSampleInstant_done hrun hsam, fun hcut => execFrameBuildCutoff_done hd hcut⟩
  · generalize hz : ({ s with sf := { s.sf with missX := x, missY := y } } : State) = z
    have hzend : z.tb.endTick = false := by rw [← hz]; exact hend
    obtain ⟨-, htick, hstart, htime, hst, hsam, hcut, hnow⟩ := State.tickBegin_begins hzend
    refine ⟨_, rfl, execTickStart_begins hd ht hplaced hend x y hz.symm, ?_, ?_, htime, hst, hsam, hcut, ?_⟩
    · rw [htick, ← hz]
    · rw [hstart, ← hz]
    · rw [hnow, ← hz]
  · rw [execTickStart_ends hd ht hplaced hend x y rfl,
      State.advance_sf_set s (fun f => { f with missX := x, missY := y }), State.tickStop, hu]
    simp only [State.advance_tb]
  · have hdue : s.sampleDue = true := by
      simp only [State.sampleDue, State.ticksRun, hst, hsam, hrole, ht]
      rfl
    rw [execSampleInstant_due hrun hdue hu rfl, if_pos hrole]

/-! ### Laws of the tick of a Stake -/

/-- Counting an event writes live registers only. -/
theorem State.count_withLive (s : State) (f : Fld) : s.count f = { s with live := (s.count f).live } := by
  rw [State.count, State.countN]
  split <;> rfl

@[simp] theorem State.count_tb (s : State) (f : Fld) : (s.count f).tb = s.tb := (congrArg State.tb (s.count_withLive f) :)

@[simp] theorem State.pairOut_tb (s : State) (p : Nat) : (s.pairOut p).tb = s.tb := by simp [State.pairOut]

theorem iter_part {α β : Type} {π : α → β} {f : α → α} (hf : ∀ a, π (f a) = π a) :
    ∀ (n : Nat) (a : α), π (iter f n a) = π a
  | 0, _ => rfl
  | n + 1, a => (iter_part hf n (f a)).trans (hf a)

@[simp] theorem State.releaseHeld_tb (s : State) (o : Nat) : (s.releaseHeld o).tb = s.tb := by
  unfold State.releaseHeld
  dsimp only
  split
  · exact iter_part (π := State.tb) (fun t => t.pairOut_tb o) _ _
  · rfl

/-- Setting station time at a recovered tick start writes the time, that of the tick and the announcement. -/
theorem State.setStakeTime_eq (s : State) : ∃ t k a,
    s.setStakeTime = { s with time := t, tb := { s.tb with tickTime := k, announce := a } } := by
  unfold State.setStakeTime
  split
  · exact ⟨s.time, _, s.tb.announce, rfl⟩
  · exact ⟨_, _, _, rfl⟩

theorem State.setStakeTime_tick (s : State) : s.setStakeTime.tb.holdRun = s.tb.holdRun ∧
    s.setStakeTime.tb.tick = s.tb.tick ∧ s.setStakeTime.tb.commaInTick = s.tb.commaInTick := by
  obtain ⟨t, k, a, h⟩ := s.setStakeTime_eq
  rw [h]
  exact ⟨rfl, rfl, rfl⟩

theorem State.turnTick_tick (s : State) (k : Nat) :
    (s.turnTick k).tb.holdRun = s.tb.holdRun ∧ (s.turnTick k).tb.tick = k := ⟨rfl, rfl⟩

/-- What the placing of a predicted tick start says of the tick itself. -/
theorem State.placed_tick (u : State) (start phase base hold : Nat) {v : State}
    (hv : v = ({ u with tb := { u.tb with
      tickStart := start, phase := phase, base := base, recd := base, commaInTick := false, holdRun := hold } } :
        State).setStakeTime) :
    v.tb.holdRun = hold ∧ v.tb.tick = u.tb.tick ∧ v.tb.commaInTick = false := by
  subst hv
  obtain ⟨hrun, htick, hcomma⟩ := State.setStakeTime_tick _
  exact ⟨hrun, htick, hcomma⟩

/-- A predicted tick is the next one; the tick that ended without an accepted comma counts as holdover (R38, R40). -/
theorem State.predictTick_tick (s : State) :
    s.predictTick.tb.holdRun = (if s.tb.commaInTick = true then s.tb.holdRun else s.tb.holdRun + 1) ∧
      s.predictTick.tb.tick = (s.tb.tick + 1) % 2 ^ 64 ∧ s.predictTick.tb.commaInTick = false := by
  obtain ⟨hrun, htick, hcomma⟩ := State.placed_tick _ _ _ _ _ (rfl : s.predictTick = _)
  rw [hrun, htick, hcomma, (State.turnTick_tick _ _).1, (State.turnTick_tick _ _).2, State.advance_tb]
  refine ⟨?_, rfl, rfl⟩
  cases s.tb.commaInTick <;> simp

/-! ### The commands of a Stake's tick -/

theorem execStakeTickStart_placed {s t : State} (hs : s.isStake = true) (hl : s.on TB_STAT_TICK_LOCK = true)
    (hp : s.tb.havePeriod = true) (ht : t = (s.predictTick.releaseHeld 0).releaseHeld 1) :
    exec .stakeTickStart s = .next (t.noteRow t.tb.tickStart).permitLookback.leaseTick.ackTick.tickStrobe.tryDeblock := by
  subst ht
  rw [exec_stakeTickStart, execStakeTickStart, State.inStake_eq hs]
  simp only [hl, hp, Bool.and_true, if_true, State.stakeTick]

theorem execPeriodFrameTimeout_waiting {s : State} (hs : s.isStake = true) (hw : s.tb.periodWait.isSome = true) :
    exec .periodFrameTimeout s = .next (if s.tb.lockOnMark then s.loseLock else { s with tb := { s.tb with periodWait := none } }) := by
  rw [exec_periodFrameTimeout, execPeriodFrameTimeout, State.inStake_eq hs]
  simp only [hw, if_true]

theorem execGtimeMove_due {s : State} (hs : s.isStake = true) {k : Nat} (hk : s.tb.moveDue = some k)
    (hl : s.on TB_STAT_TICK_LOCK = true) (hlt : k < s.tb.tickStart) :
    exec .gtimeMove s = .next (({ s with tb := { s.tb with moveDue := none } } : State).event 1 0) := by
  have hm : s.mayMove = true := by simp [State.mayMove, hl, hk, hlt]
  rw [exec_gtimeMove, execGtimeMove, State.inStake_eq hs]
  simp only [hm, if_true]

theorem execTickLockLoss_after4 {s : State} (hs : s.isStake = true) (h : 4 ≤ s.tb.rejRun) :
    exec .tickLockLoss s = .next s.loseLock := by
  rw [exec_tickLockLoss, execTickLockLoss, State.inStake_eq hs]
  simp only [if_pos h]

theorem execHoldoverExpiry_after8 {s : State} (hs : s.isStake = true) (h : 8 ≤ s.tb.holdRun) :
    exec .holdoverExpiry s = .next s.loseLock := by
  rw [exec_holdoverExpiry, execHoldoverExpiry, State.inStake_eq hs]
  simp only [if_pos h]

/-! ### Settled: the tick of a Stake -/

/-- Settles O25, command by command. -/
theorem tickOfAStakeCompletes : Obligations.TickOfAStakeCompletes := by
  unfold Obligations.TickOfAStakeCompletes
  intro s hs
  have hrun := State.isStake_running hs
  have hrole := State.isStake_role hs
  refine ⟨fun t hl hp ht => ⟨execStakeTickStart_placed hs hl hp ht, ?_⟩, fun u hl hst hsam hu => ?_,
    execTickLockLoss_after4 hs, execHoldoverExpiry_after8 hs, fun hw hm => ?_, fun hw hm => ?_,
    fun k hk hl hlt => execGtimeMove_due hs hk hl hlt⟩
  · rw [ht, State.releaseHeld_tb, State.releaseHeld_tb]
    exact s.predictTick_tick
  · have hdue : s.sampleDue = true := by
      simp only [State.sampleDue, State.ticksRun, hst, hsam, hrole, hl]
      rfl
    rw [execSampleInstant_due hrun hdue hu rfl, if_neg (by rw [hrole]; decide)]
  · rw [execPeriodFrameTimeout_waiting hs hw, if_pos hm]
  · rw [execPeriodFrameTimeout_waiting hs hw, if_neg (by rw [hm]; decide)]

/-! ### Laws of station time -/

theorem State.correction_cases (s : State) (src : Nat) :
    s.correction src = s ∨ s.correction src = s.put TB_STAT_HOLDOVER 0 := by
  unfold State.correction
  split
  · exact .inr rfl
  · exact .inl rfl

theorem State.correction_trim (s : State) (src : Nat) :
    (s.correction src).tb = s.tb ∧ (s.correction src).trimLimit = s.trimLimit := by
  obtain h | h := s.correction_cases src <;> rw [h]
  · exact ⟨rfl, rfl⟩
  · refine ⟨rfl, ?_⟩
    rw [State.trimLimit, State.trimLimit, State.get_put_ne _ _ _ _ (by decide)]

theorem State.applyTrim_trim (s : State) :
    s.applyTrim.tb.trimApplied = max (-s.trimLimit) (min s.trimLimit (toSigned 32 (s.get TB_FTRIM_TRIM))) ∧
      s.applyTrim.trimLimit = s.trimLimit := by
  refine ⟨rfl, ?_⟩
  rw [State.trimLimit, State.trimLimit]
  unfold State.applyTrim State.putB
  rw [State.get_put_ne _ _ _ _ (by decide)]
  rfl

/-- A trim is applied within the slew limit (R46). -/
theorem State.trimmed (s : State) (v src : Nat) {u : State}
    (hu : u = ((s.put TB_FTRIM_TRIM (v % 2 ^ 32)).applyTrim).correction src) :
    u.tb.trimApplied = max (-u.trimLimit) (min u.trimLimit (toSigned 32 (v % 2 ^ 32))) := by
  obtain ⟨htb, hlim⟩ := ((s.put TB_FTRIM_TRIM (v % 2 ^ 32)).applyTrim).correction_trim src
  obtain ⟨happ, hlim'⟩ := (s.put TB_FTRIM_TRIM (v % 2 ^ 32)).applyTrim_trim
  have hget : (s.put TB_FTRIM_TRIM (v % 2 ^ 32)).get TB_FTRIM_TRIM = v % 2 ^ 32 := by
    rw [State.get_put_self]
    exact Nat.mod_mod _ _
  rw [hu, htb, hlim, happ, hlim', hget]

theorem wrFtrim_taken {s u : State} {v : Nat} (hhi : toSigned 32 v ≤ 6553600) (hlo : -6553600 ≤ toSigned 32 v)
    (hu : u = ((s.put TB_FTRIM_TRIM v).applyTrim).correction 1) :
    wrFtrim v s = (stOk, if u.get TW_STAT_LSTATE ≠ 6 then u.correction 3 else u) := by
  subst hu
  unfold wrFtrim
  exact if_neg (by omega)

theorem wrFtrim_beyond {s : State} {v : Nat} (h : 6553600 < toSigned 32 v ∨ toSigned 32 v < -6553600) :
    wrFtrim v s = (stBadParam, s) := by
  unfold wrFtrim
  exact if_pos (by omega)

theorem wrStep_stopped {s : State} (hd : s.role = .datum) (hoff : s.on TB_STAT_TICK_RUN = false) :
    wrStep s = (stOk, { s with time :=
      { sec := s.get TB_SET_SEC_LO_VAL + 2 ^ 32 * s.get TB_SET_SEC_HI_VAL, ns := s.get TB_SET_NS_VAL, frac := 0 } }) := by
  simp [wrStep, hd, hoff]

theorem wrStep_running {s : State} (hd : s.role = .datum) (hon : s.on TB_STAT_TICK_RUN = true) :
    wrStep s = (stBusy, s) := by
  simp [wrStep, hd, hon]

theorem execDisciplineHoldover_starts {s : State} (hd : s.isDatum = true) (hsrc : s.cfg TB_CTRL_SRC ≠ 0)
    (hoff : s.on TB_STAT_HOLDOVER = false) :
    exec .disciplineHoldover s = .next ((s.put TB_STAT_HOLDOVER 1).raise 19) := by
  rw [exec_disciplineHoldover, execDisciplineHoldover, State.inDatum_eq hd]
  simp [hsrc, hoff]

/-- A time stamp of an event message that leaves an enabled port (R51 to R53). -/
theorem execPtpTxStamp_enabled {s : State} (hd : s.isDatum = true) {n : Nat} (hn : n < 2)
    (hen : s.cfgOn (PTP_CTRL_EN n) = true) (seqId ty c f : Nat) {t : Time}
    (ht : t = s.time.addFrac (f + 4096 * s.cfg (PTP_LAT_EGRESS n))) :
    exec (.ptpTxStamp n seqId ty c f) s = .next (
      if s.cfgOn (PTP_CTRL_ONESTEP n) && s.cfg (PTP_CTRL_TRANSPORT n) ≠ 2 then
        s.emit (.ptpOneStep n seqId t.sec t.ns ((c + t.frac) % 2 ^ 64) (s.cfg (PTP_CTRL_TRANSPORT n) = 1))
      else if ((kget s.ptp n).getD []).length < 16 then
        { s with ptp := kset s.ptp n ((kget s.ptp n).getD [] ++ [{ seqId := seqId, msgType := ty, time := t }]) }
      else s.count (PTP_DROP n)) := by
  subst ht
  rw [exec_ptpTxStamp, execPtpTxStamp, State.inDatum_eq hd]
  simp only [hen, Nat.not_le.mpr hn, decide_false, Bool.not_true, Bool.or_false, Bool.false_eq_true, if_false]

theorem execPtpRxStamp_enabled {s : State} (hd : s.isDatum = true) {n : Nat} (hn : n < 2)
    (hen : s.cfgOn (PTP_CTRL_EN n) = true) (f : Nat) :
    exec (.ptpRxStamp n f) s = .next (s.emit (.ptpRx n
      ((s.time.addFrac f).subFrac (4096 * s.cfg (PTP_LAT_INGRESS n))))) := by
  rw [exec_ptpRxStamp, execPtpRxStamp, State.inDatum_eq hd]
  simp only [hen, Nat.not_le.mpr hn, decide_false, Bool.not_true, Bool.or_false, Bool.false_eq_true, if_false]

theorem execClockFault_known {s : State} (hr : s.running = true) {k : Nat} (h1 : 1 ≤ k) (h4 : k ≤ 4) :
    exec (.clockFault k) s = .next (s.raise k) := by
  rw [exec_clockFault, execClockFault, State.inRun_eq hr]
  simp only [h1, h4, and_self, if_true]

theorem State.isDatum_of {s : State} (hr : s.running = true) (hd : s.role = .datum) : s.isDatum = true := by
  simpa [State.isDatum, State.running, hd] using hr

theorem State.isStake_of {s : State} (hr : s.running = true) (hd : s.role = .stake) : s.isStake = true := by
  simpa [State.isStake, State.running, hd] using hr

/-! ### Settled: station time -/

/-- Settles O26, command by command. -/
theorem stationTimeCompletes : Obligations.StationTimeCompletes := by
  unfold Obligations.StationTimeCompletes
  intro s hr
  have hdat : s.role = .datum → s.isDatum = true := State.isDatum_of hr
  refine ⟨fun k => execClockFault_known hr, fun hw hd hoff => ?_, fun hw hd hon => ?_,
    fun v u hw hhi hlo hu => ⟨?_, s.trimmed v 1 hu⟩, fun v hw h => ?_,
    fun hd => execDisciplineHoldover_starts (hdat hd), fun n seqId ty c f t hd hn hen hone hip ht => ?_,
    fun n seqId ty c f hd hn hen hone hlen => ?_, fun n seqId ty c f hd hn hen hone hlen => ?_,
    fun n f hd hn hen => execPtpRxStamp_enabled (hdat hd) hn hen f⟩
  · rw [exec_timeStep, execTimeStep, State.byWrite_eq hw, wrStep_stopped hd hoff]
    rfl
  · rw [exec_timeStep, execTimeStep, State.byWrite_eq hw, wrStep_running hd hon]
  · rw [exec_ftrimWrite, execFtrimWrite, State.byWrite_eq hw, wrFtrim_taken hhi hlo hu]
    rfl
  · rw [exec_ftrimWrite, execFtrimWrite, State.byWrite_eq hw, wrFtrim_beyond h]
  · rw [execPtpTxStamp_enabled (hdat hd) hn hen seqId ty c f ht, if_pos (by simp [hone, hip])]
  · rw [execPtpTxStamp_enabled (hdat hd) hn hen seqId ty c f rfl,
      if_neg (by obtain h | h := hone <;> simp [h]), if_pos hlen]
  · rw [execPtpTxStamp_enabled (hdat hd) hn hen seqId ty c f rfl,
      if_neg (by obtain h | h := hone <;> simp [h]), if_neg (by omega)]

end Sys2Proof.Machine
end

section
/-! The link layer: bring-up of a link, and the registers of a Traverse port (03_traverse_link.md). -/

namespace Sys2Proof.Machine

open Sys2Proof

/-! ### Laws of a link -/

theorem State.onLink_eq {s : State} {l : Nat} (hr : s.running = true) (hl : s.hasLink l = true) (f : State → State) :
    s.onLink l f = .next (f s).capNews.tryDeblock := by
  rw [State.onLink, State.inRun_eq hr]
  simp only [hl, if_true]

theorem State.onPort_eq {s : State} {p : Nat} (hr : s.running = true) (hl : s.hasLink p = true) (hp : p < 16)
    (f : State → State) : s.onPort p f = .next (f s).capNews.tryDeblock := by
  rw [State.onPort, State.onLink_eq hr hl]
  simp only [hp, if_true]

/-- The registers of the partner are none that reports a state. -/
theorem TRV_PARTNER_apart {l : Nat} (hl : l < 16) :
    (lstateFld l).key ≠ (TRV_PARTNER_ROLE l).key ∧ (lstateFld l).key ≠ (TRV_PARTNER_STEPPING l).key ∧
      (lstateFld l).key ≠ (TRV_PARTNER_VER_MIN l).key ∧ (lstateFld l).key ≠ (TRV_PARTNER_VER_MAX l).key := by
  simp only [lstateFld, hl, if_true, Fld.key, TRV_STAT_STATE, TRV_PARTNER_ROLE, TRV_PARTNER_STEPPING,
    TRV_PARTNER_VER_MIN, TRV_PARTNER_VER_MAX]
  omega

@[simp] theorem State.sendCap_lstate (s : State) (l j : Nat) (b : Bool) : (s.sendCap l b).lstate j = s.lstate j := rfl

theorem State.notePartner_lstate (s : State) (l : Nat) (c : Cap) : (s.notePartner l c).lstate l = s.lstate l := by
  unfold State.notePartner
  split
  · next hl =>
    obtain ⟨h1, h2, h3, h4⟩ := TRV_PARTNER_apart hl
    rw [State.lstate, State.get_put_ne _ _ _ _ h4, State.get_put_ne _ _ _ _ h3, State.get_put_ne _ _ _ _ h2,
      State.get_put_ne _ _ _ _ h1]
    rfl
  · rfl

/-- Where no far-end echo is granted the link keeps its state (R89). -/
theorem State.farEnd_lstate {s : State} {l : Nat} {c : Cap}
    (hfe : (decide (l < 16) && c.feReq && s.cfgOn (TRV_CTRL_FE_ALLOW l)) = false) (j : Nat) :
    (s.farEnd l c).lstate j = s.lstate j := by
  unfold State.farEnd
  split
  · rfl
  · next hl =>
    have hno : (c.feReq && s.cfgOn (TRV_CTRL_FE_ALLOW l)) = false := by
      simpa [Nat.not_le.mp hl] using hfe
    simp only [hno, Bool.false_eq_true, if_false]
    split <;> rfl

/-- The link after the notes of a valid CAP set (R73 to R77). -/
def State.capNoted (s : State) (l : Nat) (c : Cap) : State :=
  ((s.setLink l { s.link l with lastCap := some c, partner := c.monument, feedIn := c.feed }).notePartner l c).farEnd l c

theorem State.notePartner_cfgOn (s : State) (l : Nat) (c : Cap) (f : Fld) : (s.notePartner l c).cfgOn f = s.cfgOn f := by
  unfold State.notePartner
  split <;> rfl

theorem State.capNoted_lstate {s : State} {l : Nat} {c : Cap}
    (hfe : (decide (l < 16) && c.feReq && s.cfgOn (TRV_CTRL_FE_ALLOW l)) = false) :
    (s.capNoted l c).lstate l = s.lstate l := by
  rw [State.capNoted, State.farEnd_lstate (by rw [State.notePartner_cfgOn]; exact hfe), State.notePartner_lstate]
  rfl

theorem State.echoes_of_lstate {s : State} {l : Nat} (h : s.lstate l ≠ lsTest) : s.echoes l = false := by
  simp [State.echoes, h]

theorem State.symLocked_not_test {s : State} {l : Nat} (h : s.symLocked l = true) : s.lstate l ≠ lsTest := by
  simp only [State.symLocked, Bool.and_eq_true, decide_eq_true_eq] at h
  simp only [lsCapx, lsBlind, lsTest] at h ⊢
  omega

/-- A CAP set in CAPX whose CRC passes, no far-end echo being granted (R73). -/
theorem execCapSetReceive_capx {s : State} {l : Nat} (hr : s.running = true) (hl : s.hasLink l = true) {c : Cap}
    (hok : c.ok = true) (hfe : (decide (l < 16) && c.feReq && s.cfgOn (TRV_CTRL_FE_ALLOW l)) = false) (hst : s.lstate l = 4)
    {u : State} (hu : u = s.capNoted l c) :
    exec (.capSetReceive l c) s = .next (u.capInCapx l c (decide ((s.link l).lastCap = some c))).capNews.tryDeblock := by
  have hut : u.lstate l = 4 := by rw [hu, State.capNoted_lstate hfe, hst]
  have hlock : s.symLocked l = true := by simp [State.symLocked, hst, lsCapx, lsBlind]
  have hecho : s.echoes l = false := State.echoes_of_lstate (State.symLocked_not_test hlock)
  rw [State.capNoted] at hu
  rw [exec_capSetReceive, execCapSetReceive, State.onLink_eq hr hl]
  simp only [hecho, hok, hst, hlock, ← hu, hut, lsTest, lsCapx, Bool.not_true, Bool.false_eq_true,
    if_false, if_true, Nat.reduceEqDiff]

/-- A CAP set of a partner that may not be there (R74, R75, R251, R363). -/
theorem State.capInCapx_refused {u : State} {l : Nat} {c : Cap} (same : Bool) :
    (u.incompat l c = true → u.capInCapx l c same = u.goLink l 9 [TRV_LCAUSE_INCOMPAT l]) ∧
    (u.incompat l c = false → l < 16 → u.badFeed l c.feed = true →
      u.capInCapx l c same = u.goLink l 9 [TRV_LCAUSE_FEEDER_MISMATCH l]) ∧
    (u.incompat l c = false → 16 ≤ l → u.badPeer l c = true → u.capInCapx l c same = u.goLink l 9 []) := by
  unfold State.capInCapx
  refine ⟨fun h => ?_, fun h hl hb => ?_, fun h hl hb => ?_⟩
  · simp only [h, if_true, lsHalt]
  · simp only [h, hl, hb, decide_true, Bool.and_true, Bool.false_eq_true, if_false, if_true, lsHalt]
  · simp only [h, Nat.not_lt.mpr hl, hl, hb, decide_true, decide_false, Bool.false_and, Bool.and_true,
      Bool.false_eq_true, if_false, if_true, lsHalt]

/-- A CAP set of a partner that may be there counts in the run of identical ones (R73). -/
theorem State.capInCapx_counted {u v : State} {l run : Nat} {c : Cap} {same : Bool} (hi : u.incompat l c = false)
    (hf : l < 16 → u.badFeed l c.feed = false) (hp : 16 ≤ l → u.badPeer l c = false)
    (hrun : run = (if same = true then (u.link l).capRun + 1 else 1))
    (hv : v = (if l < 16 then (u.setLink l { u.link l with capRun := run }).put (TRV_STAT_VER l) (min 2 c.verMax)
      else u.setLink l { u.link l with capRun := run })) :
    u.capInCapx l c same =
      if 3 ≤ run then (if c.ack then (v.ackCap l).goLink l 5 [] else v.ackCap l) else v := by
  have hf' : (decide (l < 16) && u.badFeed l c.feed) = false := by
    by_cases h : l < 16
    · simp [hf h]
    · simp [h]
  have hp' : (decide (16 ≤ l) && u.badPeer l c) = false := by
    by_cases h : 16 ≤ l
    · simp [hp h]
    · simp [h]
  unfold State.capInCapx
  simp only [hi, hf', hp', Bool.false_eq_true, if_false, ← hrun, ← hv, lsDelay]

theorem execDmSetReceive_request {s : State} {l : Nat} (hr : s.running = true) (hl : s.hasLink l = true) {d : Dm}
    (hok : d.ok = true) (hres : d.response = false) (hlock : s.symLocked l = true) (t3 t2 : Nat) :
    exec (.dmSetReceive l d t3 t2) s = .next (s.sendSet l 8 (.dm l (Dm.sealed {
      response := true, seq := d.seq, turn := (t3 - t2) % 2 ^ 32, crc := 0 }))).capNews.tryDeblock := by
  have hecho : s.echoes l = false := State.echoes_of_lstate (State.symLocked_not_test hlock)
  rw [exec_dmSetReceive, execDmSetReceive, State.onLink_eq hr hl]
  simp only [hecho, hok, hres, hlock, Bool.not_true, Bool.not_false, Bool.false_eq_true, if_false, if_true]

theorem execDmSetReceive_response {s : State} {l : Nat} (hr : s.running = true) (hl : s.hasLink l = true) {d : Dm}
    (hok : d.ok = true) (hres : d.response = true) (hst : s.lstate l = 5) (hseq : d.seq = (s.link l).dmSeq) (t1 t4 : Nat)
    {u : State} (hu : u = s.setLink l { s.link l with
      dmVals := (s.link l).dmVals ++ [((t4 : Int) - t1) - d.turn + (s.link l).dmAsym],
      dmSeq := ((s.link l).dmSeq + 1) % 256 }) :
    exec (.dmSetReceive l d t1 t4) s =
      .next (if 63 ≤ (s.link l).dmVals.length then u.delayDone l else u.sendDm l).capNews.tryDeblock := by
  have hecho : s.echoes l = false := State.echoes_of_lstate (by rw [hst]; decide)
  have hlen : (64 ≤ (u.link l).dmVals.length) = (63 ≤ (s.link l).dmVals.length) := by
    rw [hu, State.link_setLink_self, List.length_append]
    exact propext Nat.succ_le_succ_iff
  rw [exec_dmSetReceive, execDmSetReceive, State.onLink_eq hr hl]
  simp only [hecho, hok, hres, hst, hseq, lsDelay, Bool.not_true, Bool.false_eq_true, if_false, and_self, if_true, ← hu, hlen]

theorem execBringupTimeout_training {s : State} {l : Nat} (hr : s.running = true) (hl : s.hasLink l = true)
    (h2 : 2 ≤ s.lstate l) (h5 : s.lstate l ≤ 5) :
    exec (.bringupTimeout l) s = .next (s.goLink l 8 (TRV_LCAUSE_BU_TIMEOUT l ::
      if s.lstate l = 5 ∧ (s.link l).spread = true then [TRV_LCAUSE_DLY_SPREAD l] else [])).capNews.tryDeblock := by
  rw [exec_bringupTimeout, execBringupTimeout, State.onLink_eq hr hl]
  simp only [lsBitlock, lsDelay, lsWait, h2, h5, and_self, if_true]
  rfl

/-! ### Settled: bring-up -/

/-- Settles O27, command by command. -/
theorem linkBringUpCompletes : Obligations.LinkBringUpCompletes := by
  unfold Obligations.LinkBringUpCompletes
  intro s l hr hl
  refine ⟨fun h => ?_, fun ph h => ?_, fun al h => ?_, fun c u hok hfe hst hu => ?_, fun c hok hecho => ?_,
    fun d t3 t2 hok hres hlock => execDmSetReceive_request hr hl hok hres hlock t3 t2,
    fun d t1 t4 u hok hres hst hseq hu => ?_, execBringupTimeout_training hr hl, fun h => ?_, fun h => ?_,
    fun hp hret hraised => ?_⟩
  · rw [exec_rxcDetect, execRxcDetect, State.onLink_eq hr hl]
    simp only [lsDetect, lsBitlock, h, if_true]
  · rw [exec_bitLock, execBitLock, State.onLink_eq hr hl]
    simp only [lsBitlock, lsSymlock, h, if_true]
  · rw [exec_symbolLock, execSymbolLock, State.onLink_eq hr hl]
    simp only [lsSymlock, lsCapx, h, if_true]
  · have hexec := execCapSetReceive_capx hr hl hok hfe hst hu
    have hrefused := State.capInCapx_refused (u := u) (l := l) (c := c) (decide ((s.link l).lastCap = some c))
    obtain ⟨hinc, hfeed, hpeer⟩ := hrefused
    refine ⟨fun h => by rw [hexec, hinc h], fun h hlt hb => by rw [hexec, hfeed h hlt hb],
      fun h hge hb => by rw [hexec, hpeer h hge hb], fun run v hi hf hp hrun hv => ?_⟩
    have hcount := State.capInCapx_counted (same := decide ((s.link l).lastCap = some c)) hi hf hp
      (by simpa only [decide_eq_true_eq] using hrun) hv
    rw [hexec, hcount]
    exact ⟨fun h => by rw [if_neg (by omega)], fun h ha => by rw [if_pos h, ha]; rfl, fun h ha => by rw [if_pos h, ha]; rfl⟩
  · rw [exec_capSetReceive, execCapSetReceive, State.onLink_eq hr hl]
    simp only [hecho, hok, Bool.not_false, Bool.false_eq_true, if_false, if_true]
  · rw [execDmSetReceive_response hr hl hok hres hst hseq t1 t4 hu]
    exact ⟨fun h => by rw [if_neg (by omega)], fun h => by rw [if_pos h]⟩
  · rw [exec_waitExpiry, execWaitExpiry, State.onLink_eq hr hl]
    simp only [lsWait, lsDetect, h, if_true]
  · rw [exec_haltRxcAbsent, execHaltRxcAbsent, State.onLink_eq hr hl]
    simp only [lsHalt, lsDetect, h, if_true]
  · rw [exec_bringupRetryLimit, execBringupRetryLimit, State.onPort_eq hr hl hp]
    simp only [hret, hraised, Bool.false_eq_true, not_false_eq_true, and_self, if_true, linkSource, hp]

/-! ### Registers of a port -/

theorem State.byWrite_here {s : State} (hw : s.takesWrites = true) {b : Bool} (hb : b = true) (w : Write) :
    s.byWrite b w = .next ((w s).2.emit (.done (w s).1)) := by
  rw [hb, State.byWrite_eq hw]

theorem wrInj_locked {s : State} (h : s.on SYS_LOCK_TRVTEST = true) (p : Nat) (single burst clr : Bool) (len : Nat) :
    wrInj p single burst clr len s = (stLocked, s) := by
  simp only [wrInj, h, if_true]

theorem wrInj_single {s : State} (h : s.on SYS_LOCK_TRVTEST = false) (p : Nat) :
    wrInj p true false false 0 s = (stOk, s.injectBits p 1) := by
  simp only [wrInj, h, Bool.false_and, Bool.false_eq_true, if_false, if_true]

theorem wrInj_burst {s : State} (h : s.on SYS_LOCK_TRVTEST = false) (p : Nat) {n : Nat} (hn : n ≠ 0) :
    wrInj p false true false n s = (stOk, s.injectBits p n) := by
  simp only [wrInj, h, hn, decide_false, Bool.and_false, Bool.false_eq_true, if_false, if_true]

theorem wrInj_burstOfNone {s : State} (h : s.on SYS_LOCK_TRVTEST = false) (p : Nat) :
    wrInj p false true false 0 s = (stBadParam, s) := by
  simp only [wrInj, h, decide_true, Bool.and_true, Bool.false_eq_true, if_false, if_true]

theorem wrInj_clear {s : State} (h : s.on SYS_LOCK_TRVTEST = false) (p : Nat) :
    wrInj p false false true 0 s =
      (stOk, (s.setLink p { s.link p with prbsBits := 0, prbsErrs := 0 }).put (TRV_PRBS_STAT_CNT_OVF p) 0) := by
  simp only [wrInj, h, Bool.false_and, Bool.false_eq_true, if_false, if_true]

theorem wrRestart_off {s : State} {p : Nat} (h : s.lstate p = 0) : wrRestart p s = (stOk, s.uncache p) := by
  simp only [wrRestart, h, if_true]

theorem wrRestart_on {s : State} {p : Nat} (h : s.lstate p ≠ 0) :
    wrRestart p s = (stOk, ((s.uncache p).goLink p 1 []).capNews) := by
  simp only [wrRestart, h, if_false, lsDetect]

/-- Settles O29, command by command. -/
theorem portRegistersComplete : Obligations.PortRegistersComplete := by
  unfold Obligations.PortRegistersComplete
  intro s p hr hp
  have hb : decide (p < s.nPorts) = true := by simp only [hp, decide_true]
  refine ⟨fun hw h => ?_, fun hw h => ?_, fun hw h => ?_, fun n hw h h1 hn => ?_, fun hw h => ?_, fun hw h => ?_,
    fun n hw h => ⟨?_, ?_, ?_⟩, fun b e hl h16 hc hoff => ?_, fun b e hl h16 hc hon => ?_, fun b e hl h16 hon => ?_,
    fun c u hl hecho hu => ?_⟩
  · rw [exec_portRestart, execPortRestart, State.byWrite_here hw hb, wrRestart_on h]
    rfl
  · rw [exec_portRestart, execPortRestart, State.byWrite_here hw hb, wrRestart_off h]
    rfl
  · rw [exec_injectSingle, execInjectSingle, State.byWrite_here hw hb, wrInj_single h]
    rfl
  · rw [exec_injectBurst, execInjectBurst, State.byWrite_here hw hb, Nat.mod_eq_of_lt hn, wrInj_burst h p (by omega)]
    rfl
  · rw [exec_injectBurst, execInjectBurst, State.byWrite_here hw hb, Nat.zero_mod, wrInj_burstOfNone h]
  · rw [exec_prbsClear, execPrbsClear, State.byWrite_here hw hb, wrInj_clear h]
    rfl
  · rw [exec_injectSingle, execInjectSingle, State.byWrite_here hw hb, wrInj_locked h]
  · rw [exec_injectBurst, execInjectBurst, State.byWrite_here hw hb, wrInj_locked h]
  · rw [exec_prbsClear, execPrbsClear, State.byWrite_here hw hb, wrInj_locked h]
  · rw [exec_prbsCheckerLock, execPrbsCheckerLock, State.onPort_eq hr hl h16]
    simp only [hc, hoff, Bool.false_eq_true, if_false, if_true]
  · rw [exec_prbsCheckerLock, execPrbsCheckerLock, State.onPort_eq hr hl h16]
    simp only [hc, hon, if_true]
  · rw [exec_prbsLockLoss, execPrbsLockLoss, State.onPort_eq hr hl h16]
    simp only [hon, if_true]
  · rw [exec_capSetReceive, execCapSetReceive, State.onLink_eq hr hl, hu]
    simp only [hecho, if_true]

end Sys2Proof.Machine
end

section
/-! Frames, urgent pairs and turning ports as they reach a device (04_traverse_frames.md). -/

namespace Sys2Proof.Machine

open Sys2Proof

/-! ### Frames at a Datum -/

/-- A frame that has arrived whole on a port of a Datum, once it has gone back where the port turns (R122). -/
def State.frameBack (u : State) (p : Nat) (f : Frame) (idles : Nat) : State :=
  match u.outPort p with
  | some o => (u.absorb o idles).passOn o f
  | none => u

theorem execDatumFrameReceive_up {s : State} (hd : s.isDatum = true) {p : Nat} (hecho : s.echoes p = false) (hp : p < 16)
    (hup : s.portUp p = true) (f : Frame) (c i : Nat) {u v : State} (hu : u = s.advance (c / 32 + frameCycles f))
    (hv : v = u.frameBack p f i) :
    exec (.datumFrameReceive p f c i) s = .next (
      if !v.tb.started then (if f.hdr.ok then (v.count (FRM_RX p)).takeUp p f else v.count (HDR_CRC p))
      else if v.tb.cutDone then v.count (NO_FRAME p)
      else v.receiveFrame p f c) := by
  subst hv hu
  rw [exec_datumFrameReceive, execDatumFrameReceive, State.inDatum_eq hd]
  simp only [hecho, hup, Nat.not_le.mpr hp, decide_false, Bool.not_true, Bool.or_false, Bool.false_eq_true, if_false,
    State.frameBack] <;> rfl

theorem execClosurePersistFault_due {s : State} (hd : s.isDatum = true) {p : Nat} (hp : p < 16)
    (hrun : s.cfg (TRV_CLOSE_PERSIST p) ≤ (s.port p).failRun) (hnew : (s.port p).closeRaised = false) :
    exec (.closurePersistFault p) s = .next ((s.setPort p { s.port p with closeRaised := true }).raise (48 + p)) := by
  rw [exec_closurePersistFault, execClosurePersistFault, State.inDatum_eq hd]
  simp only [hp, hrun, hnew, decide_true, Bool.not_false, Bool.and_true, if_true]

/-! ### Frames at a Stake -/

theorem execStakeFrameDecode_alone {s : State} (hs : s.isStake = true) {q : Nat} (hq : q < 2) (f : Frame) {c : Nat}
    (hnew : s.frm.decoded.contains (q, c) = false) (hecho : s.echoes q = false) (hup : s.linkUp q = true)
    (hone : s.linkUp (1 - q) = false ∨ s.sameCycle q c = none) (i : Nat) {u : State}
    (hu : u = (if q = s.timingPort then s.timingComma f c else s)) :
    exec (.stakeFrameDecode q f c i) s =
      .next (((u.advance (c / 32 + 230)).absorbIdle q i).decodeFrame q (c / 32) f).tryDeblock := by
  have hpair : (if s.linkUp (1 - q) && !s.echoes (1 - q) then s.sameCycle q c else none) = none := by
    obtain h | h := hone
    · simp [h]
    · simp [h]
  subst hu
  rw [exec_stakeFrameDecode, execStakeFrameDecode, State.inStake_eq hs]
  simp only [hnew, hecho, hup, Nat.not_le.mpr hq, decide_false, Bool.not_true, Bool.or_false, Bool.false_eq_true, if_false,
    hpair]

theorem execStakeFrameDecode_pair {s : State} (hs : s.isStake = true) {q : Nat} (hq : q < 2) (f : Frame) {c : Nat}
    (hnew : s.frm.decoded.contains (q, c) = false) (hecho : s.echoes q = false) (hecho' : s.echoes (1 - q) = false)
    (hup : s.linkUp q = true) (hup' : s.linkUp (1 - q) = true) (i : Nat) {g : Frame} {t n : Nat}
    (hpair : s.sameCycle q c = some (g, t, n)) :
    exec (.stakeFrameDecode q f c i) s = .next (s.pairDecode q c i f g t n) := by
  rw [exec_stakeFrameDecode, execStakeFrameDecode, State.inStake_eq hs]
  simp only [hnew, hecho, hecho', hup, hup', hpair, Nat.not_le.mpr hq, decide_false, Bool.not_true, Bool.not_false,
    Bool.and_true, Bool.or_false, Bool.false_eq_true, if_false, if_true]

theorem execStakeFrameDecode_decoded {s : State} (hs : s.isStake = true) {q : Nat} (f : Frame) {c : Nat}
    (hold : s.frm.decoded.contains (q, c) = true) (i : Nat) :
    exec (.stakeFrameDecode q f c i) s =
      .next { s with frm := { s.frm with decoded := s.frm.decoded.erase (q, c) } } := by
  rw [exec_stakeFrameDecode, execStakeFrameDecode, State.inStake_eq hs]
  simp only [hold, if_true]

/-! ### An echo (R89) -/

theorem execDatumFrameReceive_echo {s : State} (hd : s.isDatum = true) {q : Nat} (h : s.echoes q = true) (f : Frame)
    (c i : Nat) : exec (.datumFrameReceive q f c i) s = .next (s.emit (.frame q f)) := by
  rw [exec_datumFrameReceive, execDatumFrameReceive, State.inDatum_eq hd]
  simp only [h, if_true]

theorem execStakeFrameDecode_echo {s : State} (hs : s.isStake = true) {q : Nat} (h : s.echoes q = true) (f : Frame)
    {c : Nat} (hnew : s.frm.decoded.contains (q, c) = false) (i : Nat) :
    exec (.stakeFrameDecode q f c i) s = .next (s.emit (.frame q f)) := by
  rw [exec_stakeFrameDecode, execStakeFrameDecode, State.inStake_eq hs]
  simp only [hnew, h, Bool.false_eq_true, if_false, if_true]

theorem execBlockPairReceive_echo {s : State} (hs : s.isStake = true) {q : Nat} (h : s.echoes q = true) (n c : Nat) :
    exec (.blockPairReceive q n c) s = .next (s.emit (.blockPair q)) := by
  rw [exec_blockPairReceive, execBlockPairReceive, State.inStake_eq hs]
  simp only [h, if_true]

theorem execBlockPairDatum_echo {s : State} (hd : s.isDatum = true) {q : Nat} (h : s.echoes q = true) (n : Nat) :
    exec (.blockPairDatum q n) s = .next (s.emit (.blockPair q)) := by
  rw [exec_blockPairDatum, execBlockPairDatum, State.inDatum_eq hd]
  simp only [h, if_true]

theorem execTickmarkReceive_echo {s : State} (hr : s.running = true) {q : Nat} (h : s.echoes q = true) (n c : Nat) :
    exec (.tickmarkReceive q n c) s = .next (s.emit (.tickmark q)) := by
  rw [exec_tickmarkReceive, execTickmarkReceive, State.inRun_eq hr]
  simp only [h, if_true]

/-! ### Urgent pairs -/

theorem State.seeArmBlocked_eq (s : State) :
    s.seeArmBlocked = s ∨ s.seeArmBlocked = { s with sf := { s.sf with fholdSeen := true } } := by
  unfold State.seeArmBlocked
  split
  · exact .inr rfl
  · exact .inl rfl

theorem State.seeArmBlocked_permit (s : State) :
    s.seeArmBlocked.sf.x.permit = s.sf.x.permit ∧ s.seeArmBlocked.sf.y.permit = s.sf.y.permit ∧
      s.seeArmBlocked.live = s.live := by
  obtain h | h := s.seeArmBlocked_eq <;> rw [h] <;> exact ⟨rfl, rfl, rfl⟩

/-- The mirror of the channels writes no cause. -/
theorem State.mirrorSafe_urgent (s : State) : s.mirrorSafe.get SF_SCAUSE_URGENT = s.get SF_SCAUSE_URGENT := by
  unfold State.mirrorSafe
  dsimp only
  split <;> simp (disch := decide) only [State.putB, State.get_put_ne]

theorem State.blockStake_urgent (s : State) : (s.blockStake true true [SF_SCAUSE_URGENT]).on SF_SCAUSE_URGENT = true := by
  unfold State.blockStake
  rw [(State.forceOff_writesIn _).on (by decide), State.on, State.mirrorSafe_urgent, List.foldl_cons, List.foldl_nil,
    State.get_put_self]
  decide

theorem execBlockPairReceive_locked {s : State} (hs : s.isStake = true) {q : Nat} (hq : q < 2)
    (hecho : s.echoes q = false) (hlock : s.symLocked q = true) (n c : Nat) :
    exec (.blockPairReceive q n c) s =
      .next (((s.advance c).forwardBlock q n).blockStake true true [SF_SCAUSE_URGENT]).seeArmBlocked := by
  rw [exec_blockPairReceive, execBlockPairReceive, State.inStake_eq hs]
  simp only [hecho, hlock, Nat.not_le.mpr hq, decide_false, Bool.not_true, Bool.or_false, Bool.false_eq_true, if_false]

/-- A BLOCK pair blocks both channels of a Stake, whose cell goes Off (R115). -/
theorem State.blockedByPair (s : State) :
    (s.blockStake true true [SF_SCAUSE_URGENT]).seeArmBlocked.bothBlocked ∧
      (s.blockStake true true [SF_SCAUSE_URGENT]).seeArmBlocked.cell = .off ∧
      (s.blockStake true true [SF_SCAUSE_URGENT]).seeArmBlocked.on SF_SCAUSE_URGENT = true := by
  obtain ⟨hx, hy, hlive⟩ := (s.blockStake true true [SF_SCAUSE_URGENT]).seeArmBlocked_permit
  obtain ⟨hbx, hby⟩ := s.blockStake_permit true true [SF_SCAUSE_URGENT]
  refine ⟨⟨?_, ?_⟩, ?_, ?_⟩
  · rw [hx, hbx, Bool.not_true, Bool.and_false]
  · rw [hy, hby, Bool.not_true, Bool.and_false]
  · rw [State.cell, State.get_of_live hlive]
    exact s.blockStake_cell true true _
  · rw [State.on, State.get_of_live hlive]
    exact s.blockStake_urgent

theorem execBlockPairDatum_locked {s : State} (hd : s.isDatum = true) {p : Nat} (hp : p < 16) (hecho : s.echoes p = false)
    (hlock : s.symLocked p = true) (n : Nat) :
    exec (.blockPairDatum p n) s =
      .next ((((s.count (BLOCK_RX p)).put SF_CAUSE_RXBLOCK 1).raise 183).forwardBlock p n) := by
  rw [exec_blockPairDatum, execBlockPairDatum, State.inDatum_eq hd]
  simp only [hecho, hlock, Nat.not_le.mpr hp, decide_false, Bool.not_true, Bool.or_false, Bool.false_eq_true, if_false]

theorem execTickmarkReceive_locked {s : State} (hr : s.running = true) {q : Nat} (hq : q < 16) (hl : s.hasLink q = true)
    (hecho : s.echoes q = false) (hlock : s.symLocked q = true) (n c : Nat) {u : State} (hu : u = s.advance (c / 32)) :
    exec (.tickmarkReceive q n c) s = .next ((if s.role = .stake ∧ n = 0 then
      { u with tb := { u.tb with tmark := kset u.tb.tmark q c } } else u).forwardMark q n) := by
  have hrole : u.role = s.role := by rw [hu, State.advance_role]
  rw [exec_tickmarkReceive, execTickmarkReceive, State.inRun_eq hr]
  simp only [hecho, hl, hlock, Nat.not_le.mpr hq, decide_false, Bool.not_true, Bool.or_false, Bool.false_eq_true, if_false,
    ← hu, hrole]

/-! ### Turning -/

/-- Two states that show the same to the rule of turning (R121, R122). -/
structure SameTurn (s t : State) : Prop where
  role : t.role = s.role
  cfg : ∀ f, t.cfg f = s.cfg f
  links : ∀ p < 16, t.lstate p = s.lstate p
  ticks : t.get TB_STAT_TICK_RUN = s.get TB_STAT_TICK_RUN
  tb : t.tb = s.tb
  frm : t.frm = s.frm

theorem SameTurn.wantTurn {s t : State} (h : SameTurn s t) {q : Nat} (hq : q < 16) : t.wantTurn q = s.wantTurn q := by
  simp only [State.wantTurn, State.linkUp, State.cfgOn, State.on, h.role, h.cfg, h.links q hq,
    h.links (1 - q) (by omega), h.ticks, h.tb, h.frm]

theorem TRV_HOPLAT_apart {q p : Nat} (hp : p < 16) : (lstateFld p).key ≠ (TRV_HOPLAT_LAT q).key := by
  simp only [lstateFld, hp, if_true, Fld.key, TRV_STAT_STATE, TRV_HOPLAT_LAT]
  omega

theorem TB_STAT_TICK_RUN_ne_hoplat (q : Nat) : TB_STAT_TICK_RUN.key ≠ (TRV_HOPLAT_LAT q).key := by
  simp only [Fld.key, TB_STAT_TICK_RUN, TRV_HOPLAT_LAT]
  omega

theorem State.measureHop_sameTurn (s : State) (q : Nat) : SameTurn s (s.measureHop q) where
  role := rfl
  cfg _ := rfl
  links _ hp := State.get_put_ne s _ _ _ (TRV_HOPLAT_apart hp)
  ticks := State.get_put_ne s _ _ _ (TB_STAT_TICK_RUN_ne_hoplat q)
  tb := rfl
  frm := rfl

theorem State.turnPort_sameTurn (s : State) (q : Nat) : SameTurn s (s.turnPort q) := by
  have hrefl (v : PortSt) : SameTurn s (s.setPort q v) := ⟨rfl, fun _ => rfl, fun _ _ => rfl, rfl, rfl, rfl⟩
  unfold State.turnPort
  extract_lets w _ s1
  split
  · exact ⟨rfl, fun _ => rfl, fun _ _ => rfl, rfl, rfl, rfl⟩
  · split
    · have h := s1.measureHop_sameTurn q
      have h1 : SameTurn s s1 := hrefl _
      exact ⟨h.role.trans h1.role, fun f => (h.cfg f).trans (h1.cfg f), fun p hp => (h.links p hp).trans (h1.links p hp),
        h.ticks.trans h1.ticks, h.tb.trans h1.tb, h.frm.trans h1.frm⟩
    · exact hrefl _

theorem State.measureHop_turns (s : State) (o q : Nat) : (s.measureHop o).turns q = s.turns q := rfl

/-- Port `q` turns as it is wanted, and no other port changes (R123). -/
theorem State.turnPort_turns (s : State) (q j : Nat) :
    (s.turnPort q).turns j = if j = q then s.wantTurn q else s.turns j := by
  have hset : (s.setPort q { s.port q with turning := s.wantTurn q }).turns j =
      if j = q then s.wantTurn q else s.turns j := by
    by_cases hj : j = q
    · rw [if_pos hj, hj, State.turns, State.port_setPort_self]
    · rw [if_neg hj, State.turns, State.port_setPort_ne _ _ _ _ hj]
      rfl
  unfold State.turnPort
  extract_lets w _ s1
  split
  · next h =>
    by_cases hj : j = q
    · rw [if_pos hj, hj]
      exact h.symm
    · rw [if_neg hj]
  · split
    · rw [State.measureHop_turns]
      exact hset
    · exact hset

theorem turnPorts_turns : ∀ (l : List Nat) (s : State), (∀ q ∈ l, q < 16) → l.Nodup →
    ∀ q, (l.foldl State.turnPort s).turns q = if q ∈ l then s.wantTurn q else s.turns q
  | [], s, _, _, q => by simp
  | p :: l, s, hl, hnd, q => by
    have hp : p ∉ l := (List.nodup_cons.mp hnd).1
    rw [List.foldl_cons, turnPorts_turns l _ (fun j hj => hl j (List.mem_cons_of_mem _ hj)) (List.nodup_cons.mp hnd).2,
      State.turnPort_turns]
    by_cases hq : q ∈ l
    · rw [if_pos hq, if_pos (List.mem_cons_of_mem _ hq),
        (s.turnPort_sameTurn p).wantTurn (hl q (List.mem_cons_of_mem _ hq))]
    · by_cases hqp : q = p
      · simp [hqp, hp]
      · simp [hqp, hq]

theorem State.nPorts_le (s : State) : s.nPorts ≤ 16 := by
  unfold State.nPorts
  split <;> decide

theorem State.turnChange_turns (s : State) {q : Nat} (hq : q < s.nPorts) :
    ((List.range s.nPorts).foldl State.turnPort s).turns q = s.wantTurn q := by
  rw [turnPorts_turns _ s (fun j hj => Nat.lt_of_lt_of_le (List.mem_range.mp hj) s.nPorts_le) List.nodup_range,
    if_pos (List.mem_range.mpr hq)]

theorem execLeaseExpiry_due {s : State} (hs : s.isStake = true) (hdue : s.frm.leaseDue = true) :
    exec .leaseExpiry s = .next ((({ s with frm := { s.frm with leaseDue := false } } : State).count LS_EXPIRE).raise
      167) := by
  rw [exec_leaseExpiry, execLeaseExpiry, State.inStake_eq hs]
  simp only [hdue, if_true]

/-! ### Settled: frames and pairs -/

/-- Settles O30, command by command; the turning ports by induction over the ports of the role. -/
theorem framesAndPairsComplete : Obligations.FramesAndPairsComplete := by
  unfold Obligations.FramesAndPairsComplete
  intro s
  refine ⟨fun p f c i u v hd hecho hp hup hu hv => ?_, fun p hd => execClosurePersistFault_due hd,
    fun q f c i u hs hq hnew hecho hup hone hu => execStakeFrameDecode_alone hs hq f hnew hecho hup hone i hu,
    fun q f g c i t n hs hq hnew hecho hecho' hup hup' hpair =>
      execStakeFrameDecode_pair hs hq f hnew hecho hecho' hup hup' i hpair,
    fun q f c i hs hold => execStakeFrameDecode_decoded hs f hold i,
    fun q f c i n hr hecho => ⟨fun hd => execDatumFrameReceive_echo (State.isDatum_of hr hd) hecho f c i,
      fun hs hnew => execStakeFrameDecode_echo (State.isStake_of hr hs) hecho f hnew i,
      fun hs => execBlockPairReceive_echo (State.isStake_of hr hs) hecho n c,
      fun hd => execBlockPairDatum_echo (State.isDatum_of hr hd) hecho n, execTickmarkReceive_echo hr hecho n c⟩,
    fun q n c hs hq hecho hlock => ⟨_, rfl, execBlockPairReceive_locked hs hq hecho hlock n c, State.blockedByPair _⟩,
    fun p n hd hp hecho hlock => execBlockPairDatum_locked hd hp hecho hlock n,
    fun q n c u hr hecho hl hq hlock hu => execTickmarkReceive_locked hr hq hl hecho hlock n c hu,
    fun hr => ⟨_, rfl, ?_, fun q => s.turnChange_turns⟩, execLeaseExpiry_due⟩
  · rw [execDatumFrameReceive_up hd hecho hp hup f c i hu hv]
    exact ⟨fun h => by rw [h]; rfl, fun h hc => by rw [h, hc]; rfl, fun h hc => by rw [h, hc]; rfl⟩
  · rw [exec_turnChange, execTurnChange, State.inRun_eq hr]

end Sys2Proof.Machine
end

section
/-! Levelling in a Stake and in a Datum (05_levelling.md). -/

namespace Sys2Proof.Machine

open Sys2Proof

/-! ### The apply instant and the trim -/

/-- A Stake at the apply instant of its tick (R143): where the entry it acted on places it, or at once. -/
def State.atApply (s : State) : State :=
  match s.actedEntry with
  | some e => if e.hasApply = true then s.advance (s.tb.tickStart + e.apply) else s
  | none => s.count (NO_DEC s.timingPort)

theorem execApplyInstant_due {s u v w : State} (hs : s.isStake = true) (hl : s.on TB_STAT_TICK_LOCK = true)
    (ha : s.tb.applied = false) (hu : u = s.atApply)
    (hv : v = ({ u with gs := { u.gs with refreshRun := false }, frm := { u.frm with held := false } } : State).put
      LVL_SSTAT_LATCHHOLD 0)
    (hw : w = (v.put LVL_SSTAT_TRIMMING 0).applyPlan) :
    exec .applyInstant s = .next ({ w with
      tb := { w.tb with applied := true },
      gs := if v.refreshNow = true then { w.gs with refreshDue := false } else w.gs } : State).updRefresh := by
  subst hw hv hu
  rw [exec_applyInstant, execApplyInstant, State.inStake_eq hs]
  simp only [hl, ha, Bool.not_true, Bool.or_false, Bool.false_eq_true, if_false]
  rfl

theorem execApplyInstant_made {s : State} (hs : s.isStake = true) (ha : s.tb.applied = true) :
    exec .applyInstant s = .next s := by
  rw [exec_applyInstant, execApplyInstant, State.inStake_eq hs]
  simp only [ha, Bool.or_true, if_true]

theorem execTrimEnd_at {s u : State} (hs : s.isStake = true) {c : Nat} (hc : s.gs.trimEnd = some c)
    (hu : u = ({ s.advance c with gs := { s.gs with trimEnd := none } } : State)) {r : Bool × State}
    (hr : r = u.changeCell .bypassed u.now (s.gs.trimNext - u.now)) :
    exec .trimEnd s = .next (if s.gs.offAtApply then u.count LVL_TRIMLOST
      else if r.1 then r.2.count LVL_TRIMMED
      else ({ r.2 with gs := { r.2.gs with trimTick := none } } : State).count LVL_TRIMLOST) := by
  subst hr hu
  rw [exec_trimEnd, execTrimEnd, State.inStake_eq hs]
  simp only [hc, State.advance_gs]

theorem execUnrankedLimit_due {s : State} (hs : s.isStake = true) (hrun : s.cfg LVL_SCFG_UNRK_LIM ≤ s.frm.unrankRun)
    (hnew : s.frm.unrankRaised = false) :
    exec .unrankedLimit s = .next (({ s with frm := { s.frm with unrankRaised := true } } : State).raise 69) := by
  rw [exec_unrankedLimit, execUnrankedLimit, State.inStake_eq hs]
  simp only [hrun, hnew, Bool.false_eq_true, not_false_eq_true, and_self, if_true]

/-- Settles O31, command by command. -/
theorem levellingOfAStakeCompletes : Obligations.LevellingOfAStakeCompletes := by
  unfold Obligations.LevellingOfAStakeCompletes
  intro s hs
  refine ⟨fun u v w hl ha hu hv hw => execApplyInstant_due hs hl ha hu hv hw, execApplyInstant_made hs,
    fun c u hc hu => ⟨fun hoff => ?_, fun r hoff hr => ⟨fun hok => ?_, fun hok => ?_⟩⟩, execUnrankedLimit_due hs⟩
  · rw [execTrimEnd_at hs hc hu rfl, if_pos hoff]
  · rw [execTrimEnd_at hs hc hu hr, hoff, hok]
    rfl
  · rw [execTrimEnd_at hs hc hu hr, hoff, hok]
    rfl

/-! ### The arms of a Datum, one after the other -/

/-- A fold over members that each leave the state as it is. -/
theorem foldl_idle {β : Type} {f : State → β → State} {s : State} : ∀ {l : List β}, (∀ b ∈ l, f s b = s) → l.foldl f s = s
  | [], _ => rfl
  | b :: l, h => by
    rw [List.foldl_cons, h b List.mem_cons_self]
    exact foldl_idle fun c hc => h c (List.mem_cons_of_mem _ hc)

/-- A fold of which only one member does anything is that member's step. -/
theorem foldl_only {β : Type} {f : State → β → State} {s : State} {a : β} : ∀ {l : List β}, a ∈ l → l.Nodup →
    (∀ b ∈ l, b ≠ a → f s b = s) → (∀ b ∈ l, b ≠ a → f (f s a) b = f s a) → l.foldl f s = f s a
  | [], h, _, _, _ => nomatch h
  | b :: l, h, hnd, hbefore, hafter => by
    obtain ⟨hbl, hnd'⟩ := List.nodup_cons.mp hnd
    by_cases hb : b = a
    · subst hb
      exact foldl_idle fun c hc => hafter c (List.mem_cons_of_mem _ hc) fun e => hbl (e ▸ hc)
    · rw [List.foldl_cons, hbefore b List.mem_cons_self hb]
      exact foldl_only ((List.mem_cons.mp h).resolve_left (Ne.symm hb)) hnd'
        (fun c hc => hbefore c (List.mem_cons_of_mem _ hc)) (fun c hc => hafter c (List.mem_cons_of_mem _ hc))

/-- DEVIATION_PERSIST for one arm (R146). -/
def State.deviate (s : State) (a : Nat) : State :=
  if s.cfg LVL_CTRL_DEV_PERSIST ≤ (s.armSt a).devRun ∧ (s.armSt a).devRaised = false then
    (s.setArm a { s.armSt a with devRaised := true }).raise 66 else s

/-- REST_BAND_ENTRY for one arm (R132). -/
def State.enterRest (s : State) (a : Nat) : State :=
  if s.cfgOn (LVL_ARM_RESTCFG_REST_EN a) = true ∧ s.cfg (LVL_ARM_RESTCFG_DLY a) ≤ (s.armSt a).zeroRun ∧
    (s.armSt a).restOn = false then s.setRest a true else s

/-- ABSENT_MARK for one arm (R137). -/
def State.markArm (s : State) (a : Nat) : State :=
  if s.armEn a = true ∧ s.cfg LVL_CTRL_REPMAX ≤ (s.armSt a).repeats ∧ s.tb.started = true ∧ s.tb.cutDone = false then
    ((s.finishSelect a).setArm a { (s.finishSelect a).armSt a with
      gone := ((s.finishSelect a).armSt a).gone || !((s.finishSelect a).missingOf a).isEmpty }).markAbsent
        ((s.finishSelect a).missingOf a)
  else s

theorem execDeviationPersist_eq {s : State} (hd : s.isDatum = true) :
    exec .deviationPersist s = .next ((List.range 6).foldl State.deviate s) := by
  rw [exec_deviationPersist, execDeviationPersist, State.inDatum_eq hd]
  simp only [Bool.not_eq_true]
  rfl

theorem execRestBandEntry_eq {s : State} (hd : s.isDatum = true) :
    exec .restBandEntry s = .next ((List.range 6).foldl State.enterRest s) := by
  have h : (fun (s : State) a => if s.cfgOn (LVL_ARM_RESTCFG_REST_EN a) &&
      s.cfg (LVL_ARM_RESTCFG_DLY a) ≤ (s.armSt a).zeroRun && !(s.armSt a).restOn then s.setRest a true else s) =
      State.enterRest := by
    funext s a
    simp only [State.enterRest, Bool.and_eq_true, decide_eq_true_eq, Bool.not_eq_true', and_assoc]
  rw [exec_restBandEntry, execRestBandEntry, State.inDatum_eq hd, h]

theorem execAbsentMark_eq {s : State} (hd : s.isDatum = true) :
    exec .absentMark s = .next ((List.range 6).foldl State.markArm s) := by
  have h : (fun (s : State) a =>
      if s.armEn a && s.cfg LVL_CTRL_REPMAX ≤ (s.armSt a).repeats && s.tb.started && !s.tb.cutDone then
        let t := s.finishSelect a
        (t.setArm a { t.armSt a with gone := (t.armSt a).gone || !(t.missingOf a).isEmpty }).markAbsent (t.missingOf a)
      else s) = State.markArm := by
    funext s a
    simp only [State.markArm, Bool.and_eq_true, decide_eq_true_eq, Bool.not_eq_true', and_assoc]
  rw [exec_absentMark, execAbsentMark, State.inDatum_eq hd, h]

theorem State.raise_act (s : State) (src : Nat) : (s.raise src).act = s.act :=
  (congrArg State.act (s.raise_besideFaults src) :)

theorem State.raise_arms (s : State) (src : Nat) : (s.raise src).arms = s.arms :=
  (congrArg State.arms (s.raise_besideFaults src) :)

/-- An arm whose deviation does not persist raises nothing, before and after another arm that does (R146). -/
theorem State.deviate_idle {s : State} {b : Nat} (h : (s.armSt b).devRun < s.cfg LVL_CTRL_DEV_PERSIST) :
    s.deviate b = s := if_neg fun hd => by omega

theorem State.deviate_apart (s : State) {a b : Nat} (hb : b ≠ a) :
    (s.deviate a).armSt b = s.armSt b ∧ (s.deviate a).cfg LVL_CTRL_DEV_PERSIST = s.cfg LVL_CTRL_DEV_PERSIST := by
  unfold State.deviate
  split
  · refine ⟨?_, ?_⟩
    · rw [State.armSt, State.raise_arms]
      exact State.armSt_setArm_ne s a b _ hb
    · rw [State.cfg, State.raise_act]
      rfl
  · exact ⟨rfl, rfl⟩

theorem State.enterRest_idle {s : State} {b : Nat} (h : s.cfgOn (LVL_ARM_RESTCFG_REST_EN b) = false) :
    s.enterRest b = s := if_neg fun hd => by simp [h] at hd

theorem State.enterRest_cfgOn (s : State) (a : Nat) (f : Fld) : (s.enterRest a).cfgOn f = s.cfgOn f := by
  unfold State.enterRest
  split <;> rfl

theorem execOrderPost_arm {s : State} (hd : s.isDatum = true) (a n : Nat) (dir : Bool) (f : Nat) :
    exec (.orderPost a n dir f) s = .next (if a < 6 then (s.release1 (LVL_ARM_ORDER_N a).addr
      (n % 2048 + 2048 * dir.toNat + 65536 * (f % 65536))).emit (.done 0) else s.emit (.done stBadParam)) := by
  rw [exec_orderPost, execOrderPost, State.written]
  simp only [hd, State.isDatum_running hd, Bool.not_true, Bool.false_eq_true, if_false]
  split <;> rfl

/-- Settles O32, command by command; where one arm alone qualifies the steps of the other five are idle. -/
theorem levellingOfADatumCompletes : Obligations.LevellingOfADatumCompletes := by
  unfold Obligations.LevellingOfADatumCompletes
  intro s hd
  refine ⟨fun a n dir f ha => ?_, fun a n dir f ha => ?_, fun a hen hpost hst hcut => ?_, execAbsentMark_eq hd,
    execDeviationPersist_eq hd, execRestBandEntry_eq hd, fun a ha hrun hnew hother => ?_,
    fun a ha hen hdly hoff hother => ?_⟩
  · rw [execOrderPost_arm hd, if_pos ha]
  · rw [execOrderPost_arm hd, if_neg (by omega)]
  · rw [exec_levellingSelectDone, execLevellingSelectDone, State.inDatum_eq hd]
    simp only [hen, hpost, hst, hcut, Bool.not_false, Bool.and_true, if_true]
  · have hlt (b : Nat) (hb : b ∈ List.range 6) (hne : b ≠ a) := hother b (List.mem_range.mp hb) hne
    have ha' : s.deviate a = (s.setArm a { s.armSt a with devRaised := true }).raise 66 := if_pos ⟨hrun, hnew⟩
    rw [execDeviationPersist_eq hd, ← ha', foldl_only (List.mem_range.mpr ha) List.nodup_range
      (fun b hb hne => State.deviate_idle (hlt b hb hne))]
    intro b hb hne
    obtain ⟨harm, hcfg⟩ := s.deviate_apart hne
    exact State.deviate_idle (by rw [harm, hcfg]; exact hlt b hb hne)
  · have hno (b : Nat) (hb : b ∈ List.range 6) (hne : b ≠ a) := hother b (List.mem_range.mp hb) hne
    have ha' : s.enterRest a = s.setRest a true := if_pos ⟨hen, hdly, hoff⟩
    rw [execRestBandEntry_eq hd, ← ha', foldl_only (List.mem_range.mpr ha) List.nodup_range
      (fun b hb hne => State.enterRest_idle (hno b hb hne))]
    exact fun b hb hne => State.enterRest_idle (by rw [State.enterRest_cfgOn]; exact hno b hb hne)

end Sys2Proof.Machine
end

section
/-! The gate link: refresh, SETS, status words, markers and strength (R153 to R161). -/

namespace Sys2Proof.Machine

open Sys2Proof

@[simp] theorem State.advance_isUsed (s : State) (t n : Nat) : (s.advance t).isUsed n = s.isUsed n := by
  simp only [State.isUsed, State.usedCh, State.advance_cfgOn']

/-! ### Symbols that change nothing -/

/-- The channel after a refresh that repeats the commanded state, or loads the three strengths (R153). -/
def State.refreshed (u : State) (n : Nat) : State :=
  let s1 := u.setChan n { u.chan n with refreshes := ((u.chan n).refreshes + 1) % 64 }
  if ((u.chan n).refreshes + 1) % 64 = 0 then
    ((s1.emitSym n (.sets 0 (u.setsCode n 0))).emitSym n (.sets 1 (u.setsCode n 1))).emitSym n (.sets 2 (u.setsCode n 2))
  else s1.emitSym n (if u.on (GS_CH_STAT_ON n) then .on else .off)

theorem execGcmdRefresh_open {s u : State} {n : Nat} (hs : s.isStake = true) (hn : s.isUsed n = true)
    (hopen : s.on SF_SSTAT_GCMD_GATED = false) (hu : u = s.advance (s.busyTill n + 512)) :
    exec (.gcmdRefresh n) s = .next (if (u.refreshed n).lineFits n then u.refreshed n else u) := by
  subst hu
  rw [exec_gcmdRefresh, execGcmdRefresh, State.inStake_eq hs]
  simp only [hn, hopen, Bool.not_true, Bool.or_self, Bool.false_eq_true, if_false]
  rfl

theorem State.refreshed_state {s u : State} {n c : Nat} (hu : u = s.advance c) (h : ((s.chan n).refreshes + 1) % 64 ≠ 0) :
    u.refreshed n = (u.setChan n { s.chan n with refreshes := ((s.chan n).refreshes + 1) % 64 }).emitSym n
      (if s.on (GS_CH_STAT_ON n) = true then .on else .off) := by
  have hchan : u.chan n = s.chan n := by rw [hu, State.advance_chan']
  have hon : u.on (GS_CH_STAT_ON n) = s.on (GS_CH_STAT_ON n) := by rw [hu, State.advance_on']
  simp only [State.refreshed, hchan, hon, if_neg h]

theorem State.refreshed_sets {s u : State} {n c : Nat} (hu : u = s.advance c) (h : ((s.chan n).refreshes + 1) % 64 = 0) :
    u.refreshed n = (((u.setChan n { s.chan n with refreshes := 0 }).emitSym n (.sets 0 (s.get (GS_CH_STAT_CODE_ON n)))).emitSym n
      (.sets 1 (s.get (GS_CH_STAT_CODE_OFF n)))).emitSym n (.sets 2 (s.cfg (GS_CH_STR_SOFT n))) := by
  have hchan : u.chan n = s.chan n := by rw [hu, State.advance_chan']
  have h0 : u.setsCode n 0 = s.get (GS_CH_STAT_CODE_ON n) := by rw [hu]; exact State.advance_get' ..
  have h1 : u.setsCode n 1 = s.get (GS_CH_STAT_CODE_OFF n) := by rw [hu]; exact State.advance_get' ..
  have h2 : u.setsCode n 2 = s.cfg (GS_CH_STR_SOFT n) := by rw [hu]; exact State.advance_cfg' ..
  simp only [State.refreshed, hchan, h, h0, h1, h2, if_true]

theorem execSetsSend_due {s : State} {n reg : Nat} (hs : s.isStake = true) (hn : s.isUsed n = true)
    (hopen : s.on SF_SSTAT_GCMD_GATED = false) (hdue : (s.chan n).setsDue.contains reg = true) {r : State}
    (hr : r = (s.setChan n { s.chan n with
      setsDue := (s.chan n).setsDue.filter (· ≠ reg), setsSent := addOnce (s.chan n).setsSent reg }).emitSym n
        (.sets reg (s.setsCode n reg))) :
    exec (.setsSend n reg) s = .next (if r.lineFits n = true then r.tryReady n else s) := by
  subst hr
  rw [exec_setsSend, execSetsSend, State.inStake_eq hs]
  simp only [hn, hopen, hdue, Bool.not_true, Bool.or_self, Bool.false_eq_true, if_false]

theorem execGcmdRefresh_gated {s : State} {n : Nat} (hs : s.isStake = true) (h : s.on SF_SSTAT_GCMD_GATED = true) :
    exec (.gcmdRefresh n) s = .next s := by
  rw [exec_gcmdRefresh, execGcmdRefresh, State.inStake_eq hs]
  simp only [h, Bool.or_true, if_true]

theorem execSetsSend_gated {s : State} {n reg : Nat} (hs : s.isStake = true) (h : s.on SF_SSTAT_GCMD_GATED = true) :
    exec (.setsSend n reg) s = .next s := by
  rw [exec_setsSend, execSetsSend, State.inStake_eq hs]
  simp only [h, Bool.or_true, Bool.true_or, if_true]

/-! ### Status words -/

theorem execGfbStatusWord_good {s : State} {n chips w : Nat} (hs : s.isStake = true) (hn : s.isUsed n = true)
    (hw : manchester chips 16 = some w) (hok : wordOk w (s.chan n).wseq = true) :
    exec (.gfbStatusWord n chips) s = .next (((((((s.setChan n { s.chan n with
      goodRun := (s.chan n).goodRun + 1, badRun := 0, wseq := some (w / 256 % 16) }).put
        (GS_CH_STAT_VCE n) (w / 16 % 2)).put (GS_CH_STAT_GVG n) (w / 32 % 2)).put
        (GS_CH_STAT_SUPG n) (w / 64 % 2)).put (GS_CH_STAT_DSAT n) (w / 128 % 2)).testWord n).tryReady n) := by
  rw [exec_gfbStatusWord, execGfbStatusWord, State.inStake_eq hs]
  simp only [hn, hw, hok, Option.any_some, Option.getD_some, Bool.not_true, Bool.false_eq_true, if_false, if_true]

theorem execGfbStatusWord_bad {s : State} {n chips : Nat} (hs : s.isStake = true) (hn : s.isUsed n = true)
    (hbad : (manchester chips 16).any (fun v => wordOk v (s.chan n).wseq) = false) :
    exec (.gfbStatusWord n chips) s = .next ((s.setChan n { s.chan n with
      goodRun := 0, badRun := (s.chan n).badRun + 1, wseq := nextSeq (manchester chips 16) (s.chan n).wseq }).count
        (GS_CH_LINK_ERR n)) := by
  rw [exec_gfbStatusWord, execGfbStatusWord, State.inStake_eq hs]
  simp only [hn, hbad, Bool.not_true, Bool.false_eq_true, if_false]

theorem execWordLockChange_used {s : State} {n : Nat} (hs : s.isStake = true) (hn : s.isUsed n = true) :
    exec (.wordLockChange n) s = .next (
      if !s.on (GS_CH_STAT_LOCK n) && (4 ≤ (s.chan n).goodRun) then (s.put (GS_CH_STAT_LOCK n) 1).tryReady n
      else if s.on (GS_CH_STAT_LOCK n) && (2 ≤ (s.chan n).badRun) then (s.put (GS_CH_STAT_LOCK n) 0).feedbackFault n
      else s) := by
  rw [exec_wordLockChange, execWordLockChange, State.inStake_eq hs]
  simp only [hn, Bool.not_true, Bool.false_eq_true, if_false]

/-! ### The holds of GFB (R155) -/

theorem classHold_none {high : Bool} {len : Nat} (h : len < 12) : classHold high len = none := if_pos h

theorem classHold_edge {len : Nat} (h12 : 12 ≤ len) (h100 : len < 100) : classHold false len = some .edge := by
  simp only [classHold, Nat.not_lt.mpr h12, h100, Bool.false_eq_true, if_false, if_true]

theorem classHold_loss {len : Nat} (h : 100 ≤ len) : classHold false len = some .loss := by
  have h12 : 12 ≤ len := by omega
  simp only [classHold, Nat.not_lt.mpr h12, Nat.not_lt.mpr h, Bool.false_eq_true, if_false]

theorem classHold_desat {len : Nat} (h : 12 ≤ len) : classHold true len = some .desat := by
  simp only [classHold, Nat.not_lt.mpr h, if_false, if_true]

theorem execLossHold_long {s : State} {n len : Nat} (hs : s.isStake = true) (hn : s.isUsed n = true) (h : 100 ≤ len) :
    exec (.lossHold n len) s = .next (((s.setChan n { s.chan n with goodRun := 0, badRun := 0, wseq := none }).put
      (GS_CH_STAT_LOCK n) 0).feedbackFault n) := by
  rw [exec_lossHold, execLossHold, State.inStake_eq hs]
  simp only [hn, classHold_loss h, Bool.not_true, ne_eq, not_true_eq_false, decide_false, Bool.or_self,
    Bool.false_eq_true, if_false]

/-- Settles O33, command by command. -/
theorem gateLinkCommandsComplete : Obligations.GateLinkCommandsComplete := by
  unfold Obligations.GateLinkCommandsComplete
  intro s n hs hn
  refine ⟨fun u r hopen hu hne hr => ?_, fun u r hopen hu he hr => ?_,
    fun reg r hopen hdue hr => execSetsSend_due hs hn hopen hdue hr,
    fun hg => ⟨execGcmdRefresh_gated hs hg, fun reg => execSetsSend_gated hs hg⟩,
    fun chips w hw hok => execGfbStatusWord_good hs hn hw hok, fun chips w hw hbad => ?_, fun chips hw => ?_,
    fun hoff hgood => ?_, fun hon hbad => ?_, fun len => execLossHold_long hs hn⟩
  · rw [execGcmdRefresh_open hs hn hopen hu, State.refreshed_state hu hne, ← hr]
  · rw [execGcmdRefresh_open hs hn hopen hu, State.refreshed_sets hu he, ← hr]
  · rw [execGfbStatusWord_bad hs hn (by rw [hw]; exact hbad), hw]
  · rw [execGfbStatusWord_bad hs hn (by rw [hw]; rfl), hw]
    rfl
  · rw [execWordLockChange_used hs hn, if_pos (by simp [hoff, hgood])]
  · rw [execWordLockChange_used hs hn, if_neg (by simp [hon]), if_pos (by simp [hon, hbad])]

/-! ### Markers and strength -/

theorem execEdgeHold_kept {s : State} {n ns len : Nat} {b : Bool} (hs : s.isStake = true) (hc : classHold false len = some .edge)
    (hn : s.isUsed n = true) (hlo : 2 * (s.chan n).chgAt ≤ ns) (hhi : ns ≤ 2 * (s.chan n).chgAt + 2000)
    (hb : (s.chan n).chgOn = some b) (he : (s.chan n).edges = []) :
    exec (.edgeHold n ns len) s = .next (s.setChan n { s.chan n with edges := [ns] }) := by
  rw [exec_edgeHold, execEdgeHold, State.inStake_eq hs]
  simp only [hc, hn, Nat.not_lt.mpr hlo, Nat.not_lt.mpr hhi, hb, he, ne_eq, not_true_eq_false, decide_false, Bool.not_true,
    Bool.or_self, Bool.false_eq_true, if_false]

theorem execEdgeHold_pair {s u : State} {n ns len t0 : Nat} {rest : List Nat} {b : Bool} (hs : s.isStake = true)
    (hc : classHold false len = some .edge) (hn : s.isUsed n = true) (hlo : 2 * (s.chan n).chgAt ≤ ns)
    (hhi : ns ≤ 2 * (s.chan n).chgAt + 2000) (hb : (s.chan n).chgOn = some b) (he : (s.chan n).edges = t0 :: rest)
    (hu : u = (s.setChan n { s.chan n with edges := [], chgOn := none }).put
      (if b = true then GS_CH_MEAS_TON_M n else GS_CH_MEAS_TOFF_M n) (ns - t0)) :
    exec (.edgeHold n ns len) s = .next (if s.cfgOn (GS_CH_CTRL_ADAPT n) = true then u.adapt n (ns - t0) b else u) := by
  have hcfg : u.cfgOn (GS_CH_CTRL_ADAPT n) = s.cfgOn (GS_CH_CTRL_ADAPT n) := by rw [hu]; rfl
  rw [exec_edgeHold, execEdgeHold, State.inStake_eq hs]
  simp only [hc, hn, Nat.not_lt.mpr hlo, Nat.not_lt.mpr hhi, hb, he, ne_eq, not_true_eq_false, decide_false, Bool.not_true,
    Bool.or_self, Bool.false_eq_true, if_false, ← hu, hcfg]

/-- A hold that is no edge, one outside the window, and one that no command waits for change nothing (R155, R158). -/
theorem execEdgeHold_idle {s : State} {n ns len : Nat} (hs : s.isStake = true)
    (h : len < 12 ∨ ns < 2 * (s.chan n).chgAt ∨ 2 * (s.chan n).chgAt + 2000 < ns ∨ (s.chan n).chgOn = none) :
    exec (.edgeHold n ns len) s = .next s := by
  rw [exec_edgeHold, execEdgeHold, State.inStake_eq hs]
  obtain h | h | h | h := h
  · simp only [classHold_none h, ne_eq, reduceCtorEq, not_false_eq_true, if_true]
  · simp only [h, decide_true, Bool.or_true, Bool.true_or, if_true, ite_self]
  · simp only [h, decide_true, Bool.or_true, if_true, ite_self]
  · simp only [h, ite_self]

theorem execMarkerWindowExpiry_eq {s : State} (hs : s.isStake = true) (n : Nat) :
    exec (.markerWindowExpiry n) s = .next (if (s.chan n).chgOn.isSome then
      (s.setChan n { s.chan n with chgOn := none, edges := [] }).count (GS_CH_NOMARK n) else s) := by
  rw [exec_markerWindowExpiry, execMarkerWindowExpiry, State.inStake_eq hs]

theorem execStrengthLimitFault_eq {s : State} (hs : s.isStake = true) (n : Nat) :
    exec (.strengthLimitFault n) s = .next (if (s.chan n).wanted = 16 then
      (s.setChan n { s.chan n with wanted := 0 }).raise 113 else s) := by
  rw [exec_strengthLimitFault, execStrengthLimitFault, State.inStake_eq hs]

/-- Settles O34, command by command. -/
theorem gateMarkersAndStrengthComplete : Obligations.GateMarkersAndStrengthComplete := by
  unfold Obligations.GateMarkersAndStrengthComplete
  intro s n hs
  refine ⟨fun ns len b h12 h100 hn hlo hhi hb he => execEdgeHold_kept hs (classHold_edge h12 h100) hn hlo hhi hb he,
    fun ns len b t0 rest u h12 h100 hn hlo hhi hb he hu =>
      execEdgeHold_pair hs (classHold_edge h12 h100) hn hlo hhi hb he hu,
    fun ns len => execEdgeHold_idle hs, fun h => ?_, fun h => ?_, fun h => ?_, fun h => ?_⟩
  · rw [execMarkerWindowExpiry_eq hs, if_pos h]
  · rw [execMarkerWindowExpiry_eq hs, h]
    rfl
  · rw [execStrengthLimitFault_eq hs, if_pos h]
  · rw [execStrengthLimitFault_eq hs, if_neg (by omega)]

end Sys2Proof.Machine
end

section
/-! Protection, overvoltage, bypass, self-test and manual channels of a Stake (R163 to R185). -/

namespace Sys2Proof.Machine

open Sys2Proof

/-! ### Protection -/

theorem execDesatTrip_eq {s : State} {n : Nat} (hs : s.isStake = true) (hn : s.isUsed n = true) :
    exec (.desatTrip n) s = .next (
      if s.testing [1] n then s.testSees n 1 (s.now - 6 - s.cfg GS_PROT0_FILT) true
      else if s.on (GS_CH_STAT_ON n) && !(s.chan n).soft then s.trip n else s) := by
  rw [exec_desatTrip, execDesatTrip, State.inStake_eq hs]
  simp only [hn, Bool.true_and]

theorem execDesatGlitch_short {s : State} {n len : Nat} (hs : s.isStake = true) (hn : s.isUsed n = true)
    (ht : s.testing [1] n = false) (hon : s.on (GS_CH_STAT_ON n) = true) (h12 : 12 ≤ len)
    (hlen : len < 12 + 2 * s.cfg GS_PROT0_FILT) :
    exec (.desatGlitch n len) s = .next (s.count (GS_CH_GLITCH n)) := by
  rw [exec_desatGlitch, execDesatGlitch, State.inStake_eq hs]
  simp only [hn, ht, hon, classHold_desat h12, hlen, ne_eq, not_true_eq_false, decide_true, Bool.and_self,
    Bool.false_eq_true, if_false, if_true]

/-- A feedback fault of a READY channel (R170). -/
theorem State.feedbackFault_ready {s u : State} {n : Nat} (hp : s.get (GS_CH_STAT_PSTATE n) = 1) (hn : s.isUsed n = true)
    (hu : u = (if s.on (GS_CH_STAT_ON n) = true then s.sendNow n .softoff
      else if ((s.chan n).due.any fun e => decide (e.2 = .on)) = true then s.sendNow n .off else s)) :
    s.feedbackFault n = (((u.count (GS_CH_TRIP_CNT n)).tripState n).blockAtApply).raise (104 + n) := by
  subst hu
  unfold State.feedbackFault
  simp only [hp, hn, and_self, if_true]

theorem State.feedbackFault_other {s : State} {n : Nat} (hp : s.get (GS_CH_STAT_PSTATE n) ≠ 1) : s.feedbackFault n = s :=
  if_neg fun h => hp h.1

theorem execFeedbackFault_shown {s : State} {n : Nat} (hs : s.isStake = true) (hlock : s.on (GS_CH_STAT_LOCK n) = true)
    (h : (s.on (GS_CH_STAT_SUPG n) = false ∧ s.testing [3] n = false) ∨
      (s.on (GS_CH_STAT_GVG n) = false ∧ s.testing [2] n = false ∧ (s.chan n).chgAt + 1000 < s.now)) :
    exec (.feedbackFault n) s = .next (s.feedbackFault n) := by
  rw [exec_feedbackFault, execFeedbackFault, State.inStake_eq hs]
  obtain ⟨h1, h2⟩ | ⟨h1, h2, h3⟩ := h
  · simp only [hlock, h1, h2, Bool.not_false, Bool.and_self, Bool.true_or, if_true]
  · simp only [hlock, h1, h2, State.settled, h3, decide_true, Bool.not_false, Bool.and_self, Bool.or_true, if_true]

theorem execFeedbackFault_other {s : State} {n : Nat} (hs : s.isStake = true) (hp : s.get (GS_CH_STAT_PSTATE n) ≠ 1) :
    exec (.feedbackFault n) s = .next s := by
  rw [exec_feedbackFault, execFeedbackFault, State.inStake_eq hs]
  simp only [State.feedbackFault_other hp, ite_self]

theorem execTripWaitExpiry_eq {s : State} (hs : s.isStake = true) (n : Nat) :
    exec (.tripWaitExpiry n) s = .next (
      if s.get (GS_CH_STAT_PSTATE n) = 2 ∧ s.on (GS_CH_STAT_LOCK n) ∧ s.on (GS_CH_STAT_SUPG n) ∧
        ¬ s.on (GS_CH_STAT_DSAT n) then ((s.put (GS_CH_STAT_PSTATE n) 1).updPblk).refollow else s) := by
  rw [exec_tripWaitExpiry, execTripWaitExpiry, State.inStake_eq hs]

theorem execNotreadyTimeout_due {s : State} {n : Nat} (hs : s.isStake = true) (hn : s.isUsed n = true)
    (hp : s.get (GS_CH_STAT_PSTATE n) = 0) (hnew : (s.chan n).toldNotReady = false) :
    exec (.notreadyTimeout n) s = .next ((s.setChan n { s.chan n with toldNotReady := true }).raise (104 + n)) := by
  rw [exec_notreadyTimeout, execNotreadyTimeout, State.inStake_eq hs]
  simp only [hn, hp, hnew, decide_true, Bool.not_false, Bool.and_self, if_true]

theorem wrUnlatch_taken {s : State} {n : Nat} (hlock : s.on (GS_CH_STAT_LOCK n) = true)
    (hd : s.on (GS_CH_STAT_DSAT n) = false) :
    wrUnlatch n s = (stOk, if s.get (GS_CH_STAT_PSTATE n) = 3 then (s.put (GS_CH_STAT_TRIES_USED n) 0).enterNotReady n
      else s.put (GS_CH_STAT_TRIES_USED n) 0) := by
  simp only [wrUnlatch, hlock, hd, Bool.not_true, Bool.or_self, Bool.false_eq_true, if_false]

theorem wrUnlatch_refused {s : State} {n : Nat}
    (h : s.on (GS_CH_STAT_LOCK n) = false ∨ s.on (GS_CH_STAT_DSAT n) = true) : wrUnlatch n s = (stBusy, s) := by
  unfold wrUnlatch
  exact if_pos (by obtain h | h := h <;> simp [h])

/-- Settles O35, command by command. -/
theorem gateProtectionComplete : Obligations.GateProtectionComplete := by
  unfold Obligations.GateProtectionComplete
  intro s n hs hn
  refine ⟨fun ht => ?_, fun ht hon hsoft => ?_, fun len => execDesatGlitch_short hs hn,
    fun u hlock hshown hp hu => ?_, execFeedbackFault_other hs, fun hp hl hsup hd => ?_, fun h => ?_, fun hp => ?_,
    execNotreadyTimeout_due hs hn, fun hw hlock hd => ?_, fun hw h => ?_⟩
  · rw [execDesatTrip_eq hs hn, if_pos ht]
  · rw [execDesatTrip_eq hs hn, ht, hon, hsoft]
    rfl
  · rw [execFeedbackFault_shown hs hlock hshown, State.feedbackFault_ready hp hn hu]
  · rw [execTripWaitExpiry_eq hs, if_pos ⟨hp, hl, hsup, by simp [hd]⟩]
  · rw [execTripWaitExpiry_eq hs, if_neg]
    rintro ⟨-, hl, hsup, hd⟩
    obtain h | h | h := h
    · simp [h] at hl
    · simp [h] at hsup
    · exact hd h
  · rw [exec_cleanExpiry, execCleanExpiry, State.inStake_eq hs]
    simp only [hp, if_true]
  · rw [exec_unlatch, execUnlatch, State.byWrite_here hw hs, wrUnlatch_taken hlock hd]
  · rw [exec_unlatch, execUnlatch, State.byWrite_here hw hs, wrUnlatch_refused h]

/-! ### Overvoltage and bypass -/

theorem execOv2Block_due {s : State} (hs : s.isStake = true) (hrun : s.cfg GS_OV2_CNT ≤ s.gs.ov2Run)
    (hnew : s.on GS_STAT_OV2_BLK = false) (ht : s.on GS_STAT_TEST_BUSY = false ∨ s.gs.testSel ≠ 5) :
    exec .ov2Block s = .next ((s.put GS_STAT_OV2_BLK 1).forceOff.raise 110) := by
  have hno : ¬ (s.on GS_STAT_TEST_BUSY = true ∧ s.gs.testSel = 5) := by
    obtain h | h := ht <;> simp [h]
  rw [exec_ov2Block, execOv2Block, State.inStake_eq hs]
  simp only [hrun, hnew, hno, Bool.false_eq_true, not_false_eq_true, and_self, if_true]

theorem wrOv2Clr_taken {s : State} (h : s.gs.vcode ≤ s.cfg GS_OV1_OFF_LEVEL) :
    wrOv2Clr s = (stOk,
      (({ s with gs := { s.gs with ov2Run := 0 } } : State).put GS_STAT_OV2_BLK 0).updPblk.refollow) := if_pos h

theorem wrOv2Clr_refused {s : State} (h : s.cfg GS_OV1_OFF_LEVEL < s.gs.vcode) : wrOv2Clr s = (stBusy, s) :=
  if_neg (by omega)

/-- A first trigger of the bypass (R179). -/
theorem State.bypass_first {s u : State} (cause : Nat) (hf : s.on GS_STAT_FIRED = false) (hm : s.gs.mark = false)
    (hb : s.gs.byp = .idle) (hu : u = s.forceOff.setDchg true) :
    s.bypass cause = (({ u with gs := { u.gs with
      byp := .triggered, bypAt := u.now, bypCause := cause, bypf := true, mark := true, pornSinceFire := false } } :
        State).put GS_STAT_FIRED 1).raiseWith 111 (cause + u.gs.vcode * 2 ^ 32) := by
  subst hu
  unfold State.bypass
  simp only [hf, hm, hb, reduceCtorEq, decide_false, Bool.false_and, ne_eq, not_true_eq_false, Bool.or_self,
    Bool.false_eq_true, if_false]

/-- A trigger of a higher cause in the same cycle gives way (R185). -/
theorem State.bypass_lower {s : State} {cause : Nat} (hb : s.gs.byp = .triggered) (hat : s.gs.bypAt = s.now)
    (hc : cause < s.gs.bypCause) : s.bypass cause = s.lowerCause cause := by
  unfold State.bypass
  simp only [hb, hat, hc, decide_true, Bool.and_self, if_true]

theorem State.bypass_done {s : State} (cause : Nat) (h : s.gs.byp = .driven ∨ s.gs.byp = .released) :
    s.bypass cause = s := by
  unfold State.bypass
  obtain h | h := h <;>
    simp only [h, reduceCtorEq, decide_false, Bool.false_and, ne_eq, not_false_eq_true, decide_true, Bool.or_true,
      Bool.false_eq_true, if_false, if_true]

theorem execOv3Trigger_eq {s : State} (hs : s.isStake = true) :
    exec .ov3Trigger s = .next (if s.on GS_STAT_TEST_BUSY && s.gs.testSel = 6 then s else s.bypass 1) := by
  rw [exec_ov3Trigger, execOv3Trigger, State.inStake_eq hs]

theorem execOv3Trigger_untested {s : State} (hs : s.isStake = true)
    (ht : s.on GS_STAT_TEST_BUSY = false ∨ s.gs.testSel ≠ 6) : exec .ov3Trigger s = .next (s.bypass 1) := by
  rw [execOv3Trigger_eq hs, if_neg (by obtain h | h := ht <;> simp [h])]

theorem State.byPins_eq (s : State) (b : Bool) : s.byPins b = s.emits [.pin "BYPF_A" 0 b, .pin "BYPF_B" 0 b] :=
  s.emit_emit _ _

theorem execBypassFireDrive_triggered {s : State} (hs : s.isStake = true) (hb : s.gs.byp = .triggered) :
    exec .bypassFireDrive s = .next (({ s.advance (s.gs.bypAt + s.cfg GS_BYP_DLY) with
      gs := { s.gs with byp := .driven } } : State).emits [.pin "BYPF_A" 0 true, .pin "BYPF_B" 0 true]) := by
  rw [exec_bypassFireDrive, execBypassFireDrive, State.inStake_eq hs]
  simp only [hb, if_true, State.byPins_eq]

theorem execBypassFireRelease_driven {s : State} (hs : s.isStake = true) (hb : s.gs.byp = .driven) :
    exec .bypassFireRelease s = .next (({ s.advance (s.gs.bypAt + s.cfg GS_BYP_DLY + 500 * s.cfg GS_BYP_PW) with
      gs := { s.gs with byp := .released } } : State).emits [.pin "BYPF_A" 0 false, .pin "BYPF_B" 0 false]) := by
  rw [exec_bypassFireRelease, execBypassFireRelease, State.inStake_eq hs]
  simp only [hb, if_true, State.byPins_eq]

theorem execBypassReadbackFail_driven {s : State} (hs : s.isStake = true) (hb : s.gs.byp = .driven) (path : Nat) :
    exec (.bypassReadbackFail path) s = .next (s.event 2 (path % 2)) := by
  rw [exec_bypassReadbackFail, execBypassReadbackFail, State.inStake_eq hs]
  simp only [hb, if_true]

theorem wrBypArm_eq (s : State) (c : Nat) :
    wrBypArm c s = (stOk, { s.advance c with gs := { s.gs with armed := true, armAt := max s.now c } }) := by
  simp only [wrBypArm, State.advance_gs, State.advance_now]

theorem wrBypFire_eq {s u : State} {c : Nat} (hu : u = ({ s.advance c with gs := { s.gs with armed := false } } : State)) :
    wrBypFire c s = (stOk, if s.gs.armed = true ∧ max s.now c ≤ s.gs.armAt + 500000 then u.bypass 2 else u) := by
  subst hu
  simp only [wrBypFire, State.advance_gs, State.advance_now]

theorem wrBypClear_unmarked {s : State} (hov : s.on SYS_LOCK_OV = false) (hm : s.gs.mark = false) :
    wrBypClear s = (stOk, { s with gs := { s.gs with armed := false } }) := by
  simp only [wrBypClear, hov, hm, Bool.false_and, Bool.or_self, Bool.not_false, Bool.false_eq_true, if_false, if_true]

theorem wrBypClear_marked {s u : State} (hov : s.on SYS_LOCK_OV = false) (hm : s.gs.mark = true)
    (hp : s.gs.pornSinceFire = true)
    (hu : u = (({ s with gs := { s.gs with
      armed := false, mark := false, bypf := false, byp := .idle, needEntry := true } } : State).put GS_STAT_FIRED 0)) :
    wrBypClear s = (stOk, (if s.gs.vcode ≤ s.cfg GS_OV1_OFF_LEVEL then u.setDchg false else u).refollow) := by
  subst hu
  simp only [wrBypClear, hov, hm, hp, Bool.not_true, Bool.and_false, Bool.or_self, Bool.false_eq_true, if_false]
  rfl

theorem wrBypClear_locked {s : State} (h : s.on SYS_LOCK_OV = true ∨ (s.gs.mark = true ∧ s.gs.pornSinceFire = false)) :
    wrBypClear s = (stLocked, { s with gs := { s.gs with armed := false } }) := by
  unfold wrBypClear
  exact if_pos (by obtain h | ⟨hm, hp⟩ := h <;> simp [*])

/-- Settles O36, command by command. -/
theorem overvoltageAndBypassComplete : Obligations.OvervoltageAndBypassComplete := by
  unfold Obligations.OvervoltageAndBypassComplete
  intro s hs
  refine ⟨execOv2Block_due hs, fun hw h => ?_, fun hw h => ?_, fun u ht hf hm hb hu => ?_, fun ht hb hat hc => ?_,
    fun h => ?_, execBypassFireDrive_triggered hs, fun path hb => execBypassReadbackFail_driven hs hb path,
    execBypassFireRelease_driven hs, fun c hw => ?_, fun c u v hw hu hv ha hin hf hm hb => ?_, fun c hw h => ?_,
    fun hw hov hm => ?_, fun u hw hov hm hp hu => ?_, fun hw h => ?_, ?_⟩
  · rw [exec_ov2Clr, execOv2Clr, State.byWrite_here hw hs, wrOv2Clr_taken h]
  · rw [exec_ov2Clr, execOv2Clr, State.byWrite_here hw hs, wrOv2Clr_refused h]
  · rw [execOv3Trigger_untested hs ht, State.bypass_first 1 hf hm hb hu]
  · rw [execOv3Trigger_untested hs ht, State.bypass_lower hb hat hc]
  · rw [execOv3Trigger_eq hs]
    obtain ⟨h1, h2⟩ | h := h
    · rw [if_pos (by simp [h1, h2])]
    · rw [State.bypass_done 1 h, ite_self]
  · rw [exec_bypassCmdArm, execBypassCmdArm, State.byWrite_here hw hs, wrBypArm_eq]
  · have hfu : u.on GS_STAT_FIRED = false := by rw [hu]; exact (State.advance_on' s c _).trans hf
    have hmu : u.gs.mark = false := by rw [hu]; exact hm
    have hbu : u.gs.byp = .idle := by rw [hu]; exact hb
    rw [exec_bypassCmdFire, execBypassCmdFire, State.byWrite_here hw hs, wrBypFire_eq hu, if_pos ⟨ha, hin⟩,
      State.bypass_first 2 hfu hmu hbu hv]
  · rw [exec_bypassCmdFire, execBypassCmdFire, State.byWrite_here hw hs, wrBypFire_eq rfl, if_neg]
    rintro ⟨ha, hin⟩
    obtain h | h := h
    · simp [h] at ha
    · omega
  · rw [exec_bypassMarkClear, execBypassMarkClear, State.byWrite_here hw hs, wrBypClear_unmarked hov hm]
  · rw [exec_bypassMarkClear, execBypassMarkClear, State.byWrite_here hw hs, wrBypClear_marked hov hm hp hu]
  · rw [exec_bypassMarkClear, execBypassMarkClear, State.byWrite_here hw hs, wrBypClear_locked h]
  · rw [exec_bypassArmTimeout, execBypassArmTimeout, State.inStake_eq hs]

/-! ### Self-tests -/

theorem wrTest_illegal {s : State} {sel ch : Nat} (h : sel = 0 ∨ 7 ≤ sel ∨ 4 ≤ ch) : wrTest sel ch s = (stBadParam, s) :=
  if_pos h

/-- A self-test that starts (R183): what is written before its own action. -/
def State.testBegun (s : State) (sel ch : Nat) : State :=
  (((({ s with gs := { s.gs with testSel := sel, testCh := ch, testPhase := .forced, testAt := s.now } } : State).put
    GS_STAT_TEST_BUSY 1).put GS_TEST_STAT_BUSY 1).put GS_TEST_STAT_LAST_SEL sel)

theorem wrTest_channel {s u : State} {sel ch : Nat} (h1 : 1 ≤ sel) (h3 : sel ≤ 3) (hch : ch < 4) (hoff : s.cell = .off)
    (hn : s.isUsed ch = true) (hp : s.get (GS_CH_STAT_PSTATE ch) = 1) (hb : s.on GS_STAT_TEST_BUSY = false)
    (hu : u = (s.testBegun sel ch).sendTest ch sel) :
    wrTest sel ch s = (stOk, { u with gs := { u.gs with testAt := (u.chan ch).busy } }) := by
  have hleg : ¬ (sel = 0 ∨ 7 ≤ sel ∨ 4 ≤ ch) := by omega
  subst hu
  unfold wrTest
  simp only [hleg, hoff, hn, hp, hb, h3, Bool.false_eq_true, not_true_eq_false, not_false_eq_true, and_self, or_true,
    if_false, if_true, State.testBegun]

theorem wrTest_comparator {s u : State} {sel ch : Nat} (h4 : 4 ≤ sel) (h6 : sel ≤ 6) (hch : ch < 4) (hoff : s.cell = .off)
    (hb : s.on GS_STAT_TEST_BUSY = false) (hu : u = s.testBegun sel ch) :
    wrTest sel ch s = (stOk, if sel = 4 ∧ u.on GS_STAT_FIRED = false then u.setDchg false else u) := by
  have hleg : ¬ (sel = 0 ∨ 7 ≤ sel ∨ 4 ≤ ch) := by omega
  have h3 : ¬ sel ≤ 3 := by omega
  subst hu
  unfold wrTest
  simp only [hleg, hoff, hb, h3, Bool.false_eq_true, not_false_eq_true, and_self, true_or, if_false, if_true,
    State.testBegun, Bool.not_eq_true]
  rfl

theorem wrTest_refused {s : State} {sel ch : Nat} (h1 : 1 ≤ sel) (h6 : sel ≤ 6) (hch : ch < 4)
    (h : s.cell ≠ .off ∨ s.on GS_STAT_TEST_BUSY = true ∨
      (sel ≤ 3 ∧ (s.isUsed ch = false ∨ s.get (GS_CH_STAT_PSTATE ch) ≠ 1))) :
    wrTest sel ch s = (stBusy, s.put GS_TEST_STAT_REFUSED 1) := by
  have hleg : ¬ (sel = 0 ∨ 7 ≤ sel ∨ 4 ≤ ch) := by omega
  have hno : ¬ (s.cell = .off ∧ (¬ sel ≤ 3 ∨ (s.isUsed ch = true ∧ s.get (GS_CH_STAT_PSTATE ch) = 1)) ∧
      ¬ s.on GS_STAT_TEST_BUSY = true) := by
    rintro ⟨hoff, hready, hidle⟩
    obtain h | h | ⟨h3, h | h⟩ := h
    · exact h hoff
    · exact hidle h
    · simp [h3, h] at hready
    · simp [h3, h] at hready
  unfold wrTest
  rw [if_neg hleg, if_neg hno]

theorem execSelfTestEnd_eq {s : State} (hs : s.isStake = true) (b : Bool) :
    exec (.selfTestEnd b) s = .next (if s.on GS_STAT_TEST_BUSY then (s.endTest b).answerTest else s) := by
  rw [exec_selfTestEnd, execSelfTestEnd, State.inStake_eq hs]

/-! ### Manual channels -/

theorem wrManual_locked {s : State} {n : Nat} {man : Bool} (b : Bool) (hne : s.on (GS_CH_CTRL_MAN n) ≠ man)
    (h : s.on LVL_SIDX_ADOPTED = true ∨ s.on SYS_LOCK_GATE = true) : wrManual n man b s = (stLocked, s) :=
  if_pos ⟨hne, h⟩

theorem wrManual_taken {s u : State} {n : Nat} {man b : Bool}
    (h : s.on (GS_CH_CTRL_MAN n) = man ∨ (s.on LVL_SIDX_ADOPTED = false ∧ s.on SYS_LOCK_GATE = false))
    (hu : u = (s.putB (GS_CH_CTRL_MAN n) man).putB (GS_CH_CTRL_MAN_ON n) b) :
    wrManual n man b s = (stOk, if s.on (GS_CH_CTRL_MAN n) = true ∧ man = false then u.followCell n else u.manualLeg n) := by
  have hno : ¬ (s.on (GS_CH_CTRL_MAN n) ≠ man ∧ (s.on LVL_SIDX_ADOPTED = true ∨ s.on SYS_LOCK_GATE = true)) := by
    rintro ⟨hne, hl⟩
    obtain h | ⟨ha, hg⟩ := h
    · exact hne h
    · simp [ha, hg] at hl
  subst hu
  unfold wrManual
  rw [if_neg hno]
  simp only [Bool.not_eq_true]

/-- A manual pulse on a used manual channel (R184). -/
theorem wrPulse_manual {s : State} {n : Nat} (width : Nat) (hm : s.on (GS_CH_CTRL_MAN n) = true) (hn : s.isUsed n = true) :
    wrPulse n width s = (if width < s.minp then (stOk, s.count (GS_CH_SUPP_ON n))
      else if s.offCause || s.on GS_STAT_TEST_BUSY || s.get (GS_CH_STAT_PSTATE n) ≠ 1 || s.onAt n (s.symEnd n .on) then
        (stOk, s)
      else (stOk, if (s.turnOn n (s.symEnd n .on)).onAt n (s.symEnd n .on) then
          (s.turnOn n (s.symEnd n .on)).schedule n (s.symEnd n .on + width) .off else s.turnOn n (s.symEnd n .on))) := by
  unfold wrPulse
  simp only [hm, hn, Bool.not_true, Bool.or_self, Bool.false_eq_true, if_false]

theorem wrPulse_other {s : State} {n : Nat} (width : Nat) (h : s.on (GS_CH_CTRL_MAN n) = false ∨ s.isUsed n = false) :
    wrPulse n width s = (stOk, s) :=
  if_pos (by obtain h | h := h <;> simp [h])

/-! ### Effective instants -/

theorem execEffectiveInstant_due {s u : State} {n c : Nat} {y : Sym} {rest : List (Nat × Sym)} (hs : s.isStake = true)
    (hdue : (s.chan n).due = (c, y) :: rest)
    (hu : u = (s.advance c).setChan n { s.chan n with due := rest, busy := max (s.chan n).busy c }) :
    exec (.effectiveInstant n) s = .next (
      if !u.isUsed n || (y = .on && u.get (GS_CH_STAT_PSTATE n) ≠ 1) then u
      else if y = .on ∧ u.onAt (partner n) c then u.refuseLeg n
      else u.commanded n c y) := by
  subst hu
  rw [exec_effectiveInstant, execEffectiveInstant, State.inStake_eq hs]
  simp only [hdue, State.advance_chan']

theorem execEffectiveInstant_none {s : State} {n : Nat} (hs : s.isStake = true) (hdue : (s.chan n).due = []) :
    exec (.effectiveInstant n) s = .next s := by
  rw [exec_effectiveInstant, execEffectiveInstant, State.inStake_eq hs]
  simp only [hdue]

/-- Settles O37, command by command. -/
theorem selfTestAndManualComplete : Obligations.SelfTestAndManualComplete := by
  unfold Obligations.SelfTestAndManualComplete
  intro s hs
  refine ⟨fun sel ch hw h => ?_, fun sel ch u hw h1 h3 hch hoff hn hp hb hu => ?_,
    fun sel ch u hw h4 h6 hch hoff hb hu => ?_, fun sel ch hw h1 h6 hch h => ?_, fun b hb => ?_, fun b hb => ?_,
    fun n man b hw hn hne h => ?_, fun n man b u hw hn h hu => ?_, fun n width hw h => ?_,
    fun n width hw hn hm hlt => ?_, fun n width hw hn hm hle h => ?_,
    fun n width e u hw hn hm hle hoff hb hp he hon hu => ?_, fun n => execEffectiveInstant_none hs,
    fun n c y rest u hdue hu => ?_⟩
  · rw [exec_selfTestStart, execSelfTestStart, State.byWrite_here hw hs, wrTest_illegal h]
  · rw [exec_selfTestStart, execSelfTestStart, State.byWrite_here hw hs, wrTest_channel h1 h3 hch hoff hn hp hb hu]
  · rw [exec_selfTestStart, execSelfTestStart, State.byWrite_here hw hs, wrTest_comparator h4 h6 hch hoff hb hu]
  · rw [exec_selfTestStart, execSelfTestStart, State.byWrite_here hw hs, wrTest_refused h1 h6 hch h]
  · rw [execSelfTestEnd_eq hs, if_pos hb]
  · rw [execSelfTestEnd_eq hs, hb]
    rfl
  · rw [exec_manualModeWrite, execManualModeWrite, State.byWrite_here hw hs, wrManual_locked b hne h]
  · rw [exec_manualModeWrite, execManualModeWrite, State.byWrite_here hw hs, wrManual_taken h hu]
  · rw [exec_manualPulse, execManualPulse, State.byWrite_here hw hs, wrPulse_other width h]
  · rw [exec_manualPulse, execManualPulse, State.byWrite_here hw hs, wrPulse_manual width hm hn, if_pos hlt]
  · rw [exec_manualPulse, execManualPulse, State.byWrite_here hw hs, wrPulse_manual width hm hn, if_neg (by omega), if_pos]
    obtain h | h | h | h := h <;> simp [h]
  · rw [exec_manualPulse, execManualPulse, State.byWrite_here hw hs, wrPulse_manual width hm hn, if_neg (by omega), ← he,
      ← hu, if_neg (by simp [hoff, hb, hp, hon])]
  · rw [execEffectiveInstant_due hs hdue hu]
    refine ⟨fun h => ?_, fun hn hy hp hon => ?_, fun hn h => ?_⟩
    · rw [if_pos]
      obtain h | ⟨h, hp⟩ := h
      · simp [h]
      · simp [h, hp]
    · rw [if_neg (by simp [hn, hp]), if_pos ⟨hy, hon⟩]
    · by_cases hy : y = .on
      · obtain ⟨hp, hon⟩ := h hy
        rw [if_neg (by simp [hn, hp]), if_neg (by simp [hon])]
      · rw [if_neg (by simp [hn, hy]), if_neg (by simp [hy])]

end Sys2Proof.Machine
end

section
/-! The safe block: inputs and resets of a Datum, the cross-link and the lock of the configuration (R270 to R285). -/

namespace Sys2Proof.Machine

open Sys2Proof

/-! ### SBLK inputs -/

/-- The state with the new SBLK levels in the named channels (R272). -/
def State.sblkSet (u : State) (x y a b : Bool) : State :=
  ({ u with sf := { u.sf with
    x := if x = true then u.sf.x.sblk a b u.now else u.sf.x,
    y := if y = true then u.sf.y.sblk a b u.now else u.sf.y } } : State).mirrorInputs

theorem execSblkChange_eq {s u v : State} (hd : s.isDatum = true) (x y a b : Bool) {c : Nat} (hu : u = s.advance c)
    (hv : v = u.sblkSet x y a b) :
    exec (.sblkChange x y a b c) s = .next (if (a || b) && (x || y) then
      (if s.sf.x.sblkA || s.sf.x.sblkB || s.sf.y.sblkA || s.sf.y.sblkB then v.blockDatum x y SF_CAUSE_INPUT
       else (v.blockDatum x y SF_CAUSE_INPUT).raise 178)
      else v) := by
  subst hv hu
  rw [exec_sblkChange, execSblkChange, State.inDatum_eq hd]
  simp only [State.sblkSet, State.advance_sf]

theorem State.mirrorInputs_rest (s : State) : s.mirrorInputs.role = s.role ∧
    s.mirrorInputs.sf = s.sf ∧ s.mirrorInputs.mem = s.mem ∧ s.mirrorInputs.out = s.out := by
  simp only [State.mirrorInputs, State.putB, State.put_role, State.put_sf, State.put_mem, State.put_out, and_self]

theorem State.sblkSet_role (u : State) (x y a b : Bool) : (u.sblkSet x y a b).role = u.role :=
  (State.mirrorInputs_rest _).1

/-- A request in both channels blocks both (R272). -/
theorem State.sblk_blocks (v : State) :
    (v.blockDatum true true SF_CAUSE_INPUT).sf.x.permit = false ∧ (v.blockDatum true true SF_CAUSE_INPUT).sf.y.permit = false := by
  obtain ⟨hx, hy⟩ := v.blockDatum_permit true true SF_CAUSE_INPUT
  exact ⟨by rw [hx, Bool.not_true, Bool.and_false], by rw [hy, Bool.not_true, Bool.and_false]⟩

/-- A fault of a Datum ends no block. -/
theorem State.raise_blocked {v : State} (hd : v.role = .datum) (src : Nat) (hx : v.sf.x.permit = false)
    (hy : v.sf.y.permit = false) : (v.raise src).sf.x.permit = false ∧ (v.raise src).sf.y.permit = false := by
  obtain ⟨kx, ky⟩ := (State.raise_keeps (Keeps.rfl' false v) src).blocked hd
  exact ⟨Bool.eq_false_iff.mpr fun h => by simp [kx h] at hx, Bool.eq_false_iff.mpr fun h => by simp [ky h] at hy⟩

theorem execSblkChange_both {s : State} (hd : s.isDatum = true) {a b : Bool} (hab : (a || b) = true) (c : Nat) :
    ∃ t, exec (.sblkChange true true a b c) s = .next t ∧ t.sf.x.permit = false ∧ t.sf.y.permit = false ∧
      s.now ≤ t.now ∧ t.mem = s.mem := by
  obtain ⟨t, ht, hk⟩ := execSblkChange_answers (Keeps.rfl' true s) true true a b c
  refine ⟨t, ht, ?_⟩
  have hexec := execSblkChange_eq hd true true a b (c := c) rfl rfl
  rw [exec_sblkChange, ht, hab, Bool.true_or, Bool.true_and, if_pos rfl] at hexec
  generalize hv : (s.advance c).sblkSet true true a b = v at hexec
  have hrole : v.role = .datum := by
    rw [← hv, State.sblkSet_role, State.advance_role, State.isDatum_role hd]
  have hrole' : (v.blockDatum true true SF_CAUSE_INPUT).role = .datum :=
    (congrArg State.role (v.blockDatum_besideFaults true true SF_CAUSE_INPUT) :).trans hrole
  obtain ⟨hx, hy⟩ := v.sblk_blocks
  have hperm : t.sf.x.permit = false ∧ t.sf.y.permit = false := by
    rw [Host.Outcome.next.inj hexec]
    split
    · exact ⟨hx, hy⟩
    · exact State.raise_blocked hrole' 178 hx hy
  exact ⟨hperm.1, hperm.2, hk.clock, hk.memory rfl⟩

/-! ### Proof-open and discrepancy -/

theorem execProofOpen_due {s : State} (hd : s.isDatum = true) {y : Bool} {k : Nat} (hk : (s.safeCh y).openAt = some k)
    (hj : (s.safeCh y).jointDone = true) :
    exec (.proofOpen y) s = .next ((s.advance (k + 5000000)).setSafeCh y { s.safeCh y with proof := true }).mirrorInputs := by
  rw [exec_proofOpen, execProofOpen, State.inDatum_eq hd]
  simp only [hk, hj, if_true]
  rfl

theorem execProofOpen_idle {s : State} (hd : s.isDatum = true) {y : Bool}
    (h : (s.safeCh y).openAt = none ∨ (s.safeCh y).jointDone = false) : exec (.proofOpen y) s = .next s := by
  rw [exec_proofOpen, execProofOpen, State.inDatum_eq hd]
  obtain h | h := h
  · simp only [h]
  · simp only [h, Bool.false_eq_true, if_false]
    split <;> rfl

@[simp] theorem State.advance_safeCh (s : State) (t : Nat) (y : Bool) : (s.advance t).safeCh y = s.safeCh y := by
  simp only [State.safeCh, State.advance_sf]

theorem execDiscrepancyTimeout_due {s u : State} (hd : s.isDatum = true) {srst y : Bool} {k : Nat}
    (hk : (if srst = true then (s.safeCh y).discSrstAt else (s.safeCh y).discSblkAt) = some k)
    (hnew : (if srst = true then (s.safeCh y).discSrst else (s.safeCh y).discSblk) = false)
    (hu : u = (((s.advance (k + (s.safeCh y).disc + 1)).setSafeCh y ((s.safeCh y).discrepant srst)).mirrorInputs).put SF_CAUSE_DISC 1) :
    exec (.discrepancyTimeout srst y) s =
      .next (if (if srst = true then (s.safeCh !y).discSrst else (s.safeCh !y).discSblk) = true then u
        else (u.count SF_DISC_CNT).raise 179) := by
  subst hu
  rw [exec_discrepancyTimeout, execDiscrepancyTimeout, State.inDatum_eq hd]
  simp only [hk, hnew, Bool.false_eq_true, if_false, State.advance_safeCh]

theorem execDiscrepancyTimeout_idle {s : State} (hd : s.isDatum = true) {srst y : Bool}
    (h : (if srst = true then (s.safeCh y).discSrstAt else (s.safeCh y).discSblkAt) = none ∨
      (if srst = true then (s.safeCh y).discSrst else (s.safeCh y).discSblk) = true) :
    exec (.discrepancyTimeout srst y) s = .next s := by
  rw [exec_discrepancyTimeout, execDiscrepancyTimeout, State.inDatum_eq hd]
  obtain h | h := h
  · simp only [h]
  · simp only [h, if_true]
    split <;> rfl

/-! ### SRST inputs -/

theorem execSrstChange_eq {s u v : State} (hd : s.isDatum = true) {x : Bool} (y : Bool) {a b : Bool} {c : Nat}
    (hu : u = s.advance c) (hv : v = (if x = true then u.srstIn false a b else u)) :
    exec (.srstChange x y a b c) s = .next (if y = true then v.srstIn true a b else v).mirrorInputs := by
  subst hv hu
  rw [exec_srstChange, execSrstChange, State.inDatum_eq hd]

/-- A press of both inputs of channel X from released is measured from its instant (R276). -/
theorem Chan.srst_press {c : Chan} (ha : c.srstA = false) (hb : c.srstB = false) (t : Nat) :
    (c.srst true true t).pressA = some t ∧ (c.srst true true t).pressB = some t ∧
      (c.srst true true t).pressOk = !c.stuck ∧ (c.srst true true t).reqSince = false := by
  simp only [Chan.srst, ha, hb, Bool.not_false, Bool.and_self, Bool.or_self, if_true, and_self]

theorem State.srstIn_press {s : State} (h : s.sf.x.srstA = false) (h' : s.sf.x.srstB = false) :
    s.srstIn false true true = { s with sf := { s.sf with x := s.sf.x.srst true true s.now } } := by
  simp only [State.srstIn, State.safeCh, State.setSafeCh, h, h', Bool.or_self, Bool.false_and, Bool.false_eq_true, if_false]

theorem execSrstChange_press {s : State} (hd : s.isDatum = true) (h : s.sf.x.srstA = false) (h' : s.sf.x.srstB = false)
    (c : Nat) :
    ∃ t, exec (.srstChange true false true true c) s = .next t ∧ t.sf.x.pressA = some (max s.now c) ∧
      t.sf.x.pressB = some (max s.now c) ∧ t.sf.x.pressOk = (!s.sf.x.stuck) ∧ t.sf.x.reqSince = false ∧
      t.sf.y = s.sf.y ∧ t.mem = s.mem ∧ t.out = s.out := by
  generalize hu : s.advance c = u
  have hsf : u.sf = s.sf := by rw [← hu, State.advance_sf]
  have hnow : u.now = max s.now c := by rw [← hu, State.advance_now]
  have hmem : u.mem = s.mem := by rw [← hu, State.advance_mem]
  have hout : u.out = s.out := by rw [← hu, State.advance_out]
  rw [← hsf] at h h'
  obtain ⟨hpa, hpb, hok, hreq⟩ := Chan.srst_press h h' u.now
  obtain ⟨-, hsf', hmem', hout'⟩ :=
    ({ u with sf := { u.sf with x := u.sf.x.srst true true u.now } } : State).mirrorInputs_rest
  refine ⟨_, execSrstChange_eq hd false hu.symm rfl, ?_⟩
  rw [if_pos rfl, if_neg Bool.false_ne_true, State.srstIn_press h h', hsf', hmem', hout', ← hnow, ← hsf]
  exact ⟨hpa, hpb, hok, hreq, rfl, hmem, hout⟩

/-! ### The reset of the safe block -/

theorem execResetComplete_due {s u v w : State} {rx ry : Option Nat} (hd : s.isDatum = true)
    (hdue : (s.sf.x.resetDue || s.sf.y.resetDue) = true) (hu : u = s.advance (max s.sf.x.resetAt s.sf.y.resetAt))
    (hx : rx = u.resetResult false) (hy : ry = u.resetResult true)
    (hv : v = (({ u with sf := { u.sf with x := u.sf.x.resetTaken rx, y := u.sf.y.resetTaken ry } } : State).mirrorSafe).rstInfo
      ((rx.or ry).getD 0) (if rx.isSome = true then s.sf.x.pressMs else s.sf.y.pressMs))
    (hw : w = (if rx = some 1 ∨ ry = some 1 then ((v.count SF_RESETS).put FC_STAT_BLOCK_ACT 0).put FC_FIRST_VALID 0 else v)) :
    exec .resetComplete s = .next (if rx = some 2 ∨ ry = some 2 then (w.count SF_RST_REF).raise 181 else w) := by
  have hsf : u.sf = s.sf := by rw [hu, State.advance_sf]
  rw [← hsf] at hv
  rw [exec_resetComplete, execResetComplete, State.inDatum_eq hd]
  simp only [hdue, if_true, ← hu]
  subst hw hv hx hy
  rfl

theorem execResetComplete_none {s : State} (hd : s.isDatum = true) (h : (s.sf.x.resetDue || s.sf.y.resetDue) = false) :
    exec .resetComplete s = .next s := by
  rw [exec_resetComplete, execResetComplete, State.inDatum_eq hd]
  simp only [h, Bool.false_eq_true, if_false]

theorem State.resetResult_eq (s : State) (y : Bool) :
    s.resetResult y = (if (s.safeCh y).resetDue = false then none else if (s.safeCh y).permit = true then some 6
      else if s.resetOk (s.safeCh y) = true ∧ s.blockWins y = false then some 1 else some 2) := by
  simp only [State.resetResult, Bool.not_eq_true', Bool.and_eq_true]

/-- The conditions of a reset, listed (R278). -/
theorem State.resetOk_iff (s : State) (c : Chan) :
    s.resetOk c = true ↔ s.class34Now = false ∧ s.on SF_STAT_CFG_LOCKED = true ∧ s.on SF_STAT_CFG_MATCH = true ∧
      s.on SF_STAT_XLINK_OK = true ∧ s.sf.diff = false ∧ s.sf.x.permit = s.sf.y.permit ∧ c.proof = true ∧
      c.discSblk = false ∧ c.discSrst = false ∧ c.stuck = false ∧ c.sblkA = false ∧ c.sblkB = false ∧
      c.reqSince = false := by
  simp only [State.resetOk, State.resetShared, Bool.and_eq_true, Bool.not_eq_true', beq_iff_eq, and_assoc]

theorem execResetStuck_due {s u : State} (hd : s.isDatum = true) {y : Bool} {k : Nat} (hk : (s.safeCh y).pressedAt = some k)
    (hnew : (s.safeCh y).stuck = false)
    (hu : u = ((s.advance (k + 2500000001)).setSafeCh y { s.safeCh y with stuck := true, pressOk := false }).mirrorInputs) :
    exec (.resetStuck y) s = .next (if (s.safeCh !y).stuck = true then u else (u.rstInfo 4 5000).raise 180) := by
  have hms : 5000 * msCycles = 2500000000 := rfl
  subst hu
  rw [exec_resetStuck, execResetStuck, State.inDatum_eq hd]
  simp only [hk, hnew, Bool.false_eq_true, if_false, State.advance_safeCh, hms, Nat.add_assoc, Nat.reduceAdd]

theorem execResetStuck_idle {s : State} (hd : s.isDatum = true) {y : Bool}
    (h : (s.safeCh y).pressedAt = none ∨ (s.safeCh y).stuck = true) : exec (.resetStuck y) s = .next s := by
  rw [exec_resetStuck, execResetStuck, State.inDatum_eq hd]
  obtain h | h := h
  · simp only [h]
  · simp only [h, if_true]
    split <;> rfl

theorem execResetStuckClear_due {s : State} (hd : s.isDatum = true) {y : Bool} (ha : (s.safeCh y).srstA = false)
    (hb : (s.safeCh y).srstB = false) (hst : (s.safeCh y).stuck = true) :
    exec (.resetStuckClear y) s = .next ((s.advance (max ((s.safeCh y).relA.getD 0) ((s.safeCh y).relB.getD 0) +
      25000000)).setSafeCh y { s.safeCh y with stuck := false }).mirrorInputs := by
  have hms : 50 * msCycles = 25000000 := rfl
  rw [exec_resetStuckClear, execResetStuckClear, State.inDatum_eq hd]
  simp only [ha, hb, hst, Bool.not_true, Bool.or_self, Bool.false_eq_true, if_false, hms]

theorem execResetStuckClear_idle {s : State} (hd : s.isDatum = true) {y : Bool}
    (h : (s.safeCh y).srstA = true ∨ (s.safeCh y).srstB = true ∨ (s.safeCh y).stuck = false) :
    exec (.resetStuckClear y) s = .next s := by
  rw [exec_resetStuckClear, execResetStuckClear, State.inDatum_eq hd]
  obtain h | h | h := h
  · simp only [h, Bool.true_or, if_true]
  · simp only [h, Bool.or_true, Bool.true_or, if_true]
  · simp only [h, Bool.not_false, Bool.or_true, if_true]

/-- Settles O38, command by command. -/
theorem safeInputsComplete : Obligations.SafeInputsComplete := by
  unfold Obligations.SafeInputsComplete
  intro s hd
  refine ⟨fun x y a b c u v hu hv => ?_, fun a b c hab => execSblkChange_both hd hab c,
    fun y k => execProofOpen_due hd, fun y => execProofOpen_idle hd,
    fun x y a b c u v hu hv => execSrstChange_eq hd y hu hv, fun c h h' => execSrstChange_press hd h h' c,
    fun srst y k u => execDiscrepancyTimeout_due hd, fun srst y => execDiscrepancyTimeout_idle hd,
    fun u rx ry v w => execResetComplete_due hd, fun y c hc => ?_, execResetComplete_none hd,
    fun y k u => execResetStuck_due hd, fun y => execResetStuck_idle hd, fun y => execResetStuckClear_due hd,
    fun y => execResetStuckClear_idle hd⟩
  · have hexec := execSblkChange_eq hd x y a b hu hv
    exact ⟨fun h hno => by rw [hexec, if_pos h, hno]; rfl, fun h had => by rw [hexec, if_pos h, if_pos had],
      fun h => by rw [hexec, h]; rfl⟩
  · subst hc
    exact ⟨s.resetResult_eq y, s.resetOk_iff _, rfl, fun k => rfl⟩

/-! ### Cross-link and lock -/

theorem State.settle_eq (s : State) (src : Nat) :
    s.settle src = s ∨ s.settle src = { s with fc := { s.fc with began := s.fc.began.filter (·.1 ≠ src) } } := by
  unfold State.settle
  split
  · exact .inl rfl
  · exact .inr rfl

theorem State.levelOff_rest (s : State) (src : Nat) :
    (s.levelOff src).role = s.role ∧ (s.levelOff src).sf = s.sf := by
  unfold State.levelOff
  obtain h | h := ({ s with fc := { s.fc with level := s.fc.level.filter (· ≠ src) } } : State).settle_eq src <;> rw [h] <;>
    exact ⟨rfl, rfl⟩

theorem execXlinkHeartbeat_eq {s u v : State} (hr : s.running = true) {agree : Bool}
    (ha : agree = decide (s.sf.x.permit = s.sf.y.permit))
    (hu : u = ({ s with sf := { s.sf with beatLost := false, diff := s.sf.diff && !agree } } : State).levelOff 177)
    (hv : v = (if s.role = .datum then u.put SF_STAT_XLINK_OK 1 else u)) :
    exec .xlinkHeartbeat s = .next (if (agree && !s.sf.crcFail) = true then v.levelOff 176 else v).tryDeblock := by
  have hrest := ({ s with sf := { s.sf with beatLost := false, diff := s.sf.diff && !agree } } : State).levelOff_rest 177
  rw [← hu] at hrest
  obtain ⟨hrole, hsf⟩ := hrest
  have hcrc : v.sf.crcFail = s.sf.crcFail := by
    rw [hv]
    split <;> simp only [State.put_sf, hsf]
  have hrole' : u.role = s.role := hrole
  rw [exec_xlinkHeartbeat, execXlinkHeartbeat, State.inRun_eq hr]
  simp only [← ha, ← hu, hrole', ← hv, hcrc]

theorem execXlinkTimeout_eq {s : State} (hr : s.running = true) :
    exec .xlinkTimeout s = .next ((if s.role = .datum then
      ({ s with sf := { s.sf with beatLost := true } } : State).put SF_STAT_XLINK_OK 0
      else { s with sf := { s.sf with beatLost := true } }).levelOn 177) := by
  rw [exec_xlinkTimeout, execXlinkTimeout, State.inRun_eq hr]

theorem execChannelDisagree_eq {s : State} (hr : s.running = true) :
    exec .channelDisagree s = .next (if s.sf.x.permit ≠ s.sf.y.permit then
      ({ s with sf := { s.sf with diff := true } } : State).levelOn 176 else s) := by
  rw [exec_channelDisagree, execChannelDisagree, State.inRun_eq hr]

theorem wrSafeLock_first {s z u v : State} {agree : Bool} (hnew : s.on SYS_LOCK_SAFE = false)
    (hz : z = (if agree = true then s else s.used.used.used.used))
    (hu : u = ({ z with sf := { z.sf with
      x := { z.sf.x with copy := some s.sfCfgNow },
      y := { z.sf.y with copy := some (if agree = true then s.sfCfgNow else s.freeCopy) } } } : State).put SYS_LOCK_SAFE 1)
    (hv : v = (if s.role = .datum then (u.put SF_STAT_CFG_LOCKED 1).put SF_STAT_CFG_MATCH agree.toNat else u)) :
    wrSafeLock agree s = (stOk, if agree = true then v else v.raise 182) := by
  have hrole : u.role = s.role := by
    rw [hu, hz]
    cases agree <;> rfl
  rw [← hrole] at hv
  subst hv hu hz
  unfold wrSafeLock
  rw [if_neg (by simp [hnew])]
  rfl

theorem wrSafeLock_again {s : State} (agree : Bool) (h : s.on SYS_LOCK_SAFE = true) : wrSafeLock agree s = (stOk, s) :=
  if_pos h

theorem execGcmdGate_eq {s : State} (hs : s.isStake = true) :
    exec .gcmdGate s = .next (if !s.sf.y.permit && s.cell ≠ .off then s.gateGcmd else s) := by
  rw [exec_gcmdGate, execGcmdGate, State.inStake_eq hs]

theorem execPermitLoss_lost {s u : State} (hs : s.isStake = true) (h : (s.sf.x.permitLost || s.sf.y.permitLost) = true)
    (hu : u = ({ s with sf := { s.sf with
      x := { s.sf.x with plDone := s.sf.x.plDone || s.sf.x.permitLost },
      y := { s.sf.y with plDone := s.sf.y.plDone || s.sf.y.permitLost } } } : State)) :
    exec .permitLoss s = .next (((u.blockStake s.sf.x.permitLost s.sf.y.permitLost
      [SF_SCAUSE_PLOSS]).count SF_SELFBLK).raise 184) := by
  subst hu
  rw [exec_permitLoss, execPermitLoss, State.inStake_eq hs]
  simp only [h, if_true]

theorem execPermitLoss_none {s : State} (h : (s.sf.x.permitLost || s.sf.y.permitLost) = false) :
    exec .permitLoss s = .next s := by
  rw [exec_permitLoss, execPermitLoss, State.inStake]
  simp only [h, Bool.false_eq_true, if_false, ite_self]

/-- Settles O39, command by command. -/
theorem crossLinkAndLockComplete : Obligations.CrossLinkAndLockComplete := by
  unfold Obligations.CrossLinkAndLockComplete
  intro s hr
  refine ⟨fun agree u v => execXlinkHeartbeat_eq hr, fun hd => ?_, fun hs => ?_, fun h => ?_, fun h => ?_,
    fun agree z u v hw hnew hz hu hv => ?_, fun agree hw h => ?_, ?_, fun hs hy hc => ?_, fun hs h => ?_,
    fun u hs => execPermitLoss_lost (State.isStake_of hr hs), execPermitLoss_none⟩
  · rw [execXlinkTimeout_eq hr, if_pos hd]
  · rw [execXlinkTimeout_eq hr, if_neg (by rw [hs]; decide)]
  · rw [execChannelDisagree_eq hr, if_pos h]
  · rw [execChannelDisagree_eq hr, if_neg (not_not_intro h)]
  · rw [exec_safeLock, execSafeLock, State.byWrite_eq hw, wrSafeLock_first hnew hz hu hv]
  · rw [exec_safeLock, execSafeLock, State.byWrite_eq hw, wrSafeLock_again agree h]
  · rw [exec_safeConfigCrc, execSafeConfigCrc, State.inRun_eq hr]
  · rw [execGcmdGate_eq (State.isStake_of hr hs), if_pos (by simp [hy, hc])]
    rfl
  · rw [execGcmdGate_eq (State.isStake_of hr hs), if_neg (by obtain h | h := h <;> simp [h])]

end Sys2Proof.Machine
end

section
/-! Fault inputs, forcing, the watchdog, the Field Book and ALIVE (R291 to R311). -/

namespace Sys2Proof.Machine

open Sys2Proof

/-! ### Fault inputs and forcing -/

/-- A level of FLTINn is noted, and its source follows (R203, R291). -/
theorem execFltinChange_noted {s t : State} (hr : s.running = true) {n : Nat} (hn : n < 8) {high : Bool}
    (ht : t = ({ s with fc := { s.fc with
      inputs := if high then s.fc.inputs.filter (· ≠ n) ++ [n] else s.fc.inputs.filter (· ≠ n) } } : State)) :
    exec (.fltinChange n high) s = .next (t.fltFollow n) := by
  subst ht
  rw [exec_fltinChange, execFltinChange, State.inRun_eq hr]
  simp only [Nat.not_le.mpr hn, if_false]

theorem State.fltFollow_high {t : State} {n : Nat} (h : t.fc.inputs.contains n = true) :
    t.fltFollow n = if t.cfgOn (FLTIN_FILT_POL n) = true then t.levelOff (224 + n) else t.levelOn (224 + n) := by
  simp only [State.fltFollow, State.fltActive, h]
  cases t.cfgOn (FLTIN_FILT_POL n) <;> rfl

theorem State.fltFollow_low {t : State} {n : Nat} (h : t.fc.inputs.contains n = false) :
    t.fltFollow n = if t.cfgOn (FLTIN_FILT_POL n) = true then t.levelOn (224 + n) else t.levelOff (224 + n) := by
  simp only [State.fltFollow, State.fltActive, h]
  cases t.cfgOn (FLTIN_FILT_POL n) <;> rfl

/-- A write to FC_FORCEr, by whether a bit of a class 4 source rises (R298). -/
theorem wrForce_eq {s : State} {r v : Nat} {rises falls : List Nat}
    (hrises : rises = (List.range 32).filter fun b => bitOf v b && !bitOf (s.get (FC_FORCE_SRC r)) b)
    (hfalls : falls = (List.range 32).filter fun b => !bitOf v b && bitOf (s.get (FC_FORCE_SRC r)) b) :
    wrForce r v s = if rises.any fun b => s.classOf (32 * r + b) = 4 then (stLocked, s)
      else (stOk, rises.foldl (fun t b => t.forceOn (32 * r + b) (s.asserting (32 * r + b)))
        (falls.foldl (fun t b => t.settle (32 * r + b)) (s.put (FC_FORCE_SRC r) v))) := by
  subst hrises hfalls
  rfl

theorem execFaultForce_word {s : State} (hw : s.takesWrites = true) {r v : Nat} (hr : r < 8) (hv : v < 2 ^ 32) :
    exec (.faultForce r v) s = .next ((wrForce r v s).2.emit (.done (wrForce r v s).1)) := by
  rw [exec_faultForce, execFaultForce, if_neg (by omega), Nat.mod_eq_of_lt hv, State.byWrite_eq hw]

theorem execFaultForce_none {s : State} (hw : s.takesWrites = true) {r : Nat} (hr : 8 ≤ r) (v : Nat) :
    exec (.faultForce r v) s = .next (s.emit (.done stBadParam)) := by
  rw [exec_faultForce, execFaultForce, if_pos hr, State.byWrite_eq hw]

/-! ### The watchdog -/

theorem wrFeed_fed {s : State} (h : s.fc.feedArmed = true) :
    wrFeed 0x5AA5 s = (stOk, ({ s with fc := { s.fc with feedArmed := false } } : State).put FC_STAT_WD_EXP 0) := by
  unfold wrFeed
  rw [if_pos (by simp [h])]

theorem wrFeed_armed {s : State} (h : s.fc.feedArmed = false) :
    wrFeed 0xA55A s = (stOk, { s with fc := { s.fc with feedArmed := true } }) := by
  unfold wrFeed
  rw [if_neg (by simp [h]), if_pos (by simp [h])]

theorem wrFeed_bad {s : State} {key : Nat}
    (h : (s.fc.feedArmed = true ∧ key ≠ 0x5AA5) ∨ (s.fc.feedArmed = false ∧ key ≠ 0xA55A)) :
    wrFeed key s = (stOk, ({ s with fc := { s.fc with feedArmed := false } } : State).count WD_BADFEED) := by
  unfold wrFeed
  obtain ⟨ha, hk⟩ | ⟨ha, hk⟩ := h
  · rw [if_neg (by simp [hk]), if_neg (by simp [ha])]
  · rw [if_neg (by simp [ha]), if_neg (by simp [hk])]

/-! ### The Field Book -/

theorem execRecordWrite_eq {s : State} (hr : s.running = true) {r : State × List FbEnt} {u : State}
    (hrt : r = s.endCycle.copyTails s.endCycle.fb.queue) (hu : u = ({ r.1 with fb := { r.1.fb with queue := r.2 } } : State)) :
    exec .recordWrite s = .next (if u.on FB_STAT_FROZEN = true then u else u.writeRing) := by
  subst hu hrt
  rw [exec_recordWrite, execRecordWrite, State.inRun_eq hr]

theorem State.endCycle_none {s : State} (h : s.fb.cycle = []) : s.endCycle = s := by
  have hfb : ({ s.fb with cycle := [] } : FbSt) = s.fb := by rw [← h]
  unfold State.endCycle
  simp only [h, List.foldl_nil, hfb]

/-- Without a record for the tail nothing is copied there (R310). -/
theorem State.copyTails_none (s : State) : ∀ l : List FbEnt, (∀ e ∈ l, e.rcd.tail = false) → s.copyTails l = (s, l)
  | [], _ => rfl
  | e :: l, h => by
    have he : s.copyTail e = (s, e) := by
      unfold State.copyTail
      rw [if_neg (by simp [h e List.mem_cons_self])]
    unfold State.copyTails
    simp only [he, State.copyTails_none s l fun x hx => h x (List.mem_cons_of_mem _ hx)]

theorem State.writeRing_none_lost {s : State} {e : FbEnt} {rest : List FbEnt} (hq : s.fb.queue = e :: rest)
    (hl : s.fb.lost = 0) :
    s.writeRing = ({ s with fb := { s.fb with
      ring := kset s.fb.ring (s.get FB_HEAD_SEQ % 8192) { e.rcd with seq := s.get FB_HEAD_SEQ, valid := true }
      queue := rest, newestTail := e.tailSeq } } : State).put FB_HEAD_SEQ (s.get FB_HEAD_SEQ + 1) := by
  unfold State.writeRing
  rw [hq]
  exact if_pos hl

theorem execRecordWrite_oldest {s : State} (hr : s.running = true) {e : FbEnt} {rest : List FbEnt} (hc : s.fb.cycle = [])
    (hq : s.fb.queue = e :: rest) (he : e.rcd.tail = false) (hrest : ∀ x : FbEnt, x ∈ rest → x.rcd.tail = false)
    (hf : s.on FB_STAT_FROZEN = false) (hl : s.fb.lost = 0) :
    exec .recordWrite s = .next (({ s with fb := { s.fb with
      ring := kset s.fb.ring (s.get FB_HEAD_SEQ % 8192) { e.rcd with seq := s.get FB_HEAD_SEQ, valid := true }
      queue := rest, newestTail := e.tailSeq } } : State).put FB_HEAD_SEQ (s.get FB_HEAD_SEQ + 1)) := by
  have htail : ∀ x ∈ s.fb.queue, x.rcd.tail = false := by
    rw [hq]
    exact List.forall_mem_cons.mpr ⟨he, hrest⟩
  have hcopy : s.endCycle.copyTails s.endCycle.fb.queue = (s, s.fb.queue) := by
    rw [State.endCycle_none hc, State.copyTails_none s _ htail]
  rw [execRecordWrite_eq (u := s) hr hcopy.symm rfl, if_neg (by simp [hf]), State.writeRing_none_lost hq hl]

theorem wrRingClear_eq (s : State) : wrRingClear s = if s.on SYS_LOCK_FB then (stLocked, s)
    else (stOk, ({ s with fb := { s.fb with ring := invalidate s.fb.ring } } : State).event 8 0) := rfl

theorem wrTailClear_eq (s : State) : wrTailClear s = if s.on SYS_LOCK_FB then (stLocked, s)
    else (stOk, ({ s with fb := { s.fb with tail := invalidate s.fb.tail } } : State).event 8 0) := rfl

theorem execFreezeExpiry_eq {s : State} (hr : s.running = true) :
    exec .freezeExpiry s = .next (if s.on FB_CTRL_FREEZE then
      (((s.put FB_CTRL_FREEZE 0).put FB_STAT_FROZEN 0).put FB_STAT_FRZ_EXP 1).event 7 0 else s) := by
  rw [exec_freezeExpiry, execFreezeExpiry, State.inRun_eq hr]

/-! ### ALIVE -/

theorem execAliveEdge_eq {s : State} (hr : s.running = true) :
    exec .aliveEdge s = .next (
      if s.fc.alive then (if s.aliveCause then s.put FC_STAT_ALIVE_RUN 0 else s).setAlive false
      else if s.aliveCause then s.put FC_STAT_ALIVE_RUN 0
      else (s.put FC_STAT_ALIVE_RUN 1).setAlive true) := by
  rw [exec_aliveEdge, execAliveEdge, State.inRun_eq hr]

/-- Settles O40, command by command. -/
theorem faultAndFieldBookComplete : Obligations.FaultAndFieldBookComplete := by
  unfold Obligations.FaultAndFieldBookComplete
  intro s hr
  refine ⟨fun n t hn ht => ?_, fun n t hn ht => ?_, fun n b hn => ?_, fun r v rises falls hw h8 hv hri hfa => ⟨fun h => ?_,
    fun h => ?_⟩, fun r v hw h8 => execFaultForce_none hw h8 v, fun v hw hv ha => ?_, fun v hw hv ha => ?_,
    fun v hw h => ?_, fun r u hrt hu => execRecordWrite_eq hr hrt hu,
    fun e rest hc hq he hrest hf hl => execRecordWrite_oldest hr hc hq he hrest hf hl, fun b hw => ?_, fun h => ?_,
    fun h => ?_, fun hw h => ⟨?_, ?_⟩, fun hw h => ⟨?_, ?_⟩, fun ha hc => ?_, fun ha hc => ?_, fun ha hc => ?_,
    fun ha hc => ?_⟩
  · rw [execFltinChange_noted hr hn (high := true) ht, State.fltFollow_high (by rw [ht]; simp), ht]
    rfl
  · rw [execFltinChange_noted hr hn (high := false) ht, State.fltFollow_low (by rw [ht]; simp), ht]
    rfl
  · rw [exec_fltinChange, execFltinChange, State.inRun_eq hr]
    simp only [hn, if_true]
  · rw [execFaultForce_word hw h8 hv, wrForce_eq hri hfa, if_pos h]
  · rw [execFaultForce_word hw h8 hv, wrForce_eq hri hfa, if_neg (by rw [h]; decide)]
  · rw [exec_watchdogFeed, execWatchdogFeed, State.byWrite_eq hw, hv, wrFeed_fed ha]
  · rw [exec_watchdogFeed, execWatchdogFeed, State.byWrite_eq hw, hv, wrFeed_armed ha]
  · rw [exec_watchdogFeed, execWatchdogFeed, State.byWrite_eq hw, wrFeed_bad h]
  · rw [exec_freeze, execFreeze, State.byWrite_eq hw]
    rfl
  · rw [execFreezeExpiry_eq hr, if_pos h]
  · rw [execFreezeExpiry_eq hr, h]
    rfl
  · rw [exec_ringClear, execRingClear, State.byWrite_eq hw, wrRingClear_eq, h]
    rfl
  · rw [exec_tailClear, execTailClear, State.byWrite_eq hw, wrTailClear_eq, h]
    rfl
  · rw [exec_ringClear, execRingClear, State.byWrite_eq hw, wrRingClear_eq, if_pos h]
  · rw [exec_tailClear, execTailClear, State.byWrite_eq hw, wrTailClear_eq, if_pos h]
  · rw [execAliveEdge_eq hr, ha, hc]
    rfl
  · rw [execAliveEdge_eq hr, ha, hc]
    rfl
  · rw [execAliveEdge_eq hr, ha, hc]
    rfl
  · rw [execAliveEdge_eq hr, ha, hc]
    rfl

end Sys2Proof.Machine
end

section
/-! Converters: passes, time events, injected conversions, pairs and calibration (R188 to R199, R54, R55). -/

namespace Sys2Proof.Machine

open Sys2Proof

/-! ### Laws of the converters -/

@[simp] theorem State.conv_setConv_self (s : State) (n : Nat) (c : Conv) : (s.setConv n c).conv n = c := by
  simp [State.conv, State.setConv, kget_kset_self]

@[simp] theorem State.advance_conv (s : State) (t n : Nat) : (s.advance t).conv n = s.conv n := by
  simp only [State.conv, State.advance_ad]

@[simp] theorem State.put_conv (s : State) (f : Fld) (v n : Nat) : (s.put f v).conv n = s.conv n := rfl

theorem execAdcGridTrigger_eq {s : State} (hr : s.running = true) (n c : Nat) :
    exec (.adcGridTrigger n c) s =
      .next (if n < 4 && s.gridOn n && s.gridDue n c then (s.advance c).gridTrigger n false else s) := by
  rw [exec_adcGridTrigger, execAdcGridTrigger, State.inRun_eq hr]

theorem execAdcSwStart_eq {s : State} (hw : s.takesWrites = true) (n : Nat) :
    exec (.adcSwStart n) s =
      .next (if n < 4 then (s.adTrigger n false).emit (.done stOk) else s.emit (.done stBadParam)) := by
  rw [exec_adcSwStart, execAdcSwStart, State.byWrite_eq hw]
  split <;> rfl

/-- A trigger of an idle converter outside a mirrored pair and outside calibration starts its pass (R189). -/
theorem State.adTrigger_idle {s : State} {n : Nat} (hm : s.mirrored (n / 2) = false) (hc : s.calBusy n = false)
    (hp : s.passBusy n = false) (hrot : s.get (AD_PAIR_STAT_ROT (n / 2)) = 0) : s.adTrigger n false = s.startPass n false := by
  have hrejoin : s.rotRejoin (n / 2) = s := by
    unfold State.rotRejoin
    simp only [hrot]
    exact if_neg fun h => by omega
  simp only [State.adTrigger, hrejoin, hm, State.trigConv, hc, hp, Bool.false_and, List.any_cons, List.any_nil,
    Bool.or_self, Bool.false_eq_true, if_false, List.foldl_cons, List.foldl_nil]

/-! ### The end of a pass -/

theorem execAdcPassEnd_busy {s u : State} (hr : s.running = true) {n : Nat} (hn : n < 4) (hp : s.passBusy n = true)
    (raw rawB : List Nat) (hu : u = s.advance (s.passOver n)) :
    exec (.adcPassEnd n raw rawB) s = .next (u.passEnd n (u.passEnds n) fun c =>
      u.passResults c (if ((u.conv n).mir && decide (c % 2 = 1)) = true then rawB else raw)) := by
  subst hu
  rw [exec_adcPassEnd, execAdcPassEnd, State.inRun_eq hr]
  simp only [hn, hp, and_self, if_true]

theorem execAdcPassEnd_idle {s : State} (hr : s.running = true) {n : Nat} (h : 4 ≤ n ∨ s.passBusy n = false)
    (raw rawB : List Nat) : exec (.adcPassEnd n raw rawB) s = .next s := by
  have hno : ¬ (n < 4 ∧ s.passBusy n = true) := by
    rintro ⟨hn, hp⟩
    obtain h | h := h
    · omega
    · simp [h] at hp
  rw [exec_adcPassEnd, execAdcPassEnd, State.inRun_eq hr]
  simp only [hno, if_false]

/-- Outside a mirrored pair a pass of a Stake ends at its converter alone (R190). -/
theorem State.passEnd_alone {u : State} {n : Nat} (hs : u.role = .stake) (hm : (u.conv n).mir = false) (res : Nat → List Int) :
    u.passEnd n (u.passEnds n) res = u.endPass n (res n) := by
  have hrole : (u.endPass n (res n)).role = .stake :=
    (State.endPass_keeps (Keeps.rfl' false u) n (res n)).role.trans hs
  have hends : u.passEnds n = [n] := by simp only [State.passEnds, hm, Bool.false_eq_true, if_false]
  simp only [State.passEnd, hends, hm, List.foldl_cons, List.foldl_nil, Bool.false_and, Bool.false_eq_true, if_false,
    State.deliverPass, hrole]
  rfl

/-! ### Time events -/

theorem State.tout_cfg (s : State) (n : Nat) (b : Bool) (f : Fld) : (s.tout n b).cfg f = s.cfg f := by
  unfold State.tout
  split <;> rfl

theorem execTevFire_ready {s u v w : State} (hr : s.running = true) {n : Nat} (h : s.tevReady n = true)
    (hu : u = s.advance (s.tevDue n))
    (hv : v = ((u.setTev n { s.tevSt n with
      fires := (s.tevSt n).fires + 1, pulse := true, fired := true, made := (s.tevSt n).made || s.cfgOn (TEV_CTRL_MODE n), firedAt := u.now,
      endAt := u.now + s.cfg (TEV_WID_VAL n) }).put (TEV_STAT_FIRED n) 1).tout n true)
    (hw : w = ((List.range 4).filter (bitOf (s.cfg (TEV_CTRL_ADCSTART n)))).foldl (fun t c => t.adTrigger c false) v) :
    exec (.tevFire n) s = .next (if w.role = .datum then w.routeEvent (17 + n) else w) := by
  have hcfg : v.cfg (TEV_CTRL_ADCSTART n) = s.cfg (TEV_CTRL_ADCSTART n) := by
    rw [hv, State.tout_cfg, hu]
    exact State.advance_cfg' ..
  have htev : u.tevSt n = s.tevSt n := by rw [hu, State.advance_tevSt']
  have hmode : u.cfgOn (TEV_CTRL_MODE n) = s.cfgOn (TEV_CTRL_MODE n) := by rw [hu, State.advance_cfgOn']
  have hwid : u.cfg (TEV_WID_VAL n) = s.cfg (TEV_WID_VAL n) := by rw [hu, State.advance_cfg']
  rw [exec_tevFire, execTevFire, State.inRun_eq hr]
  simp only [h, if_true, ← hu, htev, hmode, hwid, ← hv, hcfg, ← hw]

theorem execTevFire_unready {s : State} (hr : s.running = true) {n : Nat} (h : s.tevReady n = false) :
    exec (.tevFire n) s = .next s := by
  rw [exec_tevFire, execTevFire, State.inRun_eq hr]
  simp only [h, Bool.false_eq_true, if_false]

theorem execTevPulseEnd_eq {s : State} (hr : s.running = true) (n : Nat) :
    exec (.tevPulseEnd n) s = .next (if (s.tevSt n).pulse then
      ((s.advance (s.tevSt n).endAt).setTev n { s.tevSt n with pulse := false }).tout n false else s) := by
  rw [exec_tevPulseEnd, execTevPulseEnd, State.inRun_eq hr]

/-! ### The cell voltage -/

theorem execCellVoltageResult_open {s u : State} (hs : s.isStake = true) {x : CellConv} {cs : List Nat} (raw rawB : Nat)
    (hopen : s.cellOpen = some (x, cs)) (hu : u = cs.foldl State.cellTaken (s.advance ((x.hold + 203) / 4))) :
    exec (.cellVoltageResult raw rawB) s =
      .next (u.cellResult x
        (u.vcodeOf (u.correct (if cs.contains (u.pairConv 0) = true then u.pairConv 0 else cs.headD 0)
          (if (if cs.contains (u.pairConv 0) = true then u.pairConv 0 else cs.headD 0) = 0 then raw else rawB) x.diff))
        ((cs.map fun n => u.vcodeOf (u.correct n (if n = 0 then raw else rawB) x.diff)).foldl max 0)) := by
  rw [exec_cellVoltageResult, execCellVoltageResult, State.inStake_eq hs]
  simp only [hopen, ← hu]

theorem execCellVoltageResult_none {s : State} (raw rawB : Nat) (hopen : s.cellOpen = none) :
    exec (.cellVoltageResult raw rawB) s = .next s := by
  rw [exec_cellVoltageResult, execCellVoltageResult, State.inStake]
  simp only [hopen, ite_self]

/-- Settles O41, command by command. -/
theorem converterPassesComplete : Obligations.ConverterPassesComplete := by
  unfold Obligations.ConverterPassesComplete
  intro s hr
  refine ⟨fun n c hn hon hdue => ?_, fun n c h => ?_, fun n hw hn => ?_, fun n hw hn hm hc hp hrot => ?_, fun n hw hn => ?_,
    fun n raw rawB u hn hp hu => execAdcPassEnd_busy hr hn hp raw rawB hu, fun n raw rawB u hn hp hs hm hu => ?_,
    fun n raw rawB h => execAdcPassEnd_idle hr h raw rawB, fun n u v w h hu hv hw => execTevFire_ready hr h hu hv hw,
    fun n => execTevFire_unready hr, fun n h => ?_, fun n h => ?_,
    fun raw rawB x cs u hs hopen hu => execCellVoltageResult_open (State.isStake_of hr hs) raw rawB hopen hu,
    fun raw rawB => execCellVoltageResult_none raw rawB⟩
  · rw [execAdcGridTrigger_eq hr, if_pos (by simp [hn, hon, hdue])]
  · rw [execAdcGridTrigger_eq hr, if_neg]
    obtain h | h | h := h
    · simp [Nat.not_lt.mpr h]
    · simp [h]
    · simp [h]
  · rw [execAdcSwStart_eq hw, if_pos hn]
  · rw [execAdcSwStart_eq hw, if_pos hn, State.adTrigger_idle hm hc hp hrot]
  · rw [execAdcSwStart_eq hw, if_neg (Nat.not_lt.mpr hn)]
  · have hs' : u.role = .stake := by rw [hu, State.advance_role, hs]
    have hm' : (u.conv n).mir = false := by rw [hu, State.advance_conv, hm]
    rw [execAdcPassEnd_busy hr hn hp raw rawB hu, State.passEnd_alone hs' hm', hm']
    rfl
  · rw [execTevPulseEnd_eq hr, if_pos h]
  · rw [execTevPulseEnd_eq hr, h]
    rfl

/-! ### Injected conversions -/

theorem wrInject_beyond {n : Nat} (hn : 4 ≤ n) (inp : Nat) (diff pre : Bool) (s : State) :
    wrInject n inp diff pre s = (stBadParam, s) := if_pos hn

/-- The fields that a write of START to AD_INJn carries (R192). -/
def State.injectFields (s : State) (n inp : Nat) (diff pre : Bool) : State :=
  ((s.put (AD_INJ_IN n) inp).putB (AD_INJ_DIFF n) diff).setShadow (AD_INJ_PREEMPT n) pre.toNat

theorem wrInject_taken {n : Nat} (hn : n < 4) (inp : Nat) (diff pre : Bool) (s : State) :
    wrInject n inp diff pre s = (stOk, (if s.mirrored (n / 2) = true then [n / 2 * 2, n / 2 * 2 + 1] else [n]).foldl
      (fun t c => t.injectConv c (inp % 16) diff.toNat (s.cfgOn (AD_INJ_PREEMPT n))) (s.injectFields n inp diff pre)) :=
  if_neg (Nat.not_le.mpr hn)

theorem AD_INJ_apart (n : Nat) :
    AD_STAT_CAL_BUSY.key ≠ (AD_INJ_IN n).key ∧ AD_STAT_CAL_BUSY.key ≠ (AD_INJ_DIFF n).key ∧
      (AD_SEQ_STAT_BUSY n).key ≠ (AD_INJ_IN n).key ∧ (AD_SEQ_STAT_BUSY n).key ≠ (AD_INJ_DIFF n).key := by
  simp only [Fld.key, AD_STAT_CAL_BUSY, AD_INJ_IN, AD_INJ_DIFF, AD_SEQ_STAT_BUSY]
  omega

theorem State.injectFields_idle {s : State} {n : Nat} (hc : s.calBusy n = false) (hp : s.passBusy n = false)
    (inp : Nat) (diff pre : Bool) :
    (s.injectFields n inp diff pre).calBusy n = false ∧ (s.injectFields n inp diff pre).passBusy n = false := by
  obtain ⟨h1, h2, h3, h4⟩ := AD_INJ_apart n
  refine ⟨?_, ?_⟩
  · rw [State.calBusy, State.injectFields, State.setShadow_get', State.putB, State.get_put_ne _ _ _ _ h2,
      State.get_put_ne _ _ _ _ h1]
    exact hc
  · rw [State.passBusy, State.injectFields, State.setShadow_on', State.putB, State.on_put_ne _ _ _ _ h4,
      State.on_put_ne _ _ _ _ h3]
    exact hp

/-- A conversion requested of an idle converter is open (R192). -/
theorem State.injectConv_idle {s : State} {n : Nat} (hc : s.calBusy n = false) (hp : s.passBusy n = false)
    (hi : (s.conv n).inj = none) (inp diff : Nat) (pre : Bool) :
    s.injectConv n inp diff pre = s.setConv n { s.conv n with inj := some (inp, diff), injAt := s.now } := by
  have hbusy (c : Conv) : (s.setConv n c).passBusy n = false := hp
  unfold State.injectConv
  simp only [hc, hp, hi, Option.isSome_none, Bool.false_and, Bool.or_self, Bool.false_eq_true, if_false]

theorem execAdcInject_idle {s : State} (hw : s.takesWrites = true) {n : Nat} (hn : n < 4) (hm : s.mirrored (n / 2) = false)
    (hc : s.calBusy n = false) (hp : s.passBusy n = false) (hi : (s.conv n).inj = none) (inp : Nat) (diff pre : Bool) :
    ∃ t, exec (.adcInject n inp diff pre) s = .next t ∧ (t.conv n).inj = some (inp % 16, diff.toNat) ∧
      (t.conv n).injAt = s.now ∧ t.out = s.out ++ [.done stOk] ∧ t.mem = s.mem := by
  obtain ⟨hc', hp'⟩ := State.injectFields_idle hc hp inp diff pre
  have hi' : ((s.injectFields n inp diff pre).conv n).inj = none := hi
  have hone : (if s.mirrored (n / 2) = true then [n / 2 * 2, n / 2 * 2 + 1] else [n]) = [n] := by simp [hm]
  have hexec : exec (.adcInject n inp diff pre) s = .next (((s.injectFields n inp diff pre).setConv n
      { (s.injectFields n inp diff pre).conv n with
        inj := some (inp % 16, diff.toNat), injAt := (s.injectFields n inp diff pre).now }).emit (.done stOk)) := by
    rw [exec_adcInject, execAdcInject, State.byWrite_eq hw, wrInject_taken hn, hone, List.foldl_cons, List.foldl_nil,
      State.injectConv_idle hc' hp' hi']
  refine ⟨_, hexec, ?_, ?_, rfl, rfl⟩
  · exact congrArg Conv.inj (State.conv_setConv_self _ n _)
  · exact congrArg Conv.injAt (State.conv_setConv_self _ n _)

theorem State.advance_correct (s : State) (t n raw diff : Nat) : (s.advance t).correct n raw diff = s.correct n raw diff := by
  simp only [State.correct, State.advance_get']

theorem execAdcInjectResult_open {s u : State} (hr : s.running = true) {n inp diff : Nat} (raw : Nat)
    (hi : (s.conv n).inj = some (inp, diff)) (hu : u = s.advance ((s.conv n).injAt + 50)) :
    exec (.adcInjectResult n raw) s = .next (((u.setConv n { s.conv n with inj := none }).put (AD_INJ_RES_CODE n)
      (codeOf (s.correct n raw diff))).put (AD_INJ_RES_VALID n) 1) := by
  subst hu
  rw [exec_adcInjectResult, execAdcInjectResult, State.inRun_eq hr]
  simp only [hi, State.advance_conv, State.advance_correct]

theorem execAdcInjectResult_none {s : State} (hr : s.running = true) {n : Nat} (raw : Nat) (hi : (s.conv n).inj = none) :
    exec (.adcInjectResult n raw) s = .next s := by
  rw [exec_adcInjectResult, execAdcInjectResult, State.inRun_eq hr]
  simp only [hi]

/-! ### Calibration -/

theorem wrCalStart_taken {s : State} {mask : Nat}
    (h : ∀ n ∈ (List.range 4).filter (bitOf mask), s.get (AD_PAIR_STAT_ROT (n / 2)) = 0 ∨ s.carrier (n / 2) ≠ n) :
    wrCalStart mask s = (stOk, ((List.range 4).filter (bitOf mask)).foldl State.calRequest s) := by
  refine if_neg fun hany => ?_
  obtain ⟨n, hn, hno⟩ := List.any_eq_true.mp hany
  obtain ⟨hrot, hcar⟩ := of_decide_eq_true hno
  exact (h n hn).elim hrot fun hne => hne hcar

theorem wrCalStart_busy {s : State} {mask n : Nat} (hn : n < 4) (hb : bitOf mask n = true)
    (hrot : s.get (AD_PAIR_STAT_ROT (n / 2)) ≠ 0) (hcar : s.carrier (n / 2) = n) : wrCalStart mask s = (stBusy, s) :=
  if_pos (List.any_eq_true.mpr ⟨n, List.mem_filter.mpr ⟨List.mem_range.mpr hn, hb⟩, decide_eq_true ⟨hrot, hcar⟩⟩)

theorem execAdcCalDone_busy {s : State} (hr : s.running = true) {n : Nat} (hn : n < 4) (hc : s.calBusy n = true)
    (gain ofs : Nat) :
    exec (.adcCalDone n gain ofs) s = .next (if calOk gain ofs then
      (((s.put AD_STAT_CAL_BUSY (clrBitOf (s.get AD_STAT_CAL_BUSY) n)).put
        (AD_CAL_GAIN_GAIN n) gain).put (AD_CAL_OFS_OFS n) ofs).put AD_STAT_CAL_VALID (setBitOf (s.get AD_STAT_CAL_VALID) n)
      else (s.put AD_STAT_CAL_BUSY (clrBitOf (s.get AD_STAT_CAL_BUSY) n)).raise (130 + n)) := by
  rw [exec_adcCalDone, execAdcCalDone, State.inRun_eq hr]
  simp only [hn, hc, and_self, if_true]

theorem execAdcCalDone_idle {s : State} (hr : s.running = true) {n : Nat} (h : 4 ≤ n ∨ s.calBusy n = false) (gain ofs : Nat) :
    exec (.adcCalDone n gain ofs) s = .next s := by
  have hno : ¬ (n < 4 ∧ s.calBusy n = true) := by
    rintro ⟨hn, hc⟩
    obtain h | h := h
    · omega
    · simp [h] at hc
  rw [exec_adcCalDone, execAdcCalDone, State.inRun_eq hr]
  simp only [hno, if_false]

theorem wrRotStart_taken {s : State} {mask : Nat}
    (h : ∀ m ∈ (List.range 2).filter (bitOf mask), s.mirrored m = true ∧ s.calBusy (2 * m) = false ∧
      s.calBusy (2 * m + 1) = false ∧ s.get (AD_PAIR_STAT_ROT m) = 0) :
    wrRotStart mask s = (stOk, ((List.range 2).filter (bitOf mask)).foldl State.rotStart s) := by
  refine if_neg fun hany => ?_
  obtain ⟨m, hm, hno⟩ := List.any_eq_true.mp hany
  obtain ⟨hmir, h0, h1, hrot⟩ := h m hm
  simp [hmir, h0, h1, hrot] at hno

theorem wrRotStart_busy {s : State} {mask m : Nat} (hm : m < 2) (hb : bitOf mask m = true)
    (h : s.mirrored m = false ∨ s.calBusy (2 * m) = true ∨ s.calBusy (2 * m + 1) = true ∨ s.get (AD_PAIR_STAT_ROT m) ≠ 0) :
    wrRotStart mask s = (stBusy, s) := by
  refine if_pos (List.any_eq_true.mpr ⟨m, List.mem_filter.mpr ⟨List.mem_range.mpr hm, hb⟩, ?_⟩)
  obtain h | h | h | h := h <;> simp [h]

theorem execRotCalAbort_eq {s : State} (hr : s.running = true) (m : Nat) :
    exec (.rotCalAbort m) s = .next (if m < 2 ∧ (s.get (AD_PAIR_STAT_ROT m) = 2 ∨ s.get (AD_PAIR_STAT_ROT m) = 4) ∧
      (s.adPair m).rotRun < 16 then s.rotAbort m else s) := by
  rw [exec_rotCalAbort, execRotCalAbort, State.inRun_eq hr]

theorem execPairMismatch_eq {s : State} (hr : s.running = true) (m : Nat) :
    exec (.pairMismatch m) s = .next (if 2 ≤ m then s
      else (s.adPair m).limits.foldl (fun t b => t.pairLimit m b) (s.setAdPair m { s.adPair m with limits := [] })) := by
  rw [exec_pairMismatch, execPairMismatch, State.inRun_eq hr]

/-- Settles O42, command by command. -/
theorem converterCareComplete : Obligations.ConverterCareComplete := by
  unfold Obligations.ConverterCareComplete
  intro s hr
  refine ⟨fun m hm => ?_, fun m hm => ?_, fun n inp diff pre u hw hn hu => ?_, fun n inp diff pre hw hn => ?_,
    fun n inp diff pre hw hn hm hc hp hi => execAdcInject_idle hw hn hm hc hp hi inp diff pre,
    fun n raw inp diff u hi hu => execAdcInjectResult_open hr raw hi hu, fun n raw hi => execAdcInjectResult_none hr raw hi,
    fun mask l hw hl h => ?_, fun mask n hw hn hb hrot hcar => ?_, fun n gain ofs hn hc hok => ?_,
    fun n gain ofs hn hc hok => ?_, fun n gain ofs h => execAdcCalDone_idle hr h gain ofs, fun mask l hw hl h => ?_,
    fun mask m hw hm hb h => ?_, fun m hm hrot hrun => ?_, fun m h => ?_⟩
  · rw [execPairMismatch_eq hr, if_neg (by omega)]
    rfl
  · rw [execPairMismatch_eq hr, if_pos hm]
  · rw [exec_adcInject, execAdcInject, State.byWrite_eq hw, wrInject_taken hn, hu]
    rfl
  · rw [exec_adcInject, execAdcInject, State.byWrite_eq hw, wrInject_beyond hn]
  · subst hl
    rw [exec_adcCalStart, execAdcCalStart, State.byWrite_eq hw, wrCalStart_taken h]
  · rw [exec_adcCalStart, execAdcCalStart, State.byWrite_eq hw, wrCalStart_busy hn hb hrot hcar]
  · rw [execAdcCalDone_busy hr hn hc, if_pos hok]
  · rw [execAdcCalDone_busy hr hn hc, hok]
    rfl
  · subst hl
    rw [exec_rotCalStart, execRotCalStart, State.byWrite_eq hw, wrRotStart_taken h]
  · rw [exec_rotCalStart, execRotCalStart, State.byWrite_eq hw, wrRotStart_busy hm hb h]
  · rw [execRotCalAbort_eq hr, if_pos ⟨hm, hrot, hrun⟩]
    rfl
  · rw [execRotCalAbort_eq hr, if_neg]
    rintro ⟨hm, hrot, hrun⟩
    obtain h | h | h := h <;> omega

end Sys2Proof.Machine
end

section
/-! # The auxiliary supply (R201 to R204, R406) -/

namespace Sys2Proof.Machine
open Sys2Proof

theorem State.onAux_eq {s : State} (hs : s.isStake = true) (hrun : s.on AUX_STAT_RUN = true) (f : State → State) :
    s.onAux f = .next (f s) := by
  rw [State.onAux, State.inStake_eq hs, if_pos hrun]

theorem State.onAux_stopped {s : State} (hs : s.isStake = true) (hrun : s.on AUX_STAT_RUN = false) (f : State → State) :
    s.onAux f = .next s := by
  rw [State.onAux, State.inStake_eq hs]
  simp only [hrun, Bool.false_eq_true, if_false]

/-- What does nothing to a state does nothing whether or not the controller runs. -/
theorem State.onAux_idle {s : State} (hs : s.isStake = true) {f : State → State} (hf : f s = s) : s.onAux f = .next s := by
  rw [State.onAux, State.inStake_eq hs, hf, ite_self]

/-! ### Pulses -/

theorem execAuxPulseStart_mode1 {s : State} (hs : s.isStake = true) (hrun : s.on AUX_STAT_RUN = true)
    (hon : s.on AUX_STAT_ON = false) (hm : s.cfgOn AUX_CTRL_MODE = true) :
    exec .auxPulseStart s = .next (s.advance (s.aux.offAt + s.cfg AUX_TOFF_TOFF)).auxPeriod := by
  rw [exec_auxPulseStart, execAuxPulseStart, State.onAux_eq hs hrun]
  simp only [hon, hm, Bool.false_eq_true, if_false, if_true]

theorem execAuxPulseStart_mode0 {s : State} (hs : s.isStake = true) (hrun : s.on AUX_STAT_RUN = true)
    (hon : s.on AUX_STAT_ON = false) (hm : s.cfgOn AUX_CTRL_MODE = false) (hsync : s.cfgOn AUX_CTRL_SYNC_EN = false)
    (hdem : s.on AUX_STAT_DEM = true) :
    exec .auxPulseStart s = .next (s.advance (max s.aux.demAt (s.aux.offAt + s.cfg AUX_TOFF_TOFF))).auxPeriod := by
  rw [exec_auxPulseStart, execAuxPulseStart, State.onAux_eq hs hrun]
  simp only [hon, hm, hsync, hdem, Bool.false_eq_true, Bool.not_true, Bool.or_self, if_false]

theorem execAuxPulseStart_idle {s : State} (hs : s.isStake = true)
    (h : s.on AUX_STAT_ON = true ∨
      (s.cfgOn AUX_CTRL_MODE = false ∧ (s.cfgOn AUX_CTRL_SYNC_EN = true ∨ s.on AUX_STAT_DEM = false))) :
    exec .auxPulseStart s = .next s := by
  rw [exec_auxPulseStart, execAuxPulseStart]
  apply State.onAux_idle hs
  obtain hon | ⟨hm, h⟩ := h
  · exact if_pos hon
  · have hwait : (s.cfgOn AUX_CTRL_SYNC_EN || !s.on AUX_STAT_DEM) = true := by
      obtain h | h := h <;> simp [h]
    simp only [hm, hwait, Bool.false_eq_true, if_false, if_true, ite_self]

theorem execAuxPulseEnd_running {s u : State} (hs : s.isStake = true) (hrun : s.on AUX_STAT_RUN = true)
    (hon : s.on AUX_STAT_ON = true) (hu : u = s.advance s.auxEnd) :
    exec .auxPulseEnd s = .next (({ u with aux := { s.aux with offAt := u.now } } : State).auxPin false) := by
  subst hu
  rw [exec_auxPulseEnd, execAuxPulseEnd, State.onAux_eq hs hrun, if_pos hon, State.auxOff, State.advance_aux]

theorem execAuxPulseEnd_idle {s : State} (hs : s.isStake = true) (hon : s.on AUX_STAT_ON = false) :
    exec .auxPulseEnd s = .next s := by
  rw [exec_auxPulseEnd, execAuxPulseEnd]
  apply State.onAux_idle hs
  simp only [hon, Bool.false_eq_true, if_false]

/-! ### AUXFLT and AUXDEM -/

theorem AUX_STAT_ON_apart_FLT : AUX_STAT_ON.key ≠ AUX_STAT_FLT.key := by decide

theorem auxflt_on (s : State) (c : Nat) : ((s.advance c).put AUX_STAT_FLT 1).on AUX_STAT_ON = s.on AUX_STAT_ON := by
  rw [State.on_put_ne _ _ _ _ AUX_STAT_ON_apart_FLT, State.advance_on']

theorem execAuxfltCut_eq {s : State} (hs : s.isStake = true) (c : Nat) :
    exec (.auxfltCut c) s = .next (if s.on AUX_STAT_ON then (((s.advance c).put AUX_STAT_FLT 1).auxOff).auxCutNow
      else (s.advance c).put AUX_STAT_FLT 1) := by
  rw [exec_auxfltCut, execAuxfltCut, State.inStake_eq hs]
  simp only [auxflt_on]

theorem execAuxCutLimit_eq {s : State} (hs : s.isStake = true) :
    exec .auxCutLimit s = .next (if s.cfg AUX_FILT_FLTLIM ≤ s.aux.cutRun ∧ ¬ s.aux.raised then
      ({ s with aux := { s.aux with raised := true } } : State).raise 136 else s) := by
  rw [exec_auxCutLimit, execAuxCutLimit, State.inStake_eq hs]

/-! ### AUXSYNC -/

theorem execAuxsyncEdge_mode1 {s u : State} (hs : s.isStake = true) {c : Nat} (hrun : s.on AUX_STAT_RUN = true)
    (hm : s.cfgOn AUX_CTRL_MODE = true) (hu : u = s.advance c) :
    exec (.auxsyncEdge c) s =
      .next { u with aux := { s.aux with syncs := s.aux.syncs ++ [u.now + s.cfg AUX_SYNC_DLY] } } := by
  subst hu
  rw [exec_auxsyncEdge, execAuxsyncEdge, State.onAux_eq hs hrun]
  simp only [State.advance_cfgOn', hm, if_true, State.advance_aux, State.advance_cfg']

theorem execAuxsyncEdge_own {s : State} (hs : s.isStake = true) {c : Nat} (hrun : s.on AUX_STAT_RUN = true)
    (hm : s.cfgOn AUX_CTRL_MODE = false) (hsrc : s.cfgOn AUX_CTRL_SYNC_SRC = true) :
    exec (.auxsyncEdge c) s = .next (s.advance c) := by
  rw [exec_auxsyncEdge, execAuxsyncEdge, State.onAux_eq hs hrun]
  simp only [State.advance_cfgOn', hm, hsrc, if_true, Bool.false_eq_true, if_false]

/-- The distance of a cycle from the one in which the next edge is expected, in eighths (R204). -/
def State.edgeOff (s : State) (now : Nat) : Nat :=
  8 * ((now - (s.aux.lastEdge + s.cfg AUX_SYNC_PER)) + ((s.aux.lastEdge + s.cfg AUX_SYNC_PER) - now))

/-- An edge of the input in mode 0 is accepted without lock or within its window, and else an error (R204). -/
theorem execAuxsyncEdge_input {s u : State} (hs : s.isStake = true) {c : Nat} (hrun : s.on AUX_STAT_RUN = true)
    (hm : s.cfgOn AUX_CTRL_MODE = false) (hsrc : s.cfgOn AUX_CTRL_SYNC_SRC = false) (hu : u = s.advance c) :
    exec (.auxsyncEdge c) s = .next (if s.on AUX_STAT_SYNC_LOCK = false ∨ s.edgeOff u.now ≤ s.cfg AUX_SYNC_PER
      then u.acceptEdge else u.count SYNC_ERR) := by
  subst hu
  rw [exec_auxsyncEdge, execAuxsyncEdge, State.onAux_eq hs hrun]
  simp only [State.advance_cfgOn', hm, hsrc, Bool.false_eq_true, if_false, State.advance_aux, State.advance_cfg',
    State.advance_on', Bool.or_eq_true, Bool.not_eq_true', decide_eq_true_eq, State.edgeOff]
  rfl

theorem acceptEdge_advance {s u : State} {c : Nat} (hu : u = s.advance c) :
    u.acceptEdge = ({ u with aux := { s.aux with
        lastEdge := u.now, lost := false
        syncs := (if s.aux.lost = true then [] else s.aux.syncs) ++ [u.now + s.cfg AUX_SYNC_DLY] } } : State).put
          AUX_STAT_SYNC_LOCK 1 := by
  subst hu
  simp only [State.acceptEdge, State.advance_aux, State.advance_cfg']

theorem State.advance_ownSync (s : State) (c : Nat) : (s.advance c).ownSync = s.ownSync := by
  simp only [State.ownSync, State.advance_cfgOn', State.advance_aux]

theorem execSyncInstant_due {s u : State} (hs : s.isStake = true) {t : Nat} {rest : List Nat}
    (hrun : s.on AUX_STAT_RUN = true) (hsyncs : s.aux.syncs = t :: rest) (hu : u = s.advance t) :
    exec .syncInstant s = .next (({ u with aux := { s.aux with
        lastSync := t
        syncs := if s.ownSync = true then [t + s.cfg AUX_SYNC_PER] else rest } } : State).emit
          (.pulse "AUXSYNC_OUT" 10)).syncPulse := by
  subst hu
  rw [exec_syncInstant, execSyncInstant, State.onAux_eq hs hrun]
  simp only [hsyncs, State.advance_aux, State.advance_ownSync, State.advance_cfg']

theorem execSyncInstant_none {s : State} (hs : s.isStake = true) (hsyncs : s.aux.syncs = []) :
    exec .syncInstant s = .next s := by
  rw [exec_syncInstant, execSyncInstant]
  apply State.onAux_idle hs
  simp only [hsyncs]

theorem execSyncLoss_input {s u : State} (hs : s.isStake = true) (hrun : s.on AUX_STAT_RUN = true)
    (hm : s.cfgOn AUX_CTRL_MODE = false) (hsrc : s.cfgOn AUX_CTRL_SYNC_SRC = false) (hl : s.aux.lost = false)
    (hu : u = s.advance (s.aux.lastEdge + 2 * s.cfg AUX_SYNC_PER)) :
    exec .syncLoss s = .next (((({ u with aux := { s.aux with
        lost := true, syncs := [timerFrom s.aux.lastSync (s.cfg AUX_SYNC_PER) u.now] } } : State).put AUX_STAT_SYNC_LOCK 0).count
          SYNC_LOSS).raise 137) := by
  subst hu
  rw [exec_syncLoss, execSyncLoss, State.onAux_eq hs hrun]
  simp only [hm, hsrc, hl, Bool.or_self, Bool.false_eq_true, if_false, State.advance_aux]

theorem execSyncLoss_idle {s : State} (hs : s.isStake = true)
    (h : s.cfgOn AUX_CTRL_MODE = true ∨ s.cfgOn AUX_CTRL_SYNC_SRC = true ∨ s.aux.lost = true) :
    exec .syncLoss s = .next s := by
  rw [exec_syncLoss, execSyncLoss]
  apply State.onAux_idle hs
  have hno : (s.cfgOn AUX_CTRL_MODE || s.cfgOn AUX_CTRL_SYNC_SRC || s.aux.lost) = true := by
    obtain h | h | h := h <;> simp [h]
  exact if_pos hno

theorem auxStopped_idle {s : State} (hs : s.isStake = true) (hrun : s.on AUX_STAT_RUN = false) :
    exec .auxPulseStart s = .next s ∧ exec .auxPulseEnd s = .next s ∧ (∀ c, exec (.auxsyncEdge c) s = .next s) ∧
      exec .syncInstant s = .next s ∧ exec .syncLoss s = .next s :=
  ⟨(exec_auxPulseStart s).trans (State.onAux_stopped hs hrun _), (exec_auxPulseEnd s).trans (State.onAux_stopped hs hrun _),
    fun c => (exec_auxsyncEdge c s).trans (State.onAux_stopped hs hrun _),
    (exec_syncInstant s).trans (State.onAux_stopped hs hrun _), (exec_syncLoss s).trans (State.onAux_stopped hs hrun _)⟩

/-- Settles O43, command by command. -/
theorem auxiliarySupplyComplete : Obligations.AuxiliarySupplyComplete := by
  unfold Obligations.AuxiliarySupplyComplete
  intro s hs
  refine ⟨execAuxPulseStart_mode1 hs, execAuxPulseStart_mode0 hs, execAuxPulseStart_idle hs,
    fun u hrun hon hu => execAuxPulseEnd_running hs hrun hon hu, execAuxPulseEnd_idle hs, fun c hon => ?_, fun c hon => ?_,
    ?_, fun hlim hr => ?_, fun h => ?_, fun b => ?_, fun c u hrun hm hu => execAuxsyncEdge_mode1 hs hrun hm hu,
    fun c hrun hm hsrc => execAuxsyncEdge_own hs hrun hm hsrc, fun c u hrun hsrc hm hu h => ?_,
    fun c u hrun hsrc hm hu hlock hfar => ?_, fun t rest u hrun hsyncs hu => execSyncInstant_due hs hrun hsyncs hu,
    execSyncInstant_none hs, fun u hrun hm hsrc hl hu => execSyncLoss_input hs hrun hm hsrc hl hu, execSyncLoss_idle hs,
    auxStopped_idle hs⟩
  · rw [execAuxfltCut_eq hs, if_pos hon]
  · rw [execAuxfltCut_eq hs, hon]
    rfl
  · rw [exec_auxfltFall, execAuxfltFall, State.inStake_eq hs]
  · rw [execAuxCutLimit_eq hs, if_pos ⟨hlim, by simp [hr]⟩]
  · rw [execAuxCutLimit_eq hs, if_neg]
    rintro ⟨hlim, hr⟩
    obtain h | h := h
    · omega
    · exact hr h
  · rw [exec_auxdemChange, execAuxdemChange, State.inStake_eq hs, State.putB]
  · rw [execAuxsyncEdge_input hs hrun hm hsrc hu, if_pos (show _ ∨ s.edgeOff u.now ≤ _ from h),
      acceptEdge_advance hu]
  · rw [execAuxsyncEdge_input hs hrun hm hsrc hu, if_neg]
    rintro (h | h)
    · simp [h] at hlock
    · exact Nat.not_le.mpr hfar h

end Sys2Proof.Machine
end

section
/-! # The scheduler (R210 to R229) -/

namespace Sys2Proof.Machine
open Sys2Proof

/-! ### Lanes -/

theorem execSignalInstruction_busy {s : State} (hd : s.isDatum = true) {n : Nat} (hb : s.laneBusy n = true) (i f : Nat) :
    exec (.signalInstruction n i f) s = .next (s.setFlags [(i % 128, f % 32)]) := by
  rw [exec_signalInstruction, execSignalInstruction, State.inDatum_eq hd, if_pos hb]

theorem execCancelInstruction_busy {s : State} (hd : s.isDatum = true) {n : Nat} (hb : s.laneBusy n = true) (i : Nat)
    (ready : Bool) : exec (.cancelInstruction n i ready) s = .next (s.cancel (i % 128) ready) := by
  rw [exec_cancelInstruction, execCancelInstruction, State.inDatum_eq hd, if_pos hb]

theorem execTaskEnd_busy {s u v : State} (hd : s.isDatum = true) {n i : Nat} (hb : s.laneBusy n = true)
    (hi : i = s.get (LE_LANE_STAT_SLOT n))
    (hu : u = (if s.releaseLate = true then
        ({ s with sch := { s.sch with lateOut := s.sch.lateOut ++ (s.lane n).staged } } : State)
      else s.releaseAll (s.lane n).staged).used)
    (hv : v = (((u.put (SCH_SLOT_STAT_DONE_TICK i) 1).freeLane n).clearPending i).showSlot i 0) :
    exec (.taskEnd n) s = .next ((v.setFlags (v.targets i)).evalSlot i) := by
  have hend : s.releaseEnd n = u := hu.symm
  rw [exec_taskEnd, execTaskEnd, State.inDatum_eq hd]
  simp only [hb, Bool.not_true, Bool.false_eq_true, if_false, hend, ← hi, ssIdle, ← hv]

theorem laneIdle_commands {s : State} (hd : s.isDatum = true) {n : Nat} (hb : s.laneBusy n = false) (i f : Nat)
    (ready : Bool) : exec (.signalInstruction n i f) s = .next s ∧ exec (.taskEnd n) s = .next s ∧
      exec (.cancelInstruction n i ready) s = .next s := by
  refine ⟨?_, ?_, ?_⟩
  · rw [exec_signalInstruction, execSignalInstruction, State.inDatum_eq hd, hb]
    rfl
  · rw [exec_taskEnd, execTaskEnd, State.inDatum_eq hd, hb]
    rfl
  · rw [exec_cancelInstruction, execCancelInstruction, State.inDatum_eq hd, hb]
    rfl

/-! ### The dispatcher -/

theorem State.serveQueue_nil (s : State) (q k : Nat) : s.serveQueue q k [] = (s, k) := by
  cases k <;> rfl

theorem serveQueues_empty {s : State} {l : List Nat} (h : ∀ q ∈ l, s.queue q = []) (k : Nat) :
    l.foldl (fun r q => r.1.serveQueue q r.2 (r.1.queue q)) (s, k) = (s, k) := by
  induction l with
  | nil => rfl
  | cons q l ih =>
    rw [List.foldl_cons, h q List.mem_cons_self, State.serveQueue_nil]
    exact ih fun q' hq' => h q' (List.mem_cons_of_mem q hq')

/-- A head that may start on one lane alone starts there (R219). -/
theorem State.serveQueue_head {s : State} {i n : Nat} (hm : s.mayStart i = true) (hf : s.freeLanes i = [n]) (q k : Nat) :
    s.serveQueue q (k + 1) [i] = (((s.used.setQueue q []).startOn i n).showSlot i ssRunning, k) := by
  have hpick : [n].getD (s.free ([n].length - 1)) 0 = n := by
    have hzero : s.free 0 = 0 := Nat.mod_one _
    rw [List.length_singleton, Nat.sub_self, hzero]
    rfl
  simp only [State.serveQueue, hm, hf, hpick, List.isEmpty_cons, Bool.not_false, Bool.and_self, if_true,
    State.serveQueue_nil]

theorem execTaskDispatch_on {s : State} (hd : s.isDatum = true) (hen : s.cfgOn SCH_CTRL_EN = true) :
    exec .taskDispatch s = .next ((List.range 8).foldl (fun r q => r.1.serveQueue q r.2 (r.1.queue q)) (s, 4)).1 := by
  rw [exec_taskDispatch, execTaskDispatch, State.inDatum_eq hd, if_pos hen]

theorem execTaskDispatch_off {s : State} (hd : s.isDatum = true) (hen : s.cfgOn SCH_CTRL_EN = false) :
    exec .taskDispatch s = .next s := by
  rw [exec_taskDispatch, execTaskDispatch, State.inDatum_eq hd, hen]
  rfl

theorem execTaskDispatch_head {s u : State} (hd : s.isDatum = true) {i n : Nat} (hen : s.cfgOn SCH_CTRL_EN = true)
    (hq : s.queue 0 = [i]) (hm : s.mayStart i = true) (hf : s.freeLanes i = [n])
    (hu : u = ((s.used.setQueue 0 []).startOn i n).showSlot i ssRunning)
    (hrest : ∀ q : Nat, q ∈ [1, 2, 3, 4, 5, 6, 7] → u.queue q = []) : exec .taskDispatch s = .next u := by
  have hrange : List.range 8 = 0 :: [1, 2, 3, 4, 5, 6, 7] := rfl
  rw [execTaskDispatch_on hd hen, hrange, List.foldl_cons, hq, State.serveQueue_head hm hf, ← hu, serveQueues_empty hrest]

theorem execHeldInstanceEnqueue_first {s : State} (hd : s.isDatum = true) {i : Nat}
    (hi : ((List.range 128).find? fun i => s.instOf i = ssHeld &&
      (s.queue (s.prio i)).length < s.cfg (SCH_QDEPTH_DEPTH (s.prio i))) = some i) :
    exec .heldInstanceEnqueue s = .next ((s.setQueue (s.prio i) (s.queue (s.prio i) ++ [i])).showSlot i ssQueued) := by
  rw [exec_heldInstanceEnqueue, execHeldInstanceEnqueue, State.inDatum_eq hd]
  simp only [hi]

theorem execHeldInstanceEnqueue_none {s : State} (hd : s.isDatum = true)
    (h : ∀ i : Nat, i ∈ List.range 128 → s.instOf i = ssHeld →
      s.cfg (SCH_QDEPTH_DEPTH (s.prio i)) ≤ (s.queue (s.prio i)).length) :
    exec .heldInstanceEnqueue s = .next s := by
  have hnone : ((List.range 128).find? fun i => s.instOf i = ssHeld &&
      (s.queue (s.prio i)).length < s.cfg (SCH_QDEPTH_DEPTH (s.prio i))) = none := by
    refine List.find?_eq_none.mpr fun i hi hyes => ?_
    simp only [Bool.and_eq_true, decide_eq_true_eq] at hyes
    exact Nat.not_lt.mpr (h i hi hyes.1) hyes.2
  rw [exec_heldInstanceEnqueue, execHeldInstanceEnqueue, State.inDatum_eq hd]
  simp only [hnone]

/-! ### Cancel (R222) -/

/-- The slot leaves the queue that holds it, if one does. -/
def State.unqueued (s : State) (i : Nat) : State :=
  match s.queueOf i with
  | some q => s.setQueue q ((s.queue q).filter (· ≠ i))
  | none => s

theorem State.cancel_idle {s : State} {i : Nat} (hi : s.instOf i = ssIdle) :
    s.cancel i false = (((s.clearMask i).clearPending i).showSlot i ssIdle).count CANCEL_CNT := by
  unfold State.cancel
  simp [hi, ssIdle, ssQueued, ssHeld, ssRunning]

theorem State.cancel_ready {s : State} {i : Nat} (hi : s.instOf i = ssIdle) :
    s.cancel i true = (((s.clearMask i).count READY_CNT).count CANCEL_CNT).count READY_CANCEL := by
  unfold State.cancel
  simp [hi]

theorem State.cancel_queued {s : State} {i : Nat} (hi : s.instOf i = ssHeld ∨ s.instOf i = ssQueued) (ready : Bool) :
    s.cancel i ready = ((if (s.unqueued i).slotPending i = true then ((s.unqueued i).clearMask i).clearPending i
      else s.unqueued i).showSlot i ssIdle).count CANCEL_CNT := by
  have hidle : (decide (s.instOf i = ssIdle) && ready) = false := by
    obtain hi | hi := hi <;> rw [hi] <;> rfl
  have hwait : (decide (s.instOf i = ssQueued) || decide (s.instOf i = ssHeld)) = true := by
    obtain hi | hi := hi <;> rw [hi] <;> rfl
  unfold State.cancel
  simp only [hidle, hwait, Bool.false_eq_true, if_false, if_true]
  rfl

theorem State.cancel_running {s : State} {i : Nat} (hi : s.instOf i = ssRunning) (hp : s.slotPending i = false)
    (ready : Bool) : s.cancel i ready = s.count CANCEL_MISS := by
  unfold State.cancel
  simp [hi, hp, ssIdle, ssQueued, ssHeld, ssRunning]

theorem State.cancel_runningPending {s : State} {i : Nat} (hi : s.instOf i = ssRunning) (hp : s.slotPending i = true)
    (ready : Bool) :
    s.cancel i ready = (((s.clearMask i).clearPending i).showSlot i ssRunning).count CANCEL_CNT := by
  unfold State.cancel
  simp [hi, hp, ssIdle, ssQueued, ssHeld, ssRunning]

theorem execOverrunLimit_eq {s : State} (hd : s.isDatum = true) :
    exec .overrunLimit s = .next (if s.cfg LE_OVR_CFG_LIM ≤ s.get LE_STAT_OVR_RUN ∧ ¬ s.sch.ovrRaised then
      ({ s with sch := { s.sch with ovrRaised := true } } : State).raise 71 else s) := by
  rw [exec_overrunLimit, execOverrunLimit, State.inDatum_eq hd]

/-- Settles O44, command by command. -/
theorem schedulerCommandsComplete : Obligations.SchedulerCommandsComplete := by
  unfold Obligations.SchedulerCommandsComplete
  intro s hd
  refine ⟨fun i f hw => ?_, fun n i f hb => execSignalInstruction_busy hd hb i f, execTaskDispatch_on hd,
    fun i n u hen hq hm hf hu hrest => execTaskDispatch_head hd hen hq hm hf hu hrest, execTaskDispatch_off hd,
    fun i hi => execHeldInstanceEnqueue_first hd hi, execHeldInstanceEnqueue_none hd,
    fun n i u v hb hi hu hv => execTaskEnd_busy hd hb hi hu hv, fun i ready u _ hu => ?_,
    fun n i ready hb => execCancelInstruction_busy hd hb i ready, fun i ready hw => ?_, fun hlim hr => ?_, fun h => ?_,
    fun n i f r hb => laneIdle_commands hd hb i f r⟩
  · rw [exec_setFlag, execSetFlag, State.byWrite_here hw hd]
  · have hun : u = s.unqueued i := hu
    subst hun
    refine ⟨fun hi hr => ?_, fun hi hr => ?_, fun hi => State.cancel_queued hi ready,
      fun hi hp => State.cancel_running hi hp ready, fun hi hp => State.cancel_runningPending hi hp ready⟩
    · rw [hr, State.cancel_idle hi]
      rfl
    · rw [hr, State.cancel_ready hi]
  · rw [exec_slotCancel, execSlotCancel, State.byWrite_here hw hd]
  · rw [execOverrunLimit_eq hd, if_pos ⟨hlim, by simp [hr]⟩]
  · rw [execOverrunLimit_eq hd, if_neg]
    rintro ⟨hlim, hr⟩
    obtain h | h := h
    · omega
    · exact hr h

end Sys2Proof.Machine
end

section
/-! # The control units of a Datum (R233 to R248) -/

namespace Sys2Proof.Machine
open Sys2Proof

/-! ### Order generator and injector writes -/

theorem execOgLoad_beyond {s : State} (hd : s.isDatum = true) (hw : s.takesWrites = true) {n : Nat} (hn : 16 ≤ n) (v : Nat) :
    exec (.ogLoad n v) s = .next (s.emit (.done stBadParam)) := by
  rw [exec_ogLoad, execOgLoad, State.byWrite_here hw hd, if_pos hn]

theorem execOgLoad_eq {s : State} (hd : s.isDatum = true) (hw : s.takesWrites = true) {n : Nat} (hn : n < 16) (v : Nat) :
    exec (.ogLoad n v) s =
      .next ((wrOgLoad n (v % 2 ^ 32) s).2.emit (.done (wrOgLoad n (v % 2 ^ 32) s).1)) := by
  rw [exec_ogLoad, execOgLoad, State.byWrite_here hw hd, if_neg (Nat.not_le.mpr hn)]

theorem wrOgLoad_on {s : State} {n : Nat} (hen : s.cfgOn (OG_CH_CFG_EN n) = true) (v : Nat) :
    wrOgLoad n v s = (stBusy, s) := if_pos hen

theorem wrOgLoad_off {s : State} {n : Nat} (hen : s.cfgOn (OG_CH_CFG_EN n) = false) (v : Nat) :
    wrOgLoad n v s = (stOk, (s.setOg n { s.ogSt n with y := f64of32 v, r := 0, seg := 0, pend := false }).ogShow n) :=
  if_neg (by simp [hen])

theorem execInjArm_beyond {s : State} (hd : s.isDatum = true) (hw : s.takesWrites = true) {g : Nat} (hg : 4 ≤ g) :
    exec (.injArm g) s = .next (s.emit (.done stBadParam)) := by
  rw [exec_injArm, execInjArm, State.byWrite_here hw hd, if_pos hg]

theorem execInjArm_eq {s : State} (hd : s.isDatum = true) (hw : s.takesWrites = true) {g : Nat} (hg : g < 4) :
    exec (.injArm g) s = .next ((wrInjArm g s).2.emit (.done (wrInjArm g s).1)) := by
  rw [exec_injArm, execInjArm, State.byWrite_here hw hd, if_neg (Nat.not_le.mpr hg)]

section
variable {s : State} {g d : Nat} (hd : d = (s.get (INJ_GEN_START_VAL g) + 2 ^ 32 - s.tb.tick % 2 ^ 32) % 2 ^ 32)
include hd

theorem wrInjArm_near (h : d < 2 ∨ 2 ^ 31 ≤ d) : wrInjArm g s = (stBadParam, s) := by
  subst hd
  exact if_pos h

theorem wrInjArm_busy (h2 : 2 ≤ d) (h31 : d < 2 ^ 31)
    (h : s.on (INJ_GEN_STAT_ARMED g) = true ∨ s.on (INJ_GEN_STAT_RUN g) = true) : wrInjArm g s = (stBusy, s) := by
  have hahead : ¬ (d < 2 ∨ 2 ^ 31 ≤ d) := by omega
  subst hd
  exact (if_neg hahead).trans (if_pos (Bool.or_eq_true_iff.mpr h))

theorem wrInjArm_idle (h2 : 2 ≤ d) (h31 : d < 2 ^ 31) (ha : s.on (INJ_GEN_STAT_ARMED g) = false)
    (hr : s.on (INJ_GEN_STAT_RUN g) = false) :
    wrInjArm g s = (stOk, (s.setInj g {
      start := (s.tb.tick + d) % 2 ^ 64, lfsr := 2 ^ (prbsTaps (s.cfg (INJ_GEN_CFG_ORDER g))).1 - 1, value := 0 }).put (INJ_GEN_STAT_ARMED g) 1) := by
  have hahead : ¬ (d < 2 ∨ 2 ^ 31 ≤ d) := by omega
  have hidle : ¬ (s.on (INJ_GEN_STAT_ARMED g) || s.on (INJ_GEN_STAT_RUN g)) = true := by simp [ha, hr]
  subst hd
  exact (if_neg hahead).trans (if_neg hidle)

end

theorem execInjStop_eq {s : State} (hd : s.isDatum = true) (hw : s.takesWrites = true) {g : Nat} (hg : g < 4) :
    exec (.injStop g) s =
      .next (((s.put (INJ_GEN_STAT_ARMED g) 0).put (INJ_GEN_STAT_RUN g) 0).emit (.done stOk)) := by
  rw [exec_injStop, execInjStop, State.byWrite_here hw hd]
  simp only [Nat.not_le.mpr hg, if_false]

theorem execInjStop_beyond {s : State} (hd : s.isDatum = true) (hw : s.takesWrites = true) {g : Nat} (hg : 4 ≤ g) :
    exec (.injStop g) s = .next (s.emit (.done stBadParam)) := by
  rw [exec_injStop, execInjStop, State.byWrite_here hw hd]
  simp only [hg, if_true]

/-! ### One unit alone -/

theorem INJ_GEN_STAT_apart {g k : Nat} (h : g ≠ k) :
    (INJ_GEN_STAT_ARMED g).key ≠ (INJ_GEN_STAT_ARMED k).key ∧ (INJ_GEN_STAT_ARMED g).key ≠ (INJ_GEN_STAT_RUN k).key ∧
      (INJ_GEN_STAT_RUN g).key ≠ (INJ_GEN_STAT_RUN k).key ∧ (INJ_GEN_STAT_RUN g).key ≠ (INJ_GEN_STAT_DONE k).key := by
  simp only [Fld.key, INJ_GEN_STAT_ARMED, INJ_GEN_STAT_RUN, INJ_GEN_STAT_DONE]
  omega

/-- INJ_RUN_START for one generator (R238, R239). -/
def State.injStart1 (s : State) (g : Nat) : State :=
  if s.on (INJ_GEN_STAT_ARMED g) && (s.injSt g).start = s.tb.tick then
    if s.injBlocked then ((s.put (INJ_GEN_STAT_ARMED g) 0).put (INJ_GEN_STAT_ABORT g) 1).count INJ_ABORT
    else (s.put (INJ_GEN_STAT_ARMED g) 0).put (INJ_GEN_STAT_RUN g) 1
  else s

theorem execInjRunStart_eq {s : State} (hd : s.isDatum = true) :
    exec .injRunStart s = .next ((List.range 4).foldl State.injStart1 s) := by
  rw [exec_injRunStart, execInjRunStart, State.inDatum_eq hd]
  rfl

theorem State.injStart1_idle {s : State} {g : Nat} (h : s.on (INJ_GEN_STAT_ARMED g) = false) : s.injStart1 g = s := by
  unfold State.injStart1
  rw [h]
  rfl

theorem State.injStart1_runs {s : State} {g : Nat} (ha : s.on (INJ_GEN_STAT_ARMED g) = true)
    (ht : (s.injSt g).start = s.tb.tick) (hb : s.injBlocked = false) :
    s.injStart1 g = (s.put (INJ_GEN_STAT_ARMED g) 0).put (INJ_GEN_STAT_RUN g) 1 := by
  unfold State.injStart1
  simp only [ha, ht, hb, decide_true, Bool.and_self, if_true, Bool.false_eq_true, if_false]

theorem execInjRunStart_last {s : State} (hd : s.isDatum = true) (hrest : ∀ g < 3, s.on (INJ_GEN_STAT_ARMED g) = false)
    (ha : s.on (INJ_GEN_STAT_ARMED 3) = true) (ht : (s.injSt 3).start = s.tb.tick) (hb : s.injBlocked = false) :
    exec .injRunStart s = .next ((s.put (INJ_GEN_STAT_ARMED 3) 0).put (INJ_GEN_STAT_RUN 3) 1) := by
  have hlow {b : Nat} (hm : b ∈ List.range 4) (hne : b ≠ 3) : s.on (INJ_GEN_STAT_ARMED b) = false := by
    have := List.mem_range.mp hm
    exact hrest b (by omega)
  have hself : s.injStart1 3 = (s.put (INJ_GEN_STAT_ARMED 3) 0).put (INJ_GEN_STAT_RUN 3) 1 :=
    State.injStart1_runs ha ht hb
  rw [execInjRunStart_eq hd, foldl_only (a := 3) (by decide) (by decide)
    (fun b hm hne => State.injStart1_idle (hlow hm hne)) (fun b hm hne => State.injStart1_idle ?_), hself]
  obtain ⟨h1, h2, _, _⟩ := INJ_GEN_STAT_apart hne
  rw [hself, State.on_put_ne _ _ _ _ h2, State.on_put_ne _ _ _ _ h1]
  exact hlow hm hne

/-- INJ_RUN_END for one generator (R238). -/
def State.injEnd1 (s : State) (g : Nat) : State :=
  if s.on (INJ_GEN_STAT_RUN g) && s.cfg (INJ_GEN_DUR_VAL g) ≠ 0 && s.cfg (INJ_GEN_DUR_VAL g) ≤ s.injM g s.tb.tick then
    (s.put (INJ_GEN_STAT_RUN g) 0).put (INJ_GEN_STAT_DONE g) 1
  else s

theorem execInjRunEnd_eq {s : State} (hd : s.isDatum = true) :
    exec .injRunEnd s = .next ((List.range 4).foldl State.injEnd1 s) := by
  rw [exec_injRunEnd, execInjRunEnd, State.inDatum_eq hd]
  rfl

theorem State.injEnd1_idle {s : State} {g : Nat} (h : s.on (INJ_GEN_STAT_RUN g) = false) : s.injEnd1 g = s := by
  unfold State.injEnd1
  rw [h]
  rfl

theorem execInjRunEnd_last {s : State} (hd : s.isDatum = true) (hrest : ∀ g < 3, s.on (INJ_GEN_STAT_RUN g) = false)
    (hr : s.on (INJ_GEN_STAT_RUN 3) = true) (h0 : s.cfg (INJ_GEN_DUR_VAL 3) ≠ 0)
    (hdur : s.cfg (INJ_GEN_DUR_VAL 3) ≤ s.injM 3 s.tb.tick) :
    exec .injRunEnd s = .next ((s.put (INJ_GEN_STAT_RUN 3) 0).put (INJ_GEN_STAT_DONE 3) 1) := by
  have hlow {b : Nat} (hm : b ∈ List.range 4) (hne : b ≠ 3) : s.on (INJ_GEN_STAT_RUN b) = false := by
    have := List.mem_range.mp hm
    exact hrest b (by omega)
  have hself : s.injEnd1 3 = (s.put (INJ_GEN_STAT_RUN 3) 0).put (INJ_GEN_STAT_DONE 3) 1 := by
    have hends : (s.on (INJ_GEN_STAT_RUN 3) && s.cfg (INJ_GEN_DUR_VAL 3) ≠ 0 &&
        s.cfg (INJ_GEN_DUR_VAL 3) ≤ s.injM 3 s.tb.tick) = true := by
      simp only [hr, h0, hdur, ne_eq, not_false_eq_true, decide_true, Bool.and_self]
    exact if_pos hends
  rw [execInjRunEnd_eq hd, foldl_only (a := 3) (by decide) (by decide)
    (fun b hm hne => State.injEnd1_idle (hlow hm hne)) (fun b hm hne => State.injEnd1_idle ?_), hself]
  obtain ⟨_, _, h3, h4⟩ := INJ_GEN_STAT_apart hne
  rw [hself, State.on_put_ne _ _ _ _ h4, State.on_put_ne _ _ _ _ h3]
  exact hlow hm hne

/-- TRACKER_LOCK_CHANGE for one tracker (R248). -/
def State.lockChange1 (s : State) (t : Nat) : State :=
  if !(s.cfgOn CF_CTRL_ANG_EN && s.cfgOn (ANG_CFG_EN t)) || s.angLocked t = s.on (ANG_STAT_LOCK t) then s
  else if s.angLocked t then s.put (ANG_STAT_LOCK t) 1
  else s.dropLock t

theorem execTrackerLockChange_eq {s : State} (hd : s.isDatum = true) :
    exec .trackerLockChange s = .next ((List.range 2).foldl State.lockChange1 s) := by
  rw [exec_trackerLockChange, execTrackerLockChange, State.inDatum_eq hd]
  rfl

theorem State.lockChange1_off {s : State} {t : Nat} (h : s.cfgOn (ANG_CFG_EN t) = false) : s.lockChange1 t = s := by
  unfold State.lockChange1
  simp only [h, Bool.and_false, Bool.not_false, Bool.true_or, if_true]

theorem State.lockChange1_locks {s : State} {t : Nat} (hen : s.cfgOn CF_CTRL_ANG_EN = true)
    (hent : s.cfgOn (ANG_CFG_EN t) = true) (hl : s.angLocked t = true) (hs : s.on (ANG_STAT_LOCK t) = false) :
    s.lockChange1 t = s.put (ANG_STAT_LOCK t) 1 := by
  unfold State.lockChange1
  simp [hen, hent, hl, hs]

theorem execTrackerLockChange_second {s : State} (hd : s.isDatum = true) (hen : s.cfgOn CF_CTRL_ANG_EN = true)
    (h0 : s.cfgOn (ANG_CFG_EN 0) = false) (h1 : s.cfgOn (ANG_CFG_EN 1) = true) (hl : s.angLocked 1 = true)
    (hs : s.on (ANG_STAT_LOCK 1) = false) :
    exec .trackerLockChange s = .next (s.put (ANG_STAT_LOCK 1) 1) := by
  have hrange : List.range 2 = [0, 1] := rfl
  rw [execTrackerLockChange_eq hd, hrange, List.foldl_cons, State.lockChange1_off h0, List.foldl_cons, List.foldl_nil,
    State.lockChange1_locks hen h1 hl hs]

/-- Settles O46, command by command; of the folds over the units, one unit alone is the fold's only step. -/
theorem controlUnitsComplete : Obligations.ControlUnitsComplete := by
  unfold Obligations.ControlUnitsComplete
  intro s hd
  refine ⟨fun n v hw hn hv hen => ?_, fun n v hw hn hen => ?_, fun n v hw hn => execOgLoad_beyond hd hw hn v,
    fun g d hw hg hahead => ⟨fun h => ?_, fun h2 h31 h => ?_, fun h2 h31 ha hr => ?_⟩,
    fun g hw hg => execInjStop_eq hd hw hg, fun g hw hg => ⟨execInjArm_beyond hd hw hg, execInjStop_beyond hd hw hg⟩,
    execInjRunStart_eq hd, execInjRunEnd_eq hd, ?_, ?_, execTrackerLockChange_eq hd, execInjRunStart_last hd,
    execInjRunEnd_last hd, execTrackerLockChange_second hd⟩
  · rw [execOgLoad_eq hd hw hn, wrOgLoad_off hen, Nat.mod_eq_of_lt hv]
  · rw [execOgLoad_eq hd hw hn, wrOgLoad_on hen]
  · rw [execInjArm_eq hd hw hg, wrInjArm_near hahead h]
  · rw [execInjArm_eq hd hw hg, wrInjArm_busy hahead h2 h31 h]
  · rw [execInjArm_eq hd hw hg, wrInjArm_idle hahead h2 h31 ha hr]
  · exact (exec_rcPeriodChange s).trans (State.inDatum_eq hd _)
  · rw [exec_plausibilityFail, execPlausibilityFail, State.inDatum_eq hd]

end Sys2Proof.Machine
end

section
/-! # The messages of the Twin link (R252 to R267, R408) -/

namespace Sys2Proof.Machine
open Sys2Proof

theorem State.twinMsg_eq {s : State} (hd : s.isDatum = true) (hup : s.twinUp = true) (f : State → State) :
    s.twinMsg true f = .next (f s) := by
  rw [State.twinMsg, State.inDatum_eq hd]
  simp only [hup, Bool.not_true, Bool.false_eq_true, if_false, if_true]

theorem State.twinMsg_crc {s : State} (hd : s.isDatum = true) (hup : s.twinUp = true) (f : State → State) :
    s.twinMsg false f = .next (s.count TW_MSG_CRC) := by
  rw [State.twinMsg, State.inDatum_eq hd]
  simp only [hup, Bool.not_true, Bool.false_eq_true, if_false]

theorem State.twinMsg_down {s : State} (hd : s.isDatum = true) (hup : s.twinUp = false) (ok : Bool) (f : State → State) :
    s.twinMsg ok f = .next s := by
  rw [State.twinMsg, State.inDatum_eq hd]
  simp only [hup, Bool.not_false, if_true]

/-! ### DIGEST, SUMMARY and HEARTBEAT -/

theorem execHeartbeatReceive_good {s : State} (hd : s.isDatum = true) (hup : s.twinUp = true) (h : Heartbeat) (at' : Nat)
    {u v : State} (hu : u = s.heartbeatId h)
    (hv : v = ((({ u with tw := { u.tw with
        hb := some h, hbGot := u.tw.hbGot || (decide (h.tick = u.tb.tick) && u.tb.started && !u.tb.sampled),
        hbTold := false, enRun := none } } : State).put TW_STAT_HB_OK 1).put LS_STAT_TWIN_STATE h.state).put
          TW_STAT_TWIN_FAULT h.fault.toNat) :
    exec (.heartbeatReceive h at' true) s =
      .next ((((v.heartbeatLease h).heartbeatMode h).heartbeatJoin h).heartbeatAlign h at') := by
  subst hv hu
  rw [exec_heartbeatReceive, execHeartbeatReceive, State.twinMsg_eq hd hup]
  rfl

theorem execDigestReceive_good {s : State} (hd : s.isDatum = true) (hup : s.twinUp = true) (d : Digest) {u : State}
    (hu : u = (if s.tickBegun d.tick = true then s.count DIG_LATE else s)) :
    exec (.digestReceive d true) s = .next ({ u with tw := { u.tw with digTwin := some d } } : State).compareDigest := by
  subst hu
  rw [exec_digestReceive, execDigestReceive, State.twinMsg_eq hd hup]

theorem execSummaryReceive_eq {s : State} (hd : s.isDatum = true) (hup : s.twinUp = true) (tk : Nat) (arms : List Summary) :
    exec (.summaryReceive tk arms true) s = .next (if tk = s.tb.tick % 2 ^ 32 && s.tb.started && !s.tb.cutDone then
      ((List.range 6).foldl (fun s a => s.setArm a { s.armSt a with twin := arms[a]? }) s).routeEvent 4 else s) := by
  rw [exec_summaryReceive, execSummaryReceive, State.twinMsg_eq hd hup, State.tick32]

/-! ### CONTROL -/

section
variable {s : State} (hd : s.isDatum = true) (hup : s.twinUp = true)
include hd hup

theorem execControl_request (k : Nat) : exec (.controlReceive { kind := 1, tick := k } true) s =
    .next (if s.mayHandOver && (s.lease = lsFollow || s.lease = lsHold) then (s.agreeHandover k).control 2 k
      else s.control 3 k) := by
  rw [exec_controlReceive, execControlReceive, State.twinMsg_eq hd hup]
  rfl

theorem execControl_accept (k : Nat) : exec (.controlReceive { kind := 2, tick := k } true) s =
    .next (if s.tw.hoReq = some k then s.agreeHandover k else s) := by
  rw [exec_controlReceive, execControlReceive, State.twinMsg_eq hd hup]
  rfl

theorem execControl_refuse (k : Nat) : exec (.controlReceive { kind := 3, tick := k } true) s =
    .next (if s.tw.hoReq = some k then { s with tw := { s.tw with hoReq := none } } else s) := by
  rw [exec_controlReceive, execControlReceive, State.twinMsg_eq hd hup]
  rfl

theorem execControl_join (k : Nat) : exec (.controlReceive { kind := 4, tick := k } true) s =
    .next (if s.lease = lsHold && (s.tw.hb.map (·.idcrc)) = some s.idCrc then
      ({ s with tw := { s.tw with sweepAt := some 0, stateSent := false } } : State).control 5 0 else s.control 6 0) := by
  rw [exec_controlReceive, execControlReceive, State.twinMsg_eq hd hup]
  rfl

theorem execControl_joinRefused (k : Nat) : exec (.controlReceive { kind := 6, tick := k } true) s =
    .next (if s.mode = twJoin then s.put TW_STAT_MODE twNone else s) := by
  rw [exec_controlReceive, execControlReceive, State.twinMsg_eq hd hup]
  rfl

end

theorem execControl_agreed {s : State} (hd : s.isDatum = true) (hup : s.twinUp = true) {k : Nat}
    (hm : s.mayHandOver = true) (hl : s.lease = lsFollow ∨ s.lease = lsHold) :
    exec (.controlReceive { kind := 1, tick := k } true) s = .next ((s.agreeHandover k).control 2 k) := by
  rw [execControl_request hd hup, if_pos]
  obtain hl | hl := hl <;> simp [hm, hl]

theorem execControl_refused {s : State} (hd : s.isDatum = true) (hup : s.twinUp = true) {k : Nat}
    (h : s.mayHandOver = false ∨ s.lease = lsOff ∨ s.lease = lsClaim) :
    exec (.controlReceive { kind := 1, tick := k } true) s = .next (s.control 3 k) := by
  rw [execControl_request hd hup, if_neg]
  obtain h | h | h := h <;> simp [h, lsOff, lsClaim, lsFollow, lsHold]

/-! ### STATE and SWEEP -/

theorem execStateReceive_join {s : State} (hd : s.isDatum = true) (hup : s.twinUp = true) (hm : s.mode = twJoin)
    (m : StateMsg) : exec (.stateReceive m true) s = .next ((s.writeState m).joinState m) := by
  rw [exec_stateReceive, execStateReceive, State.twinMsg_eq hd hup, if_pos hm]

theorem execStateReceive_track {s : State} (hd : s.isDatum = true) (hup : s.twinUp = true) (hm : s.mode = twTrack)
    (m : StateMsg) : exec (.stateReceive m true) s = .next ({ s with tw := { s.tw with stTwin := some m } } : State).compareState := by
  have hne : s.mode ≠ twJoin := by rw [hm]; decide
  rw [exec_stateReceive, execStateReceive, State.twinMsg_eq hd hup, if_neg hne, if_pos hm]

theorem modeNone_ignored {s : State} (hd : s.isDatum = true) (hup : s.twinUp = true) (hm : s.mode = twNone)
    (m : StateMsg) (a : Nat) (bs : List Nat) :
    exec (.stateReceive m true) s = .next s ∧ exec (.sweepReceive a bs true) s = .next s := by
  have hj : s.mode ≠ twJoin := by rw [hm]; decide
  have ht : s.mode ≠ twTrack := by rw [hm]; decide
  exact ⟨by rw [exec_stateReceive, execStateReceive, State.twinMsg_eq hd hup, if_neg hj, if_neg ht],
    by rw [exec_sweepReceive, execSweepReceive, State.twinMsg_eq hd hup, if_neg hj]⟩

theorem execSweepReceive_join {s u : State} (hd : s.isDatum = true) (hup : s.twinUp = true) (hm : s.mode = twJoin)
    {a : Nat} {bs : List Nat} (hu : u = s.putLines a bs) :
    exec (.sweepReceive a bs true) s = .next { u with tw := { u.tw with sweepTo := u.tw.sweepTo + sweepSpan bs } } := by
  subst hu
  rw [exec_sweepReceive, execSweepReceive, State.twinMsg_eq hd hup, if_pos hm]

/-! ### SHARE -/

theorem execShareReceive_taken {s : State} (hd : s.isDatum = true) (hup : s.twinUp = true) {m : Share}
    (hs : s.takesShare = true) (ht : m.tick = s.tb.tick % 2 ^ 32)
    (hn : s.now ≤ s.tb.tickStart + s.cfg TB_SAMPLE_S + s.cfg TW_SHTO_SHTO) (hen : s.cfgOn (AD_SEQ_DEST_EN m.conv) = true)
    (hserved : s.tw.served.contains m.conv = false) (hlate : s.tw.late.contains m.conv = false) :
    exec (.shareReceive m true) s = .next ((({ s with tw := { s.tw with served := addOnce s.tw.served m.conv } } :
      State).copyResults m.conv m.res).routeEvent 3) := by
  rw [exec_shareReceive, execShareReceive, State.twinMsg_eq hd hup]
  simp only [hs, ht, State.tick32, State.shareLimit, hn, hen, hserved, hlate, decide_true, Bool.not_false, Bool.and_self,
    if_true]

theorem execShareReceive_dropped {s : State} (hd : s.isDatum = true) (hup : s.twinUp = true) {m : Share}
    (h : s.takesShare = false ∨ m.tick ≠ s.tb.tick % 2 ^ 32 ∨
      s.tb.tickStart + s.cfg TB_SAMPLE_S + s.cfg TW_SHTO_SHTO < s.now ∨ s.cfgOn (AD_SEQ_DEST_EN m.conv) = false ∨
      s.tw.served.contains m.conv = true ∨ s.tw.late.contains m.conv = true) :
    exec (.shareReceive m true) s = .next s := by
  rw [exec_shareReceive, execShareReceive, State.twinMsg_eq hd hup, if_neg]
  intro hall
  simp only [Bool.and_eq_true, Bool.not_eq_true', State.shareLimit, State.tick32] at hall
  obtain ⟨⟨⟨⟨⟨hs, ht⟩, hn⟩, hen⟩, hserved⟩, hlate⟩ := hall
  obtain h | h | h | h | h | h := h
  · exact Bool.false_ne_true (h.symm.trans hs)
  · exact h (of_decide_eq_true ht)
  · exact Nat.not_lt.mpr (of_decide_eq_true hn) h
  · exact Bool.false_ne_true (h.symm.trans hen)
  · exact Bool.false_ne_true (hserved.symm.trans h)
  · exact Bool.false_ne_true (hlate.symm.trans h)

theorem State.count_tw (s : State) (f : Fld) : (s.count f).tw = s.tw := (congrArg State.tw (s.count_withLive f) :)

theorem execShareTimeout_due {s u v : State} (hd : s.isDatum = true) {n : Nat} (hs : s.takesShare = true)
    (hsamp : s.tb.sampled = true) (hen : s.cfgOn (AD_SEQ_DEST_EN n) = true) (hserved : s.tw.served.contains n = false)
    (hlate : s.tw.late.contains n = false)
    (hv : v = s.advance (s.tb.tickStart + s.cfg TB_SAMPLE_S + s.cfg TW_SHTO_SHTO))
    (hu : u = ({ v with tw := { v.tw with late := addOnce v.tw.late n } } : State).count SHARE_LATE) :
    (∀ r, kget s.tw.withheld n = some r → exec (.shareTimeout n) s = .next (u.copyResults n r)) ∧
      (kget s.tw.withheld n = none → exec (.shareTimeout n) s = .next u) := by
  have hwith : u.tw.withheld = s.tw.withheld := by
    subst hu
    rw [State.count_tw]
    subst hv
    exact (congrArg TwSt.withheld (State.advance_tw s _) :)
  refine ⟨fun r hr => ?_, fun hnone => ?_⟩
  · rw [exec_shareTimeout, execShareTimeout, State.inDatum_eq hd]
    simp only [hs, hsamp, hen, hserved, hlate, Bool.not_false, Bool.and_self, if_true, State.shareLimit, ← hv, ← hu, hwith, hr]
  · rw [exec_shareTimeout, execShareTimeout, State.inDatum_eq hd]
    simp only [hs, hsamp, hen, hserved, hlate, Bool.not_false, Bool.and_self, if_true, State.shareLimit, ← hv, ← hu, hwith,
      hnone]

theorem execShareTimeout_none {s : State} (hd : s.isDatum = true) {n : Nat}
    (h : s.takesShare = false ∨ s.tb.sampled = false ∨ s.cfgOn (AD_SEQ_DEST_EN n) = false ∨
      s.tw.served.contains n = true ∨ s.tw.late.contains n = true) : exec (.shareTimeout n) s = .next s := by
  rw [exec_shareTimeout, execShareTimeout, State.inDatum_eq hd]
  refine congrArg Host.Outcome.next (if_neg fun hall => ?_)
  simp only [Bool.and_eq_true, Bool.not_eq_true'] at hall
  obtain ⟨⟨⟨⟨hs, hsamp⟩, hen⟩, hserved⟩, hlate⟩ := hall
  obtain h | h | h | h | h := h
  · exact Bool.false_ne_true (h.symm.trans hs)
  · exact Bool.false_ne_true (h.symm.trans hsamp)
  · exact Bool.false_ne_true (h.symm.trans hen)
  · exact Bool.false_ne_true (hserved.symm.trans h)
  · exact Bool.false_ne_true (hlate.symm.trans h)

theorem twinDown_ignored {s : State} (hd : s.isDatum = true) (hup : s.twinUp = false) (h : Heartbeat) (at' : Nat) (sh : Share)
    (d : Digest) (tk : Nat) (arms : List Summary) (c : Control) (st : StateMsg) (a : Nat) (bs : List Nat) (b : Bool) :
    exec (.heartbeatReceive h at' b) s = .next s ∧ exec (.shareReceive sh b) s = .next s ∧
      exec (.digestReceive d b) s = .next s ∧ exec (.summaryReceive tk arms b) s = .next s ∧
      exec (.controlReceive c b) s = .next s ∧ exec (.stateReceive st b) s = .next s ∧
      exec (.sweepReceive a bs b) s = .next s :=
  ⟨(exec_heartbeatReceive h at' b s).trans (State.twinMsg_down hd hup b _),
    (exec_shareReceive sh b s).trans (State.twinMsg_down hd hup b _),
    (exec_digestReceive d b s).trans (State.twinMsg_down hd hup b _),
    (exec_summaryReceive tk arms b s).trans (State.twinMsg_down hd hup b _),
    (exec_controlReceive c b s).trans (State.twinMsg_down hd hup b _),
    (exec_stateReceive st b s).trans (State.twinMsg_down hd hup b _),
    (exec_sweepReceive a bs b s).trans (State.twinMsg_down hd hup b _)⟩

theorem twinCrc_counted {s : State} (hd : s.isDatum = true) (hup : s.twinUp = true) (h : Heartbeat) (at' : Nat) (sh : Share)
    (d : Digest) (tk : Nat) (arms : List Summary) (c : Control) (st : StateMsg) (a : Nat) (bs : List Nat) :
    exec (.heartbeatReceive h at' false) s = .next (s.count TW_MSG_CRC) ∧
      exec (.shareReceive sh false) s = .next (s.count TW_MSG_CRC) ∧
      exec (.digestReceive d false) s = .next (s.count TW_MSG_CRC) ∧
      exec (.summaryReceive tk arms false) s = .next (s.count TW_MSG_CRC) ∧
      exec (.controlReceive c false) s = .next (s.count TW_MSG_CRC) ∧
      exec (.stateReceive st false) s = .next (s.count TW_MSG_CRC) ∧
      exec (.sweepReceive a bs false) s = .next (s.count TW_MSG_CRC) :=
  ⟨(exec_heartbeatReceive h at' false s).trans (State.twinMsg_crc hd hup _),
    (exec_shareReceive sh false s).trans (State.twinMsg_crc hd hup _),
    (exec_digestReceive d false s).trans (State.twinMsg_crc hd hup _),
    (exec_summaryReceive tk arms false s).trans (State.twinMsg_crc hd hup _),
    (exec_controlReceive c false s).trans (State.twinMsg_crc hd hup _),
    (exec_stateReceive st false s).trans (State.twinMsg_crc hd hup _),
    (exec_sweepReceive a bs false s).trans (State.twinMsg_crc hd hup _)⟩

/-- Settles O47, message by message. -/
theorem twinMessagesComplete : Obligations.TwinMessagesComplete := by
  unfold Obligations.TwinMessagesComplete
  intro s hd
  refine ⟨fun h at' sh d tk arms c st a bs b hup => twinDown_ignored hd hup h at' sh d tk arms c st a bs b,
    fun h at' sh d tk arms c st a bs hup => twinCrc_counted hd hup h at' sh d tk arms c st a bs,
    fun h at' u v hup hu hv => execHeartbeatReceive_good hd hup h at' hu hv,
    fun d u hup hu => execDigestReceive_good hd hup d hu, fun tk arms hup ht hst hcut => ?_, fun tk arms hup h => ?_,
    fun k hup hm hl => execControl_agreed hd hup hm hl, fun k hup h => execControl_refused hd hup h,
    fun k hup hreq => ⟨?_, ?_⟩, fun k hup hreq => ⟨?_, ?_⟩, fun k h hup hl hhb hid => ?_, fun k hup hl => ?_,
    fun k hup => execControl_joinRefused hd hup k, fun m hup hm => execStateReceive_join hd hup hm m,
    fun m hup hm => execStateReceive_track hd hup hm m, fun m a bs hup hm => modeNone_ignored hd hup hm m a bs,
    fun a bs u hup hm hu => execSweepReceive_join hd hup hm hu,
    fun m hup hs ht hn hen hserved hlate => execShareReceive_taken hd hup hs ht hn hen hserved hlate,
    fun m hup h => execShareReceive_dropped hd hup h,
    fun n v u hs hsamp hen hserved hlate hv hu => execShareTimeout_due hd hs hsamp hen hserved hlate hv hu,
    fun n h => execShareTimeout_none hd h⟩
  · rw [execSummaryReceive_eq hd hup, if_pos (by simp [ht, hst, hcut])]
  · rw [execSummaryReceive_eq hd hup, if_neg]
    intro hall
    simp only [Bool.and_eq_true, Bool.not_eq_true'] at hall
    obtain ⟨⟨ht, hst⟩, hcut⟩ := hall
    obtain h | h | h := h
    · exact h (of_decide_eq_true ht)
    · exact Bool.false_ne_true (h.symm.trans hst)
    · exact Bool.false_ne_true (hcut.symm.trans h)
  · rw [execControl_accept hd hup, if_pos hreq, State.agreeHandover]
  · rw [execControl_refuse hd hup, if_pos hreq]
  · rw [execControl_accept hd hup, if_neg hreq]
  · rw [execControl_refuse hd hup, if_neg hreq]
  · rw [execControl_join hd hup, if_pos (by simp [hl, hhb, hid])]
    rfl
  · rw [execControl_join hd hup, if_neg (by simp [hl])]
    rfl

end Sys2Proof.Machine
end

section
/-! # The lease, handover and the join (R253 to R267) -/

namespace Sys2Proof.Machine
open Sys2Proof

/-! ### Losses and the match -/

theorem execHeartbeatLoss_eq {s : State} (hd : s.isDatum = true) :
    exec .heartbeatLoss s = .next (if s.cfg TW_CFG_HBLOSS ≤ s.tw.hbRun && !s.tw.hbTold then s.loseHeartbeat else s) := by
  rw [exec_heartbeatLoss, execHeartbeatLoss, State.inDatum_eq hd]

theorem State.loseHeartbeat_eq {s u v w : State} (hu : u = ((s.put TW_STAT_HB_OK 0).raise 161).endHandover)
    (hv : v = (if u.mode = twJoin then u.abandonJoin else u.put TW_STAT_MODE twNone))
    (hw : w = ({ v with tw := { v.tw with hbTold := true, wait := false, sweepAt := none } } : State)) :
    s.loseHeartbeat = if w.lease = lsFollow ∨ w.lease = lsHold then
      w.enterLease lsClaim ((w.get LS_EPOCH_EPOCH + 1) % 2 ^ 32) else w := by
  rw [State.loseHeartbeat]
  simp only [← hu, ← hv, ← hw, Bool.or_eq_true, decide_eq_true_eq, State.claimNext, nextEpoch]

theorem execMatchWindowExpiry_eq {s : State} (hd : s.isDatum = true) :
    exec .matchWindowExpiry s = .next (if s.cfg TW_CFG_MWIN ≤ s.tw.silent then s.loseMatch else s) := by
  rw [exec_matchWindowExpiry, execMatchWindowExpiry, State.inDatum_eq hd]

theorem State.loseMatch_matched {s : State} (hm : s.on TW_STAT_MATCH = true) :
    s.loseMatch = ((({ s with tw := { s.tw with cause := true, run := 0 } } : State).put TW_STAT_MATCH 0).count
      MATCH_LOSS).raise 164 := if_pos hm

theorem State.loseMatch_unmatched {s : State} (hm : s.on TW_STAT_MATCH = false) :
    s.loseMatch = { s with tw := { s.tw with cause := true, run := 0 } } :=
  if_neg fun h => Bool.false_ne_true (hm.symm.trans h)

theorem execMatchAcquire_eq {s : State} (hd : s.isDatum = true) :
    exec .matchAcquire s = .next (if s.cfg TW_CFG_MREQ ≤ s.tw.run && s.mode ≠ twJoin && s.cfgOn TW_CTRL_EN &&
      s.cfgOn LS_CTRL_EN then s.put TW_STAT_MATCH 1 else s) := by
  rw [exec_matchAcquire, execMatchAcquire, State.inDatum_eq hd]

theorem execTwinSilence_eq {s : State} (hd : s.isDatum = true) :
    exec .twinSilence s = .next (if s.lease = lsFollow && !s.on TW_STAT_HB_OK && s.cfg TW_CFG_HBLOSS ≤ s.tw.noFrames
      then s.claimNext else s) := by
  rw [exec_twinSilence, execTwinSilence, State.inDatum_eq hd]

theorem execClaimTimeout_eq {s : State} (hd : s.isDatum = true) :
    exec .claimTimeout s = .next (if s.lease = lsClaim && s.cfg LS_CFG_CLAIMTO ≤ s.tw.stateRun && !s.tw.claimTold then
      ({ s with tw := { s.tw with claimTold := true } } : State).raise 163 else s) := by
  rw [exec_claimTimeout, execClaimTimeout, State.inDatum_eq hd]

/-! ### Handover -/

theorem wrHandover_notHolder {s : State} (hl : s.lease ≠ lsHold) : wrHandover s = (stNotHolder, s) := if_pos hl

theorem wrHandover_busy {s : State} (hl : s.lease = lsHold) (hm : s.mayHandOver = false) :
    wrHandover s = (stBusy, s) :=
  (if_neg fun h => h hl).trans (if_pos (by rw [hm]; rfl))

theorem wrHandover_taken {s : State} (hl : s.lease = lsHold) (hm : s.mayHandOver = true) :
    wrHandover s = (stOk, s.requestHandover) :=
  (if_neg fun h => h hl).trans (if_neg (by simp [hm]))

theorem execHandoverWrite_eq {s : State} (hd : s.isDatum = true) (hw : s.takesWrites = true) :
    exec .handoverWrite s = .next ((wrHandover s).2.emit (.done (wrHandover s).1)) := by
  rw [exec_handoverWrite, execHandoverWrite, State.byWrite_here hw hd]

theorem execRevertHoldExpiry_eq {s : State} (hd : s.isDatum = true) :
    exec .revertHoldExpiry s = .next (if s.on LS_STAT_PREF && s.lease = lsFollow && s.cfgOn LS_CTRL_REV_EN &&
      !s.on TW_STAT_PREF_CONFLICT && s.mayHandOver then s.requestHandover else s) := by
  rw [exec_revertHoldExpiry, execRevertHoldExpiry, State.inDatum_eq hd]

theorem State.requestHandover_at {s : State} {k : Nat} (hk : k = (s.tb.tick + 4) % 2 ^ 32) :
    s.requestHandover =
      ({ s with tw := { s.tw with hoReq := some k } } : State).twinSend (.control { kind := 1, tick := k }) := by
  subst hk
  rfl

section
variable {s : State} (hd : s.isDatum = true) {k : Nat}
include hd

theorem execHandoverRelease_holder (hho : s.tw.ho = some (k, false)) (hk : s.atTick k = true) (hl : s.lease = lsHold) :
    exec .handoverRelease s = .next (s.endHandover.enterLease lsFollow (nextEpoch (s.get LS_EPOCH_EPOCH))) := by
  rw [exec_handoverRelease, execHandoverRelease, State.inDatum_eq hd]
  simp only [hho, hk, hl, Bool.not_true, Bool.false_eq_true, if_false, if_true]

theorem execHandoverRelease_left (hho : s.tw.ho = some (k, false)) (hk : s.atTick k = true) (hl : s.lease ≠ lsHold) :
    exec .handoverRelease s = .next s.endHandover := by
  rw [exec_handoverRelease, execHandoverRelease, State.inDatum_eq hd]
  simp only [hho, hk, hl, Bool.not_true, Bool.false_eq_true, if_false]

theorem execHandoverClaim_follower {u : State} (hho : s.tw.ho = some (k, true)) (hk : s.atTick ((k + 1) % 2 ^ 32) = true)
    (hl : s.lease = lsFollow) (hu : u = s.endHandover.enterLease lsClaim (nextEpoch s.tw.hoEpoch)) :
    exec .handoverClaim s = .next { u with tw := { u.tw with hoTake := true } } := by
  subst hu
  rw [exec_handoverClaim, execHandoverClaim, State.inDatum_eq hd]
  simp only [hho, hk, hl, Bool.not_true, Bool.false_eq_true, if_false, if_true]

theorem execHandoverClaim_left (hho : s.tw.ho = some (k, true)) (hk : s.atTick ((k + 1) % 2 ^ 32) = true)
    (hl : s.lease ≠ lsFollow) : exec .handoverClaim s = .next s.endHandover := by
  rw [exec_handoverClaim, execHandoverClaim, State.inDatum_eq hd]
  simp only [hho, hk, hl, Bool.not_true, Bool.false_eq_true, if_false]

theorem handover_none (hho : s.tw.ho = none) :
    exec .handoverRelease s = .next s ∧ exec .handoverClaim s = .next s := by
  refine ⟨?_, ?_⟩
  · rw [exec_handoverRelease, execHandoverRelease, State.inDatum_eq hd]
    simp only [hho]
  · rw [exec_handoverClaim, execHandoverClaim, State.inDatum_eq hd]
    simp only [hho]

end

/-- Settles O48, command by command. -/
theorem leaseCommandsComplete : Obligations.LeaseCommandsComplete := by
  unfold Obligations.LeaseCommandsComplete
  intro s hd
  refine ⟨fun u v w hrun ht hu hv hw => ?_, fun h => ?_, fun hs hm => ?_, fun hs hm => ?_, fun hs => ?_,
    fun hr hm he hl => ?_, fun h => ?_, fun hl hh hn => ?_, fun h => ?_, fun hl hr ht => ?_, fun h => ?_, fun hw hl => ?_,
    fun hw hl hm => ?_, fun k hw hl hm hk => ?_, fun k hp hl he hc hm hk => ?_, fun h => ?_,
    fun k hho hk hl => execHandoverRelease_holder hd hho hk hl, fun k hho hk hl => execHandoverRelease_left hd hho hk hl,
    handover_none hd, fun k u hho hk hl hu => execHandoverClaim_follower hd hho hk hl hu,
    fun k hho hk hl => execHandoverClaim_left hd hho hk hl⟩
  · rw [execHeartbeatLoss_eq hd, if_pos (by simp [hrun, ht]), State.loseHeartbeat_eq hu hv hw]
  · rw [execHeartbeatLoss_eq hd, if_neg]
    obtain h | h := h
    · simp [Nat.not_le.mpr h]
    · simp [h]
  · rw [execMatchWindowExpiry_eq hd, if_pos hs, State.loseMatch_matched hm]
  · rw [execMatchWindowExpiry_eq hd, if_pos hs, State.loseMatch_unmatched hm]
  · rw [execMatchWindowExpiry_eq hd, if_neg (Nat.not_le.mpr hs)]
  · rw [execMatchAcquire_eq hd, if_pos (by simp [hr, hm, he, hl])]
  · rw [execMatchAcquire_eq hd, if_neg]
    obtain h | h := h
    · simp [Nat.not_le.mpr h]
    · obtain h | h | h := h <;> simp [h]
  · rw [execTwinSilence_eq hd, if_pos (by simp [hl, hh, hn]), State.claimNext, nextEpoch]
  · rw [execTwinSilence_eq hd, if_neg]
    obtain h | h | h := h <;> simp [h]
  · rw [execClaimTimeout_eq hd, if_pos (by simp [hl, hr, ht])]
  · rw [execClaimTimeout_eq hd, if_neg]
    obtain h | h | h := h
    · simp [h]
    · simp [Nat.not_le.mpr h]
    · simp [h]
  · rw [execHandoverWrite_eq hd hw, wrHandover_notHolder hl]
  · rw [execHandoverWrite_eq hd hw, wrHandover_busy hl hm]
  · rw [execHandoverWrite_eq hd hw, wrHandover_taken hl hm, State.requestHandover_at hk]
  · rw [execRevertHoldExpiry_eq hd, if_pos (by simp [hp, hl, he, hc, hm]), State.requestHandover_at hk]
  · rw [execRevertHoldExpiry_eq hd, if_neg]
    obtain h | h | h | h | h := h <;> simp [h]

/-! ### The join -/

theorem execJoinWrite_eq {s : State} (hd : s.isDatum = true) (hw : s.takesWrites = true) :
    exec .joinWrite s = .next ((wrJoin s).2.emit (.done (wrJoin s).1)) := by
  rw [exec_joinWrite, execJoinWrite, State.byWrite_here hw hd]

section
variable {s : State} {h : Heartbeat}

theorem wrJoin_enters (hok : s.on TW_STAT_HB_OK = true) (hhb : s.tw.hb = some h) (hid : h.idcrc = s.idCrc)
    (hst : h.state = lsHold) (hm : s.mode ≠ twJoin) : wrJoin s = (stOk, s.enterJoin) := by
  unfold wrJoin
  simp [hhb, hok, hid, hst, hm]

theorem wrJoin_incompatible (hok : s.on TW_STAT_HB_OK = true) (hhb : s.tw.hb = some h) (hid : h.idcrc ≠ s.idCrc) :
    wrJoin s = (stIncompatible, s.raise 165) := by
  unfold wrJoin
  simp only [hhb, hok, hid, ne_eq, not_false_eq_true, if_true]

theorem wrJoin_busy (hhb : s.tw.hb = some h) (hid : h.idcrc = s.idCrc) (hb : h.state ≠ lsHold ∨ s.mode = twJoin) :
    wrJoin s = (stBusy, s) := by
  have hbusy : (decide (h.state ≠ lsHold) || decide (s.mode = twJoin)) = true := by
    obtain hb | hb := hb <;> simp [hb]
  unfold wrJoin
  simp only [hhb, hid, ne_eq, not_true_eq_false, if_false] at hbusy ⊢
  simp only [hbusy, if_true, ite_self]

theorem wrJoin_unheard (hno : s.on TW_STAT_HB_OK = false ∨ s.tw.hb = none) : wrJoin s = (stBusy, s) := by
  unfold wrJoin
  split
  next m hm =>
    obtain hno | hno := hno
    · simp only [hno, Bool.false_eq_true, if_false]
    · rw [hno] at hm
      cases hm
  next => rfl

end

theorem State.sweepOpen_eq (s : State) : s.sweepOpen = true ↔ s.tw.stateSent = true ∧
    (s.tb.cutDone = true ∨ s.now + 100 ≤ s.tb.nextStart - s.cfg TB_CUTOFF_LEAD) := by
  simp only [State.sweepOpen, Bool.and_eq_true, Bool.or_eq_true, decide_eq_true_eq]

theorem execSweepSend_open {s : State} (hd : s.isDatum = true) {n k : Nat} {ms : List (Nat × List Nat)}
    (hat : s.tw.sweepAt = some n) (hl : s.lease = lsHold) (hup : s.twinUp = true) (hm : s.twinMode = twJoin)
    (hopen : s.sweepOpen = true) (hms : ms = s.sweepMsgs 65 n (32768 - s.tw.sweepNow))
    (hk : k = (ms.map fun e => sweepSpan e.2).sum) :
    exec .sweepSend s = .next ((ms.foldl (fun s e => s.twinSend (.sweep e.1 e.2)) ({ s with tw := { s.tw with
        sweepAt := some (n + k), sweepNow := s.tw.sweepNow + k } } : State)).badWords
          ((ms.filter (·.2.isEmpty)).map (·.1))) := by
  rw [exec_sweepSend, execSweepSend, State.inDatum_eq hd]
  simp only [hat, hl, hup, hm, hopen, decide_true, Bool.and_self, if_true, ← hms, ← hk]

theorem execSweepSend_none {s : State} (hd : s.isDatum = true)
    (h : s.tw.sweepAt = none ∨ s.lease ≠ lsHold ∨ s.twinUp = false ∨ s.twinMode ≠ twJoin ∨ s.tw.stateSent = false ∨
      (s.tb.cutDone = false ∧ s.tb.nextStart - s.cfg TB_CUTOFF_LEAD < s.now + 100)) :
    exec .sweepSend s = .next s := by
  rw [exec_sweepSend, execSweepSend, State.inDatum_eq hd]
  split
  next n hat =>
    refine congrArg Host.Outcome.next (if_neg fun hall => ?_)
    simp only [Bool.and_eq_true, decide_eq_true_eq, State.sweepOpen_eq] at hall
    obtain ⟨⟨⟨hl, hup⟩, hm⟩, hsent, hopen⟩ := hall
    obtain h | h | h | h | h | ⟨hc, hlate⟩ := h
    · rw [h] at hat
      cases hat
    · exact h hl
    · exact Bool.false_ne_true (h.symm.trans hup)
    · exact h hm
    · exact Bool.false_ne_true (h.symm.trans hsent)
    · obtain h | h := hopen
      · exact Bool.false_ne_true (hc.symm.trans h)
      · omega
  next => rfl

/-- The Datum is in JOIN with the whole sweep, in a tick before its cut-off (R264). -/
def State.swept (s : State) : Bool :=
  s.mode = twJoin && s.sweepDone && s.on TW_STAT_HB_OK && s.tb.started && !s.tb.cutDone

theorem execJoinComplete_unswept {s : State} (hd : s.isDatum = true)
    (h : s.mode ≠ twJoin ∨ s.tw.sweepTo < s.sweepTotal ∨ s.on TW_STAT_HB_OK = false ∨ s.tb.started = false ∨
      s.tb.cutDone = true) : exec .joinComplete s = .next s := by
  rw [exec_joinComplete, execJoinComplete, State.inDatum_eq hd]
  refine congrArg Host.Outcome.next (if_neg fun hall => ?_)
  simp only [Bool.and_eq_true, decide_eq_true_eq, Bool.not_eq_true', State.sweepDone] at hall
  obtain ⟨⟨⟨⟨hm, hsw⟩, hok⟩, hst⟩, hcut⟩ := hall
  obtain h | h | h | h | h := h
  · exact h hm
  · omega
  · exact Bool.false_ne_true (h.symm.trans hok)
  · exact Bool.false_ne_true (h.symm.trans hst)
  · exact Bool.false_ne_true (hcut.symm.trans h)

theorem State.swept_eq {s : State} (hm : s.mode = twJoin) (hsw : s.sweepTotal ≤ s.tw.sweepTo)
    (hok : s.on TW_STAT_HB_OK = true) (hst : s.tb.started = true) (hcut : s.tb.cutDone = false) : s.swept = true := by
  simp only [State.swept, State.sweepDone, hm, hsw, hok, hst, hcut, decide_true, Bool.not_false, Bool.and_self]

theorem execJoinComplete_last {s : State} (hd : s.isDatum = true) (hsw : s.swept = true) {k : Nat} {last : Bool}
    (hgot : s.tw.stGot = some (k, last)) (hk : (k + 1) % 2 ^ 64 = s.tb.tick) :
    exec .joinComplete s = .next (if last then s.joined else s) := by
  have hcut : s.lastCut k = true := decide_eq_true hk
  rw [exec_joinComplete, execJoinComplete, State.inDatum_eq hd]
  refine congrArg Host.Outcome.next ((if_pos hsw).trans ?_)
  simp only [hgot, hcut, Bool.not_true, Bool.false_eq_true, if_false]

theorem execJoinComplete_waits {s : State} (hd : s.isDatum = true) (hsw : s.swept = true)
    (h : ∀ (k : Nat) (b : Bool), s.tw.stGot = some (k, b) → (k + 1) % 2 ^ 64 ≠ s.tb.tick) :
    exec .joinComplete s = .next { s with tw := { s.tw with wait := true } } := by
  rw [exec_joinComplete, execJoinComplete, State.inDatum_eq hd]
  refine congrArg Host.Outcome.next ((if_pos hsw).trans ?_)
  split
  next k b hgot =>
    have hcut : s.lastCut k = false := decide_eq_false (h k b hgot)
    simp only [hcut, Bool.not_false, if_true]
  next => rfl

theorem execJoinComplete_dirty {s : State} (hd : s.isDatum = true) {k : Nat} (hgot : s.tw.stGot = some (k, false))
    (hk : (k + 1) % 2 ^ 64 = s.tb.tick) : exec .joinComplete s = .next s := by
  cases hsw : s.swept
  · rw [exec_joinComplete, execJoinComplete, State.inDatum_eq hd]
    exact congrArg Host.Outcome.next (if_neg fun h => Bool.false_ne_true (hsw.symm.trans h))
  · exact execJoinComplete_last hd hsw hgot hk

theorem State.joined_eq {s u : State} {h : Heartbeat} (hhb : s.tw.hb = some h)
    (hu : u = (s.put TW_STAT_MODE twTrack).enterLease lsFollow h.epoch) :
    s.joined = { u with tw := { u.tw with joinTick := some s.tb.tick, wait := false } } := by
  subst hu
  rw [State.joined, hhb]
  rfl

theorem execJoinTimeout_eq {s : State} (hd : s.isDatum = true) :
    exec .joinTimeout s = .next (if s.mode = twJoin then s.abandonJoin else s) := by
  rw [exec_joinTimeout, execJoinTimeout, State.inDatum_eq hd]

/-- Settles O49, command by command. -/
theorem joinCommandsComplete : Obligations.JoinCommandsComplete := by
  unfold Obligations.JoinCommandsComplete
  intro s hd
  refine ⟨fun h hw hok hhb hid hst hm => ?_, fun h hw hok hhb hid => ?_, fun h hw hhb hid hb => ?_, fun hw hno => ?_,
    fun n k ms hat hl hup hm hsent hopen hms hk =>
      execSweepSend_open hd hat hl hup hm ((State.sweepOpen_eq s).mpr ⟨hsent, hopen⟩) hms hk,
    execSweepSend_none hd, fun h k u hm hsw hok hhb hst hcut hgot hk hu => ?_,
    fun k _ hgot hk => execJoinComplete_dirty hd hgot hk,
    fun hm hsw hok hst hcut hno => execJoinComplete_waits hd (State.swept_eq hm hsw hok hst hcut) hno,
    execJoinComplete_unswept hd, fun hm => ?_, fun hm => ?_⟩
  · rw [execJoinWrite_eq hd hw, wrJoin_enters hok hhb hid hst hm, State.enterJoin, State.control]
  · rw [execJoinWrite_eq hd hw, wrJoin_incompatible hok hhb hid]
  · rw [execJoinWrite_eq hd hw, wrJoin_busy hhb hid hb]
  · rw [execJoinWrite_eq hd hw, wrJoin_unheard hno]
  · rw [execJoinComplete_last hd (State.swept_eq hm hsw hok hst hcut) hgot hk, if_pos rfl, State.joined_eq hhb hu]
  · rw [execJoinTimeout_eq hd, if_pos hm, State.abandonJoin]
  · rw [execJoinTimeout_eq hd, if_neg hm]

end Sys2Proof.Machine
end

section
/-! # The disturbance recorder (R314 to R331) -/

namespace Sys2Proof.Machine
open Sys2Proof

/-! ### Taking a row -/

theorem State.count_dr (s : State) (f : Fld) : (s.count f).dr = s.dr := (congrArg State.dr (s.count_withLive f) :)

theorem LD_LATE_apart : DR_STAT_STATE.key ≠ LD_LATE.key ∧ DR_STAT_STATE.key ≠ (ovfOf LD_LATE).key := by decide

/-- The value that channel `c` takes: the body of `State.takeRow` (R315, R317). -/
def State.takeChan (late : List Nat) (s : State) (c : Nat) : State :=
  let l := late.contains c && s.get (DR_CH_SRC_TYPE c) = 3
  let v := s.chanValue l c
  let s1 := if l then s.count LD_LATE else s.used
  { s1 with dr := { s1.dr with val := kset s1.dr.val c v } }

/-- What a channel's read leaves behind, on time or late. -/
theorem lateOrUsed_rest (s : State) (l : Bool) :
    (if l then s.count LD_LATE else s.used).drState = s.drState ∧ (if l then s.count LD_LATE else s.used).dr = s.dr := by
  cases l
  · exact ⟨rfl, rfl⟩
  · exact ⟨State.get_count_ne s LD_LATE_apart.1 LD_LATE_apart.2, s.count_dr LD_LATE⟩

theorem State.takeChan_state (late : List Nat) (s : State) (c : Nat) : (s.takeChan late c).drState = s.drState :=
  (lateOrUsed_rest s (late.contains c && s.get (DR_CH_SRC_TYPE c) = 3)).1

theorem State.takeChan_rows (late : List Nat) (s : State) (c : Nat) : (s.takeChan late c).dr.rows = s.dr.rows :=
  (congrArg DrSt.rows (lateOrUsed_rest s (late.contains c && s.get (DR_CH_SRC_TYPE c) = 3)).2 :)

/-- Taking a row leaves the state of the recorder and the number of rows that entered its buffer. -/
theorem takeRow_rest (s : State) (late : List Nat) :
    (s.rowTaken.takeRow late).drState = s.drState ∧ (s.rowTaken.takeRow late).dr.rows = s.dr.rows :=
  ⟨foldl_part (π := State.drState) (State.takeChan_state late) s.rowTaken.channels s.rowTaken,
    foldl_part (π := fun t => t.dr.rows) (State.takeChan_rows late) s.rowTaken.channels s.rowTaken⟩

theorem State.drQuiet_eq (s : State) : s.drQuiet = true ↔ s.drState = drIdle ∨ s.drState = drStopped := by
  simp only [State.drQuiet, Bool.or_eq_true, decide_eq_true_eq]

theorem State.bufferFull_eq (s : State) :
    s.bufferFull = true ↔ (s.drState = drArmed ∨ s.drState = drPost) ∧ 64 ≤ s.dr.rows := by
  simp only [State.bufferFull, Bool.and_eq_true, Bool.or_eq_true, decide_eq_true_eq]

theorem drQuiet_of_recording {s : State} (h : s.drState = drArmed ∨ s.drState = drPost) : s.drQuiet = false := by
  refine Bool.eq_false_iff.mpr fun hq => ?_
  obtain hq | hq := s.drQuiet_eq.mp hq <;> obtain h | h := h <;> rw [h] at hq <;> exact absurd hq (by decide)

theorem execDrRow_none {s : State} (hr : s.running = true) (d : Bool) (late : List Nat)
    (h : s.drQuiet = true ∨ s.rowDue = false) : exec (.drRow d late) s = .next s := by
  have hno : (s.drQuiet || !s.rowDue) = true := by
    obtain h | h := h <;> simp [h]
  rw [exec_drRow, execDrRow, State.inRun_eq hr]
  exact congrArg Host.Outcome.next (if_pos hno)

theorem execDrRow_due {s u : State} (hr : s.running = true) (d : Bool) {late : List Nat} (hq : s.drQuiet = false)
    (hdue : s.rowDue = true) (hu : u = s.rowTaken.takeRow late) :
    exec (.drRow d late) s = .next (if d && u.bufferFull then u.dropRow (u.hwTrigger u.condBits).1
      else u.keepRow u.condBits (u.hwTrigger u.condBits)) := by
  subst hu
  rw [exec_drRow, execDrRow, State.inRun_eq hr]
  simp only [hq, hdue, Bool.not_true, Bool.or_self, Bool.false_eq_true, if_false]

theorem execDrRow_dropped {s u t : State} (hr : s.running = true) {late : List Nat} (hu : u = s.rowTaken.takeRow late)
    (hdue : s.rowDue = true) (hrec : s.drState = drArmed ∨ s.drState = drPost) (hrows : 64 ≤ s.dr.rows)
    (ht : t = (u.setSeg u.segNow { u.seg u.segNow with gap := true }).count ROW_DROP) :
    exec (.drRow true late) s = .next { t with dr := { t.dr with
        lost := t.dr.lost.or ((u.hwTrigger u.condBits).1.map fun c => (c, t.rowTime)) } } := by
  obtain ⟨hst, hn⟩ := takeRow_rest s late
  rw [← hu] at hst hn
  have hfull : u.bufferFull = true := u.bufferFull_eq.mpr ⟨by rwa [hst], by rwa [hn]⟩
  rw [execDrRow_due hr true (drQuiet_of_recording hrec) hdue hu, if_pos (by rw [hfull]; rfl), State.dropRow]
  simp only [← ht]

/-- A row that is kept, with its parts named (R318, R320). -/
theorem State.keepRow_eq {u v : State} {row : DrLine} {e : Option Nat} {c : Nat} (hrow : row = u.rowOf u.rowTime)
    (he : e = (u.dr.lost.map (·.1)).or (u.hwTrigger u.condBits).1)
    (hc : c = (if u.drState = drArmed ∨ u.drState = drPost then 1 else 0))
    (hv : v = { u with dr := { u.dr with
      bits := u.condBits, cond := (u.hwTrigger u.condBits).2, last := true, lost := none, rows := u.dr.rows + c } }) :
    u.keepRow u.condBits (u.hwTrigger u.condBits) =
      if v.drState = drArmed then v.armedRow row e ((u.dr.lost.map (·.2)).getD row.time)
      else if v.drState = drPost then v.postRow row e
      else v.idleRow e := by
  subst hc
  rw [State.keepRow]
  simp only [Bool.or_eq_true, decide_eq_true_eq, ← hrow, ← he, ← hv]

theorem execDrRow_kept {s u v : State} (hr : s.running = true) {d : Bool} {late : List Nat} {row : DrLine} {e : Option Nat}
    {c : Nat} (hq : s.drQuiet = false) (hdue : s.rowDue = true)
    (hroom : d = false ∨ (s.drState ≠ drArmed ∧ s.drState ≠ drPost) ∨ s.dr.rows < 64)
    (hu : u = s.rowTaken.takeRow late) (hrow : row = u.rowOf u.rowTime)
    (he : e = (u.dr.lost.map (·.1)).or (u.hwTrigger u.condBits).1)
    (hc : c = (if s.drState = drArmed ∨ s.drState = drPost then 1 else 0))
    (hv : v = { u with dr := { u.dr with
      bits := u.condBits, cond := (u.hwTrigger u.condBits).2, last := true, lost := none, rows := u.dr.rows + c } }) :
    exec (.drRow d late) s = .next (if v.drState = drArmed then v.armedRow row e ((u.dr.lost.map (·.2)).getD row.time)
      else if v.drState = drPost then v.postRow row e
      else v.idleRow e) := by
  obtain ⟨hst, hn⟩ := takeRow_rest s late
  rw [← hu] at hst hn
  have hkeep : ¬ (d && u.bufferFull) = true := by
    intro hfull
    obtain ⟨hd, hfull⟩ := (Bool.and_eq_true _ _).mp hfull
    obtain ⟨hrec, hrows⟩ := u.bufferFull_eq.mp hfull
    rw [hst] at hrec
    obtain h | ⟨ha, hp⟩ | h := hroom
    · exact Bool.false_ne_true (h.symm.trans hd)
    · exact hrec.elim ha hp
    · omega
  rw [execDrRow_due hr d hq hdue hu, if_neg hkeep, State.keepRow_eq hrow he (by rw [hst]; exact hc) hv]

/-! ### Arm, stop, trigger, release -/

theorem wrDrArm_ignored {s : State} (hq : s.drQuiet = false) : wrDrArm s = (stOk, s) := if_pos (by rw [hq]; rfl)

theorem wrDrArm_quiet {s : State} (hq : s.drQuiet = true) : wrDrArm s =
    if s.armError ≠ 0 then (stBadParam, s.put DR_STAT_ARM_ERR s.armError)
    else (stOk, (({ s with dr := { s.dr with rows := 0, base := s.rowCount } } : State).used.put DR_STAT_ARM_ERR 0).needSeg) :=
  if_neg (by rw [hq]; decide)

theorem execDrArm_eq {s : State} (hw : s.takesWrites = true) :
    exec .drArm s = .next ((wrDrArm s).2.emit (.done (wrDrArm s).1)) := by
  rw [exec_drArm, execDrArm, State.byWrite_here hw rfl]

theorem execDrStop_eq {s u : State} (hw : s.takesWrites = true)
    (hu : u = (if s.drState = drArmed then s.dropSeg s.segNow
      else if s.drState = drPost then s.closeRecord true false else s)) :
    exec .drStop s = .next ((({ u with dr := { u.dr with faults := [], soft := [] } } : State).put DR_STAT_STATE
      drIdle).emit (.done stOk)) := by
  rw [exec_drStop, execDrStop, State.byWrite_here hw rfl, wrDrStop, State.drStop]
  simp only [← hu]

theorem execDrSwtrig_eq {s : State} (hw : s.takesWrites = true) :
    exec .drSwtrig s = .next ((if s.drEvent.1 then
      { s.drEvent.2 with dr := { s.drEvent.2.dr with soft := s.drEvent.2.dr.soft ++ [s.time.word] } }
      else s.drEvent.2).emit (.done stOk)) := by
  rw [exec_drSwtrig, execDrSwtrig, State.byWrite_here hw rfl, wrSwTrig]

theorem State.drEvent_armed {s : State} (h : s.drState = drArmed) : s.drEvent = (true, s) := by
  have h : s.get DR_STAT_STATE = 1 := h
  simp only [State.drEvent, h]

theorem State.drEvent_recording {s : State} (h : s.drState = drPost ∨ s.drState = drRearm) :
    s.drEvent = (false, s.count TRG_IGN) := by
  have h : s.get DR_STAT_STATE = 2 ∨ s.get DR_STAT_STATE = 3 := h
  obtain h | h := h <;> simp only [State.drEvent, h]

theorem State.drEvent_waiting {s : State} (h : s.drState = drWaitseg) : s.drEvent = (false, s.count TRG_NOSEG) := by
  have h : s.get DR_STAT_STATE = 4 := h
  simp only [State.drEvent, h]

theorem State.drEvent_quiet {s : State} (h : s.drState = drIdle ∨ s.drState = drStopped) : s.drEvent = (false, s) := by
  have h : s.get DR_STAT_STATE = 0 ∨ s.get DR_STAT_STATE = 5 := h
  obtain h | h := h <;> simp only [State.drEvent, h]

theorem execDrRelease_eq {s : State} (hw : s.takesWrites = true) {n : Nat} (hn : n < 2 ^ 32) :
    exec (.drRelease n) s = .next ((wrDrRelease n s).2.emit (.done (wrDrRelease n s).1)) := by
  rw [exec_drRelease, execDrRelease, State.byWrite_here hw rfl, Nat.mod_eq_of_lt hn]

theorem wrDrRelease_known {s : State} {n i : Nat} (hi : s.segOfRec n = some i) :
    wrDrRelease n s = (stOk, (s.dropSeg i).wakeSeg) := by
  simp only [wrDrRelease, hi]

theorem wrDrRelease_unknown {s : State} {n : Nat} (hi : s.segOfRec n = none) : wrDrRelease n s = (stBadParam, s) := by
  simp only [wrDrRelease, hi]

/-! ### The stream -/

theorem execStreamChunk_open {s u : State} (hd : s.isDatum = true) {ecc i : Nat} {data : List Nat} {last : Bool}
    (hen : s.on DR_STREAM_EN = true) (hst : s.get SH_STAT_STAGE = 0) (hroom : s.streamRoom = true)
    (hi : s.streamSeg = some i) (hdata : data = ((s.seg i).bytes.drop s.dr.ofs).take s.chunkSize)
    (hlast : last = decide ((s.seg i).bytes.length ≤ s.dr.ofs + data.length))
    (hu : u = ((((s.put (DR_SEG_STAT_STATE i) 3).emit (.chunk (s.get DR_STREAM_PORT) (chunkBytes (s.seg i).rnum s.dr.ofs
        (last.toNat + if ecc / 65536 = 0 then 0 else 2) data))).ringChunk last).drEcc ecc)) :
    exec (.streamChunk ecc) s = .next (if last = true then u.streamEnd i
      else { u with dr := { u.dr with ofs := u.dr.ofs + data.length } }) := by
  subst hlast
  rw [exec_streamChunk, execStreamChunk, State.inDatum_eq hd]
  simp only [hi, hen, hst, hroom, Bool.not_true, ne_eq, not_true_eq_false, decide_false, Bool.or_self, Bool.false_eq_true,
    if_false, ← hdata, eccUnc, hu, decide_eq_true_eq]
  rfl

theorem execStreamChunk_none {s : State} (hd : s.isDatum = true) (ecc : Nat)
    (h : s.on DR_STREAM_EN = false ∨ s.get SH_STAT_STAGE ≠ 0 ∨ s.streamRoom = false ∨ s.streamSeg = none) :
    exec (.streamChunk ecc) s = .next s := by
  rw [exec_streamChunk, execStreamChunk, State.inDatum_eq hd]
  split
  next => rfl
  next i hi =>
    have hno : (!s.on DR_STREAM_EN || decide (s.get SH_STAT_STAGE ≠ 0) || !s.streamRoom) = true := by
      obtain h | h | h | h := h
      · simp [h]
      · simp [h]
      · simp [h]
      · rw [h] at hi
        cases hi
    exact congrArg Host.Outcome.next (if_pos hno)

/-- Settles O50, command by command. -/
theorem recorderCommandsComplete : Obligations.RecorderCommandsComplete := by
  unfold Obligations.RecorderCommandsComplete
  intro s hr
  refine ⟨fun d late h => execDrRow_none hr d late h,
    fun late u t hu hdue hrec hrows ht => execDrRow_dropped hr hu hdue hrec hrows ht,
    fun d late u v row e c hq hdue hroom hu hrow he hc hv => execDrRow_kept hr hq hdue hroom hu hrow he hc hv,
    fun hw hq => ?_, fun hw hq he => ?_, fun hw hq he => ?_, fun u hw hu => execDrStop_eq hw hu, fun hw h => ?_,
    fun hw h => ?_, fun hw h => ?_, fun hw h => ?_, fun n i hw hn hi => ?_, fun n hw hn hi => ?_,
    fun ecc i data last u hd hen hst hroom hi hdata hlast hu =>
      execStreamChunk_open hd hen hst hroom hi hdata hlast hu,
    fun ecc hd h => execStreamChunk_none hd ecc h⟩
  · rw [execDrArm_eq hw, wrDrArm_ignored hq]
  · rw [execDrArm_eq hw, wrDrArm_quiet hq, if_pos he]
  · rw [execDrArm_eq hw, wrDrArm_quiet hq, if_neg (not_not_intro he)]
  · rw [execDrSwtrig_eq hw, State.drEvent_armed h, if_pos rfl]
  · rw [execDrSwtrig_eq hw, State.drEvent_recording h]
    rfl
  · rw [execDrSwtrig_eq hw, State.drEvent_waiting h]
    rfl
  · rw [execDrSwtrig_eq hw, State.drEvent_quiet h]
    rfl
  · rw [execDrRelease_eq hw hn, wrDrRelease_known hi]
  · rw [execDrRelease_eq hw hn, wrDrRelease_unknown hi]

end Sys2Proof.Machine
end

section
/-! # The transports (R336, R337, R364, R370) -/

namespace Sys2Proof.Machine
open Sys2Proof

/-! ### A request by UDP or forwarding -/

theorem State.acceptUdp_cached {s : State} {r : Req} {c : Cached} (h : (s.mg.cache.find? fun c => c.req = r) = some c)
    (k : Packet) : s.acceptUdp r k = s.resend c := by
  simp only [State.acceptUdp, h]

section
variable {s : State} {r : Req} {k : Packet} (hc : (s.mg.cache.find? fun c => c.req = r) = none)
include hc

theorem State.acceptUdp_waiting (hw : s.mg.reqs.contains r = true) : s.acceptUdp r k = s := by
  simp only [State.acceptUdp, hc, hw, if_true]

variable (hw : s.mg.reqs.contains r = false)
include hw

theorem State.acceptUdp_long (hl : 9120 < k.params.length) : s.acceptUdp r k = s.status r stBadParam := by
  have hst : stBadParam ≠ stOk := by decide
  simp only [State.acceptUdp, hc, hw, hl, hst, ne_eq, not_false_eq_true, Bool.false_eq_true, if_false, if_true]

theorem State.acceptUdp_failed (hl : k.params.length ≤ 9120) (hst : s.packetStatus k ≠ stOk) :
    s.acceptUdp r k = s.status r (s.packetStatus k) := by
  simp only [State.acceptUdp, hc, hw, Nat.not_lt.mpr hl, hst, ne_eq, not_false_eq_true, Bool.false_eq_true, if_false, if_true]

theorem State.acceptUdp_waits (hl : k.params.length ≤ 9120) (hst : s.packetStatus k = stOk) :
    s.acceptUdp r k = { s with mg := { s.mg with
      reqs := s.mg.reqs ++ [r]
      full := if 32 ≤ (s.mg.reqs.filter fun x => x.origin.byUdp && !s.mg.full.contains x).length
        then s.mg.full ++ [r] else s.mg.full } } := by
  simp only [State.acceptUdp, hc, hw, Nat.not_lt.mpr hl, hst, ne_eq, not_true_eq_false, Bool.false_eq_true, if_false]
  split <;> rfl

end

/-! ### The configuration of queues and of the ring -/

theorem State.wrQcfg_valid {s : State} {q v : Nat} {k : QueueSt} (h2 : 2 ≤ bitsOf v 15 8) (h128 : bitsOf v 15 8 ≤ 128)
    (hk : k = { s.pq q with en := bitOf v 0, depth := bitsOf v 15 8, vec := bitsOf v 21 16 }) :
    s.wrQcfg q v = s.setPq q (if bitOf v 0 = true ∧ (s.pq q).en = false then
      { k with sqHead := 0, sqTail := 0, cqTail := 0, cqHead := 0, phase := true, waiting := [] } else k) := by
  have hno : ¬ (bitsOf v 15 8 < 2 ∨ 128 < bitsOf v 15 8) := by omega
  subst hk
  simp only [State.wrQcfg, if_neg hno, Bool.and_eq_true, Bool.not_eq_true']

theorem State.wrQcfg_invalid {s : State} {q v : Nat} (h : bitsOf v 15 8 < 2 ∨ 128 < bitsOf v 15 8) :
    s.wrQcfg q v = if bitOf v 0 = true then s else s.setPq q { s.pq q with en := false } := if_pos h

theorem State.wrStrCfg_valid {s : State} {v : Nat} {r : RingSt} (h2 : 2 ≤ bitsOf v 28 16) (hmax : bitsOf v 28 16 ≤ 4096)
    (hr : r = { s.mg.ring with cfg := bitsOf v 28 16 * 2 ^ 16 + v % 2 }) :
    s.wrStrCfg v = { s with mg := { s.mg with ring := (if bitOf v 0 = true ∧ s.mg.ring.cfg % 2 = 0 then
      { r with wr := 0, rd := 0, run := 0 } else r) } } := by
  have hno : ¬ (bitsOf v 28 16 < 2 ∨ 4096 < bitsOf v 28 16) := by omega
  subst hr
  simp only [State.wrStrCfg, if_neg hno, Bool.and_eq_true, decide_eq_true_eq]

theorem State.wrStrCfg_invalid {s : State} {v : Nat} (h : bitsOf v 28 16 < 2 ∨ 4096 < bitsOf v 28 16) :
    s.wrStrCfg v = if bitOf v 0 = true then s
      else { s with mg := { s.mg with ring := { s.mg.ring with cfg := s.mg.ring.cfg - s.mg.ring.cfg % 2 } } } := if_pos h

/-! ### UDP ports -/

section
variable {s : State} (hd : s.isDatum = true)
include hd

theorem execUdpRequest_position {c : Nat} (hc : c < 16) (src : Nat) (k : Packet) :
    exec (.udpRequest (20045 + c) src k) s = .next (if !s.cfgOn CL_CTRL_FWD_EN then s.count FWD_DROP
      else if c = s.clpos then s.acceptUdp { origin := .udp src, tag := k.tag } k else s.forward src c k) := by
  have hport : 20045 + c ≠ 20044 := by omega
  have hrange : 20045 ≤ 20045 + c ∧ 20045 + c < 20045 + 16 := by omega
  rw [exec_udpRequest, execUdpRequest, State.inDatum_eq hd]
  simp only [hport, hrange, and_self, if_false, if_true, Nat.add_left_cancel_iff, Nat.add_sub_cancel_left]

theorem execUdpRequest_local {port src : Nat} {k : Packet}
    (h : port = 20044 ∨ (s.clpos < 16 ∧ s.cfgOn CL_CTRL_FWD_EN = true ∧ port = 20045 + s.clpos)) :
    exec (.udpRequest port src k) s = .next (s.acceptUdp { origin := .udp src, tag := k.tag } k) := by
  obtain h | ⟨hpos, hen, h⟩ := h
  · rw [exec_udpRequest, execUdpRequest, State.inDatum_eq hd]
    exact congrArg Host.Outcome.next (if_pos h)
  · rw [h, execUdpRequest_position hd hpos, hen, if_pos rfl]
    rfl

theorem execUdpRequest_forwards {c src key : Nat} {k : Packet} {u : State} (hc : c < 16) (hne : c ≠ s.clpos)
    (hen : s.cfgOn CL_CTRL_FWD_EN = true) (hroute : (s.routeTo c).isSome = true) (hkey : key = src % 2 ^ 144 + 2 ^ 144 * c)
    (hu : u = (s.count FWD_CNT).sendMgmt { entry := s.clpos, dest := c, key := key, body := .request k }) :
    exec (.udpRequest (20045 + c) src k) s =
      .next { u with mg := { u.mg with fwd := u.mg.fwd.filter (· ≠ (key, k.tag)) ++ [(key, k.tag)] } } := by
  have hkey : originKey src c = key := hkey.symm
  have hsome : (s.routeTo c).isNone = false := by rw [← Option.not_isSome, hroute]; rfl
  rw [execUdpRequest_position hd hc]
  simp only [hen, hne, Bool.not_true, Bool.false_eq_true, if_false, State.forward, hsome, hkey, ← hu]

theorem execUdpRequest_dropped {c src : Nat} {k : Packet} (hc : c < 16)
    (h : s.cfgOn CL_CTRL_FWD_EN = false ∨ (c ≠ s.clpos ∧ (s.routeTo c).isNone = true)) :
    exec (.udpRequest (20045 + c) src k) s = .next (s.count FWD_DROP) := by
  rw [execUdpRequest_position hd hc]
  obtain h | ⟨hne, hnone⟩ := h
  · rw [h]
    rfl
  · simp only [hne, if_false, State.forward, hnone, if_true, ite_self]

theorem execUdpRequest_other {port : Nat} (h : port < 20044 ∨ 20060 < port) (src : Nat) (k : Packet) :
    exec (.udpRequest port src k) s = .next s := by
  have hport : port ≠ 20044 := by omega
  have hrange : ¬ (20045 ≤ port ∧ port < 20045 + 16) := by omega
  rw [exec_udpRequest, execUdpRequest, State.inDatum_eq hd]
  simp only [hport, hrange, if_false]

/-! ### Forwarding -/

theorem execMgmtForward_down {d : Nat} (h : 4 ≤ d ∨ s.lstate (17 + d) ≠ lsActive) (m : MgmtMsg) (ok : Bool) :
    exec (.mgmtForward d m ok) s = .next s := by
  have hno : (decide (4 ≤ d) || decide (s.lstate (17 + d) ≠ lsActive)) = true := by
    obtain h | h := h <;> simp [h]
  rw [exec_mgmtForward, execMgmtForward, State.inDatum_eq hd]
  exact congrArg Host.Outcome.next (if_pos hno)

section
variable {d : Nat} (hd4 : d < 4) (hl : s.lstate (17 + d) = lsActive) {m : MgmtMsg}
include hd4 hl

theorem execMgmtForward_up (ok : Bool) : exec (.mgmtForward d m ok) s = .next (if !ok then s.count CL_MSG_CRC
    else if m.dest ≠ s.clpos then s.sendMgmt m
    else match m.body with
    | .request k => s.acceptUdp { origin := .fwd m.entry m.key, tag := k.tag } k
    | .reply r => s.forwarded m.key r) := by
  have hup : ¬ (decide (4 ≤ d) || decide (s.lstate (17 + d) ≠ lsActive)) = true := by
    simp only [Nat.not_le.mpr hd4, hl, ne_eq, not_true_eq_false, decide_false, Bool.or_self, Bool.false_eq_true,
      not_false_eq_true]
  rw [exec_mgmtForward, execMgmtForward, State.inDatum_eq hd]
  exact congrArg Host.Outcome.next (if_neg hup)

theorem execMgmtForward_crc : exec (.mgmtForward d m false) s = .next (s.count CL_MSG_CRC) := by
  rw [execMgmtForward_up hd hd4 hl]
  rfl

theorem execMgmtForward_on (hdest : m.dest ≠ s.clpos) : exec (.mgmtForward d m true) s = .next (s.sendMgmt m) := by
  rw [execMgmtForward_up hd hd4 hl, Bool.not_true, if_neg Bool.false_ne_true, if_pos hdest]

theorem execMgmtForward_request {k : Packet} (hdest : m.dest = s.clpos) (hb : m.body = .request k) :
    exec (.mgmtForward d m true) s = .next (s.acceptUdp { origin := .fwd m.entry m.key, tag := k.tag } k) := by
  rw [execMgmtForward_up hd hd4 hl, Bool.not_true, if_neg Bool.false_ne_true, if_neg (not_not_intro hdest)]
  simp only [hb]

theorem execMgmtForward_reply {r : Reply} (hdest : m.dest = s.clpos) (hb : m.body = .reply r) :
    exec (.mgmtForward d m true) s = .next (s.forwarded m.key r) := by
  rw [execMgmtForward_up hd hd4 hl, Bool.not_true, if_neg Bool.false_ne_true, if_neg (not_not_intro hdest)]
  simp only [hb]

end

theorem execForwardTimeout_waited {key tag : Nat} (h : s.mg.fwd.contains (key, tag) = true) :
    exec (.forwardTimeout key tag) s =
      .next ((({ s with mg := { s.mg with fwd := s.mg.fwd.filter (· ≠ (key, tag)) } } : State).sendUdp (key % 2 ^ 144)
        { req := { origin := .udp (key % 2 ^ 144), tag := tag }, status := stTimeout, rflags := s.get FC_STAT_PENDING,
          data := [] }).count FWD_TO) := by
  rw [exec_forwardTimeout, execForwardTimeout, State.inDatum_eq hd]
  simp only [h, if_true, State.forwarded, Reply.sealed]
  rfl

theorem execForwardTimeout_none {key tag : Nat} (h : s.mg.fwd.contains (key, tag) = false) :
    exec (.forwardTimeout key tag) s = .next s := by
  rw [exec_forwardTimeout, execForwardTimeout, State.inDatum_eq hd]
  simp only [h, Bool.false_eq_true, if_false]

theorem execReplyCacheExpiry_eq (r : Req) : exec (.replyCacheExpiry r) s =
    .next { s with mg := { s.mg with cache := s.mg.cache.filter fun c => c.req ≠ r } } := by
  rw [exec_replyCacheExpiry, execReplyCacheExpiry, State.inDatum_eq hd]

/-! ### PCI Express -/

theorem execSqTailDoorbell_taken {q tail : Nat} {l : List (Nat × Nat × Packet)} (hq : q < 4) (hen : (s.pq q).en = true)
    (ht : tail < (s.pq q).depth) (hl : l.length = (tail + (s.pq q).depth - (s.pq q).sqTail) % (s.pq q).depth) :
    exec (.sqTailDoorbell q tail l) s = .next (l.foldl (fun s e => s.acceptPcie q e)
      (s.setPq q { s.pq q with sqTail := tail, sqHead := tail })) := by
  rw [exec_sqTailDoorbell, execSqTailDoorbell, State.inDatum_eq hd]
  simp only [Nat.not_le.mpr hq, hen, Nat.not_le.mpr ht, hl, ne_eq, not_true_eq_false, decide_false, Bool.not_true,
    Bool.or_self, Bool.false_eq_true, if_false]

theorem execSqTailDoorbell_ignored {q tail : Nat} {l : List (Nat × Nat × Packet)}
    (h : 4 ≤ q ∨ (s.pq q).en = false ∨ (s.pq q).depth ≤ tail ∨
      l.length ≠ (tail + (s.pq q).depth - (s.pq q).sqTail) % (s.pq q).depth) :
    exec (.sqTailDoorbell q tail l) s = .next s := by
  have hno : (decide (4 ≤ q) || !(s.pq q).en || decide ((s.pq q).depth ≤ tail) ||
      decide (l.length ≠ (tail + (s.pq q).depth - (s.pq q).sqTail) % (s.pq q).depth)) = true := by
    obtain h | h | h | h := h <;> simp [h]
  rw [exec_sqTailDoorbell, execSqTailDoorbell, State.inDatum_eq hd]
  exact congrArg Host.Outcome.next (if_pos hno)

theorem execCqHeadDoorbell_taken {q head : Nat} (hq : q < 4) (hen : (s.pq q).en = true) (hh : head < (s.pq q).depth) :
    exec (.cqHeadDoorbell q head) s = .next ((s.pq q).waiting.foldl (fun s c =>
      match c.req.origin with
      | .pcie _ rspMax rspAddr => s.complete q rspMax rspAddr c
      | _ => s) (s.setPq q { s.pq q with cqHead := head, waiting := [] })) := by
  rw [exec_cqHeadDoorbell, execCqHeadDoorbell, State.inDatum_eq hd]
  simp only [Nat.not_le.mpr hq, hen, Nat.not_le.mpr hh, decide_false, Bool.not_true, Bool.or_self, Bool.false_eq_true,
    if_false] <;> rfl

theorem execCqHeadDoorbell_ignored {q head : Nat} (h : 4 ≤ q ∨ (s.pq q).en = false ∨ (s.pq q).depth ≤ head) :
    exec (.cqHeadDoorbell q head) s = .next s := by
  have hno : (decide (4 ≤ q) || !(s.pq q).en || decide ((s.pq q).depth ≤ head)) = true := by
    obtain h | h | h := h <;> simp [h]
  rw [exec_cqHeadDoorbell, execCqHeadDoorbell, State.inDatum_eq hd]
  exact congrArg Host.Outcome.next (if_pos hno)

theorem execStreamReadIndex_eq (i : Nat) : exec (.streamReadIndex i) s =
    .next (if i < bitsOf s.mg.ring.cfg 28 16 then { s with mg := { s.mg with ring := { s.mg.ring with rd := i } } } else s) := by
  rw [exec_streamReadIndex, execStreamReadIndex, State.inDatum_eq hd]

/-! ### The attachment registers of BAR0 -/

/-- A write to register `i` of the block of queue `q`. -/
theorem execBarQueueConfig_queue {q i : Nat} (hq : q < 4) (hi : i < 8) {v : Nat} (hv : v < 2 ^ 32) :
    exec (.barQueueConfig (0x100 + 0x20 * q + 4 * i) v) s = .next (if i = 4 then s.wrQcfg q v
      else if 4 < i || (s.pq q).en then s else s.setPq q { s.pq q with base := kset (s.pq q).base i v }) := by
  have hrange : 0x100 ≤ 0x100 + 0x20 * q + 4 * i ∧ 0x100 + 0x20 * q + 4 * i < 0x180 ∧
      (0x100 + 0x20 * q + 4 * i) % 4 = 0 := by omega
  have hqi : (0x100 + 0x20 * q + 4 * i - 0x100) / 0x20 = q := by omega
  have hii : (0x100 + 0x20 * q + 4 * i - 0x100) % 0x20 / 4 = i := by omega
  rw [exec_barQueueConfig, execBarQueueConfig, State.inDatum_eq hd]
  simp only [if_pos hrange, hqi, hii, Nat.mod_eq_of_lt hv]

theorem execBarQueueConfig_ringBase {i v : Nat} (hi : i < 2) (hv : v < 2 ^ 32) :
    exec (.barQueueConfig (0x200 + 4 * i) v) s =
      .next { s with mg := { s.mg with ring := { s.mg.ring with base := kset s.mg.ring.base i v } } } := by
  have hrange : ¬ (0x100 ≤ 0x200 + 4 * i ∧ 0x200 + 4 * i < 0x180 ∧ (0x200 + 4 * i) % 4 = 0) := by omega
  have hofs : 0x200 + 4 * i = 0x200 ∨ 0x200 + 4 * i = 0x204 := by omega
  have hii : (0x200 + 4 * i - 0x200) / 4 = i := by omega
  rw [exec_barQueueConfig, execBarQueueConfig, State.inDatum_eq hd]
  simp only [if_neg hrange, if_pos hofs, hii, Nat.mod_eq_of_lt hv]

theorem execBarQueueConfig_ringCfg {v : Nat} (hv : v < 2 ^ 32) :
    exec (.barQueueConfig 0x208 v) s = .next (s.wrStrCfg v) := by
  rw [exec_barQueueConfig, execBarQueueConfig, State.inDatum_eq hd]
  simp only [Nat.mod_eq_of_lt hv]
  rfl

theorem execBarQueueConfig_vector (v : Nat) : exec (.barQueueConfig 0x20C v) s =
    .next { s with mg := { s.mg with ring := { s.mg.ring with vec := v % 2 ^ 32 % 64 } } } := by
  rw [exec_barQueueConfig, execBarQueueConfig, State.inDatum_eq hd]
  rfl

theorem execBarQueueConfig_other {ofs : Nat} (hq : ∀ q i, q < 4 → i ≤ 4 → ofs ≠ 0x100 + 0x20 * q + 4 * i)
    (h0 : ofs ≠ 0x200) (h4 : ofs ≠ 0x204) (h8 : ofs ≠ 0x208) (hc : ofs ≠ 0x20C) {v : Nat} :
    exec (.barQueueConfig ofs v) s = .next s := by
  rw [exec_barQueueConfig, execBarQueueConfig, State.inDatum_eq hd]
  by_cases hrange : 0x100 ≤ ofs ∧ ofs < 0x180 ∧ ofs % 4 = 0
  · have hi : 4 < (ofs - 0x100) % 0x20 / 4 := by
      refine Nat.lt_of_not_le fun hle => ?_
      exact hq ((ofs - 0x100) / 0x20) ((ofs - 0x100) % 0x20 / 4) (by omega) (by omega) (by omega)
    have hne : (ofs - 0x100) % 0x20 / 4 ≠ 4 := by omega
    simp only [if_pos hrange, hne, hi, if_false, decide_true, Bool.true_or, if_true]
  · simp only [if_neg hrange, h0, h4, h8, hc, or_self, if_false]

end

/-- Settles O51, row by row of the transports. -/
theorem transportCommandsComplete : Obligations.TransportCommandsComplete := by
  unfold Obligations.TransportCommandsComplete
  intro s hd
  refine ⟨fun r k => ⟨fun c hc => State.acceptUdp_cached hc k, State.acceptUdp_waiting, State.acceptUdp_long,
      State.acceptUdp_failed, State.acceptUdp_waits⟩,
    fun port src k h => execUdpRequest_local hd h,
    fun c src key k u hc hne hen hroute hkey hu => execUdpRequest_forwards hd hc hne hen hroute hkey hu,
    fun c src k hc h => execUdpRequest_dropped hd hc h, fun port src k h => execUdpRequest_other hd h src k,
    fun d m hd4 hl => execMgmtForward_crc hd hd4 hl, fun d m hd4 hl hdest => execMgmtForward_on hd hd4 hl hdest,
    fun d m k hd4 hl hdest hb => execMgmtForward_request hd hd4 hl hdest hb,
    fun d m r hd4 hl hdest hb => execMgmtForward_reply hd hd4 hl hdest hb,
    fun d m ok h => execMgmtForward_down hd h m ok, fun key tag h => execForwardTimeout_waited hd h,
    fun key tag h => execForwardTimeout_none hd h, execReplyCacheExpiry_eq hd, fun u q n a k => ?_,
    fun q tail l hq hen ht hl => execSqTailDoorbell_taken hd hq hen ht hl,
    fun q head hq hen hh => execCqHeadDoorbell_taken hd hq hen hh,
    fun q i l h => ⟨execSqTailDoorbell_ignored hd (h.imp id (Or.imp id Or.inl)), execCqHeadDoorbell_ignored hd h⟩,
    fun q tail l h => execSqTailDoorbell_ignored hd (.inr (.inr (.inr h))), execStreamReadIndex_eq hd,
    fun q v k hq hv h2 h128 hk => ?_, fun q v hq hv h => ?_, fun q i v hq hi hv => ?_, fun v r hv h2 hmax hr => ?_,
    fun v hv h => ?_, fun i v hi hv => execBarQueueConfig_ringBase hd hi hv, execBarQueueConfig_vector hd,
    fun ofs v hq h0 h4 h8 hc => execBarQueueConfig_other hd hq h0 h4 h8 hc⟩
  · simp only [State.acceptPcie, ne_eq, ite_not]
    rfl
  · rw [show 0x110 + 0x20 * q = 0x100 + 0x20 * q + 4 * 4 by omega, execBarQueueConfig_queue hd hq (by omega) hv, if_pos rfl,
      State.wrQcfg_valid h2 h128 hk]
  · rw [show 0x110 + 0x20 * q = 0x100 + 0x20 * q + 4 * 4 by omega, execBarQueueConfig_queue hd hq (by omega) hv, if_pos rfl,
      State.wrQcfg_invalid h]
  · have hne : i ≠ 4 := by omega
    have hle : ¬ 4 < i := by omega
    rw [execBarQueueConfig_queue hd hq (by omega) hv, if_neg hne]
    simp only [hle, decide_false, Bool.false_or]
  · rw [execBarQueueConfig_ringCfg hd hv, State.wrStrCfg_valid h2 hmax hr]
  · rw [execBarQueueConfig_ringCfg hd hv, State.wrStrCfg_invalid h]

end Sys2Proof.Machine
end

section
/-! # Commands of Thoka, and the opcodes that read (R333 to R346) -/

namespace Sys2Proof.Machine
open Sys2Proof

/-! ### Starting a command -/

/-- While Thoka does not run, or an earlier command of the source is to be executed, no command starts (R333). -/
theorem State.command_waits {s : State} {r : Req} (h : s.turnOf r = false) (d k v : Bool) (f : State → State) :
    s.command r d k v f = .next s := by
  simp only [State.command, State.starts, h, Bool.false_and, Bool.false_eq_true, if_false]

section
variable {s : State} {r : Req} (hs : s.starts r = true)
include hs

theorem State.command_starts (d k v : Bool) (f : State → State) : s.command r d k v f = .next (s.serve r d k v f) := by
  simp only [State.command, hs, if_true]

/-- A command that every role has, in recovery too. -/
theorem State.command_always (f : State → State) : s.command r true true true f = .next (f s.endCycle) := by
  rw [State.command_starts hs]
  simp only [State.serve, ite_self, Bool.not_true, Bool.and_false, Bool.false_eq_true, if_false]

theorem State.command_both (hrec : s.mg.fw.recovery = false) (v : Bool) (f : State → State) :
    s.command r true true v f = .next (f s.endCycle) := by
  rw [State.command_starts hs]
  simp only [State.serve, ite_self, hrec, Bool.not_true, Bool.false_and, Bool.false_eq_true, if_false]

theorem State.command_datum (hrole : s.role = .datum) (hrec : s.mg.fw.recovery = false) (k v : Bool) (f : State → State) :
    s.command r true k v f = .next (f s.endCycle) := by
  rw [State.command_starts hs]
  simp only [State.serve, hrole, hrec, if_true, Bool.not_true, Bool.false_and, Bool.false_eq_true, if_false]

theorem State.command_notInRole (hrole : s.role = .stake) (d v : Bool) (f : State → State) :
    s.command r d false v f = .next (s.status r stNotInRole) := by
  have hno : ¬ Role.stake = Role.datum := by decide
  rw [State.command_starts hs]
  simp only [State.serve, hrole, hno, if_false, Bool.not_false, if_true]

theorem State.command_recovery (hrec : s.mg.fw.recovery = true) (f : State → State) :
    s.command r true true false f = .next (s.status r stBusy) := by
  rw [State.command_starts hs]
  simp only [State.serve, ite_self, hrec, Bool.not_true, Bool.not_false, Bool.and_self, Bool.false_eq_true, if_false, if_true]

end

theorem reads_wait {s : State} {r : Req} (h : s.turnOf r = false) (n m k e : Nat) (l : List Nat) {c : Instr}
    (hc : c ∈ [Instr.nop r, .read r n m, .platRead r n m, .readWide r n, .fbRead r n m k, .drList r, .drRead r n m k e,
      .safeStatus r, .ident r, .attest r l, .imgStatus r, .netcfg r n l, .armStatus r n, .leaseStatus r, .txnStatus r n]) :
    exec c s = .next s := by
  simp only [List.mem_cons, List.not_mem_nil, or_false] at hc
  obtain h1 | h1 | h1 | h1 | h1 | h1 | h1 | h1 | h1 | h1 | h1 | h1 | h1 | h1 | h1 := hc <;> subst h1 <;>
    exact State.command_waits h _ _ _ _

theorem settings_notInRole {s : State} {r : Req} (hs : s.starts r = true) (hrole : s.role = .stake) (n : Nat) (l : List Nat)
    {c : Instr} (hc : c ∈ [Instr.netcfg r n l, .armStatus r n, .leaseStatus r, .txnStatus r n]) :
    exec c s = .next (s.status r stNotInRole) := by
  simp only [List.mem_cons, List.not_mem_nil, or_false] at hc
  obtain h1 | h1 | h1 | h1 := hc <;> subst h1 <;> exact State.command_notInRole hs hrole _ _ _

theorem reads_recovery {s : State} {r : Req} (hs : s.starts r = true) (hrec : s.mg.fw.recovery = true) (n m k e : Nat)
    (l : List Nat) {c : Instr} (hc : c ∈ [Instr.readWide r n, .fbRead r n m k, .drList r, .drRead r n m k e, .safeStatus r,
      .attest r l]) : exec c s = .next (s.status r stBusy) := by
  simp only [List.mem_cons, List.not_mem_nil, or_false] at hc
  obtain h1 | h1 | h1 | h1 | h1 | h1 := hc <;> subst h1 <;> exact State.command_recovery hs hrec _

/-! ### A request for a full queue -/

theorem State.sendUdp_cache (s : State) (src : Nat) (c : Cached) : (s.sendUdp src c).mg = s.mg := by
  unfold State.sendUdp
  split <;> rfl

theorem find_erase_none {α : Type} [DecidableEq α] {p : α → Bool} {l : List α} {a : α} (h : l.find? p = none) :
    (l.erase a).find? p = none :=
  List.find?_eq_none.mpr fun b hb => List.find?_eq_none.mp h b (List.mem_of_mem_erase hb)

/-- A reply that no earlier one of its request precedes is the one the cache gives for it (R336). -/
theorem State.remember_find {s : State} {c : Cached} (h : (s.mg.cache.find? fun e => e.req = c.req) = none) :
    ((s.remember c).mg.cache.find? fun e => e.req = c.req) = some c := by
  have hself (l : List Cached) (hl : (l.find? fun e => e.req = c.req) = none) :
      ((l ++ [c]).find? fun e => e.req = c.req) = some c := by
    rw [List.find?_append, hl]
    simp
  apply hself
  split
  · split
    · exact find_erase_none h
    · exact h
  · exact h

theorem State.status_cached {s : State} {r : Req} {src : Nat} (ho : r.origin = .udp src)
    (hc : (s.mg.cache.find? fun c => c.req = r) = none) (st : Nat) :
    ∃ c, ((s.status r st).mg.cache.find? fun c => c.req = r) = some c ∧ c.status = st := by
  obtain ⟨c, hst, hreq, u, hu, heq⟩ : ∃ c : Cached, c.status = st ∧ c.req = r ∧ ∃ u : State,
      u.mg.cache = s.mg.cache ∧ s.status r st = (u.sendUdp src c).remember c := by
    refine ⟨{ req := r, status := st, rflags := s.get FC_STAT_PENDING + 2 * Bool.toNat false, data := [] }, rfl, rfl,
      { s with mg := { s.mg with reqs := s.mg.reqs.erase r, full := s.mg.full.erase r } }, rfl, ?_⟩
    rw [State.status, State.reply, State.replyWith]
    simp only [ho]
  refine ⟨c, ?_, hst⟩
  rw [heq, ← hreq]
  apply State.remember_find
  rw [State.sendUdp_cache, hu, hreq]
  exact hc

theorem execNop_full {s : State} {r : Req} {src : Nat} (ht : s.turnOf r = true) (hf : s.mg.full.contains r = true)
    (ho : r.origin = .udp src) (hc : (s.mg.cache.find? fun c => c.req = r) = none) :
    exec (.nop r) s = .next (s.status r stQueueFull) := by
  have hs : s.starts r = false := by simp only [State.starts, ht, hf, Bool.not_true, Bool.and_false]
  obtain ⟨c, hfind, hst⟩ := State.status_cached (s := s.endCycle) (st := stOk) ho hc
  have hserve : s.serve r true true true (fun s => s.status r stOk) = s.endCycle.status r stOk := by
    simp only [State.serve, ite_self, Bool.not_true, Bool.and_false, Bool.false_eq_true, if_false]
  rw [exec_nop, execNop, State.command]
  simp only [hs, ht, Bool.false_eq_true, if_false, if_true, hserve, State.refuseFull, hfind, hst]
  rfl

/-! ### Register words -/

theorem State.readWord_register {s : State} {addr v : Nat} {xs : List FSpec} (hst : s.addrStatus addr = stOk)
    (hlo : 0x10000 ≤ addr) (hmem : inMemory addr = false) (hxs : regFields addr = some xs) (hv : v = s.wordOf xs) :
    s.readWord addr = if s.readBad addr = true then (stParity, v, s) else (stOk, v, s.clearRc xs) := by
  have hval : s.valueAt addr = v := by
    simp only [State.valueAt, if_neg (Nat.not_lt.mpr hlo), hmem, Bool.false_eq_true, if_false, hxs, hv]
  simp only [State.readWord, hst, hval, ne_eq, not_true_eq_false, if_false, Nat.not_lt.mpr hlo, hmem, decide_false,
    Bool.or_self, Bool.false_eq_true, hxs, Option.getD_some]

theorem State.wordOf_eq (s : State) (xs : List FSpec) : s.wordOf xs =
    (xs.map fun x => (if x.acc = .wo ∨ s.unusedField x.fld = true then 0
      else if x.cfg then s.shadow x.fld else s.view x.fld) % 2 ^ x.fld.width * 2 ^ x.fld.lo).sum := by
  simp only [State.wordOf, State.shows, Bool.or_eq_true, decide_eq_true_eq]

theorem State.clearRc_skip (s : State) {x : FSpec} (l : List FSpec) (h : x.acc ≠ .rc) :
    s.clearRc (x :: l) = s.clearRc l := by
  rw [State.clearRc, List.filter_cons_of_neg (by simpa using h)]
  rfl

theorem State.clearRc_one (s : State) {x : FSpec} (h : x.acc = .rc)
    (h1 : ¬ (0x20100 ≤ x.fld.addr ∧ x.fld.addr < 0x20120)) (h2 : x.fld.addr ≠ FB_MERGED.addr)
    (h3 : x.fld.addr ≠ FB_LOST.addr) : s.clearRc [x] = s.put x.fld 0 := by
  rw [State.clearRc, List.filter_cons_of_pos (by simpa using h), List.filter_nil, List.foldl_cons, List.foldl_nil,
    if_neg h1, if_neg h2, if_neg h3]

/-! ### The opcodes -/

section
variable {s t : State} {r : Req} (ht : t = s.endCycle) (hs : s.starts r = true)
include ht hs

theorem execRead_starts (addr count : Nat) : exec (.read r addr count) s =
    .next (if count = 0 ∨ 2048 < count then t.status r stBadParam
      else (t.readWords addr count).2.2.reply r (t.readWords addr count).1 (words (t.readWords addr count).2.1)) := by
  rw [exec_read, execRead, State.command_always hs, ← ht]

theorem execPlatRead_starts (ofs len : Nat) : exec (.platRead r ofs len) s =
    .next (if 8192 < len ∨ t.plat.length ≤ ofs then t.status r stBadParam
      else t.reply r stOk ((t.plat.drop ofs).take len)) := by
  rw [exec_platRead, execPlatRead, State.command_always hs, ← ht]
  simp only [Bool.or_eq_true, decide_eq_true_eq]

section
variable (hrec : s.mg.fw.recovery = false)
include hrec

theorem execReadWide_starts {item : Nat} (hi : item < 65536) :
    (∀ ws, (t.capture item).1 = some ws → exec (.readWide r item) s =
        .next ((t.capture item).2.reply r stOk (le 2 item ++ le 2 ws.length ++ words ws))) ∧
      ((t.capture item).1 = none → exec (.readWide r item) s = .next ((t.capture item).2.status r stBadParam)) := by
  refine ⟨fun ws hws => ?_, fun hnone => ?_⟩
  · rw [exec_readWide, execReadWide, State.command_both hs hrec, ← ht]
    simp only [Nat.mod_eq_of_lt hi, hws]
  · rw [exec_readWide, execReadWide, State.command_both hs hrec, ← ht]
    simp only [Nat.mod_eq_of_lt hi, hnone]

theorem execDrRead_known {rnum i : Nat} (hn : rnum < 2 ^ 32) (hi : t.segOfRec rnum = some i) (ofs len ecc : Nat) :
    exec (.drRead r rnum ofs len ecc) s =
      .next (if 8192 < len ∨ (t.seg i).bytes.length ≤ ofs then t.status r stBadParam
        else (t.drEcc ecc).reply r (if ecc / 65536 = 0 then stOk else stParity) (((t.seg i).bytes.drop ofs).take len)) := by
  rw [exec_drRead, execDrRead, State.command_both hs hrec, ← ht]
  simp only [Nat.mod_eq_of_lt hn, hi, Bool.or_eq_true, decide_eq_true_eq, eccUnc]
  rfl

theorem execDrRead_unknown {rnum : Nat} (hn : rnum < 2 ^ 32) (hi : t.segOfRec rnum = none) (ofs len ecc : Nat) :
    exec (.drRead r rnum ofs len ecc) s = .next (t.status r stBadParam) := by
  rw [exec_drRead, execDrRead, State.command_both hs hrec, ← ht]
  simp only [Nat.mod_eq_of_lt hn, hi]

variable (hrole : s.role = .datum)
include hrole

theorem execNetcfg_datum {sel : Nat} {data : List Nat} {u : State} (hu : u = (if data = [] then t
      else ({ t with mg := { t.mg with net := kset t.mg.net sel data } } : State))) :
    exec (.netcfg r sel data) s = .next (u.reply r stOk ((kget u.mg.net sel).getD [])) := by
  rw [exec_netcfg, execNetcfg, State.command_datum hs hrole hrec, ← ht]
  simp only [List.isEmpty_iff, ← hu]

theorem execTxnStatus_known {id : Nat} {x : Txn} (hx : ((t.mg.txns ++ t.mg.closed).find? fun t => t.id = id) = some x) :
    exec (.txnStatus r id) s =
      .next (t.reply r stOk ([x.state, 0] ++ le 2 x.writes.length ++ le 4 x.tick ++ le 4 x.refused)) := by
  rw [exec_txnStatus, execTxnStatus, State.command_datum hs hrole hrec, ← ht]
  simp only [hx]

theorem execTxnStatus_unknown {id : Nat} (hx : ((t.mg.txns ++ t.mg.closed).find? fun t => t.id = id) = none) :
    exec (.txnStatus r id) s = .next (t.status r stBadParam) := by
  rw [exec_txnStatus, execTxnStatus, State.command_datum hs hrole hrec, ← ht]
  simp only [hx]

end

end

/-- Settles O52, opcode by opcode. -/
theorem managementReadsComplete : Obligations.ManagementReadsComplete := by
  unfold Obligations.ManagementReadsComplete
  intro s t r ht
  refine ⟨fun h n m k e l c hc => reads_wait h n m k e l hc, fun hs hrole n l c hc => settings_notInRole hs hrole n l hc,
    fun hs hrec n m k e l c hc => reads_recovery hs hrec n m k e l hc, fun hs => ?_,
    fun src hturn hf ho hc => execNop_full hturn hf ho hc,
    fun addr xs v hst hlo hmem hxs hv => State.readWord_register hst hlo hmem hxs (hv.trans (s.wordOf_eq xs).symm),
    fun x l h => s.clearRc_skip l h, fun x h h1 h2 h3 => s.clearRc_one h h1 h2 h3,
    fun addr count hs => execRead_starts ht hs addr count, fun ofs len hs => execPlatRead_starts ht hs ofs len,
    fun hs => ?_, fun hs => ?_, fun item hw hr hi => ?_, fun hs hrec => ⟨fun item hi => execReadWide_starts ht hs hrec hi,
      fun space count first recs hrecs => ?_, ?_, fun rnum ofs len ecc i hn hi => execDrRead_known ht hs hrec hn hi ofs len ecc,
      fun rnum ofs len ecc hn hi => execDrRead_unknown ht hs hrec hn hi ofs len ecc, ?_, fun nonce => ?_, fun hrole =>
      ⟨fun sel data u hu => execNetcfg_datum ht hs hrec hrole hu, fun a => ?_, ?_,
        fun id x hx => execTxnStatus_known ht hs hrec hrole hx, fun id hx => execTxnStatus_unknown ht hs hrec hrole hx⟩⟩⟩
  · rw [exec_nop, execNop, State.command_always hs, ← ht]
  · rw [exec_ident, execIdent, State.command_always hs, ← ht]
  · rw [exec_imgStatus, execImgStatus, State.command_always hs, ← ht]
  · rw [exec_mbReqWrite, execMbReqWrite, State.byWrite_here hw rfl, Nat.mod_eq_of_lt hi, wrMbReq]
  · subst hrecs
    rw [exec_fbRead, execFbRead, State.command_both hs hrec, ← ht]
  · rw [exec_drList, execDrList, State.command_both hs hrec, ← ht, State.segments]
  · rw [exec_safeStatus, execSafeStatus, State.command_both hs hrec, ← ht]
  · rw [exec_attest, execAttest, State.command_both hs hrec, ← ht]
  · rw [exec_armStatus, execArmStatus, State.command_datum hs hrole hrec, ← ht]
    rfl
  · rw [exec_leaseStatus, execLeaseStatus, State.command_datum hs hrole hrec, ← ht]
    rfl

end Sys2Proof.Machine
end

section
/-! # Transactions in a Datum (R346 to R349) -/

namespace Sys2Proof.Machine
open Sys2Proof

theorem State.isDatum_of_starts {s : State} {r : Req} (hs : s.starts r = true) (hrole : s.role = .datum) :
    s.isDatum = true := by
  simp only [State.starts, State.turnOf, State.thokaRuns, Bool.and_eq_true] at hs
  obtain ⟨⟨⟨⟨⟨hr, _⟩, _⟩, _⟩, _⟩, _⟩ := hs
  exact State.isDatum_of hr hrole

theorem txnOpcodes_notInRole {s : State} {r : Req} (hs : s.starts r = true) (hrole : s.role = .stake) (n m : Nat) (b : Bool)
    (g : Target) {c : Instr} (hc : c ∈ [Instr.txnBegin r n g, .txnPrepare r n, .txnCommit r n b m, .txnRollback r n]) :
    exec c s = .next (s.status r stNotInRole) := by
  simp only [List.mem_cons, List.not_mem_nil, or_false] at hc
  obtain h1 | h1 | h1 | h1 := hc <;> subst h1 <;> exact State.command_notInRole hs hrole _ _ _

section
variable {s t : State} {r : Req} (ht : t = s.endCycle) (hs : s.starts r = true) (hrec : s.mg.fw.recovery = false)
  (hrole : s.role = .datum)
include ht hs hrec hrole

/-! ### Begin and write -/

theorem execTxnBegin_eq (scope : Nat) (g : Target) : exec (.txnBegin r scope g) s =
    .next (if 2 ≤ scope ∨ (scope = 1 ∧ (g.legal = false ∨ g.mode = 2)) then t.status r stBadParam
      else if 8 ≤ t.mg.txns.length then t.status r stBusy
      else ({ t with mg := { t.mg with
        txnNext := nextTxid t.mg.txnNext, txns := t.mg.txns ++ [{ id := t.mg.txnNext, scope := scope, target := g }]
          } } : State).reply r stOk (le 2 t.mg.txnNext ++ [0, 0])) := by
  rw [exec_txnBegin, execTxnBegin, State.command_datum hs hrole hrec, ← ht]
  simp only [Bool.or_eq_true, Bool.and_eq_true, decide_eq_true_eq, Bool.not_eq_true']

theorem execWrite_txn {id addr : Nat} {ws : List Nat} {q : Nat × Nat × State} (hq : q = t.txnWrites id addr ws) :
    exec (.write r (some id) addr ws) s =
      .next (if ws = [] ∨ 2048 < ws.length then t.status r stBadParam else q.2.2.reply r q.1 (le 4 q.2.1)) := by
  have htr : t.role = .datum := by rw [ht]; exact hrole
  rw [exec_write, execWrite, State.command_datum hs hrole hrec, ← ht]
  simp only [htr, ne_eq, not_true_eq_false, decide_false, Bool.and_false, Bool.or_false, Bool.or_eq_true, List.isEmpty_iff,
    decide_eq_true_eq, hq]

theorem execModify_txn {id addr mask v : Nat} {q : Nat × Nat × State} (hq : q = t.txnModify id addr mask v) :
    exec (.modify r (some id) addr mask v) s = .next (q.2.2.reply r q.1 (if q.1 = stOk then le 4 q.2.1 else [])) := by
  have htr : t.role = .datum := by rw [ht]; exact hrole
  rw [exec_modify, execModify, State.command_datum hs hrole hrec, ← ht]
  simp only [htr, ne_eq, not_true_eq_false, decide_false, Bool.and_false, Bool.false_eq_true, if_false, hq]

/-! ### Commands on a transaction -/

theorem State.onTxn_none {id : Nat} (hx : t.txn id = none) (f : State → Txn → State) :
    s.onTxn r id f = .next (t.status r stBadParam) := by
  rw [State.onTxn, State.command_datum hs hrole hrec, ← ht]
  simp only [hx]

theorem State.onTxn_some {id : Nat} {x : Txn} (hx : t.txn id = some x) (f : State → Txn → State) :
    s.onTxn r id f = .next (f t x) := by
  rw [State.onTxn, State.command_datum hs hrole hrec, ← ht]
  simp only [hx]

theorem txn_unknown {id : Nat} (hx : t.txn id = none) (b : Bool) (k : Nat) :
    exec (.txnPrepare r id) s = .next (t.status r stBadParam) ∧
      exec (.txnCommit r id b k) s = .next (t.status r stBadParam) ∧
      exec (.txnRollback r id) s = .next (t.status r stBadParam) :=
  ⟨(exec_txnPrepare r id s).trans (State.onTxn_none ht hs hrec hrole hx _),
    (exec_txnCommit r id b k s).trans (State.onTxn_none ht hs hrec hrole hx _),
    (exec_txnRollback r id s).trans (State.onTxn_none ht hs hrec hrole hx _)⟩

section
variable {id : Nat} {x : Txn} (hx : t.txn id = some x)
include hx

/-! ### A local transaction (R348) -/

theorem execTxnPrepare_local (h0 : x.scope = 0) :
    exec (.txnPrepare r id) s = .next (if t.writesLocked x.writes = true then t.status r stLocked
      else if x.state ≠ txOpen then t.status r stBusy
      else (t.setTxn { x with refused := t.checkWrites x.writes }).reply r stOk (le 4 (t.checkWrites x.writes))) := by
  rw [exec_txnPrepare, execTxnPrepare, State.onTxn_some ht hs hrec hrole hx, if_pos h0]

theorem execTxnCommit_local (h0 : x.scope = 0) (imm : Bool) (k : Nat) :
    exec (.txnCommit r id imm k) s = .next (
      if t.checkWrites x.writes ≠ 0 ∨ (imm = false ∧ t.on TB_STAT_TICK_RUN = true ∧
        t.ticksAhead k (t.get TXN_CFG_LEAD) = false) then t.status r stBadParam
      else if t.writesLocked x.writes = true then t.status r stLocked
      else if x.state ≠ txOpen then t.status r stBusy
      else if imm = true then (t.applyTxn x).status r stOk
      else if t.on TB_STAT_TICK_RUN = false then t.status r stBusy
      else (t.setTxn { x with state := txCommitted, tick := k % 2 ^ 32 }).status r stOk) := by
  rw [exec_txnCommit, execTxnCommit, State.onTxn_some ht hs hrec hrole hx, if_pos h0, State.commitLocal]
  simp only [State.tooSoon, Bool.or_eq_true, Bool.and_eq_true, decide_eq_true_eq, Bool.not_eq_true']

theorem execTxnRollback_local (h0 : x.scope = 0) :
    exec (.txnRollback r id) s = .next (if x.state = txCommitted then t.status r stBusy
      else ((t.closeTxn x txRolledBack).count TXN_ROLLBACKS).status r stOk) := by
  have hok : ¬ stOk = stBadParam := by decide
  rw [exec_txnRollback, execTxnRollback, State.onTxn_some ht hs hrec hrole hx]
  simp only [h0, if_true, hok, if_false]

/-! ### A Stake-scope transaction (R349) -/

theorem execTxnPrepare_stakes (h1 : x.scope = 1) {p : List Nat} (hp : p = sprepPacket x 0) :
    exec (.txnPrepare r id) s = .next (if t.relayCheck x.target p = stBadParam then t.status r stBadParam
      else if x.state = txFailed ∨ x.state = txCommitted then t.status r stBusy
      else if t.relayCheck x.target p ≠ stOk then t.status r (t.relayCheck x.target p)
      else t.relayStart (some r) (.sprep id 1) x.target p) := by
  subst hp
  have h0 : x.scope ≠ 0 := by omega
  rw [exec_txnPrepare, execTxnPrepare, State.onTxn_some ht hs hrec hrole hx, if_neg h0]
  by_cases hbad : t.relayCheck x.target (sprepPacket x 0) = stBadParam
  · simp only [hbad, if_true]
  · simp only [hbad, if_false, Bool.or_eq_true, decide_eq_true_eq]

theorem execTxnCommit_immediate (h1 : x.scope = 1) (k : Nat) :
    exec (.txnCommit r id true k) s = .next (t.status r stBadParam) := by
  have h0 : x.scope ≠ 0 := by omega
  rw [exec_txnCommit, execTxnCommit, State.onTxn_some ht hs hrec hrole hx, if_neg h0, State.commitStakes]
  rfl

theorem execTxnCommit_stakes (h1 : x.scope = 1) {k : Nat} {y : Txn}
    (hy : y = { x with state := txCommitted, tick := k % 2 ^ 32, got := [], req := some r }) :
    exec (.txnCommit r id false k) s = .next (
      if (t.on TB_STAT_TICK_RUN = true ∧ t.ticksAhead k (t.get TXN_CFG_SLEAD) = false) ∨
        t.relayCheck x.target (scommitPacket y) = stBadParam then t.status r stBadParam
      else if x.state ≠ txPrepared ∨ t.on TB_STAT_TICK_RUN = false then t.status r stBusy
      else if t.relayCheck x.target (scommitPacket y) ≠ stOk then t.status r (t.relayCheck x.target (scommitPacket y))
      else (t.setTxn y).relayStart none (.scommit x.id) x.target (scommitPacket y)) := by
  have h0 : x.scope ≠ 0 := by omega
  rw [exec_txnCommit, execTxnCommit, State.onTxn_some ht hs hrec hrole hx, if_neg h0, State.commitStakes]
  simp only [← hy, State.tooSoon, Bool.false_or, Bool.or_eq_true, Bool.and_eq_true, decide_eq_true_eq, Bool.not_eq_true']

theorem execTxnRollback_stakes (h1 : x.scope = 1) {z : List Nat} (hz : z = sabortPacket x) :
    exec (.txnRollback r id) s = .next (if t.relayCheck x.target z = stBadParam then t.status r stBadParam
      else if x.state = txCommitted then t.status r stBusy
      else if t.relayCheck x.target z ≠ stOk then t.status r (t.relayCheck x.target z)
      else ((t.closeTxn x txRolledBack).count TXN_ROLLBACKS).relayStart (some r) (.sabort id) x.target z) := by
  subst hz
  have h0 : ¬ x.scope = 0 := by omega
  rw [exec_txnRollback, execTxnRollback, State.onTxn_some ht hs hrec hrole hx]
  by_cases hbad : t.relayCheck x.target (sabortPacket x) = stBadParam
  · simp only [h0, if_false, hbad, if_true]
  · simp only [h0, if_false, hbad]

end

end

/-! ### Without a command -/

/-- The local transactions of the next tick whose loop data is still to be written. -/
theorem State.dueTxns_unwritten (s : State) (k : Nat) : ((s.dueTxns k).filter fun t => !t.loopDone) =
    s.mg.txns.filter fun t => t.scope = 0 && t.state = txCommitted && t.tick = k % 2 ^ 32 && !t.loopDone := by
  rw [State.dueTxns, List.filter_filter]
  exact List.filter_congr fun t _ => Bool.and_comm _ _

section
variable {s : State} (hd : s.isDatum = true)
include hd

theorem execTxnIdleExpiry_none {id : Nat} (hx : s.txn id = none) : exec (.txnIdleExpiry id) s = .next s := by
  rw [exec_txnIdleExpiry, execTxnIdleExpiry, State.inDatum_eq hd]
  simp only [hx]

theorem execTxnIdleExpiry_some {id : Nat} {x : Txn} (hx : s.txn id = some x) :
    exec (.txnIdleExpiry id) s = .next (if x.state = txCommitted then s
      else if x.scope = 0 then (s.closeTxn x txRolledBack).count TXN_EXPIRED
      else ((s.closeTxn x txRolledBack).count TXN_EXPIRED).relayStart none (.sabort id) x.target (sabortPacket x)) := by
  rw [exec_txnIdleExpiry, execTxnIdleExpiry, State.inDatum_eq hd]
  simp only [hx]

theorem execTxnTickApply_run (hrun : s.on TB_STAT_TICK_RUN = true) (hst : s.tb.started = true) (hcut : s.tb.cutDone = true) :
    exec .txnTickApply s = .next ((s.mg.txns.filter fun t => t.scope = 0 && t.state = txCommitted &&
      t.tick = (s.tb.tick + 1) % 2 ^ 32 && !t.loopDone).foldl
        (fun s t => (s.loopWrites t.writes).setTxn { t with loopDone := true }) s) := by
  rw [exec_txnTickApply, execTxnTickApply, State.inDatum_eq hd]
  simp only [hrun, hst, hcut, Bool.and_self, if_true]
  rw [State.dueTxns_unwritten]

theorem execTxnTickApply_idle (h : s.on TB_STAT_TICK_RUN = false ∨ s.tb.started = false ∨ s.tb.cutDone = false) :
    exec .txnTickApply s = .next s := by
  have hno : ¬ (s.on TB_STAT_TICK_RUN && s.tb.started && s.tb.cutDone) = true := by
    obtain h | h | h := h <;> simp [h]
  rw [exec_txnTickApply, execTxnTickApply, State.inDatum_eq hd]
  simp only [hno, Bool.false_eq_true, if_false]

theorem execTxnCommitComplete_run (hrun : s.on TB_STAT_TICK_RUN = true) (hst : s.tb.started = true) :
    exec .txnCommitComplete s = .next ((s.mg.txns.filter fun t => t.scope = 1 && t.state = txCommitted &&
      s.reached t.tick).foldl (fun s t => s.commitEnd (s.gatherCommit t)) s) := by
  rw [exec_txnCommitComplete, execTxnCommitComplete, State.inDatum_eq hd]
  simp only [hrun, hst, Bool.and_self, if_true]

theorem execTxnCommitComplete_idle (h : s.on TB_STAT_TICK_RUN = false ∨ s.tb.started = false) :
    exec .txnCommitComplete s = .next s := by
  have hno : ¬ (s.on TB_STAT_TICK_RUN && s.tb.started) = true := by
    obtain h | h := h <;> simp [h]
  rw [exec_txnCommitComplete, execTxnCommitComplete, State.inDatum_eq hd]
  simp only [hno, Bool.false_eq_true, if_false]

end

/-- Settles O54, opcode by opcode. -/
theorem transactionsOfADatumComplete : Obligations.TransactionsOfADatumComplete := by
  unfold Obligations.TransactionsOfADatumComplete
  intro s t r ht hs
  refine ⟨fun hrole n m b g c hc => txnOpcodes_notInRole hs hrole n m b g hc, fun hrec hrole =>
    ⟨execTxnBegin_eq ht hs hrec hrole, fun id addr ws q hq => execWrite_txn ht hs hrec hrole hq,
      fun id addr mask v q hq => execModify_txn ht hs hrec hrole hq, fun id b k hx => txn_unknown ht hs hrec hrole hx b k,
      fun id x hx h0 => ⟨execTxnPrepare_local ht hs hrec hrole hx h0, execTxnCommit_local ht hs hrec hrole hx h0,
        execTxnRollback_local ht hs hrec hrole hx h0⟩,
      fun id x p y z k hx h1 hp hz hy => ⟨execTxnPrepare_stakes ht hs hrec hrole hx h1 hp,
        execTxnCommit_immediate ht hs hrec hrole hx h1 k, execTxnCommit_stakes ht hs hrec hrole hx h1 hy,
        execTxnRollback_stakes ht hs hrec hrole hx h1 hz⟩⟩, fun hrole => ?_⟩
  have hd := State.isDatum_of_starts hs hrole
  exact ⟨fun id hx => execTxnIdleExpiry_none hd hx, fun id x hx => execTxnIdleExpiry_some hd hx,
    fun hrun hst => ⟨execTxnTickApply_run hd hrun hst, fun hcut => execTxnTickApply_idle hd (.inr (.inr hcut)),
      execTxnCommitComplete_run hd hrun hst⟩,
    fun h => ⟨execTxnTickApply_idle hd (h.imp id .inl), execTxnCommitComplete_idle hd h⟩⟩

end Sys2Proof.Machine
end

section
/-! # Relays, chain scans and adoption (R335, R354, R355) -/

namespace Sys2Proof.Machine
open Sys2Proof

theorem relayOpcodes_notInRole {s : State} {r : Req} (hs : s.starts r = true) (hrole : s.role = .stake) (n : Nat) (g : Target)
    (k : Packet) {c : Instr} (hc : c ∈ [Instr.relay r g k, .chainScan r n, .relayFlush r n]) :
    exec c s = .next (s.status r stNotInRole) := by
  simp only [List.mem_cons, List.not_mem_nil, or_false] at hc
  obtain h1 | h1 | h1 := hc <;> subst h1 <;> exact State.command_notInRole hs hrole _ _ _

/-! ### Commands of a Datum -/

section
variable {s t : State} {r : Req} (ht : t = s.endCycle) (hs : s.starts r = true) (hrec : s.mg.fw.recovery = false)
  (hrole : s.role = .datum)
include ht hs hrec hrole

theorem execRelay_eq (g : Target) (k : Packet) : exec (.relay r g k) s =
    .next (if g.portList = [] then t.status r stBadParam
      else if t.relayCheck g k.bytes ≠ stOk then t.status r (t.relayCheck g k.bytes)
      else t.relayStart (some r) .relay g k.bytes) := by
  rw [exec_relay, execRelay, State.command_datum hs hrole hrec, ← ht]
  by_cases hports : g.portList = []
  · simp only [hports, List.isEmpty_nil, if_true]
    rfl
  · simp only [List.isEmpty_iff, hports, if_false]

theorem execChainScan_eq (p : Nat) : exec (.chainScan r p) s = .next (if 16 ≤ p then t.status r stBadParam
    else if t.relayRoom p = false then t.status r stQueueFull
    else ({ t with mg := { t.mg with scans := kset t.mg.scans p [] } } : State).scanHop (some r) p 0) := by
  rw [exec_chainScan, execChainScan, State.command_datum hs hrole hrec, ← ht]
  simp only [Bool.not_eq_true']

theorem execRelayFlush_eq (ports : Nat) : exec (.relayFlush r ports) s =
    .next (((t.flushPorts ((List.range 16).filter (bitOf ports))).settleRelays).status r stOk) := by
  rw [exec_relayFlush, execRelayFlush, State.command_datum hs hrole hrec, ← ht]

theorem execAdopt_datum (b : Bool) {p slot a idx m : Nat} {k : List Nat}
    (hk : k = adoptPacket false p slot a idx (t.tableAt p slot)) : exec (.adopt r b p slot a idx m) s =
    .next (if 16 ≤ p ∨ 64 ≤ slot ∨ 6 ≤ a ∨ 1024 ≤ idx ∨ t.indexTaken p slot a idx = true then t.status r stBadParam
      else if t.relayLimit p < 16 + k.length then t.status r stBadParam
      else if (((kget t.mg.scans p).getD []).any fun h => h.slot = slot) = true ∨ t.breaksOrder p slot m = true then
        t.status r stBusy
      else if t.relayRoom p = false then t.status r stQueueFull
      else t.relayStart (some r) (.adopt p slot a idx m) (byMonument p m) k) := by
  subst hk
  have htr : t.role = .datum := by rw [ht]; exact hrole
  rw [exec_adopt, execAdopt, State.command_datum hs hrole hrec, ← ht, if_pos htr, State.adoptDatum]
  simp only [Bool.or_eq_true, decide_eq_true_eq, Bool.not_eq_true', or_assoc]

end

/-! ### Adoption in a Stake -/

theorem execAdopt_notWaited {s : State} {r : Req} (hs : s.starts r = true) (hrole : s.role = .stake)
    (hw : s.adoptWaits r = false) (b : Bool) (p i a x m : Nat) :
    exec (.adopt r b p i a x m) s = .next (s.status r stNotInRole) := by
  rw [exec_adopt, execAdopt, hw]
  exact State.command_notInRole hs hrole _ _ _

theorem execAdopt_recovery {s : State} {r : Req} (hs : s.starts r = true) (hrec : s.mg.fw.recovery = true)
    (h : s.role = .datum ∨ (s.role = .stake ∧ s.adoptWaits r = true)) (b : Bool) (p i a x m : Nat) :
    exec (.adopt r b p i a x m) s = .next (s.status r stBusy) := by
  have hserved : (if s.role = .datum then true else s.adoptWaits r) = true := by
    obtain h | ⟨_, h⟩ := h <;> simp [h]
  rw [exec_adopt, execAdopt, State.command_starts hs]
  simp only [State.serve, hserved, hrec, Bool.not_true, Bool.not_false, Bool.and_self, Bool.false_eq_true, if_false, if_true]

section
variable {s t : State} {r : Req} (ht : t = s.endCycle) (hs : s.starts r = true) (hrec : s.mg.fw.recovery = false)
  (hrole : s.role = .stake) (hw : s.adoptWaits r = true)
include ht hs hrec hrole hw

theorem execAdopt_stake (b : Bool) (p slot a idx old : Nat) :
    exec (.adopt r b p slot a idx old) s = .next (t.adoptStake r b p slot a idx old).tryDeblock := by
  have htr : t.role ≠ .datum := by rw [ht]; exact fun h => absurd (hrole.symm.trans h) (by decide)
  have hno : ¬ Role.stake = Role.datum := by decide
  rw [exec_adopt, execAdopt, State.command_starts hs]
  simp only [State.serve, hrole, hno, hw, hrec, if_false, Bool.not_true, Bool.false_and, Bool.false_eq_true, ← ht, htr]

theorem execAdopt_confirms {p slot a idx old : Nat} {same : Bool} (hsame : same = t.mg.mine.any (fun m => m.2 = (slot, a, idx))) :
    exec (.adopt r true p slot a idx old) s =
      .next (if 16 ≤ p ∨ 64 ≤ slot ∨ 6 ≤ a ∨ 1024 ≤ idx ∨ same = false then t.status r stBadParam
        else ((t.showAdopted slot a idx).endManual).status r stOk).tryDeblock := by
  rw [execAdopt_stake ht hs hrec hrole hw, State.adoptStake]
  simp only [← hsame, if_true, Bool.or_eq_true, decide_eq_true_eq, or_assoc]
  by_cases hrange : 16 ≤ p ∨ 64 ≤ slot ∨ 6 ≤ a ∨ 1024 ≤ idx
  · have hany : 16 ≤ p ∨ 64 ≤ slot ∨ 6 ≤ a ∨ 1024 ≤ idx ∨ same = false := by
      simpa only [or_assoc] using Or.inl (b := same = false) hrange
    rw [if_pos hrange, if_pos hany]
  · have hsplit : (16 ≤ p ∨ 64 ≤ slot ∨ 6 ≤ a ∨ 1024 ≤ idx ∨ same = false) ↔ same = false := by
      simp only [not_or] at hrange
      simp only [hrange, false_or]
    rw [if_neg hrange]
    cases same
    · rw [if_neg Bool.false_ne_true, if_pos (hsplit.mpr rfl)]
    · rw [if_pos rfl, if_neg fun h => Bool.noConfusion (hsplit.mp h)]

theorem execAdopt_adopts {p slot a idx old : Nat} {same : Bool} {u : State}
    (hsame : same = t.mg.mine.any (fun m => m.2 = (slot, a, idx)))
    (hu : u = { t with mg := { t.mg with mine := some (reqDatum r, slot, a, idx) } }) :
    exec (.adopt r false p slot a idx old) s =
      .next (if 16 ≤ p ∨ 64 ≤ slot ∨ 6 ≤ a ∨ 1024 ≤ idx then t.status r stBadParam
        else if t.on LVL_SIDX_ADOPTED = true then t.status r (if same = true then stOk else stBusy)
        else (((u.showAdopted slot a idx).endManual).adoptEvent u.monument old p slot a).status r stOk).tryDeblock := by
  subst hu
  rw [execAdopt_stake ht hs hrec hrole hw, State.adoptStake]
  simp only [← hsame, Bool.false_eq_true, if_false, Bool.or_eq_true, decide_eq_true_eq, or_assoc]

end

/-! ### Without a command -/

theorem execAdoptionScan_eq {s : State} {r : Req} (hs : s.starts r = true) (hrole : s.role = .datum) (p : Nat) :
    exec (.adoptionScan p) s = .next (if p < 16 ∧ s.lstate p = lsActive then
      ({ s with mg := { s.mg with scans := kset s.mg.scans p [] } } : State).scanHop none p 0 else s) := by
  have hruns : s.thokaRuns = true := by
    simp only [State.starts, State.turnOf, Bool.and_eq_true] at hs
    exact hs.1.1
  rw [exec_adoptionScan, execAdoptionScan, State.inDatum_eq (State.isDatum_of_starts hs hrole)]
  simp only [hruns, Bool.and_true, Bool.and_eq_true, decide_eq_true_eq]

/-- Settles O56, command by command. -/
theorem relaysAndAdoptionComplete : Obligations.RelaysAndAdoptionComplete := by
  unfold Obligations.RelaysAndAdoptionComplete
  intro s t r ht hs
  refine ⟨fun hrole n g k c hc => relayOpcodes_notInRole hs hrole n g k hc,
    fun hrole hw b p i a x m => execAdopt_notWaited hs hrole hw b p i a x m,
    fun hrec h b p i a x m => execAdopt_recovery hs hrec h b p i a x m, fun hrec hrole =>
    ⟨execRelay_eq ht hs hrec hrole, execChainScan_eq ht hs hrec hrole, execRelayFlush_eq ht hs hrec hrole,
      fun b p slot a idx m k hk => execAdopt_datum ht hs hrec hrole b hk⟩,
    fun hrole => ⟨execAdoptionScan_eq hs hrole, fun id => ?_⟩, fun hrec hrole hw p slot a idx old u same hsame hu =>
    ⟨execAdopt_confirms ht hs hrec hrole hw hsame, execAdopt_adopts ht hs hrec hrole hw hsame hu⟩⟩
  rw [exec_relayReplyTimeout, execRelayReplyTimeout, State.inDatum_eq (State.isDatum_of_starts hs hrole)]

end Sys2Proof.Machine
end

section
/-! # Images (R356 to R359, R373) -/

namespace Sys2Proof.Machine
open Sys2Proof

/-! ### Loading -/

section
variable {s t : State} {r : Req} (ht : t = s.endCycle) (hs : s.starts r = true)
include ht hs

theorem execImgOpen_none {target : Nat} (hi : t.imgTarget target = none) (len : Nat) :
    exec (.imgOpen r target len) s = .next (t.status r stBadParam) := by
  rw [exec_imgOpen, execImgOpen, State.command_always hs, ← ht]
  simp only [hi]

theorem execImgOpen_some {target len i : Nat} {u : State} (hi : t.imgTarget target = some i)
    (hu : u = (if 2 ≤ i then t.idleWritten else t).setImage i { len := len }) : exec (.imgOpen r target len) s =
      .next (if len < 64 ∨ (2 ≤ i ∧ 64 + bankSize < len) then t.status r stBadParam
        else if t.imgBusy i = true then t.status r stBusy
        else (u.setFw { u.mg.fw with opened := some i }).status r stOk) := by
  rw [exec_imgOpen, execImgOpen, State.command_always hs, ← ht]
  simp only [hi, Bool.or_eq_true, Bool.and_eq_true, decide_eq_true_eq, ← hu]

theorem image_notOpen (ho : t.mg.fw.opened = none) (ofs : Nat) (bs : List Nat) :
    exec (.imgData r ofs bs) s = .next (t.status r stBusy) ∧ exec (.imgCheck r) s = .next (t.status r stBusy) := by
  refine ⟨?_, ?_⟩
  · rw [exec_imgData, execImgData, State.command_always hs, ← ht]
    simp only [ho]
  · rw [exec_imgCheck, execImgCheck, State.command_always hs, ← ht]
    simp only [ho]

theorem execImgData_open {i : Nat} (ho : t.mg.fw.opened = some i) (ofs : Nat) (bs : List Nat) :
    exec (.imgData r ofs bs) s = .next (if (t.image i).len < ofs + bs.length then t.status r stBadParam
      else if t.imgBusy i = true then t.status r stBusy else (t.imgStore i ofs bs).status r stOk) := by
  rw [exec_imgData, execImgData, State.command_always hs, ← ht]
  simp only [ho]

theorem execImgCheck_open {i : Nat} {u : State} {data : List Nat} (ho : t.mg.fw.opened = some i)
    (hu : u = t.used.setImage i { t.image i with checked := true })
    (hdata : data = (t.image i).man ++ le 4 (t.free (2 ^ 32 - 1))) :
    exec (.imgCheck r) s = .next (if t.imgBusy i = true then t.status r stBusy
      else if t.imageSound i = true ∧ t.imageCovers i = true then
        (if 2 ≤ i then u.put LE_BANK_IDLE_OK 1 else u).reply r stOk data
      else ((t.used.raise 196).event 5 (2 ^ 88)).reply r stIncompatible data) := by
  rw [exec_imgCheck, execImgCheck, State.command_always hs, ← ht]
  simp only [ho, Bool.and_eq_true, ← hu, ← hdata, State.refuseImage]

theorem execImgActivate_eq {target i : Nat} {u v w : State} (hi : i = 1 - t.mg.fw.active) (hu : u = t.status r stOk)
    (hv : v = u.notStarted.foldl (fun s q => s.status q stBusy) u) (hw : w = { v with mg := { v.mg with cache := [] } }) :
    exec (.imgActivate r target) s = .next (if target ≠ 0 then t.status r stBadParam
      else if t.mg.fw.state = 2 ∨ t.commitWaits = true ∨ (t.image i).checked = false then t.status r stBusy
      else if t.imageSound i = false ∨ t.imageCovers i = false then
        ((t.raise 196).event 5 (2 ^ 88)).status r stIncompatible
      else ((w.setFw { w.mg.fw with
        state := 3, active := i, recovery := false, started := false, opened := none }).put
          SYS_RSTCAUSE_KIND 3).event 5 0) := by
  subst hi hw hv hu
  rw [exec_imgActivate, execImgActivate, State.command_always hs, ← ht]
  simp only [State.idleSlot, Bool.or_eq_true, decide_eq_true_eq, Bool.not_eq_true', Bool.and_eq_false_iff, or_assoc,
    State.refuseImage]

end

/-! ### Trial and boot -/

section
variable {s : State} (hr : s.running = true)
include hr

theorem execFirmwareConfirm_eq : exec .firmwareConfirm s =
    .next (if (s.mg.fw.state = 2 ∨ s.mg.fw.state = 3) ∧ s.thokaRuns = true then
      s.setFw { s.mg.fw with state := 1 } else s) := by
  rw [exec_firmwareConfirm, execFirmwareConfirm, State.inRun_eq hr]
  simp only [State.inTrial, Bool.and_eq_true, Bool.or_eq_true, decide_eq_true_eq]

theorem execTrialTimeout_eq (crashed : Bool) {u : State} (hu : u = (s.setFw { s.mg.fw with
      state := 0, active := 1 - s.mg.fw.active, started := false, opened := none }).raise 197) :
    exec (.trialTimeout crashed) s = .next (if (s.mg.fw.state = 2 ∨ s.mg.fw.state = 3) ∧
      (crashed = true ∨ s.get SH_STAT_STAGE < 2) then u else s) := by
  subst hu
  rw [exec_trialTimeout, execTrialTimeout, State.inRun_eq hr]
  simp only [State.inTrial, Bool.and_eq_true, Bool.or_eq_true, decide_eq_true_eq, State.revert, State.idleSlot]

theorem execBootImageCheck_done (h a b : List Nat)
    (hdone : s.mg.fw.started = true ∨ s.mg.fw.recovery = true ∨ (s.mg.fw.state ≠ 0 ∧ s.mg.fw.state ≠ 3)) :
    exec (.bootImageCheck h a b) s = .next s := by
  have hno : (s.mg.fw.started || s.mg.fw.recovery || !(decide (s.mg.fw.state = 0) || decide (s.mg.fw.state = 3))) = true := by
    obtain h | h | ⟨h0, h3⟩ := hdone
    · simp [h]
    · simp [h]
    · simp [h0, h3]
  rw [exec_bootImageCheck, execBootImageCheck, State.inRun_eq hr]
  exact congrArg Host.Outcome.next (if_pos hno)

section
variable {h a b : List Nat} {u : State} {i : Nat} {bytes : Nat → List Nat} (hst : s.mg.fw.started = false)
  (hrec : s.mg.fw.recovery = false) (hbytes : bytes = (fun j => if j = 0 then a else b))
  (hu : u = (s.setImage 0 { s.image 0 with bytes := a, len := a.length }).setImage 1
    { s.image 1 with bytes := b, len := b.length })
include hst hrec hbytes hu

theorem execBootImageCheck_new (h3 : s.mg.fw.state = 3) (hi : i = s.mg.fw.active) : exec (.bootImageCheck h a b) s =
    .next (if u.bootOk (bytes i) = true then u.startSlot i else u.revert) := by
  have hno : ¬ (3 : Nat) = 0 := by decide
  subst hi hbytes hu
  rw [exec_bootImageCheck, execBootImageCheck, State.inRun_eq hr]
  simp only [hst, hrec, h3, hno, decide_false, decide_true, Bool.or_true, Bool.or_self, Bool.not_true, Bool.and_false,
    Bool.false_eq_true, if_false, if_true]

theorem execBootImageCheck_boot (h0 : s.mg.fw.state = 0)
    (hi : i = (if s.mg.fw.load = true then h.getD 7 0 % 2 else s.mg.fw.active)) : exec (.bootImageCheck h a b) s =
    .next (if bootHeaderOk h = false then (u.setFw { u.mg.fw with recovery := true }).raise 27
      else if u.bootOk (bytes i) = true then u.startSlot i
      else if u.bootOk (bytes (1 - i)) = true then (u.startSlot (1 - i)).raise 26
      else (u.setFw { u.mg.fw with recovery := true }).raise 27) := by
  have hno : ¬ (0 : Nat) = 3 := by decide
  subst hi hbytes hu
  rw [exec_bootImageCheck, execBootImageCheck, State.inRun_eq hr]
  simp only [hst, hrec, h0, hno, decide_false, decide_true, Bool.or_false, Bool.not_true, Bool.and_true,
    Bool.false_eq_true, if_false, Bool.not_eq_true']

end

end

/-- Settles O57, opcode by opcode. -/
theorem imagesComplete : Obligations.ImagesComplete := by
  unfold Obligations.ImagesComplete
  intro s t r ht
  exact ⟨fun hs => ⟨fun target len hi => execImgOpen_none ht hs hi len,
      fun target len i u hi hu => execImgOpen_some ht hs hi hu, fun ofs bs ho => image_notOpen ht hs ho ofs bs,
      fun ofs bs i ho => execImgData_open ht hs ho ofs bs, fun i u data ho hu hdata => execImgCheck_open ht hs ho hu hdata,
      fun target i u v w hi hu hv hw => execImgActivate_eq ht hs hi hu hv hw⟩,
    fun hr => ⟨execFirmwareConfirm_eq hr, fun crashed u hu => execTrialTimeout_eq hr crashed hu,
      fun h a b hdone => execBootImageCheck_done hr h a b hdone, fun h a b u i bytes hst hrec hbytes hu =>
      ⟨execBootImageCheck_new hr hst hrec hbytes hu, execBootImageCheck_boot hr hst hrec hbytes hu⟩⟩⟩

end Sys2Proof.Machine
end

section
/-! # The Datums of a cluster (R43, R364 to R369) -/

namespace Sys2Proof.Machine
open Sys2Proof

section
variable {s : State} (hd : s.isDatum = true)
include hd

theorem baselineDown_ignored {d : Nat} (h : 4 ≤ d ∨ s.lstate (17 + d) ≠ lsActive) (m : TickAlign) (at' tk : Nat)
    (ws : List (Nat × Nat)) (ok : Bool) :
    exec (.tickalignReceive d m at' ok) s = .next s ∧ exec (.varsReceive d tk ws ok) s = .next s := by
  have hno : (decide (4 ≤ d) || decide (s.lstate (17 + d) ≠ lsActive)) = true := by
    obtain h | h := h <;> simp [h]
  refine ⟨?_, ?_⟩
  · rw [exec_tickalignReceive, execTickalignReceive, State.inDatum_eq hd]
    exact congrArg Host.Outcome.next (if_pos hno)
  · rw [exec_varsReceive, execVarsReceive, State.inDatum_eq hd]
    exact congrArg Host.Outcome.next (if_pos hno)

section
variable {d : Nat} (hd4 : d < 4) (hl : s.lstate (17 + d) = lsActive)
include hd4 hl

theorem baselineCrc_counted (m : TickAlign) (at' tk : Nat) (ws : List (Nat × Nat)) :
    exec (.tickalignReceive d m at' false) s = .next (s.count CL_MSG_CRC) ∧
      exec (.varsReceive d tk ws false) s = .next (s.count CL_MSG_CRC) := by
  refine ⟨?_, ?_⟩
  · rw [exec_tickalignReceive, execTickalignReceive, State.inDatum_eq hd]
    simp only [Nat.not_le.mpr hd4, hl, ne_eq, not_true_eq_false, decide_false, Bool.or_self, Bool.not_false,
      Bool.false_eq_true, if_false, if_true]
  · rw [exec_varsReceive, execVarsReceive, State.inDatum_eq hd]
    simp only [Nat.not_le.mpr hd4, hl, ne_eq, not_true_eq_false, decide_false, Bool.or_self, Bool.not_false,
      Bool.false_eq_true, if_false, if_true]

/-- What a good TICKALIGN does once the neighbour has been noted (R365). -/
def State.heardAlign (u : State) (d : Nat) (m : TickAlign) (x : Int) : State :=
  if u.clpos = 0 then u
  else match u.parent with
  | some (q, depth, good) => if q = d then u.acceptAlign d depth good m x else u
  | none => u

theorem execTickalignReceive_good {m : TickAlign} {at' : Nat} {x : Int} {u : State}
    (hx : x = (at' : Int) - m.txofs - s.get (CL_BL_LINKDLY_VAL d))
    (hu : u = { s with cl := { s.cl with nb := kset s.cl.nb d { msg := m, start := x.toNat } } }) :
    exec (.tickalignReceive d m at' true) s = .next (u.heardAlign d m x) := by
  subst hu hx
  rw [exec_tickalignReceive, execTickalignReceive, State.inDatum_eq hd]
  simp only [Nat.not_le.mpr hd4, hl, ne_eq, not_true_eq_false, decide_false, Bool.or_self, Bool.not_true,
    Bool.false_eq_true, if_false]
  rfl

theorem execVarsReceive_good {tk base : Nat} {ws : List (Nat × Nat)}
    (hb : base = loopDataBase + s.cfg (CL_VRX_ADDR d) / 128 * 128) : exec (.varsReceive d tk ws true) s =
    .next (if tk % 2 ^ 32 = s.tb.tick % 2 ^ 32 then
      ((ws.filter fun e => e.1 < 32).foldl (fun s e => s.setMemWord (base + 4 * e.1) e.2) s).routeEvent (12 + d)
      else s.count VAR_STALE) := by
  subst hb
  rw [exec_varsReceive, execVarsReceive, State.inDatum_eq hd]
  simp only [Nat.not_le.mpr hd4, hl, ne_eq, not_true_eq_false, decide_false, Bool.or_self, Bool.not_true,
    Bool.false_eq_true, if_false, ite_not]

end

theorem execAlignmentLoss_eq : exec .alignmentLoss s =
    .next (if s.clpos ≠ 0 ∧ s.on CL_STAT_ALIGNED = true ∧ 8 ≤ s.cl.quiet then
      (s.put CL_STAT_ALIGNED 0).raise 24 else s) := by
  rw [exec_alignmentLoss, execAlignmentLoss, State.inDatum_eq hd]
  simp only [Bool.and_eq_true, decide_eq_true_eq, and_assoc]

theorem execFollowerRephase_due {x start k j : Nat} (hx : s.cl.rephase = some (x, k)) (hstart : start = x / 32)
    (hj : j = (if s.now < start ∨ s.tb.period = 0 then 0 else (s.now - start) / s.tb.period + 1)) :
    exec .followerRephase s = .next { s with
      cl := { s.cl with rephase := none },
      tb := { s.tb with
        nextStart := start + j * s.tb.period, nextSub := x % 32, nextTick := (k + j) % 2 ^ 64, markDue := true } } := by
  subst hj hstart
  rw [exec_followerRephase, execFollowerRephase, State.inDatum_eq hd]
  simp only [hx, Bool.or_eq_true, decide_eq_true_eq]

theorem execFollowerRephase_none (hx : s.cl.rephase = none) : exec .followerRephase s = .next s := by
  rw [exec_followerRephase, execFollowerRephase, State.inDatum_eq hd]
  simp only [hx]

end

theorem State.heardAlign_benchmark {u : State} (h : u.clpos = 0) (d : Nat) (m : TickAlign) (x : Int) :
    u.heardAlign d m x = u := if_pos h

theorem State.heardAlign_orphan {u : State} (h : u.clpos ≠ 0) (hp : u.parent = none) (d : Nat) (m : TickAlign) (x : Int) :
    u.heardAlign d m x = u := by
  rw [State.heardAlign, if_neg h, hp]

theorem State.heardAlign_follower {u : State} {e depth : Nat} {good : Bool} (h : u.clpos ≠ 0)
    (hp : u.parent = some (e, depth, good)) (d : Nat) (m : TickAlign) (x : Int) :
    u.heardAlign d m x = if e = d then u.acceptAlign d depth good m x else u := by
  rw [State.heardAlign, if_neg h, hp]

/-- Settles O58, message by message. -/
theorem clusterCommandsComplete : Obligations.ClusterCommandsComplete := by
  unfold Obligations.ClusterCommandsComplete
  intro s hd
  refine ⟨fun d m at' tk ws ok h => baselineDown_ignored hd h m at' tk ws ok,
    fun d m at' tk ws hd4 hl => baselineCrc_counted hd hd4 hl m at' tk ws, fun d m at' x u hd4 hl hx hu => ?_,
    execAlignmentLoss_eq hd, fun x start k j hx hstart hj => execFollowerRephase_due hd hx hstart hj,
    execFollowerRephase_none hd, fun d tk ws base hd4 hl hb => execVarsReceive_good hd hd4 hl hb⟩
  have hgood := execTickalignReceive_good hd hd4 hl hx hu
  have hpos : u.clpos = s.clpos := by rw [hu]
  rw [← hpos, hgood]
  exact ⟨fun h => by rw [State.heardAlign_benchmark h], fun h hp => by rw [State.heardAlign_orphan h hp],
    fun e depth good h hp => by rw [State.heardAlign_follower h hp]⟩

end Sys2Proof.Machine
end

section
/-! # Resets (R1, R2, R372, R379, R381, R386) -/

namespace Sys2Proof.Machine
open Sys2Proof

/-! ### Into reset -/

/-- The registers of the retention domain, kept over a reset of power (R372, R381). -/
def State.retain (s o : State) : State := ((s.keep o FB_TAILHEAD_SEQ).keep o SH_S4).keep o SH_S4_OVF

/-- What a reset of power leaves beside the registers (R372, R381). -/
structure State.Retains (s t : State) (ph : Phase) : Prop where
  phase : t.phase = ph
  pending : t.pending = s.pending
  mem : t.mem = State.reset.mem
  tail : t.fb.tail = s.fb.tail
  mark : t.gs.mark = s.gs.mark
  image : t.mg.fw.image = s.mg.fw.image.filter (·.1 < 2)
  active : t.mg.fw.active = s.mg.fw.active
  table : t.mg.table = s.mg.table
  mine : t.mg.mine = s.mg.mine

theorem powerReset_eq (s : State) (ph : Phase) : ∃ s1 : State, s1.live = [] ∧ s.Retains s1 ph ∧
    s.powerReset ph = if ph = .porn then s1.retain s else (s1.retain s).keep s SH_STAT_S4_LAST := by
  unfold State.powerReset
  extract_lets o r g f m w s1 s2
  have hkeep (t : State) (k : Fld) : t.keep o k = t.keep s k := rfl
  have hs2 : s2 = s1.retain s := by
    rw [State.retain, ← hkeep, ← hkeep, ← hkeep]
  exact ⟨s1, rfl, ⟨rfl, rfl, rfl, rfl, rfl, rfl, rfl, rfl, rfl⟩, by rw [hs2, hkeep]⟩

theorem State.Retains.put {s t : State} {ph : Phase} (h : s.Retains t ph) (f : Fld) (v : Nat) : s.Retains (t.put f v) ph :=
  ⟨h.phase, h.pending, h.mem, h.tail, h.mark, h.image, h.active, h.table, h.mine⟩

theorem State.Retains.retain {s t : State} {ph : Phase} (h : s.Retains t ph) (o : State) : s.Retains (t.retain o) ph :=
  ((h.put _ _).put _ _).put _ _

theorem powerReset_retains (s : State) (ph : Phase) : s.Retains (s.powerReset ph) ph := by
  obtain ⟨s1, _, h1, heq⟩ := powerReset_eq s ph
  rw [heq]
  split
  · exact h1.retain s
  · exact (h1.retain s).put _ _

theorem retained_apart : FB_TAILHEAD_SEQ.key ≠ SH_S4.key ∧ FB_TAILHEAD_SEQ.key ≠ SH_S4_OVF.key ∧
    FB_TAILHEAD_SEQ.key ≠ SH_STAT_S4_LAST.key ∧ SH_S4.key ≠ SH_S4_OVF.key ∧ SH_S4.key ≠ SH_STAT_S4_LAST.key ∧
    SH_STAT_S4_LAST.key ≠ FB_TAILHEAD_SEQ.key ∧ SH_STAT_S4_LAST.key ≠ SH_S4.key ∧ SH_STAT_S4_LAST.key ≠ SH_S4_OVF.key := by
  decide

section
variable (s o : State)

theorem State.retain_tailhead : (s.retain o).get FB_TAILHEAD_SEQ = o.get FB_TAILHEAD_SEQ % 2 ^ 32 := by
  obtain ⟨h1, h2, _⟩ := retained_apart
  rw [State.retain, State.keep, State.get_put_ne _ _ _ _ h2, State.keep, State.get_put_ne _ _ _ _ h1, State.keep,
    State.get_put_self]
  rfl

theorem State.retain_s4 : (s.retain o).get SH_S4 = o.get SH_S4 % 2 ^ 31 := by
  obtain ⟨_, _, _, h, _⟩ := retained_apart
  rw [State.retain, State.keep, State.get_put_ne _ _ _ _ h, State.keep, State.get_put_self]
  rfl

theorem State.retain_other {f : Fld} (h1 : f.key ≠ FB_TAILHEAD_SEQ.key) (h2 : f.key ≠ SH_S4.key)
    (h3 : f.key ≠ SH_S4_OVF.key) : (s.retain o).get f = s.get f := by
  rw [State.retain, State.keep, State.get_put_ne _ _ _ _ h3, State.keep, State.get_put_ne _ _ _ _ h2, State.keep,
    State.get_put_ne _ _ _ _ h1]

end

theorem State.get_of_noLive {s : State} (h : s.live = []) (f : Fld) : s.get f = f.reset := by
  rw [State.get, h]
  rfl

/-- A register other than S4_LAST reads after a reset of power as it does among the retained ones. -/
theorem powerReset_get (s : State) (ph : Phase) : ∃ s1 : State, s1.live = [] ∧
    (∀ f : Fld, f.key ≠ SH_STAT_S4_LAST.key → (s.powerReset ph).get f = (s1.retain s).get f) ∧
    (ph = .porn → (s.powerReset ph).get SH_STAT_S4_LAST = (s1.retain s).get SH_STAT_S4_LAST) := by
  obtain ⟨s1, hl, _, heq⟩ := powerReset_eq s ph
  refine ⟨s1, hl, fun f hf => ?_, fun hp => by rw [heq, if_pos hp]⟩
  rw [heq]
  split
  · rfl
  · rw [State.keep, State.get_put_ne _ _ _ _ hf]

theorem powerReset_registers (s : State) (ph : Phase) :
    (s.powerReset ph).get FB_TAILHEAD_SEQ = s.get FB_TAILHEAD_SEQ % 2 ^ 32 ∧
      (s.powerReset ph).get SH_S4 = s.get SH_S4 % 2 ^ 31 ∧
      (∀ f : Fld, f.key ≠ FB_TAILHEAD_SEQ.key → f.key ≠ SH_S4.key → f.key ≠ SH_S4_OVF.key →
        f.key ≠ SH_STAT_S4_LAST.key → (s.powerReset ph).get f = f.reset) ∧
      (ph = .porn → (s.powerReset ph).get SH_STAT_S4_LAST = SH_STAT_S4_LAST.reset) := by
  obtain ⟨_, _, htail, _, hs4, h1, h2, h3⟩ := retained_apart
  obtain ⟨s1, hl, hget, hporn⟩ := powerReset_get s ph
  refine ⟨?_, ?_, fun f hf1 hf2 hf3 hf4 => ?_, fun hp => ?_⟩
  · rw [hget _ htail, State.retain_tailhead]
  · rw [hget _ hs4, State.retain_s4]
  · rw [hget f hf4, State.retain_other s1 s hf1 hf2 hf3, State.get_of_noLive hl]
  · rw [hporn hp, State.retain_other s1 s h1 h2 h3, State.get_of_noLive hl]

theorem execSupplyReset_eq (s : State) : exec .supplyReset s =
    .next (if s.phase = .porn ∨ s.phase = .shed then { s with gs := { s.gs with bypf := false } }
      else if s.running = true ∧ s.get SH_STAT_STAGE = 4 then ((s.count SH_S4).powerReset .shed).put SH_STAT_S4_LAST 1
      else s.powerReset .supply) := by
  rw [exec_supplyReset, execSupplyReset]
  simp only [Bool.or_eq_true, Bool.and_eq_true, decide_eq_true_eq, State.shedReset]

theorem execShedResetEntry_eq {s : State} (hr : s.running = true) : exec .shedResetEntry s = .next (
    if s.get SH_STAT_STAGE = 4 ∧ s.fb.cycle.any FbRec.ofS4 = false ∧ (s.fb.queue.any fun e => e.rcd.ofS4) = false ∧
      (s.gs.byp = .idle ∨ s.gs.byp = .released) then
      ((s.count SH_S4).powerReset .shed).put SH_STAT_S4_LAST 1 else s) := by
  rw [exec_shedResetEntry, execShedResetEntry, State.inRun_eq hr]
  simp only [Bool.and_eq_true, Bool.or_eq_true, decide_eq_true_eq, Bool.not_eq_true', and_assoc, State.shedReset]

/-! ### Out of reset -/

theorem execResetRelease_held {s : State} (h : s.phase = .porn ∨ s.phase = .supply) (st m i : Nat) :
    exec (.resetRelease st m i) s = .next (s.release st m i) := by
  have hheld : (decide (s.phase = .porn) || decide (s.phase = .supply)) = true := by
    obtain h | h := h <;> simp [h]
  rw [exec_resetRelease, execResetRelease, if_pos hheld]

theorem execResetRelease_other {s : State} (hp : s.phase ≠ .porn) (hs : s.phase ≠ .supply) (st m i : Nat) :
    exec (.resetRelease st m i) s = .next s := by
  rw [exec_resetRelease, execResetRelease]
  simp only [hp, hs, decide_false, Bool.or_self, Bool.false_eq_true, if_false]

theorem takeStraps_phase (s : State) (st m : Nat) :
    (s.takeStraps st m).phase = if (s.takeStraps st m).role = .reserved then .roleHold else .run := by
  unfold State.takeStraps
  rfl

section
variable {s : State} {st : Nat} (m i : Nat)

theorem release_stake (h : st % 4 = 0) :
    (s.takeStraps st m).role = .stake ∧ s.release st m i = (s.takeStraps st m).takeRetained.startStake := by
  have hrole : (s.takeStraps st m).role = .stake := by simp only [State.takeStraps_role, roleOf, h, if_true]
  refine ⟨hrole, ?_⟩
  simp only [State.release, hrole]

theorem release_datum (h : st % 4 = 1) :
    (s.takeStraps st m).role = .datum ∧ s.release st m i = (s.takeStraps st m).takeRetained.startDatum i := by
  have hrole : (s.takeStraps st m).role = .datum := by simp only [State.takeStraps_role, roleOf, h, if_true, Nat.one_ne_zero, if_false]
  refine ⟨hrole, ?_⟩
  simp only [State.release, hrole]

theorem release_reserved (h : 2 ≤ st % 4) :
    (s.takeStraps st m).phase = .roleHold ∧ s.release st m i = s.takeStraps st m := by
  have hrole : (s.takeStraps st m).role = .reserved := by
    have h23 : st % 4 = 2 ∨ st % 4 = 3 := by omega
    rw [State.takeStraps_role, roleOf]
    obtain h | h := h23 <;> rw [h] <;> rfl
  refine ⟨?_, ?_⟩
  · rw [takeStraps_phase, if_pos hrole]
  · simp only [State.release, hrole]

end

/-- Settles O59, reset by reset. -/
theorem resetsComplete : Obligations.ResetsComplete := by
  unfold Obligations.ResetsComplete
  intro s
  refine ⟨rfl, execSupplyReset_eq s, fun ph t ht => ?_, fun st m i u hph hu => ?_, fun u => rfl,
    fun st m i hp hs => execResetRelease_other hp hs st m i, execShedResetEntry_eq, fun st i u hph hu => ?_,
    fun st i hph => ?_, rfl⟩
  · subst ht
    obtain ⟨hphase, hpend, hmem, htail, hmark, himg, hact, htab, hmine⟩ := powerReset_retains s ph
    exact ⟨hphase, hpend, hmem, htail, hmark, himg, hact, htab, hmine, powerReset_registers s ph⟩
  · subst hu
    rw [execResetRelease_held hph]
    refine ⟨fun h => ?_, fun h => ?_, fun h => ?_⟩
    · obtain ⟨hrole, hrel⟩ := release_stake (s := s) m i h
      exact ⟨hrole, by rw [hrel]⟩
    · obtain ⟨hrole, hrel⟩ := release_datum (s := s) m i h
      exact ⟨hrole, by rw [hrel]⟩
    · obtain ⟨hhold, hrel⟩ := release_reserved (s := s) m i h
      exact ⟨hhold, by rw [hrel]⟩
  · subst hu
    rw [exec_shedResetRelease, execShedResetRelease, if_pos hph]
  · rw [exec_shedResetRelease, execShedResetRelease, if_neg hph]

end Sys2Proof.Machine
end

section
/-! # Supplies, temperature, shedding and the watchdog (R301, R377 to R392) -/

namespace Sys2Proof.Machine
open Sys2Proof

section
variable {s : State} (hr : s.running = true)
include hr

theorem execRailFault_eq (i : Nat) : exec (.railFault i) s = .next (if i < 8 ∧ bitOf (s.get SH_STAT_RAIL) i = false then
    (s.put SH_STAT_RAIL (setBitOf (s.get SH_STAT_RAIL) i)).raise (5 + i) else s) := by
  rw [exec_railFault, execRailFault, State.inRun_eq hr]
  simp only [Bool.and_eq_true, decide_eq_true_eq, Bool.not_eq_true']

theorem execRailReturn_eq (i : Nat) : exec (.railReturn i) s =
    .next (if i < 8 then s.put SH_STAT_RAIL (clrBitOf (s.get SH_STAT_RAIL) i) else s) := by
  rw [exec_railReturn, execRailReturn, State.inRun_eq hr]

theorem execTjMeasure_eq (tj : Nat) {w : Int} (hw : w = 16 * toSigned 8 (s.cfg SH_TEMP_WARN)) : exec (.tjMeasure tj) s =
    .next (((s.put SH_MEAS_TJ tj).tempSource 14 (toSigned 16 tj) w).tempSource 15 (toSigned 16 tj) (16 * 122)) := by
  subst hw
  rw [exec_tjMeasure, execTjMeasure, State.inRun_eq hr]

/-! ### Shedding -/

theorem execShedStageRise_eq {n mv r : Nat} (hrise : r = min n (s.stageFor mv) - s.get SH_STAT_STAGE) :
    exec (.shedStageRise ⟨n, mv⟩) s =
      .next (if r = 0 then s.showHolding mv else iter (fun u => u.nextStage mv) r s) := by
  subst hrise
  rw [exec_shedStageRise, execShedStageRise, State.inRun_eq hr]

theorem execShedStageFall_none (h : s.get SH_STAT_STAGE = 0 ∨ 4 ≤ s.get SH_STAT_STAGE) (mv : Nat) :
    exec (.shedStageFall mv) s = .next s := by
  have hno : (decide (s.get SH_STAT_STAGE = 0) || decide (4 ≤ s.get SH_STAT_STAGE)) = true := by
    obtain h | h := h <;> simp [h]
  rw [exec_shedStageFall, execShedStageFall, State.inRun_eq hr]
  exact congrArg Host.Outcome.next (if_pos hno)

theorem execShedStageFall_stage {mv g : Nat} {u : State} (hst : s.get SH_STAT_STAGE = g + 1) (hg : g < 3)
    (hu : u = (s.setStage g mv false).showHolding mv) : exec (.shedStageFall mv) s =
      .next (if mv < s.cfg (SH_LVL_LEVEL g) + s.cfg SH_CFG_HYST then s.showHolding mv
        else if g = 0 then u.drShedFall else if g = 2 ∧ u.role = .stake then u.updPblk.refollow else u) := by
  subst hu
  have hin : (decide (g + 1 = 0) || decide (4 ≤ g + 1)) = false := by
    simp only [Nat.add_eq_zero_iff, Nat.one_ne_zero, and_false, decide_false, Bool.false_or, decide_eq_false_iff_not]
    omega
  have h1 : (g + 1 = 1) = (g = 0) := by simp
  have h3 : (g + 1 = 3) = (g = 2) := by simp
  rw [exec_shedStageFall, execShedStageFall, State.inRun_eq hr]
  simp only [hst, hin, Bool.false_eq_true, if_false, State.backLevel, Nat.add_sub_cancel, h1, h3, Bool.and_eq_true,
    decide_eq_true_eq]

theorem execWatchdogExpiry_eq {u : State} (hu : u = (s.put FC_STAT_WD_EXP 1).raise 0) : exec .watchdogExpiry s = .next (
    if s.on WD_CFG_EN = false ∨ s.on FC_STAT_WD_EXP = true ∨ 2 ≤ s.get SH_STAT_STAGE then s
    else if u.on WD_CFG_RST_EN = true then (u.put SYS_RSTCAUSE_KIND 2).processorReset else u) := by
  subst hu
  rw [exec_watchdogExpiry, execWatchdogExpiry, State.inRun_eq hr]
  simp only [Bool.or_eq_true, decide_eq_true_eq, Bool.not_eq_true', or_assoc]

end

/-- Each level that VAUXS falls through, from the stage that it finds (R383 to R387). -/
theorem State.nextStage_cases {v u : State} (mv : Nat) (hu : u = v.put SH_STAT_HOLDING 0) :
    (u.get SH_STAT_STAGE = 0 → v.nextStage mv = ((u.setStage 1 mv false).raise 28).drShedRise) ∧
      (u.get SH_STAT_STAGE = 1 → v.nextStage mv = (u.setStage 2 mv false).raise 29) ∧
      (u.get SH_STAT_STAGE = 2 → v.nextStage mv = (u.setStage 3 mv false).enterS3) ∧
      (u.get SH_STAT_STAGE = 3 → v.nextStage mv = u.enterS4 mv) := by
  subst hu
  exact ⟨fun h => by simp only [State.nextStage, h], fun h => by simp only [State.nextStage, h],
    fun h => by simp only [State.nextStage, h], fun h => by simp only [State.nextStage, h]⟩

/-- Settles O60, command by command. -/
theorem suppliesAndSheddingComplete : Obligations.SuppliesAndSheddingComplete := by
  unfold Obligations.SuppliesAndSheddingComplete
  intro s hr
  refine ⟨execRailFault_eq hr, execRailReturn_eq hr, fun tj w hw => execTjMeasure_eq hr tj hw, fun u src t level => rfl,
    fun n mv r hrise => execShedStageRise_eq hr hrise, fun mv v u hu => State.nextStage_cases mv hu,
    fun mv h => execShedStageFall_none hr h mv, fun mv g u hst hg hu => execShedStageFall_stage hr hst hg hu,
    fun mv g hg => ?_, fun u hu => execWatchdogExpiry_eq hr hu⟩
  subst hg
  rfl

end Sys2Proof.Machine
end
